-- ==== Sys2Proof/Word.lean ====
section
/-!
DEFINITION. Word.lean: the word types of the device (R1, R2).
-/

namespace Sys2Proof

/-- A 32-bit register or word; bit 31 is the most significant (R1). -/
abbrev Word := BitVec 32

/-- A byte, as the buses and the memory windows carry it (R2). -/
abbrev Byte := BitVec 8

end Sys2Proof
end

