-- ==== Sys2Proof/Syntax.lean ====
section
/-!
DEFINITION. Syntax.lean: the commands the device takes, one constructor per row of spec/opcode_table.json, in the order of
the table, with the quantities the rules name as coming from outside the step as operands.
-/

namespace Sys2Proof

/-- How a host bus transaction that writes ends (R419, R420): its PEC, or what makes it malformed. -/
inductive WriteEnd
  /-- STOP after the last data byte, no PEC -/
  | noPec
  /-- a byte follows the last data byte before STOP: the PEC -/
  | pec (b : Byte)
  /-- a byte beyond the count and the PEC -/
  | extraByte
  /-- STOP inside a byte or before the declared length -/
  | short
  /-- a read address byte follows a write-only command -/
  | wrongDirection
  deriving DecidableEq, Repr

/-- How a host bus transaction that reads ends (R419, R420, R426, R447). -/
inductive ReadEnd
  /-- not acknowledged after the last data byte, then STOP -/
  | noPec
  /-- the PEC was read and is right, then STOP -/
  | withPec
  /-- bytes were read after the PEC -/
  | extraByte
  /-- STOP before the declared length -/
  | short
  /-- a write follows where a read is due -/
  | wrongDirection
  deriving DecidableEq, Repr

/-- Who makes an access of the register bus (R404, R423, R60). -/
inductive Writer
  | host | firmware | ring | jtag
  deriving DecidableEq, Repr

/-- The unlock operations of the JTAG mailbox (R456). -/
inductive Mailbox
  | challenge (nonce : List Byte)
  | response (bytes : List Byte)
  | unlockPw (bytes : List Byte)
  deriving DecidableEq, Repr

/-- What waits for a zero crossing (R86, R133): a context's switch gain or the gain of a port's transmit slot. -/
inductive ZcTarget
  | ctx (n : Fin 128)
  | portTx (n : Fin 4) (slot : Fin 16)
  deriving DecidableEq, Repr

/-- A frame at a port's pins (R84, R91): its received words, the bit clocks between its frame starts, its period in
491.52 MHz cycles (UQ16.8), its IEC errors and validity bits, and the owner sample periods that end with it (the DSP
reads and writes one frame in each). -/
structure PortFrame where
  words : List Word
  bits : Nat
  period : Nat
  parityErr0 : Bool
  parityErr1 : Bool
  preambleErr : Bool
  invalid0 : Bool
  invalid1 : Bool
  dspReads : Nat
  deriving DecidableEq, Repr

/-- The header of a ring frame (R100). -/
structure RingHeader where
  j : Word
  pos : BitVec 16
  acc : BitVec 16
  rlen : BitVec 16
  ctrl : Byte
  align : Byte
  crc : Byte
  deriving DecidableEq, Repr

/-- A ring frame without its biscuit area (R100): the header, the two slot areas with their CRC-32 words. -/
structure RingFrame where
  header : RingHeader
  first : List Word
  firstCrc : Word
  second : List Word
  secondCrc : Word
  deriving DecidableEq, Repr

/-- A word of a memory as it was read (R159): its word address (32-bit words of SRAM, 64-bit words of DRAM), its data, the code
stored with it. -/
structure MemRead where
  word : BitVec 23
  data : BitVec 64
  code : BitVec 8
  deriving DecidableEq, Repr

/-- A multiply-accumulate lane at write-back (R159): the significands multiplied, their product, whether the duplicated exponent and
sign logic agrees. -/
structure MacCheck where
  a : BitVec 24
  b : BitVec 24
  product : BitVec 48
  dup : Bool
  deriving DecidableEq, Repr

/-- What a check of the cluster found (R159, R164, R167): a lane of a vector operation, or a memory word, in memory instance 0 to 3
local SRAM, 4 shared SRAM, 5 DRAM; `noCopy` marks committed state, or history, that holds no second copy outside full-guarantee
mode. -/
inductive Detection
  | residue (m : MacCheck)
  | memory (mi : Fin 6) (w : MemRead) (noCopy : Bool)
  deriving DecidableEq, Repr

/-- One check that fails in a slot of a lane (R223, R224, R227, R241, R295). -/
inductive LaneFault
  /-- residues of units A and B in one of the cycles C0 (the FF product) to C4; the repeat in C7 fails too -/
  | mac (cycle : Fin 5) (again : Bool)
  /-- residues in C5 or C6; the re-form in C8 or C9 fails too -/
  | form (again : Bool)
  /-- one of the two subtractors of C0 -/
  | subtractor (second : Bool)
  /-- one copy, or both, of a coefficient or fallback word, or of a history word -/
  | word (history both : Bool)
  /-- the clamp stage -/
  | clampStage
  /-- the repetitive unit; its repeat fails too -/
  | repetitive (again : Bool)
  /-- one copy, or both, of the table word of bin `bin` -/
  | tableWord (bin : Fin 4096) (both : Bool)
  deriving DecidableEq, Repr

/-- What a calibration measured for one sense input (R259): the shims of both slices, the delay trim of slice 1, and
whether the two reference results of each slice agree within 0.1 %. -/
structure CalResult where
  input : Fin 32
  ofs0 : Int
  ofs1 : Int
  gain0 : Int
  gain1 : Int
  trim : Int
  agree0 : Bool
  agree1 : Bool
  deriving DecidableEq, Repr

/-- What a DC measurement of a channel found (R309, R310, R313): the pin flags; v̄₊ − v̄₋ of its own source phases (2^−25 V)
and ī₊ − ī₋ (2^−26 A), whether |v| reached the compliance limit, the disagreement of the halves in 0.1 %, and v̄₊ − v̄₋ that
the partner channel of the pair saw in the same phases. -/
structure DcMeas where
  chan : Fin 16
  pGnd : Bool
  pSup : Bool
  nGnd : Bool
  nSup : Bool
  dv : Int
  di : Int
  limit : Bool
  spread : Nat
  dvPartner : Int
  deriving DecidableEq, Repr

/-- What the supervisors saw (R327, R330): a stage-1 rail out of its window; or VSYS in millivolts, the microseconds for which it has
stood, and HOLD in units of 0.25 V. -/
inductive BrownOut
  | rail (r : Fin 5)
  | vsys (mv us hold : Nat)
  deriving DecidableEq, Repr

/-- A fault event (R389, R390): fault ID, DETAIL word, the lasting hint, and whether it is a detection made by the jig (R412). -/
structure FaultEvt where
  id : BitVec 16
  detail : BitVec 32
  lasting : Bool
  jig : Bool
  deriving DecidableEq, Repr

/-- The commands: every row of spec/opcode_table.json. -/
inductive Instr
  /-- POWER_ON_RESET (R30). -/
  | powerOnReset
  /-- BROWN_OUT (R30). -/
  | brownOut (c : BrownOut)
  /-- WARM_RESET (R55). -/
  | warmReset (mode : List Byte) (e : WriteEnd)
  /-- SYS_RSTCTRL_WARM (R31). -/
  | sysRstctrlWarm (v : Word)
  /-- WARM_RESET_RAMP_END (R31). -/
  | warmResetRampEnd
  /-- BLKRST_DIAG (R34). -/
  | blkrstDiag
  /-- BLKRST_TRING (R34). -/
  | blkrstTring
  /-- BLKRST_PORT (R34). -/
  | blkrstPort (n : Fin 4)
  /-- BLKRST_TRACE (R34). -/
  | blkrstTrace
  /-- BLKRST_DECIM (R34). -/
  | blkrstDecim
  /-- BLOCK_RESET_COMPLETE (R34). -/
  | blockResetComplete (bit : Fin 8)
  /-- TEST_ACCESS_RESET (R30). -/
  | testAccessReset
  /-- XTAL_WINDOW_END (R19). -/
  | xtalWindowEnd (edges : Nat)
  /-- PLL_LOCK_LOST (R19). -/
  | pllLockLost (pllB : Bool)
  /-- PLL_LOCK_ACQUIRED (R18). -/
  | pllLockAcquired (pllB : Bool)
  /-- TSRC_LOCK_GAINED (R23). -/
  | tsrcLockGained (period : BitVec 24)
  /-- TSRC_LOCK_LOST (R23). -/
  | tsrcLockLost
  /-- BENCH_ACCESS_TIMEOUT (R26). -/
  | benchAccessTimeout
  /-- CROSSING_FIFO_EVENT (R27). -/
  | crossingFifoEvent (island : Fin 15)
  /-- REGISTER_WRITE (R5). -/
  | registerWrite (who : Writer) (addr : Nat) (v : Word)
  /-- XSPI_DISCOVERY_DONE (R38). -/
  | xspiDiscoveryDone (octal : Bool) (size : Nat)
  /-- XSPI_DISCOVERY_TIMEOUT (R39). -/
  | xspiDiscoveryTimeout
  /-- LOCATOR_READ (R44). -/
  | locatorRead (bytes : List Byte)
  /-- NVM_ARBITRATION_LOST (R41). -/
  | nvmArbitrationLost
  /-- NVM_ARBITRATION_RETRY (R41). -/
  | nvmArbitrationRetry
  /-- NVM_ARBITRATION_TIMEOUT (R41). -/
  | nvmArbitrationTimeout
  /-- STUCK_BUS_DETECTED (R42). -/
  | stuckBusDetected (freed : Bool)
  /-- STUCK_BUS_RETRY (R42). -/
  | stuckBusRetry (freed : Bool)
  /-- EEPROM_NACK (R481). -/
  | eepromNack
  /-- EEPROM_NACK_RETRY (R481). -/
  | eepromNackRetry
  /-- IMAGE_HEADER_CHECKED (R47). -/
  | imageHeaderChecked (header : List Byte) (directory : List Byte) (signature : List Byte) (sections : List (Nat × Nat × List Byte))
  /-- BOOTCFG_APPLIED (R478). -/
  | bootcfgApplied (bytes : List Byte)
  /-- SECTION_REREAD (R48). -/
  | sectionReread (ty : Nat) (inst : Nat) (dram : Bool)
  /-- EARLY_SECTIONS_LOADED (R48). -/
  | earlySectionsLoaded (sections : List (Nat × Nat × List Byte))
  /-- EARLY_GRAPH_PLACED (R152). -/
  | earlyGraphPlaced
  /-- FULL_RUNNING_TAKEOVER (R51). -/
  | fullRunningTakeover (sections : List (Nat × Nat × List Byte))
  /-- EARLY_ONLY_ENTRY (R49). -/
  | earlyOnlyEntry (err : Nat) (ty : Nat) (inst : Nat)
  /-- ROM_DEFAULTS_ENTRY (R58). -/
  | romDefaultsEntry
  /-- DRYFIT_EXECUTION_END (R56). -/
  | dryfitExecutionEnd (loads : List Nat)
  /-- DRYFIT_DONE (R57). -/
  | dryfitDone
  /-- VENEER_APPLY (R64). -/
  | veneerApply (e : WriteEnd)
  /-- VENEER_VALIDATED (R64). -/
  | veneerValidated
  /-- PORT_START (R79). -/
  | portStart (n : Fin 4)
  /-- PORT_ARM (R79). -/
  | portArm (n : Fin 4)
  /-- PORT_DISARM (R79). -/
  | portDisarm (n : Fin 4)
  /-- PORT_STOP (R81). -/
  | portStop (n : Fin 4)
  /-- PORT_RESTART (R95). -/
  | portRestart (n : Fin 4)
  /-- PORT_CFG_WRITE (R67). -/
  | portCfgWrite (n : Fin 4) (v : Word)
  /-- PORT_MAP_WRITE (R78). -/
  | portMapWrite (n : Fin 4) (tx : Bool) (k : Fin 4) (v : Word)
  /-- PORT_SLOTMASK_WRITE (R89). -/
  | portSlotmaskWrite (n : Fin 4) (v : Word) (late : Bool)
  /-- PORT_MASK_APPLY (R89). -/
  | portMaskApply (n : Fin 4)
  /-- PORT_GSTART_FIRE (R82). -/
  | portGstartFire
  /-- SYNC_PIN_EDGE (R82). -/
  | syncPinEdge
  /-- PORT_START_FRAME (R80). -/
  | portStartFrame (n : Fin 4)
  /-- PORT_RUNNING_REACHED (R80). -/
  | portRunningReached (n : Fin 4)
  /-- PORT_START_TIMEOUT (R80). -/
  | portStartTimeout (n : Fin 4)
  /-- PORT_STOP_DRAIN_DONE (R81). -/
  | portStopDrainDone (n : Fin 4)
  /-- PORT_RX_FRAME (R84). -/
  | portRxFrame (n : Fin 4) (f : PortFrame)
  /-- PORT_SLIP (R84). -/
  | portSlip (n : Fin 4) (tx : Bool)
  /-- ZC_SWITCH (R86). -/
  | zcSwitch (t : ZcTarget)
  /-- ZC_TIMEOUT (R86). -/
  | zcTimeout (t : ZcTarget)
  /-- CLK_LOSS (R91). -/
  | clkLoss (n : Fin 4)
  /-- RATE_FAULT (R91). -/
  | rateFault (n : Fin 4) (period : BitVec 24)
  /-- PORT_RESUME (R93). -/
  | portResume (n : Fin 4)
  /-- PORT_OVERRUN_UNDERRUN (R94). -/
  | portOverrunUnderrun (n : Fin 4) (tx : Bool) (overrun : Bool)
  /-- PORT_RESTART_CAPTURE (R95). -/
  | portRestartCapture (n : Fin 4)
  /-- IEC_LOCK (R72). -/
  | iecLock (sinceB : Nat) (parityOk : Bool)
  /-- IEC_BLOCK_END (R73). -/
  | iecBlockEnd (csA : BitVec 192) (csB : BitVec 192)
  /-- IEC_TX_BLOCK_START (R75). -/
  | iecTxBlockStart
  /-- RING_FRAME_EMIT (R100). -/
  | ringFrameEmit
  /-- RING_FRAME_RX (R101). -/
  | ringFrameRx (f : RingFrame) (codeErrs : Nat) (delay : Nat)
  /-- RING_FRAME_RETURN (R104). -/
  | ringFrameReturn (f : RingFrame) (codeErrs : Nat) (rtt : Nat)
  /-- RING_BREAK (R117). -/
  | ringBreak (noSignal : Bool) (codeErrs : Nat)
  /-- RING_BREAK_RESUME (R119). -/
  | ringBreakResume
  /-- ELECT_CANDIDATE (R107). -/
  | electCandidate
  /-- ELECTED (R107). -/
  | elected
  /-- ELECT_TIMEOUT (R107). -/
  | electTimeout
  /-- RING_START (R120). -/
  | ringStart
  /-- RING_STOP (R120). -/
  | ringStop
  /-- TRING_CFG_WRITE (R120). -/
  | tringCfgWrite (v : Word)
  /-- TRING_MAP_WRITE (R111). -/
  | tringMapWrite (tx : Bool) (k : Fin 16) (v : Word)
  /-- BISCUIT_RX (R112). -/
  | biscuitRx (slot : Fin 8) (bytes : List Byte)
  /-- BISCUIT_INSERT (R113). -/
  | biscuitInsert (slot : Fin 8)
  /-- START_BISCUIT (R114). -/
  | startBiscuit (frame : Word)
  /-- SYNC_BISCUIT (R114). -/
  | syncBiscuit (j : Word)
  /-- REG_WR (R115). -/
  | regWr (src : BitVec 16) (addr : Word) (v : Word)
  /-- REG_RD (R115). -/
  | regRd (src : BitVec 16) (addr : Word)
  /-- REG_RSP (R116). -/
  | regRsp (bytes : List Byte)
  /-- HOST_BISCUIT (R116). -/
  | hostBiscuit (bytes : List Byte)
  /-- POLICY_BISCUIT (R113). -/
  | policyBiscuit (bytes : List Byte)
  /-- FAULT_BISCUIT (R411). -/
  | faultBiscuit (src : BitVec 16) (payload : List Byte)
  /-- BISCUIT_SEND (R116). -/
  | biscuitSend
  /-- BISCUIT_POP (R116). -/
  | biscuitPop
  /-- DSP_FRAME_BOUNDARY (R128). -/
  | dspFrameBoundary (f4 : Bool)
  /-- GLUE_UP (R162): the class, the cycles of each core, what the write-back check found, by block. -/
  | glueUp (f4 : Bool) (cycles : List Nat) (found : List (BitVec 16 × Detection))
  /-- FRAME_CONCEAL (R163). -/
  | frameConceal (f4 : Bool) (late : Bool)
  /-- DSP_DETECTION (R164). -/
  | dspDetection (inst : BitVec 16) (d : Detection)
  /-- CTX_CFG_WRITE (R130). -/
  | ctxCfgWrite (n : Fin 128) (v : Word)
  /-- CTX_LEVEL_WRITE (R132). -/
  | ctxLevelWrite (n : Fin 128) (v : Word)
  /-- GEN_CFG_WRITE (R136). -/
  | genCfgWrite (g : Fin 16) (v : Word)
  /-- GEN_FREQ_WRITE (R136). -/
  | genFreqWrite (g : Fin 16) (v : Word)
  /-- PLAY (R139). -/
  | play (voice : Fin 32) (sound : BitVec 16)
  /-- STOP_AT_END (R139). -/
  | stopAtEnd (voice : Fin 32)
  /-- STOP_NOW (R139). -/
  | stopNow (voice : Fin 32)
  /-- PLAY_DONE (R139). -/
  | playDone (voice : Fin 32)
  /-- PLAY_UNDERRUN (R138): the voice, the samples that are late. -/
  | playUnderrun (voice : Fin 32) (late : Nat)
  /-- AVAS_FALLBACK (R143). -/
  | avasFallback (inst : BitVec 16)
  /-- PLACEMENT_RUN (R153). -/
  | placementRun
  /-- CORE_FENCE (R170): the core, the fault ID behind the fence. -/
  | coreFence (c : Fin 4) (id : BitVec 16)
  /-- MIGRATION_DONE (R170). -/
  | migrationDone
  /-- REGION_FENCE (R169): memory instance, 64 KiB region, the fault ID behind the fence. -/
  | regionFence (mi : Fin 6) (r : Fin 1024) (id : BitVec 16)
  /-- DRAM_REGION_MOVE (R166). -/
  | dramRegionMove (mi : Fin 6) (r : Fin 1024)
  /-- SCRUB_REPAIR (R161): memory instance, the word as the scrub read it. -/
  | scrubRepair (mi : Fin 6) (w : MemRead)
  /-- OUTPUT_BINDING (R189). -/
  | outputBinding
  /-- OUTPUT_REQ_WRITE (R191). -/
  | outputReqWrite (o : Fin 16) (v : BitVec 2)
  /-- FASTOFF (R194). -/
  | fastoff (o : Fin 16)
  /-- FASTOFF_DONE (R194). -/
  | fastoffDone (o : Fin 16)
  /-- CM_RAMP_DONE (R191). -/
  | cmRampDone (o : Fin 16)
  /-- OUTPUT_ZERO_CROSSING (R192). -/
  | outputZeroCrossing (o : Fin 16)
  /-- OUTPUT_ZC_TIMEOUT (R192). -/
  | outputZcTimeout (o : Fin 16)
  /-- OUTPUT_RAMP_DONE (R192). -/
  | outputRampDone (o : Fin 16)
  /-- BRIDGE_TRIP (R195). -/
  | bridgeTrip (c : Fin 16) (legN : Bool) (current : Nat)
  /-- TRIP_DEMAG_END (R195). -/
  | tripDemagEnd (o : Fin 16)
  /-- TRIP_RETRY (R197). -/
  | tripRetry (o : Fin 16)
  /-- CELL_DESAT (R186). -/
  | cellDesat (c : Fin 16) (legN : Bool) (cell : Fin 8)
  /-- SHED_FALL (R185). -/
  | shedFall (c : Fin 16) (legN : Bool)
  /-- CELL_ROTATE (R185). -/
  | cellRotate (c : Fin 16)
  /-- IMBALANCE (R190). -/
  | imbalance (p : Fin 8)
  /-- TRIP_LIM_WRITE (R188). -/
  | tripLimWrite (c : Fin 16) (v : BitVec 5)
  /-- BRIDGE_OVERTEMP (R466): the reading of the bridge's sensor in units of 1/16 K above −64 °C, and the microseconds for which the
  comparator has seen it. -/
  | bridgeOvertemp (c : Fin 16) (reading us : Nat)
  /-- LANE_EVALUATE (R204). -/
  | laneEvaluate (faults : List (Fin 16 × LaneFault))
  /-- ENERGY_SUBWINDOW_END (R291). -/
  | energySubwindowEnd (o : Fin 16)
  /-- BANKSEL_WRITE (R217). -/
  | bankselWrite (v : BitVec 4) (late : Bool)
  /-- BANK_SWAP (R217). -/
  | bankSwap
  /-- BANK_WRITE (R216). -/
  | bankWrite (c : Fin 16) (b : Bool) (k : Fin 16) (v : Word)
  /-- FB_TABLE_WRITE (R216). -/
  | fbTableWrite (c : Fin 16) (k : Fin 64) (slope : Bool) (v : Word)
  /-- LOOP_CH_CFG_WRITE (R219). -/
  | loopChCfgWrite (c : Fin 16) (v : Word)
  /-- COEF_REFETCH (R224). -/
  | coefRefetch (c : Fin 16)
  /-- RC_TRACKER_EDGE (R229). -/
  | rcTrackerEdge (k : Fin 3) (t : Nat)
  /-- RC_TRACKER_TIMEOUT (R229). -/
  | rcTrackerTimeout (k : Fin 3)
  /-- RC_PERIOD_END (R235). -/
  | rcPeriodEnd (c : Fin 16)
  /-- RC_FADE_END (R238). -/
  | rcFadeEnd (c : Fin 16)
  /-- RC_CLEAR (R238). -/
  | rcClear (c : Fin 16)
  /-- RC_FREEZE (R238). -/
  | rcFreeze (c : Fin 16) (on : Bool)
  /-- RC_CH_CFG_WRITE (R239). -/
  | rcChCfgWrite (c : Fin 16) (v : Word)
  /-- RC_SRC_EST_WRITE (R239). -/
  | rcSrcEstWrite (r : Fin 3) (v : Word)
  /-- RC_TABLE_WRITE (R239). -/
  | rcTableWrite (k : Fin 4096) (v : Word)
  /-- TRACE_ARM (R245). -/
  | traceArm (b : Fin 4)
  /-- TRACE_STOP (R246). -/
  | traceStop (b : Fin 4)
  /-- TRACE_FORCE (R244). -/
  | traceForce (b : Fin 4)
  /-- TRACE_CFG_WRITE (R246). -/
  | traceCfgWrite (b : Fin 4) (k : Fin 4) (v : Word)
  /-- TRACE_WINDOW_READ (R247). -/
  | traceWindowRead (w : Fin 8192) (bad : Bool)
  /-- SENSE_SAMPLE (R253). -/
  | senseSample (k : Fin 32) (slice : Bool) (raw : BitVec 16) (chop : Bool) (linkOk : Bool)
  /-- SLICE_FAULT (R263). -/
  | sliceFault (k : Fin 32) (slice : Bool)
  /-- BG_WINDOW_END (R257). -/
  | bgWindowEnd (k : Fin 32)
  /-- BG_FREEZE_WRITE (R258). -/
  | bgFreezeWrite (on : Bool)
  /-- SENSE_CAL (R260). -/
  | senseCal (mask : BitVec 16)
  /-- SENSE_BOOT_CAL_START (R259). -/
  | senseBootCalStart
  /-- SENSE_CAL_DONE (R259). -/
  | senseCalDone (results : List CalResult)
  /-- DECIM_OUTPUT_SAMPLE (R272). -/
  | decimOutputSample
  /-- RATIO_TRACKER_TICK (R276). -/
  | ratioTrackerTick (err : Int)
  /-- DECIM_RESET (R283). -/
  | decimReset
  /-- DECIM_SETTLED (R279). -/
  | decimSettled (k : Fin 36)
  /-- THR_CFG_WRITE (R286). -/
  | thrCfgWrite (u : Fin 16) (r : Fin 3) (v : Word)
  /-- AUX_PATH_CFG_WRITE (R270). -/
  | auxPathCfgWrite (k : Fin 4) (v : Word)
  /-- CLAMP_CEILING_WRITE (R294). -/
  | clampCeilingWrite (o : Fin 16) (clamp : Fin 4) (v : BitVec 16)
  /-- SET_SWITCHED (R306). -/
  | setSwitched (o : Fin 16)
  /-- QUICK_DC_CHECK (R315). -/
  | quickDcCheck (mask : BitVec 16)
  /-- AC_SWEEP (R318). -/
  | acSweep (mask : BitVec 16)
  /-- DIAG_ABORT (R321). -/
  | diagAbort (mask : BitVec 16)
  /-- QUICK_CHECK_START (R315). -/
  | quickCheckStart
  /-- QUICK_CHECK_DONE (R314). -/
  | quickCheckDone (o : Fin 16) (results : List DcMeas)
  /-- BOOT_DC_DIAG_START (R312). -/
  | bootDcDiagStart
  /-- BOOT_DC_DIAG_DONE (R312). -/
  | bootDcDiagDone (results : List DcMeas)
  /-- SWEEP_POINT_DONE (R319). -/
  | sweepPointDone (o : Fin 16)
  /-- SWEEP_RESUME (R321). -/
  | sweepResume (o : Fin 16) (granted : Bool)
  /-- TRACK_PERIOD_END (R323). -/
  | trackPeriodEnd (o : Fin 16)
  /-- STBY_LINE_CHECK (R324). -/
  | stbyLineCheck (findings : List (Fin 16 × Fin 3))
  /-- STAGE1_START (R329): VSYS in millivolts, the resistances of the straps in ohms. -/
  | stage1Start (vsys bootsel hbAddr0 hbAddr1 : Nat)
  /-- RAIL_IN_WINDOW (R329). -/
  | railInWindow (rail : Fin 9)
  /-- STAGE1_RAIL_TIMEOUT (R330). -/
  | stage1RailTimeout (rail : Fin 9)
  /-- STAGE1_RETRY (R330). -/
  | stage1Retry
  /-- LATER_STAGE_START (R332). -/
  | laterStageStart
  /-- STAGE_TIMEOUT (R332). -/
  | stageTimeout (rail : Fin 9)
  /-- RAIL_DISCHARGED (R333). -/
  | railDischarged (rail : Fin 9)
  /-- DISCHARGE_TIMEOUT (R333). -/
  | dischargeTimeout (rail : Fin 9)
  /-- RAIL_WINDOW_TRIP (R345). -/
  | railWindowTrip (rail : Fin 9) (exceeds : Bool)
  /-- RAIL_CTRL_WRITE (R336). -/
  | railCtrlWrite (v : Word)
  /-- MICB_CFG_WRITE (R336). -/
  | micbCfgWrite (v : Word)
  /-- MICB_SHORT (R336). -/
  | micbShort (micb1 : Bool) (under : Bool)
  /-- PVDD_SOFT_START_DONE (R339). -/
  | pvddSoftStartDone
  /-- LA_BATCH_ARRIVE (R340). -/
  | laBatchArrive (late : Nat)
  /-- DEMAND_ACTIVE (R340). -/
  | demandActive
  /-- LA_TIMEOUT (R341). -/
  | laTimeout
  /-- PVDD_LIMITED (R342). -/
  | pvddLimited (cause : BitVec 4) (power : BitVec 16)
  /-- PHASE_SHED (R343): the output current in amperes, of the present period or of the last 5 ms. -/
  | phaseShed (amps : Nat)
  /-- PVDD_OCP (R344): the peak current of a phase in two consecutive periods, in units of 0.1 A. -/
  | pvddOcp (first second : Nat)
  /-- PVDD_OCP_RESTART (R344). -/
  | pvddOcpRestart (volts : BitVec 16)
  /-- PVDD_OV (R344): PVDD, UQ6.10 V, and the microseconds for which it has stood there. -/
  | pvddOv (volts : BitVec 16) (us : Nat)
  /-- PVDD_UV (R344): as PVDD_OV. -/
  | pvddUv (volts : BitVec 16) (us : Nat)
  /-- PVDD_WINDOW_RESTORED (R344). -/
  | pvddWindowRestored
  /-- PVDD_CLOCK_RETURN (R337). -/
  | pvddClockReturn
  /-- BANK_READY (R346). -/
  | bankReady
  /-- CHG_FAULT (R346). -/
  | chgFault
  /-- VBAT_THRESHOLD (R328): the voltage in millivolts that VBAT crosses, rising or falling. -/
  | vbatThreshold (mv : Nat) (rising : Bool)
  /-- HOLDUP_ENTER (R347): HOLD in units of 0.25 V. -/
  | holdupEnter (hold : Nat)
  /-- HOLDUP_EXIT (R347). -/
  | holdupExit
  /-- HOLDUP_SPENT (R347). -/
  | holdupSpent
  /-- STBY_GO (R349). -/
  | stbyGo (v : Word)
  /-- STBY_AUTO (R349). -/
  | stbyAuto
  /-- STBY_CURRENT_REACHED (R349). -/
  | stbyCurrentReached
  /-- WAKECFG_WRITE (R351). -/
  | wakecfgWrite (v : Word)
  /-- WAKE_PIN_WAKE (R350). -/
  | wakePinWake
  /-- HOST_MATCH_WAKE (R417): the 7-bit address on the bus. -/
  | hostMatchWake (addr : BitVec 7)
  /-- HOST_MATCH_RELEASE (R417). -/
  | hostMatchRelease
  /-- RING_ACTIVITY_WAKE (R350). -/
  | ringActivityWake
  /-- GOV_EVALUATE (R356). -/
  | govEvaluate
  /-- GOV_LIMIT_WRITE (R355). -/
  | govLimitWrite (v : Word)
  /-- CRASH_N (R359): the microseconds for which the pin has been low, 0 where it is high again. -/
  | crashN (lowUs : Nat)
  /-- GOV_DISCHARGE (R359). -/
  | govDischarge (v : Word)
  /-- DISCHARGE_PVDD_STOP (R359). -/
  | dischargePvddStop
  /-- DISCHARGE_DONE (R359). -/
  | dischargeDone
  /-- DIS_FAIL (R359). -/
  | disFail
  /-- GOV_ALLOCATE (R364). -/
  | govAllocate
  /-- HK_CONVERSION (R377). -/
  | hkConversion (x : BitVec 12)
  /-- HK_INJECT_TRIGGER (R375). -/
  | hkInjectTrigger (trig : Fin 8)
  /-- SW_TRIG (R374). -/
  | swTrig (bits : BitVec 8)
  /-- HK_TIMER (R374). -/
  | hkTimer
  /-- REF_READY (R380). -/
  | refReady
  /-- HK_CLOCK_STOP (R381). -/
  | hkClockStop
  /-- HK_CAL (R383). -/
  | hkCal
  /-- HK_CAL_START (R383). -/
  | hkCalStart
  /-- HK_CAL_DONE (R382). -/
  | hkCalDone (offset : BitVec 16) (gain : BitVec 16)
  /-- HK_SEQ_APPLY (R384). -/
  | hkSeqApply
  /-- HK_WIN_WRITE (R379). -/
  | hkWinWrite (k : Fin 64) (v : Word)
  /-- FCOL_EVENT_ARRIVE (R391). -/
  | fcolEventArrive (ev : Option FaultEvt) (atRollover : Bool)
  /-- FCOL_CLASSIFY (R395). -/
  | fcolClassify
  /-- FCOL_WINDOW_ROLLOVER (R394). -/
  | fcolWindowRollover (ticks : Nat)
  /-- FENCE_APPLY (R399). -/
  | fenceApply
  /-- FCOL_SAFE_CMD (R406). -/
  | fcolSafeCmd (who : Writer) (v : Word)
  /-- COMMIT (R404). -/
  | commit (who : Writer)
  /-- FCOL_RULE_WRITE (R404). -/
  | fcolRuleWrite (who : Writer) (k : Fin 128) (j : Fin 3) (v : Word)
  /-- CLR_FIRST (R410). -/
  | clrFirst
  /-- FCOL_CONFIG_MISMATCH (R405). -/
  | fcolConfigMismatch
  /-- ALIVE_TOGGLE (R408). -/
  | aliveToggle
  /-- KICK (R409). -/
  | kick (who : Writer)
  /-- WATCHDOG_EXPIRE (R409). -/
  | watchdogExpire
  /-- JIG_ARM (R412). -/
  | jigArm (who : Writer) (v : Word)
  /-- JIG_MISSED (R412). -/
  | jigMissed
  /-- IDENT (R418). -/
  | ident (e : ReadEnd)
  /-- SET_PTR (R421). -/
  | setPtr (v : Word) (e : WriteEnd)
  /-- READ_BLK (R422). -/
  | readBlk (n : Byte) (e : ReadEnd)
  /-- WRITE_BLK (R423). -/
  | writeBlk (n : Byte) (bytes : List Byte) (e : WriteEnd)
  /-- STATUS (R418). -/
  | status (e : ReadEnd)
  /-- CLAIM (R438). -/
  | claim (e : ReadEnd)
  /-- COMPLETE (R439). -/
  | complete (n : Byte) (e : WriteEnd)
  /-- CQ_READ (R447). -/
  | cqRead (e : ReadEnd)
  /-- FAULT_LOG (R418). -/
  | faultLog (seq : BitVec 16) (e : ReadEnd)
  /-- CHALLENGE (R455). -/
  | challenge (nonce : List Byte) (e : ReadEnd)
  /-- RESPONSE (R455). -/
  | response (n : Byte) (bytes : List Byte) (e : WriteEnd)
  /-- UNLOCK_PW (R454). -/
  | unlockPw (n : Byte) (bytes : List Byte) (e : WriteEnd)
  /-- ATTEMPT_EVALUATED (R458). -/
  | attemptEvaluated
  /-- JTAG_UNLOCK_MAILBOX (R456). -/
  | jtagUnlockMailbox (m : Mailbox)
  /-- LOCKOUT_END (R457). -/
  | lockoutEnd
  /-- NONCE_EXPIRE (R455). -/
  | nonceExpire
  /-- RELOCK (R451). -/
  | relock (v : Word)
  /-- SV_RAISE (R460). -/
  | svRaise (v : Word)
  /-- SV_RAISED (R460). -/
  | svRaised
  /-- UNKNOWN_CMD (R420). -/
  | unknownCmd
  /-- HBUS_START_EXCEPTION (R426). -/
  | hbusStartException
  /-- HBUS_TIMEOUT (R427). -/
  | hbusTimeout
  /-- ADDR_CHANGED (R416). -/
  | addrChanged
  /-- ALERT_RESPONSE (R429): the byte that the line carried. -/
  | alertResponse (line : Byte)
  /-- ALERT_REASSERT (R429). -/
  | alertReassert
  /-- NVM_READ (R432). -/
  | nvmRead (eeprom fast : Bool) (len : BitVec 9)
  /-- NVM_PROGRAM (R432). -/
  | nvmProgram (eeprom fast : Bool) (len : BitVec 9)
  /-- NVM_ERASE (R432). -/
  | nvmErase (eeprom fast : Bool) (len : BitVec 9)
  /-- NVM_OP_DONE (R432). -/
  | nvmOpDone (err : Byte) (data : List Byte)
  /-- SOURCE_LEVEL_RISE (R442): the source, and others whose levels rise in the same BENCH cycle. -/
  | sourceLevelRise (n : Fin 129) (more : List (Fin 129))
  /-- SOURCE_LEVEL_FALL (R437). -/
  | sourceLevelFall (n : Fin 129)
  /-- INTC_EN_WRITE (R437). -/
  | intcEnWrite (k : Fin 4) (v : Word)
  /-- MODERATION_EXPIRY (R442). -/
  | moderationExpiry (g : Fin 16)
  /-- DEMAND_EXPIRED (R340). -/
  | demandExpired
  /-- PVDD_OV_CLEARED (R344): PVDD, UQ6.10 V. -/
  | pvddOvCleared (volts : BitVec 16)
  /-- WAKE_PIN_CHANGE (R349). -/
  | wakePinChange (active : Bool)
  deriving DecidableEq, Repr

end Sys2Proof
end

