-- ==== Sys2Proof/Config.lean ====
section
/-!
DEFINITION. Config.lean: the values the spec leaves open. Each is an opaque constant with no body: nothing in Lean can
evaluate it, so whatever is proved about a run holds whatever the value is (log entry 4).
-/

namespace Sys2Proof

/-- The free values of the machine, one per draw: draw number `n` is `freeValue n`. A step that needs an open value
reads the counter `State.freeCount`, applies this constant to it and advances the counter (log entry 4). -/
opaque Config.freeValue : Nat → BitVec 64

/-- Does a result that lies between two representable values take the upper one? The spec gives no rounding for the
quantities of `roundQ` (log entry 10): of a numerator and a denominator. -/
opaque Config.roundUp : Int → Nat → Bool

/-- What a crossover computes over one frame (R123: a function of the inputs, the parameters and the state). R140 gives its order,
its bands and that it is phase-aligned and neither its coefficients nor its structure, so the function is free (log entry 11).
Arguments: TYPE, samples in the frame, the parameter words, the block's state, the input channels in pin order. Result: the output
channels in pin order and the new state. -/
opaque Config.blockRun : Nat → Nat → List (BitVec 32) → List (BitVec 32) →
  List (List (BitVec 32)) → List (List (BitVec 32)) × List (BitVec 32)

/-- Channels of pin `p` of a block of a TYPE with its parameters; `true` for an output pin. R148 refers to a count the
spec does not give per type (log entry 11). -/
opaque Config.pinChannels : Nat → List (BitVec 32) → Bool → Nat → Nat

/-- The order in which a core takes the terms of a sum of so many products (R123 rounds every operation; the order of a block's
operations is open; log entry 11). -/
opaque Config.sumOrder : Nat → List Nat

/-- Where a sum of so many terms is cut into two sums (log entry 11). -/
opaque Config.sumSplit : Nat → Nat

/-- A multiply-accumulate rounds once rather than twice (log entry 11). -/
opaque Config.macFused : Bool

/-- The two gains of a context are multiplied with each other before the sample (log entry 11). -/
opaque Config.gainsFirst : Bool

/-- The sine of a phase, in binary32: a part of a period and the period (R136 names the sine; its rounding is open; log entry 12). -/
opaque Config.sine : Nat → Nat → BitVec 32

/-- Word `k` of the 32-bit generator of a generator number (R136 gives its seed and not its algorithm; log entry 12). -/
opaque Config.noise : Nat → Nat → BitVec 32

/-- Sample `k` of the pink noise of a generator number, full scale, in binary32 (R136 gives its slope and crest factor; log entry
12). -/
opaque Config.pinkNoise : Nat → Nat → BitVec 32

/-- Tap `t` of phase `p` of the sound player's interpolator (R137 gives 32 phases of 16 taps and no values; log entry 12). -/
opaque Config.soundTap : Nat → Nat → BitVec 32

/-- The linear gain of a level in dB, in units of 2^−24 dB, in binary32 (R142: its rounding is open; log entry 11). -/
opaque Config.dbToLinear : Int → BitVec 32

/-- The gains of a dynamics block over a frame and its detector's state after it (R140 names compressor, limiter and expander and
gives no detector and no curve; log entry 11): the parameter words, the detector's state, the input channels. -/
opaque Config.dynamicsGain : List (BitVec 32) → List (BitVec 32) → List (List (BitVec 32)) → List (BitVec 32) × List (BitVec 32)

/-- Frames between a ring frame and the one in which the master relays its first pass: the master computes it from the round trip
(R104, R105), and the spec gives a member no way to know it (log entry 154): RLEN, d and the rate. -/
opaque Config.relayLag : Nat → Nat → Nat → Nat

/-- Bytes of a buffer that a frame accesses: TYPE, parameters, kind of buffer (R156 orders buffers by them and gives no
figures; log entry 14). -/
opaque Config.accessBytes : Nat → List (BitVec 32) → Nat → Nat

/-- Bytes per F32 frame of shared SRAM (`false`) or DRAM (`true`) traffic of a placement, mirrors and scrub included
(R154 bounds them and gives no figures per block; log entry 14): full-guarantee mode, with its mirrors; the bytes of golden data
that the scrub reads; the blocks' TYPE, parameters, core and tiers of their buffers. -/
opaque Config.trafficBytes : Bool → Bool → Nat → List (Nat × List (BitVec 32) × Nat × List Nat) → Nat

/-- The period (UQ18.14) and the phase (2^−14 LOOP cycles) that a tracker's phase-and-period loop gives after an edge (R228 names
its bandwidth and not its equations; log entry 15): TRK_BW, the present period, the predicted phase, the error of the edge. -/
opaque Config.trackLoop : Nat → Nat → Nat → Int → Nat × Nat

/-- What the compensation response and the fractional resampler give for an output sample, in the format of the path's
input, before saturation. The spec names the ROM responses and the prototype and gives no coefficients (R268, R269, R271;
log entry 16). Arguments: current path; K, L, response index, RATIO (UQ8.24), inputs of
the open Fi group, parity of the Fi samples, slot of the input's channel, SYS_PLLA_CFG and LOOP_CSCNT for the spread phase; the
resampler phase (2^−24 Fc samples); the Fi samples, newest first. -/
opaque Config.chainSample : Bool → List Nat → Int → List Int → Int

/-- RATIO and the loop filter's state after a tick of the ratio tracker (R276 names a second-order loop by its natural
frequency and damping and not its equations; log entry 15): BW, RATIO, the state, the phase error in 2^−16 samples. -/
opaque Config.trackRatio : Nat → Nat → Int → Int → Nat × Int

/-- The temperature correction of a current input's gain, in units of 2^−20: firmware computes it every millisecond from the
bridge temperature and OTP coefficients the spec does not give (R253; log entry 17): channel, millisecond. -/
opaque Config.currentTempGain : Nat → Nat → Int

/-- The estimate of slice 1's GAIN from a window: samples and sums of squares of both slices, slice 0's GAIN (R256 names
the ratio of the mean squares and not the formula; log entry 17). -/
opaque Config.gainEstimate : Nat → Nat → Nat → Nat → Int → Int

/-- The estimate of TRIM from a window: the trim in effect, the number and the sum of each of the two differences of R256 (log
entry 17). -/
opaque Config.skewEstimate : Int → Nat → Int → Nat → Int → Int

/-- A frequency interpolated logarithmically between two (R319, R320; rounding open, log entry 10), UQ16.16 Hz: the two
frequencies, the numerator and the denominator of the place between them. -/
opaque Config.logInterp : Nat → Nat → Nat → Nat → Nat

/-- What the filter of a tracking band gives for the samples of a frame, and its state after it (R323 names the three bands by their
edges and not their filters; log entry 19): the band, Fa, the filter's state, the samples. -/
opaque Config.bandFilter : Nat → Nat → List Int → List Int → List Int × List Int

/-- |Z| (UQ8.8) of a sweep at a frequency between its points (R323 reads the curve at a band's geometric centre and gives no
interpolation; log entry 19): the points as frequency and magnitude, the band. -/
opaque Config.sweepAt : List (Nat × Nat) → Nat → Nat

/-- The excursion proxy's filter over one control sample: x_p in Q6.25 V and the filter's state (R290 gives Q, gain and
corner; the order of its 48-bit operations is open; log entry 20): F_P in hertz, the state, v. -/
opaque Config.proxyStep : Nat → List Int → Int → Int × List Int

/-- 10^(x ÷ 20) of a binary32 x in dB (R299, R301: the rounding of the power is open; log entry 21). -/
opaque Config.dbToGain : BitVec 32 → BitVec 32

/-- The excursion model's state (x, dx/dt, i, binary32) after the four semi-implicit substeps of one sample (R301 gives the equations
and not the order in which a substep takes them; log entry 21): the set, Re(T_vc), Fa, the state, u. -/
opaque Config.excursionStep : List (BitVec 32) → BitVec 32 → Nat → List (BitVec 32) → BitVec 32 → List (BitVec 32)

/-- The reference interpolator's output for a control sample (R209 gives its response and no coefficients; log entry 22), in units
of 2^−30 of full scale: the samples of the frame before and of the frame that plays, the control sample in the frame, RATIO,
the trim in ns, SYS_PLLA_CFG and LOOP_CSCNT for the phase of the spread profile. -/
opaque Config.reference : List (BitVec 32) → List (BitVec 32) → Nat → Nat → Nat → Nat → Nat → Int

/-- R_PATH of a channel in OTP at 25 °C (`false`) and at 150 °C (`true`), in units of 2^−32 Ω (R363; log entry 23). -/
opaque Config.pathOhms : Nat → Bool → Nat

/-- E_SW in OTP for a SLEW code and a LEVELS setting, in units of 2^−48 J (R363; log entry 23). -/
opaque Config.switchEnergy : Nat → Nat → Nat

/-- K_REC in OTP for a SLEW code and a LEVELS setting, in units of 2^−32 W per A (R363; log entry 23). -/
opaque Config.recoveryPower : Nat → Nat → Nat

/-- The coefficient of P_DISS's first-order filter of 1 s for one F32 frame at a rate, in units of 2^−32 (R363 gives the time
constant and not the discrete form; log entry 23). -/
opaque Config.dissStep : Nat → Nat

end Sys2Proof
end

