-- ==== Sys2Proof/Machine/Tbl.lean ====
section
/-!
DEFINITION. Machine/Tbl.lean: sparse tables as plain data. A table is a list of key and value pairs in one canonical form:
keys strictly rising, no entry equal to what an unlisted key reads as. The registers, the memory and the records of the
units (ports, outputs, channels, contexts ...) are tables.
-/

namespace Sys2Proof.Machine

/-- A sparse table: key and value pairs. -/
abbrev Tbl (α : Type) := List (Nat × α)

/-- What a table holds at key `k`; `d` is what an unlisted key reads as. -/
def Tbl.get {α : Type} (d : α) : Tbl α → Nat → α
  | [], _ => d
  | (k, v) :: t, a => if a = k then v else Tbl.get d t a

/-- Insert or replace the entry of key `a`, the keys staying in rising order. -/
def Tbl.put {α : Type} (a : Nat) (x : α) : Tbl α → Tbl α
  | [] => [(a, x)]
  | (k, v) :: t =>
    if a = k then (a, x) :: t
    else if a < k then (a, x) :: (k, v) :: t
    else (k, v) :: Tbl.put a x t

/-- Remove every entry of key `a`. -/
def Tbl.del {α : Type} (a : Nat) : Tbl α → Tbl α
  | [] => []
  | (k, v) :: t => if k = a then Tbl.del a t else (k, v) :: Tbl.del a t

/-- Write a table: a value equal to what the unlisted key reads as removes the entry. -/
def Tbl.set {α : Type} [DecidableEq α] (d : α) (t : Tbl α) (a : Nat) (x : α) : Tbl α :=
  if x = d then Tbl.del a t else Tbl.put a x t

/-- Drop every entry whose key meets `p` (a block of registers going back to its reset values). -/
def Tbl.drop {α : Type} (p : Nat → Bool) : Tbl α → Tbl α
  | [] => []
  | (k, v) :: t => if p k then Tbl.drop p t else (k, v) :: Tbl.drop p t

/-- Every key of the table is above `lo`, the keys rise strictly, and no entry equals what its key reads as unlisted. -/
def Tbl.wfFrom {α : Type} [DecidableEq α] (d : Nat → α) : Option Nat → Tbl α → Bool
  | _, [] => true
  | lo, (k, v) :: t =>
    (match lo with
     | none => true
     | some l => decide (l < k)) && decide (v ≠ d k) && Tbl.wfFrom d (some k) t

/-- The canonical form of a table. -/
def Tbl.wf {α : Type} [DecidableEq α] (d : Nat → α) (t : Tbl α) : Bool := Tbl.wfFrom d none t

end Sys2Proof.Machine
end

