-- ==== Sys2Proof/Machine/State.lean ====
section
/-!
DEFINITION. Machine/State.lean: the state of the device as plain data: the registers (a sparse table over their reset
values), the memory windows, the records of every unit for what no register holds, the queue of waiting commands, and
the reasons a command can stop.
-/

namespace Sys2Proof.Machine

/-- A field of a register: the register's address, its lowest bit and its width (R1). -/
structure Fld where
  /-- address of the register -/
  addr : Nat
  /-- lowest bit -/
  lo : Nat
  /-- width in bits -/
  w : Nat
  deriving DecidableEq, Repr

/-- The access types of R5. -/
inductive Acc
  | rw | ro | w1c | w1s | rc | wo | rwb | rws
  deriving DecidableEq, Repr

/-- One field of a register table: lowest bit, width, access type, reset value; `idx` marks the one field whose reset
value is the register's own index (DECIM_PATHk_CFG.INPUT, k at most 31). -/
structure FieldDesc where
  lo : Nat
  w : Nat
  acc : Acc
  rst : Nat
  idx : Bool
  deriving DecidableEq, Repr

/-- One register table: base address, the strides and counts of its arrays (outermost first), its fields. -/
structure RegGroup where
  base : Nat
  dims : List (Nat × Nat)
  fields : List FieldDesc
  deriving DecidableEq, Repr

/-! ### Clocks and resets (01_architecture) -/

/-- The resets that include the digital die (R30). -/
inductive ResetKind
  | por | bor | wake | warm
  deriving DecidableEq, Repr

/-- How far such a reset has come (R33): the run of stage 1, or the 4 ms ramp of a warm reset (R31). -/
inductive ResetPhase
  | stage1 | ramp
  deriving DecidableEq, Repr

/-- Clock and reset state that no register holds. -/
structure SysSt where
  /-- the reset in progress that includes the digital die, with its phase (R33) -/
  rst : Option (ResetKind × ResetPhase)
  /-- the digital die is held in reset (R17, R33) -/
  dieHeld : Bool
  /-- the reset in progress was entered from safe state (R32) -/
  fromSafe : Bool
  /-- the PVDD converter stays stopped until boot restarts it (R32) -/
  pvddHeld : Bool
  /-- consecutive XTAL windows out of 88 to 104, at most 2 (R19) -/
  xtalBad : Nat
  /-- consecutive XTAL windows within 88 to 104, at most 2 (R19) -/
  xtalGood : Nat
  /-- PLL A has been enabled by the sequencer (R18) -/
  pllAOn : Bool
  /-- PLL B has been enabled by the sequencer (R18) -/
  pllBOn : Bool
  /-- the Fa code last locked since reset, none when no Fa has been locked (R23) -/
  lastFa : Option (BitVec 2)
  /-- the JTAG TAP controller stands in its reset state (R30) -/
  tapReset : Bool
  /-- what IDCODE reads over JTAG (R452) -/
  idcode : BitVec 32
  deriving DecidableEq, Repr

/-- Clock and reset state in a power-on reset. -/
def SysSt.reset : SysSt :=
  { rst := some (.por, .stage1), dieHeld := true, fromSafe := false, pvddHeld := false, xtalBad := 0, xtalGood := 0,
    pllAOn := false, pllBOn := false, lastFa := none, tapReset := true, idcode := 0xB16480A7 }

/-- One-time-programmable memory (R450, R454, R455, R459, R37): contents the spec leaves to the part (log entry 6). -/
structure Otp where
  uidLo : BitVec 32
  uidHi : BitVec 32
  /-- lifecycle code (R450) -/
  lifecycle : Nat
  pwEn : Bool
  crEn : Bool
  /-- image key hash, 32 bytes (R46) -/
  keyHash : List (BitVec 8)
  /-- password hash, 32 bytes (R454) -/
  pwHash : List (BitVec 8)
  /-- per-device key, 32 bytes (R455) -/
  kDev : List (BitVec 8)
  /-- minimum security version, 0 to 64 (R459) -/
  minSv : Nat
  /-- DT_MIN of each power die, in MOD cycles (R183) -/
  dtMin0 : Nat
  dtMin1 : Nat
  /-- factory shims of the housekeeping converter, register format (R382) -/
  hkShim : BitVec 32
  deriving DecidableEq, Repr

/-- The OTP contents of the reset state (log entry 6). -/
def Otp.reset : Otp :=
  { uidLo := 0, uidHi := 0, lifecycle := 1, pwEn := false, crEn := false, keyHash := List.replicate 32 0,
    pwHash := List.replicate 32 0, kDev := List.replicate 32 0, minSv := 0, dtMin0 := 6, dtMin1 := 6, hkShim := 0 }

/-! ### Boot, image and veneer (02_configuration_boot) -/

/-- One attempt of the boot record (R53). -/
structure BootAttempt where
  source : Nat
  copy : Nat
  common : Bool
  lastCheck : Nat
  err : Nat
  ty : Nat
  inst : Nat
  deriving DecidableEq, Repr

/-- A directory entry of the image (R46, R480). -/
structure DirEntry where
  ty : Nat
  flags : Nat
  inst : Nat
  offset : Nat
  length : Nat
  crc : Nat
  sha : List (BitVec 8)
  deriving DecidableEq, Repr

/-- A map entry of the VENEERMAP (R62). -/
structure VMapEntry where
  kind : Nat
  signed : Bool
  target : BitVec 32
  mask : BitVec 32
  min : BitVec 32
  max : BitVec 32
  deriving DecidableEq, Repr

/-- A veneer record (R63). -/
structure VeneerRec where
  kind : Nat
  target : BitVec 32
  value : BitVec 32
  deriving DecidableEq, Repr

/-- A veneer apply under copy and validation (R64): the staging area as copied. -/
structure VeneerJob where
  bytes : List (BitVec 8)
  deriving DecidableEq, Repr

/-- A validated apply that waits for a glue-up (R65): its sequence number and its records with their masks. -/
structure VeneerWait where
  seq : BitVec 32
  recs : List (VeneerRec × BitVec 32)
  deriving DecidableEq, Repr

/-- A policy table: its identifier and its entries (R61). -/
structure PolTable where
  id : Nat
  entries : List (List (BitVec 8))
  deriving DecidableEq, Repr

/-- An image that passed its checks: its source, copy and header (R43, R56). -/
structure BootChoice where
  source : Nat
  copy : Nat
  common : Bool
  flags : Nat
  secver : BitVec 32
  configId : List (BitVec 8)
  dir : List DirEntry
  deriving DecidableEq, Repr

/-- Boot state that no register holds. -/
structure BootSt where
  /-- STATE of the boot record (R53) -/
  state : Nat
  /-- boot mode of this boot: 0 normal, 1 dry-fit, 2 prefer B (R55) -/
  mode : Nat
  /-- boot mode requested for the next boot (R55) -/
  reqMode : Nat
  /-- BOOTSEL value in use (R36); sampled once per power-on reset, held in SUP -/
  bootsel : Nat
  /-- BOOTSEL lay in none of the decoding bands (R36) -/
  bootselBad : Bool
  /-- the straps have been sampled since the last power-on reset (R36, R415) -/
  strapped : Bool
  /-- size of the flash in bytes, as its discovery gave it (R38, R432) -/
  flashSize : Nat
  /-- time of the last power-on reset, microseconds (T_EARLY and T_FULL count from it) -/
  porTime : Nat
  tEarly : Nat
  tFull : Nat
  /-- image copies still to be tried, as source (1 xSPI, 2 EEPROM) and copy (0 A, 1 B), the present one first (R43) -/
  plan : List (Nat × Nat)
  /-- the locator of the present source has been read: offsets of copies A and B, and whether they are the common ones -/
  loc : Option (Nat × Nat × Bool)
  /-- locator copies of the present source found bad so far (R44) -/
  locBad : Nat
  /-- flash discovery is done (R38) -/
  xspiFound : Bool
  /-- the flash runs 8D-8D-8D (R38) -/
  xspi8d : Bool
  /-- the EEPROM runs at 1 MHz for the rest of the boot (R40) -/
  eepFast : Bool
  /-- an NVM transaction lost arbitration and waits for STOP and its delay (R41) -/
  arbWait : Bool
  /-- failed stuck-bus recovery attempts (R42) -/
  stuckTries : Nat
  /-- stuck-bus recovery in progress (R42) -/
  stuck : Bool
  /-- an EEPROM address byte was not acknowledged and is to be retried (R481) -/
  nackRetry : Bool
  /-- attempts of this boot (R53) -/
  attempts : List BootAttempt
  /-- directory of the image in use, once checks 1 to 6 have passed (R47) -/
  dir : List DirEntry
  /-- the last check passed of the present attempt (R53) -/
  lastCheck : Nat
  secver : BitVec 32
  configId : List (BitVec 8)
  /-- source in use (0 none), copy in use, common entry used (ACTIVE of R53) -/
  actSource : Nat
  actCopy : Nat
  actCommon : Bool
  /-- re-reads made of each section of this attempt, as type, instance, count (R48) -/
  rereads : List (Nat × Nat × Nat)
  /-- BOOTCFG has been applied (R50, step 8) -/
  cfgApplied : Bool
  /-- the copy in use once checks 1 to 6 have passed; in dry-fit the first that passed every check, while the other copies are
  still being checked (R43, R56) -/
  chosen : Option BootChoice
  /-- the early sections are loaded and the firmware runs (R50, step 9) -/
  firmware : Bool
  /-- dry-fit results, 16 bytes each (R57) -/
  dryfit : List (List (BitVec 8))
  /-- dry-fit execution of 1 s has ended (R56) -/
  dryfitRan : Bool
  vmap : List VMapEntry
  vmapDropped : Nat
  /-- the apply being copied or validated (R64) -/
  job : Option VeneerJob
  /-- validated applies that wait for a glue-up, oldest first (R65) -/
  waiting : List VeneerWait
  /-- bytes a host has written over the boot and placement records, by address (R29) -/
  overlay : Tbl (Option (BitVec 8))
  /-- the policy tables in effect (R61, R51) -/
  policy : List PolTable
  deriving DecidableEq, Repr

/-- Boot state after a power-on reset. -/
def BootSt.reset : BootSt :=
  { state := 0, mode := 0, reqMode := 0, bootsel := 0, bootselBad := false, strapped := false, flashSize := 0, porTime := 0, tEarly := 0, tFull := 0,
    plan := [], loc := none, locBad := 0, xspiFound := false, xspi8d := false, eepFast := false, arbWait := false,
    stuckTries := 0, stuck := false, nackRetry := false, attempts := [], dir := [], lastCheck := 0,
    secver := 0, configId := List.replicate 8 0, actSource := 0, actCopy := 0, actCommon := false, rereads := [],
    cfgApplied := false, chosen := none, firmware := false, dryfit := [], dryfitRan := false, vmap := [], vmapDropped := 0, job := none, waiting := [],
    overlay := [], policy := [] }

/-! ### Gain switching (R86 to R88, R132) -/

/-- A gain that switches at a zero crossing or ramps (R86): the present gain and the target in units of 2^−24, the
samples left of a ramp in progress, and whether it waits for its zero crossing. -/
structure Sw where
  gain : Int
  target : Int
  left : Nat
  waiting : Bool
  deriving DecidableEq, Repr

/-- A gain at rest at 0. -/
def Sw.off : Sw := { gain := 0, target := 0, left := 0, waiting := false }

/-! ### Serial audio ports (03_audio_ports) -/

/-- How far a muted restart has come (R95). -/
inductive RestartPhase
  | none | ramping | capturing
  deriving DecidableEq, Repr

/-- State of one port that no register holds. -/
structure PortSt where
  /-- a command queued while STOPPING: true START, false ARM (R79) -/
  queued : Option Bool
  /-- the start frame S (R80) -/
  startAt : Option Nat
  /-- gain of each transmit slot (R86) -/
  txSw : Tbl Sw
  /-- receive FIFO, oldest frame first, at most 8 (R84) -/
  rxFifo : List (List (BitVec 32))
  /-- transmit FIFO, oldest frame first, at most 8 -/
  txFifo : List (List (BitVec 32))
  /-- the last frame written to the receive FIFO (R91) -/
  prevFrame : List (BitVec 32)
  /-- the last frame read by the DSP (R27, R84) -/
  lastRead : List (BitVec 32)
  /-- the slots of the last frame sent at DOUT, as sent; none is high impedance (R69, R70) -/
  sent : List (Option (BitVec 32))
  /-- owner sample periods since frame S, and those that had passed when the first frame started (R83) -/
  startPos : Nat
  firstAt : Option Nat
  /-- glitch marks of the last frames, newest first, at most 256 (R91) -/
  glitches : List Bool
  /-- sum and number of the frame periods being averaged (R91) -/
  periodSum : Nat
  periodCnt : Nat
  /-- samples of the playing frame already written to the transmit FIFO -/
  txPos : Nat
  /-- the validity bit sent with the last IEC frame (R75) -/
  sentV : Bool
  /-- consecutive frames clean under R93 -/
  cleanRun : Nat
  /-- times of automatic resumptions and restarts, microseconds (R93) -/
  autoTimes : List Nat
  /-- a muted restart in progress (R95) -/
  restart : RestartPhase
  /-- the muted restart is automatic -/
  restartAuto : Bool
  /-- a slot mask waits for the frame boundary; deferred by one frame (R89) -/
  maskPending : Bool
  maskDefer : Bool
  /-- a fault ramp of the port's contexts is running (R88) -/
  faultRamp : Bool
  /-- the first frame start since S has been seen (R80) -/
  frameSeen : Bool
  /-- frames drained since the last mute of a stop (R81) -/
  drained : Nat
  /-- channel status of subframes 1 of the previous received block (R73) -/
  csPrev : Option (BitVec 192)
  /-- channel status being transmitted (R75) -/
  csTx : BitVec 192
  /-- slots by which the words of the receive and of the transmit FIFO stand shifted after an overrun or underrun (R94) -/
  rxShift : Nat
  txShift : Nat
  /-- the last frame taken from the transmit FIFO (R27) -/
  txLast : List (BitVec 32)
  deriving DecidableEq, Repr

/-- A port in OFF with empty FIFOs. -/
def PortSt.reset : PortSt :=
  { queued := none, startAt := none, txSw := [], rxFifo := [], txFifo := [], prevFrame := [], lastRead := [],
    sent := [], startPos := 0, firstAt := none, periodSum := 0, periodCnt := 0, txPos := 0, sentV := false, glitches := [], cleanRun := 0, autoTimes := [], restart := .none, restartAuto := false,
    maskPending := false, maskDefer := false, faultRamp := false, frameSeen := false, drained := 0, csPrev := none,
    csTx := 0, rxShift := 0, txShift := 0, txLast := [] }

/-! ### Treras ring (04_treras_ring) -/

/-- Ring state that no register holds. -/
structure RingSt where
  /-- sample periods of the master's own timebase since the last F32 boundary (R103) -/
  phase : Nat
  /-- ring indexes emitted in the last 2d + 1 periods, newest first (R108) -/
  emitted : List Nat
  /-- the ring index J of the last frame received, or as the timebase goes on after a bad header (R103, R117) -/
  j : Nat
  /-- the alignment delay d received in ALIGN (R101) -/
  align : Nat
  /-- the aligned index that the member's timebase has reached (R103) -/
  index : Nat
  /-- RUN as this device sends it, or as last received (R110) -/
  run : Bool
  /-- the header rate matched this device's at the last header; on a master, R105 and EXPECT_LEN held at the last return
  (R110) -/
  rateOk : Bool
  /-- position and length hold since the ring first reached RUNNING (R101) -/
  fixed : Bool
  /-- first-pass areas of frames that returned, with the ring index of the frame that relays each (R104) -/
  relay : List (Nat × List (BitVec 32))
  /-- slot values on their way to their contexts: the aligned index they are delivered at, the slot, the word; none is a slot
  without a valid pass (R104, R118) -/
  inflight : List (Nat × Nat × Option (BitVec 32))
  /-- slot values of the previous frame, first and second pass (R117) -/
  prevFirst : List (BitVec 32)
  prevSecond : List (BitVec 32)
  /-- this device is the break head (R118) -/
  breakHead : Bool
  /-- consecutive clean frames at a break head's input; normal frames that returned to a master since a break (R119) -/
  cleanRun : Nat
  /-- this device is a candidate (R107) -/
  candidate : Bool
  /-- own election frames that returned in a row (R107) -/
  returns : Nat
  /-- transmit queue, oldest first; START, SYNC and REG_RSP carry `true` (R113) -/
  txq : List (Bool × List (BitVec 8))
  /-- receive queue, oldest first (R116) -/
  rxq : List (List (BitVec 8))
  /-- the originator's count (SEQ) -/
  seq : Nat
  /-- biscuits inserted in the present frame (R113) -/
  inserted : Nat
  /-- biscuits that leave with the present frame, by biscuit slot; those that left with the frame before -/
  slots : Tbl (List (BitVec 8))
  sentBiscuits : Tbl (List (BitVec 8))
  /-- slots lost in a break (R118) -/
  lost : List Nat
  /-- map words that take effect at the next F32 frame boundary, by register address (R111) -/
  mapDue : List (Nat × BitVec 32)
  /-- the last frame sent -/
  sent : Option RingFrame
  /-- POLICY biscuits handed to firmware (R113) -/
  policyIn : List (List (BitVec 8))
  deriving DecidableEq, Repr

/-- The link after a reset. -/
def RingSt.reset : RingSt :=
  { phase := 0, emitted := [], j := 0, align := 8, index := 0, run := false, rateOk := false, fixed := false, relay := [],
    inflight := [], prevFirst := [], prevSecond := [], breakHead := false, cleanRun := 0, candidate := false, returns := 0,
    txq := [], rxq := [], seq := 0, inserted := 0, slots := [], sentBiscuits := [], lost := [], mapDue := [], sent := none,
    policyIn := [] }

/-! ### DSP cluster (05_dsp_graph) -/

/-- A stream context beyond its registers: the present level gain in units of 2^−40 with the target and the samples left of
its ramp and the start of a new one (R132), the switch gain (R133), a fault ramp or fault mute (R88), the value of a control
context (R134) and the samples collected and not yet released (R128), the level and switch gains applied as each was
collected. -/
structure CtxSt where
  level : Int
  levelGoal : Int
  levelLeft : Nat
  levelDue : Bool
  sw : Sw
  /-- the source delivers and its slot is switched in (R80, R86) -/
  srcOn : Bool
  fault : Bool
  /-- a fault ramp starts at the first sample of the next input frame (R88) -/
  faultDue : Bool
  /-- value of a control context (R134) -/
  value : BitVec 32
  /-- the last word of the source, which an underrun repeats (R27) -/
  last : BitVec 32
  /-- samples collected, binary32, the gains applied (R124, R132) -/
  collected : List (BitVec 32)
  deriving DecidableEq, Repr

/-- A context after reset: level gain 1.0, switch gain 0. -/
def CtxSt.reset : CtxSt :=
  { level := 2 ^ 40, levelGoal := 2 ^ 40, levelLeft := 0, levelDue := false, sw := Sw.off, srcOn := false, fault := false, faultDue := false,
    value := 0, last := 0, collected := [] }

/-- A generator beyond its registers (R136): the frequency in effect (UQ16.16 Hz), the amplitude at the start of the
frame and the one it ramps to over the frame (UQ0.16), its phase in units of 2^−16 cycles per second of the owner's Fa,
and the number of samples it has produced. -/
structure GenSt where
  freq : BitVec 32
  amp : Nat
  /-- the amplitude at the end of the present F32 frame -/
  goal : Nat
  phase : Nat
  count : Nat
  deriving DecidableEq, Repr

/-- A generator after reset. -/
def GenSt.reset : GenSt := { freq := 0x03E80000, amp := 0, goal := 0, phase := 0, count := 0 }

/-- A SOUNDLIB entry (R137). -/
structure Sound where
  id : Nat
  format : Nat
  rate : Nat
  p0 : Bool
  looped : Bool
  offset : Nat
  length : Nat
  loopStart : Nat
  loopEnd : Nat
  /-- the entry comes from the early instance -/
  early : Bool
  /-- the stored samples, as the section holds them -/
  data : List (BitVec 8)
  deriving DecidableEq, Repr

/-- A voice of the sound player (R137 to R139): whether it sounds, its sound, the source position in units of
2^−27 ÷ 47 040 samples (every ratio of two rates is a whole number of them), the rate factor in units of 2^−27, the
samples left of a fade, whether it stops at its end, whether it has gone back to LOOP_START, and the coming samples that a late
fetch leaves at 0. -/
structure Voice where
  busy : Bool
  sound : Nat
  pos : Nat
  rate : Nat
  fade : Option Nat
  atEnd : Bool
  looped : Bool
  late : Nat
  deriving DecidableEq, Repr

/-- A voice that is silent. -/
def Voice.idle : Voice :=
  { busy := false, sound := 0, pos := 0, rate := 2 ^ 27, fade := none, atEnd := false, looped := false, late := 0 }

/-- A block record of the graph (R148). -/
structure Block where
  inst : Nat
  ty : Nat
  cls : Nat
  pclass : Nat
  asil : Bool
  params : List (BitVec 32)
  deriving DecidableEq, Repr

/-- An edge record of the graph. -/
structure Edge where
  srcInst : Nat
  srcPin : Nat
  dstInst : Nat
  dstPin : Nat
  channels : Nat
  deriving DecidableEq, Repr

/-- A terminal record of the graph: KIND 0 input context, 1 output context, 2 speaker output. -/
structure Terminal where
  kind : Nat
  number : Nat
  inst : Nat
  pin : Nat
  control : Bool
  deriving DecidableEq, Repr

/-- A signal graph (R148). -/
structure Graph where
  blocks : List Block
  edges : List Edge
  terms : List Terminal
  deriving DecidableEq, Repr

/-- No graph. -/
def Graph.empty : Graph := { blocks := [], edges := [], terms := [] }

/-- The AVAS synthesiser (R142, R143): the speed value of the last frame, whether its context was stale then, a veneer's write
of SPEED since, fallback, the speed in use (UQ16.16 km/h) with the frames left of the move to the present one, and the gain that
each layer has reached, binary32. -/
structure AvasSt where
  lastValue : BitVec 32
  stale : Bool
  fresh : Bool
  fallback : Bool
  speed : Int
  moveLeft : Nat
  gains : List (BitVec 32)
  deriving DecidableEq, Repr

/-- The synthesiser at its start. -/
def AvasSt.reset : AvasSt := { lastValue := 0, stale := false, fresh := false, fallback := false, speed := 0, moveLeft := 0, gains := [] }

/-- The chime player (R144): the request word last read, the chime playing, the repetitions each chime has started, the samples
since the start of the repetition, and the chime that fades out. -/
structure ChimeSt where
  request : BitVec 32
  playing : Option Nat
  played : Tbl Nat
  elapsed : Nat
  fading : Option Nat
  deriving DecidableEq, Repr

/-- The chime player at rest. -/
def ChimeSt.reset : ChimeSt := { request := 0, playing := none, played := [], elapsed := 0, fading := none }

/-- A look-ahead demand: the owner sample index of its first sample and its voltage, UQ6.10 (R145, R146). -/
structure Demand where
  tag : Nat
  volts : Nat
  deriving DecidableEq, Repr

/-- One frame of samples of every terminal of one kind: terminal number and samples. -/
abbrev FrameData := List (Nat × List (BitVec 32))

/-- A gain parameter on a ramp (R127): block instance, index, start value, samples done and samples in all. -/
structure ParamRamp where
  inst : Nat
  index : Nat
  start : BitVec 32
  done : Nat
  total : Nat
  deriving DecidableEq, Repr

/-- The frame of one class under computation (R128, R162 to R165): its input samples by context (none before the first
release), the blocks recovered from a detection in it, whether it is to be concealed, whether it was committed or
concealed, and the outputs of the last committed frame in binary32: speaker outputs, output contexts. -/
structure ClassSt where
  input : Option FrameData
  detected : List Nat
  doomed : Bool
  done : Bool
  committed : Option (FrameData × FrameData)
  deriving DecidableEq, Repr

/-- A class with no frame. -/
def ClassSt.reset : ClassSt := { input := none, detected := [], doomed := false, done := false, committed := none }

/-- Placement of one block (R153, R178): core (255 none), tier of its state (0 local, 1 shared, 2 DRAM), refused or run
by the partner, and the reason. -/
structure PlaceEntry where
  inst : Nat
  core : Nat
  tier : Nat
  state : Nat
  reason : Nat
  pclass : Nat
  deriving DecidableEq, Repr

/-- A placement in effect or waiting (R152, R178). -/
structure Placement where
  entries : List PlaceEntry
  mode : Nat
  deriving DecidableEq, Repr

/-- No placement. -/
def Placement.none : Placement := { entries := [], mode := 0 }

/-- Placement and recovery state (06_placement_glueup). -/
structure PlaceSt where
  /-- the placement in effect -/
  now : Placement
  /-- a placement computed that takes effect at an F32 boundary (R152, R170) -/
  next : Option Placement
  /-- SEQ of the placement record (R178) -/
  seq : BitVec 32
  /-- the mode was forced to relaxed (R175) -/
  forced : Bool
  /-- fenced cores, bit c for VCc (R169) -/
  cores : BitVec 4
  /-- fenced memory regions: memory instance and 64 KiB region (R169) -/
  regions : List (Nat × Nat)
  /-- unassigned DRAM spare regions (R158, R166) -/
  spare : Nat
  /-- regions, with their memory instance, whose contents move to a spare at the next F32 boundary (R166) -/
  moves : List (Nat × Nat)
  /-- outputs muted under R171 or R176, bit o -/
  muted : BitVec 16
  /-- where the fade of R171 stands by output, in thirty-seconds of the graph gain -/
  fade : Tbl Nat
  /-- blocks that the placement to come refuses: in their crossfade frame, and past it (R174) -/
  crossing : List Nat
  crossed : List Nat
  /-- fault ID of the last fence -/
  lastFence : BitVec 16
  /-- the cores that run fenced cores' blocks: fenced core, partner (R170) -/
  partner : List (Nat × Nat)
  /-- a migration is under way (R170, R172); its time is over and its last crossfade frame is not (R174) -/
  migrating : Bool
  late : Bool
  deriving DecidableEq, Repr

/-- No graph placed. -/
def PlaceSt.reset : PlaceSt :=
  { now := Placement.none, next := none, seq := 0, forced := false, cores := 0, regions := [], spare := 0, moves := [],
    muted := 0, fade := [], crossing := [], crossed := [], lastFence := 0, partner := [], migrating := false, late := false }

/-- DSP state that no register holds. -/
structure DspSt where
  ctx : Tbl CtxSt
  gens : Tbl GenSt
  sounds : List Sound
  voices : Tbl Voice
  /-- the graph of the early GRAPH section, checked and not yet placed (R50, step 12) -/
  graphDue : Option Graph
  /-- the graph placed (R131) -/
  graph : Graph
  /-- committed state of each block, by instance (R157) -/
  blockState : Tbl (List (BitVec 32))
  /-- the mirrors of the committed states in full-guarantee mode (R158) -/
  mirror : Tbl (List (BitVec 32))
  /-- blocks' gain parameters on a ramp (R127) -/
  paramRamp : List ParamRamp
  avas : Tbl AvasSt
  chimes : Tbl ChimeSt
  /-- F4 interval peaks of |x| × VFS that the look-ahead block has formed, binary32, newest first (R145) -/
  laPeaks : List (BitVec 32)
  /-- the demands that the look-ahead block has formed (UQ6.10 V), newest first, as far as its delay reaches (R145, R211) -/
  laHist : List Nat
  /-- the scale words 1 ÷ D, Q4.27, of the 32 samples of the last committed frame (R211) -/
  laWords : List Nat
  /-- the batch queued at the last glue-up (R146) -/
  laQueue : Option (List Demand)
  /-- the last batch committed (R146) -/
  laLast : List Demand
  /-- batches on their way to SUP, oldest first (R146) -/
  laSent : List (List Demand)
  /-- F32 frame periods in a row without a batch (R146) -/
  laMissed : Nat
  /-- the frame of class F32 -/
  f32 : ClassSt
  /-- the frame of class F4 -/
  f4 : ClassSt
  /-- the F4 frame of the F32 period, 0 to 7 -/
  sub : Nat
  /-- outputs of the last committed F32 frame, by 256 × instance + pin, and of the one that was the last at the present F32
  boundary: what the F4 side reads (R149) -/
  slowNext : Tbl (List (List (BitVec 32)))
  slowOut : Tbl (List (List (BitVec 32)))
  /-- outputs of the F4 frames of this F32 period and of the one before: what the F32 side reads (R149) -/
  fastNow : Tbl (List (List (BitVec 32)))
  fastPrev : Tbl (List (List (BitVec 32)))
  /-- the samples that play in this F32 period: speaker outputs (binary32) and output contexts (Q0.31), 32 each -/
  playing : FrameData × FrameData
  /-- placement and recovery -/
  place : PlaceSt
  deriving DecidableEq, Repr

/-- The cluster after a reset. -/
def DspSt.reset : DspSt :=
  { ctx := [], gens := [], sounds := [], voices := [], graphDue := none, graph := Graph.empty, blockState := [], mirror := [], paramRamp := [],
    avas := [], chimes := [], laPeaks := [], laHist := [], laWords := [], laQueue := none, laLast := [], laSent := [], laMissed := 0,
    f32 := ClassSt.reset, f4 := ClassSt.reset, sub := 0, slowNext := [], slowOut := [], fastNow := [], fastPrev := [],
    playing := ([], []), place := PlaceSt.reset }

/-! ### Decimation chain (11_decimation_chain) -/

/-- The decimated samples of a path in one frame and their status word (R274): SUPPRESSED_COUNT, OVR; VALID is a count of 0. -/
structure PathFrame where
  samples : List Int
  suppressed : Nat
  ovr : Bool
  deriving DecidableEq, Repr

/-- A frame without samples. -/
def PathFrame.empty : PathFrame := { samples := [], suppressed := 0, ovr := false }

/-- State of a path of the chain that no register holds (R266, R271, R274, R279, R281): the integrators and combs modulo
2^56, the inputs of the present Fi group, whether the number of Fi samples so far is odd, the last Fi samples (newest first) that
the compensation and the resampler work on, the resampler phase in units of 2^−24 Fc samples, the suppressed samples left of the
span, the outputs left that carry OVR, and the present and the last frame of the path for the F32 and for the F4 class. -/
structure PathSt where
  intg : List Nat
  comb : List Nat
  cnt : Nat
  odd : Bool
  fi : List Int
  phase : Int
  remain : Nat
  ovr : Nat
  cur : PathFrame
  cur4 : PathFrame
  frame : PathFrame
  frame4 : PathFrame
  deriving DecidableEq, Repr

/-- A path with every register clear. -/
def PathSt.reset : PathSt :=
  { intg := [], comb := [], cnt := 0, odd := false, fi := [], phase := 0, remain := 0, ovr := 0, cur := PathFrame.empty,
    cur4 := PathFrame.empty, frame := PathFrame.empty, frame4 := PathFrame.empty }

/-- A threshold unit (R285): samples in the present window, their peak and their sum of squares. -/
structure ThrSt where
  n : Nat
  peak : Nat
  sq : Nat
  deriving DecidableEq, Repr

/-- An empty window. -/
def ThrSt.reset : ThrSt := { n := 0, peak := 0, sq := 0 }

/-- State of the decimation chain that no register holds. -/
structure DecimSt where
  paths : Tbl PathSt
  thr : Tbl ThrSt
  /-- the chain has started since boot or the last block reset (R279, R284) -/
  started : Bool
  /-- a reset that waits for its aligned sample J (R282, R284) -/
  resetAt : Option (BitVec 32)
  /-- consecutive output samples with the phase error within ±0.05 (R276) -/
  close : Nat
  /-- the loop filter's state (R276) -/
  loopAcc : Int
  /-- mean owner period of the 64 frames that established TSRC_LOCKED (R276) -/
  seed : Nat
  deriving DecidableEq, Repr

/-- The chain before it starts. -/
def DecimSt.reset : DecimSt := { paths := [], thr := [], started := false, resetAt := none, close := 0, loopAcc := 0, seed := 0 }

/-! ### Outputs and bridges (07_output_stage) -/

/-- The gain ramp of an output (R192 to R194): at rest, waiting for a zero crossing, ramping with the slope of a full
ramp, or ramping to 0 in a fast-off with so many control samples left. -/
inductive OutRamp
  | rest | waiting | running | fast (left : Nat)
  deriving DecidableEq, Repr

/-- State of an output that no register holds. -/
structure OutSt where
  /-- the channels bound to it, the lower first (R189) -/
  chans : List Nat
  /-- the channel of a degraded pair that does not switch (R198) -/
  lost : Option Nat
  /-- the binding of a degraded pair changes at the next F32 boundary (R198) -/
  bindDue : Bool
  /-- present gain in units of 1/167 772 160: every full ramp moves a whole number of them per control sample -/
  gain : Nat
  ramp : OutRamp
  /-- the ramp, or the wait, is towards gain 1 -/
  up : Bool
  /-- control samples of the common-mode ramp done (R191) -/
  cm : Nat
  /-- the quick check in progress follows a stop (R191) -/
  post : Bool
  /-- a request that waits (R193) -/
  queued : Option Nat
  /-- times of the retries of the last 60 s (R197) -/
  retries : List Nat
  /-- the trip sequence drives the demagnetising state (R195) -/
  demag : Bool
  /-- a start waits for PLL A, PVDD or a sense calibration (R200, R344, R261) -/
  startDue : Bool
  /-- the lost channel is checked with its partner and rejoins (R198) -/
  rejoin : Bool
  /-- control samples left of the fade of an aborted sweep's tone (R318) -/
  tone : Nat
  /-- the sweep tone's phase in units of 2^−16 ÷ Fc of a period, and its frequency, UQ16.16 Hz (R319) -/
  tonePhase : Nat
  toneHz : Nat
  /-- a dropped output of the early graph ramps out before its binding ends (R51) -/
  dropDue : Bool
  /-- the retries are exhausted: it stays in TRIPPED (R197) -/
  exhausted : Bool
  deriving DecidableEq, Repr

/-- An output in OFF with no channel. -/
def OutSt.reset : OutSt :=
  { chans := [], lost := none, bindDue := false, gain := 0, ramp := .rest, up := false, cm := 0, post := false,
    queued := none, retries := [], demag := false, startDue := false, rejoin := false, tone := 0, tonePhase := 0, toneHz := 0, dropDue := false,
    exhausted := false }

/-- State of a channel's bridge that no register holds. -/
structure BridgeSt where
  /-- first cell of the active set of a leg (R185) -/
  rot : Nat
  /-- a lower cell count required by the present current, of legs P and N (R185) -/
  lowP : Option Nat
  lowN : Option Nat
  /-- largest |I| of the samples of the last microsecond, newest first (R185) -/
  iEnv : List Nat
  /-- quantisation residue of legs P and N, in units of 2^−19 of a MOD cycle (R182) -/
  resP : Nat
  resN : Nat
  /-- legs P and N are high (R182) -/
  highP : Bool
  highN : Bool
  /-- a leg was held at its limit in this carrier period (R183) -/
  heldP : Bool
  heldN : Bool
  /-- the commands of the last control sample and of the one before, Q0.17 (R182) -/
  cmdLast : Int
  cmdBefore : Int
  /-- the bridge sensor tripped it and has not yet read below 140 °C (R466) -/
  hot : Bool
  deriving DecidableEq, Repr

/-- A bridge at rest. -/
def BridgeSt.reset : BridgeSt :=
  { rot := 0, lowP := none, lowN := none, iEnv := [], resP := 0, resN := 0, highP := false, highN := false,
    heldP := false, heldN := false, cmdLast := 0, cmdBefore := 0, hot := false }

/-! ### Load diagnostics (13_load_diagnostics) -/

/-- A quick DC check (R314, R315): the output it serves, its channels, those it drives, whether DIAG_CMD asked for it. -/
structure QuickCheck where
  out : Nat
  chans : List Nat
  drives : Nat
  commanded : Bool
  deriving DecidableEq, Repr

/-- A commanded operation whose completion waits (R317): outputs named, outputs not yet finished, the most restrictive
code found. -/
structure DiagJob where
  /-- 1 DC check, 2 AC sweep -/
  op : Nat
  mask : Nat
  left : List Nat
  code : Nat
  deriving DecidableEq, Repr

/-- One point of a sweep (R319): frequency UQ16.16, magnitude UQ8.8, phase in 0.01°, the current at least 1 mA, at least
5 mA, how far the halves of the measurement lie apart in 0.1 %. -/
structure SweepPt where
  hz : Nat
  z : Nat
  phase : Int
  i1mA : Bool
  i5mA : Bool
  agree : Nat
  deriving DecidableEq, Repr

/-- One F32 frame of a measurement (R319): the voltage samples in units of 2^−25 V, those of the current, summed over the output's
channels, in units of 2^−26 A, and whether a path's frame carries VALID = 0 or OVR. -/
structure MeasFrame where
  v : List Int
  i : List Int
  bad : Bool
  deriving DecidableEq, Repr

/-- A sweep in progress (R318 to R321): the points measured so far, the frames since the present point began, the last one first,
whether it is measured again, whether it waits for its output to reach MUTED, whether it is paused for power, whether it is one of
dry-fit. -/
structure Sweep where
  pts : List SweepPt
  frames : List MeasFrame
  again : Bool
  starting : Bool
  paused : Bool
  dryfit : Bool
  deriving DecidableEq, Repr

/-- Impedance tracking of one band (R323): its baseline (UQ8.8 Ω), and whether the last evaluated period deviated. -/
structure TrackBand where
  base : Option Nat
  /-- the first evaluated period after FULL_RUNNING has been taken as a baseline -/
  first : Bool
  dev : Bool
  /-- |Z| of the last evaluated period (UQ8.8 Ω), which the governor takes (R363) -/
  z : Option Nat
  /-- the frames counted in the present period -/
  frames : Nat
  /-- Σ v_b² of these frames -/
  sumV : Nat
  /-- Σ i_b² of these frames -/
  sumI : Nat
  /-- the state of the band's filter of the voltage -/
  vState : List Int
  /-- the state of the band's filter of the current -/
  iState : List Int
  /-- the voltage sample before the next frame -/
  vLast : Int
  deriving DecidableEq, Repr

/-- A band that has not been evaluated. -/
def TrackBand.reset : TrackBand :=
  { base := none, first := false, dev := false, z := none, frames := 0, sumV := 0, sumI := 0, vState := [], iState := [], vLast := 0 }

/-- State of the load diagnostics that no register holds. -/
structure DiagSt where
  /-- quick checks waiting for source slots, in request order -/
  waiting : List QuickCheck
  /-- quick checks running -/
  running : List QuickCheck
  /-- time of the last completed check of each channel (R315) -/
  checked : Tbl (Option Nat)
  /-- commanded operations not yet complete -/
  jobs : List DiagJob
  /-- sweeps in progress, by output -/
  sweeps : Tbl (Option Sweep)
  /-- points of each output's last sweep, oldest first -/
  points : Tbl (List SweepPt)
  /-- tracking, by 4 × output + band -/
  track : Tbl TrackBand
  /-- boot DC diagnostics in progress (R312) -/
  boot : Bool
  /-- pairs whose two source phases disagreed about a join (R313) -/
  disagree : List Nat
  /-- findings of the standby line checks, kept in AON, as DIAG_STBY codes them (R324) -/
  stby : BitVec 32
  deriving DecidableEq, Repr

/-- The diagnostics after a reset. -/
def DiagSt.reset : DiagSt :=
  { waiting := [], running := [], checked := [], jobs := [], sweeps := [], points := [], track := [], boot := false,
    disagree := [], stby := 0 }

/-! ### Sense converters (10_sense_converters) -/

/-- Background estimators of an input over the present window (R256): samples and sums of raw codes of each slice, sums of
squares, the two sums of the skew estimate with their numbers, and whether the bridge switched throughout. -/
structure BgSt where
  n0 : Nat
  n1 : Nat
  sum0 : Int
  sum1 : Int
  sq0 : Nat
  sq1 : Nat
  nA : Nat
  nB : Nat
  skA : Int
  skB : Int
  switched : Bool
  deriving DecidableEq, Repr

/-- An empty window. -/
def BgSt.empty : BgSt :=
  { n0 := 0, n1 := 0, sum0 := 0, sum1 := 0, sq0 := 0, sq1 := 0, nA := 0, nB := 0, skA := 0, skB := 0, switched := true }

/-- State of one sense input that no register holds. -/
structure SenseSt where
  /-- the corrected sample delivered last: Q6.25 V or Q5.26 A (R253) -/
  value : Int
  /-- the corrected code y delivered last, in units of 2^−24 -/
  y : Int
  /-- y and the slice of the sample before, where the estimators take it (R256) -/
  prev : Option (Int × Bool)
  /-- consecutive overranged samples, and consecutive samples in range while OVR_ACTIVE (R262) -/
  overRun : Nat
  inRange : Nat
  /-- slice 0, slice 1 has a fault (R263) -/
  bad0 : Bool
  bad1 : Bool
  bg : BgSt
  /-- MODE before the calibration in progress (R261) -/
  before : Nat
  deriving DecidableEq, Repr

/-- An input that has delivered nothing. -/
def SenseSt.reset : SenseSt :=
  { value := 0, y := 0, prev := none, overRun := 0, inRange := 0, bad0 := false, bad1 := false, bg := BgSt.empty,
    before := 0 }

/-! ### Control engine, repetitive controller, trace buffers (08, 09) -/

/-- A swap requested for a group (R217): the bank, and whether it waits one more boundary. -/
structure SwapReq where
  bank : Nat
  late : Bool
  deriving DecidableEq, Repr

/-- State of a channel of the control engine that no register holds (R206 to R214, R220, R223): histories in Q6.25, the
error and the outputs of the last evaluation, the counts of consecutive samples, the path in effect. -/
structure LoopCh where
  e1 : Int
  e2 : Int
  e3 : Int
  y1 : Int
  y2 : Int
  y3 : Int
  /-- fallback path in effect -/
  fallback : Bool
  nEnter : Nat
  nSat : Nat
  nExit : Nat
  /-- the modulator reported a leg at its limit in the previous control period (R213) -/
  legLimit : Bool
  /-- duty issued last, with the balance trim of a pair, Q0.17 (R220) -/
  u : Int
  /-- balance trim, Q0.17 -/
  trim : Int
  /-- the last evaluation: r, v, e, i, y_main, y_fb, y, w, q, G, I_env, status nodes -/
  r : Int
  v : Int
  e : Int
  i : Int
  yMain : Int
  yFb : Int
  w : Int
  q : Int
  g : Nat
  nodes : Nat
  deriving DecidableEq, Repr

/-- A channel with its history at zero. -/
def LoopCh.reset : LoopCh :=
  { e1 := 0, e2 := 0, e3 := 0, y1 := 0, y2 := 0, y3 := 0, fallback := false, nEnter := 0, nSat := 0, nExit := 0,
    legLimit := false, u := 0, trim := 0, r := 0, v := 0, e := 0, i := 0, yMain := 0, yFb := 0, w := 0, q := 0, g := 0,
    nodes := 0 }

/-- A period tracker (R228, R229): edges of RC_SYNC counted towards a period, the time of the last period edge (nominal
LOOP cycles), the tracked period and phase, consecutive edges within and outside the tolerance. -/
structure Tracker where
  div : Nat
  last : Option Nat
  period : Nat
  phase : Nat
  hits : Nat
  misses : Nat
  locked : Bool
  deriving DecidableEq, Repr

/-- A tracker that has seen no edge. -/
def Tracker.reset : Tracker := { div := 0, last := none, period := 0, phase := 0, hits := 0, misses := 0, locked := false }

/-- State of a repetitive controller that no register holds (R231 to R238). -/
structure RcCh where
  /-- the table, Q6.25 by bin (R232) -/
  table : Tbl Int
  /-- the values of GAIN and CONV in effect (R239) -/
  gain : BitVec 32
  conv : BitVec 32
  /-- time since the tracker's period start, and since a new phase that waits for the bin boundary, in units of 2^−14 control samples
  (R231, R237) -/
  since : Nat
  step : Option Nat
  /-- the last period, UQ18.14, and the period latched on entry to LEARNING (R235) -/
  p : Nat
  pLearn : Nat
  /-- bin whose sum is being formed, its sum of e and the samples counted (R233) -/
  bin : Nat
  sum : Int
  cnt : Nat
  /-- mean error of the last completed bin, Q6.25 -/
  ebar : Int
  /-- sum of |ē| over the bins updated in this period, and their number (R234) -/
  resSum : Nat
  resCnt : Nat
  /-- consecutive periods at or below, and above twice, CONV_LEVEL (R235) -/
  good : Nat
  bad : Nat
  /-- periods spent in HOLD (R237) -/
  held : Nat
  /-- control samples left of a fade and its length; the state after it, as R235 codes it, and whether the table is kept -/
  fadeLeft : Nat
  fadeLen : Nat
  after : Nat
  keep : Bool
  deriving DecidableEq, Repr

/-- A controller after reset: GAIN and CONV at their reset values. -/
def RcCh.reset : RcCh :=
  { table := [], gain := 0, conv := 0x40290042, since := 0, step := none, p := 0, pLearn := 0, bin := 0, sum := 0, cnt := 0, ebar := 0,
    resSum := 0, resCnt := 0, good := 0, bad := 0, held := 0, fadeLeft := 0, fadeLen := 0, after := 0, keep := false }

/-- A trace buffer (R243 to R246): the samples of the record, oldest first, the samples still to capture in POST, and the
trigger node's value in the previous control sample. -/
structure TraceBuf where
  samples : List (List (BitVec 32))
  post : Nat
  prev : Option Int
  deriving DecidableEq, Repr

/-- An empty buffer. -/
def TraceBuf.reset : TraceBuf := { samples := [], post := 0, prev := none }

/-- State of the LOOP island that no register holds. -/
structure LoopSt where
  ch : Tbl LoopCh
  /-- swaps that wait for a control-sample boundary, by group (R217) -/
  swaps : Tbl (Option SwapReq)
  trk : Tbl Tracker
  rc : Tbl RcCh
  trace : Tbl TraceBuf
  /-- control samples since the last F32 frame boundary: the place in the playing frame -/
  csFrame : Nat
  /-- the speaker samples of the frame that played before (the interpolator's past) -/
  past : List (Nat × List (BitVec 32))
  /-- the scale words 1 ÷ D of the 32 samples that play, Q4.27; none before the first and once they have stopped for two F32
  periods (R211) -/
  scales : List Nat
  /-- control samples on the common count of the carriers, modulo 2016 (R184) -/
  carrier : Nat
  deriving DecidableEq, Repr

/-- The LOOP island after a reset. -/
def LoopSt.reset : LoopSt :=
  { ch := [], swaps := [], trk := [], rc := [], trace := [], csFrame := 0, past := [], scales := [], carrier := 0 }

/-! ### Speaker protection (12_speaker_protection) -/

/-- The thermal model of an output (R298 to R300, R307), binary32 words: ΔT1, ΔT2, T_vc, the last voltage sample taken, the
reduction A in dB, the gain of its own and the terminal gains in effect (link group included) at the ends of the frame that plays,
with the gain of a committed frame that plays next; the sums V_c, V_s, I_c, I_s of the pilot window, its frames, a frame that spoils
it; frames since the last correction; frames since the models stopped; T_vc has stood at T_MAX or above since the last frame. -/
structure ThermSt where
  dt1 : BitVec 32
  dt2 : BitVec 32
  tvc : BitVec 32
  vLast : BitVec 32
  att : BitVec 32
  own : BitVec 32
  gth : BitVec 32
  gthPrev : BitVec 32
  gthNext : Option (BitVec 32)
  acc : List (BitVec 32)
  frames : Nat
  spoiled : Bool
  age : Nat
  stopped : Option Nat
  hot : Bool
  /-- samples of the pilot made so far -/
  pilotN : Nat
  deriving DecidableEq, Repr

/-- The model before its first frame: every gain 1.0. -/
def ThermSt.reset : ThermSt :=
  { dt1 := 0, dt2 := 0, tvc := 0, vLast := 0, att := 0, own := 0x3F800000, gth := 0x3F800000, gthPrev := 0x3F800000, gthNext := none,
    acc := [], frames := 0, spoiled := false, age := 0, stopped := none, hot := false, pilotN := 0 }

/-- Protection state of an output that no register holds (R290 to R293, R304, R306). -/
structure GuardSt where
  /-- g_c, UQ1.31 -/
  gc : Nat
  /-- control samples of the hold before a release -/
  quiet : Nat
  /-- state of the proxy filter -/
  proxy : List Int
  /-- the present energy sub-window and the last 16 completed, newest first, in units of 2^−51 W control samples -/
  acc : Int
  subs : List Int
  /-- the energy clamp is exceeded -/
  eOver : Bool
  /-- a voltage episode, with the control samples since the last limited one -/
  vEpi : Option Nat
  /-- current, proxy and energy episodes in progress -/
  iEpi : Bool
  xEpi : Bool
  eEpi : Bool
  therm : ThermSt
  /-- g_x in effect, binary32, and the F32 frames in a row in which it was 1 -/
  gx : BitVec 32
  gxOnes : Nat
  /-- times of the disagreements of the last 10 s -/
  disTimes : List Nat
  /-- DIS_LIMIT is reached: the fallback set is due at the next F32 boundary -/
  fallbackDue : Bool
  deriving DecidableEq, Repr

/-- An output after a reset: g_c 1. -/
def GuardSt.reset : GuardSt :=
  { gc := 2147483648, quiet := 0, proxy := [], acc := 0, subs := [], eOver := false, vEpi := none, iEpi := false,
    xEpi := false, eEpi := false, therm := ThermSt.reset, gx := 0x3F800000, gxOnes := 0, disTimes := [],
    fallbackDue := false }

/-! ### Supply system (14_supply_system) -/

/-- What the sequencer is about (R329, R330, R349): running, in standby entry, in standby, in stage-1 lockout. -/
inductive PwrMode
  | run | entry | standby | lockout
  deriving DecidableEq, Repr

/-- A later stage of the sequencer record (R331): its rails, DELAY in 0.1 ms, TIMEOUT in ms. -/
structure SeqStage where
  rails : List Nat
  delay : Nat
  timeout : Nat
  deriving DecidableEq, Repr

/-- Supply state that no register holds. SUP and AON hold it; bit r of a mask stands for rail r (R331). -/
structure PmuSt where
  mode : PwrMode
  /-- stage 1 has started, from step 2 (R329) -/
  stage1 : Bool
  /-- failed stage-1 attempts of this run; the 100 ms wait after one (R330) -/
  tries : Nat
  retryWait : Bool
  /-- AON's record: last stage-1 rail that failed (7 none), a lockout since the last power-on reset (R330) -/
  lastFail : Nat
  lockedOut : Bool
  /-- rails in soft start; rails enabled; rails requested again while discharging (R334) -/
  soft : BitVec 9
  enabled : BitVec 9
  again : BitVec 9
  /-- stages of the sequencer record (R331), the index of the next one to start, rails of the stage in progress still open -/
  stages : List SeqStage
  nextStage : Nat
  opened : List Nat
  /-- the later stages have started, at boot lock (R332) -/
  seqOn : Bool
  /-- groups of rails still to go down in standby entry, the present one first (R333) -/
  down : List (List Nat)
  /-- demands queued in SUP, oldest first, with those active (R340) -/
  queue : List (Demand × Bool)
  /-- V_C when V_T last changed, that time, V_T (UQ6.10 V) (R340) -/
  vcFrom : Nat
  vcTime : Nat
  vT : Nat
  /-- demands are applied: PVDD has finished its soft start (R339) -/
  follow : Bool
  /-- PVDD has been in window for 10 ms (R344) -/
  pvddOk : Bool
  /-- the converter is stopped by an overcurrent, by an overvoltage, by VBAT above 65 V (R344, R328) -/
  ocp : Bool
  ov : Bool
  vbatStop : Bool
  /-- times of the overcurrent stops of the last second -/
  ocpTimes : List Nat
  /-- a second overcurrent stop within 1 s leaves the converter stopped (R344) -/
  pvddFail : Bool
  /-- PVDD has left its window and not yet been back for 10 ms (R344) -/
  pvddLost : Bool
  /-- V_T stands at PVDD_STATIC for want of batches (R341) -/
  laStatic : Bool
  /-- caps held in SUP (UQ6.10 V; the PVDD cap none while it stands at PVDD_STATIC), the CRASH latch, the CRASH_N pin held low (R358, R361) -/
  vPcap : Option Nat
  vHcap : Nat
  crash : Bool
  crashLow : Bool
  /-- time at which HOLDUP was entered (R347) -/
  huTime : Nat
  /-- a disable of CHG waits for the end of HOLDUP (R348) -/
  chgOff : Bool
  /-- a standby request waits for the end of HOLDUP (R348) -/
  stbyDue : Bool
  /-- a wake latched during standby entry, as WAKE_SRC codes it (R352) -/
  wakeDue : Nat
  /-- level of the WAKE pin; the WAKE_OFF count runs (R349) -/
  wakePin : Bool
  wakeCount : Bool
  /-- PMU_WAKECFG as mirrored in AON, and the wake cause (R350) -/
  wakeCfg : BitVec 32
  wakeSrc : Nat
  /-- consecutive housekeeping results out of band, by rail; the last one was out of its band (R345) -/
  outBand : Tbl Nat
  hkOut : BitVec 9
  deriving DecidableEq, Repr

/-- The supply after a power-on reset. -/
def PmuSt.reset : PmuSt :=
  { mode := .run, stage1 := false, tries := 0, retryWait := false, lastFail := 7, lockedOut := false, soft := 0,
    enabled := 0, again := 0, stages := [], nextStage := 0, opened := [], seqOn := false, down := [], queue := [],
    vcFrom := 0, vcTime := 0, vT := 0, follow := false, pvddOk := false, ocp := false, ov := false, vbatStop := false,
    ocpTimes := [], pvddFail := false, pvddLost := false, laStatic := false, vPcap := none, vHcap := 0, crash := false, crashLow := false, huTime := 0,
    chgOff := false, stbyDue := false, wakeDue := 0, wakePin := false, wakeCount := false,
    wakeCfg := 0x00000A07, wakeSrc := 0, outBand := [], hkOut := 0 }

/-! ### Energy governor (15_energy_governor) -/

/-- Governor state of an output that no register holds (R363 to R367): g_gov at the two ends of the frame in units of
2^−31, the sum of r² before the governor stage over the frame (Q12.50) with its samples and its peak, P3 power refused. -/
structure GovOut where
  gFrom : Nat
  gTo : Nat
  sumSq : Nat
  samples : Nat
  peak : Nat
  p3Refused : Bool
  /-- control samples since the HOLDUP signal forced the gain towards 0 (R367), at most 256; none once it is released -/
  hu : Option Nat
  deriving DecidableEq, Repr

/-- An output with gain 1. -/
def GovOut.reset : GovOut := { gFrom := 2147483648, gTo := 2147483648, sumSq := 0, samples := 0, peak := 0, p3Refused := false, hu := none }

/-- Governor state that no register holds. -/
structure GovSt where
  outs : Tbl GovOut
  /-- evaluations in a row with E more than 2 % above E_LIM (R357) -/
  overRun : Nat
  /-- converter output power of a PVDD_LIMITED episode (UQ12.4 W) for the next frame (R363) -/
  limitedAt : Option Nat
  /-- P_DISS as filtered, units of 2^−16 W (R363) -/
  pdiss : Nat
  /-- an ENERGY_OVER episode, a RESERVE_SHORT episode is in progress -/
  overOn : Bool
  shortOn : Bool
  /-- HOLD and PVDD switches on (R359) -/
  hdis : Bool
  pdis : Bool
  deriving DecidableEq, Repr

/-- The governor after a reset. -/
def GovSt.reset : GovSt := { outs := [], overRun := 0, limitedAt := none, pdiss := 0, overOn := false, shortOn := false, hdis := false, pdis := false }

/-! ### Housekeeping converter (16_housekeeping_adc) -/

/-- The configuration of an entry (R374 to R379, R385). -/
structure HkEnt where
  slot : Nat
  input : Nat
  n : Nat
  shift : Nat
  winEn : Bool
  fcol : Bool
  /-- backed rail, 0xF none -/
  back : Nat
  trig : Nat
  rep : Nat
  delay : Nat
  hi : Nat
  lo : Nat
  deriving DecidableEq, Repr

/-- A sequence: MODE, LEN, CAL_DT, TIMER and its entries (R385). -/
structure HkSeq where
  table : Bool
  len : Nat
  calDt : Nat
  timer : Nat
  ents : List HkEnt
  deriving DecidableEq, Repr

/-- An entry with a window. -/
def HkEnt.win (slot input n shift back lo hi : Nat) : HkEnt :=
  { slot := slot, input := input, n := n, shift := shift, winEn := true, fcol := false, back := back, trig := 0, rep := 1,
    delay := 0, hi := hi, lo := lo }

/-- An entry without a window. -/
def HkEnt.plain (slot input n shift : Nat) : HkEnt :=
  { slot := slot, input := input, n := n, shift := shift, winEn := false, fcol := false, back := 15, trig := 0, rep := 1,
    delay := 0, hi := 0xFFFF, lo := 0 }

/-- The default sequence (R384): windows of R335 in RESULT units, LO rounded down, HI rounded up. -/
def HkSeq.dflt : HkSeq :=
  { table := false, len := 32, calDt := 0, timer := 0, ents :=
      [HkEnt.plain 0 0 8 3, HkEnt.plain 1 1 8 3, HkEnt.win 2 2 8 3 7 533 2987, HkEnt.win 3 3 8 3 8 0 2773,
       HkEnt.win 4 4 8 3 0 3066 3600, HkEnt.win 5 5 8 3 1 2024 2376, HkEnt.win 6 6 8 3 2 2026 2240,
       HkEnt.win 7 7 8 3 3 2786 3080, HkEnt.win 8 8 8 3 4 1140 1260, HkEnt.win 9 9 8 3 5 1980 2420,
       HkEnt.win 10 10 8 3 6 1980 2420, HkEnt.plain 11 11 8 3] ++
      (List.range 16).map (fun i => HkEnt.plain (12 + i) (16 + i) 16 4) ++
      [HkEnt.plain 28 32 16 4, HkEnt.plain 29 33 16 4, HkEnt.plain 30 34 16 4, HkEnt.win 31 39 16 4 15 2007 2089] }

/-- The accumulator of an entry: sum and samples. -/
structure HkAcc where
  sum : Nat
  cnt : Nat
  deriving DecidableEq, Repr

/-- Housekeeping state that no register holds. -/
structure HkSt where
  seq : HkSeq
  /-- a sequence that waits for its slot boundary (R384) -/
  seqDue : Option HkSeq
  accs : Tbl HkAcc
  /-- the next step: position, settling slots and conversions done of the present visit (R374, R376) -/
  pos : Nat
  settled : Nat
  done : Nat
  /-- the injected entry that has the present slot (R373) -/
  inj : Option Nat
  /-- queued injected requests, by entry, oldest first (R375) -/
  queue : List Nat
  /-- the reference buffer is enabled (R380) -/
  refOn : Bool
  /-- boot calibration has started since the buffer was enabled at boot step 3 (R382) -/
  bootCal : Bool
  /-- a calibration abandoned by a clock stop runs again (R383) -/
  calAgain : Bool
  /-- PD0 die temperature at the last calibration, codes as a fraction (R383) -/
  calTemp : Option (Nat × Nat)
  deriving DecidableEq, Repr

/-- The converter before it starts: the default sequence. -/
def HkSt.reset : HkSt :=
  { seq := HkSeq.dflt, seqDue := none, accs := [], pos := 0, settled := 0, done := 0, inj := none, queue := [], refOn := false,
    bootCal := false, calAgain := false, calTemp := none }

/-! ### Fault collector (17_fault_collection) -/

/-- A fault event on its way to the collector (R389, R390). -/
abbrev Evt := Sys2Proof.FaultEvt

/-- An event in a queue of the collector: the event, the rule matched on arrival (R399), and whether it arrived in the
cycle of its window's rollover (R396). -/
structure QEvt where
  ev : Evt
  rule : Option Nat
  atRollover : Bool
  /-- a detection of the jig in contained mode (R412) -/
  contained : Bool
  deriving DecidableEq, Repr

/-- An active rule (R403, R404). -/
structure Rule where
  valid : Bool
  id : BitVec 16
  mask : BitVec 16
  window : Nat
  rThresh : Nat
  lThresh : Nat
  reactT : BitVec 8
  reactR : BitVec 8
  reactL : BitVec 8
  perInst : Bool
  deriving DecidableEq, Repr

/-- A rule that is not in use. -/
def Rule.none : Rule :=
  { valid := false, id := 0, mask := 0, window := 1000, rThresh := 3, lThresh := 10, reactT := 0, reactR := 0,
    reactL := 0, perInst := false }

/-- A counter of the collector (R394): the count of the window, and whether it has classified an event as lasting
(R397); and the same two of the window that closed last (R396). -/
structure Counter where
  n : Nat
  lasting : Bool
  prevN : Nat
  prevLasting : Bool
  deriving DecidableEq, Repr

/-- A counter at the start of a window. -/
def Counter.zero : Counter := { n := 0, lasting := false, prevN := 0, prevLasting := false }

/-- A unit that a fence takes out of use (R389, R399): a channel, a core, or a 64 KiB region of a memory instance. -/
inductive Unit'
  | channel (c : Nat)
  | core (c : Nat)
  | region (inst : Nat) (region : Nat)
  deriving DecidableEq, Repr

/-- State of the fault collector that no register holds. -/
structure FcolSt where
  /-- events raised by detectors and not yet arrived (R391) -/
  inFlight : List Evt
  /-- normal queue, oldest first (R391) -/
  normal : List QEvt
  /-- priority queue, oldest first (R391) -/
  prio : List QEvt
  /-- an intake overflow event is due when a place frees (R392) -/
  overflowDue : Bool
  /-- active rules (R404) -/
  rules : Tbl Rule
  /-- rule counters, by counter number (R394) -/
  ruleCtr : Tbl Counter
  /-- default bank: 16 × class + instance (R394) -/
  defCtr : Tbl Counter
  /-- times of the RESET reactions of the last 600 s, in microseconds (R401) -/
  resetTimes : List Nat
  /-- level of the ALIVE pin (R408) -/
  alive : Bool
  /-- ALIVE has been stopped and stays low until a reset that includes the digital die (R408) -/
  aliveStopped : Bool
  /-- fenced units (R393, R399) -/
  fenced : List Unit'
  /-- fences on their way to firmware (R399) -/
  fenceDue : List Unit'
  /-- units whose words the stream engine re-reads and checks; whether the F32 period in which it does runs (R398) -/
  reread : List (Unit' × Bool)
  /-- time of the last kick, or of the restart of the watchdog's timer, in microseconds (R409) -/
  wdogAt : Nat
  deriving DecidableEq, Repr

/-- The collector after a reset that clears all of it. -/
def FcolSt.reset : FcolSt :=
  { inFlight := [], normal := [], prio := [], overflowDue := false, rules := [], ruleCtr := [], defCtr := [],
    resetTimes := [], alive := false, aliveStopped := false, fenced := [], fenceDue := [], reread := [], wdogAt := 0 }

/-! ### Host and NVM buses (18_host_bus) -/

/-- The NVM operation in progress (R432, R433): operation, target, address, and the bytes a Program has taken. -/
structure NvmOp where
  op : Nat
  eeprom : Bool
  fast : Bool
  addr : Nat
  len : Nat
  data : List (BitVec 8)
  deriving DecidableEq, Repr

/-- State of the host and NVM buses that no register holds. -/
structure HbusSt where
  /-- the bytes the device returned in the last transaction that read it -/
  out : List (BitVec 8)
  /-- the device acknowledged every byte of the last transaction -/
  acked : Bool
  /-- a host bus strap lay in none of the decoding bands: HB_ADDR0, HB_ADDR1 (R415) -/
  strapBad0 : Bool
  strapBad1 : Bool
  /-- strap address index (R415) -/
  strap : Nat
  /-- the address of HBUS_CFG takes effect at the next idle (R416) -/
  addrPending : Bool
  /-- HBUS_CFG.ADDR is in use (R418) -/
  cfgAddrUsed : Bool
  /-- a boot has completed since power-on (R417) -/
  booted : Bool
  /-- the address the matcher compares in standby (R417) -/
  matchAddr : Nat
  /-- the matcher holds HB_SCL (R417) -/
  sclHeld : Bool
  /-- a match started the wake under way: WAKE_MATCH is due once the die runs (R417) -/
  matched : Bool
  /-- an alert response was won and the alert not yet reasserted (R429) -/
  alertWon : Bool
  /-- the NVM operation in progress (R432) -/
  nvm : Option NvmOp
  deriving DecidableEq, Repr

/-- The buses after a power-on reset. -/
def HbusSt.reset : HbusSt :=
  { out := [], acked := false, strapBad0 := false, strapBad1 := false, strap := 0, addrPending := false,
    cfgAddrUsed := false, booted := false, matchAddr := 0x40, sclHeld := false, matched := false, alertWon := false,
    nvm := none }

/-! ### Interrupt controller (19_interrupts) -/

/-- The states of a source (R437). -/
inductive SrcState
  | idle | held | pending | claimed
  deriving DecidableEq, Repr

/-- A completion queue entry (R446): SEQ, TYPE, the LOST flag and 12 data bytes. -/
structure CqEntry where
  seq : BitVec 16
  ty : BitVec 8
  lost : Bool
  data : List (BitVec 8)
  deriving DecidableEq, Repr

/-- An entry of policy table 0x0009 (R448). -/
structure PolSource where
  source : Nat
  minClass : Nat
  id : BitVec 16
  mask : BitVec 16
  deriving DecidableEq, Repr

/-- State of the interrupt controller that no register holds. -/
structure IntcSt where
  /-- the state of each source, 0 to 127, and 0x80 (R437) -/
  src : Tbl SrcState
  /-- the completion queue, oldest first (R446) -/
  cq : List CqEntry
  /-- the next entry carries LOST (R447) -/
  lostDue : Bool
  /-- the level of pseudo-source 0x80 as last sampled (R447) -/
  cqLevel : Bool
  /-- policy-defined sources (R448) -/
  pol : List PolSource
  /-- completions that fell during a reset: TYPE and data (R449) -/
  late : List (Nat × List (BitVec 8))
  deriving DecidableEq, Repr

/-- The controller after every reset that includes the digital die (R449). -/
def IntcSt.reset : IntcSt := { src := [], cq := [], lostDue := false, cqLevel := false, pol := [], late := [] }

/-! ### Security (20_security_debug) -/

/-- An unlock attempt under evaluation (R454, R455, R458). -/
inductive Attempt
  | password (bytes : List (BitVec 8))
  | response (bytes : List (BitVec 8)) (nonce : Option (List (BitVec 8)))
  deriving DecidableEq, Repr

/-- State of the security unit that no register holds. -/
structure SecSt where
  /-- the nonce outstanding (R455) -/
  nonce : Option (List (BitVec 8))
  /-- time at which it expires, in microseconds (R455) -/
  nonceUntil : Nat
  /-- the attempt under evaluation (R458) -/
  attempt : Option Attempt
  /-- a RELOCK came during the evaluation (R458) -/
  relocked : Bool
  /-- time at which the lockout that runs ends; AON keeps it over resets (R457, R458) -/
  lockUntil : Nat
  /-- the value being programmed (R460) -/
  svValue : Option Nat
  deriving DecidableEq, Repr

/-- The security unit after every reset that includes the digital die. -/
def SecSt.reset : SecSt := { nonce := none, nonceUntil := 0, attempt := none, relocked := false, lockUntil := 0, svValue := none }

/-- Why the device stops. No command stops it: every row of the table has its effect in every state, and a transaction the spec
calls an error ends in the status, event or completion that the spec gives it. Nothing raises a fault. -/
inductive Fault
  deriving DecidableEq, Repr

/-- Why a command has no meaning. -/
inductive Refusal
  /-- The command's meaning is not written. An arm of `exec` without a meaning raises it (safe); no arm does. -/
  | notModelled (mnemonic : String)
  deriving DecidableEq, Repr

/-- The state of the device. -/
structure State where
  /-- the registers that differ from their reset values, by address -/
  regs : Tbl (BitVec 32)
  /-- bytes of the shared SRAM and DRAM windows that differ from what an unlisted byte reads as -/
  mem : List Host.Cell
  /-- microseconds since the model's start: an idle step advances it (log entry 7) -/
  now : Nat
  /-- draws of the free values so far (log entry 4); the model's own field, not the spec's -/
  freeCount : Nat
  otp : Otp
  sys : SysSt
  boot : BootSt
  ports : Tbl PortSt
  dsp : DspSt
  fcol : FcolSt
  hbus : HbusSt
  intc : IntcSt
  sec : SecSt
  ring : RingSt
  outs : (Tbl OutSt)
  bridges : (Tbl BridgeSt)
  diag : DiagSt
  sense : (Tbl SenseSt)
  pmu : PmuSt
  loop : LoopSt
  decim : DecimSt
  guard : (Tbl GuardSt)
  spkSets : (List (List (BitVec 32)))
  gov : GovSt
  hk : HkSt
  /-- commands that wait, first in first out -/
  pending : List Sys2Proof.Instr
  deriving DecidableEq, Repr

/-- The device right after a power-on reset (R30, R33): every register at its reset value, memory with nothing listed,
stage 1 of the sequencer about to run. -/
def State.reset : State :=
  { regs := [], mem := [], now := 0, freeCount := 0, otp := Otp.reset, sys := SysSt.reset, boot := BootSt.reset,
    ports := [], dsp := DspSt.reset, fcol := FcolSt.reset, hbus := HbusSt.reset, intc := IntcSt.reset,
    sec := SecSt.reset,
    ring := RingSt.reset,
    outs := [],
    bridges := [],
    diag := DiagSt.reset,
    sense := [],
    pmu := PmuSt.reset,
    loop := LoopSt.reset,
    decim := DecimSt.reset,
    guard := [],
    spkSets := [],
    gov := GovSt.reset,
    hk := HkSt.reset,
    pending := [] }

end Sys2Proof.Machine
end

