-- ==== Sys2Proof/Machine/Fields.lean ====
section
/-!
DEFINITION. Machine/Fields.lean: the names of the spec for its registers (namespace A: their addresses) and for their
fields (namespace F), from the register tables of spec/.
-/

namespace Sys2Proof.Machine

/-- SYS_IDENT, spec/01_architecture.md. -/
@[reducible] def A.SYS_IDENT : Nat := 0x10000
/-- SYS_UID_LO, spec/01_architecture.md. -/
@[reducible] def A.SYS_UID_LO : Nat := 0x10004
/-- SYS_UID_HI, spec/01_architecture.md. -/
@[reducible] def A.SYS_UID_HI : Nat := 0x10008
/-- SYS_RSTCAUSE, spec/01_architecture.md. -/
@[reducible] def A.SYS_RSTCAUSE : Nat := 0x10010
/-- SYS_RSTCTRL, spec/01_architecture.md. -/
@[reducible] def A.SYS_RSTCTRL : Nat := 0x10014
/-- SYS_BLKRST, spec/01_architecture.md. -/
@[reducible] def A.SYS_BLKRST : Nat := 0x10018
/-- SYS_CLKSTAT, spec/01_architecture.md. -/
@[reducible] def A.SYS_CLKSTAT : Nat := 0x10020
/-- SYS_PLLA_CFG, spec/01_architecture.md. -/
@[reducible] def A.SYS_PLLA_CFG : Nat := 0x10024
/-- SYS_TSRC, spec/01_architecture.md. -/
@[reducible] def A.SYS_TSRC : Nat := 0x10028
/-- SYS_XING_ERR, spec/01_architecture.md. -/
@[reducible] def A.SYS_XING_ERR : Nat := 0x1002C
/-- PMU_SEQSTAT, spec/14_supply_system.md. -/
@[reducible] def A.PMU_SEQSTAT : Nat := 0x20000
/-- PMU_RAILSTAT, spec/14_supply_system.md. -/
@[reducible] def A.PMU_RAILSTAT : Nat := 0x20004
/-- PMU_RAILCTRL, spec/14_supply_system.md. -/
@[reducible] def A.PMU_RAILCTRL : Nat := 0x20008
/-- PMU_PVDD_RANGE, spec/14_supply_system.md. -/
@[reducible] def A.PMU_PVDD_RANGE : Nat := 0x20010
/-- PMU_PVDD_STATIC, spec/14_supply_system.md. -/
@[reducible] def A.PMU_PVDD_STATIC : Nat := 0x20014
/-- PMU_PVDD_SLEW, spec/14_supply_system.md. -/
@[reducible] def A.PMU_PVDD_SLEW : Nat := 0x20018
/-- PMU_PVDD_CFG, spec/14_supply_system.md. -/
@[reducible] def A.PMU_PVDD_CFG : Nat := 0x2001C
/-- PMU_ILIM, spec/14_supply_system.md. -/
@[reducible] def A.PMU_ILIM : Nat := 0x20020
/-- PMU_PVDD_STAT, spec/14_supply_system.md. -/
@[reducible] def A.PMU_PVDD_STAT : Nat := 0x20024
/-- PMU_PVDD_STAT2, spec/14_supply_system.md. -/
@[reducible] def A.PMU_PVDD_STAT2 : Nat := 0x20028
/-- PMU_HOLD_CFG, spec/14_supply_system.md. -/
@[reducible] def A.PMU_HOLD_CFG : Nat := 0x20030
/-- PMU_HOLD_CFG2, spec/14_supply_system.md. -/
@[reducible] def A.PMU_HOLD_CFG2 : Nat := 0x20034
/-- PMU_HOLD_STAT, spec/14_supply_system.md. -/
@[reducible] def A.PMU_HOLD_STAT : Nat := 0x20038
/-- PMU_MICB_CFG, spec/14_supply_system.md. -/
@[reducible] def A.PMU_MICB_CFG : Nat := 0x20040
/-- PMU_VMEAS, spec/14_supply_system.md. -/
@[reducible] def A.PMU_VMEAS : Nat := 0x20044
/-- PMU_SUPSTAT, spec/14_supply_system.md. -/
@[reducible] def A.PMU_SUPSTAT : Nat := 0x20048
/-- PMU_EVENT, spec/14_supply_system.md. -/
@[reducible] def A.PMU_EVENT : Nat := 0x20050
/-- PMU_IRQEN, spec/14_supply_system.md. -/
@[reducible] def A.PMU_IRQEN : Nat := 0x20054
/-- PMU_CNT, spec/14_supply_system.md. -/
@[reducible] def A.PMU_CNT : Nat := 0x20058
/-- PMU_CNT2, spec/14_supply_system.md. -/
@[reducible] def A.PMU_CNT2 : Nat := 0x2005C
/-- PMU_STBYCTRL, spec/14_supply_system.md. -/
@[reducible] def A.PMU_STBYCTRL : Nat := 0x20060
/-- PMU_WAKECFG, spec/14_supply_system.md. -/
@[reducible] def A.PMU_WAKECFG : Nat := 0x20064
/-- GOV_LIMIT, spec/15_energy_governor.md. -/
@[reducible] def A.GOV_LIMIT : Nat := 0x28000
/-- GOV_LIMIT_MAX, spec/15_energy_governor.md. -/
@[reducible] def A.GOV_LIMIT_MAX : Nat := 0x28004
/-- GOV_CAP, spec/15_energy_governor.md. -/
@[reducible] def A.GOV_CAP : Nat := 0x28008
/-- GOV_DISR, spec/15_energy_governor.md. -/
@[reducible] def A.GOV_DISR : Nat := 0x2800C
/-- GOV_STATUS, spec/15_energy_governor.md. -/
@[reducible] def A.GOV_STATUS : Nat := 0x28010
/-- GOV_ENERGY, spec/15_energy_governor.md. -/
@[reducible] def A.GOV_ENERGY : Nat := 0x28014
/-- GOV_CAPS, spec/15_energy_governor.md. -/
@[reducible] def A.GOV_CAPS : Nat := 0x28018
/-- GOV_BUDGET, spec/15_energy_governor.md. -/
@[reducible] def A.GOV_BUDGET : Nat := 0x2801C
/-- GOV_CTRL, spec/15_energy_governor.md. -/
@[reducible] def A.GOV_CTRL : Nat := 0x28020
/-- GOV_EVENT, spec/15_energy_governor.md. -/
@[reducible] def A.GOV_EVENT : Nat := 0x28024
/-- GOV_IRQEN, spec/15_energy_governor.md. -/
@[reducible] def A.GOV_IRQEN : Nat := 0x28028
/-- GOV_CNT, spec/15_energy_governor.md. -/
@[reducible] def A.GOV_CNT : Nat := 0x2802C
/-- GOV_PDISS, spec/15_energy_governor.md. -/
@[reducible] def A.GOV_PDISS : Nat := 0x28030
/-- GOV_LIMIT_CAUSEo, spec/15_energy_governor.md. -/
@[reducible] def A.GOV_LIMIT_CAUSEo (o : Nat) : Nat := 0x28100 + 0x10 * o
/-- GOV_OUTo_POWER, spec/15_energy_governor.md. -/
@[reducible] def A.GOV_OUTo_POWER (o : Nat) : Nat := 0x28104 + 0x10 * o
/-- GOV_OUTo_CNT, spec/15_energy_governor.md. -/
@[reducible] def A.GOV_OUTo_CNT (o : Nat) : Nat := 0x28108 + 0x10 * o
/-- HKADC_CTRL, spec/16_housekeeping_adc.md. -/
@[reducible] def A.HKADC_CTRL : Nat := 0x30000
/-- HKADC_STAT, spec/16_housekeeping_adc.md. -/
@[reducible] def A.HKADC_STAT : Nat := 0x30004
/-- HKADC_SHIM, spec/16_housekeeping_adc.md. -/
@[reducible] def A.HKADC_SHIM : Nat := 0x30008
/-- HKADC_TIMER, spec/16_housekeeping_adc.md. -/
@[reducible] def A.HKADC_TIMER : Nat := 0x3000C
/-- HKADC_EVENT, spec/16_housekeeping_adc.md. -/
@[reducible] def A.HKADC_EVENT : Nat := 0x30010
/-- HKADC_IRQEN, spec/16_housekeeping_adc.md. -/
@[reducible] def A.HKADC_IRQEN : Nat := 0x30014
/-- HKADC_WINEVT0, spec/16_housekeeping_adc.md. -/
@[reducible] def A.HKADC_WINEVT0 : Nat := 0x30018
/-- HKADC_WINEVT1, spec/16_housekeeping_adc.md. -/
@[reducible] def A.HKADC_WINEVT1 : Nat := 0x3001C
/-- HKADC_WINEN0, spec/16_housekeeping_adc.md. -/
@[reducible] def A.HKADC_WINEN0 : Nat := 0x30020
/-- HKADC_WINEN1, spec/16_housekeeping_adc.md. -/
@[reducible] def A.HKADC_WINEN1 : Nat := 0x30024
/-- HKADC_CNT, spec/16_housekeeping_adc.md. -/
@[reducible] def A.HKADC_CNT : Nat := 0x30028
/-- HKADC_CNT2, spec/16_housekeeping_adc.md. -/
@[reducible] def A.HKADC_CNT2 : Nat := 0x3002C
/-- HKADC_ENTk_CFG, spec/16_housekeeping_adc.md. -/
@[reducible] def A.HKADC_ENTk_CFG (k : Nat) : Nat := 0x31000 + 0x20 * k
/-- HKADC_ENTk_SEQ, spec/16_housekeeping_adc.md. -/
@[reducible] def A.HKADC_ENTk_SEQ (k : Nat) : Nat := 0x31004 + 0x20 * k
/-- HKADC_ENTk_WIN, spec/16_housekeeping_adc.md. -/
@[reducible] def A.HKADC_ENTk_WIN (k : Nat) : Nat := 0x31008 + 0x20 * k
/-- HKADC_ENTk_RES, spec/16_housekeeping_adc.md. -/
@[reducible] def A.HKADC_ENTk_RES (k : Nat) : Nat := 0x3100C + 0x20 * k
/-- HKADC_ENTk_MM, spec/16_housekeeping_adc.md. -/
@[reducible] def A.HKADC_ENTk_MM (k : Nat) : Nat := 0x31010 + 0x20 * k
/-- SENSE_CTRL, spec/10_sense_converters.md. -/
@[reducible] def A.SENSE_CTRL : Nat := 0x40000
/-- SENSE_STAT, spec/10_sense_converters.md. -/
@[reducible] def A.SENSE_STAT : Nat := 0x40004
/-- SENSE_EVENT, spec/10_sense_converters.md. -/
@[reducible] def A.SENSE_EVENT : Nat := 0x40008
/-- SENSE_CNT, spec/10_sense_converters.md. -/
@[reducible] def A.SENSE_CNT : Nat := 0x4000C
/-- SENSE_OVR_LIM, spec/10_sense_converters.md. -/
@[reducible] def A.SENSE_OVR_LIM : Nat := 0x40010
/-- SENSE_INk_OFS, spec/10_sense_converters.md. -/
@[reducible] def A.SENSE_INk_OFS (k : Nat) : Nat := 0x41000 + 0x20 * k
/-- SENSE_INk_GAIN, spec/10_sense_converters.md. -/
@[reducible] def A.SENSE_INk_GAIN (k : Nat) : Nat := 0x41004 + 0x20 * k
/-- SENSE_INk_SKEW, spec/10_sense_converters.md. -/
@[reducible] def A.SENSE_INk_SKEW (k : Nat) : Nat := 0x41008 + 0x20 * k
/-- SENSE_INk_STAT, spec/10_sense_converters.md. -/
@[reducible] def A.SENSE_INk_STAT (k : Nat) : Nat := 0x4100C + 0x20 * k
/-- SENSE_INk_CNT, spec/10_sense_converters.md. -/
@[reducible] def A.SENSE_INk_CNT (k : Nat) : Nat := 0x41010 + 0x20 * k
/-- SENSE_INk_PEAK, spec/10_sense_converters.md. -/
@[reducible] def A.SENSE_INk_PEAK (k : Nat) : Nat := 0x41014 + 0x20 * k
/-- DECIM_CFG, spec/11_decimation_chain.md. -/
@[reducible] def A.DECIM_CFG : Nat := 0x50000
/-- DECIM_DELAY, spec/11_decimation_chain.md. -/
@[reducible] def A.DECIM_DELAY : Nat := 0x50004
/-- DECIM_RATIO, spec/11_decimation_chain.md. -/
@[reducible] def A.DECIM_RATIO : Nat := 0x50008
/-- DECIM_TRK, spec/11_decimation_chain.md. -/
@[reducible] def A.DECIM_TRK : Nat := 0x5000C
/-- DECIM_TRKSTAT, spec/11_decimation_chain.md. -/
@[reducible] def A.DECIM_TRKSTAT : Nat := 0x50010
/-- DECIM_PHERR, spec/11_decimation_chain.md. -/
@[reducible] def A.DECIM_PHERR : Nat := 0x50014
/-- DECIM_SYNC, spec/11_decimation_chain.md. -/
@[reducible] def A.DECIM_SYNC : Nat := 0x50018
/-- DECIM_SYNCSTAT, spec/11_decimation_chain.md. -/
@[reducible] def A.DECIM_SYNCSTAT : Nat := 0x5001C
/-- DECIM_EVENT, spec/11_decimation_chain.md. -/
@[reducible] def A.DECIM_EVENT : Nat := 0x50020
/-- DECIM_IRQEN, spec/11_decimation_chain.md. -/
@[reducible] def A.DECIM_IRQEN : Nat := 0x50024
/-- DECIM_CNT, spec/11_decimation_chain.md. -/
@[reducible] def A.DECIM_CNT : Nat := 0x50028
/-- DECIM_PATHk_CFG, spec/11_decimation_chain.md. -/
@[reducible] def A.DECIM_PATHk_CFG (k : Nat) : Nat := 0x51000 + 0x10 * k
/-- DECIM_PATHk_STAT, spec/11_decimation_chain.md. -/
@[reducible] def A.DECIM_PATHk_STAT (k : Nat) : Nat := 0x51004 + 0x10 * k
/-- DECIM_PATHk_VAL, spec/11_decimation_chain.md. -/
@[reducible] def A.DECIM_PATHk_VAL (k : Nat) : Nat := 0x51008 + 0x10 * k
/-- DECIM_PATHk_CNT, spec/11_decimation_chain.md. -/
@[reducible] def A.DECIM_PATHk_CNT (k : Nat) : Nat := 0x5100C + 0x10 * k
/-- DECIM_THRu_CFG, spec/11_decimation_chain.md. -/
@[reducible] def A.DECIM_THRu_CFG (u : Nat) : Nat := 0x50200 + 0x10 * u
/-- DECIM_THRu_HI, spec/11_decimation_chain.md. -/
@[reducible] def A.DECIM_THRu_HI (u : Nat) : Nat := 0x50204 + 0x10 * u
/-- DECIM_THRu_LO, spec/11_decimation_chain.md. -/
@[reducible] def A.DECIM_THRu_LO (u : Nat) : Nat := 0x50208 + 0x10 * u
/-- DECIM_THRu_STAT, spec/11_decimation_chain.md. -/
@[reducible] def A.DECIM_THRu_STAT (u : Nat) : Nat := 0x5020C + 0x10 * u
/-- LOOP_PVDDSTAT, spec/08_control_engine.md. -/
@[reducible] def A.LOOP_PVDDSTAT : Nat := 0x60000
/-- LOOP_BANKSEL, spec/08_control_engine.md. -/
@[reducible] def A.LOOP_BANKSEL : Nat := 0x60004
/-- LOOP_BANKACT, spec/08_control_engine.md. -/
@[reducible] def A.LOOP_BANKACT : Nat := 0x60008
/-- LOOP_SWAPSTAMP, spec/08_control_engine.md. -/
@[reducible] def A.LOOP_SWAPSTAMP : Nat := 0x6000C
/-- LOOP_CSCNT, spec/08_control_engine.md. -/
@[reducible] def A.LOOP_CSCNT : Nat := 0x60010
/-- LOOP_EVENT, spec/08_control_engine.md. -/
@[reducible] def A.LOOP_EVENT : Nat := 0x60014
/-- LOOP_IRQEN, spec/08_control_engine.md. -/
@[reducible] def A.LOOP_IRQEN : Nat := 0x60018
/-- LOOP_RESCNT, spec/08_control_engine.md. -/
@[reducible] def A.LOOP_RESCNT : Nat := 0x6001C
/-- LOOP_UNRECCNT, spec/08_control_engine.md. -/
@[reducible] def A.LOOP_UNRECCNT : Nat := 0x60020
/-- LOOP_CMDCNT, spec/08_control_engine.md. -/
@[reducible] def A.LOOP_CMDCNT : Nat := 0x60024
/-- LOOP_CHc_CFG, spec/08_control_engine.md. -/
@[reducible] def A.LOOP_CHc_CFG (c : Nat) : Nat := 0x61000 + 0x40 * c
/-- LOOP_CHc_STAT, spec/08_control_engine.md. -/
@[reducible] def A.LOOP_CHc_STAT (c : Nat) : Nat := 0x61004 + 0x40 * c
/-- LOOP_CHc_STICKY, spec/08_control_engine.md. -/
@[reducible] def A.LOOP_CHc_STICKY (c : Nat) : Nat := 0x61008 + 0x40 * c
/-- LOOP_CHc_SATCNT, spec/08_control_engine.md. -/
@[reducible] def A.LOOP_CHc_SATCNT (c : Nat) : Nat := 0x6100C + 0x40 * c
/-- LOOP_CHc_ERRPK, spec/08_control_engine.md. -/
@[reducible] def A.LOOP_CHc_ERRPK (c : Nat) : Nat := 0x61010 + 0x40 * c
/-- LOOP_CHc_REFDLY, spec/08_control_engine.md. -/
@[reducible] def A.LOOP_CHc_REFDLY (c : Nat) : Nat := 0x61014 + 0x40 * c
/-- LOOP_CHc_SCALE, spec/08_control_engine.md. -/
@[reducible] def A.LOOP_CHc_SCALE (c : Nat) : Nat := 0x61018 + 0x40 * c
/-- LOOP_CHc_BANKb_Wk, spec/08_control_engine.md. -/
@[reducible] def A.LOOP_CHc_BANKb_Wk (c b k : Nat) : Nat := 0x64000 + 0x80 * c + 0x40 * b + 4 * k
/-- LOOP_CHc_FBk, spec/08_control_engine.md. -/
@[reducible] def A.LOOP_CHc_FBk (c k : Nat) : Nat := 0x66000 + 0x200 * c + 8 * k
/-- LOOP_CHc_FBk_SLOPE, spec/08_control_engine.md. -/
@[reducible] def A.LOOP_CHc_FBk_SLOPE (c k : Nat) : Nat := 0x66004 + 0x200 * c + 8 * k
/-- LOOP_RC_SRC, spec/09_repetitive_trace.md. -/
@[reducible] def A.LOOP_RC_SRC : Nat := 0x68000
/-- LOOP_RC_PERIODs, spec/09_repetitive_trace.md. -/
@[reducible] def A.LOOP_RC_PERIODs (s : Nat) : Nat := 0x68010 + 4 * s
/-- LOOP_RC_TRKSTAT, spec/09_repetitive_trace.md. -/
@[reducible] def A.LOOP_RC_TRKSTAT : Nat := 0x6801C
/-- LOOP_RC_EST, spec/09_repetitive_trace.md. -/
@[reducible] def A.LOOP_RC_EST : Nat := 0x68020
/-- LOOP_RC_EST_BAND, spec/09_repetitive_trace.md. -/
@[reducible] def A.LOOP_RC_EST_BAND : Nat := 0x68024
/-- LOOP_RC_TBLSEL, spec/09_repetitive_trace.md. -/
@[reducible] def A.LOOP_RC_TBLSEL : Nat := 0x68040
/-- LOOP_RC_CNT, spec/09_repetitive_trace.md. -/
@[reducible] def A.LOOP_RC_CNT : Nat := 0x68044
/-- LOOP_RC_CHc_CFG, spec/09_repetitive_trace.md. -/
@[reducible] def A.LOOP_RC_CHc_CFG (c : Nat) : Nat := 0x68100 + 0x20 * c
/-- LOOP_RC_CHc_GAIN, spec/09_repetitive_trace.md. -/
@[reducible] def A.LOOP_RC_CHc_GAIN (c : Nat) : Nat := 0x68104 + 0x20 * c
/-- LOOP_RC_CHc_CONV, spec/09_repetitive_trace.md. -/
@[reducible] def A.LOOP_RC_CHc_CONV (c : Nat) : Nat := 0x68108 + 0x20 * c
/-- LOOP_RC_CHc_CTRL, spec/09_repetitive_trace.md. -/
@[reducible] def A.LOOP_RC_CHc_CTRL (c : Nat) : Nat := 0x6810C + 0x20 * c
/-- LOOP_RC_CHc_STAT, spec/09_repetitive_trace.md. -/
@[reducible] def A.LOOP_RC_CHc_STAT (c : Nat) : Nat := 0x68110 + 0x20 * c
/-- LOOP_RC_CHc_RESID, spec/09_repetitive_trace.md. -/
@[reducible] def A.LOOP_RC_CHc_RESID (c : Nat) : Nat := 0x68114 + 0x20 * c
/-- LOOP_RC_TBLk, spec/09_repetitive_trace.md. -/
@[reducible] def A.LOOP_RC_TBLk (k : Nat) : Nat := 0x6C000 + 4 * k
/-- MOD_DIEd_CFG, spec/07_output_stage.md. -/
@[reducible] def A.MOD_DIEd_CFG (d : Nat) : Nat := 0x70000 + 0x10 * d
/-- MOD_DIEd_SHED, spec/07_output_stage.md. -/
@[reducible] def A.MOD_DIEd_SHED (d : Nat) : Nat := 0x70004 + 0x10 * d
/-- MOD_DIEd_STAT, spec/07_output_stage.md. -/
@[reducible] def A.MOD_DIEd_STAT (d : Nat) : Nat := 0x70008 + 0x10 * d
/-- MOD_RAMP, spec/07_output_stage.md. -/
@[reducible] def A.MOD_RAMP : Nat := 0x70020
/-- MOD_BIND, spec/07_output_stage.md. -/
@[reducible] def A.MOD_BIND : Nat := 0x70024
/-- MOD_PHASEc, spec/07_output_stage.md. -/
@[reducible] def A.MOD_PHASEc (c : Nat) : Nat := 0x70040 + 4 * c
/-- MOD_OUTo_CFG, spec/07_output_stage.md. -/
@[reducible] def A.MOD_OUTo_CFG (o : Nat) : Nat := 0x70100 + 0x20 * o
/-- MOD_OUTo_CTRL, spec/07_output_stage.md. -/
@[reducible] def A.MOD_OUTo_CTRL (o : Nat) : Nat := 0x70104 + 0x20 * o
/-- MOD_OUTo_STAT, spec/07_output_stage.md. -/
@[reducible] def A.MOD_OUTo_STAT (o : Nat) : Nat := 0x70108 + 0x20 * o
/-- MOD_OUTo_EVENT, spec/07_output_stage.md. -/
@[reducible] def A.MOD_OUTo_EVENT (o : Nat) : Nat := 0x7010C + 0x20 * o
/-- MOD_OUTo_IRQEN, spec/07_output_stage.md. -/
@[reducible] def A.MOD_OUTo_IRQEN (o : Nat) : Nat := 0x70110 + 0x20 * o
/-- MOD_CHc_CFG, spec/07_output_stage.md. -/
@[reducible] def A.MOD_CHc_CFG (c : Nat) : Nat := 0x70400 + 0x10 * c
/-- MOD_CHc_STAT, spec/07_output_stage.md. -/
@[reducible] def A.MOD_CHc_STAT (c : Nat) : Nat := 0x70404 + 0x10 * c
/-- MOD_CHc_CNT, spec/07_output_stage.md. -/
@[reducible] def A.MOD_CHc_CNT (c : Nat) : Nat := 0x70408 + 0x10 * c
/-- GUARD_RAISECNT, spec/12_speaker_protection.md. -/
@[reducible] def A.GUARD_RAISECNT : Nat := 0x80000
/-- GUARD_OUTo_VCLAMP, spec/12_speaker_protection.md. -/
@[reducible] def A.GUARD_OUTo_VCLAMP (o : Nat) : Nat := 0x80100 + 0x40 * o
/-- GUARD_OUTo_ICLAMP, spec/12_speaker_protection.md. -/
@[reducible] def A.GUARD_OUTo_ICLAMP (o : Nat) : Nat := 0x80104 + 0x40 * o
/-- GUARD_OUTo_XCLAMP, spec/12_speaker_protection.md. -/
@[reducible] def A.GUARD_OUTo_XCLAMP (o : Nat) : Nat := 0x80108 + 0x40 * o
/-- GUARD_OUTo_ECLAMP, spec/12_speaker_protection.md. -/
@[reducible] def A.GUARD_OUTo_ECLAMP (o : Nat) : Nat := 0x8010C + 0x40 * o
/-- GUARD_OUTo_CLSTAT, spec/12_speaker_protection.md. -/
@[reducible] def A.GUARD_OUTo_CLSTAT (o : Nat) : Nat := 0x80110 + 0x40 * o
/-- GUARD_OUTo_MEAS, spec/12_speaker_protection.md. -/
@[reducible] def A.GUARD_OUTo_MEAS (o : Nat) : Nat := 0x80114 + 0x40 * o
/-- GUARD_OUTo_THERM, spec/12_speaker_protection.md. -/
@[reducible] def A.GUARD_OUTo_THERM (o : Nat) : Nat := 0x80118 + 0x40 * o
/-- GUARD_OUTo_RE, spec/12_speaker_protection.md. -/
@[reducible] def A.GUARD_OUTo_RE (o : Nat) : Nat := 0x8011C + 0x40 * o
/-- GUARD_OUTo_GAIN, spec/12_speaker_protection.md. -/
@[reducible] def A.GUARD_OUTo_GAIN (o : Nat) : Nat := 0x80120 + 0x40 * o
/-- GUARD_OUTo_XPRED, spec/12_speaker_protection.md. -/
@[reducible] def A.GUARD_OUTo_XPRED (o : Nat) : Nat := 0x80124 + 0x40 * o
/-- GUARD_OUTo_STAT, spec/12_speaker_protection.md. -/
@[reducible] def A.GUARD_OUTo_STAT (o : Nat) : Nat := 0x80128 + 0x40 * o
/-- GUARD_OUTo_EVENT, spec/12_speaker_protection.md. -/
@[reducible] def A.GUARD_OUTo_EVENT (o : Nat) : Nat := 0x8012C + 0x40 * o
/-- GUARD_OUTo_IRQEN, spec/12_speaker_protection.md. -/
@[reducible] def A.GUARD_OUTo_IRQEN (o : Nat) : Nat := 0x80130 + 0x40 * o
/-- GUARD_OUTo_CNT, spec/12_speaker_protection.md. -/
@[reducible] def A.GUARD_OUTo_CNT (o : Nat) : Nat := 0x80134 + 0x40 * o
/-- GUARD_OUTo_DISCNT, spec/12_speaker_protection.md. -/
@[reducible] def A.GUARD_OUTo_DISCNT (o : Nat) : Nat := 0x80138 + 0x40 * o
/-- DIAG_CMD, spec/13_load_diagnostics.md. -/
@[reducible] def A.DIAG_CMD : Nat := 0x90000
/-- DIAG_STAT, spec/13_load_diagnostics.md. -/
@[reducible] def A.DIAG_STAT : Nat := 0x90004
/-- DIAG_CFG, spec/13_load_diagnostics.md. -/
@[reducible] def A.DIAG_CFG : Nat := 0x90008
/-- DIAG_CNT, spec/13_load_diagnostics.md. -/
@[reducible] def A.DIAG_CNT : Nat := 0x9000C
/-- DIAG_PAIR, spec/13_load_diagnostics.md. -/
@[reducible] def A.DIAG_PAIR : Nat := 0x90010
/-- DIAG_STBY, spec/13_load_diagnostics.md. -/
@[reducible] def A.DIAG_STBY : Nat := 0x90014
/-- DIAG_SWSEL, spec/13_load_diagnostics.md. -/
@[reducible] def A.DIAG_SWSEL : Nat := 0x90018
/-- DIAG_CHc_DC, spec/13_load_diagnostics.md. -/
@[reducible] def A.DIAG_CHc_DC (c : Nat) : Nat := 0x90100 + 0x10 * c
/-- DIAG_CHc_AGE, spec/13_load_diagnostics.md. -/
@[reducible] def A.DIAG_CHc_AGE (c : Nat) : Nat := 0x90104 + 0x10 * c
/-- DIAG_OUTo_AC, spec/13_load_diagnostics.md. -/
@[reducible] def A.DIAG_OUTo_AC (o : Nat) : Nat := 0x90400 + 0x20 * o
/-- DIAG_OUTo_ACF, spec/13_load_diagnostics.md. -/
@[reducible] def A.DIAG_OUTo_ACF (o : Nat) : Nat := 0x90404 + 0x20 * o
/-- DIAG_OUTo_TRK, spec/13_load_diagnostics.md. -/
@[reducible] def A.DIAG_OUTo_TRK (o : Nat) : Nat := 0x90408 + 0x20 * o
/-- DIAG_OUTo_EVENT, spec/13_load_diagnostics.md. -/
@[reducible] def A.DIAG_OUTo_EVENT (o : Nat) : Nat := 0x9040C + 0x20 * o
/-- DIAG_OUTo_IRQEN, spec/13_load_diagnostics.md. -/
@[reducible] def A.DIAG_OUTo_IRQEN (o : Nat) : Nat := 0x90410 + 0x20 * o
/-- DIAG_SWPk_F, spec/13_load_diagnostics.md. -/
@[reducible] def A.DIAG_SWPk_F (k : Nat) : Nat := 0x91000 + 8 * k
/-- DIAG_SWPk_Z, spec/13_load_diagnostics.md. -/
@[reducible] def A.DIAG_SWPk_Z (k : Nat) : Nat := 0x91004 + 8 * k
/-- PORTn_CFG, spec/03_audio_ports.md. -/
@[reducible] def A.PORTn_CFG (n : Nat) : Nat := 0xA0000 + 0x1000 * n
/-- PORTn_CTRL, spec/03_audio_ports.md. -/
@[reducible] def A.PORTn_CTRL (n : Nat) : Nat := 0xA0004 + 0x1000 * n
/-- PORTn_STAT, spec/03_audio_ports.md. -/
@[reducible] def A.PORTn_STAT (n : Nat) : Nat := 0xA0008 + 0x1000 * n
/-- PORTn_EVENT, spec/03_audio_ports.md. -/
@[reducible] def A.PORTn_EVENT (n : Nat) : Nat := 0xA000C + 0x1000 * n
/-- PORTn_IRQEN, spec/03_audio_ports.md. -/
@[reducible] def A.PORTn_IRQEN (n : Nat) : Nat := 0xA0010 + 0x1000 * n
/-- PORTn_SLOTMASK, spec/03_audio_ports.md. -/
@[reducible] def A.PORTn_SLOTMASK (n : Nat) : Nat := 0xA0014 + 0x1000 * n
/-- PORTn_SLOTMASK_ACT, spec/03_audio_ports.md. -/
@[reducible] def A.PORTn_SLOTMASK_ACT (n : Nat) : Nat := 0xA0018 + 0x1000 * n
/-- PORTn_MASK_FRAME, spec/03_audio_ports.md. -/
@[reducible] def A.PORTn_MASK_FRAME (n : Nat) : Nat := 0xA001C + 0x1000 * n
/-- PORTn_FRAMECNT, spec/03_audio_ports.md. -/
@[reducible] def A.PORTn_FRAMECNT (n : Nat) : Nat := 0xA0020 + 0x1000 * n
/-- PORTn_ZC, spec/03_audio_ports.md. -/
@[reducible] def A.PORTn_ZC (n : Nat) : Nat := 0xA0024 + 0x1000 * n
/-- PORTn_FILL, spec/03_audio_ports.md. -/
@[reducible] def A.PORTn_FILL (n : Nat) : Nat := 0xA0028 + 0x1000 * n
/-- PORTn_MEAS, spec/03_audio_ports.md. -/
@[reducible] def A.PORTn_MEAS (n : Nat) : Nat := 0xA002C + 0x1000 * n
/-- PORTn_SLIP, spec/03_audio_ports.md. -/
@[reducible] def A.PORTn_SLIP (n : Nat) : Nat := 0xA0030 + 0x1000 * n
/-- PORTn_ERRCNT, spec/03_audio_ports.md. -/
@[reducible] def A.PORTn_ERRCNT (n : Nat) : Nat := 0xA0034 + 0x1000 * n
/-- PORTn_CMDCNT, spec/03_audio_ports.md. -/
@[reducible] def A.PORTn_CMDCNT (n : Nat) : Nat := 0xA0038 + 0x1000 * n
/-- PORTn_MCLKDIV, spec/03_audio_ports.md. -/
@[reducible] def A.PORTn_MCLKDIV (n : Nat) : Nat := 0xA003C + 0x1000 * n
/-- PORTn_RXMAPk, spec/03_audio_ports.md. -/
@[reducible] def A.PORTn_RXMAPk (n k : Nat) : Nat := 0xA0040 + 0x1000 * n + 4 * k
/-- PORTn_TXMAPk, spec/03_audio_ports.md. -/
@[reducible] def A.PORTn_TXMAPk (n k : Nat) : Nat := 0xA0050 + 0x1000 * n + 4 * k
/-- PORT3_IEC_CFG, spec/03_audio_ports.md. -/
@[reducible] def A.PORT3_IEC_CFG : Nat := 0xA3100
/-- PORT3_IEC_STAT, spec/03_audio_ports.md. -/
@[reducible] def A.PORT3_IEC_STAT : Nat := 0xA3104
/-- PORT3_IEC_CNT, spec/03_audio_ports.md. -/
@[reducible] def A.PORT3_IEC_CNT : Nat := 0xA3108
/-- PORT3_CS_RXk, spec/03_audio_ports.md. -/
@[reducible] def A.PORT3_CS_RXk (k : Nat) : Nat := 0xA3110 + 4 * k
/-- PORT3_CS_TXk, spec/03_audio_ports.md. -/
@[reducible] def A.PORT3_CS_TXk (k : Nat) : Nat := 0xA3130 + 4 * k
/-- PORT_GSTART, spec/03_audio_ports.md. -/
@[reducible] def A.PORT_GSTART : Nat := 0xA0F00
/-- PORT_GSTART_FRAME, spec/03_audio_ports.md. -/
@[reducible] def A.PORT_GSTART_FRAME : Nat := 0xA0F04
/-- PORT_TBFRAME, spec/03_audio_ports.md. -/
@[reducible] def A.PORT_TBFRAME : Nat := 0xA0F08
/-- TRING_CFG, spec/04_treras_ring.md. -/
@[reducible] def A.TRING_CFG : Nat := 0xB0000
/-- TRING_CTRL, spec/04_treras_ring.md. -/
@[reducible] def A.TRING_CTRL : Nat := 0xB0004
/-- TRING_STAT, spec/04_treras_ring.md. -/
@[reducible] def A.TRING_STAT : Nat := 0xB0008
/-- TRING_TOPO, spec/04_treras_ring.md. -/
@[reducible] def A.TRING_TOPO : Nat := 0xB000C
/-- TRING_DELAY, spec/04_treras_ring.md. -/
@[reducible] def A.TRING_DELAY : Nat := 0xB0010
/-- TRING_EVENT, spec/04_treras_ring.md. -/
@[reducible] def A.TRING_EVENT : Nat := 0xB0014
/-- TRING_IRQEN, spec/04_treras_ring.md. -/
@[reducible] def A.TRING_IRQEN : Nat := 0xB0018
/-- TRING_ERRCNT, spec/04_treras_ring.md. -/
@[reducible] def A.TRING_ERRCNT : Nat := 0xB001C
/-- TRING_BCNT, spec/04_treras_ring.md. -/
@[reducible] def A.TRING_BCNT : Nat := 0xB0020
/-- TRING_BTXk, spec/04_treras_ring.md. -/
@[reducible] def A.TRING_BTXk (k : Nat) : Nat := 0xB0030 + 4 * k
/-- TRING_BTXCTL, spec/04_treras_ring.md. -/
@[reducible] def A.TRING_BTXCTL : Nat := 0xB0040
/-- TRING_BRXk, spec/04_treras_ring.md. -/
@[reducible] def A.TRING_BRXk (k : Nat) : Nat := 0xB0050 + 4 * k
/-- TRING_BRXCTL, spec/04_treras_ring.md. -/
@[reducible] def A.TRING_BRXCTL : Nat := 0xB0060
/-- TRING_OWN_LO, spec/04_treras_ring.md. -/
@[reducible] def A.TRING_OWN_LO : Nat := 0xB0080
/-- TRING_OWN_HI, spec/04_treras_ring.md. -/
@[reducible] def A.TRING_OWN_HI : Nat := 0xB0084
/-- TRING_RXMAPk, spec/04_treras_ring.md. -/
@[reducible] def A.TRING_RXMAPk (k : Nat) : Nat := 0xB0100 + 4 * k
/-- TRING_TXMAPk, spec/04_treras_ring.md. -/
@[reducible] def A.TRING_TXMAPk (k : Nat) : Nat := 0xB0140 + 4 * k
/-- FCOL_STAT, spec/17_fault_collection.md. -/
@[reducible] def A.FCOL_STAT : Nat := 0xC0000
/-- FCOL_CTRL, spec/17_fault_collection.md. -/
@[reducible] def A.FCOL_CTRL : Nat := 0xC0004
/-- FCOL_EVENT, spec/17_fault_collection.md. -/
@[reducible] def A.FCOL_EVENT : Nat := 0xC0008
/-- FCOL_IRQEN, spec/17_fault_collection.md. -/
@[reducible] def A.FCOL_IRQEN : Nat := 0xC000C
/-- FCOL_TICK, spec/17_fault_collection.md. -/
@[reducible] def A.FCOL_TICK : Nat := 0xC0010
/-- FCOL_FIRST, spec/17_fault_collection.md. -/
@[reducible] def A.FCOL_FIRST : Nat := 0xC0014
/-- FCOL_CNT, spec/17_fault_collection.md. -/
@[reducible] def A.FCOL_CNT : Nat := 0xC0018
/-- FCOL_RSTCNT, spec/17_fault_collection.md. -/
@[reducible] def A.FCOL_RSTCNT : Nat := 0xC001C
/-- FCOL_LOGSTAT, spec/17_fault_collection.md. -/
@[reducible] def A.FCOL_LOGSTAT : Nat := 0xC0020
/-- FCOL_WDOG, spec/17_fault_collection.md. -/
@[reducible] def A.FCOL_WDOG : Nat := 0xC0024
/-- FCOL_JIG, spec/17_fault_collection.md. -/
@[reducible] def A.FCOL_JIG : Nat := 0xC0030
/-- FCOL_JIGSTAT, spec/17_fault_collection.md. -/
@[reducible] def A.FCOL_JIGSTAT : Nat := 0xC0034
/-- FCOL_CLSc, spec/17_fault_collection.md. -/
@[reducible] def A.FCOL_CLSc (c : Nat) : Nat := 0xC0100 + 4 * c
/-- FCOL_RULEk_MATCH, spec/17_fault_collection.md. -/
@[reducible] def A.FCOL_RULEk_MATCH (k : Nat) : Nat := 0xC1000 + 0x10 * k
/-- FCOL_RULEk_WIN, spec/17_fault_collection.md. -/
@[reducible] def A.FCOL_RULEk_WIN (k : Nat) : Nat := 0xC1004 + 0x10 * k
/-- FCOL_RULEk_REACT, spec/17_fault_collection.md. -/
@[reducible] def A.FCOL_RULEk_REACT (k : Nat) : Nat := 0xC1008 + 0x10 * k
/-- FCOL_CTRk, spec/17_fault_collection.md. -/
@[reducible] def A.FCOL_CTRk (k : Nat) : Nat := 0xC3000 + 4 * k
/-- FCOL_LOGe_Wj, spec/17_fault_collection.md. -/
@[reducible] def A.FCOL_LOGe_Wj (e j : Nat) : Nat := 0xC4000 + 0x10 * e + 4 * j
/-- INTC_CLAIM, spec/19_interrupts.md. -/
@[reducible] def A.INTC_CLAIM : Nat := 0xD0000
/-- INTC_COMPLETE, spec/19_interrupts.md. -/
@[reducible] def A.INTC_COMPLETE : Nat := 0xD0004
/-- INTC_CTRL, spec/19_interrupts.md. -/
@[reducible] def A.INTC_CTRL : Nat := 0xD0008
/-- INTC_STAT, spec/19_interrupts.md. -/
@[reducible] def A.INTC_STAT : Nat := 0xD000C
/-- INTC_ERR, spec/19_interrupts.md. -/
@[reducible] def A.INTC_ERR : Nat := 0xD0010
/-- INTC_RAWk, spec/19_interrupts.md. -/
@[reducible] def A.INTC_RAWk (k : Nat) : Nat := 0xD0020 + 4 * k
/-- INTC_PENDk, spec/19_interrupts.md. -/
@[reducible] def A.INTC_PENDk (k : Nat) : Nat := 0xD0030 + 4 * k
/-- INTC_HELDk, spec/19_interrupts.md. -/
@[reducible] def A.INTC_HELDk (k : Nat) : Nat := 0xD0040 + 4 * k
/-- INTC_CLAIMEDk, spec/19_interrupts.md. -/
@[reducible] def A.INTC_CLAIMEDk (k : Nat) : Nat := 0xD0050 + 4 * k
/-- INTC_ENk, spec/19_interrupts.md. -/
@[reducible] def A.INTC_ENk (k : Nat) : Nat := 0xD0060 + 4 * k
/-- INTC_ALERTk, spec/19_interrupts.md. -/
@[reducible] def A.INTC_ALERTk (k : Nat) : Nat := 0xD0070 + 4 * k
/-- INTC_PRIOk, spec/19_interrupts.md. -/
@[reducible] def A.INTC_PRIOk (k : Nat) : Nat := 0xD0100 + 4 * k
/-- INTC_MODg, spec/19_interrupts.md. -/
@[reducible] def A.INTC_MODg (g : Nat) : Nat := 0xD0200 + 4 * g
/-- INTC_CQ_CFG, spec/19_interrupts.md. -/
@[reducible] def A.INTC_CQ_CFG : Nat := 0xD0300
/-- INTC_CQSTAT, spec/19_interrupts.md. -/
@[reducible] def A.INTC_CQSTAT : Nat := 0xD0304
/-- INTC_POLEVENT, spec/19_interrupts.md. -/
@[reducible] def A.INTC_POLEVENT : Nat := 0xD0308
/-- INTC_CNTs, spec/19_interrupts.md. -/
@[reducible] def A.INTC_CNTs (s : Nat) : Nat := 0xD0400 + 4 * s
/-- HBUS_CFG, spec/18_host_bus.md. -/
@[reducible] def A.HBUS_CFG : Nat := 0xE0000
/-- HBUS_STAT, spec/18_host_bus.md. -/
@[reducible] def A.HBUS_STAT : Nat := 0xE0004
/-- HBUS_PTR, spec/18_host_bus.md. -/
@[reducible] def A.HBUS_PTR : Nat := 0xE0008
/-- HBUS_EVENT, spec/18_host_bus.md. -/
@[reducible] def A.HBUS_EVENT : Nat := 0xE000C
/-- HBUS_IRQEN, spec/18_host_bus.md. -/
@[reducible] def A.HBUS_IRQEN : Nat := 0xE0010
/-- HBUS_CNT, spec/18_host_bus.md. -/
@[reducible] def A.HBUS_CNT : Nat := 0xE0014
/-- HBUS_CNT2, spec/18_host_bus.md. -/
@[reducible] def A.HBUS_CNT2 : Nat := 0xE0018
/-- HBUS_NVM_CTRL, spec/18_host_bus.md. -/
@[reducible] def A.HBUS_NVM_CTRL : Nat := 0xE0100
/-- HBUS_NVM_ADDR, spec/18_host_bus.md. -/
@[reducible] def A.HBUS_NVM_ADDR : Nat := 0xE0104
/-- HBUS_NVM_STAT, spec/18_host_bus.md. -/
@[reducible] def A.HBUS_NVM_STAT : Nat := 0xE0108
/-- HBUS_NVM_DATAk, spec/18_host_bus.md. -/
@[reducible] def A.HBUS_NVM_DATAk (k : Nat) : Nat := 0xE0200 + 4 * k
/-- DSPX_STAT, spec/05_dsp_graph.md. -/
@[reducible] def A.DSPX_STAT : Nat := 0xF0000
/-- DSPX_FRAMECNT, spec/05_dsp_graph.md. -/
@[reducible] def A.DSPX_FRAMECNT : Nat := 0xF0004
/-- DSPX_EVENT, spec/05_dsp_graph.md. -/
@[reducible] def A.DSPX_EVENT : Nat := 0xF0008
/-- DSPX_IRQEN, spec/05_dsp_graph.md. -/
@[reducible] def A.DSPX_IRQEN : Nat := 0xF000C
/-- DSPX_LOADc, spec/05_dsp_graph.md. -/
@[reducible] def A.DSPX_LOADc (c : Nat) : Nat := 0xF0010 + 4 * c
/-- DSPX_CNT, spec/05_dsp_graph.md. -/
@[reducible] def A.DSPX_CNT : Nat := 0xF0020
/-- DSPX_LA_STAT, spec/05_dsp_graph.md. -/
@[reducible] def A.DSPX_LA_STAT : Nat := 0xF0024
/-- DSPX_ZC, spec/05_dsp_graph.md. -/
@[reducible] def A.DSPX_ZC : Nat := 0xF0028
/-- DSPX_LOADTH, spec/05_dsp_graph.md. -/
@[reducible] def A.DSPX_LOADTH : Nat := 0xF002C
/-- DSPX_PARAM_SEL, spec/05_dsp_graph.md. -/
@[reducible] def A.DSPX_PARAM_SEL : Nat := 0xF0030
/-- DSPX_PARAM_DATA, spec/05_dsp_graph.md. -/
@[reducible] def A.DSPX_PARAM_DATA : Nat := 0xF0034
/-- DSPX_PARAM_STAT, spec/05_dsp_graph.md. -/
@[reducible] def A.DSPX_PARAM_STAT : Nat := 0xF0038
/-- DSPX_PLAYCMD, spec/05_dsp_graph.md. -/
@[reducible] def A.DSPX_PLAYCMD : Nat := 0xF0040
/-- DSPX_PLAYSTAT, spec/05_dsp_graph.md. -/
@[reducible] def A.DSPX_PLAYSTAT : Nat := 0xF0044
/-- DSPX_PLAYERR, spec/05_dsp_graph.md. -/
@[reducible] def A.DSPX_PLAYERR : Nat := 0xF0048
/-- DSPX_GENg_CFG, spec/05_dsp_graph.md. -/
@[reducible] def A.DSPX_GENg_CFG (g : Nat) : Nat := 0xF0100 + 8 * g
/-- DSPX_GENg_FREQ, spec/05_dsp_graph.md. -/
@[reducible] def A.DSPX_GENg_FREQ (g : Nat) : Nat := 0xF0104 + 8 * g
/-- DSPX_CTXn_CFG, spec/05_dsp_graph.md. -/
@[reducible] def A.DSPX_CTXn_CFG (n : Nat) : Nat := 0xF1000 + 0x10 * n
/-- DSPX_CTXn_LEVEL, spec/05_dsp_graph.md. -/
@[reducible] def A.DSPX_CTXn_LEVEL (n : Nat) : Nat := 0xF1004 + 0x10 * n
/-- DSPX_CTXn_STAT, spec/05_dsp_graph.md. -/
@[reducible] def A.DSPX_CTXn_STAT (n : Nat) : Nat := 0xF1008 + 0x10 * n
/-- DSPX_CTXn_SLIP, spec/05_dsp_graph.md. -/
@[reducible] def A.DSPX_CTXn_SLIP (n : Nat) : Nat := 0xF100C + 0x10 * n
/-- TRACE_CFGb, spec/09_repetitive_trace.md. -/
@[reducible] def A.TRACE_CFGb (b : Nat) : Nat := 0x100000 + 0x20 * b
/-- TRACE_NODESb, spec/09_repetitive_trace.md. -/
@[reducible] def A.TRACE_NODESb (b : Nat) : Nat := 0x100004 + 0x20 * b
/-- TRACE_LEVELb, spec/09_repetitive_trace.md. -/
@[reducible] def A.TRACE_LEVELb (b : Nat) : Nat := 0x100008 + 0x20 * b
/-- TRACE_DEPTHb, spec/09_repetitive_trace.md. -/
@[reducible] def A.TRACE_DEPTHb (b : Nat) : Nat := 0x10000C + 0x20 * b
/-- TRACE_CTRLb, spec/09_repetitive_trace.md. -/
@[reducible] def A.TRACE_CTRLb (b : Nat) : Nat := 0x100010 + 0x20 * b
/-- TRACE_STATb, spec/09_repetitive_trace.md. -/
@[reducible] def A.TRACE_STATb (b : Nat) : Nat := 0x100014 + 0x20 * b
/-- TRACE_STAMPb, spec/09_repetitive_trace.md. -/
@[reducible] def A.TRACE_STAMPb (b : Nat) : Nat := 0x100018 + 0x20 * b
/-- TRACE_LENb, spec/09_repetitive_trace.md. -/
@[reducible] def A.TRACE_LENb (b : Nat) : Nat := 0x10001C + 0x20 * b
/-- TRACE_EVENT, spec/09_repetitive_trace.md. -/
@[reducible] def A.TRACE_EVENT : Nat := 0x100100
/-- TRACE_IRQEN, spec/09_repetitive_trace.md. -/
@[reducible] def A.TRACE_IRQEN : Nat := 0x100104
/-- TRACE_WIN, spec/09_repetitive_trace.md. -/
@[reducible] def A.TRACE_WIN : Nat := 0x100108
/-- TRACE_ERR, spec/09_repetitive_trace.md. -/
@[reducible] def A.TRACE_ERR : Nat := 0x10010C
/-- TRACE_WINDOWw, spec/09_repetitive_trace.md. -/
@[reducible] def A.TRACE_WINDOWw (w : Nat) : Nat := 0x108000 + 4 * w
/-- SEC_LOCKSTAT, spec/20_security_debug.md. -/
@[reducible] def A.SEC_LOCKSTAT : Nat := 0x110000
/-- SEC_DBGSTAT, spec/20_security_debug.md. -/
@[reducible] def A.SEC_DBGSTAT : Nat := 0x110004
/-- SEC_ATTEMPT, spec/20_security_debug.md. -/
@[reducible] def A.SEC_ATTEMPT : Nat := 0x110008
/-- SEC_CTRL, spec/20_security_debug.md. -/
@[reducible] def A.SEC_CTRL : Nat := 0x11000C
/-- SEC_SECVER, spec/20_security_debug.md. -/
@[reducible] def A.SEC_SECVER : Nat := 0x110010
/-- SEC_SVCTRL, spec/20_security_debug.md. -/
@[reducible] def A.SEC_SVCTRL : Nat := 0x110014
/-- SEC_KEYHASHk, spec/20_security_debug.md. -/
@[reducible] def A.SEC_KEYHASHk (k : Nat) : Nat := 0x110020 + 4 * k
/-- SEC_EVENT, spec/20_security_debug.md. -/
@[reducible] def A.SEC_EVENT : Nat := 0x110040
/-- SEC_IRQEN, spec/20_security_debug.md. -/
@[reducible] def A.SEC_IRQEN : Nat := 0x110044
/-- SEC_CNT, spec/20_security_debug.md. -/
@[reducible] def A.SEC_CNT : Nat := 0x110048

@[reducible] def F.SYS_IDENT_DEVICE : Fld := ⟨A.SYS_IDENT, 16, 16⟩
@[reducible] def F.SYS_IDENT_REV_MAJOR : Fld := ⟨A.SYS_IDENT, 12, 4⟩
@[reducible] def F.SYS_IDENT_REV_MINOR : Fld := ⟨A.SYS_IDENT, 8, 4⟩
@[reducible] def F.SYS_IDENT_PKG : Fld := ⟨A.SYS_IDENT, 4, 4⟩
@[reducible] def F.SYS_UID_LO_VALUE : Fld := ⟨A.SYS_UID_LO, 0, 32⟩
@[reducible] def F.SYS_UID_HI_VALUE : Fld := ⟨A.SYS_UID_HI, 0, 32⟩
@[reducible] def F.SYS_RSTCAUSE_BLK : Fld := ⟨A.SYS_RSTCAUSE, 6, 1⟩
@[reducible] def F.SYS_RSTCAUSE_WARM_FCOL : Fld := ⟨A.SYS_RSTCAUSE, 5, 1⟩
@[reducible] def F.SYS_RSTCAUSE_WARM_HOST : Fld := ⟨A.SYS_RSTCAUSE, 4, 1⟩
@[reducible] def F.SYS_RSTCAUSE_WAKE : Fld := ⟨A.SYS_RSTCAUSE, 3, 1⟩
@[reducible] def F.SYS_RSTCAUSE_BOR : Fld := ⟨A.SYS_RSTCAUSE, 2, 1⟩
@[reducible] def F.SYS_RSTCAUSE_POR : Fld := ⟨A.SYS_RSTCAUSE, 0, 1⟩
@[reducible] def F.SYS_RSTCTRL_KEY : Fld := ⟨A.SYS_RSTCTRL, 16, 16⟩
@[reducible] def F.SYS_RSTCTRL_WARM : Fld := ⟨A.SYS_RSTCTRL, 0, 1⟩
@[reducible] def F.SYS_BLKRST_DIAG : Fld := ⟨A.SYS_BLKRST, 7, 1⟩
@[reducible] def F.SYS_BLKRST_TRING : Fld := ⟨A.SYS_BLKRST, 6, 1⟩
@[reducible] def F.SYS_BLKRST_PORT : Fld := ⟨A.SYS_BLKRST, 2, 4⟩
@[reducible] def F.SYS_BLKRST_TRACE : Fld := ⟨A.SYS_BLKRST, 1, 1⟩
@[reducible] def F.SYS_BLKRST_DECIM : Fld := ⟨A.SYS_BLKRST, 0, 1⟩
@[reducible] def F.SYS_CLKSTAT_WAKE_SRC : Fld := ⟨A.SYS_CLKSTAT, 8, 3⟩
@[reducible] def F.SYS_CLKSTAT_TSRC_LOCKED : Fld := ⟨A.SYS_CLKSTAT, 4, 1⟩
@[reducible] def F.SYS_CLKSTAT_SSC_ACTIVE : Fld := ⟨A.SYS_CLKSTAT, 3, 1⟩
@[reducible] def F.SYS_CLKSTAT_PLLB_LOCK : Fld := ⟨A.SYS_CLKSTAT, 2, 1⟩
@[reducible] def F.SYS_CLKSTAT_PLLA_LOCK : Fld := ⟨A.SYS_CLKSTAT, 1, 1⟩
@[reducible] def F.SYS_CLKSTAT_XTAL_OK : Fld := ⟨A.SYS_CLKSTAT, 0, 1⟩
@[reducible] def F.SYS_PLLA_CFG_SSC_RATE : Fld := ⟨A.SYS_PLLA_CFG, 2, 1⟩
@[reducible] def F.SYS_PLLA_CFG_SSC_DEPTH : Fld := ⟨A.SYS_PLLA_CFG, 0, 2⟩
@[reducible] def F.SYS_TSRC_FA : Fld := ⟨A.SYS_TSRC, 4, 2⟩
@[reducible] def F.SYS_TSRC_SRC : Fld := ⟨A.SYS_TSRC, 0, 3⟩
@[reducible] def F.SYS_XING_ERR_STALLED : Fld := ⟨A.SYS_XING_ERR, 24, 8⟩
@[reducible] def F.SYS_XING_ERR_UNMAPPED : Fld := ⟨A.SYS_XING_ERR, 16, 8⟩
@[reducible] def F.SYS_XING_ERR_REFUSED : Fld := ⟨A.SYS_XING_ERR, 8, 8⟩
@[reducible] def F.SYS_XING_ERR_KEY : Fld := ⟨A.SYS_XING_ERR, 0, 8⟩
@[reducible] def F.PMU_SEQSTAT_STAGE1_RAIL : Fld := ⟨A.PMU_SEQSTAT, 25, 3⟩
@[reducible] def F.PMU_SEQSTAT_FAILED : Fld := ⟨A.PMU_SEQSTAT, 16, 9⟩
@[reducible] def F.PMU_SEQSTAT_STAGE : Fld := ⟨A.PMU_SEQSTAT, 12, 3⟩
@[reducible] def F.PMU_SEQSTAT_STAGE1_RETRY : Fld := ⟨A.PMU_SEQSTAT, 8, 1⟩
@[reducible] def F.PMU_SEQSTAT_STAGE1_LOCKOUT : Fld := ⟨A.PMU_SEQSTAT, 5, 1⟩
@[reducible] def F.PMU_SEQSTAT_OTP_SET : Fld := ⟨A.PMU_SEQSTAT, 4, 1⟩
@[reducible] def F.PMU_SEQSTAT_STATE : Fld := ⟨A.PMU_SEQSTAT, 0, 3⟩
@[reducible] def F.PMU_RAILSTAT_DISCHARGING : Fld := ⟨A.PMU_RAILSTAT, 16, 9⟩
@[reducible] def F.PMU_RAILSTAT_IN_WINDOW : Fld := ⟨A.PMU_RAILSTAT, 0, 9⟩
@[reducible] def F.PMU_RAILCTRL_CHG_EN : Fld := ⟨A.PMU_RAILCTRL, 8, 1⟩
@[reducible] def F.PMU_RAILCTRL_MICB1_EN : Fld := ⟨A.PMU_RAILCTRL, 6, 1⟩
@[reducible] def F.PMU_RAILCTRL_MICB0_EN : Fld := ⟨A.PMU_RAILCTRL, 5, 1⟩
@[reducible] def F.PMU_PVDD_RANGE_MAX : Fld := ⟨A.PMU_PVDD_RANGE, 16, 16⟩
@[reducible] def F.PMU_PVDD_RANGE_MIN : Fld := ⟨A.PMU_PVDD_RANGE, 0, 16⟩
@[reducible] def F.PMU_PVDD_STATIC_T_LEAD : Fld := ⟨A.PMU_PVDD_STATIC, 24, 5⟩
@[reducible] def F.PMU_PVDD_STATIC_VOLTS : Fld := ⟨A.PMU_PVDD_STATIC, 0, 16⟩
@[reducible] def F.PMU_PVDD_SLEW_DN : Fld := ⟨A.PMU_PVDD_SLEW, 16, 16⟩
@[reducible] def F.PMU_PVDD_SLEW_UP : Fld := ⟨A.PMU_PVDD_SLEW, 0, 16⟩
@[reducible] def F.PMU_PVDD_CFG_SHED_EN : Fld := ⟨A.PMU_PVDD_CFG, 24, 1⟩
@[reducible] def F.PMU_PVDD_CFG_PH_SHED1 : Fld := ⟨A.PMU_PVDD_CFG, 16, 8⟩
@[reducible] def F.PMU_PVDD_CFG_PH_SHED2 : Fld := ⟨A.PMU_PVDD_CFG, 8, 8⟩
@[reducible] def F.PMU_PVDD_CFG_FSW : Fld := ⟨A.PMU_PVDD_CFG, 0, 2⟩
@[reducible] def F.PMU_ILIM_PH_ILIM : Fld := ⟨A.PMU_ILIM, 16, 6⟩
@[reducible] def F.PMU_ILIM_IIN_LIM : Fld := ⟨A.PMU_ILIM, 0, 9⟩
@[reducible] def F.PMU_PVDD_STAT_MEAS : Fld := ⟨A.PMU_PVDD_STAT, 16, 16⟩
@[reducible] def F.PMU_PVDD_STAT_VC : Fld := ⟨A.PMU_PVDD_STAT, 0, 16⟩
@[reducible] def F.PMU_PVDD_STAT2_QUEUE : Fld := ⟨A.PMU_PVDD_STAT2, 24, 8⟩
@[reducible] def F.PMU_PVDD_STAT2_CAUSE : Fld := ⟨A.PMU_PVDD_STAT2, 8, 4⟩
@[reducible] def F.PMU_PVDD_STAT2_CLKFB : Fld := ⟨A.PMU_PVDD_STAT2, 4, 1⟩
@[reducible] def F.PMU_PVDD_STAT2_RUNNING : Fld := ⟨A.PMU_PVDD_STAT2, 3, 1⟩
@[reducible] def F.PMU_PVDD_STAT2_PHASES : Fld := ⟨A.PMU_PVDD_STAT2, 0, 3⟩
@[reducible] def F.PMU_HOLD_CFG_HU_FLOOR : Fld := ⟨A.PMU_HOLD_CFG, 24, 8⟩
@[reducible] def F.PMU_HOLD_CFG_HU_EXIT : Fld := ⟨A.PMU_HOLD_CFG, 16, 8⟩
@[reducible] def F.PMU_HOLD_CFG_HU_ENTER : Fld := ⟨A.PMU_HOLD_CFG, 8, 8⟩
@[reducible] def F.PMU_HOLD_CFG_HOLD_V : Fld := ⟨A.PMU_HOLD_CFG, 0, 8⟩
@[reducible] def F.PMU_HOLD_CFG2_HOLD_I : Fld := ⟨A.PMU_HOLD_CFG2, 16, 5⟩
@[reducible] def F.PMU_HOLD_CFG2_HU_TIME : Fld := ⟨A.PMU_HOLD_CFG2, 0, 8⟩
@[reducible] def F.PMU_HOLD_STAT_V_HOLD : Fld := ⟨A.PMU_HOLD_STAT, 16, 16⟩
@[reducible] def F.PMU_HOLD_STAT_HU_ELAPSED : Fld := ⟨A.PMU_HOLD_STAT, 4, 12⟩
@[reducible] def F.PMU_HOLD_STAT_STATE : Fld := ⟨A.PMU_HOLD_STAT, 0, 3⟩
@[reducible] def F.PMU_MICB_CFG_MICB1 : Fld := ⟨A.PMU_MICB_CFG, 8, 7⟩
@[reducible] def F.PMU_MICB_CFG_MICB0 : Fld := ⟨A.PMU_MICB_CFG, 0, 7⟩
@[reducible] def F.PMU_VMEAS_VBAT : Fld := ⟨A.PMU_VMEAS, 16, 16⟩
@[reducible] def F.PMU_VMEAS_VSYS : Fld := ⟨A.PMU_VMEAS, 0, 16⟩
@[reducible] def F.PMU_SUPSTAT_OV : Fld := ⟨A.PMU_SUPSTAT, 16, 9⟩
@[reducible] def F.PMU_SUPSTAT_UV : Fld := ⟨A.PMU_SUPSTAT, 0, 9⟩
@[reducible] def F.PMU_EVENT_G7 : Fld := ⟨A.PMU_EVENT, 28, 4⟩
@[reducible] def F.PMU_EVENT_G6 : Fld := ⟨A.PMU_EVENT, 24, 4⟩
@[reducible] def F.PMU_EVENT_G5 : Fld := ⟨A.PMU_EVENT, 20, 4⟩
@[reducible] def F.PMU_EVENT_G4 : Fld := ⟨A.PMU_EVENT, 16, 4⟩
@[reducible] def F.PMU_EVENT_G3 : Fld := ⟨A.PMU_EVENT, 12, 4⟩
@[reducible] def F.PMU_EVENT_G2 : Fld := ⟨A.PMU_EVENT, 8, 4⟩
@[reducible] def F.PMU_EVENT_G1 : Fld := ⟨A.PMU_EVENT, 4, 4⟩
@[reducible] def F.PMU_EVENT_G0 : Fld := ⟨A.PMU_EVENT, 0, 4⟩
@[reducible] def F.PMU_IRQEN_MASK : Fld := ⟨A.PMU_IRQEN, 0, 32⟩
@[reducible] def F.PMU_CNT_HU_ENTRIES : Fld := ⟨A.PMU_CNT, 24, 8⟩
@[reducible] def F.PMU_CNT_PVDD_LIMITED : Fld := ⟨A.PMU_CNT, 16, 8⟩
@[reducible] def F.PMU_CNT_DEMAND_LATE : Fld := ⟨A.PMU_CNT, 8, 8⟩
@[reducible] def F.PMU_CNT_REFUSED : Fld := ⟨A.PMU_CNT, 0, 8⟩
@[reducible] def F.PMU_CNT2_SUP_DISAGREE : Fld := ⟨A.PMU_CNT2, 8, 8⟩
@[reducible] def F.PMU_CNT2_RAIL_TRIPS : Fld := ⟨A.PMU_CNT2, 0, 8⟩
@[reducible] def F.PMU_STBYCTRL_KEY : Fld := ⟨A.PMU_STBYCTRL, 16, 16⟩
@[reducible] def F.PMU_STBYCTRL_GO : Fld := ⟨A.PMU_STBYCTRL, 0, 1⟩
@[reducible] def F.PMU_WAKECFG_WAKE_OFF : Fld := ⟨A.PMU_WAKECFG, 16, 8⟩
@[reducible] def F.PMU_WAKECFG_PIN_DEB : Fld := ⟨A.PMU_WAKECFG, 8, 8⟩
@[reducible] def F.PMU_WAKECFG_RING_EN : Fld := ⟨A.PMU_WAKECFG, 2, 1⟩
@[reducible] def F.PMU_WAKECFG_HOST_EN : Fld := ⟨A.PMU_WAKECFG, 1, 1⟩
@[reducible] def F.PMU_WAKECFG_PIN_EN : Fld := ⟨A.PMU_WAKECFG, 0, 1⟩
@[reducible] def F.GOV_LIMIT_JOULES : Fld := ⟨A.GOV_LIMIT, 0, 16⟩
@[reducible] def F.GOV_LIMIT_MAX_MIN : Fld := ⟨A.GOV_LIMIT_MAX, 16, 16⟩
@[reducible] def F.GOV_LIMIT_MAX_MAX : Fld := ⟨A.GOV_LIMIT_MAX, 0, 16⟩
@[reducible] def F.GOV_CAP_PVDD : Fld := ⟨A.GOV_CAP, 16, 16⟩
@[reducible] def F.GOV_CAP_HOLD : Fld := ⟨A.GOV_CAP, 0, 16⟩
@[reducible] def F.GOV_DISR_PDIS : Fld := ⟨A.GOV_DISR, 16, 16⟩
@[reducible] def F.GOV_DISR_HDIS : Fld := ⟨A.GOV_DISR, 0, 16⟩
@[reducible] def F.GOV_STATUS_HOLDUP : Fld := ⟨A.GOV_STATUS, 4, 1⟩
@[reducible] def F.GOV_STATUS_CRASH : Fld := ⟨A.GOV_STATUS, 3, 1⟩
@[reducible] def F.GOV_STATUS_DISCHARGED : Fld := ⟨A.GOV_STATUS, 2, 1⟩
@[reducible] def F.GOV_STATUS_DISCHARGE : Fld := ⟨A.GOV_STATUS, 1, 1⟩
@[reducible] def F.GOV_STATUS_APPLIED : Fld := ⟨A.GOV_STATUS, 0, 1⟩
@[reducible] def F.GOV_ENERGY_HOLD : Fld := ⟨A.GOV_ENERGY, 16, 16⟩
@[reducible] def F.GOV_ENERGY_PVDD : Fld := ⟨A.GOV_ENERGY, 0, 16⟩
@[reducible] def F.GOV_CAPS_HOLD : Fld := ⟨A.GOV_CAPS, 16, 16⟩
@[reducible] def F.GOV_CAPS_PVDD : Fld := ⟨A.GOV_CAPS, 0, 16⟩
@[reducible] def F.GOV_BUDGET_PRIMARY : Fld := ⟨A.GOV_BUDGET, 16, 2⟩
@[reducible] def F.GOV_BUDGET_P_AVAIL : Fld := ⟨A.GOV_BUDGET, 0, 16⟩
@[reducible] def F.GOV_CTRL_KEY : Fld := ⟨A.GOV_CTRL, 16, 16⟩
@[reducible] def F.GOV_CTRL_DISCHARGE : Fld := ⟨A.GOV_CTRL, 0, 1⟩
@[reducible] def F.GOV_EVENT_G3 : Fld := ⟨A.GOV_EVENT, 12, 4⟩
@[reducible] def F.GOV_EVENT_G2 : Fld := ⟨A.GOV_EVENT, 8, 4⟩
@[reducible] def F.GOV_EVENT_G1 : Fld := ⟨A.GOV_EVENT, 4, 4⟩
@[reducible] def F.GOV_EVENT_G0 : Fld := ⟨A.GOV_EVENT, 0, 4⟩
@[reducible] def F.GOV_IRQEN_MASK : Fld := ⟨A.GOV_IRQEN, 0, 16⟩
@[reducible] def F.GOV_CNT_RESERVE_SHORT : Fld := ⟨A.GOV_CNT, 24, 8⟩
@[reducible] def F.GOV_CNT_PVDD_EPISODES : Fld := ⟨A.GOV_CNT, 16, 8⟩
@[reducible] def F.GOV_CNT_OVER : Fld := ⟨A.GOV_CNT, 8, 8⟩
@[reducible] def F.GOV_CNT_REFUSED : Fld := ⟨A.GOV_CNT, 0, 8⟩
@[reducible] def F.GOV_PDISS_P_TH : Fld := ⟨A.GOV_PDISS, 16, 16⟩
@[reducible] def F.GOV_PDISS_P_DISS : Fld := ⟨A.GOV_PDISS, 0, 16⟩
@[reducible] def F.GOV_LIMIT_CAUSEo_STATE (o : Nat) : Fld := ⟨A.GOV_LIMIT_CAUSEo o, 14, 2⟩
@[reducible] def F.GOV_LIMIT_CAUSEo_HALVED (o : Nat) : Fld := ⟨A.GOV_LIMIT_CAUSEo o, 13, 1⟩
@[reducible] def F.GOV_LIMIT_CAUSEo_P3_REFUSED (o : Nat) : Fld := ⟨A.GOV_LIMIT_CAUSEo o, 12, 1⟩
@[reducible] def F.GOV_LIMIT_CAUSEo_CLASS (o : Nat) : Fld := ⟨A.GOV_LIMIT_CAUSEo o, 10, 2⟩
@[reducible] def F.GOV_LIMIT_CAUSEo_PRIMARY (o : Nat) : Fld := ⟨A.GOV_LIMIT_CAUSEo o, 8, 2⟩
@[reducible] def F.GOV_LIMIT_CAUSEo_CAUSE (o : Nat) : Fld := ⟨A.GOV_LIMIT_CAUSEo o, 0, 4⟩
@[reducible] def F.GOV_OUTo_POWER_DEMAND (o : Nat) : Fld := ⟨A.GOV_OUTo_POWER o, 16, 16⟩
@[reducible] def F.GOV_OUTo_POWER_GRANT (o : Nat) : Fld := ⟨A.GOV_OUTo_POWER o, 0, 16⟩
@[reducible] def F.GOV_OUTo_CNT_REFUSED (o : Nat) : Fld := ⟨A.GOV_OUTo_CNT o, 16, 16⟩
@[reducible] def F.GOV_OUTo_CNT_LIMITED (o : Nat) : Fld := ⟨A.GOV_OUTo_CNT o, 0, 16⟩
@[reducible] def F.HKADC_CTRL_SW_TRIG : Fld := ⟨A.HKADC_CTRL, 8, 8⟩
@[reducible] def F.HKADC_CTRL_CAL : Fld := ⟨A.HKADC_CTRL, 0, 1⟩
@[reducible] def F.HKADC_STAT_SEQ_GEN : Fld := ⟨A.HKADC_STAT, 24, 8⟩
@[reducible] def F.HKADC_STAT_QUEUE : Fld := ⟨A.HKADC_STAT, 8, 2⟩
@[reducible] def F.HKADC_STAT_CHECK_FAIL : Fld := ⟨A.HKADC_STAT, 7, 1⟩
@[reducible] def F.HKADC_STAT_CAL_FAIL : Fld := ⟨A.HKADC_STAT, 6, 1⟩
@[reducible] def F.HKADC_STAT_CAL_BUSY : Fld := ⟨A.HKADC_STAT, 5, 1⟩
@[reducible] def F.HKADC_STAT_CAL_PENDING : Fld := ⟨A.HKADC_STAT, 4, 1⟩
@[reducible] def F.HKADC_STAT_REF_RDY : Fld := ⟨A.HKADC_STAT, 3, 1⟩
@[reducible] def F.HKADC_STAT_RUN : Fld := ⟨A.HKADC_STAT, 2, 1⟩
@[reducible] def F.HKADC_STAT_MODE : Fld := ⟨A.HKADC_STAT, 0, 1⟩
@[reducible] def F.HKADC_SHIM_OFFSET : Fld := ⟨A.HKADC_SHIM, 16, 16⟩
@[reducible] def F.HKADC_SHIM_GAIN : Fld := ⟨A.HKADC_SHIM, 0, 16⟩
@[reducible] def F.HKADC_TIMER_PERIOD : Fld := ⟨A.HKADC_TIMER, 0, 16⟩
@[reducible] def F.HKADC_EVENT_G3 : Fld := ⟨A.HKADC_EVENT, 12, 4⟩
@[reducible] def F.HKADC_EVENT_G2 : Fld := ⟨A.HKADC_EVENT, 8, 4⟩
@[reducible] def F.HKADC_EVENT_G1 : Fld := ⟨A.HKADC_EVENT, 4, 4⟩
@[reducible] def F.HKADC_EVENT_G0 : Fld := ⟨A.HKADC_EVENT, 0, 4⟩
@[reducible] def F.HKADC_IRQEN_MASK : Fld := ⟨A.HKADC_IRQEN, 0, 16⟩
@[reducible] def F.HKADC_WINEVT0_ENT : Fld := ⟨A.HKADC_WINEVT0, 0, 32⟩
@[reducible] def F.HKADC_WINEVT1_ENT : Fld := ⟨A.HKADC_WINEVT1, 0, 32⟩
@[reducible] def F.HKADC_WINEN0_MASK : Fld := ⟨A.HKADC_WINEN0, 0, 32⟩
@[reducible] def F.HKADC_WINEN1_MASK : Fld := ⟨A.HKADC_WINEN1, 0, 32⟩
@[reducible] def F.HKADC_CNT_INVALID : Fld := ⟨A.HKADC_CNT, 16, 16⟩
@[reducible] def F.HKADC_CNT_DROP_FULL : Fld := ⟨A.HKADC_CNT, 8, 8⟩
@[reducible] def F.HKADC_CNT_DROP_CAL : Fld := ⟨A.HKADC_CNT, 0, 8⟩
@[reducible] def F.HKADC_CNT2_CAL_COUNT : Fld := ⟨A.HKADC_CNT2, 16, 8⟩
@[reducible] def F.HKADC_CNT2_SAT : Fld := ⟨A.HKADC_CNT2, 8, 8⟩
@[reducible] def F.HKADC_CNT2_WR_REFUSED : Fld := ⟨A.HKADC_CNT2, 0, 8⟩
@[reducible] def F.HKADC_ENTk_CFG_WIN_EN (k : Nat) : Fld := ⟨A.HKADC_ENTk_CFG k, 31, 1⟩
@[reducible] def F.HKADC_ENTk_CFG_FCOL (k : Nat) : Fld := ⟨A.HKADC_ENTk_CFG k, 30, 1⟩
@[reducible] def F.HKADC_ENTk_CFG_BACK (k : Nat) : Fld := ⟨A.HKADC_ENTk_CFG k, 24, 4⟩
@[reducible] def F.HKADC_ENTk_CFG_TRIG (k : Nat) : Fld := ⟨A.HKADC_ENTk_CFG k, 20, 4⟩
@[reducible] def F.HKADC_ENTk_CFG_SHIFT (k : Nat) : Fld := ⟨A.HKADC_ENTk_CFG k, 16, 4⟩
@[reducible] def F.HKADC_ENTk_CFG_NM1 (k : Nat) : Fld := ⟨A.HKADC_ENTk_CFG k, 8, 8⟩
@[reducible] def F.HKADC_ENTk_CFG_INPUT (k : Nat) : Fld := ⟨A.HKADC_ENTk_CFG k, 0, 6⟩
@[reducible] def F.HKADC_ENTk_SEQ_DELAY (k : Nat) : Fld := ⟨A.HKADC_ENTk_SEQ k, 8, 8⟩
@[reducible] def F.HKADC_ENTk_SEQ_REPEAT (k : Nat) : Fld := ⟨A.HKADC_ENTk_SEQ k, 0, 8⟩
@[reducible] def F.HKADC_ENTk_WIN_HI (k : Nat) : Fld := ⟨A.HKADC_ENTk_WIN k, 16, 16⟩
@[reducible] def F.HKADC_ENTk_WIN_LO (k : Nat) : Fld := ⟨A.HKADC_ENTk_WIN k, 0, 16⟩
@[reducible] def F.HKADC_ENTk_RES_VALID (k : Nat) : Fld := ⟨A.HKADC_ENTk_RES k, 31, 1⟩
@[reducible] def F.HKADC_ENTk_RES_OUT (k : Nat) : Fld := ⟨A.HKADC_ENTk_RES k, 30, 1⟩
@[reducible] def F.HKADC_ENTk_RES_SAT (k : Nat) : Fld := ⟨A.HKADC_ENTk_RES k, 29, 1⟩
@[reducible] def F.HKADC_ENTk_RES_RESULT (k : Nat) : Fld := ⟨A.HKADC_ENTk_RES k, 0, 16⟩
@[reducible] def F.HKADC_ENTk_MM_MAX (k : Nat) : Fld := ⟨A.HKADC_ENTk_MM k, 16, 12⟩
@[reducible] def F.HKADC_ENTk_MM_MIN (k : Nat) : Fld := ⟨A.HKADC_ENTk_MM k, 0, 12⟩
@[reducible] def F.SENSE_CTRL_BG_FREEZE : Fld := ⟨A.SENSE_CTRL, 16, 1⟩
@[reducible] def F.SENSE_CTRL_CAL : Fld := ⟨A.SENSE_CTRL, 0, 16⟩
@[reducible] def F.SENSE_STAT_CAL_BUSY : Fld := ⟨A.SENSE_STAT, 1, 1⟩
@[reducible] def F.SENSE_STAT_BOOTCAL_DONE : Fld := ⟨A.SENSE_STAT, 0, 1⟩
@[reducible] def F.SENSE_EVENT_LINK_ERR : Fld := ⟨A.SENSE_EVENT, 6, 1⟩
@[reducible] def F.SENSE_EVENT_OVR : Fld := ⟨A.SENSE_EVENT, 5, 1⟩
@[reducible] def F.SENSE_EVENT_DRIFT : Fld := ⟨A.SENSE_EVENT, 4, 1⟩
@[reducible] def F.SENSE_EVENT_SLICE_FAULT : Fld := ⟨A.SENSE_EVENT, 3, 1⟩
@[reducible] def F.SENSE_EVENT_CAL_FAIL : Fld := ⟨A.SENSE_EVENT, 2, 1⟩
@[reducible] def F.SENSE_EVENT_CAL_REFUSED : Fld := ⟨A.SENSE_EVENT, 1, 1⟩
@[reducible] def F.SENSE_EVENT_CAL_DONE : Fld := ⟨A.SENSE_EVENT, 0, 1⟩
@[reducible] def F.SENSE_CNT_CAL_REFUSED : Fld := ⟨A.SENSE_CNT, 0, 8⟩
@[reducible] def F.SENSE_OVR_LIM_COUNT : Fld := ⟨A.SENSE_OVR_LIM, 0, 16⟩
@[reducible] def F.SENSE_INk_OFS_SLICE1 (k : Nat) : Fld := ⟨A.SENSE_INk_OFS k, 16, 16⟩
@[reducible] def F.SENSE_INk_OFS_SLICE0 (k : Nat) : Fld := ⟨A.SENSE_INk_OFS k, 0, 16⟩
@[reducible] def F.SENSE_INk_GAIN_SLICE1 (k : Nat) : Fld := ⟨A.SENSE_INk_GAIN k, 16, 16⟩
@[reducible] def F.SENSE_INk_GAIN_SLICE0 (k : Nat) : Fld := ⟨A.SENSE_INk_GAIN k, 0, 16⟩
@[reducible] def F.SENSE_INk_SKEW_TRIM (k : Nat) : Fld := ⟨A.SENSE_INk_SKEW k, 0, 9⟩
@[reducible] def F.SENSE_INk_STAT_OVR_ACTIVE (k : Nat) : Fld := ⟨A.SENSE_INk_STAT k, 7, 1⟩
@[reducible] def F.SENSE_INk_STAT_DRIFT (k : Nat) : Fld := ⟨A.SENSE_INk_STAT k, 4, 3⟩
@[reducible] def F.SENSE_INk_STAT_MODE (k : Nat) : Fld := ⟨A.SENSE_INk_STAT k, 0, 3⟩
@[reducible] def F.SENSE_INk_CNT_LINK (k : Nat) : Fld := ⟨A.SENSE_INk_CNT k, 16, 8⟩
@[reducible] def F.SENSE_INk_CNT_OVR (k : Nat) : Fld := ⟨A.SENSE_INk_CNT k, 0, 16⟩
@[reducible] def F.SENSE_INk_PEAK_CODE (k : Nat) : Fld := ⟨A.SENSE_INk_PEAK k, 0, 16⟩
@[reducible] def F.DECIM_CFG_COMP : Fld := ⟨A.DECIM_CFG, 16, 4⟩
@[reducible] def F.DECIM_CFG_LENGTH : Fld := ⟨A.DECIM_CFG, 8, 7⟩
@[reducible] def F.DECIM_CFG_ORDER : Fld := ⟨A.DECIM_CFG, 0, 3⟩
@[reducible] def F.DECIM_DELAY_NS : Fld := ⟨A.DECIM_DELAY, 0, 32⟩
@[reducible] def F.DECIM_RATIO_VALUE : Fld := ⟨A.DECIM_RATIO, 0, 32⟩
@[reducible] def F.DECIM_TRK_BW : Fld := ⟨A.DECIM_TRK, 0, 2⟩
@[reducible] def F.DECIM_TRKSTAT_RANGE : Fld := ⟨A.DECIM_TRKSTAT, 3, 1⟩
@[reducible] def F.DECIM_TRKSTAT_STATE : Fld := ⟨A.DECIM_TRKSTAT, 0, 2⟩
@[reducible] def F.DECIM_PHERR_PEAK : Fld := ⟨A.DECIM_PHERR, 16, 16⟩
@[reducible] def F.DECIM_PHERR_NOW : Fld := ⟨A.DECIM_PHERR, 0, 16⟩
@[reducible] def F.DECIM_SYNC_PIN_EN : Fld := ⟨A.DECIM_SYNC, 0, 1⟩
@[reducible] def F.DECIM_SYNCSTAT_LAST_J : Fld := ⟨A.DECIM_SYNCSTAT, 0, 32⟩
@[reducible] def F.DECIM_EVENT_SAT : Fld := ⟨A.DECIM_EVENT, 21, 1⟩
@[reducible] def F.DECIM_EVENT_TRK_UNLOCK : Fld := ⟨A.DECIM_EVENT, 20, 1⟩
@[reducible] def F.DECIM_EVENT_TRK_LOCK : Fld := ⟨A.DECIM_EVENT, 19, 1⟩
@[reducible] def F.DECIM_EVENT_SYNC_DISCARDED : Fld := ⟨A.DECIM_EVENT, 18, 1⟩
@[reducible] def F.DECIM_EVENT_SYNC_APPLIED : Fld := ⟨A.DECIM_EVENT, 17, 1⟩
@[reducible] def F.DECIM_EVENT_SETTLED : Fld := ⟨A.DECIM_EVENT, 16, 1⟩
@[reducible] def F.DECIM_EVENT_THR : Fld := ⟨A.DECIM_EVENT, 0, 16⟩
@[reducible] def F.DECIM_IRQEN_MASK : Fld := ⟨A.DECIM_IRQEN, 0, 16⟩
@[reducible] def F.DECIM_CNT_WR_REFUSED : Fld := ⟨A.DECIM_CNT, 8, 8⟩
@[reducible] def F.DECIM_CNT_SYNC_DISCARDED : Fld := ⟨A.DECIM_CNT, 0, 8⟩
@[reducible] def F.DECIM_PATHk_CFG_EN (k : Nat) : Fld := ⟨A.DECIM_PATHk_CFG k, 31, 1⟩
@[reducible] def F.DECIM_PATHk_CFG_COMP (k : Nat) : Fld := ⟨A.DECIM_PATHk_CFG k, 16, 4⟩
@[reducible] def F.DECIM_PATHk_CFG_INPUT (k : Nat) : Fld := ⟨A.DECIM_PATHk_CFG k, 0, 5⟩
@[reducible] def F.DECIM_PATHk_STAT_OVR (k : Nat) : Fld := ⟨A.DECIM_PATHk_STAT k, 16, 1⟩
@[reducible] def F.DECIM_PATHk_STAT_REMAIN (k : Nat) : Fld := ⟨A.DECIM_PATHk_STAT k, 8, 6⟩
@[reducible] def F.DECIM_PATHk_STAT_STATE (k : Nat) : Fld := ⟨A.DECIM_PATHk_STAT k, 0, 2⟩
@[reducible] def F.DECIM_PATHk_VAL_VALUE (k : Nat) : Fld := ⟨A.DECIM_PATHk_VAL k, 0, 32⟩
@[reducible] def F.DECIM_PATHk_CNT_SAT (k : Nat) : Fld := ⟨A.DECIM_PATHk_CNT k, 16, 16⟩
@[reducible] def F.DECIM_PATHk_CNT_SETTLES (k : Nat) : Fld := ⟨A.DECIM_PATHk_CNT k, 0, 16⟩
@[reducible] def F.DECIM_THRu_CFG_EN (u : Nat) : Fld := ⟨A.DECIM_THRu_CFG u, 31, 1⟩
@[reducible] def F.DECIM_THRu_CFG_FCOL (u : Nat) : Fld := ⟨A.DECIM_THRu_CFG u, 30, 1⟩
@[reducible] def F.DECIM_THRu_CFG_EXIT_EVT (u : Nat) : Fld := ⟨A.DECIM_THRu_CFG u, 29, 1⟩
@[reducible] def F.DECIM_THRu_CFG_WIN_LOG2 (u : Nat) : Fld := ⟨A.DECIM_THRu_CFG u, 24, 4⟩
@[reducible] def F.DECIM_THRu_CFG_DEBOUNCE (u : Nat) : Fld := ⟨A.DECIM_THRu_CFG u, 16, 8⟩
@[reducible] def F.DECIM_THRu_CFG_COND (u : Nat) : Fld := ⟨A.DECIM_THRu_CFG u, 12, 2⟩
@[reducible] def F.DECIM_THRu_CFG_MEASURE (u : Nat) : Fld := ⟨A.DECIM_THRu_CFG u, 8, 2⟩
@[reducible] def F.DECIM_THRu_CFG_PATH (u : Nat) : Fld := ⟨A.DECIM_THRu_CFG u, 0, 6⟩
@[reducible] def F.DECIM_THRu_HI_LEVEL (u : Nat) : Fld := ⟨A.DECIM_THRu_HI u, 0, 32⟩
@[reducible] def F.DECIM_THRu_LO_LEVEL (u : Nat) : Fld := ⟨A.DECIM_THRu_LO u, 0, 32⟩
@[reducible] def F.DECIM_THRu_STAT_ACTIVE (u : Nat) : Fld := ⟨A.DECIM_THRu_STAT u, 31, 1⟩
@[reducible] def F.DECIM_THRu_STAT_COUNT (u : Nat) : Fld := ⟨A.DECIM_THRu_STAT u, 8, 8⟩
@[reducible] def F.DECIM_THRu_STAT_ENTRIES (u : Nat) : Fld := ⟨A.DECIM_THRu_STAT u, 0, 8⟩
@[reducible] def F.LOOP_PVDDSTAT_VOLTS : Fld := ⟨A.LOOP_PVDDSTAT, 0, 16⟩
@[reducible] def F.LOOP_BANKSEL_GROUP : Fld := ⟨A.LOOP_BANKSEL, 0, 4⟩
@[reducible] def F.LOOP_BANKACT_CH : Fld := ⟨A.LOOP_BANKACT, 0, 16⟩
@[reducible] def F.LOOP_SWAPSTAMP_CS : Fld := ⟨A.LOOP_SWAPSTAMP, 0, 32⟩
@[reducible] def F.LOOP_CSCNT_VALUE : Fld := ⟨A.LOOP_CSCNT, 0, 32⟩
@[reducible] def F.LOOP_EVENT_G7 : Fld := ⟨A.LOOP_EVENT, 28, 4⟩
@[reducible] def F.LOOP_EVENT_G6 : Fld := ⟨A.LOOP_EVENT, 24, 4⟩
@[reducible] def F.LOOP_EVENT_G5 : Fld := ⟨A.LOOP_EVENT, 20, 4⟩
@[reducible] def F.LOOP_EVENT_G4 : Fld := ⟨A.LOOP_EVENT, 16, 4⟩
@[reducible] def F.LOOP_EVENT_G3 : Fld := ⟨A.LOOP_EVENT, 12, 4⟩
@[reducible] def F.LOOP_EVENT_G2 : Fld := ⟨A.LOOP_EVENT, 8, 4⟩
@[reducible] def F.LOOP_EVENT_G1 : Fld := ⟨A.LOOP_EVENT, 4, 4⟩
@[reducible] def F.LOOP_EVENT_G0 : Fld := ⟨A.LOOP_EVENT, 0, 4⟩
@[reducible] def F.LOOP_IRQEN_MASK : Fld := ⟨A.LOOP_IRQEN, 0, 32⟩
@[reducible] def F.LOOP_RESCNT_LANE : Fld := ⟨A.LOOP_RESCNT, 0, 32⟩
@[reducible] def F.LOOP_UNRECCNT_LANE : Fld := ⟨A.LOOP_UNRECCNT, 0, 32⟩
@[reducible] def F.LOOP_CMDCNT_WR_REFUSED : Fld := ⟨A.LOOP_CMDCNT, 8, 8⟩
@[reducible] def F.LOOP_CMDCNT_SWAP_REFUSED : Fld := ⟨A.LOOP_CMDCNT, 0, 8⟩
@[reducible] def F.LOOP_CHc_CFG_K_BAL (c : Nat) : Fld := ⟨A.LOOP_CHc_CFG c, 16, 16⟩
@[reducible] def F.LOOP_CHc_CFG_FB_SHIFT (c : Nat) : Fld := ⟨A.LOOP_CHc_CFG c, 8, 5⟩
@[reducible] def F.LOOP_CHc_CFG_SWAP_GROUP (c : Nat) : Fld := ⟨A.LOOP_CHc_CFG c, 4, 2⟩
@[reducible] def F.LOOP_CHc_CFG_DEG_BANK (c : Nat) : Fld := ⟨A.LOOP_CHc_CFG c, 3, 1⟩
@[reducible] def F.LOOP_CHc_CFG_INIT_BANK (c : Nat) : Fld := ⟨A.LOOP_CHc_CFG c, 2, 1⟩
@[reducible] def F.LOOP_CHc_CFG_SCALE_SRC (c : Nat) : Fld := ⟨A.LOOP_CHc_CFG c, 1, 1⟩
@[reducible] def F.LOOP_CHc_CFG_FB_EN (c : Nat) : Fld := ⟨A.LOOP_CHc_CFG c, 0, 1⟩
@[reducible] def F.LOOP_CHc_STAT_TRIM (c : Nat) : Fld := ⟨A.LOOP_CHc_STAT c, 14, 18⟩
@[reducible] def F.LOOP_CHc_STAT_DEGRADED (c : Nat) : Fld := ⟨A.LOOP_CHc_STAT c, 4, 1⟩
@[reducible] def F.LOOP_CHc_STAT_BANK (c : Nat) : Fld := ⟨A.LOOP_CHc_STAT c, 3, 1⟩
@[reducible] def F.LOOP_CHc_STAT_MODE (c : Nat) : Fld := ⟨A.LOOP_CHc_STAT c, 0, 3⟩
@[reducible] def F.LOOP_CHc_STICKY_FIRST (c : Nat) : Fld := ⟨A.LOOP_CHc_STICKY c, 16, 4⟩
@[reducible] def F.LOOP_CHc_STICKY_NODES (c : Nat) : Fld := ⟨A.LOOP_CHc_STICKY c, 0, 12⟩
@[reducible] def F.LOOP_CHc_SATCNT_SAT_SAMPLES (c : Nat) : Fld := ⟨A.LOOP_CHc_SATCNT c, 16, 16⟩
@[reducible] def F.LOOP_CHc_SATCNT_FB_ENTRIES (c : Nat) : Fld := ⟨A.LOOP_CHc_SATCNT c, 8, 8⟩
@[reducible] def F.LOOP_CHc_SATCNT_HELD (c : Nat) : Fld := ⟨A.LOOP_CHc_SATCNT c, 0, 8⟩
@[reducible] def F.LOOP_CHc_ERRPK_VALUE (c : Nat) : Fld := ⟨A.LOOP_CHc_ERRPK c, 0, 32⟩
@[reducible] def F.LOOP_CHc_REFDLY_TRIM_NS (c : Nat) : Fld := ⟨A.LOOP_CHc_REFDLY c, 16, 16⟩
@[reducible] def F.LOOP_CHc_REFDLY_TOTAL_NS (c : Nat) : Fld := ⟨A.LOOP_CHc_REFDLY c, 0, 16⟩
@[reducible] def F.LOOP_CHc_SCALE_G (c : Nat) : Fld := ⟨A.LOOP_CHc_SCALE c, 0, 32⟩
@[reducible] def F.LOOP_CHc_BANKb_Wk_VALUE (c b k : Nat) : Fld := ⟨A.LOOP_CHc_BANKb_Wk c b k, 0, 32⟩
@[reducible] def F.LOOP_CHc_FBk_OFFSET (c k : Nat) : Fld := ⟨A.LOOP_CHc_FBk c k, 0, 32⟩
@[reducible] def F.LOOP_CHc_FBk_SLOPE_G (c k : Nat) : Fld := ⟨A.LOOP_CHc_FBk_SLOPE c k, 0, 32⟩
@[reducible] def F.LOOP_RC_SRC_LOCK_TOL : Fld := ⟨A.LOOP_RC_SRC, 16, 8⟩
@[reducible] def F.LOOP_RC_SRC_RCSYNC_DIV : Fld := ⟨A.LOOP_RC_SRC, 8, 4⟩
@[reducible] def F.LOOP_RC_SRC_TRK_BW : Fld := ⟨A.LOOP_RC_SRC, 4, 2⟩
@[reducible] def F.LOOP_RC_SRC_RCSYNC_POL : Fld := ⟨A.LOOP_RC_SRC, 0, 1⟩
@[reducible] def F.LOOP_RC_PERIODs_P (s : Nat) : Fld := ⟨A.LOOP_RC_PERIODs s, 0, 32⟩
@[reducible] def F.LOOP_RC_TRKSTAT_PRESENT : Fld := ⟨A.LOOP_RC_TRKSTAT, 4, 3⟩
@[reducible] def F.LOOP_RC_TRKSTAT_LOCK : Fld := ⟨A.LOOP_RC_TRKSTAT, 0, 3⟩
@[reducible] def F.LOOP_RC_EST_EN : Fld := ⟨A.LOOP_RC_EST, 31, 1⟩
@[reducible] def F.LOOP_RC_EST_INPUT : Fld := ⟨A.LOOP_RC_EST, 0, 5⟩
@[reducible] def F.LOOP_RC_EST_BAND_FMAX : Fld := ⟨A.LOOP_RC_EST_BAND, 16, 16⟩
@[reducible] def F.LOOP_RC_EST_BAND_FMIN : Fld := ⟨A.LOOP_RC_EST_BAND, 0, 16⟩
@[reducible] def F.LOOP_RC_TBLSEL_CH : Fld := ⟨A.LOOP_RC_TBLSEL, 0, 4⟩
@[reducible] def F.LOOP_RC_CNT_BIN_LOST : Fld := ⟨A.LOOP_RC_CNT, 24, 8⟩
@[reducible] def F.LOOP_RC_CNT_LOSSES : Fld := ⟨A.LOOP_RC_CNT, 16, 8⟩
@[reducible] def F.LOOP_RC_CNT_RELEARNS : Fld := ⟨A.LOOP_RC_CNT, 8, 8⟩
@[reducible] def F.LOOP_RC_CNT_WR_REFUSED : Fld := ⟨A.LOOP_RC_CNT, 0, 8⟩
@[reducible] def F.LOOP_RC_CHc_CFG_Q_LIM (c : Nat) : Fld := ⟨A.LOOP_RC_CHc_CFG c, 16, 16⟩
@[reducible] def F.LOOP_RC_CHc_CFG_BIN_W (c : Nat) : Fld := ⟨A.LOOP_RC_CHc_CFG c, 8, 6⟩
@[reducible] def F.LOOP_RC_CHc_CFG_SRC (c : Nat) : Fld := ⟨A.LOOP_RC_CHc_CFG c, 1, 2⟩
@[reducible] def F.LOOP_RC_CHc_CFG_EN (c : Nat) : Fld := ⟨A.LOOP_RC_CHc_CFG c, 0, 1⟩
@[reducible] def F.LOOP_RC_CHc_GAIN_FORGET (c : Nat) : Fld := ⟨A.LOOP_RC_CHc_GAIN c, 24, 4⟩
@[reducible] def F.LOOP_RC_CHc_GAIN_LEAD (c : Nat) : Fld := ⟨A.LOOP_RC_CHc_GAIN c, 16, 8⟩
@[reducible] def F.LOOP_RC_CHc_GAIN_MU (c : Nat) : Fld := ⟨A.LOOP_RC_CHc_GAIN c, 0, 16⟩
@[reducible] def F.LOOP_RC_CHc_CONV_LOSS_HOLD (c : Nat) : Fld := ⟨A.LOOP_RC_CHc_CONV c, 24, 8⟩
@[reducible] def F.LOOP_RC_CHc_CONV_PTOL (c : Nat) : Fld := ⟨A.LOOP_RC_CHc_CONV c, 16, 8⟩
@[reducible] def F.LOOP_RC_CHc_CONV_CONV_LEVEL (c : Nat) : Fld := ⟨A.LOOP_RC_CHc_CONV c, 0, 16⟩
@[reducible] def F.LOOP_RC_CHc_CTRL_FREEZE (c : Nat) : Fld := ⟨A.LOOP_RC_CHc_CTRL c, 1, 1⟩
@[reducible] def F.LOOP_RC_CHc_CTRL_CLEAR (c : Nat) : Fld := ⟨A.LOOP_RC_CHc_CTRL c, 0, 1⟩
@[reducible] def F.LOOP_RC_CHc_STAT_RANGE (c : Nat) : Fld := ⟨A.LOOP_RC_CHc_STAT c, 19, 1⟩
@[reducible] def F.LOOP_RC_CHc_STAT_STATE (c : Nat) : Fld := ⟨A.LOOP_RC_CHc_STAT c, 16, 3⟩
@[reducible] def F.LOOP_RC_CHc_STAT_BINS (c : Nat) : Fld := ⟨A.LOOP_RC_CHc_STAT c, 0, 13⟩
@[reducible] def F.LOOP_RC_CHc_RESID_RESID (c : Nat) : Fld := ⟨A.LOOP_RC_CHc_RESID c, 16, 16⟩
@[reducible] def F.LOOP_RC_CHc_RESID_QPEAK (c : Nat) : Fld := ⟨A.LOOP_RC_CHc_RESID c, 0, 16⟩
@[reducible] def F.LOOP_RC_TBLk_VALUE (k : Nat) : Fld := ⟨A.LOOP_RC_TBLk k, 0, 32⟩
@[reducible] def F.MOD_DIEd_CFG_MI_MAX (d : Nat) : Fld := ⟨A.MOD_DIEd_CFG d, 16, 16⟩
@[reducible] def F.MOD_DIEd_CFG_DEADTIME (d : Nat) : Fld := ⟨A.MOD_DIEd_CFG d, 10, 6⟩
@[reducible] def F.MOD_DIEd_CFG_SLEW (d : Nat) : Fld := ⟨A.MOD_DIEd_CFG d, 8, 2⟩
@[reducible] def F.MOD_DIEd_CFG_INTERLEAVE (d : Nat) : Fld := ⟨A.MOD_DIEd_CFG d, 5, 2⟩
@[reducible] def F.MOD_DIEd_CFG_LEVELS (d : Nat) : Fld := ⟨A.MOD_DIEd_CFG d, 4, 1⟩
@[reducible] def F.MOD_DIEd_CFG_CARRIER (d : Nat) : Fld := ⟨A.MOD_DIEd_CFG d, 0, 3⟩
@[reducible] def F.MOD_DIEd_SHED_SHED_EN (d : Nat) : Fld := ⟨A.MOD_DIEd_SHED d, 31, 1⟩
@[reducible] def F.MOD_DIEd_SHED_ROT_LOG2 (d : Nat) : Fld := ⟨A.MOD_DIEd_SHED d, 24, 4⟩
@[reducible] def F.MOD_DIEd_SHED_SHED_HOLD_MS (d : Nat) : Fld := ⟨A.MOD_DIEd_SHED d, 16, 8⟩
@[reducible] def F.MOD_DIEd_SHED_MIN_CELLS (d : Nat) : Fld := ⟨A.MOD_DIEd_SHED d, 8, 4⟩
@[reducible] def F.MOD_DIEd_SHED_I_CELL (d : Nat) : Fld := ⟨A.MOD_DIEd_SHED d, 0, 8⟩
@[reducible] def F.MOD_DIEd_STAT_PERIOD (d : Nat) : Fld := ⟨A.MOD_DIEd_STAT d, 16, 11⟩
@[reducible] def F.MOD_DIEd_STAT_DT_MIN (d : Nat) : Fld := ⟨A.MOD_DIEd_STAT d, 8, 6⟩
@[reducible] def F.MOD_DIEd_STAT_LINK_OK (d : Nat) : Fld := ⟨A.MOD_DIEd_STAT d, 1, 1⟩
@[reducible] def F.MOD_DIEd_STAT_RUNNING (d : Nat) : Fld := ⟨A.MOD_DIEd_STAT d, 0, 1⟩
@[reducible] def F.MOD_RAMP_CM_RAMP_MS : Fld := ⟨A.MOD_RAMP, 0, 8⟩
@[reducible] def F.MOD_BIND_DEGRADED : Fld := ⟨A.MOD_BIND, 16, 8⟩
@[reducible] def F.MOD_BIND_DENIED : Fld := ⟨A.MOD_BIND, 8, 8⟩
@[reducible] def F.MOD_BIND_DOVETAIL : Fld := ⟨A.MOD_BIND, 0, 8⟩
@[reducible] def F.MOD_PHASEc_ACTIVE (c : Nat) : Fld := ⟨A.MOD_PHASEc c, 16, 11⟩
@[reducible] def F.MOD_PHASEc_CUSTOM (c : Nat) : Fld := ⟨A.MOD_PHASEc c, 0, 11⟩
@[reducible] def F.MOD_OUTo_CFG_ZC_TIMEOUT_MS (o : Nat) : Fld := ⟨A.MOD_OUTo_CFG o, 24, 8⟩
@[reducible] def F.MOD_OUTo_CFG_MODE (o : Nat) : Fld := ⟨A.MOD_OUTo_CFG o, 22, 2⟩
@[reducible] def F.MOD_OUTo_CFG_RAMP_LOG2 (o : Nat) : Fld := ⟨A.MOD_OUTo_CFG o, 16, 4⟩
@[reducible] def F.MOD_OUTo_CFG_VFS (o : Nat) : Fld := ⟨A.MOD_OUTo_CFG o, 0, 16⟩
@[reducible] def F.MOD_OUTo_CTRL_FASTOFF (o : Nat) : Fld := ⟨A.MOD_OUTo_CTRL o, 8, 1⟩
@[reducible] def F.MOD_OUTo_CTRL_REQ (o : Nat) : Fld := ⟨A.MOD_OUTo_CTRL o, 0, 2⟩
@[reducible] def F.MOD_OUTo_STAT_GAIN (o : Nat) : Fld := ⟨A.MOD_OUTo_STAT o, 16, 16⟩
@[reducible] def F.MOD_OUTo_STAT_QUEUED (o : Nat) : Fld := ⟨A.MOD_OUTo_STAT o, 11, 1⟩
@[reducible] def F.MOD_OUTo_STAT_DEGRADED (o : Nat) : Fld := ⟨A.MOD_OUTo_STAT o, 10, 1⟩
@[reducible] def F.MOD_OUTo_STAT_DOVETAIL (o : Nat) : Fld := ⟨A.MOD_OUTo_STAT o, 9, 1⟩
@[reducible] def F.MOD_OUTo_STAT_LOW_Z (o : Nat) : Fld := ⟨A.MOD_OUTo_STAT o, 8, 1⟩
@[reducible] def F.MOD_OUTo_STAT_RETRIES (o : Nat) : Fld := ⟨A.MOD_OUTo_STAT o, 4, 4⟩
@[reducible] def F.MOD_OUTo_STAT_STATE (o : Nat) : Fld := ⟨A.MOD_OUTo_STAT o, 0, 4⟩
@[reducible] def F.MOD_OUTo_EVENT_PLAY_REACHED (o : Nat) : Fld := ⟨A.MOD_OUTo_EVENT o, 12, 1⟩
@[reducible] def F.MOD_OUTo_EVENT_OFF_REACHED (o : Nat) : Fld := ⟨A.MOD_OUTo_EVENT o, 11, 1⟩
@[reducible] def F.MOD_OUTo_EVENT_UNBOUND (o : Nat) : Fld := ⟨A.MOD_OUTo_EVENT o, 10, 1⟩
@[reducible] def F.MOD_OUTo_EVENT_REQ_REFUSED (o : Nat) : Fld := ⟨A.MOD_OUTo_EVENT o, 9, 1⟩
@[reducible] def F.MOD_OUTo_EVENT_ZC_TIMEOUT (o : Nat) : Fld := ⟨A.MOD_OUTo_EVENT o, 8, 1⟩
@[reducible] def F.MOD_OUTo_EVENT_SAT (o : Nat) : Fld := ⟨A.MOD_OUTo_EVENT o, 7, 1⟩
@[reducible] def F.MOD_OUTo_EVENT_DOVETAIL_FAULT (o : Nat) : Fld := ⟨A.MOD_OUTo_EVENT o, 6, 1⟩
@[reducible] def F.MOD_OUTo_EVENT_DOVETAIL_DENIED (o : Nat) : Fld := ⟨A.MOD_OUTo_EVENT o, 5, 1⟩
@[reducible] def F.MOD_OUTo_EVENT_IMBALANCE (o : Nat) : Fld := ⟨A.MOD_OUTo_EVENT o, 4, 1⟩
@[reducible] def F.MOD_OUTo_EVENT_DEGRADED (o : Nat) : Fld := ⟨A.MOD_OUTo_EVENT o, 3, 1⟩
@[reducible] def F.MOD_OUTo_EVENT_CELL_FAULT (o : Nat) : Fld := ⟨A.MOD_OUTo_EVENT o, 2, 1⟩
@[reducible] def F.MOD_OUTo_EVENT_RETRY_EXHAUSTED (o : Nat) : Fld := ⟨A.MOD_OUTo_EVENT o, 1, 1⟩
@[reducible] def F.MOD_OUTo_EVENT_TRIP (o : Nat) : Fld := ⟨A.MOD_OUTo_EVENT o, 0, 1⟩
@[reducible] def F.MOD_OUTo_IRQEN_MASK (o : Nat) : Fld := ⟨A.MOD_OUTo_IRQEN o, 0, 13⟩
@[reducible] def F.MOD_CHc_CFG_TRIP_LIM (c : Nat) : Fld := ⟨A.MOD_CHc_CFG c, 0, 5⟩
@[reducible] def F.MOD_CHc_STAT_FENCED (c : Nat) : Fld := ⟨A.MOD_CHc_STAT c, 28, 1⟩
@[reducible] def F.MOD_CHc_STAT_BRIDGE (c : Nat) : Fld := ⟨A.MOD_CHc_STAT c, 24, 3⟩
@[reducible] def F.MOD_CHc_STAT_GOOD_N (c : Nat) : Fld := ⟨A.MOD_CHc_STAT c, 16, 8⟩
@[reducible] def F.MOD_CHc_STAT_GOOD_P (c : Nat) : Fld := ⟨A.MOD_CHc_STAT c, 8, 8⟩
@[reducible] def F.MOD_CHc_STAT_CELLS_N (c : Nat) : Fld := ⟨A.MOD_CHc_STAT c, 4, 4⟩
@[reducible] def F.MOD_CHc_STAT_CELLS_P (c : Nat) : Fld := ⟨A.MOD_CHc_STAT c, 0, 4⟩
@[reducible] def F.MOD_CHc_CNT_SAT (c : Nat) : Fld := ⟨A.MOD_CHc_CNT c, 16, 16⟩
@[reducible] def F.MOD_CHc_CNT_CELL_FAULTS (c : Nat) : Fld := ⟨A.MOD_CHc_CNT c, 8, 8⟩
@[reducible] def F.MOD_CHc_CNT_TRIPS (c : Nat) : Fld := ⟨A.MOD_CHc_CNT c, 0, 8⟩
@[reducible] def F.GUARD_RAISECNT_COUNT : Fld := ⟨A.GUARD_RAISECNT, 0, 8⟩
@[reducible] def F.GUARD_OUTo_VCLAMP_V (o : Nat) : Fld := ⟨A.GUARD_OUTo_VCLAMP o, 0, 16⟩
@[reducible] def F.GUARD_OUTo_ICLAMP_A (o : Nat) : Fld := ⟨A.GUARD_OUTo_ICLAMP o, 0, 8⟩
@[reducible] def F.GUARD_OUTo_XCLAMP_FP (o : Nat) : Fld := ⟨A.GUARD_OUTo_XCLAMP o, 16, 11⟩
@[reducible] def F.GUARD_OUTo_XCLAMP_V (o : Nat) : Fld := ⟨A.GUARD_OUTo_XCLAMP o, 0, 16⟩
@[reducible] def F.GUARD_OUTo_ECLAMP_E (o : Nat) : Fld := ⟨A.GUARD_OUTo_ECLAMP o, 16, 16⟩
@[reducible] def F.GUARD_OUTo_ECLAMP_WIN_LOG2 (o : Nat) : Fld := ⟨A.GUARD_OUTo_ECLAMP o, 0, 4⟩
@[reducible] def F.GUARD_OUTo_CLSTAT_GC (o : Nat) : Fld := ⟨A.GUARD_OUTo_CLSTAT o, 16, 16⟩
@[reducible] def F.GUARD_OUTo_CLSTAT_QUIET (o : Nat) : Fld := ⟨A.GUARD_OUTo_CLSTAT o, 4, 1⟩
@[reducible] def F.GUARD_OUTo_CLSTAT_E_ACT (o : Nat) : Fld := ⟨A.GUARD_OUTo_CLSTAT o, 3, 1⟩
@[reducible] def F.GUARD_OUTo_CLSTAT_X_ACT (o : Nat) : Fld := ⟨A.GUARD_OUTo_CLSTAT o, 2, 1⟩
@[reducible] def F.GUARD_OUTo_CLSTAT_I_ACT (o : Nat) : Fld := ⟨A.GUARD_OUTo_CLSTAT o, 1, 1⟩
@[reducible] def F.GUARD_OUTo_CLSTAT_V_ACT (o : Nat) : Fld := ⟨A.GUARD_OUTo_CLSTAT o, 0, 1⟩
@[reducible] def F.GUARD_OUTo_MEAS_XPK (o : Nat) : Fld := ⟨A.GUARD_OUTo_MEAS o, 16, 16⟩
@[reducible] def F.GUARD_OUTo_MEAS_EW (o : Nat) : Fld := ⟨A.GUARD_OUTo_MEAS o, 0, 16⟩
@[reducible] def F.GUARD_OUTo_THERM_TVC (o : Nat) : Fld := ⟨A.GUARD_OUTo_THERM o, 16, 16⟩
@[reducible] def F.GUARD_OUTo_THERM_TMEAS (o : Nat) : Fld := ⟨A.GUARD_OUTo_THERM o, 0, 16⟩
@[reducible] def F.GUARD_OUTo_RE_MEAS (o : Nat) : Fld := ⟨A.GUARD_OUTo_RE o, 16, 16⟩
@[reducible] def F.GUARD_OUTo_RE_AGE (o : Nat) : Fld := ⟨A.GUARD_OUTo_RE o, 0, 16⟩
@[reducible] def F.GUARD_OUTo_GAIN_GTH (o : Nat) : Fld := ⟨A.GUARD_OUTo_GAIN o, 16, 16⟩
@[reducible] def F.GUARD_OUTo_GAIN_GX (o : Nat) : Fld := ⟨A.GUARD_OUTo_GAIN o, 0, 16⟩
@[reducible] def F.GUARD_OUTo_XPRED_LIM (o : Nat) : Fld := ⟨A.GUARD_OUTo_XPRED o, 16, 16⟩
@[reducible] def F.GUARD_OUTo_XPRED_PEAK (o : Nat) : Fld := ⟨A.GUARD_OUTo_XPRED o, 0, 16⟩
@[reducible] def F.GUARD_OUTo_STAT_SET (o : Nat) : Fld := ⟨A.GUARD_OUTo_STAT o, 16, 16⟩
@[reducible] def F.GUARD_OUTo_STAT_MARGIN (o : Nat) : Fld := ⟨A.GUARD_OUTo_STAT o, 5, 1⟩
@[reducible] def F.GUARD_OUTo_STAT_CLAMP_ONLY (o : Nat) : Fld := ⟨A.GUARD_OUTo_STAT o, 4, 1⟩
@[reducible] def F.GUARD_OUTo_STAT_FALLBACK (o : Nat) : Fld := ⟨A.GUARD_OUTo_STAT o, 3, 1⟩
@[reducible] def F.GUARD_OUTo_STAT_PILOT_OK (o : Nat) : Fld := ⟨A.GUARD_OUTo_STAT o, 2, 1⟩
@[reducible] def F.GUARD_OUTo_STAT_EXC (o : Nat) : Fld := ⟨A.GUARD_OUTo_STAT o, 1, 1⟩
@[reducible] def F.GUARD_OUTo_STAT_THERM (o : Nat) : Fld := ⟨A.GUARD_OUTo_STAT o, 0, 1⟩
@[reducible] def F.GUARD_OUTo_EVENT_RAISE_REFUSED (o : Nat) : Fld := ⟨A.GUARD_OUTo_EVENT o, 11, 1⟩
@[reducible] def F.GUARD_OUTo_EVENT_CLAMP_ONLY (o : Nat) : Fld := ⟨A.GUARD_OUTo_EVENT o, 10, 1⟩
@[reducible] def F.GUARD_OUTo_EVENT_SET_SWITCHED (o : Nat) : Fld := ⟨A.GUARD_OUTo_EVENT o, 9, 1⟩
@[reducible] def F.GUARD_OUTo_EVENT_DISAGREE (o : Nat) : Fld := ⟨A.GUARD_OUTo_EVENT o, 8, 1⟩
@[reducible] def F.GUARD_OUTo_EVENT_PILOT_LOST (o : Nat) : Fld := ⟨A.GUARD_OUTo_EVENT o, 7, 1⟩
@[reducible] def F.GUARD_OUTo_EVENT_EXC_LIMIT (o : Nat) : Fld := ⟨A.GUARD_OUTo_EVENT o, 6, 1⟩
@[reducible] def F.GUARD_OUTo_EVENT_THERM_LIMIT (o : Nat) : Fld := ⟨A.GUARD_OUTo_EVENT o, 5, 1⟩
@[reducible] def F.GUARD_OUTo_EVENT_THERM_REDUCE (o : Nat) : Fld := ⟨A.GUARD_OUTo_EVENT o, 4, 1⟩
@[reducible] def F.GUARD_OUTo_EVENT_E_CLAMP (o : Nat) : Fld := ⟨A.GUARD_OUTo_EVENT o, 3, 1⟩
@[reducible] def F.GUARD_OUTo_EVENT_X_CLAMP (o : Nat) : Fld := ⟨A.GUARD_OUTo_EVENT o, 2, 1⟩
@[reducible] def F.GUARD_OUTo_EVENT_I_CLAMP (o : Nat) : Fld := ⟨A.GUARD_OUTo_EVENT o, 1, 1⟩
@[reducible] def F.GUARD_OUTo_EVENT_V_CLAMP (o : Nat) : Fld := ⟨A.GUARD_OUTo_EVENT o, 0, 1⟩
@[reducible] def F.GUARD_OUTo_IRQEN_MASK (o : Nat) : Fld := ⟨A.GUARD_OUTo_IRQEN o, 0, 12⟩
@[reducible] def F.GUARD_OUTo_CNT_E (o : Nat) : Fld := ⟨A.GUARD_OUTo_CNT o, 24, 8⟩
@[reducible] def F.GUARD_OUTo_CNT_X (o : Nat) : Fld := ⟨A.GUARD_OUTo_CNT o, 16, 8⟩
@[reducible] def F.GUARD_OUTo_CNT_I (o : Nat) : Fld := ⟨A.GUARD_OUTo_CNT o, 8, 8⟩
@[reducible] def F.GUARD_OUTo_CNT_V (o : Nat) : Fld := ⟨A.GUARD_OUTo_CNT o, 0, 8⟩
@[reducible] def F.GUARD_OUTo_DISCNT_COUNT (o : Nat) : Fld := ⟨A.GUARD_OUTo_DISCNT o, 0, 8⟩
@[reducible] def F.DIAG_CMD_OP : Fld := ⟨A.DIAG_CMD, 30, 2⟩
@[reducible] def F.DIAG_CMD_OUTPUTS : Fld := ⟨A.DIAG_CMD, 0, 16⟩
@[reducible] def F.DIAG_STAT_SOURCES : Fld := ⟨A.DIAG_STAT, 20, 4⟩
@[reducible] def F.DIAG_STAT_BOOT_DONE : Fld := ⟨A.DIAG_STAT, 16, 1⟩
@[reducible] def F.DIAG_STAT_BUSY : Fld := ⟨A.DIAG_STAT, 0, 16⟩
@[reducible] def F.DIAG_CFG_I_DIAG : Fld := ⟨A.DIAG_CFG, 16, 2⟩
@[reducible] def F.DIAG_CFG_R_OPEN : Fld := ⟨A.DIAG_CFG, 0, 16⟩
@[reducible] def F.DIAG_CNT_REFUSED : Fld := ⟨A.DIAG_CNT, 8, 8⟩
@[reducible] def F.DIAG_CNT_ABORTED : Fld := ⟨A.DIAG_CNT, 0, 8⟩
@[reducible] def F.DIAG_PAIR_JOINED : Fld := ⟨A.DIAG_PAIR, 0, 8⟩
@[reducible] def F.DIAG_STBY_OUT : Fld := ⟨A.DIAG_STBY, 0, 32⟩
@[reducible] def F.DIAG_SWSEL_OUTPUT : Fld := ⟨A.DIAG_SWSEL, 0, 4⟩
@[reducible] def F.DIAG_CHc_DC_R (c : Nat) : Fld := ⟨A.DIAG_CHc_DC c, 16, 16⟩
@[reducible] def F.DIAG_CHc_DC_CODE (c : Nat) : Fld := ⟨A.DIAG_CHc_DC c, 8, 4⟩
@[reducible] def F.DIAG_CHc_DC_CONF (c : Nat) : Fld := ⟨A.DIAG_CHc_DC c, 6, 2⟩
@[reducible] def F.DIAG_CHc_DC_N_SUP (c : Nat) : Fld := ⟨A.DIAG_CHc_DC c, 3, 1⟩
@[reducible] def F.DIAG_CHc_DC_N_GND (c : Nat) : Fld := ⟨A.DIAG_CHc_DC c, 2, 1⟩
@[reducible] def F.DIAG_CHc_DC_P_SUP (c : Nat) : Fld := ⟨A.DIAG_CHc_DC c, 1, 1⟩
@[reducible] def F.DIAG_CHc_DC_P_GND (c : Nat) : Fld := ⟨A.DIAG_CHc_DC c, 0, 1⟩
@[reducible] def F.DIAG_CHc_AGE_MS (c : Nat) : Fld := ⟨A.DIAG_CHc_AGE c, 0, 16⟩
@[reducible] def F.DIAG_OUTo_AC_ZMIN (o : Nat) : Fld := ⟨A.DIAG_OUTo_AC o, 16, 16⟩
@[reducible] def F.DIAG_OUTo_AC_CONF (o : Nat) : Fld := ⟨A.DIAG_OUTo_AC o, 6, 2⟩
@[reducible] def F.DIAG_OUTo_AC_CLASS (o : Nat) : Fld := ⟨A.DIAG_OUTo_AC o, 0, 3⟩
@[reducible] def F.DIAG_OUTo_ACF_F_RES (o : Nat) : Fld := ⟨A.DIAG_OUTo_ACF o, 16, 16⟩
@[reducible] def F.DIAG_OUTo_ACF_F_C (o : Nat) : Fld := ⟨A.DIAG_OUTo_ACF o, 0, 16⟩
@[reducible] def F.DIAG_OUTo_TRK_DRIFT (o : Nat) : Fld := ⟨A.DIAG_OUTo_TRK o, 24, 3⟩
@[reducible] def F.DIAG_OUTo_TRK_HIGH (o : Nat) : Fld := ⟨A.DIAG_OUTo_TRK o, 16, 8⟩
@[reducible] def F.DIAG_OUTo_TRK_MID (o : Nat) : Fld := ⟨A.DIAG_OUTo_TRK o, 8, 8⟩
@[reducible] def F.DIAG_OUTo_TRK_LOW (o : Nat) : Fld := ⟨A.DIAG_OUTo_TRK o, 0, 8⟩
@[reducible] def F.DIAG_OUTo_EVENT_REFUSED (o : Nat) : Fld := ⟨A.DIAG_OUTo_EVENT o, 8, 1⟩
@[reducible] def F.DIAG_OUTo_EVENT_STBY_FINDING (o : Nat) : Fld := ⟨A.DIAG_OUTo_EVENT o, 7, 1⟩
@[reducible] def F.DIAG_OUTo_EVENT_RE_RANGE (o : Nat) : Fld := ⟨A.DIAG_OUTo_EVENT o, 6, 1⟩
@[reducible] def F.DIAG_OUTo_EVENT_IMP_DRIFT (o : Nat) : Fld := ⟨A.DIAG_OUTo_EVENT o, 5, 1⟩
@[reducible] def F.DIAG_OUTo_EVENT_AC_MISMATCH (o : Nat) : Fld := ⟨A.DIAG_OUTo_EVENT o, 4, 1⟩
@[reducible] def F.DIAG_OUTo_EVENT_AC_ABORTED (o : Nat) : Fld := ⟨A.DIAG_OUTo_EVENT o, 3, 1⟩
@[reducible] def F.DIAG_OUTo_EVENT_AC_DONE (o : Nat) : Fld := ⟨A.DIAG_OUTo_EVENT o, 2, 1⟩
@[reducible] def F.DIAG_OUTo_EVENT_DC_FAIL (o : Nat) : Fld := ⟨A.DIAG_OUTo_EVENT o, 1, 1⟩
@[reducible] def F.DIAG_OUTo_EVENT_DC_DONE (o : Nat) : Fld := ⟨A.DIAG_OUTo_EVENT o, 0, 1⟩
@[reducible] def F.DIAG_OUTo_IRQEN_MASK (o : Nat) : Fld := ⟨A.DIAG_OUTo_IRQEN o, 0, 9⟩
@[reducible] def F.DIAG_SWPk_F_HZ (k : Nat) : Fld := ⟨A.DIAG_SWPk_F k, 0, 32⟩
@[reducible] def F.DIAG_SWPk_Z_MAG (k : Nat) : Fld := ⟨A.DIAG_SWPk_Z k, 16, 16⟩
@[reducible] def F.DIAG_SWPk_Z_PHASE (k : Nat) : Fld := ⟨A.DIAG_SWPk_Z k, 0, 16⟩
@[reducible] def F.PORTn_CFG_TX_HIZ (n : Nat) : Fld := ⟨A.PORTn_CFG n, 23, 1⟩
@[reducible] def F.PORTn_CFG_BCLK_EDGE (n : Nat) : Fld := ⟨A.PORTn_CFG n, 22, 1⟩
@[reducible] def F.PORTn_CFG_FS_POL (n : Nat) : Fld := ⟨A.PORTn_CFG n, 21, 1⟩
@[reducible] def F.PORTn_CFG_FS_DELAY (n : Nat) : Fld := ⟨A.PORTn_CFG n, 20, 1⟩
@[reducible] def F.PORTn_CFG_FS_WIDTH (n : Nat) : Fld := ⟨A.PORTn_CFG n, 19, 1⟩
@[reducible] def F.PORTn_CFG_FA (n : Nat) : Fld := ⟨A.PORTn_CFG n, 17, 2⟩
@[reducible] def F.PORTn_CFG_SLOTS (n : Nat) : Fld := ⟨A.PORTn_CFG n, 12, 4⟩
@[reducible] def F.PORTn_CFG_WIDTH (n : Nat) : Fld := ⟨A.PORTn_CFG n, 10, 2⟩
@[reducible] def F.PORTn_CFG_MASTER (n : Nat) : Fld := ⟨A.PORTn_CFG n, 8, 1⟩
@[reducible] def F.PORTn_CFG_TX_EN (n : Nat) : Fld := ⟨A.PORTn_CFG n, 5, 1⟩
@[reducible] def F.PORTn_CFG_RX_EN (n : Nat) : Fld := ⟨A.PORTn_CFG n, 4, 1⟩
@[reducible] def F.PORTn_CFG_MODE (n : Nat) : Fld := ⟨A.PORTn_CFG n, 0, 2⟩
@[reducible] def F.PORTn_CTRL_RESTART (n : Nat) : Fld := ⟨A.PORTn_CTRL n, 4, 1⟩
@[reducible] def F.PORTn_CTRL_DISARM (n : Nat) : Fld := ⟨A.PORTn_CTRL n, 3, 1⟩
@[reducible] def F.PORTn_CTRL_ARM (n : Nat) : Fld := ⟨A.PORTn_CTRL n, 2, 1⟩
@[reducible] def F.PORTn_CTRL_STOP (n : Nat) : Fld := ⟨A.PORTn_CTRL n, 1, 1⟩
@[reducible] def F.PORTn_CTRL_START (n : Nat) : Fld := ⟨A.PORTn_CTRL n, 0, 1⟩
@[reducible] def F.PORTn_STAT_OWNER (n : Nat) : Fld := ⟨A.PORTn_STAT n, 12, 1⟩
@[reducible] def F.PORTn_STAT_IEC_LOCK (n : Nat) : Fld := ⟨A.PORTn_STAT n, 11, 1⟩
@[reducible] def F.PORTn_STAT_MEAS_FA (n : Nat) : Fld := ⟨A.PORTn_STAT n, 8, 3⟩
@[reducible] def F.PORTn_STAT_ZC_PENDING (n : Nat) : Fld := ⟨A.PORTn_STAT n, 7, 1⟩
@[reducible] def F.PORTn_STAT_RATE_OK (n : Nat) : Fld := ⟨A.PORTn_STAT n, 6, 1⟩
@[reducible] def F.PORTn_STAT_CLK_PRESENT (n : Nat) : Fld := ⟨A.PORTn_STAT n, 5, 1⟩
@[reducible] def F.PORTn_STAT_ALIGN_SUSPECT (n : Nat) : Fld := ⟨A.PORTn_STAT n, 4, 1⟩
@[reducible] def F.PORTn_STAT_START_QUEUED (n : Nat) : Fld := ⟨A.PORTn_STAT n, 3, 1⟩
@[reducible] def F.PORTn_STAT_STATE (n : Nat) : Fld := ⟨A.PORTn_STAT n, 0, 3⟩
@[reducible] def F.PORTn_EVENT_G3 (n : Nat) : Fld := ⟨A.PORTn_EVENT n, 12, 4⟩
@[reducible] def F.PORTn_EVENT_G2 (n : Nat) : Fld := ⟨A.PORTn_EVENT n, 8, 4⟩
@[reducible] def F.PORTn_EVENT_G1 (n : Nat) : Fld := ⟨A.PORTn_EVENT n, 4, 4⟩
@[reducible] def F.PORTn_EVENT_G0 (n : Nat) : Fld := ⟨A.PORTn_EVENT n, 0, 4⟩
@[reducible] def F.PORTn_IRQEN_MASK (n : Nat) : Fld := ⟨A.PORTn_IRQEN n, 0, 16⟩
@[reducible] def F.PORTn_SLOTMASK_TX (n : Nat) : Fld := ⟨A.PORTn_SLOTMASK n, 16, 16⟩
@[reducible] def F.PORTn_SLOTMASK_RX (n : Nat) : Fld := ⟨A.PORTn_SLOTMASK n, 0, 16⟩
@[reducible] def F.PORTn_SLOTMASK_ACT_TX (n : Nat) : Fld := ⟨A.PORTn_SLOTMASK_ACT n, 16, 16⟩
@[reducible] def F.PORTn_SLOTMASK_ACT_RX (n : Nat) : Fld := ⟨A.PORTn_SLOTMASK_ACT n, 0, 16⟩
@[reducible] def F.PORTn_MASK_FRAME_VALUE (n : Nat) : Fld := ⟨A.PORTn_MASK_FRAME n, 0, 32⟩
@[reducible] def F.PORTn_FRAMECNT_VALUE (n : Nat) : Fld := ⟨A.PORTn_FRAMECNT n, 0, 32⟩
@[reducible] def F.PORTn_ZC_RAMP_LOG2 (n : Nat) : Fld := ⟨A.PORTn_ZC n, 8, 4⟩
@[reducible] def F.PORTn_ZC_TIMEOUT_MS (n : Nat) : Fld := ⟨A.PORTn_ZC n, 0, 8⟩
@[reducible] def F.PORTn_FILL_TX (n : Nat) : Fld := ⟨A.PORTn_FILL n, 4, 4⟩
@[reducible] def F.PORTn_FILL_RX (n : Nat) : Fld := ⟨A.PORTn_FILL n, 0, 4⟩
@[reducible] def F.PORTn_MEAS_PERIOD (n : Nat) : Fld := ⟨A.PORTn_MEAS n, 0, 24⟩
@[reducible] def F.PORTn_SLIP_REPEAT (n : Nat) : Fld := ⟨A.PORTn_SLIP n, 16, 16⟩
@[reducible] def F.PORTn_SLIP_DROP (n : Nat) : Fld := ⟨A.PORTn_SLIP n, 0, 16⟩
@[reducible] def F.PORTn_ERRCNT_CLKLOSS (n : Nat) : Fld := ⟨A.PORTn_ERRCNT n, 24, 8⟩
@[reducible] def F.PORTn_ERRCNT_GLITCH (n : Nat) : Fld := ⟨A.PORTn_ERRCNT n, 16, 8⟩
@[reducible] def F.PORTn_ERRCNT_UNDERRUN (n : Nat) : Fld := ⟨A.PORTn_ERRCNT n, 8, 8⟩
@[reducible] def F.PORTn_ERRCNT_OVERRUN (n : Nat) : Fld := ⟨A.PORTn_ERRCNT n, 0, 8⟩
@[reducible] def F.PORTn_CMDCNT_CFG_REFUSED (n : Nat) : Fld := ⟨A.PORTn_CMDCNT n, 16, 8⟩
@[reducible] def F.PORTn_CMDCNT_IGNORED (n : Nat) : Fld := ⟨A.PORTn_CMDCNT n, 8, 8⟩
@[reducible] def F.PORTn_CMDCNT_AUTO_RESTART (n : Nat) : Fld := ⟨A.PORTn_CMDCNT n, 0, 8⟩
@[reducible] def F.PORTn_MCLKDIV_INT (n : Nat) : Fld := ⟨A.PORTn_MCLKDIV n, 24, 8⟩
@[reducible] def F.PORTn_MCLKDIV_NUM (n : Nat) : Fld := ⟨A.PORTn_MCLKDIV n, 12, 12⟩
@[reducible] def F.PORTn_MCLKDIV_DEN (n : Nat) : Fld := ⟨A.PORTn_MCLKDIV n, 0, 12⟩
@[reducible] def F.PORTn_RXMAPk_SLOT3 (n k : Nat) : Fld := ⟨A.PORTn_RXMAPk n k, 24, 8⟩
@[reducible] def F.PORTn_RXMAPk_SLOT2 (n k : Nat) : Fld := ⟨A.PORTn_RXMAPk n k, 16, 8⟩
@[reducible] def F.PORTn_RXMAPk_SLOT1 (n k : Nat) : Fld := ⟨A.PORTn_RXMAPk n k, 8, 8⟩
@[reducible] def F.PORTn_RXMAPk_SLOT0 (n k : Nat) : Fld := ⟨A.PORTn_RXMAPk n k, 0, 8⟩
@[reducible] def F.PORTn_TXMAPk_SLOTS (n k : Nat) : Fld := ⟨A.PORTn_TXMAPk n k, 0, 32⟩
@[reducible] def F.PORT3_IEC_CFG_TX_V : Fld := ⟨A.PORT3_IEC_CFG, 2, 1⟩
@[reducible] def F.PORT3_IEC_CFG_VAL_MUTE : Fld := ⟨A.PORT3_IEC_CFG, 1, 1⟩
@[reducible] def F.PORT3_IEC_CFG_DIR : Fld := ⟨A.PORT3_IEC_CFG, 0, 1⟩
@[reducible] def F.PORT3_IEC_STAT_CS_AB_DIFF : Fld := ⟨A.PORT3_IEC_STAT, 3, 1⟩
@[reducible] def F.PORT3_IEC_STAT_NONAUDIO : Fld := ⟨A.PORT3_IEC_STAT, 2, 1⟩
@[reducible] def F.PORT3_IEC_STAT_PRO : Fld := ⟨A.PORT3_IEC_STAT, 1, 1⟩
@[reducible] def F.PORT3_IEC_STAT_LOCK : Fld := ⟨A.PORT3_IEC_STAT, 0, 1⟩
@[reducible] def F.PORT3_IEC_CNT_PARITY : Fld := ⟨A.PORT3_IEC_CNT, 16, 16⟩
@[reducible] def F.PORT3_IEC_CNT_VALIDITY : Fld := ⟨A.PORT3_IEC_CNT, 0, 16⟩
@[reducible] def F.PORT3_CS_RXk_BYTES (k : Nat) : Fld := ⟨A.PORT3_CS_RXk k, 0, 32⟩
@[reducible] def F.PORT3_CS_TXk_BYTES (k : Nat) : Fld := ⟨A.PORT3_CS_TXk k, 0, 32⟩
@[reducible] def F.PORT_GSTART_FIRE : Fld := ⟨A.PORT_GSTART, 8, 1⟩
@[reducible] def F.PORT_GSTART_SRC : Fld := ⟨A.PORT_GSTART, 0, 2⟩
@[reducible] def F.PORT_GSTART_FRAME_S : Fld := ⟨A.PORT_GSTART_FRAME, 0, 32⟩
@[reducible] def F.PORT_TBFRAME_COUNT : Fld := ⟨A.PORT_TBFRAME, 0, 32⟩
@[reducible] def F.TRING_CFG_REMOTE_EN : Fld := ⟨A.TRING_CFG, 18, 1⟩
@[reducible] def F.TRING_CFG_SYNC_TX : Fld := ⟨A.TRING_CFG, 17, 1⟩
@[reducible] def F.TRING_CFG_START_TX : Fld := ⟨A.TRING_CFG, 16, 1⟩
@[reducible] def F.TRING_CFG_ALIGN : Fld := ⟨A.TRING_CFG, 8, 6⟩
@[reducible] def F.TRING_CFG_ROLE : Fld := ⟨A.TRING_CFG, 0, 2⟩
@[reducible] def F.TRING_CTRL_STOP : Fld := ⟨A.TRING_CTRL, 1, 1⟩
@[reducible] def F.TRING_CTRL_START : Fld := ⟨A.TRING_CTRL, 0, 1⟩
@[reducible] def F.TRING_STAT_POSITION : Fld := ⟨A.TRING_STAT, 16, 16⟩
@[reducible] def F.TRING_STAT_SECOND_VALID : Fld := ⟨A.TRING_STAT, 5, 1⟩
@[reducible] def F.TRING_STAT_LOCK : Fld := ⟨A.TRING_STAT, 4, 1⟩
@[reducible] def F.TRING_STAT_MASTER : Fld := ⟨A.TRING_STAT, 3, 1⟩
@[reducible] def F.TRING_STAT_STATE : Fld := ⟨A.TRING_STAT, 0, 3⟩
@[reducible] def F.TRING_TOPO_BREAK_POS : Fld := ⟨A.TRING_TOPO, 16, 16⟩
@[reducible] def F.TRING_TOPO_RLEN : Fld := ⟨A.TRING_TOPO, 0, 16⟩
@[reducible] def F.TRING_DELAY_ACC : Fld := ⟨A.TRING_DELAY, 16, 16⟩
@[reducible] def F.TRING_DELAY_RTT : Fld := ⟨A.TRING_DELAY, 0, 16⟩
@[reducible] def F.TRING_EVENT_G7 : Fld := ⟨A.TRING_EVENT, 28, 4⟩
@[reducible] def F.TRING_EVENT_G6 : Fld := ⟨A.TRING_EVENT, 24, 4⟩
@[reducible] def F.TRING_EVENT_G5 : Fld := ⟨A.TRING_EVENT, 20, 4⟩
@[reducible] def F.TRING_EVENT_G4 : Fld := ⟨A.TRING_EVENT, 16, 4⟩
@[reducible] def F.TRING_EVENT_G3 : Fld := ⟨A.TRING_EVENT, 12, 4⟩
@[reducible] def F.TRING_EVENT_G2 : Fld := ⟨A.TRING_EVENT, 8, 4⟩
@[reducible] def F.TRING_EVENT_G1 : Fld := ⟨A.TRING_EVENT, 4, 4⟩
@[reducible] def F.TRING_EVENT_G0 : Fld := ⟨A.TRING_EVENT, 0, 4⟩
@[reducible] def F.TRING_IRQEN_MASK : Fld := ⟨A.TRING_IRQEN, 0, 32⟩
@[reducible] def F.TRING_ERRCNT_CFG_REFUSED : Fld := ⟨A.TRING_ERRCNT, 24, 8⟩
@[reducible] def F.TRING_ERRCNT_BREAKS : Fld := ⟨A.TRING_ERRCNT, 16, 8⟩
@[reducible] def F.TRING_ERRCNT_CRC : Fld := ⟨A.TRING_ERRCNT, 8, 8⟩
@[reducible] def F.TRING_ERRCNT_CODE : Fld := ⟨A.TRING_ERRCNT, 0, 8⟩
@[reducible] def F.TRING_BCNT_LATE : Fld := ⟨A.TRING_BCNT, 24, 8⟩
@[reducible] def F.TRING_BCNT_DROPPED : Fld := ⟨A.TRING_BCNT, 16, 8⟩
@[reducible] def F.TRING_BCNT_BAD : Fld := ⟨A.TRING_BCNT, 8, 8⟩
@[reducible] def F.TRING_BCNT_UNDELIVERED : Fld := ⟨A.TRING_BCNT, 0, 8⟩
@[reducible] def F.TRING_BTXk_BYTES (k : Nat) : Fld := ⟨A.TRING_BTXk k, 0, 32⟩
@[reducible] def F.TRING_BTXCTL_LEVEL : Fld := ⟨A.TRING_BTXCTL, 8, 4⟩
@[reducible] def F.TRING_BTXCTL_SEND : Fld := ⟨A.TRING_BTXCTL, 0, 1⟩
@[reducible] def F.TRING_BRXk_BYTES (k : Nat) : Fld := ⟨A.TRING_BRXk k, 0, 32⟩
@[reducible] def F.TRING_BRXCTL_LEVEL : Fld := ⟨A.TRING_BRXCTL, 8, 5⟩
@[reducible] def F.TRING_BRXCTL_POP : Fld := ⟨A.TRING_BRXCTL, 0, 1⟩
@[reducible] def F.TRING_OWN_LO_MASK : Fld := ⟨A.TRING_OWN_LO, 0, 32⟩
@[reducible] def F.TRING_OWN_HI_MASK : Fld := ⟨A.TRING_OWN_HI, 0, 32⟩
@[reducible] def F.TRING_RXMAPk_SLOTS (k : Nat) : Fld := ⟨A.TRING_RXMAPk k, 0, 32⟩
@[reducible] def F.TRING_TXMAPk_SLOTS (k : Nat) : Fld := ⟨A.TRING_TXMAPk k, 0, 32⟩
@[reducible] def F.FCOL_STAT_QUEUE : Fld := ⟨A.FCOL_STAT, 16, 6⟩
@[reducible] def F.FCOL_STAT_PQUEUE : Fld := ⟨A.FCOL_STAT, 8, 3⟩
@[reducible] def F.FCOL_STAT_RULES : Fld := ⟨A.FCOL_STAT, 6, 2⟩
@[reducible] def F.FCOL_STAT_SAFE_CAUSE : Fld := ⟨A.FCOL_STAT, 4, 2⟩
@[reducible] def F.FCOL_STAT_WDOG_RUN : Fld := ⟨A.FCOL_STAT, 3, 1⟩
@[reducible] def F.FCOL_STAT_ALIVE_RUN : Fld := ⟨A.FCOL_STAT, 2, 1⟩
@[reducible] def F.FCOL_STAT_SAFE : Fld := ⟨A.FCOL_STAT, 0, 1⟩
@[reducible] def F.FCOL_CTRL_KEY : Fld := ⟨A.FCOL_CTRL, 16, 16⟩
@[reducible] def F.FCOL_CTRL_CLR_FIRST : Fld := ⟨A.FCOL_CTRL, 2, 1⟩
@[reducible] def F.FCOL_CTRL_COMMIT : Fld := ⟨A.FCOL_CTRL, 1, 1⟩
@[reducible] def F.FCOL_CTRL_SAFE : Fld := ⟨A.FCOL_CTRL, 0, 1⟩
@[reducible] def F.FCOL_EVENT_SRC : Fld := ⟨A.FCOL_EVENT, 0, 8⟩
@[reducible] def F.FCOL_IRQEN_MASK : Fld := ⟨A.FCOL_IRQEN, 0, 8⟩
@[reducible] def F.FCOL_TICK_COUNT : Fld := ⟨A.FCOL_TICK, 0, 32⟩
@[reducible] def F.FCOL_FIRST_SEQ : Fld := ⟨A.FCOL_FIRST, 16, 16⟩
@[reducible] def F.FCOL_FIRST_ID : Fld := ⟨A.FCOL_FIRST, 0, 16⟩
@[reducible] def F.FCOL_CNT_MASKED : Fld := ⟨A.FCOL_CNT, 24, 8⟩
@[reducible] def F.FCOL_CNT_LOST : Fld := ⟨A.FCOL_CNT, 16, 8⟩
@[reducible] def F.FCOL_CNT_REFUSED : Fld := ⟨A.FCOL_CNT, 8, 8⟩
@[reducible] def F.FCOL_CNT_JIG : Fld := ⟨A.FCOL_CNT, 0, 8⟩
@[reducible] def F.FCOL_RSTCNT_TOTAL : Fld := ⟨A.FCOL_RSTCNT, 8, 8⟩
@[reducible] def F.FCOL_RSTCNT_RECENT : Fld := ⟨A.FCOL_RSTCNT, 0, 8⟩
@[reducible] def F.FCOL_LOGSTAT_NEXT_SEQ : Fld := ⟨A.FCOL_LOGSTAT, 16, 16⟩
@[reducible] def F.FCOL_LOGSTAT_WRAPPED : Fld := ⟨A.FCOL_LOGSTAT, 15, 1⟩
@[reducible] def F.FCOL_LOGSTAT_ENTRIES : Fld := ⟨A.FCOL_LOGSTAT, 0, 7⟩
@[reducible] def F.FCOL_WDOG_KICK : Fld := ⟨A.FCOL_WDOG, 0, 1⟩
@[reducible] def F.FCOL_JIG_ARM : Fld := ⟨A.FCOL_JIG, 31, 1⟩
@[reducible] def F.FCOL_JIG_MODE : Fld := ⟨A.FCOL_JIG, 8, 1⟩
@[reducible] def F.FCOL_JIG_TARGET : Fld := ⟨A.FCOL_JIG, 0, 8⟩
@[reducible] def F.FCOL_JIGSTAT_ID : Fld := ⟨A.FCOL_JIGSTAT, 16, 16⟩
@[reducible] def F.FCOL_JIGSTAT_STATE : Fld := ⟨A.FCOL_JIGSTAT, 0, 2⟩
@[reducible] def F.FCOL_CLSc_LASTING (c : Nat) : Fld := ⟨A.FCOL_CLSc c, 16, 8⟩
@[reducible] def F.FCOL_CLSc_RECURRING (c : Nat) : Fld := ⟨A.FCOL_CLSc c, 8, 8⟩
@[reducible] def F.FCOL_CLSc_TRANSIENT (c : Nat) : Fld := ⟨A.FCOL_CLSc c, 0, 8⟩
@[reducible] def F.FCOL_RULEk_MATCH_ID (k : Nat) : Fld := ⟨A.FCOL_RULEk_MATCH k, 16, 16⟩
@[reducible] def F.FCOL_RULEk_MATCH_MASK (k : Nat) : Fld := ⟨A.FCOL_RULEk_MATCH k, 0, 16⟩
@[reducible] def F.FCOL_RULEk_WIN_WINDOW (k : Nat) : Fld := ⟨A.FCOL_RULEk_WIN k, 16, 16⟩
@[reducible] def F.FCOL_RULEk_WIN_L_THRESH (k : Nat) : Fld := ⟨A.FCOL_RULEk_WIN k, 8, 8⟩
@[reducible] def F.FCOL_RULEk_WIN_R_THRESH (k : Nat) : Fld := ⟨A.FCOL_RULEk_WIN k, 0, 8⟩
@[reducible] def F.FCOL_RULEk_REACT_VALID (k : Nat) : Fld := ⟨A.FCOL_RULEk_REACT k, 31, 1⟩
@[reducible] def F.FCOL_RULEk_REACT_PER_INSTANCE (k : Nat) : Fld := ⟨A.FCOL_RULEk_REACT k, 30, 1⟩
@[reducible] def F.FCOL_RULEk_REACT_L (k : Nat) : Fld := ⟨A.FCOL_RULEk_REACT k, 16, 8⟩
@[reducible] def F.FCOL_RULEk_REACT_R (k : Nat) : Fld := ⟨A.FCOL_RULEk_REACT k, 8, 8⟩
@[reducible] def F.FCOL_RULEk_REACT_T (k : Nat) : Fld := ⟨A.FCOL_RULEk_REACT k, 0, 8⟩
@[reducible] def F.FCOL_CTRk_USED (k : Nat) : Fld := ⟨A.FCOL_CTRk k, 31, 1⟩
@[reducible] def F.FCOL_CTRk_RULE (k : Nat) : Fld := ⟨A.FCOL_CTRk k, 24, 7⟩
@[reducible] def F.FCOL_CTRk_INSTANCE (k : Nat) : Fld := ⟨A.FCOL_CTRk k, 20, 4⟩
@[reducible] def F.FCOL_CTRk_COUNT (k : Nat) : Fld := ⟨A.FCOL_CTRk k, 0, 8⟩
@[reducible] def F.FCOL_LOGe_Wj_DATA (e j : Nat) : Fld := ⟨A.FCOL_LOGe_Wj e j, 0, 32⟩
@[reducible] def F.INTC_CLAIM_SOURCE : Fld := ⟨A.INTC_CLAIM, 0, 8⟩
@[reducible] def F.INTC_COMPLETE_SOURCE : Fld := ⟨A.INTC_COMPLETE, 0, 8⟩
@[reducible] def F.INTC_CTRL_IRQ_EN : Fld := ⟨A.INTC_CTRL, 0, 1⟩
@[reducible] def F.INTC_STAT_ALERT_REQ : Fld := ⟨A.INTC_STAT, 25, 1⟩
@[reducible] def F.INTC_STAT_IRQ : Fld := ⟨A.INTC_STAT, 24, 1⟩
@[reducible] def F.INTC_STAT_CLAIMED : Fld := ⟨A.INTC_STAT, 16, 8⟩
@[reducible] def F.INTC_STAT_HELD : Fld := ⟨A.INTC_STAT, 8, 8⟩
@[reducible] def F.INTC_STAT_PENDING : Fld := ⟨A.INTC_STAT, 0, 8⟩
@[reducible] def F.INTC_ERR_BAD_COMPLETE : Fld := ⟨A.INTC_ERR, 8, 8⟩
@[reducible] def F.INTC_ERR_EMPTY_CLAIM : Fld := ⟨A.INTC_ERR, 0, 8⟩
@[reducible] def F.INTC_RAWk_LEVEL (k : Nat) : Fld := ⟨A.INTC_RAWk k, 0, 32⟩
@[reducible] def F.INTC_PENDk_SRC (k : Nat) : Fld := ⟨A.INTC_PENDk k, 0, 32⟩
@[reducible] def F.INTC_HELDk_SRC (k : Nat) : Fld := ⟨A.INTC_HELDk k, 0, 32⟩
@[reducible] def F.INTC_CLAIMEDk_SRC (k : Nat) : Fld := ⟨A.INTC_CLAIMEDk k, 0, 32⟩
@[reducible] def F.INTC_ENk_MASK (k : Nat) : Fld := ⟨A.INTC_ENk k, 0, 32⟩
@[reducible] def F.INTC_ALERTk_MASK (k : Nat) : Fld := ⟨A.INTC_ALERTk k, 0, 32⟩
@[reducible] def F.INTC_PRIOk_LEVELS (k : Nat) : Fld := ⟨A.INTC_PRIOk k, 0, 32⟩
@[reducible] def F.INTC_MODg_RUNNING (g : Nat) : Fld := ⟨A.INTC_MODg g, 31, 1⟩
@[reducible] def F.INTC_MODg_MOD_US (g : Nat) : Fld := ⟨A.INTC_MODg g, 0, 16⟩
@[reducible] def F.INTC_CQ_CFG_ALERT : Fld := ⟨A.INTC_CQ_CFG, 5, 1⟩
@[reducible] def F.INTC_CQ_CFG_EN : Fld := ⟨A.INTC_CQ_CFG, 4, 1⟩
@[reducible] def F.INTC_CQ_CFG_PRIO : Fld := ⟨A.INTC_CQ_CFG, 0, 4⟩
@[reducible] def F.INTC_CQSTAT_NEXT_SEQ : Fld := ⟨A.INTC_CQSTAT, 16, 16⟩
@[reducible] def F.INTC_CQSTAT_DROPPED : Fld := ⟨A.INTC_CQSTAT, 8, 8⟩
@[reducible] def F.INTC_CQSTAT_LEVEL : Fld := ⟨A.INTC_CQSTAT, 0, 7⟩
@[reducible] def F.INTC_POLEVENT_SRC : Fld := ⟨A.INTC_POLEVENT, 0, 12⟩
@[reducible] def F.INTC_CNTs_COUNT (s : Nat) : Fld := ⟨A.INTC_CNTs s, 0, 8⟩
@[reducible] def F.HBUS_CFG_ALERT_EN : Fld := ⟨A.HBUS_CFG, 9, 1⟩
@[reducible] def F.HBUS_CFG_PEC_REQ : Fld := ⟨A.HBUS_CFG, 8, 1⟩
@[reducible] def F.HBUS_CFG_ADDR : Fld := ⟨A.HBUS_CFG, 0, 7⟩
@[reducible] def F.HBUS_STAT_RESULT_SEQ : Fld := ⟨A.HBUS_STAT, 24, 8⟩
@[reducible] def F.HBUS_STAT_RESULT : Fld := ⟨A.HBUS_STAT, 16, 8⟩
@[reducible] def F.HBUS_STAT_WRITE_BUSY : Fld := ⟨A.HBUS_STAT, 15, 1⟩
@[reducible] def F.HBUS_STAT_STRAP : Fld := ⟨A.HBUS_STAT, 8, 4⟩
@[reducible] def F.HBUS_STAT_ADDR : Fld := ⟨A.HBUS_STAT, 0, 7⟩
@[reducible] def F.HBUS_PTR_VALUE : Fld := ⟨A.HBUS_PTR, 0, 32⟩
@[reducible] def F.HBUS_EVENT_G3 : Fld := ⟨A.HBUS_EVENT, 12, 4⟩
@[reducible] def F.HBUS_EVENT_G2 : Fld := ⟨A.HBUS_EVENT, 8, 4⟩
@[reducible] def F.HBUS_EVENT_G1 : Fld := ⟨A.HBUS_EVENT, 4, 4⟩
@[reducible] def F.HBUS_EVENT_G0 : Fld := ⟨A.HBUS_EVENT, 0, 4⟩
@[reducible] def F.HBUS_IRQEN_MASK : Fld := ⟨A.HBUS_IRQEN, 0, 16⟩
@[reducible] def F.HBUS_CNT_PROTO : Fld := ⟨A.HBUS_CNT, 24, 8⟩
@[reducible] def F.HBUS_CNT_PEC : Fld := ⟨A.HBUS_CNT, 16, 8⟩
@[reducible] def F.HBUS_CNT_TIMEOUT : Fld := ⟨A.HBUS_CNT, 8, 8⟩
@[reducible] def F.HBUS_CNT_BUSY : Fld := ⟨A.HBUS_CNT, 0, 8⟩
@[reducible] def F.HBUS_CNT2_UNKNOWN : Fld := ⟨A.HBUS_CNT2, 24, 8⟩
@[reducible] def F.HBUS_CNT2_LENGTH : Fld := ⟨A.HBUS_CNT2, 16, 8⟩
@[reducible] def F.HBUS_CNT2_ARA_LOST : Fld := ⟨A.HBUS_CNT2, 8, 8⟩
@[reducible] def F.HBUS_CNT2_NVM_FAIL : Fld := ⟨A.HBUS_CNT2, 0, 8⟩
@[reducible] def F.HBUS_NVM_CTRL_GO : Fld := ⟨A.HBUS_NVM_CTRL, 31, 1⟩
@[reducible] def F.HBUS_NVM_CTRL_LEN : Fld := ⟨A.HBUS_NVM_CTRL, 16, 9⟩
@[reducible] def F.HBUS_NVM_CTRL_FAST : Fld := ⟨A.HBUS_NVM_CTRL, 4, 1⟩
@[reducible] def F.HBUS_NVM_CTRL_TARGET : Fld := ⟨A.HBUS_NVM_CTRL, 3, 1⟩
@[reducible] def F.HBUS_NVM_CTRL_OP : Fld := ⟨A.HBUS_NVM_CTRL, 0, 2⟩
@[reducible] def F.HBUS_NVM_ADDR_VALUE : Fld := ⟨A.HBUS_NVM_ADDR, 0, 32⟩
@[reducible] def F.HBUS_NVM_STAT_BUSY : Fld := ⟨A.HBUS_NVM_STAT, 8, 1⟩
@[reducible] def F.HBUS_NVM_STAT_ERR : Fld := ⟨A.HBUS_NVM_STAT, 0, 8⟩
@[reducible] def F.HBUS_NVM_DATAk_BYTES (k : Nat) : Fld := ⟨A.HBUS_NVM_DATAk k, 0, 32⟩
@[reducible] def F.DSPX_STAT_FENCED : Fld := ⟨A.DSPX_STAT, 8, 4⟩
@[reducible] def F.DSPX_STAT_LA_ACTIVE : Fld := ⟨A.DSPX_STAT, 7, 1⟩
@[reducible] def F.DSPX_STAT_MODE : Fld := ⟨A.DSPX_STAT, 6, 1⟩
@[reducible] def F.DSPX_STAT_GRAPH : Fld := ⟨A.DSPX_STAT, 0, 3⟩
@[reducible] def F.DSPX_FRAMECNT_VALUE : Fld := ⟨A.DSPX_FRAMECNT, 0, 32⟩
@[reducible] def F.DSPX_EVENT_G7 : Fld := ⟨A.DSPX_EVENT, 28, 4⟩
@[reducible] def F.DSPX_EVENT_G6 : Fld := ⟨A.DSPX_EVENT, 24, 4⟩
@[reducible] def F.DSPX_EVENT_G5 : Fld := ⟨A.DSPX_EVENT, 20, 4⟩
@[reducible] def F.DSPX_EVENT_G4 : Fld := ⟨A.DSPX_EVENT, 16, 4⟩
@[reducible] def F.DSPX_EVENT_G3 : Fld := ⟨A.DSPX_EVENT, 12, 4⟩
@[reducible] def F.DSPX_EVENT_G2 : Fld := ⟨A.DSPX_EVENT, 8, 4⟩
@[reducible] def F.DSPX_EVENT_G1 : Fld := ⟨A.DSPX_EVENT, 4, 4⟩
@[reducible] def F.DSPX_EVENT_G0 : Fld := ⟨A.DSPX_EVENT, 0, 4⟩
@[reducible] def F.DSPX_IRQEN_MASK : Fld := ⟨A.DSPX_IRQEN, 0, 32⟩
@[reducible] def F.DSPX_LOADc_PEAK (c : Nat) : Fld := ⟨A.DSPX_LOADc c, 22, 10⟩
@[reducible] def F.DSPX_LOADc_LAST (c : Nat) : Fld := ⟨A.DSPX_LOADc c, 0, 20⟩
@[reducible] def F.DSPX_CNT_NONFINITE : Fld := ⟨A.DSPX_CNT, 24, 8⟩
@[reducible] def F.DSPX_CNT_CONCEALED : Fld := ⟨A.DSPX_CNT, 16, 8⟩
@[reducible] def F.DSPX_CNT_CFG_REFUSED : Fld := ⟨A.DSPX_CNT, 8, 8⟩
@[reducible] def F.DSPX_CNT_CTXFAULT : Fld := ⟨A.DSPX_CNT, 0, 8⟩
@[reducible] def F.DSPX_LA_STAT_LAST : Fld := ⟨A.DSPX_LA_STAT, 16, 16⟩
@[reducible] def F.DSPX_LA_STAT_MAX : Fld := ⟨A.DSPX_LA_STAT, 0, 16⟩
@[reducible] def F.DSPX_ZC_RAMP_LOG2 : Fld := ⟨A.DSPX_ZC, 8, 4⟩
@[reducible] def F.DSPX_ZC_TIMEOUT_MS : Fld := ⟨A.DSPX_ZC, 0, 8⟩
@[reducible] def F.DSPX_LOADTH_PERMILLE : Fld := ⟨A.DSPX_LOADTH, 0, 10⟩
@[reducible] def F.DSPX_PARAM_SEL_INSTANCE : Fld := ⟨A.DSPX_PARAM_SEL, 16, 16⟩
@[reducible] def F.DSPX_PARAM_SEL_INDEX : Fld := ⟨A.DSPX_PARAM_SEL, 0, 16⟩
@[reducible] def F.DSPX_PARAM_DATA_VALUE : Fld := ⟨A.DSPX_PARAM_DATA, 0, 32⟩
@[reducible] def F.DSPX_PARAM_STAT_FORMAT : Fld := ⟨A.DSPX_PARAM_STAT, 1, 3⟩
@[reducible] def F.DSPX_PARAM_STAT_VALID : Fld := ⟨A.DSPX_PARAM_STAT, 0, 1⟩
@[reducible] def F.DSPX_PLAYCMD_CMD : Fld := ⟨A.DSPX_PLAYCMD, 30, 2⟩
@[reducible] def F.DSPX_PLAYCMD_VOICE : Fld := ⟨A.DSPX_PLAYCMD, 24, 5⟩
@[reducible] def F.DSPX_PLAYCMD_SOUND : Fld := ⟨A.DSPX_PLAYCMD, 0, 16⟩
@[reducible] def F.DSPX_PLAYSTAT_BUSY : Fld := ⟨A.DSPX_PLAYSTAT, 0, 32⟩
@[reducible] def F.DSPX_PLAYERR_REFUSED : Fld := ⟨A.DSPX_PLAYERR, 8, 8⟩
@[reducible] def F.DSPX_PLAYERR_UNDERRUN : Fld := ⟨A.DSPX_PLAYERR, 0, 8⟩
@[reducible] def F.DSPX_GENg_CFG_TYPE (g : Nat) : Fld := ⟨A.DSPX_GENg_CFG g, 16, 2⟩
@[reducible] def F.DSPX_GENg_CFG_AMP (g : Nat) : Fld := ⟨A.DSPX_GENg_CFG g, 0, 16⟩
@[reducible] def F.DSPX_GENg_FREQ_HZ (g : Nat) : Fld := ⟨A.DSPX_GENg_FREQ g, 0, 32⟩
@[reducible] def F.DSPX_CTXn_CFG_CONTROL (n : Nat) : Fld := ⟨A.DSPX_CTXn_CFG n, 31, 1⟩
@[reducible] def F.DSPX_CTXn_CFG_RAMP_LOG2 (n : Nat) : Fld := ⟨A.DSPX_CTXn_CFG n, 27, 4⟩
@[reducible] def F.DSPX_CTXn_CFG_DIR (n : Nat) : Fld := ⟨A.DSPX_CTXn_CFG n, 24, 2⟩
@[reducible] def F.DSPX_CTXn_CFG_TERMINAL (n : Nat) : Fld := ⟨A.DSPX_CTXn_CFG n, 16, 8⟩
@[reducible] def F.DSPX_CTXn_CFG_KIND (n : Nat) : Fld := ⟨A.DSPX_CTXn_CFG n, 12, 4⟩
@[reducible] def F.DSPX_CTXn_CFG_INDEX (n : Nat) : Fld := ⟨A.DSPX_CTXn_CFG n, 6, 6⟩
@[reducible] def F.DSPX_CTXn_CFG_MUTE (n : Nat) : Fld := ⟨A.DSPX_CTXn_CFG n, 1, 1⟩
@[reducible] def F.DSPX_CTXn_LEVEL_TARGET (n : Nat) : Fld := ⟨A.DSPX_CTXn_LEVEL n, 0, 32⟩
@[reducible] def F.DSPX_CTXn_STAT_STALE (n : Nat) : Fld := ⟨A.DSPX_CTXn_STAT n, 20, 1⟩
@[reducible] def F.DSPX_CTXn_STAT_STATE (n : Nat) : Fld := ⟨A.DSPX_CTXn_STAT n, 16, 3⟩
@[reducible] def F.DSPX_CTXn_STAT_SWITCH (n : Nat) : Fld := ⟨A.DSPX_CTXn_STAT n, 0, 16⟩
@[reducible] def F.DSPX_CTXn_SLIP_COUNT (n : Nat) : Fld := ⟨A.DSPX_CTXn_SLIP n, 0, 16⟩
@[reducible] def F.TRACE_CFGb_MODE (b : Nat) : Fld := ⟨A.TRACE_CFGb b, 31, 1⟩
@[reducible] def F.TRACE_CFGb_CHANNEL (b : Nat) : Fld := ⟨A.TRACE_CFGb b, 24, 4⟩
@[reducible] def F.TRACE_CFGb_NCOUNT (b : Nat) : Fld := ⟨A.TRACE_CFGb b, 20, 2⟩
@[reducible] def F.TRACE_CFGb_DEC_LOG2 (b : Nat) : Fld := ⟨A.TRACE_CFGb b, 16, 4⟩
@[reducible] def F.TRACE_CFGb_CROSS_BUF (b : Nat) : Fld := ⟨A.TRACE_CFGb b, 12, 2⟩
@[reducible] def F.TRACE_CFGb_TRIG_SRC (b : Nat) : Fld := ⟨A.TRACE_CFGb b, 8, 4⟩
@[reducible] def F.TRACE_CFGb_TRIG_NODE (b : Nat) : Fld := ⟨A.TRACE_CFGb b, 0, 5⟩
@[reducible] def F.TRACE_NODESb_NODE3 (b : Nat) : Fld := ⟨A.TRACE_NODESb b, 24, 5⟩
@[reducible] def F.TRACE_NODESb_NODE2 (b : Nat) : Fld := ⟨A.TRACE_NODESb b, 16, 5⟩
@[reducible] def F.TRACE_NODESb_NODE1 (b : Nat) : Fld := ⟨A.TRACE_NODESb b, 8, 5⟩
@[reducible] def F.TRACE_NODESb_NODE0 (b : Nat) : Fld := ⟨A.TRACE_NODESb b, 0, 5⟩
@[reducible] def F.TRACE_LEVELb_VALUE (b : Nat) : Fld := ⟨A.TRACE_LEVELb b, 0, 32⟩
@[reducible] def F.TRACE_DEPTHb_POST (b : Nat) : Fld := ⟨A.TRACE_DEPTHb b, 16, 14⟩
@[reducible] def F.TRACE_DEPTHb_PRE (b : Nat) : Fld := ⟨A.TRACE_DEPTHb b, 0, 14⟩
@[reducible] def F.TRACE_CTRLb_FORCE (b : Nat) : Fld := ⟨A.TRACE_CTRLb b, 2, 1⟩
@[reducible] def F.TRACE_CTRLb_STOP (b : Nat) : Fld := ⟨A.TRACE_CTRLb b, 1, 1⟩
@[reducible] def F.TRACE_CTRLb_ARM (b : Nat) : Fld := ⟨A.TRACE_CTRLb b, 0, 1⟩
@[reducible] def F.TRACE_STATb_TRIG_INDEX (b : Nat) : Fld := ⟨A.TRACE_STATb b, 16, 14⟩
@[reducible] def F.TRACE_STATb_TRIG_VALID (b : Nat) : Fld := ⟨A.TRACE_STATb b, 3, 1⟩
@[reducible] def F.TRACE_STATb_STATE (b : Nat) : Fld := ⟨A.TRACE_STATb b, 0, 3⟩
@[reducible] def F.TRACE_STAMPb_CS (b : Nat) : Fld := ⟨A.TRACE_STAMPb b, 0, 32⟩
@[reducible] def F.TRACE_LENb_WORDS (b : Nat) : Fld := ⟨A.TRACE_LENb b, 16, 15⟩
@[reducible] def F.TRACE_LENb_SAMPLES (b : Nat) : Fld := ⟨A.TRACE_LENb b, 0, 15⟩
@[reducible] def F.TRACE_EVENT_BUF : Fld := ⟨A.TRACE_EVENT, 0, 16⟩
@[reducible] def F.TRACE_IRQEN_MASK : Fld := ⟨A.TRACE_IRQEN, 0, 16⟩
@[reducible] def F.TRACE_WIN_HALF : Fld := ⟨A.TRACE_WIN, 4, 1⟩
@[reducible] def F.TRACE_WIN_BUF : Fld := ⟨A.TRACE_WIN, 0, 2⟩
@[reducible] def F.TRACE_ERR_EARLY_TRIG : Fld := ⟨A.TRACE_ERR, 24, 8⟩
@[reducible] def F.TRACE_ERR_READ_REFUSED : Fld := ⟨A.TRACE_ERR, 16, 8⟩
@[reducible] def F.TRACE_ERR_CFG_REFUSED : Fld := ⟨A.TRACE_ERR, 8, 8⟩
@[reducible] def F.TRACE_ERR_CRC : Fld := ⟨A.TRACE_ERR, 0, 8⟩
@[reducible] def F.TRACE_WINDOWw_DATA (w : Nat) : Fld := ⟨A.TRACE_WINDOWw w, 0, 32⟩
@[reducible] def F.SEC_LOCKSTAT_LOCKED : Fld := ⟨A.SEC_LOCKSTAT, 16, 1⟩
@[reducible] def F.SEC_LOCKSTAT_IGNORED : Fld := ⟨A.SEC_LOCKSTAT, 0, 16⟩
@[reducible] def F.SEC_DBGSTAT_METHOD : Fld := ⟨A.SEC_DBGSTAT, 6, 2⟩
@[reducible] def F.SEC_DBGSTAT_CR_EN : Fld := ⟨A.SEC_DBGSTAT, 5, 1⟩
@[reducible] def F.SEC_DBGSTAT_PW_EN : Fld := ⟨A.SEC_DBGSTAT, 4, 1⟩
@[reducible] def F.SEC_DBGSTAT_NONCE_VALID : Fld := ⟨A.SEC_DBGSTAT, 3, 1⟩
@[reducible] def F.SEC_DBGSTAT_OPEN : Fld := ⟨A.SEC_DBGSTAT, 2, 1⟩
@[reducible] def F.SEC_DBGSTAT_LIFECYCLE : Fld := ⟨A.SEC_DBGSTAT, 0, 2⟩
@[reducible] def F.SEC_ATTEMPT_PERMANENT : Fld := ⟨A.SEC_ATTEMPT, 31, 1⟩
@[reducible] def F.SEC_ATTEMPT_LOCKOUT_S : Fld := ⟨A.SEC_ATTEMPT, 16, 11⟩
@[reducible] def F.SEC_ATTEMPT_REFUSED : Fld := ⟨A.SEC_ATTEMPT, 8, 8⟩
@[reducible] def F.SEC_ATTEMPT_FAILS : Fld := ⟨A.SEC_ATTEMPT, 0, 6⟩
@[reducible] def F.SEC_CTRL_KEY : Fld := ⟨A.SEC_CTRL, 16, 16⟩
@[reducible] def F.SEC_CTRL_RELOCK : Fld := ⟨A.SEC_CTRL, 0, 1⟩
@[reducible] def F.SEC_SECVER_ACTIVE : Fld := ⟨A.SEC_SECVER, 8, 24⟩
@[reducible] def F.SEC_SECVER_BUSY : Fld := ⟨A.SEC_SECVER, 7, 1⟩
@[reducible] def F.SEC_SECVER_MIN : Fld := ⟨A.SEC_SECVER, 0, 7⟩
@[reducible] def F.SEC_SVCTRL_KEY : Fld := ⟨A.SEC_SVCTRL, 16, 16⟩
@[reducible] def F.SEC_SVCTRL_VALUE : Fld := ⟨A.SEC_SVCTRL, 0, 7⟩
@[reducible] def F.SEC_KEYHASHk_BYTES (k : Nat) : Fld := ⟨A.SEC_KEYHASHk k, 0, 32⟩
@[reducible] def F.SEC_EVENT_G3 : Fld := ⟨A.SEC_EVENT, 12, 4⟩
@[reducible] def F.SEC_EVENT_G2 : Fld := ⟨A.SEC_EVENT, 8, 4⟩
@[reducible] def F.SEC_EVENT_G1 : Fld := ⟨A.SEC_EVENT, 4, 4⟩
@[reducible] def F.SEC_EVENT_G0 : Fld := ⟨A.SEC_EVENT, 0, 4⟩
@[reducible] def F.SEC_IRQEN_MASK : Fld := ⟨A.SEC_IRQEN, 0, 16⟩
@[reducible] def F.SEC_CNT_RELOCK_REFUSED : Fld := ⟨A.SEC_CNT, 8, 8⟩
@[reducible] def F.SEC_CNT_SV_REFUSED : Fld := ⟨A.SEC_CNT, 0, 8⟩

end Sys2Proof.Machine
end

