-- ==== Sys2Proof/Machine/RegTable.lean ====
section
/-!
DEFINITION. Machine/RegTable.lean: every register table of the spec as data: where each register stands, its fields,
their access types (R5) and their reset values (R11), block by block. Written out from the register tables of spec/.
-/

namespace Sys2Proof.Machine

/-- The register tables of block SYS, part 1. -/
def regsSys1 : List RegGroup := [
  -- SYS_IDENT
  ⟨0x10000, [],
    [⟨16, 16, .ro, 0x1648, false⟩,
     ⟨12, 4, .ro, 0xB, false⟩,
     ⟨8, 4, .ro, 0, false⟩,
     ⟨4, 4, .ro, 1, false⟩]⟩,
  -- SYS_UID_LO
  ⟨0x10004, [],
    [⟨0, 32, .ro, 0, false⟩]⟩,
  -- SYS_UID_HI
  ⟨0x10008, [],
    [⟨0, 32, .ro, 0, false⟩]⟩,
  -- SYS_RSTCAUSE
  ⟨0x10010, [],
    [⟨6, 1, .w1c, 0, false⟩,
     ⟨5, 1, .w1c, 0, false⟩,
     ⟨4, 1, .w1c, 0, false⟩,
     ⟨3, 1, .w1c, 0, false⟩,
     ⟨2, 1, .w1c, 0, false⟩,
     ⟨0, 1, .w1c, 1, false⟩]⟩,
  -- SYS_RSTCTRL
  ⟨0x10014, [],
    [⟨16, 16, .wo, 0, false⟩,
     ⟨0, 1, .wo, 0, false⟩]⟩,
  -- SYS_BLKRST
  ⟨0x10018, [],
    [⟨7, 1, .w1s, 0, false⟩,
     ⟨6, 1, .w1s, 0, false⟩,
     ⟨2, 4, .w1s, 0, false⟩,
     ⟨1, 1, .w1s, 0, false⟩,
     ⟨0, 1, .w1s, 0, false⟩]⟩,
  -- SYS_CLKSTAT
  ⟨0x10020, [],
    [⟨8, 3, .ro, 0, false⟩,
     ⟨4, 1, .ro, 0, false⟩,
     ⟨3, 1, .ro, 0, false⟩,
     ⟨2, 1, .ro, 0, false⟩,
     ⟨1, 1, .ro, 0, false⟩,
     ⟨0, 1, .ro, 0, false⟩]⟩,
  -- SYS_PLLA_CFG
  ⟨0x10024, [],
    [⟨2, 1, .rwb, 0, false⟩,
     ⟨0, 2, .rwb, 0, false⟩]⟩,
  -- SYS_TSRC
  ⟨0x10028, [],
    [⟨4, 2, .rwb, 1, false⟩,
     ⟨0, 3, .rwb, 5, false⟩]⟩,
  -- SYS_XING_ERR
  ⟨0x1002C, [],
    [⟨24, 8, .rc, 0, false⟩,
     ⟨16, 8, .rc, 0, false⟩,
     ⟨8, 8, .rc, 0, false⟩,
     ⟨0, 8, .rc, 0, false⟩]⟩]

/-- All the register tables of block SYS. -/
def regsSys : List RegGroup := regsSys1

/-- The register tables of block PMU, part 1. -/
def regsPmu1 : List RegGroup := [
  -- PMU_SEQSTAT
  ⟨0x20000, [],
    [⟨25, 3, .ro, 7, false⟩,
     ⟨16, 9, .ro, 0, false⟩,
     ⟨12, 3, .ro, 0, false⟩,
     ⟨8, 1, .ro, 0, false⟩,
     ⟨5, 1, .ro, 0, false⟩,
     ⟨4, 1, .ro, 0, false⟩,
     ⟨0, 3, .ro, 0, false⟩]⟩,
  -- PMU_RAILSTAT
  ⟨0x20004, [],
    [⟨16, 9, .ro, 0, false⟩,
     ⟨0, 9, .ro, 0, false⟩]⟩,
  -- PMU_RAILCTRL
  ⟨0x20008, [],
    [⟨8, 1, .rw, 0, false⟩,
     ⟨6, 1, .rw, 0, false⟩,
     ⟨5, 1, .rw, 0, false⟩]⟩,
  -- PMU_PVDD_RANGE
  ⟨0x20010, [],
    [⟨16, 16, .rwb, 0xD000, false⟩,
     ⟨0, 16, .rwb, 0x3800, false⟩]⟩,
  -- PMU_PVDD_STATIC
  ⟨0x20014, [],
    [⟨24, 5, .rwb, 0xA, false⟩,
     ⟨0, 16, .rwb, 0x3800, false⟩]⟩,
  -- PMU_PVDD_SLEW
  ⟨0x20018, [],
    [⟨16, 16, .rwb, 0xA00, false⟩,
     ⟨0, 16, .rwb, 0x2800, false⟩]⟩,
  -- PMU_PVDD_CFG
  ⟨0x2001C, [],
    [⟨24, 1, .rwb, 1, false⟩,
     ⟨16, 8, .rwb, 8, false⟩,
     ⟨8, 8, .rwb, 0x18, false⟩,
     ⟨0, 2, .rwb, 2, false⟩]⟩,
  -- PMU_ILIM
  ⟨0x20020, [],
    [⟨16, 6, .rwb, 0xA, false⟩,
     ⟨0, 9, .rwb, 0x14, false⟩]⟩,
  -- PMU_PVDD_STAT
  ⟨0x20024, [],
    [⟨16, 16, .ro, 0, false⟩,
     ⟨0, 16, .ro, 0, false⟩]⟩,
  -- PMU_PVDD_STAT2
  ⟨0x20028, [],
    [⟨24, 8, .ro, 0, false⟩,
     ⟨8, 4, .ro, 0, false⟩,
     ⟨4, 1, .ro, 0, false⟩,
     ⟨3, 1, .ro, 0, false⟩,
     ⟨0, 3, .ro, 0, false⟩]⟩,
  -- PMU_HOLD_CFG
  ⟨0x20030, [],
    [⟨24, 8, .rwb, 0, false⟩,
     ⟨16, 8, .rwb, 0, false⟩,
     ⟨8, 8, .rwb, 0, false⟩,
     ⟨0, 8, .rwb, 0, false⟩]⟩,
  -- PMU_HOLD_CFG2
  ⟨0x20034, [],
    [⟨16, 5, .rwb, 0, false⟩,
     ⟨0, 8, .rwb, 0, false⟩]⟩]

/-- The register tables of block PMU, part 2. -/
def regsPmu2 : List RegGroup := [
  -- PMU_HOLD_STAT
  ⟨0x20038, [],
    [⟨16, 16, .ro, 0, false⟩,
     ⟨4, 12, .ro, 0, false⟩,
     ⟨0, 3, .ro, 0, false⟩]⟩,
  -- PMU_MICB_CFG
  ⟨0x20040, [],
    [⟨8, 7, .rw, 0x21, false⟩,
     ⟨0, 7, .rw, 0x21, false⟩]⟩,
  -- PMU_VMEAS
  ⟨0x20044, [],
    [⟨16, 16, .ro, 0, false⟩,
     ⟨0, 16, .ro, 0, false⟩]⟩,
  -- PMU_SUPSTAT
  ⟨0x20048, [],
    [⟨16, 9, .ro, 0, false⟩,
     ⟨0, 9, .ro, 0, false⟩]⟩,
  -- PMU_EVENT
  ⟨0x20050, [],
    [⟨28, 4, .w1c, 0, false⟩,
     ⟨24, 4, .w1c, 0, false⟩,
     ⟨20, 4, .w1c, 0, false⟩,
     ⟨16, 4, .w1c, 0, false⟩,
     ⟨12, 4, .w1c, 0, false⟩,
     ⟨8, 4, .w1c, 0, false⟩,
     ⟨4, 4, .w1c, 0, false⟩,
     ⟨0, 4, .w1c, 0, false⟩]⟩,
  -- PMU_IRQEN
  ⟨0x20054, [],
    [⟨0, 32, .rw, 0, false⟩]⟩,
  -- PMU_CNT
  ⟨0x20058, [],
    [⟨24, 8, .rc, 0, false⟩,
     ⟨16, 8, .rc, 0, false⟩,
     ⟨8, 8, .rc, 0, false⟩,
     ⟨0, 8, .rc, 0, false⟩]⟩,
  -- PMU_CNT2
  ⟨0x2005C, [],
    [⟨8, 8, .rc, 0, false⟩,
     ⟨0, 8, .rc, 0, false⟩]⟩,
  -- PMU_STBYCTRL
  ⟨0x20060, [],
    [⟨16, 16, .wo, 0, false⟩,
     ⟨0, 1, .wo, 0, false⟩]⟩,
  -- PMU_WAKECFG
  ⟨0x20064, [],
    [⟨16, 8, .rw, 0, false⟩,
     ⟨8, 8, .rw, 0xA, false⟩,
     ⟨2, 1, .rw, 1, false⟩,
     ⟨1, 1, .rw, 1, false⟩,
     ⟨0, 1, .rw, 1, false⟩]⟩]

/-- All the register tables of block PMU. -/
def regsPmu : List RegGroup := regsPmu1 ++ regsPmu2

/-- The register tables of block GOV, part 1. -/
def regsGov1 : List RegGroup := [
  -- GOV_LIMIT
  ⟨0x28000, [],
    [⟨0, 16, .rw, 0x80, false⟩]⟩,
  -- GOV_LIMIT_MAX
  ⟨0x28004, [],
    [⟨16, 16, .ro, 0, false⟩,
     ⟨0, 16, .rwb, 0x80, false⟩]⟩,
  -- GOV_CAP
  ⟨0x28008, [],
    [⟨16, 16, .rwb, 0x1B8, false⟩,
     ⟨0, 16, .rwb, 0, false⟩]⟩,
  -- GOV_DISR
  ⟨0x2800C, [],
    [⟨16, 16, .rwb, 0x64, false⟩,
     ⟨0, 16, .rwb, 0x64, false⟩]⟩,
  -- GOV_STATUS
  ⟨0x28010, [],
    [⟨4, 1, .ro, 0, false⟩,
     ⟨3, 1, .ro, 0, false⟩,
     ⟨2, 1, .ro, 0, false⟩,
     ⟨1, 1, .ro, 0, false⟩,
     ⟨0, 1, .ro, 0, false⟩]⟩,
  -- GOV_ENERGY
  ⟨0x28014, [],
    [⟨16, 16, .ro, 0, false⟩,
     ⟨0, 16, .ro, 0, false⟩]⟩,
  -- GOV_CAPS
  ⟨0x28018, [],
    [⟨16, 16, .ro, 0, false⟩,
     ⟨0, 16, .ro, 0, false⟩]⟩,
  -- GOV_BUDGET
  ⟨0x2801C, [],
    [⟨16, 2, .ro, 0, false⟩,
     ⟨0, 16, .ro, 0, false⟩]⟩,
  -- GOV_CTRL
  ⟨0x28020, [],
    [⟨16, 16, .wo, 0, false⟩,
     ⟨0, 1, .wo, 0, false⟩]⟩,
  -- GOV_EVENT
  ⟨0x28024, [],
    [⟨12, 4, .w1c, 0, false⟩,
     ⟨8, 4, .w1c, 0, false⟩,
     ⟨4, 4, .w1c, 0, false⟩,
     ⟨0, 4, .w1c, 0, false⟩]⟩,
  -- GOV_IRQEN
  ⟨0x28028, [],
    [⟨0, 16, .rw, 0, false⟩]⟩,
  -- GOV_CNT
  ⟨0x2802C, [],
    [⟨24, 8, .rc, 0, false⟩,
     ⟨16, 8, .rc, 0, false⟩,
     ⟨8, 8, .rc, 0, false⟩,
     ⟨0, 8, .rc, 0, false⟩]⟩]

/-- The register tables of block GOV, part 2. -/
def regsGov2 : List RegGroup := [
  -- GOV_PDISS
  ⟨0x28030, [],
    [⟨16, 16, .ro, 0, false⟩,
     ⟨0, 16, .ro, 0, false⟩]⟩,
  -- GOV_LIMIT_CAUSEo
  ⟨0x28100, [(0x10, 16)],
    [⟨14, 2, .ro, 0, false⟩,
     ⟨13, 1, .ro, 0, false⟩,
     ⟨12, 1, .ro, 0, false⟩,
     ⟨10, 2, .ro, 0, false⟩,
     ⟨8, 2, .ro, 0, false⟩,
     ⟨0, 4, .ro, 0, false⟩]⟩,
  -- GOV_OUTo_POWER
  ⟨0x28104, [(0x10, 16)],
    [⟨16, 16, .ro, 0, false⟩,
     ⟨0, 16, .ro, 0, false⟩]⟩,
  -- GOV_OUTo_CNT
  ⟨0x28108, [(0x10, 16)],
    [⟨16, 16, .rc, 0, false⟩,
     ⟨0, 16, .rc, 0, false⟩]⟩]

/-- All the register tables of block GOV. -/
def regsGov : List RegGroup := regsGov1 ++ regsGov2

/-- The register tables of block HKADC, part 1. -/
def regsHkadc1 : List RegGroup := [
  -- HKADC_CTRL
  ⟨0x30000, [],
    [⟨8, 8, .wo, 0, false⟩,
     ⟨0, 1, .w1s, 0, false⟩]⟩,
  -- HKADC_STAT
  ⟨0x30004, [],
    [⟨24, 8, .ro, 0, false⟩,
     ⟨8, 2, .ro, 0, false⟩,
     ⟨7, 1, .ro, 0, false⟩,
     ⟨6, 1, .ro, 0, false⟩,
     ⟨5, 1, .ro, 0, false⟩,
     ⟨4, 1, .ro, 0, false⟩,
     ⟨3, 1, .ro, 0, false⟩,
     ⟨2, 1, .ro, 0, false⟩,
     ⟨0, 1, .ro, 0, false⟩]⟩,
  -- HKADC_SHIM
  ⟨0x30008, [],
    [⟨16, 16, .ro, 0, false⟩,
     ⟨0, 16, .ro, 0, false⟩]⟩,
  -- HKADC_TIMER
  ⟨0x3000C, [],
    [⟨0, 16, .ro, 0, false⟩]⟩,
  -- HKADC_EVENT
  ⟨0x30010, [],
    [⟨12, 4, .w1c, 0, false⟩,
     ⟨8, 4, .w1c, 0, false⟩,
     ⟨4, 4, .w1c, 0, false⟩,
     ⟨0, 4, .w1c, 0, false⟩]⟩,
  -- HKADC_IRQEN
  ⟨0x30014, [],
    [⟨0, 16, .rw, 0, false⟩]⟩,
  -- HKADC_WINEVT0
  ⟨0x30018, [],
    [⟨0, 32, .w1c, 0, false⟩]⟩,
  -- HKADC_WINEVT1
  ⟨0x3001C, [],
    [⟨0, 32, .w1c, 0, false⟩]⟩,
  -- HKADC_WINEN0
  ⟨0x30020, [],
    [⟨0, 32, .rw, 0, false⟩]⟩,
  -- HKADC_WINEN1
  ⟨0x30024, [],
    [⟨0, 32, .rw, 0, false⟩]⟩,
  -- HKADC_CNT
  ⟨0x30028, [],
    [⟨16, 16, .rc, 0, false⟩,
     ⟨8, 8, .rc, 0, false⟩,
     ⟨0, 8, .rc, 0, false⟩]⟩,
  -- HKADC_CNT2
  ⟨0x3002C, [],
    [⟨16, 8, .rc, 0, false⟩,
     ⟨8, 8, .rc, 0, false⟩,
     ⟨0, 8, .rc, 0, false⟩]⟩]

/-- The register tables of block HKADC, part 2. -/
def regsHkadc2 : List RegGroup := [
  -- HKADC_ENTk_CFG
  ⟨0x31000, [(0x20, 64)],
    [⟨31, 1, .ro, 0, false⟩,
     ⟨30, 1, .ro, 0, false⟩,
     ⟨24, 4, .ro, 0, false⟩,
     ⟨20, 4, .ro, 0, false⟩,
     ⟨16, 4, .ro, 0, false⟩,
     ⟨8, 8, .ro, 0, false⟩,
     ⟨0, 6, .ro, 0, false⟩]⟩,
  -- HKADC_ENTk_SEQ
  ⟨0x31004, [(0x20, 64)],
    [⟨8, 8, .ro, 0, false⟩,
     ⟨0, 8, .ro, 0, false⟩]⟩,
  -- HKADC_ENTk_WIN
  ⟨0x31008, [(0x20, 64)],
    [⟨16, 16, .rw, 0, false⟩,
     ⟨0, 16, .rw, 0, false⟩]⟩,
  -- HKADC_ENTk_RES
  ⟨0x3100C, [(0x20, 64)],
    [⟨31, 1, .ro, 0, false⟩,
     ⟨30, 1, .ro, 0, false⟩,
     ⟨29, 1, .ro, 0, false⟩,
     ⟨0, 16, .ro, 0, false⟩]⟩,
  -- HKADC_ENTk_MM
  ⟨0x31010, [(0x20, 64)],
    [⟨16, 12, .rc, 0, false⟩,
     ⟨0, 12, .rc, 0xFFF, false⟩]⟩]

/-- All the register tables of block HKADC. -/
def regsHkadc : List RegGroup := regsHkadc1 ++ regsHkadc2

/-- The register tables of block SENSE, part 1. -/
def regsSense1 : List RegGroup := [
  -- SENSE_CTRL
  ⟨0x40000, [],
    [⟨16, 1, .rw, 0, false⟩,
     ⟨0, 16, .w1s, 0, false⟩]⟩,
  -- SENSE_STAT
  ⟨0x40004, [],
    [⟨1, 1, .ro, 0, false⟩,
     ⟨0, 1, .ro, 0, false⟩]⟩,
  -- SENSE_EVENT
  ⟨0x40008, [],
    [⟨6, 1, .w1c, 0, false⟩,
     ⟨5, 1, .w1c, 0, false⟩,
     ⟨4, 1, .w1c, 0, false⟩,
     ⟨3, 1, .w1c, 0, false⟩,
     ⟨2, 1, .w1c, 0, false⟩,
     ⟨1, 1, .w1c, 0, false⟩,
     ⟨0, 1, .w1c, 0, false⟩]⟩,
  -- SENSE_CNT
  ⟨0x4000C, [],
    [⟨0, 8, .rc, 0, false⟩]⟩,
  -- SENSE_OVR_LIM
  ⟨0x40010, [],
    [⟨0, 16, .rw, 0x40, false⟩]⟩,
  -- SENSE_INk_OFS
  ⟨0x41000, [(0x20, 32)],
    [⟨16, 16, .ro, 0, false⟩,
     ⟨0, 16, .ro, 0, false⟩]⟩,
  -- SENSE_INk_GAIN
  ⟨0x41004, [(0x20, 32)],
    [⟨16, 16, .ro, 0, false⟩,
     ⟨0, 16, .ro, 0, false⟩]⟩,
  -- SENSE_INk_SKEW
  ⟨0x41008, [(0x20, 32)],
    [⟨0, 9, .ro, 0, false⟩]⟩,
  -- SENSE_INk_STAT
  ⟨0x4100C, [(0x20, 32)],
    [⟨7, 1, .ro, 0, false⟩,
     ⟨4, 3, .ro, 0, false⟩,
     ⟨0, 3, .ro, 0, false⟩]⟩,
  -- SENSE_INk_CNT
  ⟨0x41010, [(0x20, 32)],
    [⟨16, 8, .rc, 0, false⟩,
     ⟨0, 16, .rc, 0, false⟩]⟩,
  -- SENSE_INk_PEAK
  ⟨0x41014, [(0x20, 32)],
    [⟨0, 16, .rc, 0, false⟩]⟩]

/-- All the register tables of block SENSE. -/
def regsSense : List RegGroup := regsSense1

/-- The register tables of block DECIM, part 1. -/
def regsDecim1 : List RegGroup := [
  -- DECIM_CFG
  ⟨0x50000, [],
    [⟨16, 4, .rwb, 3, false⟩,
     ⟨8, 7, .rwb, 0x10, false⟩,
     ⟨0, 3, .rwb, 4, false⟩]⟩,
  -- DECIM_DELAY
  ⟨0x50004, [],
    [⟨0, 32, .ro, 0, false⟩]⟩,
  -- DECIM_RATIO
  ⟨0x50008, [],
    [⟨0, 32, .ro, 0, false⟩]⟩,
  -- DECIM_TRK
  ⟨0x5000C, [],
    [⟨0, 2, .rw, 1, false⟩]⟩,
  -- DECIM_TRKSTAT
  ⟨0x50010, [],
    [⟨3, 1, .ro, 0, false⟩,
     ⟨0, 2, .ro, 0, false⟩]⟩,
  -- DECIM_PHERR
  ⟨0x50014, [],
    [⟨16, 16, .rc, 0, false⟩,
     ⟨0, 16, .ro, 0, false⟩]⟩,
  -- DECIM_SYNC
  ⟨0x50018, [],
    [⟨0, 1, .rw, 0, false⟩]⟩,
  -- DECIM_SYNCSTAT
  ⟨0x5001C, [],
    [⟨0, 32, .ro, 0, false⟩]⟩,
  -- DECIM_EVENT
  ⟨0x50020, [],
    [⟨21, 1, .w1c, 0, false⟩,
     ⟨20, 1, .w1c, 0, false⟩,
     ⟨19, 1, .w1c, 0, false⟩,
     ⟨18, 1, .w1c, 0, false⟩,
     ⟨17, 1, .w1c, 0, false⟩,
     ⟨16, 1, .w1c, 0, false⟩,
     ⟨0, 16, .w1c, 0, false⟩]⟩,
  -- DECIM_IRQEN
  ⟨0x50024, [],
    [⟨0, 16, .rw, 0, false⟩]⟩,
  -- DECIM_CNT
  ⟨0x50028, [],
    [⟨8, 8, .rc, 0, false⟩,
     ⟨0, 8, .rc, 0, false⟩]⟩,
  -- DECIM_PATHk_CFG
  ⟨0x51000, [(0x10, 32)],
    [⟨31, 1, .ro, 1, false⟩,
     ⟨16, 4, .ro, 3, false⟩,
     ⟨0, 5, .ro, 0, true⟩]⟩]

/-- The register tables of block DECIM, part 2. -/
def regsDecim2 : List RegGroup := [
  -- DECIM_PATHk_CFG
  ⟨0x51200, [(0x10, 4)],
    [⟨31, 1, .rw, 0, false⟩,
     ⟨16, 4, .rw, 3, false⟩,
     ⟨0, 5, .rw, 0, false⟩]⟩,
  -- DECIM_PATHk_STAT
  ⟨0x51004, [(0x10, 36)],
    [⟨16, 1, .ro, 0, false⟩,
     ⟨8, 6, .ro, 0, false⟩,
     ⟨0, 2, .ro, 0, false⟩]⟩,
  -- DECIM_PATHk_VAL
  ⟨0x51008, [(0x10, 36)],
    [⟨0, 32, .ro, 0, false⟩]⟩,
  -- DECIM_PATHk_CNT
  ⟨0x5100C, [(0x10, 36)],
    [⟨16, 16, .rc, 0, false⟩,
     ⟨0, 16, .rc, 0, false⟩]⟩,
  -- DECIM_THRu_CFG
  ⟨0x50200, [(0x10, 16)],
    [⟨31, 1, .rw, 0, false⟩,
     ⟨30, 1, .rw, 0, false⟩,
     ⟨29, 1, .rw, 0, false⟩,
     ⟨24, 4, .rw, 8, false⟩,
     ⟨16, 8, .rw, 1, false⟩,
     ⟨12, 2, .rw, 0, false⟩,
     ⟨8, 2, .rw, 0, false⟩,
     ⟨0, 6, .rw, 0, false⟩]⟩,
  -- DECIM_THRu_HI
  ⟨0x50204, [(0x10, 16)],
    [⟨0, 32, .rw, 0x7FFFFFFF, false⟩]⟩,
  -- DECIM_THRu_LO
  ⟨0x50208, [(0x10, 16)],
    [⟨0, 32, .rw, 0x80000000, false⟩]⟩,
  -- DECIM_THRu_STAT
  ⟨0x5020C, [(0x10, 16)],
    [⟨31, 1, .ro, 0, false⟩,
     ⟨8, 8, .ro, 0, false⟩,
     ⟨0, 8, .rc, 0, false⟩]⟩]

/-- All the register tables of block DECIM. -/
def regsDecim : List RegGroup := regsDecim1 ++ regsDecim2

/-- The register tables of block LOOP, part 1. -/
def regsLoop1 : List RegGroup := [
  -- LOOP_PVDDSTAT
  ⟨0x60000, [],
    [⟨0, 16, .rwb, 0x3800, false⟩]⟩,
  -- LOOP_BANKSEL
  ⟨0x60004, [],
    [⟨0, 4, .rws, 0, false⟩]⟩,
  -- LOOP_BANKACT
  ⟨0x60008, [],
    [⟨0, 16, .ro, 0, false⟩]⟩,
  -- LOOP_SWAPSTAMP
  ⟨0x6000C, [],
    [⟨0, 32, .ro, 0, false⟩]⟩,
  -- LOOP_CSCNT
  ⟨0x60010, [],
    [⟨0, 32, .ro, 0, false⟩]⟩,
  -- LOOP_EVENT
  ⟨0x60014, [],
    [⟨28, 4, .w1c, 0, false⟩,
     ⟨24, 4, .w1c, 0, false⟩,
     ⟨20, 4, .w1c, 0, false⟩,
     ⟨16, 4, .w1c, 0, false⟩,
     ⟨12, 4, .w1c, 0, false⟩,
     ⟨8, 4, .w1c, 0, false⟩,
     ⟨4, 4, .w1c, 0, false⟩,
     ⟨0, 4, .w1c, 0, false⟩]⟩,
  -- LOOP_IRQEN
  ⟨0x60018, [],
    [⟨0, 32, .rw, 0, false⟩]⟩,
  -- LOOP_RESCNT
  ⟨0x6001C, [],
    [⟨0, 32, .rc, 0, false⟩]⟩,
  -- LOOP_UNRECCNT
  ⟨0x60020, [],
    [⟨0, 32, .rc, 0, false⟩]⟩,
  -- LOOP_CMDCNT
  ⟨0x60024, [],
    [⟨8, 8, .rc, 0, false⟩,
     ⟨0, 8, .rc, 0, false⟩]⟩,
  -- LOOP_CHc_CFG
  ⟨0x61000, [(0x40, 16)],
    [⟨16, 16, .rw, 0, false⟩,
     ⟨8, 5, .rw, 0, false⟩,
     ⟨4, 2, .rw, 0, false⟩,
     ⟨3, 1, .rw, 0, false⟩,
     ⟨2, 1, .rw, 0, false⟩,
     ⟨1, 1, .rw, 0, false⟩,
     ⟨0, 1, .rw, 0, false⟩]⟩,
  -- LOOP_CHc_STAT
  ⟨0x61004, [(0x40, 16)],
    [⟨14, 18, .ro, 0, false⟩,
     ⟨4, 1, .ro, 0, false⟩,
     ⟨3, 1, .ro, 0, false⟩,
     ⟨0, 3, .ro, 0, false⟩]⟩]

/-- The register tables of block LOOP, part 2. -/
def regsLoop2 : List RegGroup := [
  -- LOOP_CHc_STICKY
  ⟨0x61008, [(0x40, 16)],
    [⟨16, 4, .ro, 0, false⟩,
     ⟨0, 12, .w1c, 0, false⟩]⟩,
  -- LOOP_CHc_SATCNT
  ⟨0x6100C, [(0x40, 16)],
    [⟨16, 16, .rc, 0, false⟩,
     ⟨8, 8, .rc, 0, false⟩,
     ⟨0, 8, .rc, 0, false⟩]⟩,
  -- LOOP_CHc_ERRPK
  ⟨0x61010, [(0x40, 16)],
    [⟨0, 32, .rc, 0, false⟩]⟩,
  -- LOOP_CHc_REFDLY
  ⟨0x61014, [(0x40, 16)],
    [⟨16, 16, .ro, 0, false⟩,
     ⟨0, 16, .ro, 0, false⟩]⟩,
  -- LOOP_CHc_SCALE
  ⟨0x61018, [(0x40, 16)],
    [⟨0, 32, .ro, 0, false⟩]⟩,
  -- LOOP_CHc_BANKb_Wk
  ⟨0x64000, [(0x80, 16), (0x40, 2), (4, 16)],
    [⟨0, 32, .rw, 0, false⟩]⟩,
  -- LOOP_CHc_FBk
  ⟨0x66000, [(0x200, 16), (8, 64)],
    [⟨0, 32, .rw, 0, false⟩]⟩,
  -- LOOP_CHc_FBk_SLOPE
  ⟨0x66004, [(0x200, 16), (8, 64)],
    [⟨0, 32, .rw, 0, false⟩]⟩,
  -- LOOP_RC_SRC
  ⟨0x68000, [],
    [⟨16, 8, .rw, 8, false⟩,
     ⟨8, 4, .rw, 0, false⟩,
     ⟨4, 2, .rw, 1, false⟩,
     ⟨0, 1, .rw, 0, false⟩]⟩,
  -- LOOP_RC_PERIODs
  ⟨0x68010, [(4, 3)],
    [⟨0, 32, .ro, 0, false⟩]⟩,
  -- LOOP_RC_TRKSTAT
  ⟨0x6801C, [],
    [⟨4, 3, .ro, 0, false⟩,
     ⟨0, 3, .ro, 0, false⟩]⟩,
  -- LOOP_RC_EST
  ⟨0x68020, [],
    [⟨31, 1, .rw, 0, false⟩,
     ⟨0, 5, .rw, 0, false⟩]⟩]

/-- The register tables of block LOOP, part 3. -/
def regsLoop3 : List RegGroup := [
  -- LOOP_RC_EST_BAND
  ⟨0x68024, [],
    [⟨16, 16, .rw, 0x2EE, false⟩,
     ⟨0, 16, .rw, 0x28, false⟩]⟩,
  -- LOOP_RC_TBLSEL
  ⟨0x68040, [],
    [⟨0, 4, .rw, 0, false⟩]⟩,
  -- LOOP_RC_CNT
  ⟨0x68044, [],
    [⟨24, 8, .rc, 0, false⟩,
     ⟨16, 8, .rc, 0, false⟩,
     ⟨8, 8, .rc, 0, false⟩,
     ⟨0, 8, .rc, 0, false⟩]⟩,
  -- LOOP_RC_CHc_CFG
  ⟨0x68100, [(0x20, 16)],
    [⟨16, 16, .rw, 0x200, false⟩,
     ⟨8, 6, .rw, 0, false⟩,
     ⟨1, 2, .rw, 0, false⟩,
     ⟨0, 1, .rw, 0, false⟩]⟩,
  -- LOOP_RC_CHc_GAIN
  ⟨0x68104, [(0x20, 16)],
    [⟨24, 4, .rws, 0, false⟩,
     ⟨16, 8, .rws, 0, false⟩,
     ⟨0, 16, .rws, 0, false⟩]⟩,
  -- LOOP_RC_CHc_CONV
  ⟨0x68108, [(0x20, 16)],
    [⟨24, 8, .rws, 0x40, false⟩,
     ⟨16, 8, .rws, 0x29, false⟩,
     ⟨0, 16, .rws, 0x42, false⟩]⟩,
  -- LOOP_RC_CHc_CTRL
  ⟨0x6810C, [(0x20, 16)],
    [⟨1, 1, .rw, 0, false⟩,
     ⟨0, 1, .wo, 0, false⟩]⟩,
  -- LOOP_RC_CHc_STAT
  ⟨0x68110, [(0x20, 16)],
    [⟨19, 1, .ro, 0, false⟩,
     ⟨16, 3, .ro, 0, false⟩,
     ⟨0, 13, .ro, 0, false⟩]⟩,
  -- LOOP_RC_CHc_RESID
  ⟨0x68114, [(0x20, 16)],
    [⟨16, 16, .ro, 0, false⟩,
     ⟨0, 16, .rc, 0, false⟩]⟩,
  -- LOOP_RC_TBLk
  ⟨0x6C000, [(4, 4096)],
    [⟨0, 32, .rw, 0, false⟩]⟩]

/-- All the register tables of block LOOP. -/
def regsLoop : List RegGroup := regsLoop1 ++ regsLoop2 ++ regsLoop3

/-- The register tables of block MOD, part 1. -/
def regsMod1 : List RegGroup := [
  -- MOD_DIEd_CFG
  ⟨0x70000, [(0x10, 2)],
    [⟨16, 16, .rwb, 0xF333, false⟩,
     ⟨10, 6, .rwb, 0xC, false⟩,
     ⟨8, 2, .rwb, 2, false⟩,
     ⟨5, 2, .rwb, 1, false⟩,
     ⟨4, 1, .rwb, 1, false⟩,
     ⟨0, 3, .rwb, 1, false⟩]⟩,
  -- MOD_DIEd_SHED
  ⟨0x70004, [(0x10, 2)],
    [⟨31, 1, .rw, 1, false⟩,
     ⟨24, 4, .rw, 0xA, false⟩,
     ⟨16, 8, .rw, 0x14, false⟩,
     ⟨8, 4, .rw, 2, false⟩,
     ⟨0, 8, .rw, 0x30, false⟩]⟩,
  -- MOD_DIEd_STAT
  ⟨0x70008, [(0x10, 2)],
    [⟨16, 11, .ro, 0, false⟩,
     ⟨8, 6, .ro, 6, false⟩,
     ⟨1, 1, .ro, 0, false⟩,
     ⟨0, 1, .ro, 0, false⟩]⟩,
  -- MOD_RAMP
  ⟨0x70020, [],
    [⟨0, 8, .rw, 2, false⟩]⟩,
  -- MOD_BIND
  ⟨0x70024, [],
    [⟨16, 8, .ro, 0, false⟩,
     ⟨8, 8, .ro, 0, false⟩,
     ⟨0, 8, .ro, 0, false⟩]⟩,
  -- MOD_PHASEc
  ⟨0x70040, [(4, 16)],
    [⟨16, 11, .ro, 0, false⟩,
     ⟨0, 11, .rwb, 0, false⟩]⟩,
  -- MOD_OUTo_CFG
  ⟨0x70100, [(0x20, 16)],
    [⟨24, 8, .rw, 0, false⟩,
     ⟨22, 2, .ro, 0, false⟩,
     ⟨16, 4, .rw, 0, false⟩,
     ⟨0, 16, .ro, 0, false⟩]⟩,
  -- MOD_OUTo_CTRL
  ⟨0x70104, [(0x20, 16)],
    [⟨8, 1, .wo, 0, false⟩,
     ⟨0, 2, .rw, 0, false⟩]⟩,
  -- MOD_OUTo_STAT
  ⟨0x70108, [(0x20, 16)],
    [⟨16, 16, .ro, 0, false⟩,
     ⟨11, 1, .ro, 0, false⟩,
     ⟨10, 1, .ro, 0, false⟩,
     ⟨9, 1, .ro, 0, false⟩,
     ⟨8, 1, .ro, 0, false⟩,
     ⟨4, 4, .ro, 0, false⟩,
     ⟨0, 4, .ro, 0, false⟩]⟩,
  -- MOD_OUTo_EVENT
  ⟨0x7010C, [(0x20, 16)],
    [⟨12, 1, .w1c, 0, false⟩,
     ⟨11, 1, .w1c, 0, false⟩,
     ⟨10, 1, .w1c, 0, false⟩,
     ⟨9, 1, .w1c, 0, false⟩,
     ⟨8, 1, .w1c, 0, false⟩,
     ⟨7, 1, .w1c, 0, false⟩,
     ⟨6, 1, .w1c, 0, false⟩,
     ⟨5, 1, .w1c, 0, false⟩,
     ⟨4, 1, .w1c, 0, false⟩,
     ⟨3, 1, .w1c, 0, false⟩,
     ⟨2, 1, .w1c, 0, false⟩,
     ⟨1, 1, .w1c, 0, false⟩,
     ⟨0, 1, .w1c, 0, false⟩]⟩,
  -- MOD_OUTo_IRQEN
  ⟨0x70110, [(0x20, 16)],
    [⟨0, 13, .rw, 0, false⟩]⟩,
  -- MOD_CHc_CFG
  ⟨0x70400, [(0x10, 16)],
    [⟨0, 5, .rw, 0x1C, false⟩]⟩]

/-- The register tables of block MOD, part 2. -/
def regsMod2 : List RegGroup := [
  -- MOD_CHc_STAT
  ⟨0x70404, [(0x10, 16)],
    [⟨28, 1, .ro, 0, false⟩,
     ⟨24, 3, .ro, 0, false⟩,
     ⟨16, 8, .ro, 0xFF, false⟩,
     ⟨8, 8, .ro, 0xFF, false⟩,
     ⟨4, 4, .ro, 0, false⟩,
     ⟨0, 4, .ro, 0, false⟩]⟩,
  -- MOD_CHc_CNT
  ⟨0x70408, [(0x10, 16)],
    [⟨16, 16, .rc, 0, false⟩,
     ⟨8, 8, .rc, 0, false⟩,
     ⟨0, 8, .rc, 0, false⟩]⟩]

/-- All the register tables of block MOD. -/
def regsMod : List RegGroup := regsMod1 ++ regsMod2

/-- The register tables of block GUARD, part 1. -/
def regsGuard1 : List RegGroup := [
  -- GUARD_RAISECNT
  ⟨0x80000, [],
    [⟨0, 8, .rc, 0, false⟩]⟩,
  -- GUARD_OUTo_VCLAMP
  ⟨0x80100, [(0x40, 16)],
    [⟨0, 16, .rw, 0xD000, false⟩]⟩,
  -- GUARD_OUTo_ICLAMP
  ⟨0x80104, [(0x40, 16)],
    [⟨0, 8, .rw, 0x87, false⟩]⟩,
  -- GUARD_OUTo_XCLAMP
  ⟨0x80108, [(0x40, 16)],
    [⟨16, 11, .rwb, 0x14, false⟩,
     ⟨0, 16, .rw, 0xF000, false⟩]⟩,
  -- GUARD_OUTo_ECLAMP
  ⟨0x8010C, [(0x40, 16)],
    [⟨16, 16, .rw, 0xFFFF, false⟩,
     ⟨0, 4, .rwb, 0xD, false⟩]⟩,
  -- GUARD_OUTo_CLSTAT
  ⟨0x80110, [(0x40, 16)],
    [⟨16, 16, .ro, 0x8000, false⟩,
     ⟨4, 1, .ro, 0, false⟩,
     ⟨3, 1, .ro, 0, false⟩,
     ⟨2, 1, .ro, 0, false⟩,
     ⟨1, 1, .ro, 0, false⟩,
     ⟨0, 1, .ro, 0, false⟩]⟩,
  -- GUARD_OUTo_MEAS
  ⟨0x80114, [(0x40, 16)],
    [⟨16, 16, .rc, 0, false⟩,
     ⟨0, 16, .ro, 0, false⟩]⟩,
  -- GUARD_OUTo_THERM
  ⟨0x80118, [(0x40, 16)],
    [⟨16, 16, .ro, 0, false⟩,
     ⟨0, 16, .ro, 0, false⟩]⟩,
  -- GUARD_OUTo_RE
  ⟨0x8011C, [(0x40, 16)],
    [⟨16, 16, .ro, 0, false⟩,
     ⟨0, 16, .ro, 0, false⟩]⟩,
  -- GUARD_OUTo_GAIN
  ⟨0x80120, [(0x40, 16)],
    [⟨16, 16, .ro, 0x8000, false⟩,
     ⟨0, 16, .ro, 0x8000, false⟩]⟩,
  -- GUARD_OUTo_XPRED
  ⟨0x80124, [(0x40, 16)],
    [⟨16, 16, .ro, 0, false⟩,
     ⟨0, 16, .rc, 0, false⟩]⟩,
  -- GUARD_OUTo_STAT
  ⟨0x80128, [(0x40, 16)],
    [⟨16, 16, .ro, 0, false⟩,
     ⟨5, 1, .ro, 0, false⟩,
     ⟨4, 1, .ro, 0, false⟩,
     ⟨3, 1, .ro, 0, false⟩,
     ⟨2, 1, .ro, 0, false⟩,
     ⟨1, 1, .ro, 0, false⟩,
     ⟨0, 1, .ro, 0, false⟩]⟩]

/-- The register tables of block GUARD, part 2. -/
def regsGuard2 : List RegGroup := [
  -- GUARD_OUTo_EVENT
  ⟨0x8012C, [(0x40, 16)],
    [⟨11, 1, .w1c, 0, false⟩,
     ⟨10, 1, .w1c, 0, false⟩,
     ⟨9, 1, .w1c, 0, false⟩,
     ⟨8, 1, .w1c, 0, false⟩,
     ⟨7, 1, .w1c, 0, false⟩,
     ⟨6, 1, .w1c, 0, false⟩,
     ⟨5, 1, .w1c, 0, false⟩,
     ⟨4, 1, .w1c, 0, false⟩,
     ⟨3, 1, .w1c, 0, false⟩,
     ⟨2, 1, .w1c, 0, false⟩,
     ⟨1, 1, .w1c, 0, false⟩,
     ⟨0, 1, .w1c, 0, false⟩]⟩,
  -- GUARD_OUTo_IRQEN
  ⟨0x80130, [(0x40, 16)],
    [⟨0, 12, .rw, 0, false⟩]⟩,
  -- GUARD_OUTo_CNT
  ⟨0x80134, [(0x40, 16)],
    [⟨24, 8, .rc, 0, false⟩,
     ⟨16, 8, .rc, 0, false⟩,
     ⟨8, 8, .rc, 0, false⟩,
     ⟨0, 8, .rc, 0, false⟩]⟩,
  -- GUARD_OUTo_DISCNT
  ⟨0x80138, [(0x40, 16)],
    [⟨0, 8, .rc, 0, false⟩]⟩]

/-- All the register tables of block GUARD. -/
def regsGuard : List RegGroup := regsGuard1 ++ regsGuard2

/-- The register tables of block DIAG, part 1. -/
def regsDiag1 : List RegGroup := [
  -- DIAG_CMD
  ⟨0x90000, [],
    [⟨30, 2, .wo, 0, false⟩,
     ⟨0, 16, .wo, 0, false⟩]⟩,
  -- DIAG_STAT
  ⟨0x90004, [],
    [⟨20, 4, .ro, 0, false⟩,
     ⟨16, 1, .ro, 0, false⟩,
     ⟨0, 16, .ro, 0, false⟩]⟩,
  -- DIAG_CFG
  ⟨0x90008, [],
    [⟨16, 2, .ro, 2, false⟩,
     ⟨0, 16, .ro, 0x2800, false⟩]⟩,
  -- DIAG_CNT
  ⟨0x9000C, [],
    [⟨8, 8, .rc, 0, false⟩,
     ⟨0, 8, .rc, 0, false⟩]⟩,
  -- DIAG_PAIR
  ⟨0x90010, [],
    [⟨0, 8, .ro, 0, false⟩]⟩,
  -- DIAG_STBY
  ⟨0x90014, [],
    [⟨0, 32, .ro, 0, false⟩]⟩,
  -- DIAG_SWSEL
  ⟨0x90018, [],
    [⟨0, 4, .rw, 0, false⟩]⟩,
  -- DIAG_CHc_DC
  ⟨0x90100, [(0x10, 16)],
    [⟨16, 16, .ro, 0xFFFF, false⟩,
     ⟨8, 4, .ro, 0, false⟩,
     ⟨6, 2, .ro, 0, false⟩,
     ⟨3, 1, .ro, 0, false⟩,
     ⟨2, 1, .ro, 0, false⟩,
     ⟨1, 1, .ro, 0, false⟩,
     ⟨0, 1, .ro, 0, false⟩]⟩,
  -- DIAG_CHc_AGE
  ⟨0x90104, [(0x10, 16)],
    [⟨0, 16, .ro, 0xFFFF, false⟩]⟩,
  -- DIAG_OUTo_AC
  ⟨0x90400, [(0x20, 16)],
    [⟨16, 16, .ro, 0, false⟩,
     ⟨6, 2, .ro, 0, false⟩,
     ⟨0, 3, .ro, 0, false⟩]⟩,
  -- DIAG_OUTo_ACF
  ⟨0x90404, [(0x20, 16)],
    [⟨16, 16, .ro, 0, false⟩,
     ⟨0, 16, .ro, 0, false⟩]⟩,
  -- DIAG_OUTo_TRK
  ⟨0x90408, [(0x20, 16)],
    [⟨24, 3, .ro, 0, false⟩,
     ⟨16, 8, .ro, 0, false⟩,
     ⟨8, 8, .ro, 0, false⟩,
     ⟨0, 8, .ro, 0, false⟩]⟩]

/-- The register tables of block DIAG, part 2. -/
def regsDiag2 : List RegGroup := [
  -- DIAG_OUTo_EVENT
  ⟨0x9040C, [(0x20, 16)],
    [⟨8, 1, .w1c, 0, false⟩,
     ⟨7, 1, .w1c, 0, false⟩,
     ⟨6, 1, .w1c, 0, false⟩,
     ⟨5, 1, .w1c, 0, false⟩,
     ⟨4, 1, .w1c, 0, false⟩,
     ⟨3, 1, .w1c, 0, false⟩,
     ⟨2, 1, .w1c, 0, false⟩,
     ⟨1, 1, .w1c, 0, false⟩,
     ⟨0, 1, .w1c, 0, false⟩]⟩,
  -- DIAG_OUTo_IRQEN
  ⟨0x90410, [(0x20, 16)],
    [⟨0, 9, .rw, 0, false⟩]⟩,
  -- DIAG_SWPk_F
  ⟨0x91000, [(8, 64)],
    [⟨0, 32, .ro, 0, false⟩]⟩,
  -- DIAG_SWPk_Z
  ⟨0x91004, [(8, 64)],
    [⟨16, 16, .ro, 0, false⟩,
     ⟨0, 16, .ro, 0, false⟩]⟩]

/-- All the register tables of block DIAG. -/
def regsDiag : List RegGroup := regsDiag1 ++ regsDiag2

/-- The register tables of block PORT, part 1. -/
def regsPort1 : List RegGroup := [
  -- PORTn_CFG
  ⟨0xA0000, [(0x1000, 4)],
    [⟨23, 1, .rw, 0, false⟩,
     ⟨22, 1, .rw, 0, false⟩,
     ⟨21, 1, .rw, 0, false⟩,
     ⟨20, 1, .rw, 0, false⟩,
     ⟨19, 1, .rw, 0, false⟩,
     ⟨17, 2, .rw, 1, false⟩,
     ⟨12, 4, .rw, 1, false⟩,
     ⟨10, 2, .rw, 2, false⟩,
     ⟨8, 1, .rw, 0, false⟩,
     ⟨5, 1, .rw, 0, false⟩,
     ⟨4, 1, .rw, 0, false⟩,
     ⟨0, 2, .rw, 0, false⟩]⟩,
  -- PORTn_CTRL
  ⟨0xA0004, [(0x1000, 4)],
    [⟨4, 1, .wo, 0, false⟩,
     ⟨3, 1, .wo, 0, false⟩,
     ⟨2, 1, .wo, 0, false⟩,
     ⟨1, 1, .wo, 0, false⟩,
     ⟨0, 1, .wo, 0, false⟩]⟩,
  -- PORTn_STAT
  ⟨0xA0008, [(0x1000, 4)],
    [⟨12, 1, .ro, 0, false⟩,
     ⟨11, 1, .ro, 0, false⟩,
     ⟨8, 3, .ro, 0, false⟩,
     ⟨7, 1, .ro, 0, false⟩,
     ⟨6, 1, .ro, 0, false⟩,
     ⟨5, 1, .ro, 0, false⟩,
     ⟨4, 1, .ro, 0, false⟩,
     ⟨3, 1, .ro, 0, false⟩,
     ⟨0, 3, .ro, 0, false⟩]⟩,
  -- PORTn_EVENT
  ⟨0xA000C, [(0x1000, 4)],
    [⟨12, 4, .w1c, 0, false⟩,
     ⟨8, 4, .w1c, 0, false⟩,
     ⟨4, 4, .w1c, 0, false⟩,
     ⟨0, 4, .w1c, 0, false⟩]⟩,
  -- PORTn_IRQEN
  ⟨0xA0010, [(0x1000, 4)],
    [⟨0, 16, .rw, 0, false⟩]⟩,
  -- PORTn_SLOTMASK
  ⟨0xA0014, [(0x1000, 4)],
    [⟨16, 16, .rws, 0, false⟩,
     ⟨0, 16, .rws, 0, false⟩]⟩,
  -- PORTn_SLOTMASK_ACT
  ⟨0xA0018, [(0x1000, 4)],
    [⟨16, 16, .ro, 0, false⟩,
     ⟨0, 16, .ro, 0, false⟩]⟩,
  -- PORTn_MASK_FRAME
  ⟨0xA001C, [(0x1000, 4)],
    [⟨0, 32, .ro, 0, false⟩]⟩,
  -- PORTn_FRAMECNT
  ⟨0xA0020, [(0x1000, 4)],
    [⟨0, 32, .ro, 0, false⟩]⟩,
  -- PORTn_ZC
  ⟨0xA0024, [(0x1000, 4)],
    [⟨8, 4, .rw, 6, false⟩,
     ⟨0, 8, .rw, 0x14, false⟩]⟩,
  -- PORTn_FILL
  ⟨0xA0028, [(0x1000, 4)],
    [⟨4, 4, .ro, 0, false⟩,
     ⟨0, 4, .ro, 0, false⟩]⟩,
  -- PORTn_MEAS
  ⟨0xA002C, [(0x1000, 4)],
    [⟨0, 24, .ro, 0, false⟩]⟩]

/-- The register tables of block PORT, part 2. -/
def regsPort2 : List RegGroup := [
  -- PORTn_SLIP
  ⟨0xA0030, [(0x1000, 4)],
    [⟨16, 16, .rc, 0, false⟩,
     ⟨0, 16, .rc, 0, false⟩]⟩,
  -- PORTn_ERRCNT
  ⟨0xA0034, [(0x1000, 4)],
    [⟨24, 8, .rc, 0, false⟩,
     ⟨16, 8, .rc, 0, false⟩,
     ⟨8, 8, .rc, 0, false⟩,
     ⟨0, 8, .rc, 0, false⟩]⟩,
  -- PORTn_CMDCNT
  ⟨0xA0038, [(0x1000, 4)],
    [⟨16, 8, .rc, 0, false⟩,
     ⟨8, 8, .rc, 0, false⟩,
     ⟨0, 8, .rc, 0, false⟩]⟩,
  -- PORTn_MCLKDIV
  ⟨0xA003C, [(0x1000, 4)],
    [⟨24, 8, .ro, 0, false⟩,
     ⟨12, 12, .ro, 0, false⟩,
     ⟨0, 12, .ro, 0, false⟩]⟩,
  -- PORTn_RXMAPk
  ⟨0xA0040, [(0x1000, 4), (4, 4)],
    [⟨24, 8, .rw, 0, false⟩,
     ⟨16, 8, .rw, 0, false⟩,
     ⟨8, 8, .rw, 0, false⟩,
     ⟨0, 8, .rw, 0, false⟩]⟩,
  -- PORTn_TXMAPk
  ⟨0xA0050, [(0x1000, 4), (4, 4)],
    [⟨0, 32, .rw, 0, false⟩]⟩,
  -- PORT3_IEC_CFG
  ⟨0xA3100, [],
    [⟨2, 1, .rw, 0, false⟩,
     ⟨1, 1, .rw, 1, false⟩,
     ⟨0, 1, .rw, 0, false⟩]⟩,
  -- PORT3_IEC_STAT
  ⟨0xA3104, [],
    [⟨3, 1, .ro, 0, false⟩,
     ⟨2, 1, .ro, 0, false⟩,
     ⟨1, 1, .ro, 0, false⟩,
     ⟨0, 1, .ro, 0, false⟩]⟩,
  -- PORT3_IEC_CNT
  ⟨0xA3108, [],
    [⟨16, 16, .rc, 0, false⟩,
     ⟨0, 16, .rc, 0, false⟩]⟩,
  -- PORT3_CS_RXk
  ⟨0xA3110, [(4, 6)],
    [⟨0, 32, .ro, 0, false⟩]⟩,
  -- PORT3_CS_TXk
  ⟨0xA3130, [(4, 6)],
    [⟨0, 32, .rw, 0, false⟩]⟩,
  -- PORT_GSTART
  ⟨0xA0F00, [],
    [⟨8, 1, .wo, 0, false⟩,
     ⟨0, 2, .rw, 0, false⟩]⟩]

/-- The register tables of block PORT, part 3. -/
def regsPort3 : List RegGroup := [
  -- PORT_GSTART_FRAME
  ⟨0xA0F04, [],
    [⟨0, 32, .ro, 0, false⟩]⟩,
  -- PORT_TBFRAME
  ⟨0xA0F08, [],
    [⟨0, 32, .ro, 0, false⟩]⟩]

/-- All the register tables of block PORT. -/
def regsPort : List RegGroup := regsPort1 ++ regsPort2 ++ regsPort3

/-- The register tables of block TRING, part 1. -/
def regsTring1 : List RegGroup := [
  -- TRING_CFG
  ⟨0xB0000, [],
    [⟨18, 1, .rw, 0, false⟩,
     ⟨17, 1, .rw, 0, false⟩,
     ⟨16, 1, .rw, 0, false⟩,
     ⟨8, 6, .rw, 8, false⟩,
     ⟨0, 2, .rw, 0, false⟩]⟩,
  -- TRING_CTRL
  ⟨0xB0004, [],
    [⟨1, 1, .wo, 0, false⟩,
     ⟨0, 1, .wo, 0, false⟩]⟩,
  -- TRING_STAT
  ⟨0xB0008, [],
    [⟨16, 16, .ro, 0, false⟩,
     ⟨5, 1, .ro, 0, false⟩,
     ⟨4, 1, .ro, 0, false⟩,
     ⟨3, 1, .ro, 0, false⟩,
     ⟨0, 3, .ro, 0, false⟩]⟩,
  -- TRING_TOPO
  ⟨0xB000C, [],
    [⟨16, 16, .ro, 0xFFFF, false⟩,
     ⟨0, 16, .ro, 0, false⟩]⟩,
  -- TRING_DELAY
  ⟨0xB0010, [],
    [⟨16, 16, .ro, 0, false⟩,
     ⟨0, 16, .ro, 0, false⟩]⟩,
  -- TRING_EVENT
  ⟨0xB0014, [],
    [⟨28, 4, .w1c, 0, false⟩,
     ⟨24, 4, .w1c, 0, false⟩,
     ⟨20, 4, .w1c, 0, false⟩,
     ⟨16, 4, .w1c, 0, false⟩,
     ⟨12, 4, .w1c, 0, false⟩,
     ⟨8, 4, .w1c, 0, false⟩,
     ⟨4, 4, .w1c, 0, false⟩,
     ⟨0, 4, .w1c, 0, false⟩]⟩,
  -- TRING_IRQEN
  ⟨0xB0018, [],
    [⟨0, 32, .rw, 0, false⟩]⟩,
  -- TRING_ERRCNT
  ⟨0xB001C, [],
    [⟨24, 8, .rc, 0, false⟩,
     ⟨16, 8, .rc, 0, false⟩,
     ⟨8, 8, .rc, 0, false⟩,
     ⟨0, 8, .rc, 0, false⟩]⟩,
  -- TRING_BCNT
  ⟨0xB0020, [],
    [⟨24, 8, .rc, 0, false⟩,
     ⟨16, 8, .rc, 0, false⟩,
     ⟨8, 8, .rc, 0, false⟩,
     ⟨0, 8, .rc, 0, false⟩]⟩,
  -- TRING_BTXk
  ⟨0xB0030, [(4, 4)],
    [⟨0, 32, .rw, 0, false⟩]⟩,
  -- TRING_BTXCTL
  ⟨0xB0040, [],
    [⟨8, 4, .ro, 0, false⟩,
     ⟨0, 1, .wo, 0, false⟩]⟩,
  -- TRING_BRXk
  ⟨0xB0050, [(4, 4)],
    [⟨0, 32, .ro, 0, false⟩]⟩]

/-- The register tables of block TRING, part 2. -/
def regsTring2 : List RegGroup := [
  -- TRING_BRXCTL
  ⟨0xB0060, [],
    [⟨8, 5, .ro, 0, false⟩,
     ⟨0, 1, .wo, 0, false⟩]⟩,
  -- TRING_OWN_LO
  ⟨0xB0080, [],
    [⟨0, 32, .ro, 0, false⟩]⟩,
  -- TRING_OWN_HI
  ⟨0xB0084, [],
    [⟨0, 32, .ro, 0, false⟩]⟩,
  -- TRING_RXMAPk
  ⟨0xB0100, [(4, 16)],
    [⟨0, 32, .rw, 0, false⟩]⟩,
  -- TRING_TXMAPk
  ⟨0xB0140, [(4, 16)],
    [⟨0, 32, .rw, 0, false⟩]⟩]

/-- All the register tables of block TRING. -/
def regsTring : List RegGroup := regsTring1 ++ regsTring2

/-- The register tables of block FCOL, part 1. -/
def regsFcol1 : List RegGroup := [
  -- FCOL_STAT
  ⟨0xC0000, [],
    [⟨16, 6, .ro, 0, false⟩,
     ⟨8, 3, .ro, 0, false⟩,
     ⟨6, 2, .ro, 0, false⟩,
     ⟨4, 2, .ro, 0, false⟩,
     ⟨3, 1, .ro, 0, false⟩,
     ⟨2, 1, .ro, 0, false⟩,
     ⟨0, 1, .ro, 0, false⟩]⟩,
  -- FCOL_CTRL
  ⟨0xC0004, [],
    [⟨16, 16, .wo, 0, false⟩,
     ⟨2, 1, .wo, 0, false⟩,
     ⟨1, 1, .wo, 0, false⟩,
     ⟨0, 1, .wo, 0, false⟩]⟩,
  -- FCOL_EVENT
  ⟨0xC0008, [],
    [⟨0, 8, .w1c, 0, false⟩]⟩,
  -- FCOL_IRQEN
  ⟨0xC000C, [],
    [⟨0, 8, .rw, 0, false⟩]⟩,
  -- FCOL_TICK
  ⟨0xC0010, [],
    [⟨0, 32, .ro, 0, false⟩]⟩,
  -- FCOL_FIRST
  ⟨0xC0014, [],
    [⟨16, 16, .ro, 0, false⟩,
     ⟨0, 16, .ro, 0, false⟩]⟩,
  -- FCOL_CNT
  ⟨0xC0018, [],
    [⟨24, 8, .rc, 0, false⟩,
     ⟨16, 8, .rc, 0, false⟩,
     ⟨8, 8, .rc, 0, false⟩,
     ⟨0, 8, .rc, 0, false⟩]⟩,
  -- FCOL_RSTCNT
  ⟨0xC001C, [],
    [⟨8, 8, .ro, 0, false⟩,
     ⟨0, 8, .ro, 0, false⟩]⟩,
  -- FCOL_LOGSTAT
  ⟨0xC0020, [],
    [⟨16, 16, .ro, 0, false⟩,
     ⟨15, 1, .ro, 0, false⟩,
     ⟨0, 7, .ro, 0, false⟩]⟩,
  -- FCOL_WDOG
  ⟨0xC0024, [],
    [⟨0, 1, .wo, 0, false⟩]⟩,
  -- FCOL_JIG
  ⟨0xC0030, [],
    [⟨31, 1, .wo, 0, false⟩,
     ⟨8, 1, .rw, 0, false⟩,
     ⟨0, 8, .rw, 0, false⟩]⟩,
  -- FCOL_JIGSTAT
  ⟨0xC0034, [],
    [⟨16, 16, .ro, 0, false⟩,
     ⟨0, 2, .ro, 0, false⟩]⟩]

/-- The register tables of block FCOL, part 2. -/
def regsFcol2 : List RegGroup := [
  -- FCOL_CLSc
  ⟨0xC0100, [(4, 16)],
    [⟨16, 8, .rc, 0, false⟩,
     ⟨8, 8, .rc, 0, false⟩,
     ⟨0, 8, .rc, 0, false⟩]⟩,
  -- FCOL_RULEk_MATCH
  ⟨0xC1000, [(0x10, 128)],
    [⟨16, 16, .rws, 0, false⟩,
     ⟨0, 16, .rws, 0, false⟩]⟩,
  -- FCOL_RULEk_WIN
  ⟨0xC1004, [(0x10, 128)],
    [⟨16, 16, .rws, 0x3E8, false⟩,
     ⟨8, 8, .rws, 0xA, false⟩,
     ⟨0, 8, .rws, 3, false⟩]⟩,
  -- FCOL_RULEk_REACT
  ⟨0xC1008, [(0x10, 128)],
    [⟨31, 1, .rws, 0, false⟩,
     ⟨30, 1, .rws, 0, false⟩,
     ⟨16, 8, .rws, 0, false⟩,
     ⟨8, 8, .rws, 0, false⟩,
     ⟨0, 8, .rws, 0, false⟩]⟩,
  -- FCOL_CTRk
  ⟨0xC3000, [(4, 256)],
    [⟨31, 1, .ro, 0, false⟩,
     ⟨24, 7, .ro, 0, false⟩,
     ⟨20, 4, .ro, 0, false⟩,
     ⟨0, 8, .ro, 0, false⟩]⟩,
  -- FCOL_LOGe_Wj
  ⟨0xC4000, [(0x10, 64), (4, 4)],
    [⟨0, 32, .ro, 0, false⟩]⟩]

/-- All the register tables of block FCOL. -/
def regsFcol : List RegGroup := regsFcol1 ++ regsFcol2

/-- The register tables of block INTC, part 1. -/
def regsIntc1 : List RegGroup := [
  -- INTC_CLAIM
  ⟨0xD0000, [],
    [⟨0, 8, .ro, 0xFF, false⟩]⟩,
  -- INTC_COMPLETE
  ⟨0xD0004, [],
    [⟨0, 8, .wo, 0, false⟩]⟩,
  -- INTC_CTRL
  ⟨0xD0008, [],
    [⟨0, 1, .rw, 1, false⟩]⟩,
  -- INTC_STAT
  ⟨0xD000C, [],
    [⟨25, 1, .ro, 0, false⟩,
     ⟨24, 1, .ro, 0, false⟩,
     ⟨16, 8, .ro, 0, false⟩,
     ⟨8, 8, .ro, 0, false⟩,
     ⟨0, 8, .ro, 0, false⟩]⟩,
  -- INTC_ERR
  ⟨0xD0010, [],
    [⟨8, 8, .rc, 0, false⟩,
     ⟨0, 8, .rc, 0, false⟩]⟩,
  -- INTC_RAWk
  ⟨0xD0020, [(4, 4)],
    [⟨0, 32, .ro, 0, false⟩]⟩,
  -- INTC_PENDk
  ⟨0xD0030, [(4, 4)],
    [⟨0, 32, .ro, 0, false⟩]⟩,
  -- INTC_HELDk
  ⟨0xD0040, [(4, 4)],
    [⟨0, 32, .ro, 0, false⟩]⟩,
  -- INTC_CLAIMEDk
  ⟨0xD0050, [(4, 4)],
    [⟨0, 32, .ro, 0, false⟩]⟩,
  -- INTC_ENk
  ⟨0xD0060, [(4, 4)],
    [⟨0, 32, .rw, 0, false⟩]⟩,
  -- INTC_ALERTk
  ⟨0xD0070, [(4, 4)],
    [⟨0, 32, .rw, 0, false⟩]⟩,
  -- INTC_PRIOk
  ⟨0xD0100, [(4, 16)],
    [⟨0, 32, .rw, 0, false⟩]⟩]

/-- The register tables of block INTC, part 2. -/
def regsIntc2 : List RegGroup := [
  -- INTC_MODg
  ⟨0xD0200, [(4, 16)],
    [⟨31, 1, .ro, 0, false⟩,
     ⟨0, 16, .rw, 0, false⟩]⟩,
  -- INTC_CQ_CFG
  ⟨0xD0300, [],
    [⟨5, 1, .rw, 1, false⟩,
     ⟨4, 1, .rw, 1, false⟩,
     ⟨0, 4, .rw, 8, false⟩]⟩,
  -- INTC_CQSTAT
  ⟨0xD0304, [],
    [⟨16, 16, .ro, 0, false⟩,
     ⟨8, 8, .rc, 0, false⟩,
     ⟨0, 7, .ro, 0, false⟩]⟩,
  -- INTC_POLEVENT
  ⟨0xD0308, [],
    [⟨0, 12, .w1c, 0, false⟩]⟩,
  -- INTC_CNTs
  ⟨0xD0400, [(4, 128)],
    [⟨0, 8, .rc, 0, false⟩]⟩]

/-- All the register tables of block INTC. -/
def regsIntc : List RegGroup := regsIntc1 ++ regsIntc2

/-- The register tables of block HBUS, part 1. -/
def regsHbus1 : List RegGroup := [
  -- HBUS_CFG
  ⟨0xE0000, [],
    [⟨9, 1, .rwb, 1, false⟩,
     ⟨8, 1, .rwb, 0, false⟩,
     ⟨0, 7, .rwb, 0, false⟩]⟩,
  -- HBUS_STAT
  ⟨0xE0004, [],
    [⟨24, 8, .ro, 0, false⟩,
     ⟨16, 8, .ro, 0, false⟩,
     ⟨15, 1, .ro, 0, false⟩,
     ⟨8, 4, .ro, 0, false⟩,
     ⟨0, 7, .ro, 0x40, false⟩]⟩,
  -- HBUS_PTR
  ⟨0xE0008, [],
    [⟨0, 32, .ro, 0, false⟩]⟩,
  -- HBUS_EVENT
  ⟨0xE000C, [],
    [⟨12, 4, .w1c, 0, false⟩,
     ⟨8, 4, .w1c, 0, false⟩,
     ⟨4, 4, .w1c, 0, false⟩,
     ⟨0, 4, .w1c, 0, false⟩]⟩,
  -- HBUS_IRQEN
  ⟨0xE0010, [],
    [⟨0, 16, .rw, 0, false⟩]⟩,
  -- HBUS_CNT
  ⟨0xE0014, [],
    [⟨24, 8, .rc, 0, false⟩,
     ⟨16, 8, .rc, 0, false⟩,
     ⟨8, 8, .rc, 0, false⟩,
     ⟨0, 8, .rc, 0, false⟩]⟩,
  -- HBUS_CNT2
  ⟨0xE0018, [],
    [⟨24, 8, .rc, 0, false⟩,
     ⟨16, 8, .rc, 0, false⟩,
     ⟨8, 8, .rc, 0, false⟩,
     ⟨0, 8, .rc, 0, false⟩]⟩,
  -- HBUS_NVM_CTRL
  ⟨0xE0100, [],
    [⟨31, 1, .wo, 0, false⟩,
     ⟨16, 9, .rw, 0, false⟩,
     ⟨4, 1, .rw, 0, false⟩,
     ⟨3, 1, .rw, 0, false⟩,
     ⟨0, 2, .rw, 0, false⟩]⟩,
  -- HBUS_NVM_ADDR
  ⟨0xE0104, [],
    [⟨0, 32, .rw, 0, false⟩]⟩,
  -- HBUS_NVM_STAT
  ⟨0xE0108, [],
    [⟨8, 1, .ro, 0, false⟩,
     ⟨0, 8, .ro, 0, false⟩]⟩,
  -- HBUS_NVM_DATAk
  ⟨0xE0200, [(4, 64)],
    [⟨0, 32, .rw, 0, false⟩]⟩]

/-- All the register tables of block HBUS. -/
def regsHbus : List RegGroup := regsHbus1

/-- The register tables of block DSPX, part 1. -/
def regsDspx1 : List RegGroup := [
  -- DSPX_STAT
  ⟨0xF0000, [],
    [⟨8, 4, .ro, 0, false⟩,
     ⟨7, 1, .ro, 0, false⟩,
     ⟨6, 1, .ro, 0, false⟩,
     ⟨0, 3, .ro, 0, false⟩]⟩,
  -- DSPX_FRAMECNT
  ⟨0xF0004, [],
    [⟨0, 32, .ro, 0, false⟩]⟩,
  -- DSPX_EVENT
  ⟨0xF0008, [],
    [⟨28, 4, .w1c, 0, false⟩,
     ⟨24, 4, .w1c, 0, false⟩,
     ⟨20, 4, .w1c, 0, false⟩,
     ⟨16, 4, .w1c, 0, false⟩,
     ⟨12, 4, .w1c, 0, false⟩,
     ⟨8, 4, .w1c, 0, false⟩,
     ⟨4, 4, .w1c, 0, false⟩,
     ⟨0, 4, .w1c, 0, false⟩]⟩,
  -- DSPX_IRQEN
  ⟨0xF000C, [],
    [⟨0, 32, .rw, 0, false⟩]⟩,
  -- DSPX_LOADc
  ⟨0xF0010, [(4, 4)],
    [⟨22, 10, .rc, 0, false⟩,
     ⟨0, 20, .ro, 0, false⟩]⟩,
  -- DSPX_CNT
  ⟨0xF0020, [],
    [⟨24, 8, .rc, 0, false⟩,
     ⟨16, 8, .rc, 0, false⟩,
     ⟨8, 8, .rc, 0, false⟩,
     ⟨0, 8, .rc, 0, false⟩]⟩,
  -- DSPX_LA_STAT
  ⟨0xF0024, [],
    [⟨16, 16, .ro, 0, false⟩,
     ⟨0, 16, .rc, 0, false⟩]⟩,
  -- DSPX_ZC
  ⟨0xF0028, [],
    [⟨8, 4, .rw, 6, false⟩,
     ⟨0, 8, .rw, 0x14, false⟩]⟩,
  -- DSPX_LOADTH
  ⟨0xF002C, [],
    [⟨0, 10, .rw, 0x1C2, false⟩]⟩,
  -- DSPX_PARAM_SEL
  ⟨0xF0030, [],
    [⟨16, 16, .rw, 0, false⟩,
     ⟨0, 16, .rw, 0, false⟩]⟩,
  -- DSPX_PARAM_DATA
  ⟨0xF0034, [],
    [⟨0, 32, .ro, 0, false⟩]⟩,
  -- DSPX_PARAM_STAT
  ⟨0xF0038, [],
    [⟨1, 3, .ro, 0, false⟩,
     ⟨0, 1, .ro, 0, false⟩]⟩]

/-- The register tables of block DSPX, part 2. -/
def regsDspx2 : List RegGroup := [
  -- DSPX_PLAYCMD
  ⟨0xF0040, [],
    [⟨30, 2, .wo, 0, false⟩,
     ⟨24, 5, .wo, 0, false⟩,
     ⟨0, 16, .wo, 0, false⟩]⟩,
  -- DSPX_PLAYSTAT
  ⟨0xF0044, [],
    [⟨0, 32, .ro, 0, false⟩]⟩,
  -- DSPX_PLAYERR
  ⟨0xF0048, [],
    [⟨8, 8, .rc, 0, false⟩,
     ⟨0, 8, .rc, 0, false⟩]⟩,
  -- DSPX_GENg_CFG
  ⟨0xF0100, [(8, 16)],
    [⟨16, 2, .rw, 0, false⟩,
     ⟨0, 16, .rw, 0, false⟩]⟩,
  -- DSPX_GENg_FREQ
  ⟨0xF0104, [(8, 16)],
    [⟨0, 32, .rws, 0x3E80000, false⟩]⟩,
  -- DSPX_CTXn_CFG
  ⟨0xF1000, [(0x10, 128)],
    [⟨31, 1, .ro, 0, false⟩,
     ⟨27, 4, .rw, 8, false⟩,
     ⟨24, 2, .ro, 0, false⟩,
     ⟨16, 8, .ro, 0xFF, false⟩,
     ⟨12, 4, .rw, 0, false⟩,
     ⟨6, 6, .rw, 0, false⟩,
     ⟨1, 1, .rw, 0, false⟩]⟩,
  -- DSPX_CTXn_LEVEL
  ⟨0xF1004, [(0x10, 128)],
    [⟨0, 32, .rw, 0x8000000, false⟩]⟩,
  -- DSPX_CTXn_STAT
  ⟨0xF1008, [(0x10, 128)],
    [⟨20, 1, .ro, 0, false⟩,
     ⟨16, 3, .ro, 0, false⟩,
     ⟨0, 16, .ro, 0, false⟩]⟩,
  -- DSPX_CTXn_SLIP
  ⟨0xF100C, [(0x10, 128)],
    [⟨0, 16, .rc, 0, false⟩]⟩]

/-- All the register tables of block DSPX. -/
def regsDspx : List RegGroup := regsDspx1 ++ regsDspx2

/-- The register tables of block TRACE, part 1. -/
def regsTrace1 : List RegGroup := [
  -- TRACE_CFGb
  ⟨0x100000, [(0x20, 4)],
    [⟨31, 1, .rw, 0, false⟩,
     ⟨24, 4, .rw, 0, false⟩,
     ⟨20, 2, .rw, 0, false⟩,
     ⟨16, 4, .rw, 0, false⟩,
     ⟨12, 2, .rw, 0, false⟩,
     ⟨8, 4, .rw, 0, false⟩,
     ⟨0, 5, .rw, 0, false⟩]⟩,
  -- TRACE_NODESb
  ⟨0x100004, [(0x20, 4)],
    [⟨24, 5, .rw, 0, false⟩,
     ⟨16, 5, .rw, 0, false⟩,
     ⟨8, 5, .rw, 0, false⟩,
     ⟨0, 5, .rw, 0, false⟩]⟩,
  -- TRACE_LEVELb
  ⟨0x100008, [(0x20, 4)],
    [⟨0, 32, .rw, 0, false⟩]⟩,
  -- TRACE_DEPTHb
  ⟨0x10000C, [(0x20, 4)],
    [⟨16, 14, .rw, 0, false⟩,
     ⟨0, 14, .rw, 0, false⟩]⟩,
  -- TRACE_CTRLb
  ⟨0x100010, [(0x20, 4)],
    [⟨2, 1, .wo, 0, false⟩,
     ⟨1, 1, .wo, 0, false⟩,
     ⟨0, 1, .wo, 0, false⟩]⟩,
  -- TRACE_STATb
  ⟨0x100014, [(0x20, 4)],
    [⟨16, 14, .ro, 0, false⟩,
     ⟨3, 1, .ro, 0, false⟩,
     ⟨0, 3, .ro, 0, false⟩]⟩,
  -- TRACE_STAMPb
  ⟨0x100018, [(0x20, 4)],
    [⟨0, 32, .ro, 0, false⟩]⟩,
  -- TRACE_LENb
  ⟨0x10001C, [(0x20, 4)],
    [⟨16, 15, .ro, 0, false⟩,
     ⟨0, 15, .ro, 0, false⟩]⟩,
  -- TRACE_EVENT
  ⟨0x100100, [],
    [⟨0, 16, .w1c, 0, false⟩]⟩,
  -- TRACE_IRQEN
  ⟨0x100104, [],
    [⟨0, 16, .rw, 0, false⟩]⟩,
  -- TRACE_WIN
  ⟨0x100108, [],
    [⟨4, 1, .rw, 0, false⟩,
     ⟨0, 2, .rw, 0, false⟩]⟩,
  -- TRACE_ERR
  ⟨0x10010C, [],
    [⟨24, 8, .rc, 0, false⟩,
     ⟨16, 8, .rc, 0, false⟩,
     ⟨8, 8, .rc, 0, false⟩,
     ⟨0, 8, .rc, 0, false⟩]⟩]

/-- The register tables of block TRACE, part 2. -/
def regsTrace2 : List RegGroup := [
  -- TRACE_WINDOWw
  ⟨0x108000, [(4, 8192)],
    [⟨0, 32, .ro, 0, false⟩]⟩]

/-- All the register tables of block TRACE. -/
def regsTrace : List RegGroup := regsTrace1 ++ regsTrace2

/-- The register tables of block SEC, part 1. -/
def regsSec1 : List RegGroup := [
  -- SEC_LOCKSTAT
  ⟨0x110000, [],
    [⟨16, 1, .ro, 0, false⟩,
     ⟨0, 16, .rc, 0, false⟩]⟩,
  -- SEC_DBGSTAT
  ⟨0x110004, [],
    [⟨6, 2, .ro, 0, false⟩,
     ⟨5, 1, .ro, 0, false⟩,
     ⟨4, 1, .ro, 0, false⟩,
     ⟨3, 1, .ro, 0, false⟩,
     ⟨2, 1, .ro, 0, false⟩,
     ⟨0, 2, .ro, 1, false⟩]⟩,
  -- SEC_ATTEMPT
  ⟨0x110008, [],
    [⟨31, 1, .ro, 0, false⟩,
     ⟨16, 11, .ro, 0, false⟩,
     ⟨8, 8, .rc, 0, false⟩,
     ⟨0, 6, .ro, 0, false⟩]⟩,
  -- SEC_CTRL
  ⟨0x11000C, [],
    [⟨16, 16, .wo, 0, false⟩,
     ⟨0, 1, .wo, 0, false⟩]⟩,
  -- SEC_SECVER
  ⟨0x110010, [],
    [⟨8, 24, .ro, 0, false⟩,
     ⟨7, 1, .ro, 0, false⟩,
     ⟨0, 7, .ro, 0, false⟩]⟩,
  -- SEC_SVCTRL
  ⟨0x110014, [],
    [⟨16, 16, .wo, 0, false⟩,
     ⟨0, 7, .wo, 0, false⟩]⟩,
  -- SEC_KEYHASHk
  ⟨0x110020, [(4, 8)],
    [⟨0, 32, .ro, 0, false⟩]⟩,
  -- SEC_EVENT
  ⟨0x110040, [],
    [⟨12, 4, .w1c, 0, false⟩,
     ⟨8, 4, .w1c, 0, false⟩,
     ⟨4, 4, .w1c, 0, false⟩,
     ⟨0, 4, .w1c, 0, false⟩]⟩,
  -- SEC_IRQEN
  ⟨0x110044, [],
    [⟨0, 16, .rw, 0, false⟩]⟩,
  -- SEC_CNT
  ⟨0x110048, [],
    [⟨8, 8, .rc, 0, false⟩,
     ⟨0, 8, .rc, 0, false⟩]⟩]

/-- All the register tables of block SEC. -/
def regsSec : List RegGroup := regsSec1

end Sys2Proof.Machine
end

