-- ==== Sys2Proof/Machine/Ops.lean ====
section
/-!
DEFINITION. Machine/Ops.lean: the shared operations: registers and fields (R5, R7, R10, R11), memory windows (R2, R29),
free values, fault events (R389 to R391), completion entries (R446).
-/

namespace Sys2Proof.Machine

/-! ### Registers -/

/-- Does an offset fall on an element of an array of registers with these strides and counts? -/
def dimsHit : List (Nat × Nat) → Nat → Bool
  | [], off => off == 0
  | (st, n) :: t, off => decide (off / st < n) && dimsHit t (off % st)

/-- Does the register table hold the register at address `a`? -/
def RegGroup.hits (g : RegGroup) (a : Nat) : Bool := decide (g.base ≤ a) && dimsHit g.dims (a - g.base)

/-- The index of the register at `a` in its array (the outermost one). -/
def RegGroup.index (g : RegGroup) (a : Nat) : Nat :=
  match g.dims with
  | [] => 0
  | (st, _) :: _ => (a - g.base) / st

/-- The register tables of the block that owns address `a` (R28). -/
def blockRegs (a : Nat) : List RegGroup :=
  let page := a / 0x10000
  if page = 1 then regsSys
  else if page = 2 then (if a < 0x28000 then regsPmu else regsGov)
  else if page = 3 then regsHkadc
  else if page = 4 then regsSense
  else if page = 5 then regsDecim
  else if page = 6 then regsLoop
  else if page = 7 then regsMod
  else if page = 8 then regsGuard
  else if page = 9 then regsDiag
  else if page = 10 then regsPort
  else if page = 11 then regsTring
  else if page = 12 then regsFcol
  else if page = 13 then regsIntc
  else if page = 14 then regsHbus
  else if page = 15 then regsDspx
  else if page = 16 then regsTrace
  else if page = 17 then regsSec
  else []

/-- The register table that holds address `a`. -/
def findReg (a : Nat) : Option RegGroup := (blockRegs a).find? (fun g => g.hits a)

/-- The reset value of one field of the register at `a` (R11). -/
def FieldDesc.rstAt (f : FieldDesc) (g : RegGroup) (a : Nat) : Nat := if f.idx then g.index a else f.rst

/-- The reset word of a register: its fields' reset values in place, reserved bits 0 (R10, R11). -/
def RegGroup.rstWord (g : RegGroup) (a : Nat) : BitVec 32 :=
  BitVec.ofNat 32 (g.fields.foldl (fun acc f => acc + f.rstAt g a * 2 ^ f.lo) 0)

/-- What the register at `a` holds at reset; 0 where no register stands (R10). -/
def regDefault (a : Nat) : BitVec 32 :=
  match findReg a with
  | some g => g.rstWord a
  | none => 0

/-- The word in the register at `a`. -/
def State.reg (s : State) (a : Nat) : BitVec 32 := Tbl.get (regDefault a) s.regs a

/-- Set the word in the register at `a`. -/
def State.setReg (s : State) (a : Nat) (v : BitVec 32) : State :=
  { s with regs := Tbl.set (regDefault a) s.regs a v }

/-- The mask of a field. -/
def fieldMask (lo w : Nat) : BitVec 32 := BitVec.ofNat 32 ((2 ^ w - 1) * 2 ^ lo)

/-- A word with bits lo .. lo+w-1 replaced by the low bits of `v` (R1). -/
def putField (x : BitVec 32) (lo w v : Nat) : BitVec 32 :=
  (x &&& ~~~ fieldMask lo w) ||| BitVec.ofNat 32 (v % 2 ^ w * 2 ^ lo)

/-- Bits lo .. lo+w-1 of a word (R1). -/
def getField (x : BitVec 32) (lo w : Nat) : Nat := x.toNat / 2 ^ lo % 2 ^ w

/-- The value of a field. -/
def State.rd (s : State) (f : Fld) : Nat := getField (s.reg f.addr) f.lo f.w

/-- Set a field. -/
def State.wr (s : State) (f : Fld) (v : Nat) : State := s.setReg f.addr (putField (s.reg f.addr) f.lo f.w v)

/-- A field is not 0. -/
def State.on (s : State) (f : Fld) : Bool := s.rd f != 0

/-- Set or clear a one-bit field. -/
def State.wrB (s : State) (f : Fld) (b : Bool) : State := s.wr f (if b then 1 else 0)

/-- Count one event in a counter field; it saturates at its maximum (R7). -/
def State.bump (s : State) (f : Fld) : State :=
  if s.rd f + 1 < 2 ^ f.w then s.wr f (s.rd f + 1) else s.wr f (2 ^ f.w - 1)

/-- A counter field that wraps advances by one. -/
def State.bumpWrap (s : State) (f : Fld) : State := s.wr f (s.rd f + 1)

/-- Keep the largest value seen in a field; a value beyond its range saturates. -/
def State.peak (s : State) (f : Fld) (v : Nat) : State :=
  if s.rd f < v then s.wr f (min v (2 ^ f.w - 1)) else s

/-- Set event bit `b` of the register at `a`. -/
def State.ev (s : State) (a b : Nat) : State := s.wr ⟨a, b, 1⟩ 1

/-- Event bit `b` of the register at `a`. -/
def State.evOn (s : State) (a b : Nat) : Bool := s.rd ⟨a, b, 1⟩ != 0

/-- Set or clear bit `b` of the register at `a`. -/
def State.setBit (s : State) (a b : Nat) (v : Bool) : State := s.wr ⟨a, b, 1⟩ (if v then 1 else 0)

/-- Every register whose address meets `p` goes back to its reset value (R30). -/
def State.resetRegs (s : State) (p : Nat → Bool) : State := { s with regs := Tbl.drop p s.regs }

/-- A 32-bit word from bit tests. -/
def bitsWord (p : Nat → Bool) : BitVec 32 :=
  BitVec.ofNat 32 ((List.range 32).foldl (fun acc b => acc + if p b then 2 ^ b else 0) 0)

/-- The value of a field of `n` bits read as two's complement (R3). -/
def toSigned (n : Nat) (v : Nat) : Int := if v < 2 ^ (n - 1) then (v : Int) else (v : Int) - 2 ^ n

/-- The low `n` bits of an integer in two's complement (R3, R4). -/
def ofSigned (n : Nat) (v : Int) : Nat := (v % (2 ^ n : Int)).toNat

/-- Limit an integer to a range. -/
def clampInt (lo hi v : Int) : Int := if v < lo then lo else if hi < v then hi else v

/-- A field read as two's complement. -/
def State.rdI (s : State) (f : Fld) : Int := toSigned f.w (s.rd f)

/-- Set a field from a signed value. -/
def State.wrI (s : State) (f : Fld) (v : Int) : State := s.wr f (ofSigned f.w v)

/-- A quotient whose rounding the spec leaves open: exact where it divides, else one of the two neighbours, the choice
free (log entry 10). -/
def roundQ (num : Int) (den : Nat) : Int :=
  num / den + (if num % den ≠ 0 && Config.roundUp num den then 1 else 0)

/-- The same of natural numbers. -/
def roundN (num den : Nat) : Nat :=
  num / den + (if num % den ≠ 0 && Config.roundUp num den then 1 else 0)

/-- The square root of a natural number below 2^128, rounded down. -/
def isqrt (n : Nat) : Nat :=
  (List.range 64).foldl (fun r i => let c := r + 2 ^ (63 - i); if c * c ≤ n then c else r) 0

/-- √(num ÷ den); one of the two neighbours where it is not whole (log entry 10). -/
def roundSqrt (num den : Nat) : Nat :=
  let r := isqrt (num / den)
  r + (if r * r * den ≠ num && Config.roundUp num den then 1 else 0)

/-! ### Bytes (R2) -/

/-- Byte `i` of a list, 0 beyond its end. -/
def u8 (b : List (BitVec 8)) (i : Nat) : Nat := (b.getD i 0).toNat

/-- The little-endian 16-bit value at offset `i` (R2). -/
def u16 (b : List (BitVec 8)) (i : Nat) : Nat := u8 b i + 256 * u8 b (i + 1)

/-- The little-endian 32-bit value at offset `i` (R2). -/
def u32 (b : List (BitVec 8)) (i : Nat) : Nat := u16 b i + 65536 * u16 b (i + 2)

/-- `n` bytes of a value, least significant first (R2). -/
def leBytes : Nat → Nat → List (BitVec 8)
  | 0, _ => []
  | n + 1, v => BitVec.ofNat 8 v :: leBytes n (v / 256)

/-- A value from its bytes, least significant first (R2). -/
def ofLe : List (BitVec 8) → Nat
  | [] => 0
  | b :: t => b.toNat + 256 * ofLe t

/-- The bytes `off .. off+n-1` of a list, 0 beyond its end. -/
def slice (b : List (BitVec 8)) (off n : Nat) : List (BitVec 8) :=
  (List.range n).map (fun i => b.getD (off + i) 0)

/-! ### Free values -/

/-- Draw a free value below 2^w (log entry 4). -/
def State.draw (s : State) (w : Nat) : Nat × State :=
  ((Config.freeValue s.freeCount).toNat % 2 ^ w, { s with freeCount := s.freeCount + 1 })

/-! ### Fault events, completions -/

/-- A fault ID from its class, instance and code (R389). -/
def faultId (cls inst code : Nat) : BitVec 16 := BitVec.ofNat 16 (cls * 4096 + inst % 16 * 256 + code % 256)

/-- The unit class of a fault ID (R389). -/
def idClass (i : BitVec 16) : Nat := i.toNat / 4096

/-- The instance of a fault ID (R389). -/
def idInst (i : BitVec 16) : Nat := i.toNat / 256 % 16

/-- The code of a fault ID (R389). -/
def idCode (i : BitVec 16) : Nat := i.toNat % 256

/-- A detector raises an event: it starts on its way to the collector, and is lost while the collector is held in
reset (R391). -/
def State.raiseEvt (s : State) (e : Evt) : State :=
  if s.sys.dieHeld then s else { s with fcol := { s.fcol with inFlight := s.fcol.inFlight ++ [e] } }

/-- Raise an event of a class, instance and code, with its DETAIL word; `lasting` marks the lasting hint (R390). -/
def State.raise (s : State) (cls inst code : Nat) (detail : Nat) (lasting : Bool) : State :=
  s.raiseEvt { id := faultId cls inst code, detail := BitVec.ofNat 32 detail, lasting := lasting, jig := false }

/-- Write a completion entry (R446, R447): a full queue discards and counts it, and the next entry written carries
LOST. One that falls during a reset waits until the controller runs again (R449). -/
def State.complete (s : State) (ty : Nat) (data : List (BitVec 8)) : State :=
  if s.sys.dieHeld then { s with intc := { s.intc with late := s.intc.late ++ [(ty, slice data 0 12)] } }
  else if 64 ≤ s.intc.cq.length then
    { s.bump F.INTC_CQSTAT_DROPPED with intc := { s.intc with lostDue := true } }
  else
    let e : CqEntry :=
      { seq := BitVec.ofNat 16 (s.rd F.INTC_CQSTAT_NEXT_SEQ), ty := BitVec.ofNat 8 ty, lost := s.intc.lostDue,
        data := slice data 0 12 }
    { s.bumpWrap F.INTC_CQSTAT_NEXT_SEQ with intc := { s.intc with cq := s.intc.cq ++ [e], lostDue := false } }

/-! ### Policy tables (R61) -/

/-- The entries of policy table `id` in effect; none where the table is absent. -/
def State.polEntries (s : State) (id : Nat) : List (List (BitVec 8)) :=
  match s.boot.policy.find? (fun t => t.id == id) with
  | some t => t.entries
  | none => []

/-! ### Units -/

/-- The record of port `n`. -/
def State.port (s : State) (n : Nat) : PortSt := Tbl.get PortSt.reset s.ports n

/-- Set the record of port `n`. -/
def State.setPort (s : State) (n : Nat) (p : PortSt) : State := { s with ports := Tbl.set PortSt.reset s.ports n p }

/-- The record of context `n`. -/
def State.ctx (s : State) (n : Nat) : CtxSt := Tbl.get CtxSt.reset s.dsp.ctx n

/-- Set the record of context `n`. -/
def State.setCtx (s : State) (n : Nat) (c : CtxSt) : State :=
  { s with dsp := { s.dsp with ctx := Tbl.set CtxSt.reset s.dsp.ctx n c } }

/-- Do `f` for every number below `n`, in order. -/
def State.forAll (s : State) (n : Nat) (f : Nat → State → State) : State :=
  (List.range n).foldl (fun t i => f i t) s

/-- Do `f` for every element of a list, in order. -/
def State.forEach {α : Type} (s : State) (l : List α) (f : α → State → State) : State := l.foldl (fun t x => f x t) s

/-- The state after `f` where `b` holds, the state itself where it does not. -/
def State.when (s : State) (b : Bool) (f : State → State) : State := if b then f s else s

/-! ### Islands (R17, R26) -/

/-- The register bus runs: the digital die is out of reset and PLL B locked (R17, R19). -/
def State.busUp (s : State) : Bool := !s.sys.dieHeld && s.on F.SYS_CLKSTAT_PLLB_LOCK

/-- The island of a register stands still (R17, R26). -/
def State.islandStopped (s : State) (a : Nat) : Bool :=
  let page := a / 0x10000
  if page = 4 ∨ page = 5 ∨ page = 6 ∨ page = 7 ∨ page = 16 then !s.on F.SYS_CLKSTAT_PLLA_LOCK
  else if page = 3 then !s.on F.HKADC_STAT_RUN
  else false

/-- A register access that has a command of its own (R26): it acts while the island of its register runs; where that stands
still the access is terminated and counted. -/
def State.reach (s : State) (a : Nat) (f : State → State) : State :=
  if s.islandStopped a then s.bump F.SYS_XING_ERR_STALLED else f s

/-! ### Clocks and time -/

/-- The owner's Fa in hertz, by the code of SYS_TSRC.FA (R22). -/
def faHz (code : Nat) : Nat :=
  if code = 0 then 44100 else if code = 1 then 48000 else if code = 2 then 88200 else 96000

/-- The code of the Fa in force (R22, R23): a slave port that owns the rate gives its own while TSRC_LOCKED, and the rate
last locked after; every other owner, and the time before any lock, gives SYS_TSRC.FA. -/
def State.faCode (s : State) : Nat :=
  let src := s.rd F.SYS_TSRC_SRC
  if 4 ≤ src then s.rd F.SYS_TSRC_FA
  else if s.on F.SYS_CLKSTAT_TSRC_LOCKED then s.rd (F.PORTn_CFG_FA src)
  else match s.sys.lastFa with
    | some x => x.toNat
    | none => s.rd F.SYS_TSRC_FA

/-- The owner's Fa in hertz. -/
def State.fa (s : State) : Nat := faHz s.faCode

/-- Nominal RATIO, UQ8.24: Fc ÷ (4 × Fa) (R271). -/
def State.nominalRatio (s : State) : Nat := roundN (12288000 * 2 ^ 24) (4 * s.fa)

/-- The ratio tracker of a machine on the internal timebase: FIXED at nominal RATIO; INTERNAL while a foreign owner is not
locked (R275, R277). -/
def State.trackerIdle (s : State) : State :=
  let st := if s.rd F.SYS_TSRC_SRC = 0b101 then 0 else 3
  let t := ((s.wr F.DECIM_TRKSTAT_STATE st).wr F.DECIM_TRKSTAT_RANGE 0).wr F.DECIM_RATIO_VALUE s.nominalRatio
  let t := { t with decim := { t.decim with close := 0, loopAcc := 0 } }
  if s.rd F.DECIM_TRKSTAT_STATE = 2 then t.ev A.DECIM_EVENT 20 else t

/-- The owner no longer delivers a clean frame clock (R23): TSRC_LOCKED is 0 and the tracker of a foreign owner enters INTERNAL
(R277). -/
def State.tsrcUnlock (s : State) : State :=
  if !s.on F.SYS_CLKSTAT_TSRC_LOCKED then s
  else
    let t := s.wr F.SYS_CLKSTAT_TSRC_LOCKED 0
    if s.rd F.SYS_TSRC_SRC = 5 then t else t.trackerIdle

/-- The times of a list that lie within the last `us` microseconds. -/
def State.recent (s : State) (ts : List Nat) (us : Nat) : List Nat := ts.filter (fun t => decide (s.now < t + us))

/-- Debug access and lifecycle aside, the states of the boot record by name (R53). -/
abbrev bootRomRead : Nat := 1
/-- EARLY_LOADING (R53). -/
abbrev bootEarlyLoading : Nat := 2
/-- EARLY_RUNNING (R53). -/
abbrev bootEarlyRunning : Nat := 3
/-- FULL_RUNNING (R53). -/
abbrev bootFullRunning : Nat := 4
/-- EARLY_ONLY (R53). -/
abbrev bootEarlyOnly : Nat := 5
/-- DRYFIT_RUNNING (R53). -/
abbrev bootDryfitRunning : Nat := 6
/-- DRYFIT_DONE (R53). -/
abbrev bootDryfitDone : Nat := 7
/-- ROM_DEFAULTS (R53). -/
abbrev bootRomDefaults : Nat := 8

end Sys2Proof.Machine
end

