-- ==== Sys2Proof/Machine/Crypto.lean ====
section
/-!
DEFINITION. Machine/Crypto.lean: the functions that R46, R48, R454 and R455 name: SHA-256, HMAC-SHA-256 and the verification of an
ECDSA P-256 signature, by their published standards (log entry 8).
-/

namespace Sys2Proof.Machine

open Sys2Proof

/-! ### SHA-256 -/

/-- The round constants: 32 bits of the fractional parts of the cube roots of the first 64 primes. -/
def shaK : List (BitVec 32) :=
  [0x428A2F98, 0x71374491, 0xB5C0FBCF, 0xE9B5DBA5, 0x3956C25B, 0x59F111F1, 0x923F82A4, 0xAB1C5ED5] ++
  [0xD807AA98, 0x12835B01, 0x243185BE, 0x550C7DC3, 0x72BE5D74, 0x80DEB1FE, 0x9BDC06A7, 0xC19BF174] ++
  [0xE49B69C1, 0xEFBE4786, 0x0FC19DC6, 0x240CA1CC, 0x2DE92C6F, 0x4A7484AA, 0x5CB0A9DC, 0x76F988DA] ++
  [0x983E5152, 0xA831C66D, 0xB00327C8, 0xBF597FC7, 0xC6E00BF3, 0xD5A79147, 0x06CA6351, 0x14292967] ++
  [0x27B70A85, 0x2E1B2138, 0x4D2C6DFC, 0x53380D13, 0x650A7354, 0x766A0ABB, 0x81C2C92E, 0x92722C85] ++
  [0xA2BFE8A1, 0xA81A664B, 0xC24B8B70, 0xC76C51A3, 0xD192E819, 0xD6990624, 0xF40E3585, 0x106AA070] ++
  [0x19A4C116, 0x1E376C08, 0x2748774C, 0x34B0BCB5, 0x391C0CB3, 0x4ED8AA4A, 0x5B9CCA4F, 0x682E6FF3] ++
  [0x748F82EE, 0x78A5636F, 0x84C87814, 0x8CC70208, 0x90BEFFFA, 0xA4506CEB, 0xBEF9A3F7, 0xC67178F2]

/-- The initial hash: 32 bits of the fractional parts of the square roots of the first 8 primes. -/
def shaInit : List (BitVec 32) :=
  [0x6A09E667, 0xBB67AE85, 0x3C6EF372, 0xA54FF53A, 0x510E527F, 0x9B05688C, 0x1F83D9AB, 0x5BE0CD19]

/-- The bytes of a number, the most significant first. -/
def beBytes : Nat → Nat → List (BitVec 8)
  | 0, _ => []
  | k + 1, v => BitVec.ofNat 8 (v / 256 ^ k) :: beBytes k v

/-- The number that bytes give, the most significant first. -/
def ofBe (b : List (BitVec 8)) : Nat := b.foldl (fun a x => 256 * a + x.toNat) 0

/-- The message schedule, newest word first: so many words more. -/
def shaSchedule : Nat → List (BitVec 32) → List (BitVec 32)
  | 0, w => w
  | n + 1, w =>
    let x := w.getD 14 0
    let y := w.getD 1 0
    let s0 := x.rotateRight 7 ^^^ x.rotateRight 18 ^^^ (x >>> 3)
    let s1 := y.rotateRight 17 ^^^ y.rotateRight 19 ^^^ (y >>> 10)
    shaSchedule n ((s1 + w.getD 6 0 + s0 + w.getD 15 0) :: w)

/-- The rounds, each with the sum of its constant and its word. -/
def shaRounds : List (BitVec 32) → (a b c d e f g h : BitVec 32) → List (BitVec 32)
  | [], a, b, c, d, e, f, g, h => [a, b, c, d, e, f, g, h]
  | k :: ks, a, b, c, d, e, f, g, h =>
    let s1 := e.rotateRight 6 ^^^ e.rotateRight 11 ^^^ e.rotateRight 25
    let t1 := h + s1 + ((e &&& f) ^^^ (~~~e &&& g)) + k
    let s0 := a.rotateRight 2 ^^^ a.rotateRight 13 ^^^ a.rotateRight 22
    let t2 := s0 + ((a &&& b) ^^^ (a &&& c) ^^^ (b &&& c))
    shaRounds ks (t1 + t2) a b c (d + t1) e f g

/-- The hash after a block of 64 bytes. -/
def shaBlock (h : List (BitVec 32)) (b : List (BitVec 8)) : List (BitVec 32) :=
  let w0 := (List.range 16).map (fun i => BitVec.ofNat 32 (ofBe (slice b (4 * i) 4)))
  let w := (shaSchedule 48 w0.reverse).reverse
  let g (i : Nat) : BitVec 32 := h.getD i 0
  List.zipWith (fun x y => x + y) h
    (shaRounds (List.zipWith (fun x y => x + y) shaK w) (g 0) (g 1) (g 2) (g 3) (g 4) (g 5) (g 6) (g 7))

/-- The hash after so many blocks. -/
def shaBlocks : Nat → List (BitVec 32) → List (BitVec 8) → List (BitVec 32)
  | 0, h, _ => h
  | n + 1, h, m => shaBlocks n (shaBlock h (m.take 64)) (m.drop 64)

/-- SHA-256 of a message. -/
@[irreducible] def sha256 (m : List (BitVec 8)) : List (BitVec 8) :=
  let p := m ++ [0x80] ++ List.replicate ((119 - m.length % 64) % 64) 0 ++ beBytes 8 (8 * m.length)
  (shaBlocks (p.length / 64) shaInit p).flatMap (fun x => beBytes 4 x.toNat)

/-- HMAC-SHA-256 of a key and a message. -/
@[irreducible] def hmacSha256 (key m : List (BitVec 8)) : List (BitVec 8) :=
  let k := slice (if 64 < key.length then sha256 key else key) 0 64
  sha256 (k.map (fun x => x ^^^ 0x5C) ++ sha256 (k.map (fun x => x ^^^ 0x36) ++ m))

/-! ### ECDSA over P-256 -/

/-- The prime of the field of P-256. -/
abbrev ecP : Nat := 2 ^ 256 - 2 ^ 224 + 2 ^ 192 + 2 ^ 96 - 1

/-- The order of the base point. -/
abbrev ecN : Nat := 0xFFFFFFFF00000000FFFFFFFFFFFFFFFFBCE6FAADA7179E84F3B9CAC2FC632551

/-- The constant b of the curve y² = x³ − 3x + b. -/
abbrev ecB : Nat := 0x5AC635D8AA3A93E7B3EBBD55769886BC651D06B0CC53B0F63BCE3C3E27D2604B

/-- The base point. -/
def ecG : Nat × Nat :=
  (0x6B17D1F2E12C4247F8BCE6E563A440F277037D812DEB33A0F4A13945D898C296,
   0x4FE342E2FE1A7F9B8EE7EB4A7C0F9E162BCE33576B315ECECBB6406837BF51F5)

/-- The inverse of a number modulo a prime of 256 bits: its power of the prime less 2. -/
def modInv (a m : Nat) : Nat :=
  (List.range 256).foldl (fun r i => let r := r * r % m; if (m - 2).testBit (255 - i) then r * a % m else r) 1

/-- The sum of two points of P-256; none is the point at infinity. -/
def ecAdd (a b : Option (Nat × Nat)) : Option (Nat × Nat) :=
  match a, b with
  | none, q => q
  | p, none => p
  | some (x1, y1), some (x2, y2) =>
    if x1 = x2 ∧ (y1 + y2) % ecP = 0 then none
    else
      let l :=
        if x1 = x2 then (3 * x1 * x1 + 3 * (ecP - 1)) * modInv (2 * y1 % ecP) ecP % ecP
        else (y2 + ecP - y1) * modInv ((x2 + ecP - x1) % ecP) ecP % ecP
      let x := (l * l + 2 * ecP - x1 - x2) % ecP
      some (x, (l * (x1 + ecP - x) + ecP - y1) % ecP)

/-- A point times a number of 256 bits. -/
def ecMul (k : Nat) (p : Nat × Nat) : Option (Nat × Nat) :=
  (List.range 256).foldl (fun r i => let r := ecAdd r r; if k.testBit (255 - i) then ecAdd r (some p) else r) none

/-- Does the signature r, s of a hash verify under the public key X, Y, each 32 bytes, big-endian (R46)? -/
@[irreducible] def ecdsaVerify (key hash sig : List (BitVec 8)) : Bool :=
  let x := ofBe (slice key 0 32)
  let y := ofBe (slice key 32 32)
  let r := ofBe (slice sig 0 32)
  let s := ofBe (slice sig 32 32)
  let w := modInv s ecN
  let at' := ecAdd (ecMul (ofBe (slice hash 0 32) * w % ecN) ecG) (ecMul (r * w % ecN) (x, y))
  decide (0 < r) && decide (r < ecN) && decide (0 < s) && decide (s < ecN) && decide (x < ecP) && decide (y < ecP) &&
    decide (y * y % ecP = (x * x * x + 3 * (ecP - 1) * x + ecB) % ecP) &&
    (match at' with
     | some q => decide (q.1 % ecN = r)
     | none => false)

end Sys2Proof.Machine
end

