-- ==== Sys2Proof/Machine/F32.lean ====
section
/-!
DEFINITION. Machine/F32.lean: binary32 arithmetic as the cores do it (R123): exact results rounded to nearest even, subnormals
flushed to zero with the sign kept; sums of products, whose order the spec leaves open; the fixed-point formats (R124, R126).
-/

namespace Sys2Proof.Machine

open Sys2Proof

/-! ### Words -/

/-- A binary32 word is a NaN or infinite (R125). -/
def f32NonFinite (x : BitVec 32) : Bool := getField x 23 8 == 255

/-- A binary32 word is a NaN. -/
def f32IsNan (x : BitVec 32) : Bool := f32NonFinite x && getField x 0 23 != 0

/-- The sign bit. -/
def f32Sign (x : BitVec 32) : Bool := x.getLsbD 31

/-- The magnitude of a finite binary32 word in units of 2^−149 (subnormals are 0, R123). -/
def f32Mag (x : BitVec 32) : Nat :=
  let e := getField x 23 8
  if e = 0 then 0 else (2 ^ 23 + getField x 0 23) * 2 ^ (e - 1)

/-- A finite binary32 word in units of 2^−149. -/
def f32Int (x : BitVec 32) : Int := if f32Sign x then -(f32Mag x : Int) else f32Mag x

/-- A zero of a sign. -/
def f32Zero (neg : Bool) : BitVec 32 := if neg then 0x80000000 else 0

/-- An infinity of a sign. -/
def f32Inf (neg : Bool) : BitVec 32 := if neg then 0xFF800000 else 0x7F800000

/-- The NaN that an invalid operation gives; no rule lets anything tell one NaN from another (R125; log entry 11). -/
abbrev f32Nan : BitVec 32 := 0x7FC00000

/-- 1.0 as binary32. -/
abbrev f32One : BitVec 32 := 0x3F800000

/-- Round a magnitude to nearest even after dropping `k` low bits. -/
def rneShift (m k : Nat) : Nat :=
  let q := m / 2 ^ k
  let r := m % 2 ^ k
  if 2 * r < 2 ^ k then q else if 2 ^ k < 2 * r then q + 1 else q + q % 2

/-- The binary32 word nearest to ± m × 2^−k, ties to even; a result below the least normal number is a zero of its sign, one
beyond the greatest an infinity (R123). -/
def f32Round (neg : Bool) (m k : Nat) : BitVec 32 :=
  let l := Nat.log2 m
  let man := if l ≤ 23 then m * 2 ^ (23 - l) else rneShift m (l - 23)
  let bits : Int := ((l : Int) + 126 - k) * 2 ^ 23 + man
  if m = 0 ∨ bits < 2 ^ 23 then f32Zero neg
  else if 255 * 2 ^ 23 ≤ bits then f32Inf neg
  else BitVec.ofNat 32 ((if neg then 2 ^ 31 else 0) + bits.toNat)

/-! ### Operations (R123) -/

/-- The other sign. -/
def f32Neg (x : BitVec 32) : BitVec 32 := x ^^^ 0x80000000

/-- The magnitude of a word; a subnormal is 0. -/
def f32Abs (x : BitVec 32) : BitVec 32 := if getField x 23 8 = 0 then 0 else x &&& 0x7FFFFFFF

/-- The exact sum v × 2^−k rounded; an exact zero is positive unless both terms were negative. -/
def f32RoundSum (v : Int) (k : Nat) (bothNeg : Bool) : BitVec 32 :=
  if v = 0 then f32Zero bothNeg else f32Round (decide (v < 0)) v.natAbs k

/-- A product a × b plus c, rounded once. -/
def f32Fma (a b c : BitVec 32) : BitVec 32 :=
  let neg := f32Sign a != f32Sign b
  let big := f32NonFinite a || f32NonFinite b
  if f32IsNan a || f32IsNan b || f32IsNan c then f32Nan
  else if big && (f32Abs a == 0 || f32Abs b == 0) then f32Nan
  else if big then (if f32NonFinite c && f32Sign c != neg then f32Nan else f32Inf neg)
  else if f32NonFinite c then c
  else f32RoundSum (f32Int a * f32Int b + f32Int c * 2 ^ 149) 298 (neg && f32Sign c)

/-- A product. -/
def f32Mul (a b : BitVec 32) : BitVec 32 :=
  let neg := f32Sign a != f32Sign b
  if f32IsNan a || f32IsNan b then f32Nan
  else if f32NonFinite a || f32NonFinite b then (if f32Abs a == 0 || f32Abs b == 0 then f32Nan else f32Inf neg)
  else f32Round neg (f32Mag a * f32Mag b) 298

/-- A sum. -/
def f32Add (a b : BitVec 32) : BitVec 32 :=
  if f32IsNan a || f32IsNan b then f32Nan
  else if f32NonFinite a then (if f32NonFinite b && f32Sign a != f32Sign b then f32Nan else a)
  else if f32NonFinite b then b
  else f32RoundSum (f32Int a + f32Int b) 149 (f32Sign a && f32Sign b)

/-- A difference. -/
def f32Sub (a b : BitVec 32) : BitVec 32 := f32Add a (f32Neg b)

/-- A quotient. -/
def f32Div (a b : BitVec 32) : BitVec 32 :=
  let neg := f32Sign a != f32Sign b
  if f32IsNan a || f32IsNan b || (f32NonFinite a && f32NonFinite b) || (f32Abs a == 0 && f32Abs b == 0) then f32Nan
  else if f32NonFinite a || f32Abs b == 0 then f32Inf neg
  else if f32NonFinite b then f32Zero neg
  else
    let n := f32Mag a * 2 ^ 320
    f32Round neg (2 * (n / f32Mag b) + (if n % f32Mag b = 0 then 0 else 1)) 321

/-- Is the first of two words that are no NaN the smaller? -/
def f32Lt (a b : BitVec 32) : Bool :=
  let key (x : BitVec 32) : Int := if f32NonFinite x then (if f32Sign x then -(2 ^ 300) else 2 ^ 300) else f32Int x
  decide (key a < key b)

/-- The greater of two words. -/
def f32Max (a b : BitVec 32) : BitVec 32 := if f32Lt a b then b else a

/-- The smaller of two words. -/
def f32Min (a b : BitVec 32) : BitVec 32 := if f32Lt b a then b else a

/-! ### Sums of products (log entry 11) -/

/-- The order in which a sum of `n` terms takes them: a permutation that the spec leaves open. -/
def sumOrder (n : Nat) : List Nat :=
  let o := (Config.sumOrder n).eraseDups.filter (fun i => decide (i < n))
  o ++ (List.range n).filter (fun i => !o.contains i)

/-- A sum of products over a tree of additions that the spec leaves open; a product that joins a sum may round with it. -/
def f32Tree : Nat → List (BitVec 32 × BitVec 32) → BitVec 32
  | 0, _ => 0
  | k + 1, l =>
    let c := 1 + Config.sumSplit l.length % (l.length - 1)
    match l, l.drop c with
    | [], _ => 0
    | [p], _ => f32Mul p.1 p.2
    | _, [p] => if Config.macFused then f32Fma p.1 p.2 (f32Tree k (l.take c)) else f32Add (f32Tree k (l.take c)) (f32Mul p.1 p.2)
    | _, r => f32Add (f32Tree k (l.take c)) (f32Tree k r)

/-- A sum of products: every operation of R123, in an order the spec leaves open. -/
def f32Dot (l : List (BitVec 32 × BitVec 32)) : BitVec 32 :=
  f32Tree l.length ((sumOrder l.length).map (fun i => l.getD i (0, 0)))

/-- A sum. -/
def f32Sum (l : List (BitVec 32)) : BitVec 32 := f32Dot (l.map (fun x => (x, f32One)))

/-! ### Fixed-point formats (R124, R126) -/

/-- A number in units of 2^−k as binary32. -/
def f32OfFix (v : Int) (k : Nat) : BitVec 32 := f32Round (decide (v < 0)) v.natAbs k

/-- A parameter word in a format of R126 as binary32: integer, Q4.27, Q7.24, UQ16.16, binary32 itself. -/
def paramF32 (format : Nat) (w : BitVec 32) : BitVec 32 :=
  if format = 0 then f32OfFix w.toNat 0
  else if format = 1 then f32OfFix w.toInt 27
  else if format = 2 then f32OfFix w.toInt 24
  else if format = 3 then f32OfFix w.toNat 16
  else w

/-- A natural number as binary32. -/
def f32Nat (n : Nat) : BitVec 32 := f32OfFix n 0

/-- A gain that moves from `x` to `y` across a frame of 32 samples, at sample `i` (R142, R288). -/
def moveAt (x y : BitVec 32) (i : Nat) : BitVec 32 := f32Add x (f32Mul (f32Sub y x) (f32OfFix (i + 1) 5))

/-- A Q0.31 word as binary32: the word × 2^−31, rounded to nearest even (R123, R124). -/
def q31ToF32 (w : BitVec 32) : BitVec 32 := f32OfFix w.toInt 31

/-- A binary32 word limited to [−1.0, 1 − 2^−31], times 2^31, rounded to nearest even (R124). -/
def f32ToQ31 (x : BitVec 32) : BitVec 32 :=
  let m := rneShift (f32Mag x) 118
  if x.getLsbD 31 then BitVec.ofInt 32 (-(min m (2 ^ 31) : Nat))
  else BitVec.ofNat 32 (min m (2 ^ 31 - 1))

/-- A binary32 word limited to [−1.0, +1.0] (R124). -/
def f32Limit (x : BitVec 32) : BitVec 32 :=
  if 2 ^ 149 < f32Mag x then (if x.getLsbD 31 then 0xBF800000 else 0x3F800000) else x

end Sys2Proof.Machine
end

