-- ==== Sys2Proof/Machine/Gain.lean ====
section
/-!
DEFINITION. Machine/Gain.lean: zero-crossing switching, timeout ramps and fault ramps (R86 to R88), the switch gain and
the level gain of a stream context (R130 to R135).
-/

namespace Sys2Proof.Machine

/-! ### A gain that switches -/

/-- Gain 1.0 in units of 2^−24. -/
def gainOne : Int := 2 ^ 24

/-- Request gain 1 (`to`) or 0 (R86, R87): a waiting request that is reversed is cancelled, a running ramp turns back
from its present gain, and with a timeout of 0 the ramp starts at once. `len` is the length of a ramp. -/
def Sw.request (w : Sw) (goal : Bool) (timeout len : Nat) : Sw :=
  let t := if goal then gainOne else 0
  if 0 < w.left then (if w.target = t then w else { w with target := t, left := len })
  else if w.waiting then
    (if w.target = t then w else { w with waiting := false, target := w.gain })
  else if w.gain = t then { w with target := t }
  else if timeout = 0 then { w with target := t, left := len }
  else { w with target := t, waiting := true }

/-- The zero crossing came (R86). -/
def Sw.cross (w : Sw) : Sw := if w.waiting then { w with gain := w.target, waiting := false } else w

/-- The timeout passed without a zero crossing: a linear ramp of `len` samples starts (R86). -/
def Sw.expire (w : Sw) (len : Nat) : Sw := if w.waiting then { w with waiting := false, left := len } else w

/-- A fault ramp to 0 over 64 samples, from the present gain (R88). -/
def Sw.faultRamp (w : Sw) : Sw := { w with target := 0, left := 64, waiting := false }

/-- `n` samples of a ramp pass (R86, R88). -/
def Sw.advance (w : Sw) (n : Nat) : Sw :=
  if w.left = 0 then w
  else if w.left ≤ n then { w with gain := w.target, left := 0 }
  else { w with gain := w.gain + roundQ ((w.target - w.gain) * n) w.left, left := w.left - n }

/-- The gain waits or ramps (R86). -/
def Sw.busy (w : Sw) : Bool := w.waiting || decide (0 < w.left)

/-! ### Contexts -/

/-- The context carries control values (R134). -/
def State.ctxControl (s : State) (n : Nat) : Bool := s.on (F.DSPX_CTXn_CFG_CONTROL n)

/-- The zero-crossing timeout and ramp length of a context (R133): its port's for an input from a port slot, DSPX_ZC for
every other. -/
def State.ctxZc (s : State) (n : Nat) : Nat × Nat :=
  if s.rd (F.DSPX_CTXn_CFG_KIND n) = 1 then
    let p := s.rd (F.DSPX_CTXn_CFG_INDEX n) / 16
    (s.rd (F.PORTn_ZC_TIMEOUT_MS p), 2 ^ s.rd (F.PORTn_ZC_RAMP_LOG2 p))
  else (s.rd F.DSPX_ZC_TIMEOUT_MS, 2 ^ s.rd F.DSPX_ZC_RAMP_LOG2)

/-- Move the switch gain of an audio context towards what its source, its mute bit and its faults ask for (R133). -/
def State.ctxRetarget (s : State) (n : Nat) : State :=
  if s.ctxControl n then s
  else
    let c := s.ctx n
    let goal := c.srcOn && !c.fault && !s.on (F.DSPX_CTXn_CFG_MUTE n)
    if c.fault then s
    else s.setCtx n { c with sw := c.sw.request goal (s.ctxZc n).1 (s.ctxZc n).2 }

/-- A control context's source gives nothing: it holds its value and becomes STALE (R134, R135). -/
def State.ctxStale (s : State) (n : Nat) : State :=
  if s.on (F.DSPX_CTXn_STAT_STALE n) then s else (s.wr (F.DSPX_CTXn_STAT_STALE n) 1).ev A.DSPX_EVENT 25

/-- The context's source delivers and its slot switches in; a fault before it is over (R80, R93, R134). -/
def State.ctxIn (s : State) (n : Nat) : State :=
  if s.ctxControl n then
    (s.setCtx n { s.ctx n with srcOn := true }).wr (F.DSPX_CTXn_STAT_STALE n) 0
  else (s.setCtx n { s.ctx n with srcOn := true, fault := false, faultDue := false }).ctxRetarget n

/-- The context's slot switches out (R81, R89). A control context whose source stops holds its value and is stale
(R134). -/
def State.ctxOut (s : State) (n : Nat) : State :=
  if s.ctxControl n then (s.setCtx n { s.ctx n with srcOn := false }).ctxStale n
  else (s.setCtx n { s.ctx n with srcOn := false }).ctxRetarget n

/-- A fault of the context's source (R88, R134, R135): an audio context takes a fault ramp at the first sample of the
next input frame; a control context holds its last value and becomes STALE. -/
def State.ctxFault (s : State) (n : Nat) : State :=
  if s.ctxControl n then (s.setCtx n { s.ctx n with srcOn := false }).ctxStale n
  else if (s.ctx n).fault then s
  else s.setCtx n { s.ctx n with srcOn := false, fault := true, faultDue := true }

/-- The fault ramp of a context starts; it is counted (R88, R135). -/
def State.ctxFaultStart (s : State) (n : Nat) : State :=
  if (s.ctx n).faultDue then
    ((s.setCtx n { s.ctx n with faultDue := false, sw := (s.ctx n).sw.faultRamp }).bump F.DSPX_CNT_CTXFAULT).ev
      A.DSPX_EVENT 24
  else s

/-- STATE of DSPX_CTXn_STAT: 0 idle, 1 muted, 2 switching, 3 active, 4 fault ramp, 5 fault muted. -/
def State.ctxState (s : State) (n : Nat) : Nat :=
  let c := s.ctx n
  if c.fault then (if c.faultDue || decide (0 < c.sw.left) then 4 else 5)
  else if s.rd (F.DSPX_CTXn_CFG_KIND n) = 0 then 0
  else if c.sw.busy then 2
  else if c.sw.gain = 0 then 1
  else 3

/-- The level target of a context in units of 2^−40 (R132). -/
def State.ctxLevelTo (s : State) (n : Nat) : Int := s.rdI (F.DSPX_CTXn_LEVEL_TARGET n) * 2 ^ 13

/-- At an F32 frame boundary a level written since the last one starts its ramp, from the present level gain (R132); until then a
ramp in progress keeps its own target. -/
def State.ctxLevelStart (s : State) (n : Nat) : State :=
  let c := s.ctx n
  if c.levelDue then
    s.setCtx n { c with levelDue := false, levelGoal := s.ctxLevelTo n, levelLeft := 2 ^ s.rd (F.DSPX_CTXn_CFG_RAMP_LOG2 n) }
  else s

/-- `k` samples of a context pass: its level ramp and its switch ramp advance (R132). -/
def CtxSt.advance (c : CtxSt) (k : Nat) : CtxSt :=
  let c := { c with sw := c.sw.advance k }
  if c.levelLeft = 0 then c
  else if c.levelLeft ≤ k then { c with level := c.levelGoal, levelLeft := 0 }
  else { c with level := c.level + roundQ ((c.levelGoal - c.level) * k) c.levelLeft, levelLeft := c.levelLeft - k }

/-! ### Samples of a context -/

/-- A sample with the effective gain of its context (R132): unchanged at 1.0, 0 at 0; else the level gain (units of 2^−40) and the
switch gain (units of 2^−24) multiply it in binary32, in an order the spec leaves open (log entry 11). -/
def ctxGain (x : BitVec 32) (level sw : Int) : BitVec 32 :=
  let l := f32OfFix level 40
  let g := f32OfFix sw 24
  if level = 2 ^ 40 && sw = gainOne then x
  else if level = 0 || sw = 0 then 0
  else if Config.gainsFirst then f32Mul x (f32Mul l g)
  else f32Mul (f32Mul x l) g

/-- A sample enters an input context (R124, R132, R134): its gains apply and their ramps advance by one sample; a
control context takes the word as it is and is no longer STALE. The word is kept for an underrun to repeat (R27). -/
def State.collect (s : State) (n : Nat) (x w : BitVec 32) : State :=
  let c := s.ctx n
  if s.ctxControl n then (s.setCtx n { c with last := w, collected := c.collected ++ [w] }).wr (F.DSPX_CTXn_STAT_STALE n) 0
  else
    let y := ctxGain x c.level c.sw.gain
    s.setCtx n { c.advance 1 with last := w, collected := c.collected ++ [y] }

/-- A word of a port slot or a ring slot enters its context (R124). -/
def State.collectWord (s : State) (n : Nat) (w : BitVec 32) : State := s.collect n (q31ToF32 w) w

/-- The source of a context underruns: an audio context takes the source's last word again, a control context holds its value and
becomes STALE (R27, R134). -/
def State.collectLate (s : State) (n : Nat) (w : BitVec 32) : State := if s.ctxControl n then s.ctxStale n else s.collectWord n w

end Sys2Proof.Machine
end

