-- ==== Sys2Proof/Machine/RingOps.lean ====
section
/-!
DEFINITION. Machine/RingOps.lean: the checks of R100 and R419, and the biscuit queues of the ring (R112, R113, R116).
-/

namespace Sys2Proof.Machine

open Sys2Proof

/-- The map entry of a slot: bit 7 VALID, bits 6:0 the context (R78). -/
def mapEntry (w : BitVec 32) (slot : Nat) : Nat := getField w (8 * (slot % 4)) 8

/-- The contexts a list of map entries binds. -/
def boundCtxs (es : List Nat) : List Nat := (es.filter (fun e => decide (128 ≤ e))).map (fun e => e - 128)

/-- One bit of the CRC-8 with polynomial x⁸+x²+x+1 (R100, R419). -/
def crc8Bit (c : BitVec 8) : BitVec 8 := if c.getLsbD 7 then (c <<< 1) ^^^ 0x07 else c <<< 1

/-- The CRC-8 of R100 and R419 over a list of bytes, from `c`. -/
def crc8 : BitVec 8 → List (BitVec 8) → BitVec 8
  | c, [] => c
  | c, b :: t =>
    crc8 (crc8Bit (crc8Bit (crc8Bit (crc8Bit (crc8Bit (crc8Bit (crc8Bit (crc8Bit (c ^^^ b))))))))) t

/-- One bit of the CRC-32 of IEEE 802.3, reflected (R100; log entry 9). -/
def crc32Bit (c : BitVec 32) : BitVec 32 := if c.getLsbD 0 then (c >>> 1) ^^^ 0xEDB88320 else c >>> 1

/-- The running CRC-32 over a list of bytes. -/
def crc32Run : BitVec 32 → List (BitVec 8) → BitVec 32
  | c, [] => c
  | c, b :: t =>
    crc32Run (crc32Bit (crc32Bit (crc32Bit (crc32Bit (crc32Bit (crc32Bit (crc32Bit (crc32Bit
      (c ^^^ b.setWidth 32))))))))) t

/-- The CRC-32 of a list of bytes (R100, R44, R47; log entry 9). -/
def crc32 (b : List (BitVec 8)) : BitVec 32 := ~~~ crc32Run 0xFFFFFFFF b

/-- The bytes of a list of 32-bit words, little-endian (R2). -/
def wordBytes (ws : List (BitVec 32)) : List (BitVec 8) := ws.flatMap (fun w => leBytes 4 w.toNat)

/-- The 12 header bytes that the header CRC-8 covers (R100). -/
def ringHdrBytes (h : RingHeader) : List (BitVec 8) :=
  leBytes 4 h.j.toNat ++ leBytes 2 h.pos.toNat ++ leBytes 2 h.acc.toNat ++ leBytes 2 h.rlen.toNat ++ [h.ctrl, h.align]

/-- The header with its CRC-8 filled in. -/
def ringHdrSealed (h : RingHeader) : RingHeader := { h with crc := crc8 0 (ringHdrBytes h) }

/-- The header's CRC-8 is right. -/
def ringHdrOk (h : RingHeader) : Bool := h.crc == crc8 0 (ringHdrBytes h)

/-- ELECT of CTRL (R100). -/
def ringHdrElect (h : RingHeader) : Bool := h.ctrl.getLsbD 2

/-- Own position on the ring (R101). -/
def State.ringPos (s : State) : Nat := s.rd F.TRING_STAT_POSITION

/-- The ring state (table of ring states). -/
def State.ringState (s : State) : Nat := s.rd F.TRING_STAT_STATE

/-- The device emits ring frames as master. -/
def State.ringMaster (s : State) : Bool := s.on F.TRING_STAT_MASTER

/-- A biscuit from its fields; the CRC-8 over 0x00 to 0x0E fills the last byte (R113). -/
def biscuit (ty seq hop src : Nat) (payload : List (BitVec 8)) (status : Nat) : List (BitVec 8) :=
  let b := [BitVec.ofNat 8 ty, BitVec.ofNat 8 seq] ++ leBytes 2 hop ++ leBytes 2 src ++ slice payload 0 8 ++
    [BitVec.ofNat 8 status]
  b ++ [crc8 0 b]

/-- Queue a biscuit of the device's own (START, SYNC, REG_RSP go ahead of the others; R113). A full queue of 8 takes no
further one. -/
def State.ringQueue (s : State) (ahead : Bool) (b : List (BitVec 8)) : State :=
  if 8 ≤ s.ring.txq.length then s
  else
    let q := if ahead then s.ring.txq.filter (fun x => x.1) ++ [(true, b)] ++ s.ring.txq.filter (fun x => !x.1)
      else s.ring.txq ++ [(false, b)]
    { s with ring := { s.ring with txq := q, seq := (s.ring.seq + 1) % 256 } }

/-- The device takes its timebase from ring frames: the ring owns the rate and another device is the master (R103, R106). -/
def State.ringTimed (s : State) : Bool := decide (s.rd F.SYS_TSRC_SRC = 4) && !s.ringMaster

/-- The owner sample index now: a member's aligned index where the ring owns the rate and is locked, else that of the own
timebase (R103). -/
def State.ownerIndex (s : State) : Nat :=
  if s.ringTimed && s.on F.SYS_CLKSTAT_TSRC_LOCKED then s.ring.index
  else (32 * s.rd F.PORT_TBFRAME_COUNT + s.ring.phase) % 2 ^ 32

/-- The slot capacity C: 64 slots at 44.1 and 48 kHz, 32 at 88.2 and 96 kHz (R100). -/
def slotCapacity (fa : Nat) : Nat := if fa < 2 then 64 else 32

/-- The receive map entry of a ring slot. -/
def State.ringRx (s : State) (slot : Nat) : Nat := mapEntry (s.reg (A.TRING_RXMAPk (slot / 4))) slot

/-- The contexts bound to received ring slots. -/
def State.ringCtxs (s : State) : List Nat := boundCtxs ((List.range 64).map s.ringRx)

/-- The map word at `a` as it stands after the writes that wait for the frame boundary (R111). -/
def State.mapPendingWord (s : State) (a : Nat) : BitVec 32 :=
  match s.ring.mapDue.find? (fun p => p.1 == a) with
  | some p => p.2
  | none => s.reg a

end Sys2Proof.Machine
end

