-- ==== Sys2Proof/Machine/Ports.lean ====
section
/-!
DEFINITION. Machine/Ports.lean: the serial audio ports (R67 to R98).
-/

namespace Sys2Proof.Machine

open Sys2Proof

/-! ### States and policy -/

/-- Port state OFF (table of port states). -/
abbrev pOff : Nat := 0
/-- Port state ARMED. -/
abbrev pArmed : Nat := 1
/-- Port state STARTING. -/
abbrev pStarting : Nat := 2
/-- Port state RUNNING. -/
abbrev pRunning : Nat := 3
/-- Port state STOPPING. -/
abbrev pStopping : Nat := 4
/-- Port state FAULT_WAIT. -/
abbrev pFaultWait : Nat := 5
/-- Port state RESTARTING. -/
abbrev pRestarting : Nat := 6
/-- Port state HALTED. -/
abbrev pHalted : Nat := 7

/-- The state of port `n`. -/
def State.pState (s : State) (n : Nat) : Nat := s.rd (F.PORTn_STAT_STATE n)

/-- The port recovery policy of a port (R96). -/
structure PortPol where
  alignAction : Nat
  clockAction : Nat
  glitchLimit : Nat
  restartDelay : Nat
  maxAuto : Nat
  resumeFrames : Nat
  deriving DecidableEq, Repr

/-- The defaults of R96. -/
def PortPol.dflt : PortPol :=
  { alignAction := 0, clockAction := 0, glitchLimit := 4, restartDelay := 0, maxAuto := 10, resumeFrames := 64 }

/-- An entry of policy table 0x0005 (R96). -/
def PortPol.ofEntry (e : List (BitVec 8)) : PortPol :=
  { alignAction := u8 e 1, clockAction := u8 e 2, glitchLimit := u8 e 3, restartDelay := u16 e 4, maxAuto := u8 e 6,
    resumeFrames := u16 e 8 }

/-- An entry of policy table 0x0005 within its ranges (R96). -/
def portEntryOk (e : List (BitVec 8)) : Bool :=
  decide (u8 e 0 ≤ 3) && decide (u8 e 1 ≤ 1) && decide (u8 e 2 ≤ 1) && decide (1 ≤ u8 e 3) && decide (u8 e 3 ≤ 16) &&
  decide (u16 e 4 ≤ 4800) && decide (1 ≤ u8 e 6) && decide (u8 e 7 = 0) && decide (16 ≤ u16 e 8) &&
  decide (u16 e 8 ≤ 4096) && decide (u32 e 10 = 0) && decide (u16 e 14 = 0)

/-- The recovery policy of port `n`: its entry, or the defaults (R96). -/
def State.portPol (s : State) (n : Nat) : PortPol :=
  match (s.polEntries 5).find? (fun e => u8 e 0 == n) with
  | some e => PortPol.ofEntry e
  | none => PortPol.dflt

/-! ### Configuration (R67, R68, R76) -/

/-- Bit clocks of one slot, by the WIDTH code (R67). -/
def slotWidth (code : Nat) : Nat := if code = 0 then 16 else if code = 1 then 24 else 32

/-- Slots of a frame (R67, R71): the SLOTS field in TDM, two in the other formats. -/
def cfgSlots (mode slots : Nat) : Nat := if mode = 1 then slots + 1 else 2

/-- The port generates its clocks: MASTER, or IEC transmit (R71, R76). -/
def State.portMaster (s : State) (n : Nat) : Bool :=
  if s.rd (F.PORTn_CFG_MODE n) = 3 then s.on F.PORT3_IEC_CFG_DIR else s.on (F.PORTn_CFG_MASTER n)

/-- The port receives: RX_EN, in IEC mode with DIR at receive alone (R67, R71). -/
def State.portRx (s : State) (n : Nat) : Bool :=
  s.on (F.PORTn_CFG_RX_EN n) && (decide (s.rd (F.PORTn_CFG_MODE n) ≠ 3) || !s.on F.PORT3_IEC_CFG_DIR)

/-- The port transmits: TX_EN, in IEC mode with DIR at transmit alone (R67, R71). -/
def State.portTx (s : State) (n : Nat) : Bool :=
  s.on (F.PORTn_CFG_TX_EN n) && (decide (s.rd (F.PORTn_CFG_MODE n) ≠ 3) || s.on F.PORT3_IEC_CFG_DIR)

/-- Bit clocks of a sample of port `n`: the slot width, 24 bits in IEC mode (R67, R71). -/
def State.sampleBits (s : State) (n : Nat) : Nat :=
  if s.rd (F.PORTn_CFG_MODE n) = 3 then 24 else slotWidth (s.rd (F.PORTn_CFG_WIDTH n))

/-- Bit clocks of a frame of port `n`; 128 unit intervals in IEC mode (R67, R72). -/
def State.frameBits (s : State) (n : Nat) : Nat :=
  if s.rd (F.PORTn_CFG_MODE n) = 3 then 128
  else cfgSlots (s.rd (F.PORTn_CFG_MODE n)) (s.rd (F.PORTn_CFG_SLOTS n)) * slotWidth (s.rd (F.PORTn_CFG_WIDTH n))

/-- Is the word an allowed PORTn_CFG for port `n` (R67, R68, and the codes the field table refuses)? -/
def portCfgOk (n : Nat) (v : BitVec 32) : Bool :=
  let mode := getField v 0 2
  let fa := getField v 17 2
  let slots := cfgSlots mode (getField v 12 4)
  let width := getField v 10 2
  let bck := faHz fa * slots * slotWidth width
  if mode = 0 then decide (width ≠ 3)
  else if mode = 3 then decide (n = 3) && decide (width ≠ 3)
  else decide (width ≠ 3) && decide (1000000 ≤ bck) && decide (bck ≤ 24576000) &&
    (decide (mode = 2) || decide (slots ≤ (if fa < 2 then 16 else 8)))

/-- The bit clock of port `n` in hertz; in IEC transmit the unit-interval clock, 128 × Fa (R67, R75). -/
def State.portBck (s : State) (n : Nat) : Nat := faHz (s.rd (F.PORTn_CFG_FA n)) * s.frameBits n

/-- The divider that PORTn_MCLKDIV reports: 491.52 MHz ÷ bit clock as INT + NUM/DEN in lowest terms; DEN is 0 while the
port is no master (R76). A ratio too large for a field shows its low bits (log entry 149). -/
def State.portDivider (s : State) (n : Nat) : State :=
  if s.rd (F.PORTn_CFG_MODE n) ≠ 0 && s.portMaster n then
    let b := s.portBck n
    let r := 491520000 % b
    let g := Nat.gcd r b
    ((s.wr (F.PORTn_MCLKDIV_INT n) (491520000 / b)).wr (F.PORTn_MCLKDIV_NUM n) (r / g)).wr (F.PORTn_MCLKDIV_DEN n) (b / g)
  else s.setReg (A.PORTn_MCLKDIV n) 0

/-! ### Maps and bound contexts (R78) -/

/-- The receive map entry of a slot of port `n`. -/
def State.rxMap (s : State) (n slot : Nat) : Nat := mapEntry (s.reg (A.PORTn_RXMAPk n (slot / 4))) slot

/-- The transmit map entry of a slot of port `n`. -/
def State.txMap (s : State) (n slot : Nat) : Nat := mapEntry (s.reg (A.PORTn_TXMAPk n (slot / 4))) slot

/-- The contexts bound to received slots of port `n`. -/
def State.rxCtxs (s : State) (n : Nat) : List Nat := boundCtxs ((List.range 16).map (s.rxMap n))

/-- The contexts that the owner of the audio rate feeds: a port's or the ring's (R22, R23). -/
def State.ownerCtxs (s : State) : List Nat :=
  let src := s.rd F.SYS_TSRC_SRC
  if src < 4 then s.rxCtxs src else if src = 4 then s.ringCtxs else []

/-- The contexts bound to port `n`, received or transmitted, each once (R92). -/
def State.portCtxs (s : State) (n : Nat) : List Nat :=
  (s.rxCtxs n ++ boundCtxs ((List.range 16).map (s.txMap n))).eraseDups

/-- Is a slot enabled in the active mask? -/
def State.rxActive (s : State) (n slot : Nat) : Bool := (s.rd (F.PORTn_SLOTMASK_ACT_RX n)).testBit slot

/-- Is a transmit slot enabled in the active mask? -/
def State.txActive (s : State) (n slot : Nat) : Bool := (s.rd (F.PORTn_SLOTMASK_ACT_TX n)).testBit slot

/-- A received slot that is bound carries data to its context: it is enabled, or it was disabled and its gain has not reached 0
yet (R78, R87). -/
def State.rxCarries (s : State) (n slot : Nat) : Bool :=
  decide (128 ≤ s.rxMap n slot) && (s.rxActive n slot ||
    (let c := s.rxMap n slot - 128
     !s.ctxControl c && (decide ((s.ctx c).sw.gain ≠ 0) || (s.ctx c).sw.busy)))

/-- The receive slots whose map entries stand fast: enabled ones, and disabled ones whose gain has not reached 0 (R78, R87). -/
def State.rxFast (s : State) (n : Nat) : Nat :=
  (List.range 16).foldl (fun m k => if s.rxActive n k || s.rxCarries n k then m + 2 ^ k else m) 0

/-- The source of context `c` delivers: a port or the ring in RUNNING, a player, a generator, a graph (R130, R133). -/
def State.ctxSourced (s : State) (c : Nat) : Bool :=
  let kind := s.rd (F.DSPX_CTXn_CFG_KIND c)
  let index := s.rd (F.DSPX_CTXn_CFG_INDEX c)
  if kind = 1 then decide (s.rd (F.PORTn_STAT_STATE (index / 16)) = 3) && s.rxActive (index / 16) (index % 16)
  else if kind = 2 then decide (s.ringState = 4)
  else decide (kind ≠ 0)

/-- Every received slot that is enabled and bound switches its context in (R80, R86). -/
def State.portRxIn (s : State) (n : Nat) : State :=
  s.forAll 16 (fun k t => if t.rxActive n k && decide (128 ≤ t.rxMap n k) then t.ctxIn (t.rxMap n k - 128) else t)

/-- Request a transmit slot's gain (R86). -/
def State.txRequest (s : State) (n slot : Nat) (goal : Bool) : State :=
  let p := s.port n
  let w := Tbl.get Sw.off p.txSw slot
  let w' := w.request goal (s.rd (F.PORTn_ZC_TIMEOUT_MS n)) (2 ^ s.rd (F.PORTn_ZC_RAMP_LOG2 n))
  s.setPort n { p with txSw := Tbl.set Sw.off p.txSw slot w' }

/-- Every transmit slot that is enabled switches in, and a context that a fault of this port had muted switches in again where its
own source delivers (R86, R93). -/
def State.portTxIn (s : State) (n : Nat) : State :=
  s.forAll 16 (fun k t =>
    let c := t.txMap n k - 128
    let t := if 128 ≤ t.txMap n k ∧ (t.ctx c).fault = true ∧ t.ctxSourced c = true then t.ctxIn c else t
    if t.txActive n k then t.txRequest n k true else t)

/-- A fault ramp of every context bound to the port (R88, R92). -/
def State.portFaultRamp (s : State) (n : Nat) : State :=
  let t := s.forEach (s.portCtxs n) (fun c t => t.ctxFault c)
  t.setPort n { t.port n with faultRamp := true }

/-- Both FIFOs are flushed (R92, R95). -/
def State.portFlush (s : State) (n : Nat) : State :=
  s.setPort n { s.port n with rxFifo := [], txFifo := [], rxShift := 0, txShift := 0 }

/-- The owner's F32 frame now, with the two frames a start takes (R79, R82). -/
def State.startFrame (s : State) : Nat := (s.rd F.PORT_TBFRAME_COUNT + 2) % 2 ^ 32

/-- The port owns the audio rate: SYS_TSRC.SRC names it and it is no master (R22, R77). -/
def State.portOwner (s : State) (n : Nat) : Bool := decide (s.rd F.SYS_TSRC_SRC = n) && !s.portMaster n

/-- The port is foreign to the owner: it neither owns the rate nor is a master under the internal timebase (R77, R84). -/
def State.portForeign (s : State) (n : Nat) : Bool :=
  !s.portOwner n && !(s.portMaster n && s.rd F.SYS_TSRC_SRC = 5)

/-! ### Commands (R79) -/

/-- A command without effect is counted and flagged (R79). -/
def State.portIgnored (s : State) (n : Nat) : State := (s.bump (F.PORTn_CMDCNT_IGNORED n)).ev (A.PORTn_EVENT n) 15

/-- The port starts at frame S = k + 2 (R79, R80). -/
def State.portStartAt (s : State) (n f : Nat) : State := s.setPort n { s.port n with startAt := some f }

/-- The port enters OFF (R79, R81): FIFOs empty, ALIGN_SUSPECT cleared (R94), and a queued command executes. -/
def State.portEnterOff (s : State) (n : Nat) : State :=
  let p := s.port n
  let t := (s.wr (F.PORTn_STAT_STATE n) pOff).wr (F.PORTn_STAT_ALIGN_SUSPECT n) 0
  let t := (t.setPort n { p with queued := none, startAt := none, rxFifo := [], txFifo := [], restart := .none,
                                  faultRamp := false, frameSeen := false, drained := 0, txSw := [], rxShift := 0,
                                  txShift := 0, sent := [] }).wr
              (F.PORTn_STAT_START_QUEUED n) 0
  match p.queued with
  | some true => t.portStartAt n t.startFrame
  | some false => t.wr (F.PORTn_STAT_STATE n) pArmed
  | none => t

/-- Queue START or ARM while the port stops (R79). -/
def State.portQueue (s : State) (n : Nat) (start : Bool) : State :=
  (s.setPort n { s.port n with queued := some start }).wr (F.PORTn_STAT_START_QUEUED n) 1

/-- Cancel a queued command (R79). -/
def State.portUnqueue (s : State) (n : Nat) : State :=
  (s.setPort n { s.port n with queued := none }).wr (F.PORTn_STAT_START_QUEUED n) 0

/-- START (R79). -/
def State.cmdStart (s : State) (n : Nat) : State :=
  let st := s.pState n
  if st = pOff ∨ st = pHalted then s.portStartAt n s.startFrame
  else if st = pArmed then (s.wr (F.PORTn_STAT_STATE n) pOff).portStartAt n s.startFrame
  else if st = pStopping then s.portQueue n true
  else s.portIgnored n

/-- ARM (R79). -/
def State.cmdArm (s : State) (n : Nat) : State :=
  let st := s.pState n
  if st = pOff ∨ st = pHalted then s.wr (F.PORTn_STAT_STATE n) pArmed
  else if st = pStopping then s.portQueue n false
  else s.portIgnored n

/-- DISARM (R79). -/
def State.cmdDisarm (s : State) (n : Nat) : State :=
  let st := s.pState n
  if st = pArmed then s.portEnterOff n
  else if st = pStopping then (if (s.port n).queued.isSome then s.portUnqueue n else s)
  else s.portIgnored n

/-- STOP begins: every enabled slot mutes by zero crossing (R81). -/
def State.portStopping (s : State) (n : Nat) : State :=
  let t := s.wr (F.PORTn_STAT_STATE n) pStopping
  let t := t.forAll 16 (fun k t => if t.rxActive n k && decide (128 ≤ t.rxMap n k) then t.ctxOut (t.rxMap n k - 128) else t)
  let t := t.forAll 16 (fun k t => if t.txActive n k then t.txRequest n k false else t)
  t.setPort n { t.port n with drained := 0 }

/-- STOP (R79, R81). The state table says that only START leaves HALTED; the command table, followed here, lets ARM and STOP
leave it too (log entry 150). -/
def State.cmdStop (s : State) (n : Nat) : State :=
  let st := s.pState n
  if st = pStarting ∨ st = pRunning then s.portStopping n
  else if st = pArmed ∨ st = pFaultWait ∨ st = pRestarting ∨ st = pHalted then s.portEnterOff n
  else if st = pStopping then (if (s.port n).queued.isSome then s.portUnqueue n else s)
  else s.portIgnored n

/-- The muted restart begins (R95): RESTARTING, with a fault ramp of every bound context. -/
def State.portMutedRestart (s : State) (n : Nat) (auto : Bool) : State :=
  let t := (s.wr (F.PORTn_STAT_STATE n) pRestarting).portFaultRamp n
  t.setPort n { t.port n with restart := .ramping, restartAuto := auto }

/-- RESTART (R79, R95). -/
def State.cmdRestart (s : State) (n : Nat) : State :=
  let st := s.pState n
  if st = pStarting ∨ st = pRunning then s.portMutedRestart n false
  else if st = pStopping then s.portQueue n true
  else s.portIgnored n

/-- A write of PORTn_CTRL: one command per write; more than one command bit is ignored and counted (R79). -/
def State.portCtrlWrite (s : State) (n : Nat) (v : BitVec 32) : State :=
  let b := getField v 0 5
  if b = 0 then s
  else if b = 1 then s.cmdStart n
  else if b = 2 then s.cmdStop n
  else if b = 4 then s.cmdArm n
  else if b = 8 then s.cmdDisarm n
  else if b = 16 then s.cmdRestart n
  else s.bump (F.PORTn_CMDCNT_IGNORED n)

/-- PORT_START. -/
def execPortStart (n : Fin 4) (s : State) : Host.Outcome State Fault Refusal := .next (s.cmdStart n)
/-- PORT_ARM. -/
def execPortArm (n : Fin 4) (s : State) : Host.Outcome State Fault Refusal := .next (s.cmdArm n)
/-- PORT_DISARM. -/
def execPortDisarm (n : Fin 4) (s : State) : Host.Outcome State Fault Refusal := .next (s.cmdDisarm n)
/-- PORT_STOP. -/
def execPortStop (n : Fin 4) (s : State) : Host.Outcome State Fault Refusal := .next (s.cmdStop n)
/-- PORT_RESTART. -/
def execPortRestart (n : Fin 4) (s : State) : Host.Outcome State Fault Refusal := .next (s.cmdRestart n)

/-! ### Configuration writes -/

/-- A refused configuration or map write is counted (R67, R68, R78). -/
def State.portRefused (s : State) (n : Nat) : State := s.bump (F.PORTn_CMDCNT_CFG_REFUSED n)

/-- The bits of PORTn_CFG that fields occupy (R10). -/
def portCfgMask : BitVec 32 := 0x00FEFD33

/-- A PORTn_CFG write: accepted only in OFF and within R67 and R68 (R81). -/
def State.portCfgWrite (s : State) (n : Nat) (v : BitVec 32) : State :=
  if s.pState n = pOff && portCfgOk n v then (s.setReg (A.PORTn_CFG n) (v &&& portCfgMask)).portDivider n
  else s.portRefused n

/-- PORT_CFG_WRITE. -/
def execPortCfgWrite (n : Fin 4) (v : Word) (s : State) : Host.Outcome State Fault Refusal := .next (s.portCfgWrite n v)

/-- The contexts bound to received slots anywhere but in the map word at `a`: the ports' maps, the ring's map with the writes that
wait for the frame boundary, and contexts that a player voice or a generator feeds (R78, R111, R130). A port's write acts at
once, so for it the ring's map as it still stands counts too. -/
def State.rxTaken (s : State) (a : Nat) : List Nat :=
  let ports := (List.range 4).flatMap (fun n => (List.range 4).map (fun k => A.PORTn_RXMAPk n k))
  let ring := (List.range 16).map (fun k => A.TRING_RXMAPk k)
  let ctxs (w : BitVec 32) : List Nat := boundCtxs ((List.range 4).map (mapEntry w))
  let now := ((ports ++ if ring.contains a then [] else ring).filter (fun w => w != a)).flatMap (fun w => ctxs (s.reg w))
  let bound := now ++ (ring.filter (fun w => w != a)).flatMap (fun w => ctxs (s.mapPendingWord w))
  let own := (List.range 128).filter (fun c => decide (s.rd (F.DSPX_CTXn_CFG_KIND c) = 3 ∨ s.rd (F.DSPX_CTXn_CFG_KIND c) = 4))
  bound ++ own

/-- Does a receive map word bind a context twice, or one bound elsewhere (R78)? -/
def State.rxDuplicate (s : State) (a : Nat) (v : BitVec 32) : Bool :=
  let new := boundCtxs ((List.range 4).map (mapEntry v))
  let taken := s.rxTaken a
  decide (new.eraseDups.length ≠ new.length) || new.any (fun c => taken.contains c)

/-- The source fields of a context after its slot's binding changed (R78, R130): KIND 1 port or 2 ring, and the INDEX. -/
def State.ctxBind (s : State) (c kind index : Nat) : State :=
  (s.wr (F.DSPX_CTXn_CFG_KIND c) kind).wr (F.DSPX_CTXn_CFG_INDEX c) index

/-- A context loses its slot. -/
def State.ctxUnbind (s : State) (c : Nat) : State :=
  (s.ctxOut c).ctxBind c 0 0

/-- Does a map word change the entry of one of the enabled slots of `mask`, of the four slots from `4k` (R78)? -/
def mapTouchesActive (old v : BitVec 32) (mask k : Nat) : Bool :=
  (List.range 4).any (fun j => mask.testBit (4 * k + j) && decide (mapEntry old j ≠ mapEntry v j))

/-- A map write (R78): refused for a slot enabled in the active mask, for a received one that still carries data (R87) and for a
duplicate receive binding. A context whose KIND is 5, an output, is bound like any other (log entry 151). -/
def State.portMapWrite (s : State) (n : Nat) (tx : Bool) (k : Nat) (v : BitVec 32) : State :=
  if tx then
    let a := A.PORTn_TXMAPk n k
    if mapTouchesActive (s.reg a) v (s.rd (F.PORTn_SLOTMASK_ACT_TX n)) k then s.portRefused n else s.setReg a v
  else
    let a := A.PORTn_RXMAPk n k
    let old := s.reg a
    if mapTouchesActive old v (s.rxFast n) k || s.rxDuplicate a v then s.portRefused n
    else
      let changed := (List.range 4).filter (fun j => decide (mapEntry old j ≠ mapEntry v j))
      let t := s.setReg a v
      let t := t.forEach (boundCtxs (changed.map (mapEntry old))) (fun c t => t.ctxUnbind c)
      t.forEach changed (fun j t => if 128 ≤ mapEntry v j then t.ctxBind (mapEntry v j - 128) 1 (16 * n + (4 * k + j)) else t)

/-- PORT_MAP_WRITE. -/
def execPortMapWrite (n : Fin 4) (tx : Bool) (k : Fin 4) (v : Word) (s : State) : Host.Outcome State Fault Refusal :=
  .next (s.portMapWrite n tx k v)

/-- A write of PORTn_SLOTMASK (R89): pending for the frame boundary, or the one after it when it comes late in the frame. -/
def State.portSlotmask (s : State) (n : Nat) (v : BitVec 32) (late : Bool) : State :=
  let t := s.setReg (A.PORTn_SLOTMASK n) v
  t.setPort n { t.port n with maskPending := true, maskDefer := late && decide (s.rd (F.PORTn_CFG_MODE n) ≠ 3) }

/-- PORT_SLOTMASK_WRITE (R89): the pending mask; `late` tells that it reached the port in the last two bit clocks of a
frame. In IEC mode the deferral does not apply. -/
def execPortSlotmaskWrite (n : Fin 4) (v : Word) (late : Bool) (s : State) : Host.Outcome State Fault Refusal :=
  .next (s.portSlotmask n v late)

/-- The pending mask becomes active: the frame is recorded, MASK_APPLIED set, and slots switch in or out (R89). -/
def State.portMaskApply (s : State) (n : Nat) : State :=
  let old := s.reg (A.PORTn_SLOTMASK_ACT n)
  let new := s.reg (A.PORTn_SLOTMASK n)
  let t := s.setReg (A.PORTn_SLOTMASK_ACT n) new
  let t := (t.wr (F.PORTn_MASK_FRAME_VALUE n) (s.rd (F.PORTn_FRAMECNT_VALUE n) + 1)).ev (A.PORTn_EVENT n) 3
  let t := t.setPort n { t.port n with maskPending := false, maskDefer := false }
  if s.pState n = pRunning then
    t.forAll 16 (fun k t =>
      let rxOld := getField old k 1
      let rxNew := getField new k 1
      let txOld := getField old (16 + k) 1
      let txNew := getField new (16 + k) 1
      let t := if 128 ≤ t.rxMap n k then
          (if rxOld = 0 ∧ rxNew = 1 then t.ctxIn (t.rxMap n k - 128)
           else if rxOld = 1 ∧ rxNew = 0 then t.ctxOut (t.rxMap n k - 128) else t)
        else t
      if txOld = 0 ∧ txNew = 1 then t.txRequest n k true
      else if txOld = 1 ∧ txNew = 0 then t.txRequest n k false else t)
  else t

/-- PORT_MASK_APPLY: a frame boundary with a pending mask; a late one waits one frame more. A stopped port has no frame
boundary: its mask waits for its first frame (R89). -/
def execPortMaskApply (n : Fin 4) (s : State) : Host.Outcome State Fault Refusal :=
  let p := s.port n
  let st := s.pState n
  if !p.maskPending || decide (st = pOff) || decide (st = pArmed) || decide (st = pHalted) then .next s
  else if p.maskDefer then .next (s.setPort n { p with maskDefer := false })
  else .next (s.portMaskApply n)

/-! ### The common start trigger (R82) -/

/-- A trigger with start frame `f`: it is recorded, and every armed port starts at `f` (R82). -/
def State.portTrigger (s : State) (f : Nat) : State :=
  (s.wr F.PORT_GSTART_FRAME_S f).forAll 4 (fun n t => if t.pState n = pArmed then t.portStartAt n f else t)

/-- A register or SYNC trigger of this device (R82, R114): S = k + 2; with START_TX the device broadcasts START with
S = k + 4 and takes that S as its own. -/
def State.localTrigger (s : State) : State :=
  if s.on F.TRING_CFG_START_TX then
    let f := (s.rd F.PORT_TBFRAME_COUNT + 4) % 2 ^ 32
    (s.portTrigger f).ringQueue true (biscuit 0x01 s.ring.seq 0xFFFF s.ringPos (leBytes 4 f) 0)
  else s.portTrigger s.startFrame

/-- FIRE of PORT_GSTART: a register trigger when SRC is 0b00 (R82). -/
def State.gstartFire (s : State) : State := if s.rd F.PORT_GSTART_SRC = 0 then s.localTrigger else s

/-- PORT_GSTART_FIRE. -/
def execPortGstartFire (s : State) : Host.Outcome State Fault Refusal := .next s.gstartFire

/-! ### Start, stop and the way to RUNNING -/

/-- PORT_START_FRAME (R80, R83): at frame S the port enters STARTING with empty FIFOs; the mask written before takes
effect at its first frame (R89). -/
def execPortStartFrame (n : Fin 4) (s : State) : Host.Outcome State Fault Refusal :=
  let p := s.port n
  match p.startAt with
  | none => .next s
  | some _ =>
    let t := (s.wr (F.PORTn_STAT_STATE n) pStarting).setReg (A.PORTn_FRAMECNT n) 0
    let t := t.setPort n { p with startAt := none, rxFifo := [], txFifo := [], prevFrame := [], lastRead := [],
                                   faultRamp := false, frameSeen := false, restart := .none, glitches := [],
                                   cleanRun := 0, rxShift := 0, txShift := 0, txLast := [], sent := [], startPos := 0,
                                   firstAt := none }
    .next (if p.maskPending then t.portMaskApply n else t)

/-- The clocks run (a master) or a frame start has been seen (a slave); IEC lock is held in IEC receive mode; the
receive FIFO holds 4 frames where the port receives (R80). -/
def State.portReady (s : State) (n : Nat) : Bool :=
  (s.portMaster n || (s.port n).frameSeen) &&
  (decide (s.rd (F.PORTn_CFG_MODE n) ≠ 3) || s.on F.PORT3_IEC_CFG_DIR || s.on F.PORT3_IEC_STAT_LOCK) &&
  (!s.portRx n || decide (4 ≤ (s.port n).rxFifo.length))

/-- The first frame of a started port is delivered at the sample position of the owner sample period in which it started; the
positions before it carry zero (R83). -/
def State.portPlace (s : State) (n : Nat) : State :=
  match (s.port n).firstAt with
  | none => s
  | some p => s.forAll 16 (fun k t =>
      let c := t.rxMap n k - 128
      if t.rxActive n k && decide (128 ≤ t.rxMap n k) && !t.ctxControl c && (t.ctx c).collected.isEmpty then
        t.setCtx c { t.ctx c with collected := List.replicate (p % 32) 0 }
      else t)

/-- PORT_RUNNING_REACHED (R80, R83, R95): STARTED is set, or RESUMED at the end of a muted restart, which also clears
ALIGN_SUSPECT; the slots switch in by zero crossing. -/
def execPortRunningReached (n : Fin 4) (s : State) : Host.Outcome State Fault Refusal :=
  let st := s.pState n
  let restarting := st = pRestarting ∧ (s.port n).restart = .capturing
  if (st = pStarting ∨ restarting) ∧ s.portReady n then
    let t := s.wr (F.PORTn_STAT_STATE n) pRunning
    let t := if restarting then (t.wr (F.PORTn_STAT_ALIGN_SUSPECT n) 0).ev (A.PORTn_EVENT n) 2
      else t.ev (A.PORTn_EVENT n) 0
    let t := t.setPort n { t.port n with restart := .none, faultRamp := false }
    .next (((t.portPlace n).portRxIn n).portTxIn n)
  else .next s

/-- A clock fault (R92): the contexts take fault ramps, the FIFOs are flushed, the port waits in FAULT_WAIT; where it owns the
audio rate, the timing source is no longer locked (R23). -/
def State.portClockFault (s : State) (n : Nat) : State :=
  let t := ((s.portFaultRamp n).portFlush n).wr (F.PORTn_STAT_STATE n) pFaultWait
  let t := t.setPort n { t.port n with cleanRun := 0, restart := .none, firstAt := none }
  if s.portOwner n then t.tsrcUnlock else t

/-- The port is watched for clock faults: it starts, runs, stops or restarts. -/
def State.portWatched (s : State) (n : Nat) : Bool :=
  let st := s.pState n
  decide (st = pStarting ∨ st = pRunning ∨ st = pStopping ∨ st = pRestarting)

/-- PORT_START_TIMEOUT: a slave port without a frame start within 64 frame periods of S (R80). -/
def execPortStartTimeout (n : Fin 4) (s : State) : Host.Outcome State Fault Refusal :=
  if s.pState n = pStarting ∧ s.portMaster n = false ∧ (s.port n).frameSeen = false then
    .next (((s.portClockFault n).ev (A.PORTn_EVENT n) 4).bump (F.PORTn_ERRCNT_CLKLOSS n))
  else .next s

/-- The gain of a transmit slot of port `n`. -/
def State.txGain (s : State) (n slot : Nat) : Sw := Tbl.get Sw.off (s.port n).txSw slot

/-- Set the gain of a transmit slot. -/
def State.setTxGain (s : State) (n slot : Nat) (w : Sw) : State :=
  s.setPort n { s.port n with txSw := Tbl.set Sw.off (s.port n).txSw slot w }

/-- A slot or context of the port waits or ramps (ZC_PENDING, R86). -/
def State.zcPending (s : State) (n : Nat) : Bool :=
  (List.range 16).any (fun k => (s.txGain n k).busy) || (s.rxCtxs n).any (fun c => (s.ctx c).sw.busy)

/-- A stopping port is drained: its mutes are complete, and its transmit FIFO is empty or 8 frames have passed (R81). -/
def State.portDrained (s : State) (n : Nat) : Bool :=
  !s.zcPending n && (!s.portTx n || (s.port n).txFifo.isEmpty || decide (8 ≤ (s.port n).drained))

/-- PORT_STOP_DRAIN_DONE (R81): the port enters OFF and sets STOPPED; a queued command executes. -/
def execPortStopDrainDone (n : Fin 4) (s : State) : Host.Outcome State Fault Refusal :=
  if s.pState n = pStopping ∧ s.portDrained n = true then .next ((s.portEnterOff n).ev (A.PORTn_EVENT n) 1) else .next s

/-! ### Faults, slips, alignment -/

/-- A slip (R84, R135): counted at the port and at every context bound to it, and flagged. -/
def State.slipCount (s : State) (n : Nat) (isRepeat : Bool) : State :=
  let t := if isRepeat then s.bump (F.PORTn_SLIP_REPEAT n) else s.bump (F.PORTn_SLIP_DROP n)
  (t.forEach (s.portCtxs n) (fun c t => t.bump (F.DSPX_CTXn_SLIP_COUNT c))).ev (A.PORTn_EVENT n) 11

/-- One automatic resumption or restart more (R93, R95): it is counted, and the number of the last 60 s decides whether
the port halts. -/
def State.portAuto (s : State) (n : Nat) : State × Bool :=
  let p := s.port n
  let ts := s.now :: s.recent p.autoTimes 60000000
  ((s.bump (F.PORTn_CMDCNT_AUTO_RESTART n)).setPort n { p with autoTimes := ts },
    decide ((s.portPol n).maxAuto ≤ ts.length))

/-- The port halts (R93). -/
def State.portHalt (s : State) (n : Nat) : State := (s.wr (F.PORTn_STAT_STATE n) pHalted).ev (A.PORTn_EVENT n) 7

/-- An ALIGN event (R94, R95): flagged; with ALIGN_ACTION 1 it starts an automatic muted restart, unless one runs. -/
def State.alignEvent (s : State) (n : Nat) : State :=
  let t := (s.wr (F.PORTn_STAT_ALIGN_SUSPECT n) 1).ev (A.PORTn_EVENT n) 10
  if t.pState n = pRestarting then t
  else if (t.portPol n).alignAction = 1 ∧ (t.pState n = pRunning ∨ t.pState n = pStarting) then
    let r := t.portAuto n
    if r.2 then ((r.1.portFaultRamp n).portFlush n).portHalt n else r.1.portMutedRestart n true
  else t

/-- Slots of a frame of port `n` (R67). -/
def State.portSlots (s : State) (n : Nat) : Nat := cfgSlots (s.rd (F.PORTn_CFG_MODE n)) (s.rd (F.PORTn_CFG_SLOTS n))

/-- The word of a FIFO's frame that goes to slot `k` when the words stand shifted (R94). -/
def State.slotFrom (s : State) (n shift k : Nat) (fr : List (BitVec 32)) : BitVec 32 :=
  fr.getD (if shift = 0 then k else (k + shift) % s.portSlots n) 0

/-- The words of a direction are shifted against the slots by a free number of slots, 0 included (R94; log entry 60). -/
def State.slotShifted (s : State) (n : Nat) (tx : Bool) : State :=
  let d := s.draw 4
  let p := d.2.port n
  d.2.setPort n (if tx then { p with txShift := (p.txShift + d.1) % 16 } else { p with rxShift := (p.rxShift + d.1) % 16 })

/-- An overrun or underrun (R94): counted and flagged outside a fault ramp; in TDM the slots may be shifted. -/
def State.portXrun (s : State) (n : Nat) (tx overrun : Bool) : State :=
  if (s.port n).faultRamp then s
  else
    let t := if overrun then (s.bump (F.PORTn_ERRCNT_OVERRUN n)).ev (A.PORTn_EVENT n) 8
      else (s.bump (F.PORTn_ERRCNT_UNDERRUN n)).ev (A.PORTn_EVENT n) 9
    if s.rd (F.PORTn_CFG_MODE n) = 1 then (t.slotShifted n tx).alignEvent n else t

/-- PORT_OVERRUN_UNDERRUN: counted and flagged by its kind; `tx` tells the direction whose slots may be shifted. -/
def execPortOverrunUnderrun (n : Fin 4) (tx : Bool) (overrun : Bool) (s : State) : Host.Outcome State Fault Refusal :=
  .next (s.portXrun n tx overrun)

/-- PORT_SLIP (R84): on receive a fill of 6 drops the newest frame and a fill of 2 repeats the last frame read; on
transmit a low fill repeats and a high fill drops. Only a foreign port slips (R85). -/
def execPortSlip (n : Fin 4) (tx : Bool) (s : State) : Host.Outcome State Fault Refusal :=
  let p := s.port n
  if !s.portForeign n then .next s
  else if tx then
    (if 6 ≤ p.txFifo.length then .next ((s.setPort n { p with txFifo := p.txFifo.dropLast }).slipCount n false)
     else if p.txFifo.length ≤ 2 then .next ((s.setPort n { p with txFifo := p.txLast :: p.txFifo }).slipCount n true)
     else .next s)
  else
    (if 6 ≤ p.rxFifo.length then .next ((s.setPort n { p with rxFifo := p.rxFifo.dropLast }).slipCount n false)
     else if p.rxFifo.length ≤ 2 then .next ((s.setPort n { p with rxFifo := p.lastRead :: p.rxFifo }).slipCount n true)
     else .next s)

/-- CLK_LOSS (R91, R92): on a slave port, or in IEC receive mode. -/
def State.clkLoss (s : State) (n : Nat) : State :=
  if s.portWatched n then
    ((((s.portClockFault n).ev (A.PORTn_EVENT n) 4).bump (F.PORTn_ERRCNT_CLKLOSS n)).wr (F.PORTn_STAT_CLK_PRESENT n) 0)
  else s.wr (F.PORTn_STAT_CLK_PRESENT n) 0

/-- CLK_LOSS: clock loss is watched on slave ports (R91). -/
def execClkLoss (n : Fin 4) (s : State) : Host.Outcome State Fault Refusal :=
  if s.portMaster n then .next s
  else
    let t := s.clkLoss n
    .next (if n.val = 3 then t.wr F.PORT3_IEC_STAT_LOCK 0 else t)

/-- The nearest standard rate within ±0.5 % of a frame period in 491.52 MHz cycles, UQ16.8, coded as MEAS_FA (R91). -/
def measFa (period : Nat) : Nat :=
  let near := fun fa => decide ((period * fa) * 1000 ≤ 491520000 * 256 * 1005) && decide (491520000 * 256 * 995 ≤ (period * fa) * 1000)
  if near 44100 then 1 else if near 48000 then 2 else if near 88200 then 3 else if near 96000 then 4 else 0

/-- Is a frame period within `ppm` of the configured Fa (R91, R93)? -/
def periodWithin (period fa ppm : Nat) : Bool :=
  decide (period * fa * 1000000 ≤ 491520000 * 256 * (1000000 + ppm)) &&
  decide (491520000 * 256 * (1000000 - ppm) ≤ period * fa * 1000000)

/-- RATE_FAULT (R91, R92): the period measured over 16 frames is more than 1000 ppm off. -/
def execRateFault (n : Fin 4) (period : BitVec 24) (s : State) : Host.Outcome State Fault Refusal :=
  let fa := faHz (s.rd (F.PORTn_CFG_FA n))
  if periodWithin period.toNat fa 1000 then .next s
  else
    let t := s.wr (F.PORTn_STAT_RATE_OK n) 0
    if t.portWatched n then
      .next (((t.portClockFault n).ev (A.PORTn_EVENT n) 6).bump (F.PORTn_ERRCNT_CLKLOSS n))
    else .next t

/-- PORT_RESUME (R93): after RESUME_FRAMES clean frames the port starts afresh, or halts under CLOCK_ACTION 1 or when
MAX_AUTO is reached. -/
def execPortResume (n : Fin 4) (s : State) : Host.Outcome State Fault Refusal :=
  let pol := s.portPol n
  if s.pState n = pFaultWait ∧ pol.resumeFrames ≤ (s.port n).cleanRun then
    if pol.clockAction = 1 then .next (s.portHalt n)
    else
      let r := s.portAuto n
      if r.2 then .next (r.1.portHalt n)
      else
        let t := ((r.1.wr (F.PORTn_STAT_STATE n) pStarting).setReg (A.PORTn_FRAMECNT n) 0).ev (A.PORTn_EVENT n) 2
        .next (t.setPort n { t.port n with rxFifo := [], txFifo := [], glitches := [], frameSeen := true,
                                            faultRamp := false, firstAt := none })
  else .next s

/-- PORT_RESTART_CAPTURE (R95): after the ramp, the flush and RESTART_DELAY, capture begins at slot 0. -/
def execPortRestartCapture (n : Fin 4) (s : State) : Host.Outcome State Fault Refusal :=
  if s.pState n = pRestarting ∧ (s.port n).restart = .ramping then
    let t := s.portFlush n
    .next (t.setPort n { t.port n with restart := .capturing, frameSeen := true })
  else .next s

/-! ### Frames -/

/-- A received word keeps the bits of its slot width; the others are 0 (R69). -/
def slotWord (width : Nat) (w : BitVec 32) : BitVec 32 :=
  BitVec.ofNat 32 (w.toNat / 2 ^ (32 - width) * 2 ^ (32 - width))

/-- The word a received slot carries out of a FIFO's frame: 0 while NONAUDIO is set in IEC mode (R74, R94). -/
def State.rxSlotWord (s : State) (n k : Nat) (fr : List (BitVec 32)) : BitVec 32 :=
  if s.rd (F.PORTn_CFG_MODE n) = 3 ∧ s.on F.PORT3_IEC_STAT_NONAUDIO = true then 0 else s.slotFrom n (s.port n).rxShift k fr

/-- One frame of the receive FIFO goes to the DSP: each slot that carries data delivers its word to its context (R78, R83, R87); a
frame that an underrun repeats leaves a control context stale (R134). -/
def State.deliver (s : State) (n : Nat) (late : Bool) (fr : List (BitVec 32)) : State :=
  s.forAll 16 (fun k t =>
    if !t.rxCarries n k then t
    else if late then t.collectLate (t.rxMap n k - 128) (t.rxSlotWord n k fr)
    else t.collectWord (t.rxMap n k - 128) (t.rxSlotWord n k fr))

/-- The DSP reads one frame of the receive FIFO (R84, R94): a foreign port whose fill would fall to 2 repeats the last
frame as a slip; an empty FIFO repeats it as an underrun. -/
def State.rxRead (s : State) (n : Nat) : State :=
  let p := s.port n
  match p.rxFifo with
  | [] => (s.portXrun n false false).deliver n true p.lastRead
  | f :: rest =>
    if s.portForeign n && decide (rest.length ≤ 2) then (s.slipCount n true).deliver n false p.lastRead
    else (s.setPort n { p with rxFifo := rest, lastRead := f }).deliver n false f

/-- A frame is written to the receive FIFO (R84, R94): a foreign port whose fill would rise to 6 drops it as a slip; a
full FIFO loses it as an overrun. -/
def State.rxWrite (s : State) (n : Nat) (fr : List (BitVec 32)) : State :=
  let p := s.port n
  if s.portForeign n && decide (5 ≤ p.rxFifo.length) then s.slipCount n false
  else if 8 ≤ p.rxFifo.length then s.portXrun n false true
  else s.setPort n { p with rxFifo := p.rxFifo ++ [fr], prevFrame := fr }

/-- The DSP's word for a transmit slot: the playing sample of its context, 0 where the slot is not bound (R78). -/
def State.txWord (s : State) (n slot pos : Nat) : BitVec 32 :=
  let e := s.txMap n slot
  if e < 128 then 0
  else
    match s.dsp.playing.2.find? (fun p => p.1 == e - 128) with
    | some p => p.2.getD pos 0
    | none => 0

/-- The DSP writes one frame to the transmit FIFO (R84, R94). -/
def State.txWrite (s : State) (n : Nat) : State :=
  let p := s.port n
  let fr := (List.range 16).map (fun k => s.txWord n k p.txPos)
  let t := s.setPort n { p with txPos := p.txPos + 1 }
  if s.portForeign n && decide (5 ≤ p.txFifo.length) then t.slipCount n false
  else if 8 ≤ p.txFifo.length then t.portXrun n true true
  else t.setPort n { t.port n with txFifo := p.txFifo ++ [fr] }

/-- What DOUT carries where no slot drives data: 0, or high impedance with TX_HIZ (R70). -/
def State.idleWord (s : State) (n : Nat) : Option (BitVec 32) := if s.on (F.PORTn_CFG_TX_HIZ n) then none else some 0

/-- The word a transmit slot puts on the line: its slot's gain, cut to the slot width; a slot that is not enabled drives 0 or
high impedance (R69, R70, R86). -/
def State.lineWord (s : State) (n slot : Nat) (w : BitVec 32) : Option (BitVec 32) :=
  let g := (s.txGain n slot).gain
  if s.txActive n slot || (g != 0) then
    some (slotWord (s.sampleBits n) (BitVec.ofInt 32 (roundQ (w.toInt * g) (2 ^ 24))))
  else s.idleWord n

/-- A frame goes out at DOUT, and the ramps of its slots advance by one sample (R70, R75, R86). -/
def State.putFrame (s : State) (n : Nat) (fr : List (BitVec 32)) : State :=
  let t := s.setPort n { s.port n with
    sent := (List.range 16).map (fun k => s.lineWord n k (s.slotFrom n (s.port n).txShift k fr)),
    sentV := s.on F.PORT3_IEC_CFG_TX_V || (boundCtxs ((List.range 2).map (s.txMap n))).any (fun c => (s.ctx c).fault) }
  t.forAll 16 (fun k t => t.setTxGain n k ((t.txGain n k).advance 1))

/-- The port sends a frame (R70, R84, R94); an empty FIFO repeats the last one (R27). A port that drains sends what its FIFO
still holds (R81). -/
def State.txSend (s : State) (n : Nat) (draining : Bool) : State :=
  let p := s.port n
  match p.txFifo with
  | [] => if draining then s else (s.portXrun n true false).putFrame n p.txLast
  | f :: rest =>
    if s.portForeign n && decide (rest.length ≤ 2) && !draining then (s.slipCount n true).putFrame n f
    else (s.setPort n { p with txFifo := rest, txLast := f }).putFrame n f

/-! ### Pins (R70) -/

/-- What a pin of a port does: it is driven low, left in high impedance, an input, or it carries what the port sends. -/
inductive PortPin
  | low | hiZ | input | active
  deriving DecidableEq, Repr

/-- The port drives data on DOUT: it runs, or it mutes before a stop or a restart; a master under a clock fault keeps its clocks and
its last frame (R92). -/
def State.portDrives (s : State) (n : Nat) : Bool :=
  let st := s.pState n
  s.portTx n && decide (st = pRunning ∨ st = pStopping ∨ st = pRestarting ∨ (st = pFaultWait ∧ s.portMaster n = true))

/-- DOUT of a port that sends nothing: low, or high impedance with TX_HIZ (R70, R92). -/
def State.doutPin (s : State) (n : Nat) : PortPin :=
  if s.portDrives n then .active else if s.on (F.PORTn_CFG_TX_HIZ n) then .hiZ else .low

/-- A slot as it stands on DOUT: none is high impedance (R70). -/
def State.doutSlot (s : State) (n slot : Nat) : Option (BitVec 32) :=
  if s.portDrives n then (s.port n).sent.getD slot (s.idleWord n) else s.idleWord n

/-- BCLK and FS: a slave's are inputs, a master drives them low in OFF, and in IEC mode they stand in high impedance (R70, R71). -/
def State.clockPins (s : State) (n : Nat) : PortPin :=
  if s.rd (F.PORTn_CFG_MODE n) = 3 then .hiZ
  else if !s.portMaster n then .input
  else if s.pState n = pOff then .low
  else .active

/-- The edges of the bit clock, true rising: the one that launches DOUT and the one that samples DIN and FS (R70). -/
def State.portEdges (s : State) (n : Nat) : Bool × Bool :=
  (s.on (F.PORTn_CFG_BCLK_EDGE n), !s.on (F.PORTn_CFG_BCLK_EDGE n))

/-- Is the frame a glitch frame (R91)? -/
def State.isGlitch (s : State) (n : Nat) (f : PortFrame) : Bool :=
  if s.rd (F.PORTn_CFG_MODE n) = 3 then f.parityErr0 || f.parityErr1 || f.preambleErr else decide (f.bits ≠ s.frameBits n)

/-- The received words of a frame as they enter the FIFO (R69, R71, R74): cut to the slot width; in IEC mode a subframe flagged
invalid is 0 under VAL_MUTE. -/
def State.rxWords (s : State) (n : Nat) (f : PortFrame) : List (BitVec 32) :=
  if s.rd (F.PORTn_CFG_MODE n) = 3 then
    let mute := s.on F.PORT3_IEC_CFG_VAL_MUTE
    [if mute && f.invalid0 then 0 else slotWord 24 (f.words.getD 0 0),
     if mute && f.invalid1 then 0 else slotWord 24 (f.words.getD 1 0)]
  else f.words.map (slotWord (s.sampleBits n))

/-- The IEC counters of a frame (R74). -/
def State.iecCounts (s : State) (n : Nat) (f : PortFrame) : State :=
  if s.rd (F.PORTn_CFG_MODE n) ≠ 3 then s
  else
    let t := s.when f.parityErr0 (fun t => t.bump F.PORT3_IEC_CNT_PARITY)
    let t := t.when f.parityErr1 (fun t => t.bump F.PORT3_IEC_CNT_PARITY)
    let t := t.when f.invalid0 (fun t => (t.bump F.PORT3_IEC_CNT_VALIDITY).ev (A.PORTn_EVENT n) 14)
    t.when f.invalid1 (fun t => (t.bump F.PORT3_IEC_CNT_VALIDITY).ev (A.PORTn_EVENT n) 14)

/-- The frame's period enters the average of 256 frames that PORTn_MEAS reports, once for each 256 frames and rounded down (log
entry 152), and the frame counts as clean or not (R91, R93). -/
def State.measure (s : State) (n : Nat) (f : PortFrame) (glitch : Bool) : State :=
  let fa := faHz (s.rd (F.PORTn_CFG_FA n))
  let p := s.port n
  let marks := (glitch :: p.glitches).take 256
  let clean := if !glitch && periodWithin f.period fa 800 then p.cleanRun + 1 else 0
  let t := s.setPort n { p with glitches := marks, cleanRun := clean, frameSeen := true,
                                 periodSum := p.periodSum + f.period, periodCnt := p.periodCnt + 1 }
  let t := t.wr (F.PORTn_STAT_CLK_PRESENT n) 1
  if 256 ≤ p.periodCnt + 1 then
    let avg := (p.periodSum + f.period) / (p.periodCnt + 1)
    let t := ((t.wr (F.PORTn_MEAS_PERIOD n) avg).wr (F.PORTn_STAT_MEAS_FA n) (measFa avg)).wrB (F.PORTn_STAT_RATE_OK n)
      (periodWithin avg fa 1000)
    t.setPort n { t.port n with periodSum := 0, periodCnt := 0 }
  else t

/-- A glitch frame is counted; the glitch limit of the policy within 256 frames is a clock fault (R91, R92). -/
def State.glitchFrame (s : State) (n : Nat) : State :=
  let t := s.bump (F.PORTn_ERRCNT_GLITCH n)
  let hits := ((t.port n).glitches.filter (fun b => b)).length
  if (t.portPol n).glitchLimit ≤ hits ∧ t.portWatched n then
    let t := (t.portClockFault n).ev (A.PORTn_EVENT n) 5
    t.setPort n { t.port n with glitches := [] }
  else t

/-- One owner sample period of the DSP: it reads a frame of the receive FIFO and writes one of the transmit FIFO (R84). Receive
ends with the last mute of a stop; a port that starts fills its transmit FIFO to 4 frames. -/
def State.dspPeriod (s : State) (n : Nat) (muted : Bool) : State :=
  let st := s.pState n
  let capturing := decide (st = pRestarting ∧ (s.port n).restart = .capturing)
  let runs := decide (st = pRunning) || (decide (st = pStopping) && !muted) || (decide (st = pRestarting) && !capturing)
  let fills := (decide (st = pStarting) || capturing) && decide ((s.port n).txFifo.length < 4)
  let t := if runs && s.portRx n then s.rxRead n else s
  if (runs || fills) && s.portTx n then t.txWrite n else t

/-- The frame enters and leaves the FIFOs: the pins' frame first, then the owner sample periods that end with it. With the last
mute of a stop the receive FIFO is discarded and the transmit FIFO drains (R81). -/
def State.frameData (s : State) (n : Nat) (f : PortFrame) (glitch : Bool) : State :=
  let st := s.pState n
  let muted := decide (st = pStopping) && !s.zcPending n
  let capturing := decide (st = pStarting) || decide (st = pRunning) || (decide (st = pStopping) && !muted) ||
    decide (st = pRestarting ∧ (s.port n).restart = .capturing)
  let p := s.port n
  let t := if muted then s.setPort n { p with rxFifo := [], drained := p.drained + 1 } else s
  let t := if decide (st = pStarting) && s.portRx n then
      t.setPort n { p with firstAt := some (p.firstAt.getD p.startPos), startPos := p.startPos + f.dspReads } else t
  let t := if capturing && s.portRx n then t.rxWrite n (if glitch then p.prevFrame else s.rxWords n f) else t
  let sends := decide (st = pRunning) || decide (st = pStopping) || decide (st = pRestarting ∧ p.restart = .ramping)
  let t := if sends && s.portTx n then
      (if st = pRunning ∧ p.txFifo = [] ∧ p.txLast = [] then t.txWrite n else t).txSend n muted else t
  t.forAll f.dspReads (fun _ t => t.dspPeriod n muted)

/-- PORT_RX_FRAME (R69, R84, R90, R91, R94): a frame passes at the pins of a port that is not stopped. A frame whose start lies
before frame S is none of a port that starts (R83; log entry 153). -/
def execPortRxFrame (n : Fin 4) (f : PortFrame) (s : State) : Host.Outcome State Fault Refusal :=
  let st := s.pState n
  if st = pOff ∨ st = pArmed ∨ st = pHalted then .next s
  else
    let g := s.isGlitch n f
    let t := ((s.bumpWrap (F.PORTn_FRAMECNT_VALUE n)).iecCounts n f).measure n f g
    let t := if g then t.glitchFrame n else t
    .next (if t.pState n = pFaultWait then t else t.frameData n f g)

/-! ### IEC 60958 on PORT3 -/

/-- IEC_LOCK (R72): two B preambles exactly 192 frames apart, with correct parity between them. -/
def execIecLock (sinceB : Nat) (parityOk : Bool) (s : State) : Host.Outcome State Fault Refusal :=
  if s.rd (F.PORTn_CFG_MODE 3) = 3 ∧ s.on F.PORT3_IEC_CFG_DIR = false ∧ sinceB = 192 ∧ parityOk = true then
    .next (s.wr F.PORT3_IEC_STAT_LOCK 1)
  else .next s

/-- The word of channel status bytes 4k to 4k+3 (R73). -/
def csWord (cs : BitVec 192) (k : Nat) : BitVec 32 := (cs >>> (32 * k)).setWidth 32

/-- The six channel status words that start at address `a`, as one value. -/
def State.csBits (s : State) (a : Nat) : BitVec 192 :=
  (List.range 6).foldl (fun acc k => acc ||| ((s.reg (a + 4 * k)).setWidth 192 <<< (32 * k))) 0

/-- IEC_BLOCK_END (R73, R74): a status seen in two blocks in a row is taken; PRO and NONAUDIO follow bits 0 and 1 of it;
CS_AB_DIFF tells whether the two subframes' status differs. -/
def execIecBlockEnd (csA csB : BitVec 192) (s : State) : Host.Outcome State Fault Refusal :=
  let p := s.port 3
  let t := (s.setPort 3 { p with csPrev := some csA }).wrB F.PORT3_IEC_STAT_CS_AB_DIFF (csA != csB)
  if p.csPrev = some csA ∧ s.csBits (A.PORT3_CS_RXk 0) ≠ csA then
    let t := t.forAll 6 (fun k t => t.setReg (A.PORT3_CS_RXk k) (csWord csA k))
    let t := (t.wrB F.PORT3_IEC_STAT_PRO (csA.getLsbD 0)).wrB F.PORT3_IEC_STAT_NONAUDIO
      (csA.getLsbD 1 && !csA.getLsbD 0)
    .next (t.ev (A.PORTn_EVENT 3) 13)
  else .next t

/-- IEC_TX_BLOCK_START (R75): the status to send is taken from PORT3_CS_TX0 to PORT3_CS_TX5. -/
def execIecTxBlockStart (s : State) : Host.Outcome State Fault Refusal :=
  .next (s.setPort 3 { s.port 3 with csTx := s.csBits (A.PORT3_CS_TXk 0) })

end Sys2Proof.Machine
end

