-- ==== Sys2Proof/Machine/Ring.lean ====
section
/-!
DEFINITION. Machine/Ring.lean: the Treras ring: frames, election, breaks, slots (R99 to R111, R117 to R121). The biscuits
stand in Biscuit.lean.
-/

namespace Sys2Proof.Machine

open Sys2Proof

/-- Ring state OFF (table of ring states). -/
abbrev rOff : Nat := 0
/-- Ring state PASS. -/
abbrev rPass : Nat := 1
/-- Ring state ELECT. -/
abbrev rElect : Nat := 2
/-- Ring state LOCKING. -/
abbrev rLocking : Nat := 3
/-- Ring state RUNNING. -/
abbrev rRunning : Nat := 4
/-- Ring state DEGRADED. -/
abbrev rDegraded : Nat := 5
/-- Ring state HALTED. -/
abbrev rHalted : Nat := 6

/-- The ring policy entry (R121), none where table 0x0006 is absent. -/
def State.ringEntry (s : State) : Option (List (BitVec 8)) := (s.polEntries 6).head?

/-- The position that owns a slot; 0xFFFF is none (R111, R121). -/
def State.slotOwner (s : State) (slot : Nat) : Nat :=
  match s.ringEntry with
  | some e => u16 e (0x10 + 2 * slot)
  | none => 0xFFFF

/-- RESUME_FRAMES of the ring policy (R119, R121). -/
def State.ringResume (s : State) : Nat :=
  match s.ringEntry with
  | some e => u16 e 6
  | none => 64

/-- EXPECT_LEN of the ring policy (R110, R121). -/
def State.ringExpect (s : State) : Nat :=
  match s.ringEntry with
  | some e => u16 e 4
  | none => 0

/-- A ring policy entry within its ranges, for slot capacity `c` (R121). -/
def ringEntryOk (e : List (BitVec 8)) (c : Nat) : Bool :=
  decide (u8 e 0 ≤ 3) && decide (1 ≤ u8 e 1) && decide (u8 e 1 ≤ 32) && decide (u16 e 2 < 8) &&
  decide (16 ≤ u16 e 6) && decide (u16 e 6 ≤ 4096) && decide (u32 e 8 = 0) && decide (u32 e 12 = 0) &&
  (List.range 64).all (fun k => decide (u16 e (0x10 + 2 * k) = 0xFFFF) || decide (k < c))

/-- ROLE and SYS_TSRC agree (R106). -/
def ringRoleOk (role src : Nat) : Bool :=
  if role = 2 ∨ role = 3 then decide (src = 4) else if role = 0 then decide (src ≠ 4) else true

/-- Go to a ring state: entering and leaving RUNNING are flagged; position and length hold from RUNNING to OFF (R101). A device
that takes no slots any more faults the contexts that the ring feeds (R88, R134). -/
def State.ringGoto (s : State) (st : Nat) : State :=
  let old := s.ringState
  let t := s.wr F.TRING_STAT_STATE st
  let t := if old = rRunning ∧ st ≠ rRunning then t.ev A.TRING_EVENT 1 else t
  let t := if old ≠ rRunning ∧ st = rRunning then t.ev A.TRING_EVENT 0 else t
  let t := if (old = rRunning ∨ old = rDegraded) ∧ st ≠ rRunning ∧ st ≠ rDegraded then
      { t with ring := { t.ring with inflight := [], lost := [] } }.forEach (t.ringCtxs.filter (fun c => (t.ctx c).srcOn))
        (fun c t => t.ctxFault c)
    else t
  if st = rRunning then { t with ring := { t.ring with fixed := true } }
  else if st = rOff then { t with ring := { t.ring with fixed := false } }
  else t

/-- Count code violations (R117). -/
def State.ringCodeErrs (s : State) (n : Nat) : State :=
  if n = 0 then s
  else (s.wr F.TRING_ERRCNT_CODE (min 255 (s.rd F.TRING_ERRCNT_CODE + n))).ev A.TRING_EVENT 8

/-- Count a CRC failure of a header or an area (R117). -/
def State.ringCrcErr (s : State) : State := (s.bump F.TRING_ERRCNT_CRC).ev A.TRING_EVENT 9

/-- The area's CRC-32 over its slots is right (R100). -/
def areaOk (ws : List (BitVec 32)) (crc : BitVec 32) : Bool := crc32 (wordBytes ws) == crc

/-! ### Slots (R104, R111, R117 to R119) -/

/-- The slots of a frame at this device's rate (R100). -/
def State.ringSlots (s : State) : Nat := slotCapacity s.faCode

/-- The transmit map entry of a ring slot. -/
def State.ringTx (s : State) (slot : Nat) : Nat := mapEntry (s.reg (A.TRING_TXMAPk (slot / 4))) slot

/-- The device owns the slot (R111): the ring policy assigns it to the own position. -/
def State.ownsSlot (s : State) (slot : Nat) : Bool := s.slotOwner slot == s.ringPos

/-- The word the device puts into a slot it owns: its context's output sample for the aligned index reached (R104); 0 without a
valid entry (R111). -/
def State.ringWord (s : State) (slot : Nat) : BitVec 32 :=
  let e := s.ringTx slot
  let m := if s.ringMaster then s.ring.phase else s.ring.index
  if e < 128 then 0
  else
    match s.dsp.playing.2.find? (fun p => p.1 == e - 128) with
    | some p => p.2.getD (m % 32) 0
    | none => 0

/-- The first-pass area as it leaves: own slots written, the others as they came (R104). -/
def State.writeSlots (s : State) (area : List (BitVec 32)) : List (BitVec 32) :=
  (List.range s.ringSlots).map (fun k => if s.ownsSlot k then s.ringWord k else area.getD k 0)

/-- A slot is lost (R118): its context takes a fault ramp, SLOT_LOST is set. -/
def State.slotLost (s : State) (slot : Nat) : State :=
  if s.ring.lost.contains slot then s
  else
    let t := (s.ctxFault (s.ringRx slot - 128)).ev A.TRING_EVENT 29
    { t with ring := { t.ring with lost := slot :: t.ring.lost } }

/-- Every received slot that delivers is lost, with the values on their way (R118). -/
def State.slotsLost (s : State) : State :=
  let t := s.forAll s.ringSlots (fun k t =>
    if 128 ≤ t.ringRx k ∧ (t.ctx (t.ringRx k - 128)).srcOn then t.slotLost k else t)
  { t with ring := { t.ring with inflight := [] } }

/-- A lost slot is valid again: its context ramps from 0 to full gain over 64 samples (R119). -/
def State.slotBack (s : State) (slot : Nat) : State :=
  let c := s.ringRx slot - 128
  let t := { s with ring := { s.ring with lost := s.ring.lost.filter (fun k => k != slot) } }
  if t.ctxControl c then (t.setCtx c { t.ctx c with srcOn := true }).wr (F.DSPX_CTXn_STAT_STALE c) 0
  else if t.on (F.DSPX_CTXn_CFG_MUTE c) then t.setCtx c { t.ctx c with srcOn := true, fault := false, faultDue := false, sw := Sw.off }
  else t.setCtx c { t.ctx c with srcOn := true, fault := false, faultDue := false,
                                 sw := { gain := 0, target := gainOne, left := 64, waiting := false } }

/-- A slot's value reaches its context at its aligned sample (R104): a valid one is delivered, and a slot without one is lost
(R118). -/
def State.slotDeliver (s : State) (slot : Nat) (w : Option (BitVec 32)) : State :=
  let c := s.ringRx slot - 128
  if s.ringRx slot < 128 then s
  else match w with
    | some x =>
      let t := if s.ring.lost.contains slot then s.slotBack slot else if !(s.ctx c).srcOn then s.ctxIn c else s
      t.collectWord c x
    | none => if (s.ctx c).srcOn || s.ring.lost.contains slot then s.slotLost slot else s

/-- Does the 32-bit index `now` stand at `due` or beyond it? Indexes wrap. -/
def reached (now due : Nat) : Bool := decide ((now + 2 ^ 32 - due % 2 ^ 32) % 2 ^ 32 < 2 ^ 31)

/-- The timebase reaches aligned sample `m`: the values that are due are delivered (R104). -/
def State.slotsDue (s : State) (m : Nat) : State :=
  let due := s.ring.inflight.filter (fun e => decide (e.1 = m))
  let t := { s with ring := { s.ring with inflight := s.ring.inflight.filter (fun e => !reached m e.1) } }
  t.forEach due (fun e t => t.slotDeliver e.2.1 e.2.2)

/-- The slots of frame `j` are on their way (R104): from the first pass where the owner stands before this device, from the second
where it does not. A value written for aligned index m = j − d is delivered as sample m + 2d + 1; one of the second pass was
written `lag` frames before. -/
def State.queueSlots (s : State) (j d lag : Nat) (first second : List (BitVec 32)) (firstIn secondIn : Bool) : State :=
  let es := (List.range s.ringSlots).filterMap (fun k =>
    let viaFirst := decide (s.slotOwner k < s.ringPos)
    let valid := if viaFirst then firstIn else secondIn
    let due := (j + d + 1 + (if viaFirst then 0 else 2 ^ 32 - lag)) % 2 ^ 32
    let w := if viaFirst then first.getD k 0 else second.getD k 0
    if s.ringRx k < 128 then none else some (due, k, if valid then some w else none))
  { s with ring := { s.ring with inflight := s.ring.inflight ++ es } }

/-- Frames between a frame and the one that relays it, as a member counts them: 1 to d (R104, R105; log entry 154). -/
def State.memberLag (s : State) : Nat :=
  min s.ring.align (max 1 (Config.relayLag (s.rd F.TRING_TOPO_RLEN) s.ring.align s.faCode))

/-- The areas of a frame: a bad CRC-32 is counted and delivers the values of the previous frame (R117). -/
def State.takeAreas (s : State) (f : RingFrame) (usable : Bool) (secondValid : Bool) : State :=
  let ok1 := areaOk f.first f.firstCrc
  let ok2 := areaOk f.second f.secondCrc
  let t := if ok1 then s else s.ringCrcErr
  let t := if secondValid && !ok2 then t.ringCrcErr else t
  let v1 := if ok1 then f.first else s.ring.prevFirst
  let v2 := if ok2 then f.second else s.ring.prevSecond
  let t := { t with ring := { t.ring with prevFirst := v1, prevSecond := v2 } }
  if t.ringState = rRunning ∨ t.ringState = rDegraded then
    t.queueSlots t.ring.j t.ring.align t.memberLag v1 v2 usable (usable && secondValid)
  else t

/-! ### Frames -/

/-- The ring runs: the digital die is out of reset and not in standby, where its output stays idle (R109). -/
def State.ringUp (s : State) : Bool := !s.sys.dieHeld

/-- CTRL of a frame this device sends: rate, BREAK, SECOND_VALID, RUN (R100). -/
def ringCtrl (rate : Nat) (brk secondValid run : Bool) : BitVec 8 :=
  BitVec.ofNat 8 (rate + (if brk then 8 else 0) + (if secondValid then 16 else 0) + (if run then 32 else 0))

/-- A frame with its header sealed and its areas' CRC-32 filled in (R100). -/
def ringFrameOf (h : RingHeader) (first second : List (BitVec 32)) : RingFrame :=
  { header := ringHdrSealed h, first := first, firstCrc := crc32 (wordBytes first), second := second,
    secondCrc := crc32 (wordBytes second) }

/-- An empty audio area: C slots of 0 (R100). -/
def State.emptyArea (s : State) : List (BitVec 32) := List.replicate s.ringSlots 0

/-- A frame goes out: a new frame of biscuit slots begins (R113). -/
def State.frameOut (s : State) (f : RingFrame) : State :=
  { s with ring := { s.ring with sent := some f, inserted := 0, sentBiscuits := s.ring.slots, slots := [] } }

/-- A frame of the break head (R118): BREAK = 1, RUN = 0, empty audio areas, the own position in RLEN. -/
def State.breakFrame (s : State) (h : RingHeader) : RingFrame :=
  ringFrameOf { h with pos := BitVec.ofNat 16 s.ringPos, rlen := BitVec.ofNat 16 s.ringPos,
                       ctrl := ringCtrl s.faCode true false false } s.emptyArea s.emptyArea

/-- A frame that the break head sends while none arrives (R118): J and ACC are free values, ALIGN is its own (log entry 63). -/
def State.breakEmit (s : State) : State :=
  let j := s.draw 32
  let a := j.2.draw 16
  a.2.frameOut (a.2.breakFrame { j := BitVec.ofNat 32 j.1, pos := 0, acc := BitVec.ofNat 16 a.1, rlen := 0, ctrl := 0,
                                 align := BitVec.ofNat 8 (s.rd F.TRING_CFG_ALIGN), crc := 0 })

/-- The header of a candidate's election frame (R107): ELECT, and the 64-bit SYS_UID in place of J, POS and ACC. -/
def State.electHeader (s : State) : RingHeader :=
  let uid := leBytes 4 s.otp.uidLo.toNat ++ leBytes 4 s.otp.uidHi.toNat
  { j := BitVec.ofNat 32 (u32 uid 0), pos := BitVec.ofNat 16 (u16 uid 4), acc := BitVec.ofNat 16 (u16 uid 6),
    rlen := 0, ctrl := BitVec.ofNat 8 (s.faCode + 4), align := 0, crc := 0 }

/-- The ring index of the frame that the master emits now: d sample periods before its own timebase reaches that sample (R103). -/
def State.masterJ (s : State) : Nat :=
  (32 * s.rd F.PORT_TBFRAME_COUNT + s.ring.phase + s.rd F.TRING_CFG_ALIGN) % 2 ^ 32

/-- The frame that the master emits (R100, R101, R104): POS and ACC 0, the ring length, d, the areas. -/
def State.masterFrame (s : State) : RingFrame :=
  let area := (s.ring.relay.find? (fun e => e.1 == s.masterJ)).map (fun e => e.2)
  ringFrameOf
    { j := BitVec.ofNat 32 s.masterJ, pos := 0, acc := 0, rlen := BitVec.ofNat 16 (s.rd F.TRING_TOPO_RLEN),
      ctrl := ringCtrl s.faCode false area.isSome s.ring.run, align := BitVec.ofNat 8 (s.rd F.TRING_CFG_ALIGN), crc := 0 }
    (s.writeSlots []) (area.getD s.emptyArea)

/-- The master emits a frame: its timebase is one sample further, and the values due at this sample are delivered (R103, R104). -/
def State.masterEmit (s : State) : State :=
  let j := s.masterJ
  let t := s.frameOut s.masterFrame
  let t := t.slotsDue s.ownerIndex
  let r := t.ring
  { t with ring := { r with phase := r.phase + 1, relay := r.relay.filter (fun e => !reached j e.1),
                            emitted := (j :: r.emitted).take (2 * s.rd F.TRING_CFG_ALIGN + 1) } }

/-- RING_FRAME_EMIT (R100, R101, R103, R104, R110): a master, or a candidate with an election frame (R107), emits one
frame; so does a break head (R118). -/
def execRingFrameEmit (s : State) : Host.Outcome State Fault Refusal :=
  let st := s.ringState
  .next (if !s.ringUp then s
    else if s.ring.candidate then s.frameOut (ringFrameOf s.electHeader s.emptyArea s.emptyArea)
    else if st = rOff ∨ st = rHalted then s
    else if s.ringMaster then s.masterEmit
    else if s.ring.breakHead then s.breakEmit
    else s)

/-- A candidate withdraws and forwards from then on (R107). -/
def State.withdraw (s : State) : State :=
  let t := s.ringGoto rLocking
  { t with ring := { t.ring with candidate := false, returns := 0 } }

/-- An election frame arrives (R107): a master discards it; a candidate withdraws before a lower UID and counts its own frames that
return; any other device forwards it. -/
def State.electionFrame (s : State) (f : RingFrame) : State :=
  let theirs := ofLe (leBytes 4 f.header.j.toNat ++ leBytes 2 f.header.pos.toNat ++ leBytes 2 f.header.acc.toNat)
  let ours := s.otp.uidLo.toNat + 2 ^ 32 * s.otp.uidHi.toNat
  if s.rd F.TRING_CFG_ROLE = 1 ∨ s.ringMaster = true then s
  else if s.ring.candidate then
    if theirs < ours then s.withdraw
    else if theirs = ours then { s with ring := { s.ring with returns := s.ring.returns + 1 } }
    else { s with ring := { s.ring with returns := 0 } }
  else s.frameOut f

/-- A frame that is not of an election is forwarded (R101, R104, R118): POS set to the own position, the own forwarding delay added
to ACC, own slots written; a header that is not used goes on as it came (R117). A break head sends its own frames instead. Where
own slots are written into an area that arrived with a bad CRC-32, it leaves with a right one (log entry 155). -/
def State.forwardFrame (s : State) (f : RingFrame) (delay : Nat) : State :=
  let normal := !f.header.ctrl.getLsbD 3
  let first := if normal && decide (s.ringState = rRunning ∨ s.ringState = rDegraded) then s.writeSlots f.first else f.first
  let acc := f.header.acc + BitVec.ofNat 16 delay
  if s.ring.breakHead then s.frameOut (s.breakFrame { f.header with acc := acc })
  else
    let h := if ringHdrOk f.header then ringHdrSealed { f.header with pos := BitVec.ofNat 16 s.ringPos, acc := acc } else f.header
    s.frameOut { f with header := h, first := first,
                        firstCrc := if first = f.first then f.firstCrc else crc32 (wordBytes first) }

/-- The aligned index that a member reaches when frame `j` arrives: sample j comes d × Ts − ACC later (R103). -/
def alignedIndex (j d acc fa : Nat) : Nat := (j + 2 ^ 32 - d + acc * fa / 80000000) % 2 ^ 32

/-- The member's timebase moves to frame `j` (R103): the aligned index, and PORT_TBFRAME where the ring owns the rate; the values
due are delivered (R104). -/
def State.ringTick (s : State) (j : Nat) : State :=
  let m := alignedIndex j s.ring.align (s.rd F.TRING_DELAY_ACC) s.fa
  let t := { s with ring := { s.ring with j := j, index := m } }
  let t := if t.ringTimed then t.wr F.PORT_TBFRAME_COUNT (m / 32) else t
  t.slotsDue m

/-- A frame of a break head reaches a device (R118): it records the position and enters DEGRADED, no master timing reaches it
(R23), and its slots are lost. -/
def State.breakSeen (s : State) (h : RingHeader) : State :=
  let t := (s.wr F.TRING_TOPO_BREAK_POS h.rlen.toNat).ringGoto rDegraded
  let t := { t with ring := { t.ring with run := false, relay := [], cleanRun := if t.ringMaster then 0 else t.ring.cleanRun } }
  let t := if t.ringTimed then t.tsrcUnlock else t
  t.slotsLost

/-- The ring state that a normal header asks for (R110, R118): RUNNING with RUN, a locked timing source and the own rate. An auto
device that a master's frames reach leaves ELECT (R107). -/
def State.headerState (s : State) (h : RingHeader) : State :=
  let t := if s.ring.fixed then s else s.wr F.TRING_TOPO_RLEN h.rlen.toNat
  let rateOk := decide (h.ctrl.toNat % 4 = t.rd F.SYS_TSRC_FA)
  let t := { t with ring := { t.ring with run := h.ctrl.getLsbD 5, rateOk := rateOk } }
  if !rateOk then (t.ev A.TRING_EVENT 25).ringGoto rLocking
  else if t.ring.breakHead then t
  else
    let t := t.wr F.TRING_TOPO_BREAK_POS 0xFFFF
    if t.ring.run && t.on F.SYS_CLKSTAT_TSRC_LOCKED then t.ringGoto rRunning else t.ringGoto rLocking

/-- What a member does on a usable header of a frame that is not of an election (R101, R103, R110, R118): position, delay, length,
break position, timebase, and the ring state. -/
def State.takeHeader (s : State) (h : RingHeader) : State :=
  let t := if s.ring.fixed then s else s.wr F.TRING_STAT_POSITION (h.pos.toNat + 1)
  let t := ((t.wr F.TRING_DELAY_ACC h.acc.toNat).wr F.TRING_STAT_LOCK 1).wrB F.TRING_STAT_SECOND_VALID (h.ctrl.getLsbD 4)
  let st := t.ringState
  let still := decide (st = rPass ∨ st = rOff ∨ st = rHalted)
  if h.ctrl.getLsbD 3 then (if still then t else t.breakSeen h)
  else
    let t := { t with ring := { t.ring with align := h.align.toNat } }
    let t := if still then t else t.headerState h
    t.ringTick h.j.toNat

/-- A frame that is not of an election, with a usable or unusable header, reaches a device that is not its master (R101, R104,
R117). -/
def State.memberFrame (s : State) (f : RingFrame) (codeErrs delay : Nat) : State :=
  let ok := ringHdrOk f.header
  let brk := ok && f.header.ctrl.getLsbD 3
  let clean := ok && decide (codeErrs = 0) && areaOk f.first f.firstCrc && areaOk f.second f.secondCrc
  let t := if ok then s.takeHeader f.header else s.ringCrcErr.ringTick ((s.ring.j + 1) % 2 ^ 32)
  let t := { t with ring := { t.ring with cleanRun := if clean then t.ring.cleanRun + 1 else 0 } }
  let t := if brk then t
    else t.takeAreas f (t.ring.run && !t.ring.breakHead) (t.on F.TRING_STAT_SECOND_VALID)
  t.forwardFrame f delay

/-- A normal frame whose J the master did not emit within 2d + 1 periods (R108): CONFLICT, and the master halts. -/
def State.ringConflict (s : State) : State := (s.ev A.TRING_EVENT 26).ringGoto rHalted

/-- RING_FRAME_RX (R101, R103, R104, R107, R108, R117, R118): a frame arrives at a device that did not emit it. -/
def execRingFrameRx (f : RingFrame) (codeErrs delay : Nat) (s : State) : Host.Outcome State Fault Refusal :=
  let st := s.ringState
  let ok := ringHdrOk f.header
  let brk := f.header.ctrl.getLsbD 3
  let t := s.ringCodeErrs codeErrs
  .next (if !s.ringUp ∨ st = rOff ∨ st = rHalted then s
    else if ok && ringHdrElect f.header then t.electionFrame f
    else if s.ringMaster then
      (if !ok then t.ringCrcErr
       else if brk then t.breakSeen f.header
       else if s.ring.emitted.contains f.header.j.toNat then t
       else t.ringConflict)
    else if s.ring.candidate then
      (if !ok then { t.ringCrcErr with ring := { t.ringCrcErr.ring with returns := 0 } }
       else if brk then t
       else t.withdraw)
    else t.memberFrame f codeErrs delay)

/-- R105: the round trip in RING cycles, with 1 µs more, fits d sample periods. -/
def ringFits (rtt d fa : Nat) : Bool := decide ((rtt + 80) * faHz fa ≤ d * 80000000)

/-- Frames from the emission of a frame to the first one emitted at least 1 µs after its return (R104). -/
def relayLag (rtt fa : Nat) : Nat := max 1 (((rtt + 80) * faHz fa + 79999999) / 80000000)

/-- What the master reads from its own normal frame that returns (R101, R105, R110): the round trip, the ring length, LENGTH, and
RUN. -/
def State.masterHeader (s : State) (h : RingHeader) (rtt : Nat) : State :=
  let t := (s.wr F.TRING_DELAY_RTT (min 65535 rtt)).wr F.TRING_STAT_LOCK 1
  let t := if t.ring.fixed then t else t.wr F.TRING_TOPO_RLEN (h.pos.toNat + 1)
  let fits := ringFits rtt (s.rd F.TRING_CFG_ALIGN) s.faCode
  let t := if fits then t else t.ev A.TRING_EVENT 24
  let ok := fits && (decide (t.ringExpect = 0) || decide (t.rd F.TRING_TOPO_RLEN = t.ringExpect))
  { t with ring := { t.ring with rateOk := ok, run := ok && t.on F.SYS_CLKSTAT_TSRC_LOCKED, cleanRun := t.ring.cleanRun + 1 } }

/-- RUNNING follows RUN on a master (R110). -/
def State.masterState (s : State) : State :=
  if s.ringState = rLocking ∧ s.ring.run = true then s.ringGoto rRunning
  else if s.ringState = rRunning ∧ s.ring.run = false then s.ringGoto rLocking else s

/-- The first-pass area of frame `j` that returned (R104, R117): relayed in the first frame emitted at least 1 µs later, except
in a break (R118), and on its way to the master's own contexts. -/
def State.masterArea (s : State) (f : RingFrame) (rtt : Nat) : State :=
  let ok := areaOk f.first f.firstCrc
  let t := if ok then s else s.ringCrcErr
  let v := if ok then f.first else t.ring.prevFirst
  let j := f.header.j.toNat
  let k := (j + relayLag rtt s.faCode) % 2 ^ 32
  let t := { t with ring := { t.ring with
    prevFirst := v, relay := if t.ringState = rDegraded then [] else t.ring.relay.filter (fun e => e.1 != k) ++ [(k, v)] } }
  if t.ringState = rRunning then t.queueSlots j (s.rd F.TRING_CFG_ALIGN) 0 v v true true else t

/-- RING_FRAME_RETURN (R101, R104, R105, R108, R110, R118): the master's own frame comes back: it measures the round
trip, reads the ring length, decides RUN, relays the first pass and takes its own slots from it. -/
def execRingFrameReturn (f : RingFrame) (codeErrs rtt : Nat) (s : State) : Host.Outcome State Fault Refusal :=
  let t := s.ringCodeErrs codeErrs
  .next (if !s.ringUp ∨ s.ringMaster = false ∨ s.ringState = rOff ∨ s.ringState = rHalted then s
    else if ringHdrOk f.header = false then t.ringCrcErr
    else if f.header.ctrl.getLsbD 3 then t.breakSeen f.header
    else if s.ring.emitted.contains f.header.j.toNat = false then t.ringConflict
    else ((t.masterHeader f.header rtt).masterState).masterArea f rtt)

/-- What every break declared does (R117): counted, flagged, the receiver is not locked. -/
def State.breakDeclared (s : State) (codeErrs : Nat) : State :=
  let t := (((s.ringCodeErrs codeErrs).bump F.TRING_ERRCNT_BREAKS).ev A.TRING_EVENT 4).wr F.TRING_STAT_LOCK 0
  { t with ring := { t.ring with cleanRun := 0 } }

/-- The break head of a break (R118): DEGRADED unless in PASS, RUN 0, and its slots are lost; no master timing reaches it (R23). -/
def State.becomeHead (s : State) : State :=
  let t := s.wr F.TRING_TOPO_BREAK_POS s.ringPos
  let t := if s.ringState = rPass then t else t.ringGoto rDegraded
  let t := { t with ring := { t.ring with breakHead := true, run := false } }
  let t := if t.ringTimed then t.tsrcUnlock else t
  if s.ringState = rPass then t else t.slotsLost

/-- RING_BREAK (R117, R118): the receiver declares a break on its input. A master records position 0 and stops relaying;
any other device becomes the break head. -/
def execRingBreak (_noSignal : Bool) (codeErrs : Nat) (s : State) : Host.Outcome State Fault Refusal :=
  let st := s.ringState
  let t := s.breakDeclared codeErrs
  .next (if !s.ringUp ∨ st = rOff ∨ st = rHalted then s
    else if s.ringMaster then
      (let t := (t.wr F.TRING_TOPO_BREAK_POS 0).ringGoto rDegraded
       { t with ring := { t.ring with relay := [] } }.slotsLost)
    else if st = rElect then t
    else t.becomeHead)

/-- The break is over for a master (R119): RUNNING, and RESTORED. -/
def State.masterRestored (s : State) : State :=
  ((s.wr F.TRING_TOPO_BREAK_POS 0xFFFF).ringGoto rRunning).ev A.TRING_EVENT 5

/-- The break is over for its head (R119): it forwards again. -/
def State.headResumes (s : State) : State :=
  let t := { s with ring := { s.ring with breakHead := false } }
  let t := t.wr F.TRING_TOPO_BREAK_POS 0xFFFF
  if t.ringState = rDegraded then t.ringGoto rLocking else t

/-- RING_BREAK_RESUME (R119): after RESUME_FRAMES consecutive clean frames the break head forwards again; after RESUME_FRAMES normal
frames that returned the master goes back to RUNNING. -/
def execRingBreakResume (s : State) : Host.Outcome State Fault Refusal :=
  .next (if !s.ringUp ∨ s.ring.cleanRun < s.ringResume then s
    else if s.ringMaster then (if s.ringState = rDegraded then s.masterRestored else s)
    else if s.ring.breakHead then s.headResumes
    else s)

/-- TSRC_LOCKED is gained (R110): a device whose last header, or last return, met the other conditions enters RUNNING. -/
def State.ringLockGained (s : State) : State :=
  if s.ringState = rLocking ∧ s.ring.rateOk = true ∧ (s.ring.run = true ∨ s.ringMaster = true) then
    { s with ring := { s.ring with run := true } }.ringGoto rRunning
  else s

/-! ### Election, commands, configuration -/

/-- ELECT_CANDIDATE (R107): an auto device without a frame start for 1 ms becomes a candidate. -/
def execElectCandidate (s : State) : Host.Outcome State Fault Refusal :=
  let st := s.ringState
  if s.ringUp ∧ s.rd F.TRING_CFG_ROLE = 3 ∧ s.ringMaster = false ∧ (st = rElect ∨ st = rLocking ∨ st = rRunning ∨ st = rDegraded) then
    let t := s.ringGoto rElect
    .next { t with ring := { t.ring with candidate := true, returns := 0, breakHead := false } }
  else .next s

/-- ELECTED (R101, R107): own election frames have returned for 64 frames in a row; the device is the master, at position 0. -/
def execElected (s : State) : Host.Outcome State Fault Refusal :=
  if s.ring.candidate ∧ 64 ≤ s.ring.returns then
    let t := (((s.wr F.TRING_STAT_MASTER 1).wr F.TRING_STAT_POSITION 0).ringGoto rLocking).ev A.TRING_EVENT 28
    .next { t with ring := { t.ring with candidate := false, returns := 0 } }
  else .next s

/-- ELECT_TIMEOUT (R107): no master after 100 ms; candidates restart election. -/
def execElectTimeout (s : State) : Host.Outcome State Fault Refusal :=
  if s.ringMaster then .next s
  else
    let t := s.ev A.TRING_EVENT 27
    .next { t with ring := { t.ring with returns := 0 } }

/-- START of TRING_CTRL (R101, R120): a configured master stands at position 0; no other device is a master any more. -/
def State.ringStart (s : State) : State :=
  let st := s.ringState
  let role := s.rd F.TRING_CFG_ROLE
  if (st = rOff ∨ st = rPass ∨ st = rHalted) ∧ role ≠ 0 then
    let t := s.wrB F.TRING_STAT_MASTER (decide (role = 1))
    let t := if role = 1 then t.wr F.TRING_STAT_POSITION 0 else t
    let t := { t with ring := { t.ring with emitted := [], relay := [], candidate := false, breakHead := false, run := false } }
    t.ringGoto (if role = 3 then rElect else rLocking)
  else s

/-- What the link drops with STOP. -/
def State.ringDrop (s : State) : State :=
  { s with ring := { s.ring with candidate := false, breakHead := false, run := false, relay := [] } }

/-- STOP of TRING_CTRL (R120): a master enters OFF, a member returns to PASS. Only START leaves HALTED (table of ring states). -/
def State.ringStop (s : State) : State :=
  if s.ringState = rHalted ∨ s.ringState = rOff then s
  else if s.ringMaster then ((s.wr F.TRING_STAT_MASTER 0).ringGoto rOff).ringDrop
  else (s.ringGoto rPass).ringDrop

/-- RING_START. -/
def execRingStart (s : State) : Host.Outcome State Fault Refusal := .next s.ringStart
/-- RING_STOP. -/
def execRingStop (s : State) : Host.Outcome State Fault Refusal := .next s.ringStop

/-- A refused configuration or map write (R111, R120). -/
def State.ringRefused (s : State) : State := s.bump F.TRING_ERRCNT_CFG_REFUSED

/-- A TRING_CFG write: in OFF, PASS and HALTED, with d from 1 to 32 (R120). -/
def State.tringCfgWrite (s : State) (v : BitVec 32) : State :=
  let st := s.ringState
  let d := getField v 8 6
  if (st = rOff ∨ st = rPass ∨ st = rHalted) ∧ 1 ≤ d ∧ d ≤ 32 then s.setReg A.TRING_CFG (v &&& 0x00073F03)
  else s.ringRefused

/-- TRING_CFG_WRITE. -/
def execTringCfgWrite (v : Word) (s : State) : Host.Outcome State Fault Refusal := .next (s.tringCfgWrite v)

/-- Does a map word change an entry that is VALID (R111)? -/
def touchesValid (old v : BitVec 32) : Bool :=
  (List.range 4).any (fun j => decide (128 ≤ mapEntry old j) && decide (mapEntry old j ≠ mapEntry v j))

/-- A ring map write (R111): taken at the next F32 frame boundary. -/
def State.tringMapWrite (s : State) (tx : Bool) (k : Nat) (v : BitVec 32) : State :=
  let a := if tx then A.TRING_TXMAPk k else A.TRING_RXMAPk k
  let busy := s.ringState = rRunning ∨ s.ringState = rDegraded
  let unowned := tx && (List.range 4).any (fun j => decide (128 ≤ mapEntry v j) && !s.ownsSlot (4 * k + j))
  let dup := !tx && s.rxDuplicate a v
  if (busy ∧ touchesValid (s.mapPendingWord a) v) ∨ unowned ∨ dup then s.ringRefused
  else { s with ring := { s.ring with mapDue := (s.ring.mapDue.filter (fun p => p.1 != a)) ++ [(a, v)] } }

/-- TRING_MAP_WRITE. -/
def execTringMapWrite (tx : Bool) (k : Fin 16) (v : Word) (s : State) : Host.Outcome State Fault Refusal :=
  .next (s.tringMapWrite tx k v)

/-- The map writes that wait take effect at an F32 frame boundary (R111): contexts are bound and unbound. -/
def State.ringMapApply (s : State) : State :=
  let due := s.ring.mapDue
  let t := { s with ring := { s.ring with mapDue := [] } }
  t.forEach due (fun p t =>
    let old := t.reg p.1
    let t := t.setReg p.1 p.2
    if p.1 < A.TRING_TXMAPk 0 then
      let base := p.1 - A.TRING_RXMAPk 0
      let gone := (boundCtxs ((List.range 4).map (mapEntry old))).filter
        (fun c => !(boundCtxs ((List.range 4).map (mapEntry p.2))).contains c)
      let t := t.forEach gone (fun c t => t.ctxUnbind c)
      t.forAll 4 (fun j t => if 128 ≤ mapEntry p.2 j then t.ctxBind (mapEntry p.2 j - 128) 2 (base + j) else t)
    else t)

end Sys2Proof.Machine
end

