-- ==== Sys2Proof/Machine/Dsp.lean ====
section
/-!
DEFINITION. Machine/Dsp.lean: stream contexts, generators and the sound player (R130 to R139).
-/

namespace Sys2Proof.Machine

open Sys2Proof

/-! ### Contexts -/

/-- A context or generator write that is not accepted is counted (R130, R136). -/
def State.dspRefused (s : State) : State := s.bump F.DSPX_CNT_CFG_REFUSED

/-- May a write of KIND set context `n` to source kind `kind` (R130)? Kinds 1, 2 and 5 are set by maps and the graph
and only stand unchanged. Kinds 3 and 4 are refused for a context bound to a slot or whose direction is output. DESIGN CHOICE (log
entry 165): the number of a player voice or a generator is not checked, and one that does not exist delivers nothing. -/
def State.ctxKindOk (s : State) (n kind : Nat) : Bool :=
  let old := s.rd (F.DSPX_CTXn_CFG_KIND n)
  if kind = old then true
  else if kind = 0 then decide (old = 3 ∨ old = 4)
  else if kind = 3 ∨ kind = 4 then
    decide (old ≠ 1 ∧ old ≠ 2 ∧ old ≠ 5) && decide (s.rd (F.DSPX_CTXn_CFG_DIR n) ≠ 2)
  else false

/-- A DSPX_CTXn_CFG write (R130, R132, R133): the source of an unbound context, the ramp and the mute. The source
fields of a bound context report it and do not change. A word that R130 or the field table refuses changes nothing. -/
def State.ctxCfgWrite (s : State) (n : Nat) (v : BitVec 32) : State :=
  let kind := getField v 12 4
  let ramp := getField v 27 4
  if !s.ctxKindOk n kind || decide (ramp < 4) || decide (14 < ramp) then s.dspRefused
  else
    let own := decide (kind = 0 ∨ kind = 3 ∨ kind = 4)
    let t := if own then s.ctxBind n kind (getField v 6 6) else s
    let t := (t.wr (F.DSPX_CTXn_CFG_RAMP_LOG2 n) ramp).wr (F.DSPX_CTXn_CFG_MUTE n) (getField v 1 1)
    let t := if own then t.setCtx n { t.ctx n with srcOn := decide (kind ≠ 0), fault := false, faultDue := false } else t
    t.ctxRetarget n

/-- CTX_CFG_WRITE. -/
def execCtxCfgWrite (n : Fin 128) (v : Word) (s : State) : Host.Outcome State Fault Refusal := .next (s.ctxCfgWrite n v)

/-- A DSPX_CTXn_LEVEL write (R132): a ramp starts at the next F32 frame boundary from the present level gain. -/
def State.ctxLevelWrite (s : State) (n : Nat) (v : BitVec 32) : State :=
  let t := s.wr (F.DSPX_CTXn_LEVEL_TARGET n) v.toNat
  t.setCtx n { t.ctx n with levelDue := true }

/-- CTX_LEVEL_WRITE. -/
def execCtxLevelWrite (n : Fin 128) (v : Word) (s : State) : Host.Outcome State Fault Refusal := .next (s.ctxLevelWrite n v)

/-! ### Generators (R136) -/

/-- The record of generator `g`. -/
def State.gen (s : State) (g : Nat) : GenSt := Tbl.get GenSt.reset s.dsp.gens g

/-- Set the record of generator `g`. -/
def State.setGen (s : State) (g : Nat) (x : GenSt) : State :=
  { s with dsp := { s.dsp with gens := Tbl.set GenSt.reset s.dsp.gens g x } }

/-- A DSPX_GENg_CFG write: type and amplitude; an amplitude change ramps over the following F32 frame. -/
def State.genCfgWrite (s : State) (g : Nat) (v : BitVec 32) : State := s.setReg (A.DSPX_GENg_CFG g) (v &&& 0x0003FFFF)

/-- GEN_CFG_WRITE. -/
def execGenCfgWrite (g : Fin 16) (v : Word) (s : State) : Host.Outcome State Fault Refusal := .next (s.genCfgWrite g v)

/-- A DSPX_GENg_FREQ write: 1 Hz to 0.45 × Fa, pending until the next F32 frame boundary; else refused and counted. -/
def State.genFreqWrite (s : State) (g : Nat) (v : BitVec 32) : State :=
  if 65536 ≤ v.toNat ∧ 20 * v.toNat ≤ 9 * s.fa * 65536 then s.setReg (A.DSPX_GENg_FREQ g) v else s.dspRefused

/-- GEN_FREQ_WRITE. -/
def execGenFreqWrite (g : Fin 16) (v : Word) (s : State) : Host.Outcome State Fault Refusal := .next (s.genFreqWrite g v)

/-- The sine of a part of a period: exact at the quarters, rounded elsewhere (R136; log entry 12). -/
def sineOf (part period : Nat) : BitVec 32 :=
  if 4 * part % period ≠ 0 then Config.sine part period
  else if 4 * part / period = 1 then f32One
  else if 4 * part / period = 3 then f32Neg f32One
  else 0

/-- Sample `k` of a generator at full scale: a sine of its phase, uniform white noise, pink noise (R136). -/
def genWave (ty g k phase period : Nat) : BitVec 32 :=
  if ty = 1 then sineOf phase period
  else if ty = 2 then q31ToF32 (Config.noise g k)
  else if ty = 3 then Config.pinkNoise g k
  else 0

/-- The sample of a generator, in binary32, and the generator after it: phase continues over frequency changes; the
amplitude moves from its value at the last boundary to the one the register held there over 32 samples. `i` counts in the frame. -/
def State.genStep (s : State) (g i : Nat) : BitVec 32 × GenSt :=
  let x := s.gen g
  let amp := x.amp * (32 - i) + x.goal * i
  let y := f32Mul (f32OfFix amp 21) (genWave (s.rd (F.DSPX_GENg_CFG_TYPE g)) g x.count x.phase (s.fa * 65536))
  (y, { x with phase := (x.phase + x.freq.toNat) % (s.fa * 65536), count := x.count + 1 })

/-- At an F32 frame boundary a generator takes its pending frequency, its amplitude ramp is complete, and the one to the
register's amplitude starts. -/
def State.genBoundary (s : State) (g : Nat) : State :=
  s.setGen g { s.gen g with freq := s.reg (A.DSPX_GENg_FREQ g), amp := (s.gen g).goal,
                            goal := s.rd (F.DSPX_GENg_CFG_AMP g) }

/-! ### Sound player (R137 to R139) -/

/-- The record of voice `v`. -/
def State.voice (s : State) (v : Nat) : Voice := Tbl.get Voice.idle s.dsp.voices v

/-- Set the record of voice `v`; DSPX_PLAYSTAT.BUSY shows whether it sounds. -/
def State.setVoice (s : State) (v : Nat) (x : Voice) : State :=
  let t := { s with dsp := { s.dsp with voices := Tbl.set Voice.idle s.dsp.voices v x } }
  t.setBit A.DSPX_PLAYSTAT v x.busy

/-- The library entry of a sound ID (R137). -/
def State.sound (s : State) (id : Nat) : Option Sound := s.dsp.sounds.find? (fun x => x.id == id)

/-- The contexts whose source is voice `v`. -/
def State.voiceCtxs (s : State) (v : Nat) : List Nat :=
  (List.range 128).filter (fun c =>
    decide (s.rd (F.DSPX_CTXn_CFG_KIND c) = 3 ∧ s.rd (F.DSPX_CTXn_CFG_INDEX c) = v))

/-- A refused play command (R139). -/
def State.playRefused (s : State) : State := (s.bump F.DSPX_PLAYERR_REFUSED).ev A.DSPX_EVENT 30

/-- The voice is commanded by the host: 0 to 19, bound to a player context (R139). -/
def State.voiceHost (s : State) (v : Nat) : Bool := decide (v < 20) && !(s.voiceCtxs v).isEmpty

/-- Play (R139): a busy voice restarts at sample 0 of the new sound; the rate factor is 1.0 (R137). -/
def State.play (s : State) (v id : Nat) : State :=
  if s.voiceHost v && (s.sound id).isSome then
    s.setVoice v { Voice.idle with busy := true, sound := id }
  else s.playRefused

/-- Stop at end (R139): a looped sound ends at its next LOOP_END, an unlooped one finishes. -/
def State.stopAtEnd (s : State) (v : Nat) : State :=
  if s.voiceHost v then (if (s.voice v).busy then s.setVoice v { s.voice v with atEnd := true } else s) else s.playRefused

/-- Stop now (R139): a linear fade over 64 samples. -/
def State.stopNow (s : State) (v : Nat) : State :=
  if s.voiceHost v then
    (if (s.voice v).busy && (s.voice v).fade.isNone then s.setVoice v { s.voice v with fade := some 64 } else s)
  else s.playRefused

/-- A DSPX_PLAYCMD write: CMD 1 play, 2 stop at end, 3 stop now; 0 commands nothing. -/
def State.playCmd (s : State) (v : BitVec 32) : State :=
  let cmd := getField v 30 2
  let voice := getField v 24 5
  if cmd = 1 then s.play voice (getField v 0 16)
  else if cmd = 2 then s.stopAtEnd voice
  else if cmd = 3 then s.stopNow voice
  else s

/-- PLAY. -/
def execPlay (voice : Fin 32) (sound : BitVec 16) (s : State) : Host.Outcome State Fault Refusal :=
  .next (s.play voice sound.toNat)
/-- STOP_AT_END. -/
def execStopAtEnd (voice : Fin 32) (s : State) : Host.Outcome State Fault Refusal := .next (s.stopAtEnd voice)
/-- STOP_NOW. -/
def execStopNow (voice : Fin 32) (s : State) : Host.Outcome State Fault Refusal := .next (s.stopNow voice)

/-- Units of a source position per sample (the denominators of all ratios of two rates divide 47 040). -/
def posUnit : Nat := 2 ^ 27 * 47040

/-- The end of a voice's present pass in position units: LOOP_END of a looped sound, LENGTH of another (R137). -/
def Sound.stop (x : Sound) : Nat := (if x.looped then x.loopEnd else x.length) * posUnit

/-- The voice falls silent with the next step: its fade is over, or its sound is at its end (R139). -/
def State.voiceEnded (s : State) (v : Nat) : Bool :=
  let x := s.voice v
  x.busy && (x.fade == some 0 ||
    (match s.sound x.sound with
     | some d => decide (d.stop ≤ x.pos) && (!d.looped || x.atEnd)
     | none => true))

/-- The control contexts of a voice hold their values and are stale (R134). -/
def State.voiceStale (s : State) (v : Nat) : State := s.forEach ((s.voiceCtxs v).filter s.ctxControl) (fun c t => t.ctxStale c)

/-- PLAY_DONE (R139): a commanded voice falls silent; as a source it has stopped (R134). -/
def execPlayDone (voice : Fin 32) (s : State) : Host.Outcome State Fault Refusal :=
  .next (if s.busUp && s.voiceEnded voice && decide (voice.val < 20) then
      ((s.setVoice voice Voice.idle).voiceStale voice).ev A.DSPX_EVENT 28
    else s)

/-- PLAY_UNDERRUN (R138): a late fetch delivers 0 for the `late` samples of the voice that come next, is counted and sets
PLAY_UNDERRUN; a control context of the voice becomes stale (R134). -/
def execPlayUnderrun (voice : Fin 32) (late : Nat) (s : State) : Host.Outcome State Fault Refusal :=
  .next (if s.busUp && (s.voice voice).busy then
      (((s.setVoice voice { s.voice voice with late := (s.voice voice).late + late }).voiceStale voice).bump
        F.DSPX_PLAYERR_UNDERRUN).ev A.DSPX_EVENT 29
    else s)

/-- Stored sample `k` of a sound in binary32: PCM16, PCM24 right-aligned in a 32-bit word, binary32 (R137; log entry 158). -/
def Sound.stored (d : Sound) (k : Nat) : BitVec 32 :=
  if d.format = 0 then f32OfFix (toSigned 16 (u16 d.data (2 * k))) 15
  else if d.format = 1 then f32OfFix (toSigned 24 (u32 d.data (4 * k) % 2 ^ 24)) 23
  else BitVec.ofNat 32 (u32 d.data (4 * k))

/-- The source sample at index `j` as a voice hears it: a looped sound repeats from LOOP_START, 0 lies beyond the ends. -/
def Voice.source (x : Voice) (d : Sound) (j : Int) : BitVec 32 :=
  let stop : Int := if d.looped then d.loopEnd else d.length
  let len : Int := (d.loopEnd : Int) - d.loopStart
  let j := if d.looped && !x.atEnd && decide (stop ≤ j) then d.loopStart + (j - stop) % len
    else if x.looped && decide (j < d.loopStart) then j + len else j
  if j < 0 ∨ stop ≤ j then 0 else d.stored j.toNat

/-- A voice's sample before its fade: 16 taps of one of 32 phases over the source samples about its position (R137; log entry
12). -/
def Voice.heard (x : Voice) (d : Sound) : BitVec 32 :=
  let at' : Int := x.pos / posUnit
  let phase := x.pos % posUnit * 32 / posUnit
  f32Dot ((List.range 16).map (fun t => (Config.soundTap phase t, x.source d (at' + 8 - t))))

/-- One sample of a voice, in binary32, and the voice after it: the position moves by the rate factor times the ratio
of the sound's rate to Fa; a looped sound goes back to LOOP_START at LOOP_END unless it is to end there (R137, R139). A fade falls
linearly over its 64 samples; a late sample is 0 (R138). -/
def State.voiceStep (s : State) (v : Nat) : BitVec 32 × Voice :=
  let x := s.voice v
  if !x.busy || s.voiceEnded v then (0, x)
  else
    match s.sound x.sound with
    | none => (0, x)
    | some d =>
      let y := if 0 < x.late then 0 else f32Mul (x.heard d) (f32OfFix (x.fade.getD 64) 6)
      let p := x.pos + x.rate * (47040 * faHz d.rate / s.fa)
      let back := d.looped && !x.atEnd && decide (d.stop ≤ p)
      let p := if back then d.loopStart * posUnit + (p - d.stop) % ((d.loopEnd - d.loopStart) * posUnit) else min p d.stop
      (y, { x with pos := p, fade := x.fade.map (fun k => k - 1), looped := x.looped || back, late := x.late - 1 })

/-! ### Control values -/

/-- The value of a control context for the frame just collected: the last sample, held when none came (R134). -/
def State.ctxTakeValue (s : State) (n : Nat) : State :=
  let c := s.ctx n
  match c.collected.getLast? with
  | some w => s.setCtx n { c with value := w, collected := [] }
  | none => s

end Sys2Proof.Machine
end

