-- ==== Sys2Proof/Machine/Decim.lean ====
section
/-!
DEFINITION. Machine/Decim.lean: the decimation chain: paths, settling and suppression, the ratio tracker, decimator resets
and the threshold units (R265 to R287).
-/

namespace Sys2Proof.Machine

open Sys2Proof

/-! ### Responses and set-up (R269, R270, R273, R279) -/

/-- Taps of a compensation response (table of R269). -/
def compTaps (i : Nat) : Nat := [1, 55, 59, 63, 67, 95, 48, 39, 43, 47, 31, 23, 23, 23, 23, 47].getD i 1

/-- Group delay of a response in Fi samples, at DC for response 6 (table of R269). -/
def compDelay (i : Nat) : Nat := [0, 27, 29, 31, 33, 47, 12, 19, 21, 23, 15, 11, 11, 11, 11, 23].getD i 0

/-- The decimation D of a response (table of R269). -/
def compD (i : Nat) : Nat := [1, 2, 2, 2, 2, 2, 2, 2, 2, 2, 2, 1, 1, 1, 1, 2].getD i 1

/-- The order a response matches; none for responses 0 and 15, which match any (table of R269). -/
def compOrder (i : Nat) : Option Nat :=
  [none, some 2, some 3, some 4, some 5, some 4, some 4, some 3, some 4, some 5, some 4, some 2, some 3, some 4,
   some 5, none].getD i none

/-- K and L within their ranges, the response matched to K, and ρ within 0.99 to 2.5 over ±1200 ppm of nominal (R270). The
bounds are those of Fc ÷ (4 × Fa × L × D) × (1 ± 0.0012). -/
def decimSetupOk (k l comp fa : Nat) : Bool :=
  decide (2 ≤ k) && decide (k ≤ 5) && decide (8 ≤ l) && decide (l ≤ 64) &&
  (match compOrder comp with
   | none => true
   | some o => o == k) &&
  decide (99 * 1000000 * (4 * fa * l * compD comp) ≤ 100 * 12288000 * 998800) &&
  decide (10 * 12288000 * 1001200 ≤ 25 * 1000000 * (4 * fa * l * compD comp))

/-- K, the order of the moving average. -/
def State.decimK (s : State) : Nat := s.rd F.DECIM_CFG_ORDER

/-- L, the length of the moving average. -/
def State.decimL (s : State) : Nat := s.rd F.DECIM_CFG_LENGTH

/-- The response of path `k`: DECIM_CFG's for a main path, its own for an auxiliary one (R265). -/
def State.pathComp (s : State) (k : Nat) : Nat :=
  if k < 32 then s.rd F.DECIM_CFG_COMP else s.rd (F.DECIM_PATHk_CFG_COMP k)

/-- The sense input of path `k`. -/
def State.pathInput (s : State) (k : Nat) : Nat := if k < 32 then k else s.rd (F.DECIM_PATHk_CFG_INPUT k)

/-- Path `k` is enabled; the main paths always are. -/
def State.pathEn (s : State) (k : Nat) : Bool := decide (k < 32) || s.on (F.DECIM_PATHk_CFG_EN k)

/-- S, the suppressed output samples of a settling span of path `k` (R279). -/
def State.span (s : State) (k : Nat) : Nat :=
  25 + ceilDivN ((s.decimK + compTaps (s.pathComp k) - 1) * s.decimL * 4 * s.fa) 12288000
where
  /-- The quotient rounded up. -/
  ceilDivN (a b : Nat) : Nat := (a + b - 1) / b

/-- T_chain of the main paths in nanoseconds (R273). -/
def State.chainDelay (s : State) : Nat :=
  let c := s.rd F.DECIM_CFG_COMP
  roundN ((s.decimK * (s.decimL - 1) + 2 * compDelay c * s.decimL) * 4 * s.fa * 1000000000 + 24 * 12288000 * 1000000000)
    (2 * 12288000 * 4 * s.fa)

/-! ### Paths -/

/-- The record of path `k`. -/
def State.path (s : State) (k : Nat) : PathSt := Tbl.get PathSt.reset s.decim.paths k

/-- Set the record of path `k`. -/
def State.setPath (s : State) (k : Nat) (p : PathSt) : State :=
  { s with decim := { s.decim with paths := Tbl.set PathSt.reset s.decim.paths k p } }

/-- The window of threshold unit `u`. -/
def State.thr (s : State) (u : Nat) : ThrSt := Tbl.get ThrSt.reset s.decim.thr u

/-- Set the window of threshold unit `u`. -/
def State.setThr (s : State) (u : Nat) (x : ThrSt) : State :=
  { s with decim := { s.decim with thr := Tbl.set ThrSt.reset s.decim.thr u x } }

/-- The threshold units that watch path `k`. -/
def State.thrOf (s : State) (k : Nat) : List Nat :=
  (List.range 16).filter (fun u => s.on (F.DECIM_THRu_CFG_EN u) && decide (s.rd (F.DECIM_THRu_CFG_PATH u) = k))

/-- The path becomes suppressed: windows restart, debounce counts clear, ACTIVE is kept (R286). -/
def State.pathSuppress (s : State) (k st : Nat) : State :=
  let t := (s.wr (F.DECIM_PATHk_STAT_STATE k) st)
  if s.rd (F.DECIM_PATHk_STAT_STATE k) = 2 then
    t.forEach (t.thrOf k) (fun u t => (t.setThr u ThrSt.reset).wr (F.DECIM_THRu_STAT_COUNT u) 0)
  else t

/-- REMAIN shows the span left, at most 63. -/
def State.pathRemain (s : State) (k n : Nat) : State :=
  (s.setPath k { s.path k with remain := n }).wr (F.DECIM_PATHk_STAT_REMAIN k) (min n 63)

/-- An input MODE that suppresses: off, calibrating or failed (R279). -/
def modeSuppresses (mode : Nat) : Bool := decide (mode ≤ 1) || decide (5 ≤ mode)

/-- A settling span of path `k` starts (R279, R280): a later event restarts it, events at one output instant start one,
and while the input's MODE suppresses, the path waits for it. -/
def State.pathSettle (s : State) (k : Nat) : State :=
  if !s.decim.started || !s.pathEn k then s
  else if modeSuppresses (s.rd (F.SENSE_INk_STAT_MODE (s.pathInput k))) then (s.pathSuppress k 3).pathRemain k 0
  else if s.rd (F.DECIM_PATHk_STAT_STATE k) = 1 ∧ (s.path k).remain = s.span k then s
  else ((s.pathSuppress k 1).pathRemain k (s.span k)).bump (F.DECIM_PATHk_CNT_SETTLES k)

/-- A settling span starts on every path. -/
def State.settleAll (s : State) : State := s.forAll 36 (fun k t => t.pathSettle k)

/-- The last suppressed sample has passed: the path is valid (R279). -/
def State.pathSettled (s : State) (k : Nat) : State :=
  if s.rd (F.DECIM_PATHk_STAT_STATE k) = 1 ∧ (s.path k).remain = 0 then
    (s.wr (F.DECIM_PATHk_STAT_STATE k) 2).ev A.DECIM_EVENT 16
  else s

/-- DECIM_SETTLED. -/
def execDecimSettled (k : Fin 36) (s : State) : Host.Outcome State Fault Refusal := .next (s.pathSettled k)

/-- The MODE of sense input `i` has changed from `old` (R279): its paths are suppressed while it is off, calibrating or
failed, and settle afresh when it becomes interleaved or single-slice from there. -/
def State.decimMode (s : State) (i old : Nat) : State :=
  let new := s.rd (F.SENSE_INk_STAT_MODE i)
  s.forAll 36 (fun k t =>
    if t.pathInput k = i ∧ t.pathEn k = true ∧ t.decim.started = true then
      if modeSuppresses new then (t.pathSuppress k 3).pathRemain k 0
      else if modeSuppresses old then t.pathSettle k
      else t
    else t)

/-- Advance the integrators by one input, each taking the sum of the one before it, modulo 2^56 (R266). -/
def integrate : Nat → List Nat → Int → List Nat × Int
  | 0, _, x => ([], x)
  | n + 1, l, x =>
    let a := ofSigned 56 ((l.headD 0 : Nat) + x)
    let r := integrate n l.tail (a : Int)
    (a :: r.1, r.2)

/-- Run the combs on one Fi sample, each subtracting its value one Fi sample earlier, modulo 2^56 (R266). -/
def combRun : Nat → List Nat → Int → List Nat × Int
  | 0, _, x => ([], x)
  | n + 1, l, x =>
    let y := ofSigned 56 (x - (l.headD 0 : Nat))
    let r := combRun n l.tail (y : Int)
    (ofSigned 56 x :: r.1, r.2)

/-- One input sample enters a path (R266): x = y × 2^10 rounded to nearest, within 26 bits. -/
def PathSt.input (p : PathSt) (k l : Nat) (x : Int) : PathSt :=
  let a := integrate k p.intg x
  let p := { p with intg := a.1, phase := p.phase - 2 ^ 24 }
  if p.cnt + 1 < l then { p with cnt := p.cnt + 1 }
  else
    let c := combRun k p.comb a.2
    { p with cnt := 0, odd := !p.odd, comb := c.1, fi := (toSigned 56 (ofSigned 56 c.2) :: p.fi).take 256 }

/-- A corrected sample of sense input `i` enters its paths (R265, R266, R281); `y` is in units of 2^−24 codes. An
overranged sample marks the outputs whose input span includes it. -/
def State.decimIn (s : State) (i : Nat) (y : Int) (exceeds : Bool) : State :=
  let x := clampInt (-(2 ^ 25)) (2 ^ 25 - 1) (roundAway y (2 ^ 14))
  if !s.decim.started then s
  else
    s.forAll 36 (fun k t =>
      if t.pathEn k = true ∧ t.pathInput k = i then
        let p := (t.path k).input t.decimK t.decimL x
        t.setPath k { p with ovr := if exceeds then t.span k else p.ovr }
      else t)
where
  /-- Round to nearest, ties away from zero (R266). -/
  roundAway (n : Int) (d : Nat) : Int :=
    if 0 ≤ n then (2 * n + d) / (2 * d : Nat) else -((2 * (-n) + d) / (2 * d : Nat))

/-! ### Threshold units (R285, R286) -/

/-- The measure of a unit against a level: 1 above, 0 equal, −1 below. The RMS is compared as its exact square root. -/
def thrCompare (measure : Nat) (x : Int) (w : ThrSt) (level : Int) : Int :=
  let v : Int := if measure = 0 then x else if measure = 1 then x.natAbs else w.peak
  if measure = 3 then
    if level < 0 then 1 else ((w.sq : Int) - level * level * w.n).sign
  else (v - level).sign

/-- Does the entry test of a condition hold (table of R285)? `hi`, `lo`: the measure against HI and LO. -/
def thrEnters (cond : Nat) (hi lo : Int) : Bool :=
  if cond = 0 then decide (hi = 1) else if cond = 1 then decide (lo = -1)
  else if cond = 2 then decide (hi = 1 ∨ lo = -1) else decide (lo ≠ -1 ∧ hi ≠ 1)

/-- Does the exit test of a condition hold (table of R285)? -/
def thrLeaves (cond : Nat) (hi lo : Int) : Bool :=
  if cond = 0 then decide (lo ≠ 1) else if cond = 1 then decide (hi ≠ -1)
  else if cond = 2 then decide (lo ≠ -1 ∧ hi ≠ 1) else decide (hi = 1 ∨ lo = -1)

/-- One evaluation of unit `u` (R285). -/
def State.thrEvaluate (s : State) (u : Nat) (x : Int) (w : ThrSt) : State :=
  let m := s.rd (F.DECIM_THRu_CFG_MEASURE u)
  let cond := s.rd (F.DECIM_THRu_CFG_COND u)
  let hi := thrCompare m x w (s.rdI (F.DECIM_THRu_HI_LEVEL u))
  let lo := thrCompare m x w (s.rdI (F.DECIM_THRu_LO_LEVEL u))
  let active := s.on (F.DECIM_THRu_STAT_ACTIVE u)
  let test := if active then thrLeaves cond hi lo else thrEnters cond hi lo
  if !test then s.wr (F.DECIM_THRu_STAT_COUNT u) 0
  else if s.rd (F.DECIM_THRu_STAT_COUNT u) + 1 < s.rd (F.DECIM_THRu_CFG_DEBOUNCE u) then
    s.wr (F.DECIM_THRu_STAT_COUNT u) (s.rd (F.DECIM_THRu_STAT_COUNT u) + 1)
  else
    let s := s.wr (F.DECIM_THRu_STAT_COUNT u) 0
    if active then
      (s.wr (F.DECIM_THRu_STAT_ACTIVE u) 0).when (s.on (F.DECIM_THRu_CFG_EXIT_EVT u)) (fun s => s.ev A.DECIM_EVENT u)
    else
      (((s.wr (F.DECIM_THRu_STAT_ACTIVE u) 1).ev A.DECIM_EVENT u).bump (F.DECIM_THRu_STAT_ENTRIES u)).when
        (s.on (F.DECIM_THRu_CFG_FCOL u)) (fun s => s.raise 6 u 1 0 false)

/-- An output sample reaches unit `u`: its window takes it, and at the window's end (at every sample for the first two
measures) the unit is evaluated (R285). -/
def State.thrSample (s : State) (u : Nat) (x : Int) : State :=
  let m := s.rd (F.DECIM_THRu_CFG_MEASURE u)
  if m < 2 then s.thrEvaluate u x ThrSt.reset
  else
    let w := s.thr u
    let w : ThrSt := { n := w.n + 1, peak := max w.peak x.natAbs, sq := w.sq + x.natAbs * x.natAbs }
    if w.n < 2 ^ s.rd (F.DECIM_THRu_CFG_WIN_LOG2 u) then s.setThr u w
    else (s.setThr u ThrSt.reset).thrEvaluate u x w

/-- A write of DECIM_THRu_CFG, HI or LO (`r` 0, 1, 2): refused where it changes more than EN while EN is 1, or leaves a
range, or puts LO above HI; clearing EN clears ACTIVE and the debounce count (R286). -/
def State.thrWrite (s : State) (u r : Nat) (v : BitVec 32) : State :=
  let refused := s.bump F.DECIM_CNT_WR_REFUSED
  if r = 0 then
    let old := s.reg (A.DECIM_THRu_CFG u)
    let new := v &&& 0xEFFF333F
    if s.on (F.DECIM_THRu_CFG_EN u) && (new &&& 0x7FFFFFFF) != (old &&& 0x7FFFFFFF) then refused
    else if getField v 24 4 < 4 ∨ 14 < getField v 24 4 ∨ getField v 16 8 = 0 ∨ 35 < getField v 0 6 then refused
    else
      let t := s.setReg (A.DECIM_THRu_CFG u) new
      if new.getLsbD 31 then (if s.on (F.DECIM_THRu_CFG_EN u) then t else t.setThr u ThrSt.reset)
      else ((t.wr (F.DECIM_THRu_STAT_ACTIVE u) 0).wr (F.DECIM_THRu_STAT_COUNT u) 0).setThr u ThrSt.reset
  else
    let hi := if r = 1 then v.toInt else s.rdI (F.DECIM_THRu_HI_LEVEL u)
    let lo := if r = 2 then v.toInt else s.rdI (F.DECIM_THRu_LO_LEVEL u)
    if hi < lo then refused
    else s.setReg (if r = 1 then A.DECIM_THRu_HI u else A.DECIM_THRu_LO u) v

/-- THR_CFG_WRITE. -/
def execThrCfgWrite (u : Fin 16) (r : Fin 3) (v : Word) (s : State) : Host.Outcome State Fault Refusal :=
  .next (s.reach (A.DECIM_THRu_CFG u) (fun s => s.thrWrite u r v))

/-! ### Output samples (R268, R271, R272, R274, R279, R281) -/

/-- One more output sample of a frame, suppressed or carrying OVR (R274, R281). -/
def PathFrame.take (f : PathFrame) (y : Int) (suppressed exceeds : Bool) : PathFrame :=
  { samples := f.samples ++ [y], suppressed := f.suppressed + suppressed.toNat, ovr := f.ovr || exceeds }

/-- One more output sample of a path in its frames of both classes. -/
def PathSt.take (p : PathSt) (y : Int) (suppressed exceeds : Bool) : PathSt :=
  { p with cur := p.cur.take y suppressed exceeds, cur4 := p.cur4.take y suppressed exceeds }

/-- What the responses give for path `k` before saturation: its place within the Fi grid, its input's sampling instant and the
spread phase place every input at its nominal time (R268, R271, R272). -/
def State.chainOut (s : State) (k : Nat) (p : PathSt) : Int :=
  let i := s.pathInput k
  Config.chainSample (decide (16 ≤ i))
    [s.decimK, s.decimL, s.pathComp k, s.rd F.DECIM_RATIO_VALUE, p.cnt, p.odd.toNat, i % 4, (s.reg A.SYS_PLLA_CFG).toNat,
     (s.reg A.LOOP_CSCNT).toNat] p.phase p.fi

/-- Path `k` forms its output sample: suppressed ones are delivered as 0; the others saturate to the format, are kept in
VAL and reach the threshold units. -/
def State.pathOutput (s : State) (k : Nat) : State :=
  if !s.pathEn k then s
  else
    let s := s.pathSettled k
    let p := s.path k
    let p := { p with phase := p.phase + s.rd F.DECIM_RATIO_VALUE, ovr := p.ovr - 1 }
    let exceeds := decide (0 < (s.path k).ovr)
    let s := s.wrB (F.DECIM_PATHk_STAT_OVR k) exceeds
    if s.rd (F.DECIM_PATHk_STAT_STATE k) = 2 then
      let x := s.chainOut k p
      let y := clampInt (-(2 ^ 31)) (2 ^ 31 - 1) x
      let s := s.setPath k (p.take y false exceeds)
      let s := if x = y then s else (s.bump (F.DECIM_PATHk_CNT_SAT k)).ev A.DECIM_EVENT 21
      let s := s.wrI (F.DECIM_PATHk_VAL_VALUE k) y
      s.forEach (s.thrOf k) (fun u t => t.thrSample u y)
    else
      let s := s.setPath k (p.take 0 true exceeds)
      if s.rd (F.DECIM_PATHk_STAT_STATE k) = 1 then s.pathRemain k (p.remain - 1) else s

/-- DECIM_OUTPUT_SAMPLE: every path forms its output sample of one owner instant (R272). -/
def execDecimOutputSample (s : State) : Host.Outcome State Fault Refusal :=
  .next (if s.decim.started then s.forAll 36 (fun k t => t.pathOutput k) else s)

/-- A frame boundary: the samples and the status of the ended period become available to the next frame of the class, 128 samples
for an F32 frame and 16 for an F4 frame (R274). -/
def State.decimFrame (s : State) (f4 : Bool) : State :=
  if !s.decim.started then s
  else s.forAll 36 (fun k t =>
    let p := t.path k
    t.setPath k (if f4 then { p with cur4 := PathFrame.empty, frame4 := p.cur4 }
                 else { p with cur := PathFrame.empty, frame := p.cur }))

/-! ### Ratio tracker (R275 to R278) -/

/-- RATIO limited to nominal ±1200 ppm (R278); RANGE shows a value held there. -/
def State.setRatio (s : State) (r : Nat) : State :=
  let n := s.nominalRatio
  let lo := n * 9988 / 10000
  let hi := n * 10012 / 10000
  if lo < r ∧ r < hi then (s.wr F.DECIM_RATIO_VALUE r).wr F.DECIM_TRKSTAT_RANGE 0
  else (s.wr F.DECIM_RATIO_VALUE (max lo (min hi r))).wr F.DECIM_TRKSTAT_RANGE 1

/-- Entry to ACQUIRING (R276): RATIO is seeded from the mean owner period (491.52 MHz cycles, UQ16.8), the output phase
is aligned to the owner tick, every path settles. -/
def State.trackerAcquire (s : State) (period : Nat) : State :=
  if s.rd F.SYS_TSRC_SRC = 0b101 then s.trackerIdle
  else
    let t := (s.wr F.DECIM_TRKSTAT_STATE 1).setRatio (roundN (period * 2 ^ 16) 160)
    let t := { t with decim := { t.decim with close := 0, loopAcc := 0, seed := period } }
    let t := t.forAll 36 (fun k t => t.setPath k { t.path k with phase := 0 })
    (t.wr F.DECIM_PHERR_NOW 0).settleAll

/-- RATIO_TRACKER_TICK: the phase error measured at an owner tick, in units of 2^−16 output sample, moves RATIO (R276,
R278); 4096 output samples within ±0.05 lock, more than ±0.25 unlocks. An owner tick is four output samples. -/
def execRatioTrackerTick (err : Int) (s : State) : Host.Outcome State Fault Refusal :=
  let st := s.rd F.DECIM_TRKSTAT_STATE
  if !s.decim.started || decide (st ≠ 1 ∧ st ≠ 2) then .next s
  else
    let r := Config.trackRatio (s.rd F.DECIM_TRK_BW) (s.rd F.DECIM_RATIO_VALUE) s.decim.loopAcc err
    let s := (s.setRatio r.1).peak F.DECIM_PHERR_PEAK err.natAbs
    let s := s.wrI F.DECIM_PHERR_NOW (clampInt (-32768) 32767 err)
    let close := if err.natAbs * 20 ≤ 65536 ∧ s.rd F.DECIM_TRKSTAT_RANGE = 0 then min (s.decim.close + 4) 4096 else 0
    let s := { s with decim := { s.decim with close := close, loopAcc := r.2 } }
    if st = 1 ∧ close = 4096 then .next ((s.wr F.DECIM_TRKSTAT_STATE 2).ev A.DECIM_EVENT 19)
    else if st = 2 ∧ 65536 < err.natAbs * 4 then
      .next ((s.ev A.DECIM_EVENT 20).trackerAcquire s.decim.seed)
    else .next s

/-! ### Start and resets (R279, R282 to R284) -/

/-- A path with its filter registers clear, at a place of the common Fi grid and resampler phase; its frames and its span stay. -/
def PathSt.fresh (p : PathSt) (phase : Int) (cnt : Nat) (odd : Bool) : PathSt :=
  { PathSt.reset with
    phase := phase, cnt := cnt, odd := odd, remain := p.remain, cur := p.cur, cur4 := p.cur4, frame := p.frame, frame4 := p.frame4 }

/-- Every register of every path is cleared and phased (R283). -/
def State.decimClear (s : State) : State :=
  s.forAll 36 (fun k t =>
    let p := t.path k
    t.setPath k (p.fresh 0 0 false))

/-- The chain starts, at boot or at the end of a block reset (R279): DELAY and RATIO show, every path settles. -/
def State.decimStart (s : State) : State :=
  let s := { s with decim := { DecimSt.reset with started := true, seed := s.decim.seed } }
  let s := s.forAll 36 (fun k t => t.wr (F.DECIM_PATHk_CFG_COMP k) (s.rd F.DECIM_CFG_COMP))
  let s := (s.wr F.DECIM_DELAY_NS s.chainDelay).wr F.DECIM_RATIO_VALUE s.nominalRatio
  let s := if s.rd F.SYS_TSRC_SRC = 0b101 ∨ !s.on F.SYS_CLKSTAT_TSRC_LOCKED then s.trackerIdle
           else s.trackerAcquire s.decim.seed
  s.settleAll

/-- A decimator reset is asked for at aligned index `j`; a later request replaces one that waits (R282, R284). -/
def State.decimRequest (s : State) (j : Nat) : State :=
  { s with decim := { s.decim with resetAt := some (BitVec.ofNat 32 j) } }

/-- DECIM_RESET: the owner instant of J (R283), or the reset is discarded (R284). -/
def execDecimReset (s : State) : Host.Outcome State Fault Refusal :=
  match s.decim.resetAt with
  | none => .next s
  | some j =>
    let s := { s with decim := { s.decim with resetAt := none } }
    if s.decim.started && !s.on F.SYS_BLKRST_DECIM then
      .next ((s.decimClear.settleAll.setReg A.DECIM_SYNCSTAT j).ev A.DECIM_EVENT 17)
    else .next ((s.bump F.DECIM_CNT_SYNC_DISCARDED).ev A.DECIM_EVENT 18)

/-- A write of an auxiliary path's CFG (R265, R270, R279): COMP only while EN is 0 and within R270's limits; a change of
INPUT or COMP, or setting EN, starts a settling span. The path joins the grid and the phase of the main path of its input, for all
paths represent the same instants (R272). -/
def State.auxPathWrite (s : State) (k : Nat) (v : BitVec 32) : State :=
  let old := s.reg (A.DECIM_PATHk_CFG k)
  let en := getField old 31 1 = 1
  let comp := getField v 16 4
  if comp ≠ getField old 16 4 ∧ (en ∨ decimSetupOk s.decimK s.decimL comp s.fa = false) then
    s.bump F.DECIM_CNT_WR_REFUSED
  else
    let t := s.setReg (A.DECIM_PATHk_CFG k) (v &&& 0x800F001F)
    let m := t.path (getField v 0 5)
    if !v.getLsbD 31 then
      ((t.pathSuppress k 0).setPath k PathSt.reset).pathRemain k 0
    else if !en then (t.setPath k ((t.path k).fresh m.phase m.cnt m.odd)).pathSettle k
    else if getField v 0 5 ≠ getField old 0 5 then
      (t.setPath k { t.path k with phase := m.phase, cnt := m.cnt, odd := m.odd }).pathSettle k
    else t

/-- AUX_PATH_CFG_WRITE: path 32 + k. -/
def execAuxPathCfgWrite (k : Fin 4) (v : Word) (s : State) : Host.Outcome State Fault Refusal :=
  .next (s.reach (A.DECIM_PATHk_CFG (32 + k)) (fun s => s.auxPathWrite (32 + k) v))

end Sys2Proof.Machine
end

