-- ==== Sys2Proof/Machine/Trace.lean ====
section
/-!
DEFINITION. Machine/Trace.lean: the four trace buffers (R243 to R248).
-/

namespace Sys2Proof.Machine

open Sys2Proof

/-- Trace state IDLE. -/
abbrev tIdle : Nat := 0
/-- Trace state FILLING. -/
abbrev tFilling : Nat := 1
/-- Trace state READY. -/
abbrev tReady : Nat := 2
/-- Trace state POST. -/
abbrev tPost : Nat := 3
/-- Trace state DONE. -/
abbrev tDone : Nat := 4
/-- Trace state STOPPED. -/
abbrev tStopped : Nat := 5
/-- Trace state RUN. -/
abbrev tRun : Nat := 6

/-- The record of trace buffer `b`. -/
def State.tbuf (s : State) (b : Nat) : TraceBuf := Tbl.get TraceBuf.reset s.loop.trace b

/-- Set the record of trace buffer `b`. -/
def State.setTbuf (s : State) (b : Nat) (x : TraceBuf) : State :=
  { s with loop := { s.loop with trace := Tbl.set TraceBuf.reset s.loop.trace b x } }

/-- The state of trace buffer `b`. -/
def State.tState (s : State) (b : Nat) : Nat := s.rd (F.TRACE_STATb_STATE b)

/-- Samples a buffer holds: 16 384 words ÷ (NCOUNT + 1) (R243). -/
def State.tCapacity (s : State) (b : Nat) : Nat := 16384 / (s.rd (F.TRACE_CFGb_NCOUNT b) + 1)

/-- A refused trace write or ARM is counted. -/
def State.traceRefused (s : State) : State := s.bump F.TRACE_ERR_CFG_REFUSED

/-- A write of TRACE_CFGb, TRACE_NODESb, TRACE_LEVELb or TRACE_DEPTHb (`k` 0 to 3): accepted in IDLE, DONE and STOPPED
with codes the tables name (R243, R244, R246). -/
def State.traceCfgWrite (s : State) (b k : Nat) (v : BitVec 32) : State :=
  let idle := decide (s.tState b = tIdle ∨ s.tState b = tDone ∨ s.tState b = tStopped)
  let ok :=
    if k = 0 then decide (getField v 8 4 ≤ 10) && decide (getField v 16 4 ≤ 12) && decide (getField v 0 5 ≤ 15)
    else if k = 1 then
      decide (getField v 0 5 ≤ 15) && decide (getField v 8 5 ≤ 15) && decide (getField v 16 5 ≤ 15) && decide (getField v 24 5 ≤ 15)
    else true
  if idle && ok then
    if k = 0 then s.setReg (A.TRACE_CFGb b) (v &&& 0x8F3F3F1F)
    else if k = 1 then s.setReg (A.TRACE_NODESb b) (v &&& 0x1F1F1F1F)
    else if k = 2 then s.setReg (A.TRACE_LEVELb b) v
    else s.setReg (A.TRACE_DEPTHb b) (v &&& 0x3FFF3FFF)
  else s.traceRefused

/-- TRACE_CFG_WRITE. -/
def execTraceCfgWrite (b : Fin 4) (k : Fin 4) (v : Word) (s : State) : Host.Outcome State Fault Refusal :=
  .next (s.reach (A.TRACE_CFGb b) (fun s => s.traceCfgWrite b k v))

/-- The trigger level of a buffer in its node's format (R4): the nodes u and t are Q0.17, so their level is the value of the low 18
bits; every other node takes the whole word. -/
def State.traceLevel (s : State) (b : Nat) : Int :=
  let node := s.rd (F.TRACE_CFGb_TRIG_NODE b)
  if node = 9 ∨ node = 12 then toSigned 18 (getField (s.reg (A.TRACE_LEVELb b)) 0 18) else (s.reg (A.TRACE_LEVELb b)).toInt

/-- ARM (R245, R246): from IDLE, DONE or STOPPED, into FILLING (READY with PRE 0), or RUN in free-run mode; a record
that exceeds the capacity, or another state, refuses it. -/
def State.traceArm (s : State) (b : Nat) : State :=
  let st := s.tState b
  let pre := s.rd (F.TRACE_DEPTHb_PRE b)
  let post := s.rd (F.TRACE_DEPTHb_POST b)
  let free := s.on (F.TRACE_CFGb_MODE b)
  if (st = tIdle ∨ st = tDone ∨ st = tStopped) ∧ (free ∨ pre + 1 + post ≤ s.tCapacity b) then
    let t := (s.setTbuf b TraceBuf.reset).setReg (A.TRACE_LENb b) 0
    t.setReg (A.TRACE_STATb b)
      (BitVec.ofNat 32 (if free then tRun else if pre = 0 then tReady else tFilling))
  else (s.ev A.TRACE_EVENT (4 * b + 3)).traceRefused

/-- TRACE_ARM. -/
def execTraceArm (b : Fin 4) (s : State) : Host.Outcome State Fault Refusal :=
  .next (s.reach (A.TRACE_CTRLb b) (fun s => s.traceArm b))

/-- The record is complete: its length shows, the state is DONE or STOPPED. -/
def State.traceEnd (s : State) (b st : Nat) : State :=
  let n := (s.tbuf b).samples.length
  let t := (s.wr (F.TRACE_LENb_SAMPLES b) n).wr (F.TRACE_LENb_WORDS b) (n * (s.rd (F.TRACE_CFGb_NCOUNT b) + 1))
  t.wr (F.TRACE_STATb_STATE b) st

/-- STOP (R246): a capturing buffer enters STOPPED. -/
def State.traceStop (s : State) (b : Nat) : State :=
  let st := s.tState b
  if st = tFilling ∨ st = tReady ∨ st = tPost ∨ st = tRun then s.traceEnd b tStopped else s

/-- TRACE_STOP. -/
def execTraceStop (b : Fin 4) (s : State) : Host.Outcome State Fault Refusal :=
  .next (s.reach (A.TRACE_CTRLb b) (fun s => s.traceStop b))

/-- A trigger of buffer `b` (R244, R245): taken in READY, ignored and counted in FILLING; buffers that take this one as
their source are triggered in the same control sample, each once (`seen` holds those done, `k` bounds the chain). -/
def State.traceTrigger : Nat → List Nat → Nat → State → State
  | 0, _, _, s => s
  | k + 1, seen, b, s =>
    if seen.contains b then s
    else if s.tState b = tFilling then s.bump F.TRACE_ERR_EARLY_TRIG
    else if s.tState b = tReady then
      let pre := s.rd (F.TRACE_DEPTHb_PRE b)
      let x := s.tbuf b
      let t := s.setTbuf b { x with samples := x.samples.drop (x.samples.length - pre),
                                    post := s.rd (F.TRACE_DEPTHb_POST b) + 1 }
      let t := (t.wr (F.TRACE_STATb_STATE b) tPost).wr (F.TRACE_STATb_TRIG_VALID b) 1
      let t := (t.wr (F.TRACE_STATb_TRIG_INDEX b) pre).setReg (A.TRACE_STAMPb b) (t.reg A.LOOP_CSCNT)
      let t := t.ev A.TRACE_EVENT (4 * b + 1)
      t.forAll 4 (fun d t =>
        if t.rd (F.TRACE_CFGb_TRIG_SRC d) = 9 ∧ t.rd (F.TRACE_CFGb_CROSS_BUF d) = b then
          State.traceTrigger k (b :: seen) d t
        else t)
    else s

/-- A trigger of buffer `b`. -/
def State.trigger (s : State) (b : Nat) : State := State.traceTrigger 5 [] b s

/-- TRACE_FORCE (R244). -/
def execTraceForce (b : Fin 4) (s : State) : Host.Outcome State Fault Refusal :=
  .next (s.reach (A.TRACE_CTRLb b) (fun s => s.trigger b))

/-- A write of TRACE_CTRLb: STOP, then ARM, then FORCE; STOP governs a trigger written with it (R246). -/
def State.traceCtrl (s : State) (b : Nat) (v : BitVec 32) : State :=
  let t := s.when (v.getLsbD 1) (fun t => t.traceStop b)
  let t := t.when (v.getLsbD 0) (fun t => t.traceArm b)
  t.when (v.getLsbD 2 && !v.getLsbD 1) (fun t => t.trigger b)

/-- An event of channel `c` triggers the buffers whose source it is (R244): code 4 fallback entry, 5 saturation,
6 repetitive controller state change, 8 residue event. -/
def State.traceChannel (s : State) (c code : Nat) : State :=
  s.forAll 4 (fun b t =>
    if t.rd (F.TRACE_CFGb_TRIG_SRC b) = code ∧ t.rd (F.TRACE_CFGb_CHANNEL b) = c then t.trigger b else t)

/-- A trip triggers the buffers with source 7 whose channel is one of those bound to the output (R244). -/
def State.traceTrip (s : State) (chans : List Nat) : State := s.forEach chans (fun c t => t.traceChannel c 7)

/-- A rising edge of the SYNC pin triggers the buffers with source 0xA (R244). -/
def State.traceSync (s : State) : State :=
  s.forAll 4 (fun b t => if t.rd (F.TRACE_CFGb_TRIG_SRC b) = 10 then t.trigger b else t)

/-- Buffer `b` captures a sample (R245). -/
def State.traceCapture (s : State) (b : Nat) (x : List (BitVec 32)) : State :=
  let st := s.tState b
  let r := s.tbuf b
  let cap := s.tCapacity b
  let more := r.samples ++ [x]
  if st = tFilling then
    let t := s.setTbuf b { r with samples := more }
    if s.rd (F.TRACE_DEPTHb_PRE b) ≤ more.length then t.wr (F.TRACE_STATb_STATE b) tReady else t
  else if st = tReady ∨ st = tRun then s.setTbuf b { r with samples := more.drop (more.length - cap) }
  else if st = tPost then
    let t := s.setTbuf b { r with samples := more, post := r.post - 1 }
    if r.post ≤ 1 then (t.traceEnd b tDone).ev A.TRACE_EVENT (4 * b) else t
  else s

/-- The word a window read shows (R247): record word 8192 × HALF + w; 0 beyond the record. -/
def State.traceWord (s : State) (w : Nat) : BitVec 32 :=
  ((s.tbuf (s.rd F.TRACE_WIN_BUF)).samples.flatten).getD (8192 * s.rd F.TRACE_WIN_HALF + w) 0

/-- A read of window word `w` (R246, R247): refused, counted and flagged unless the buffer is in DONE or STOPPED; a word
that fails its CRC-7 (`bad`) reads as 0x8000_0000 and is counted. -/
def State.traceRead (s : State) (w : Nat) (bad : Bool) : State × BitVec 32 :=
  let b := s.rd F.TRACE_WIN_BUF
  if s.tState b = tDone ∨ s.tState b = tStopped then
    if bad then (s.bump F.TRACE_ERR_CRC, 0x80000000) else (s, s.traceWord w)
  else ((s.bump F.TRACE_ERR_READ_REFUSED).ev A.TRACE_EVENT (4 * b + 2), 0)

/-- TRACE_WINDOW_READ: the word goes to the reader. -/
def execTraceWindowRead (w : Fin 8192) (bad : Bool) (s : State) : Host.Outcome State Fault Refusal :=
  let r := if s.islandStopped A.TRACE_WIN then (s.bump F.SYS_XING_ERR_STALLED, 0) else s.traceRead w bad
  .next { r.1 with hbus := { r.1.hbus with out := leBytes 4 r.2.toNat } }

end Sys2Proof.Machine
end

