-- ==== Sys2Proof/Machine/Rc.lean ====
section
/-!
DEFINITION. Machine/Rc.lean: the repetitive controller but for its part in the lane slot: trackers, channel states, fades,
configuration and tables (R228 to R242).
-/

namespace Sys2Proof.Machine

open Sys2Proof

/-- Repetitive controller state WAIT (R235). -/
abbrev rcWait : Nat := 1
/-- LEARNING. -/
abbrev rcLearning : Nat := 2
/-- CONVERGED. -/
abbrev rcConverged : Nat := 3
/-- HOLD. -/
abbrev rcHold : Nat := 4
/-- FADE. -/
abbrev rcFade : Nat := 5

/-- The record of tracker `k`. -/
def State.tracker (s : State) (k : Nat) : Tracker := Tbl.get Tracker.reset s.loop.trk k

/-- Set the record of tracker `k`; LOOP_RC_PERIODs and LOOP_RC_TRKSTAT show it. -/
def State.setTracker (s : State) (k : Nat) (x : Tracker) : State :=
  let t := { s with loop := { s.loop with trk := Tbl.set Tracker.reset s.loop.trk k x } }
  (t.wr (F.LOOP_RC_PERIODs_P k) x.period).setBit A.LOOP_RC_TRKSTAT k x.locked

/-- The record of the controller of channel `c`. -/
def State.rc (s : State) (c : Nat) : RcCh := Tbl.get RcCh.reset s.loop.rc c

/-- Set the record of the controller of channel `c`. -/
def State.setRc (s : State) (c : Nat) (x : RcCh) : State :=
  { s with loop := { s.loop with rc := Tbl.set RcCh.reset s.loop.rc c x } }

/-- The state of the controller of channel `c`. -/
def State.rcState (s : State) (c : Nat) : Nat := s.rd (F.LOOP_RC_CHc_STAT_STATE c)

/-- The controller of channel `c` changes state (trigger 6 of R244). -/
def State.rcGoto (s : State) (c st : Nat) : State :=
  if s.rcState c = st then s else (s.wr (F.LOOP_RC_CHc_STAT_STATE c) st).traceChannel c 6

/-- A refused write is counted (R230, R239). -/
def State.rcRefused (s : State) : State := s.bump F.LOOP_RC_CNT_WR_REFUSED

/-- Control samples of a bin (R231). -/
def State.binW (s : State) (c : Nat) : Nat := s.rd (F.LOOP_RC_CHc_CFG_BIN_W c) + 1

/-- N_B lies between 8 and 4096 for a period of UQ18.14 control samples (R231). -/
def nbInRange (p w : Nat) : Bool := decide (8 * w * 2 ^ 14 ≤ p) && decide (p ≤ 4096 * w * 2 ^ 14)

/-- BINS and RANGE of channel `c` for a period (R231). -/
def State.rcBins (s : State) (c p : Nat) : State :=
  let w := s.binW c
  let t := s.wr (F.LOOP_RC_CHc_STAT_BINS c) (min 8191 ((p + w * 2 ^ 14 - 1) / (w * 2 ^ 14)))
  t.wrB (F.LOOP_RC_CHc_STAT_RANGE c) (decide (p ≠ 0) && !nbInRange p w)

/-- The controller enters FADE towards state `after` (R238): over 4 × P control samples, P the last period. A fade that
runs is not restarted; only the state after it changes, and EN = 0 (`after` OFF) takes precedence. -/
def State.rcEnterFade (s : State) (c after : Nat) (keep : Bool) : State :=
  let x := s.rc c
  if s.rcState c = rcFade then
    if x.after = 0 ∧ after ≠ 0 then s else s.setRc c { x with after := after, keep := keep }
  else
    let n := roundN (4 * x.p) (2 ^ 14)
    (s.setRc c { x with fadeLeft := n, fadeLen := n, after := after, keep := keep }).rcGoto c rcFade

/-- LEARNING begins: P_learn is latched, the counts start afresh (R235, R236). -/
def State.rcLearn (s : State) (c : Nat) : State :=
  let p := s.rd (F.LOOP_RC_PERIODs_P (s.rd (F.LOOP_RC_CHc_CFG_SRC c)))
  (s.setRc c { s.rc c with p := p, pLearn := p, good := 0, bad := 0, held := 0 }).rcGoto c rcLearning

/-- A relearn (R236): fade, zero the table, learn again. -/
def State.rcRelearn (s : State) (c : Nat) : State :=
  ((s.rcEnterFade c rcLearning false).ev A.LOOP_EVENT 30).bump F.LOOP_RC_CNT_RELEARNS

/-- The table of channel `c` is zeroed. -/
def State.rcZero (s : State) (c : Nat) : State := s.setRc c { s.rc c with table := [] }

/-- Is the period within PTOL of P_learn (R236)? -/
def State.rcWithin (s : State) (c p : Nat) : Bool :=
  let x := s.rc c
  let d := ((p : Int) - x.pLearn).natAbs
  decide (d * 4096 ≤ getField x.conv 16 8 * x.pLearn)

/-- The channels that take their period from tracker `k`. -/
def State.rcUsers (s : State) (k : Nat) : List Nat :=
  (List.range 16).filter (fun c => decide (s.rd (F.LOOP_RC_CHc_CFG_SRC c) = k))

/-- The output whose list of channels holds channel `c`. -/
def State.outOf (s : State) (c : Nat) : Option Nat :=
  (List.range 16).find? (fun o => (Tbl.get OutSt.reset s.outs o).chans.contains c)

/-- The channel's bridge switches under closed loop: its output is in MUTED, UNMUTING, PLAYING or MUTING and the channel
is not the lost one of a degraded pair (R208, R235). -/
def State.closedLoop (s : State) (c : Nat) : Bool :=
  match s.outOf c with
  | some o =>
    let st := s.rd (F.MOD_OUTo_STAT_STATE o)
    decide (3 ≤ st) && decide (st ≤ 6) && decide ((Tbl.get OutSt.reset s.outs o).lost ≠ some c) &&
      !(Tbl.get OutSt.reset s.outs o).demag
  | none => false

/-- The controller of channel `c` acts: under closed loop of `c` itself, or of the upper channel of its degraded pair (R240). -/
def State.rcLive (s : State) (c : Nat) : Bool :=
  s.closedLoop c || (c % 2 == 0 && decide ((Tbl.get OutSt.reset s.outs c).lost = some c) && s.closedLoop (c + 1))

/-- A channel in LEARNING or CONVERGED whose tracker is not locked enters HOLD (R237). -/
def State.rcToHold (s : State) (c : Nat) : State :=
  (((s.setRc c { s.rc c with held := 0 }).rcGoto c rcHold).ev A.LOOP_EVENT 29).bump F.LOOP_RC_CNT_LOSSES

/-- The channels of tracker `k` that learn; outside closed loop a channel keeps its state (R235). -/
def State.rcLearners (s : State) (k : Nat) : List Nat :=
  (s.rcUsers k).filter (fun c => s.rcLive c && decide (s.rcState c = rcLearning ∨ s.rcState c = rcConverged))

/-- Tracker `k` unlocks: its channels in LEARNING or CONVERGED enter HOLD (R237). -/
def State.rcLost (s : State) (k : Nat) : State := s.forEach (s.rcLearners k) (fun c t => t.rcToHold c)

/-- Tracker `k` locks: its channels in HOLD return to LEARNING, their β stepping to the tracker's phase at the next bin
boundary, or relearn outside PTOL (R237). -/
def State.rcFound (s : State) (k p : Nat) : State :=
  s.forEach (s.rcUsers k) (fun c t =>
    if t.rcState c = rcHold ∧ t.rcLive c = true then
      (if t.rcWithin c p then (t.setRc c { t.rc c with p := p, step := some 0 }).rcGoto c rcLearning else t.rcRelearn c)
    else t)

/-- A channel in LEARNING or CONVERGED whose locked tracker has left PTOL relearns (R236). -/
def State.rcDrift (s : State) (k p : Nat) : State :=
  s.forEach (s.rcLearners k) (fun c t => if t.rcWithin c p then t else t.rcRelearn c)

/-- A period edge of tracker `k` at nominal time `t` in LOOP cycles (R229): the first two edges give the first period;
16 consecutive edges within LOCK_TOL of the prediction lock it, four outside unlock it and acquisition starts again. -/
def State.trackEdge (s : State) (k t : Nat) : State :=
  let x := s.tracker k
  let s := s.setBit A.LOOP_RC_TRKSTAT (4 + k) true
  match x.last with
  | none => s.setTracker k { x with last := some t, phase := t * 2 ^ 14, hits := 0, misses := 0, locked := false }
  | some l =>
    if x.hits = 0 ∧ !x.locked then
      s.setTracker k { x with last := some t, period := roundN ((t - l) * 2 ^ 14) 40, phase := t * 2 ^ 14, hits := 1 }
    else
      let pred := x.phase + x.period * 40
      let err : Int := ((t * 2 ^ 14 : Nat) : Int) - (pred : Nat)
      let near := decide (err.natAbs ≤ s.rd F.LOOP_RC_SRC_LOCK_TOL * 2 ^ 14)
      let upd := Config.trackLoop (s.rd F.LOOP_RC_SRC_TRK_BW) x.period pred err
      let y := { x with last := some t, period := upd.1, phase := upd.2,
                        hits := if near then x.hits + 1 else 1, misses := if near then 0 else x.misses + 1 }
      if x.locked then
        if 4 ≤ y.misses then (s.setTracker k { y with last := none, hits := 0, misses := 0, locked := false }).rcLost k
        else (s.setTracker k y).rcDrift k y.period
      else if 17 ≤ y.hits then (s.setTracker k { y with locked := true }).rcFound k y.period
      else s.setTracker k y

/-- RC_TRACKER_EDGE. Tracker 1 counts RC_SYNC edges: every (RCSYNC_DIV + 1)-th starts a period (R228). The ripple estimator
delivers crossings to tracker 2 while it is enabled (R230). -/
def execRcTrackerEdge (k : Fin 3) (t : Nat) (s : State) : Host.Outcome State Fault Refusal :=
  let x := s.tracker k
  .next (if k.val = 2 ∧ s.on F.LOOP_RC_EST_EN = false then s
    else if k.val = 1 ∧ x.div < s.rd F.LOOP_RC_SRC_RCSYNC_DIV then s.setTracker k { x with div := x.div + 1 }
    else (s.setTracker k { x with div := 0 }).trackEdge k t)

/-- RC_TRACKER_TIMEOUT (R229): no edge within four predicted periods unlocks the tracker and clears PRESENT. -/
def execRcTrackerTimeout (k : Fin 3) (s : State) : Host.Outcome State Fault Refusal :=
  let x := s.tracker k
  let t := s.setTracker k { x with last := none, hits := 0, misses := 0, locked := false }
  let t := t.setBit A.LOOP_RC_TRKSTAT (4 + k) false
  .next (if x.locked then t.rcLost k else t)

/-- ±Q_LIM of channel `c` in Q6.25 V. -/
def State.qLim (s : State) (c : Nat) : Int := s.rd (F.LOOP_RC_CHc_CFG_Q_LIM c) * 2 ^ 15

/-- The update of a completed bin (R233): T ← λT − µē within ±Q_LIM, with the mean error of the bin. -/
def State.binUpdate (s : State) (c : Nat) : State :=
  let x := s.rc c
  if x.cnt = 0 then s
  else
    let e := roundQ x.sum x.cnt
    let f := getField x.gain 24 4
    let t := Tbl.get 0 x.table x.bin
    let lam : Int := if f = 0 then 1 else 2 ^ f - 1
    let v := roundQ (t * lam * 65536 - e * (getField x.gain 0 16 : Nat) * (if f = 0 then 1 else 2 ^ f))
      (65536 * (if f = 0 then 1 else 2 ^ f))
    let v := clampInt (-(s.qLim c)) (s.qLim c) v
    s.setRc c { x with
      table := Tbl.set 0 x.table x.bin v, ebar := e, resSum := x.resSum + e.natAbs, resCnt := x.resCnt + 1, sum := 0, cnt := 0 }

/-- The bin that a period end closes: its update uses the samples before the edge, and the new period starts with bin 0
(R233, R242). -/
def State.rcCloseBin (s : State) (c : Nat) : State :=
  let t := if s.rcState c = rcLearning ∨ s.rcState c = rcConverged then s.binUpdate c else s
  t.setRc c { t.rc c with bin := 0, sum := 0, cnt := 0 }

/-- The residual of the period that ends (R234): the mean of |ē| over the bins updated, UQ0.16 V. -/
def State.rcResidual (s : State) (c : Nat) : State :=
  let x := s.rc c
  let t := if x.resCnt = 0 then s
    else s.wr (F.LOOP_RC_CHc_RESID_RESID c) (min 0xFFFF (roundN x.resSum (x.resCnt * 2 ^ 9)))
  t.setRc c { t.rc c with resSum := 0, resCnt := 0 }

/-- The channel state changes of a period end (R235 to R237). A channel back under closed loop whose tracker has unlocked, locked or
drifted meanwhile takes that up here. -/
def State.rcPeriodState (s : State) (c p : Nat) (locked : Bool) : State :=
  let st := s.rcState c
  let x := s.rc c
  let level := getField x.conv 0 16
  let rp := s.rd (F.LOOP_RC_CHc_RESID_RESID c)
  let learns := decide (st = rcLearning ∨ st = rcConverged)
  if st = rcWait then (if locked && nbInRange p (s.binW c) then s.rcLearn c else s)
  else if learns && !locked then s.rcToHold c
  else if (learns || decide (st = rcHold) && locked) && !s.rcWithin c p then s.rcRelearn c
  else if s.on (F.LOOP_RC_CHc_CTRL_FREEZE c) ∧ (st = rcLearning ∨ st = rcConverged) then s
  else if st = rcLearning then
    let g := if rp ≤ level then x.good + 1 else 0
    let t := s.setRc c { x with good := g, bad := 0 }
    if 8 ≤ g then (t.rcGoto c rcConverged).ev A.LOOP_EVENT 28 else t
  else if st = rcConverged then
    let b := if 2 * level < rp then x.bad + 1 else 0
    let t := s.setRc c { x with bad := b, good := 0 }
    if 4 ≤ b then t.rcGoto c rcLearning else t
  else if st = rcHold ∧ locked = true then (s.setRc c { x with p := p, step := some 0 }).rcGoto c rcLearning
  else if st = rcHold then
    let h := x.held + 1
    let t := s.setRc c { x with held := h }
    if getField x.conv 24 8 ≤ h then t.rcEnterFade c rcWait false else t
  else s

/-- A period of channel `c` ends and the next starts: the closing bin, residual, state, and the pending GAIN and CONV take
effect (R233, R234, R235, R239). What the period ended short of a whole control sample stays in β, which wraps (R231). Outside
closed loop learning pauses and the state is kept. -/
def State.rcPeriodEnd (s : State) (c : Nat) : State :=
  let k := s.rd (F.LOOP_RC_CHc_CFG_SRC c)
  let locked := (s.tracker k).locked
  let p := if locked then (s.tracker k).period else (s.rc c).p
  let t := (s.rcCloseBin c).rcResidual c
  let t := if t.rcLive c then t.rcPeriodState c p locked else t
  let x := s.rc c
  let past := if x.p ≤ x.since ∧ x.since < x.p + 2 ^ 14 then x.since - x.p else 0
  let t := t.setRc c { t.rc c with
    gain := t.reg (A.LOOP_RC_CHc_GAIN c), conv := t.reg (A.LOOP_RC_CHc_CONV c), since := past, step := none, p := p }
  t.rcBins c p

/-- RC_PERIOD_END. -/
def execRcPeriodEnd (c : Fin 16) (s : State) : Host.Outcome State Fault Refusal := .next (s.rcPeriodEnd c)

/-- RC_FADE_END (R238): once the factor is 0, the table is zeroed, or kept when EN = 0 asked for it, and the state after the fade
is taken. -/
def State.rcFadeEnd (s : State) (c : Nat) : State :=
  if s.rcState c = rcFade ∧ (s.rc c).fadeLeft = 0 then
    let x := s.rc c
    let t := if x.keep then s else s.rcZero c
    if x.after = rcLearning then t.rcLearn c
    else if x.after = 0 ∧ t.on (F.LOOP_RC_CHc_CFG_EN c) then t.rcGoto c rcWait
    else t.rcGoto c x.after
  else s

/-- RC_FADE_END. -/
def execRcFadeEnd (c : Fin 16) (s : State) : Host.Outcome State Fault Refusal := .next (s.rcFadeEnd c)

/-- CLEAR (R238). -/
def State.rcClear (s : State) (c : Nat) : State :=
  if s.rcState c ≤ rcWait then s.rcZero c else s.rcEnterFade c rcLearning false

/-- RC_CLEAR. -/
def execRcClear (c : Fin 16) (s : State) : Host.Outcome State Fault Refusal :=
  .next (s.reach (A.LOOP_RC_CHc_CTRL c) (fun s => s.rcClear c))

/-- RC_FREEZE (R238): learning and the convergence count stop or go on; no state changes. -/
def execRcFreeze (c : Fin 16) (on : Bool) (s : State) : Host.Outcome State Fault Refusal :=
  .next (s.reach (A.LOOP_RC_CHc_CTRL c) (fun s => s.wrB (F.LOOP_RC_CHc_CTRL_FREEZE c) on))

/-- Channel `c` is the upper channel of a dovetailed pair: its controller is held in OFF (R240). -/
def State.rcUpper (s : State) (c : Nat) : Bool :=
  c % 2 == 1 && (s.rd F.MOD_BIND_DOVETAIL).testBit (c / 2)

/-- A binding of channel `c`: the upper channel of a pair is held in OFF, any other enabled controller leaves OFF (R235,
R240). -/
def State.rcBound (s : State) (c : Nat) : State :=
  if s.rcUpper c then s.rcGoto c 0
  else if s.on (F.LOOP_RC_CHc_CFG_EN c) ∧ s.rcState c = 0 then s.rcGoto c rcWait
  else s

/-- A LOOP_RC_CHc_CFG write (R238, R239): whole, but while EN is 1 only EN may change. -/
def State.rcCfgWrite (s : State) (c : Nat) (v : BitVec 32) : State :=
  let a := A.LOOP_RC_CHc_CFG c
  let v := v &&& 0xFFFF3F07
  let old := s.reg a
  let was := s.on (F.LOOP_RC_CHc_CFG_EN c)
  if (was && decide ((old ^^^ v) &&& 0xFFFFFFFE ≠ 0)) || decide (getField v 1 2 = 3) then s.rcRefused
  else
    let t := s.setReg a v
    let now := v.getLsbD 0
    if now && !was then (if t.rcUpper c then t else if t.rcState c = 0 then t.rcGoto c rcWait else t)
    else if was && !now then
      if t.rcState c = rcWait then t.rcGoto c 0
      else if t.rcState c = 0 then t
      else t.rcEnterFade c 0 true
    else t

/-- RC_CH_CFG_WRITE. -/
def execRcChCfgWrite (c : Fin 16) (v : Word) (s : State) : Host.Outcome State Fault Refusal :=
  .next (s.reach (A.LOOP_RC_CHc_CFG c) (fun s => s.rcCfgWrite c v))

/-- An enabled channel takes its period from a tracker that meets `p`. -/
def State.rcUses (s : State) (p : Nat → Bool) : Bool :=
  (List.range 16).any (fun c => s.on (F.LOOP_RC_CHc_CFG_EN c) && p (s.rd (F.LOOP_RC_CHc_CFG_SRC c)))

/-- A write of LOOP_RC_SRC (`r` 0), LOOP_RC_EST (1) or LOOP_RC_EST_BAND (2) (R230, R239). -/
def State.rcSrcWrite (s : State) (r : Nat) (v : BitVec 32) : State :=
  if r = 0 then
    if s.rcUses (fun _ => true) || decide (getField v 16 8 = 0) || decide (getField v 4 2 = 3) then s.rcRefused
    else s.setReg A.LOOP_RC_SRC (v &&& 0x00FF0F31)
  else if r = 1 then
    if s.rcUses (fun k => k == 2) then s.rcRefused else s.setReg A.LOOP_RC_EST (v &&& 0x8000001F)
  else
    let fmin := getField v 0 16
    let fmax := 8 * getField v 16 16
    let fa := s.fa
    if 40 ≤ fmin ∧ 10 * fmax ≤ 16 * fa ∧ fmin < fmax then s.setReg A.LOOP_RC_EST_BAND v else s.rcRefused

/-- RC_SRC_EST_WRITE. -/
def execRcSrcEstWrite (r : Fin 3) (v : Word) (s : State) : Host.Outcome State Fault Refusal :=
  .next (s.reach A.LOOP_RC_SRC (fun s => s.rcSrcWrite r v))

/-- A write of the table window (R239): accepted while the selected channel's EN is 0. -/
def State.rcTableWrite (s : State) (k : Nat) (v : BitVec 32) : State :=
  let c := s.rd F.LOOP_RC_TBLSEL_CH
  if s.on (F.LOOP_RC_CHc_CFG_EN c) then s.rcRefused
  else s.setRc c { s.rc c with table := Tbl.set 0 (s.rc c).table k v.toInt }

/-- RC_TABLE_WRITE. -/
def execRcTableWrite (k : Fin 4096) (v : Word) (s : State) : Host.Outcome State Fault Refusal :=
  .next (s.reach (A.LOOP_RC_TBLk k) (fun s => s.rcTableWrite k v))

/-- The word a read of table word `k` returns (R239). -/
def State.rcTableRead (s : State) (k : Nat) : BitVec 32 :=
  BitVec.ofInt 32 (Tbl.get 0 (s.rc (s.rd F.LOOP_RC_TBLSEL_CH)).table k)

/-- A write of LOOP_RC_CHc_GAIN or LOOP_RC_CHc_CONV: pending until the next period start; FORGET 1 to 3 and LOSS_HOLD 0
are refused (R239). -/
def State.rcGainWrite (s : State) (c : Nat) (v : BitVec 32) : State :=
  let f := getField v 24 4
  if f = 1 ∨ f = 2 ∨ f = 3 then s.rcRefused else s.setReg (A.LOOP_RC_CHc_GAIN c) (v &&& 0x0FFFFFFF)

/-- A write of LOOP_RC_CHc_CONV. -/
def State.rcConvWrite (s : State) (c : Nat) (v : BitVec 32) : State :=
  if getField v 24 8 = 0 then s.rcRefused else s.setReg (A.LOOP_RC_CHc_CONV c) v

/-- The controller of a channel goes to OFF with its table zeroed: a fence (R240). -/
def State.rcFence (s : State) (c : Nat) : State := (s.rcZero c).rcGoto c 0

end Sys2Proof.Machine
end

