-- ==== Sys2Proof/Machine/Sense.lean ====
section
/-!
DEFINITION. Machine/Sense.lean: the sense converters (R249 to R264).
-/

namespace Sys2Proof.Machine

open Sys2Proof

/-- The record of sense input `k`. -/
def State.sin (s : State) (k : Nat) : SenseSt := Tbl.get SenseSt.reset s.sense k

/-- Set the record of sense input `k`. -/
def State.setSin (s : State) (k : Nat) (x : SenseSt) : State :=
  { s with sense := Tbl.set SenseSt.reset s.sense k x }

/-- MODE of sense input `k`. -/
def State.senseMode (s : State) (k : Nat) : Nat := s.rd (F.SENSE_INk_STAT_MODE k)

/-- MODE of input `k` changes; its decimation paths follow (R279). -/
def State.setSenseMode (s : State) (k m : Nat) : State :=
  (s.wr (F.SENSE_INk_STAT_MODE k) m).decimMode k (s.senseMode k)

/-- OFS of a slice (R253). -/
def State.ofs (s : State) (k : Nat) (h : Bool) : Int :=
  s.rdI (if h then F.SENSE_INk_OFS_SLICE1 k else F.SENSE_INk_OFS_SLICE0 k)

/-- GAIN of a slice (R253). -/
def State.gainShim (s : State) (k : Nat) (h : Bool) : Int :=
  s.rdI (if h then F.SENSE_INk_GAIN_SLICE1 k else F.SENSE_INk_GAIN_SLICE0 k)

/-- The gain factor of a slice in units of 2^−20; a current input carries its temperature correction (R253). -/
def State.gainFactor (s : State) (k : Nat) (h : Bool) : Int :=
  2 ^ 20 + s.gainShim k h + (if 16 ≤ k then Config.currentTempGain (k - 16) (s.now / 1000) else 0)

/-- Round to nearest, ties away from zero. -/
def roundAway (n : Int) (d : Nat) : Int :=
  if 0 ≤ n then (2 * n + d) / (2 * d : Nat) else -((2 * (-n) + d) / (2 * d : Nat))

/-- The delivered value of a code y in units of 2^−24: × 61 440 in Q6.25 V, × 40 960 in Q5.26 A, rounded to nearest, ties
away from zero (R253), within the format. -/
def senseValue (k : Nat) (y : Int) : Int :=
  clampInt (-(2 ^ 31)) (2 ^ 31 - 1) (roundAway (y * (if k < 16 then 61440 else 40960)) (2 ^ 24))

/-- Full scale, ±60 V or ±20 A (R262). -/
def senseFull (k : Nat) (neg : Bool) : Int :=
  (if neg then -1 else 1) * (if k < 16 then 60 * 2 ^ 25 else 20 * 2 ^ 26)

/-- A word of input `k` is delivered to the lane and to the decimation chain. -/
def State.senseDeliver (s : State) (k : Nat) (value y : Int) (exceeds : Bool) : State :=
  (s.setSin k { s.sin k with value := value, y := y }).decimIn k y exceeds

/-- A slice fault (R263): the input runs on the other slice, or fails when both are gone. -/
def State.sliceFault (s : State) (k : Nat) (h : Bool) : State :=
  let m := s.senseMode k
  let x := s.sin k
  if decide (m < 2 ∨ 4 < m) || (if h then x.bad1 else x.bad0) then s
  else
    let t := s.setSin k (if h then { x with bad1 := true } else { x with bad0 := true })
    let t := (t.ev A.SENSE_EVENT 3).raise 5 (k % 16) 1 0 false
    if m = 2 then t.setSenseMode k (if h then 3 else 4)
    else (t.setSenseMode k 5).raise 5 (k % 16) 2 0 false

/-- SLICE_FAULT. -/
def execSliceFault (k : Fin 32) (slice : Bool) (s : State) : Host.Outcome State Fault Refusal :=
  .next (s.sliceFault k slice)

/-- The consecutive counts of overranges (R262): COUNT in a row set OVR_ACTIVE, 1024 in range in a row clear it. -/
def State.overCount (s : State) (k : Nat) (exceeds : Bool) : State :=
  let x := s.sin k
  let active := s.on (F.SENSE_INk_STAT_OVR_ACTIVE k)
  if exceeds then
    let t := s.setSin k { x with overRun := x.overRun + 1, inRange := 0 }
    if !active && decide (s.rd F.SENSE_OVR_LIM_COUNT ≤ x.overRun + 1) then
      (t.wr (F.SENSE_INk_STAT_OVR_ACTIVE k) 1).raise 5 (k % 16) 3 0 true
    else t
  else if active then
    if x.inRange + 1 < 1024 then s.setSin k { x with overRun := 0, inRange := x.inRange + 1 }
    else (s.setSin k { x with overRun := 0, inRange := 0 }).wr (F.SENSE_INk_STAT_OVR_ACTIVE k) 0
  else s.setSin k { x with overRun := 0, inRange := 0 }

/-- One sample of a slice in the sums of a window (R256): raw code and, for the skew, the difference from the sample before where
the other slice took it in range. -/
def BgSt.take (b : BgSt) (h : Bool) (raw y : Int) (prev : Option (Int × Bool)) (switching : Bool) : BgSt :=
  let sq := raw.natAbs * raw.natAbs
  let (n, d) : Nat × Int := match prev with
    | some (y', h') => if h' = h then (0, 0) else (1, (y - y').natAbs)
    | none => (0, 0)
  let b := { b with switched := b.switched && switching }
  if h then { b with n1 := b.n1 + 1, sum1 := b.sum1 + raw, sq1 := b.sq1 + sq, nA := b.nA + n, skA := b.skA + d }
  else { b with n0 := b.n0 + 1, sum0 := b.sum0 + raw, sq0 := b.sq0 + sq, nB := b.nB + n, skB := b.skB + d }

/-- The background estimators take a sample in range (R256); the skew's windows ask that the channel's bridge switches throughout. -/
def State.bgSample (s : State) (k : Nat) (h : Bool) (raw y : Int) : State :=
  if s.on F.SENSE_CTRL_BG_FREEZE then s
  else
    let x := s.sin k
    s.setSin k { x with
      bg := x.bg.take h raw y x.prev (decide (s.rd (F.MOD_CHc_STAT_BRIDGE (k % 16)) = 1)), prev := some (y, h) }

/-- A sample of input `k` that the estimators do not take (R256). -/
def State.bgSkip (s : State) (k : Nat) : State := s.setSin k { s.sin k with prev := none }

/-- One sample of input `k` from slice `h` (R253, R262, R264): corrected, or replaced by full scale on an overrange, or by
the previous corrected sample on a failed link check. A slice that does not serve redelivers the other's sample (R263). -/
def State.senseSample (s : State) (k : Nat) (h : Bool) (raw : BitVec 16) (chop linkOk : Bool) : State :=
  let m := s.senseMode k
  let x := s.sin k
  if m < 2 ∨ 4 < m then s
  else if !linkOk then
    ((((s.bump (F.SENSE_INk_CNT_LINK k)).ev A.SENSE_EVENT 6).raise 5 (k % 16) 4 0 false).bgSkip k).senseDeliver k x.value x.y false
  else if (m = 3 ∧ h = true) ∨ (m = 4 ∧ h = false) then s.senseDeliver k x.value x.y false
  else
    let sign : Int := if chop then -1 else 1
    if raw = 0x8000#16 ∨ raw = 0x7FFF#16 then
      let neg := decide (sign * raw.toInt < 0)
      let t := (((s.bump (F.SENSE_INk_CNT_OVR k)).ev A.SENSE_EVENT 5).wr (F.SENSE_INk_PEAK_CODE k) 0x8000).overCount k true
      (t.bgSkip k).senseDeliver k (senseFull k neg) ((if neg then -1 else 1) * 32768 * 2 ^ 24) true
    else
      let y := sign * (16 * raw.toInt - s.ofs k h) * s.gainFactor k h
      let t := (s.peak (F.SENSE_INk_PEAK_CODE k) (y.natAbs / 2 ^ 24)).overCount k false
      (t.bgSample k h raw.toInt y).senseDeliver k (senseValue k y) y false

/-- SENSE_SAMPLE. `chop` is the sign −1 (R253). -/
def execSenseSample (k : Fin 32) (slice : Bool) (raw : BitVec 16) (chop linkOk : Bool) (s : State) :
    Host.Outcome State Fault Refusal :=
  .next (s.senseSample k slice raw chop linkOk)

/-! ### Background correction (R256 to R258) -/

/-- One move of a shim towards its estimate by at most `step` (R257). -/
def towards (now est : Int) (step : Nat) : Int := now + clampInt (-step) step (est - now)

/-- Which shims of input `k` stand at three-quarters of their ranges or beyond (R257): OFS and GAIN of both slices, TRIM. -/
def State.farShims (s : State) (k : Nat) : List Bool :=
  [decide (24576 ≤ (s.ofs k false).natAbs), decide (24576 ≤ (s.ofs k true).natAbs), decide (24576 ≤ (s.gainShim k false).natAbs),
    decide (24576 ≤ (s.gainShim k true).natAbs), decide (192 ≤ (s.rdI (F.SENSE_INk_SKEW_TRIM k)).natAbs)]

/-- DRIFT of input `k` follows its shims, and a shim that has reached three-quarters of its range since `before` sets the event
(R257). -/
def State.driftUpdate (s : State) (k : Nat) (before : List Bool) : State :=
  let far := s.farShims k
  let is (i : Nat) : Bool := far.getD i false
  let t := s.wr (F.SENSE_INk_STAT_DRIFT k) ((is 0 || is 1).toNat + 2 * (is 2 || is 3).toNat + 4 * (is 4).toNat)
  if (List.range 5).any (fun i => is i && !before.getD i false) then t.ev A.SENSE_EVENT 4 else t

/-- The offset estimate of a slice moves OFS one unit, or is a slice fault (R256, R257). -/
def State.bgOffset (s : State) (k : Nat) (h : Bool) (n : Nat) (sum : Int) : State :=
  if n = 0 then s
  else
    let est := roundQ (16 * sum) n
    if est < -32768 ∨ 32767 < est then s.sliceFault k h
    else s.wrI (if h then F.SENSE_INk_OFS_SLICE1 k else F.SENSE_INk_OFS_SLICE0 k) (towards (s.ofs k h) est 1)

/-- The relative gain estimate moves slice 1's GAIN by at most four units; a quiet window is skipped (R256, R257). -/
def State.bgGain (s : State) (k : Nat) (b : BgSt) : State :=
  if b.n0 = 0 ∨ b.n1 = 0 ∨ (b.sq0 + b.sq1) * 100 < 2 ^ 30 * (b.n0 + b.n1) then s
  else
    let est := Config.gainEstimate b.n0 b.sq0 b.n1 b.sq1 (s.gainShim k false)
    if est < -32768 ∨ 32767 < est then s.sliceFault k true
    else s.wrI (F.SENSE_INk_GAIN_SLICE1 k) (towards (s.gainShim k true) est 4)

/-- The skew estimate moves TRIM by at most one unit; a window without switching throughout is skipped (R256, R257). -/
def State.bgSkew (s : State) (k : Nat) (b : BgSt) : State :=
  if b.nA = 0 ∨ b.nB = 0 ∨ !b.switched then s
  else
    let trim := s.rdI (F.SENSE_INk_SKEW_TRIM k)
    let est := Config.skewEstimate trim b.nA b.skA b.nB b.skB
    if est < -256 ∨ 255 < est then s.sliceFault k true
    else s.wrI (F.SENSE_INk_SKEW_TRIM k) (towards trim est 1)

/-- The end of the background window of input `k` (R257). In single-slice mode only the remaining slice's offset is
estimated (R263). -/
def State.bgEnd (s : State) (k : Nat) : State :=
  let m := s.senseMode k
  if s.on F.SENSE_CTRL_BG_FREEZE || decide (m < 2 ∨ 4 < m) then s
  else
    let b := (s.sin k).bg
    let t := s.setSin k { s.sin k with bg := BgSt.empty }
    let t := if m = 4 then t else t.bgOffset k false b.n0 b.sum0
    let t := if m = 3 then t else t.bgOffset k true b.n1 b.sum1
    let t := if m = 2 ∧ t.senseMode k = 2 then t.bgGain k b else t
    let t := if m = 2 ∧ t.senseMode k = 2 then t.bgSkew k b else t
    t.driftUpdate k (s.farShims k)

/-- BG_WINDOW_END. -/
def execBgWindowEnd (k : Fin 32) (s : State) : Host.Outcome State Fault Refusal := .next (s.bgEnd k)

/-- BG_FREEZE stops the estimators; clearing it restarts every window from empty (R258). -/
def State.bgFreeze (s : State) (on : Bool) : State :=
  let t := s.wrB F.SENSE_CTRL_BG_FREEZE on
  if s.on F.SENSE_CTRL_BG_FREEZE && !on then t.forAll 32 (fun k t => t.setSin k { t.sin k with bg := BgSt.empty, prev := none }) else t

/-- BG_FREEZE_WRITE. -/
def execBgFreezeWrite (on : Bool) (s : State) : Host.Outcome State Fault Refusal :=
  .next (s.reach A.SENSE_CTRL (fun s => s.bgFreeze on))

/-! ### Calibration (R259 to R261) -/

/-- Channel `c` is in a calibration. -/
def State.calibrating (s : State) (c : Nat) : Bool := decide (s.senseMode c = 1) || decide (s.senseMode (16 + c) = 1)

/-- Input `k` enters calibration: MODE calibrating, its present MODE kept for an abandonment. -/
def State.calInput (s : State) (k : Nat) : State :=
  (s.setSin k { s.sin k with before := s.senseMode k }).setSenseMode k 1

/-- Both inputs of channel `c` enter calibration. -/
def State.calChannel (s : State) (c : Nat) : State :=
  if s.calibrating c then s
  else (((s.calInput c).calInput (16 + c)).setBit A.SENSE_CTRL c true).wr F.SENSE_STAT_CAL_BUSY 1

/-- May channel `c` be calibrated: every output bound to it is OFF or UNBOUND, and it is not fenced (R260). -/
def State.calAllowed (s : State) (c : Nat) : Bool :=
  !s.on (F.MOD_CHc_STAT_FENCED c) &&
  (match s.outOf c with
   | none => true
   | some o => decide (s.rd (F.MOD_OUTo_STAT_STATE o) = 0 ∨ s.rd (F.MOD_OUTo_STAT_STATE o) = 9))

/-- The channels that a CAL command for channel `c` calibrates: both of a dovetailed output (R260). -/
def State.calSet (s : State) (c : Nat) : List Nat :=
  match s.outOf c with
  | none => [c]
  | some o => (Tbl.get OutSt.reset s.outs o).chans

/-- A CAL command (R260, R261). -/
def State.senseCal (s : State) (mask : BitVec 16) : State :=
  s.forAll 16 (fun c t =>
    if !mask.getLsbD c || s.calibrating c then t
    else if (s.calSet c).all s.calAllowed then t.forEach (s.calSet c) (fun d t => t.calChannel d)
    else (t.ev A.SENSE_EVENT 1).bump F.SENSE_CNT_CAL_REFUSED)

/-- Boot calibration starts on all 32 inputs together (R259), once firmware runs and PVDD is in window (R50, step 10). -/
def execSenseBootCalStart (s : State) : Host.Outcome State Fault Refusal :=
  .next (if s.boot.firmware && s.evOn A.PMU_RAILSTAT 7 && !s.on F.SENSE_STAT_BOOTCAL_DONE && !s.on F.SENSE_STAT_CAL_BUSY then
      (s.forAll 32 (fun k t => t.calInput k)).wr F.SENSE_STAT_CAL_BUSY 1
    else s)

/-- BUSY and the CAL bits once no input of a channel calibrates. -/
def State.calSettle (s : State) : State :=
  let t := s.forAll 16 (fun c t => if t.calibrating c then t else t.setBit A.SENSE_CTRL c false)
  t.wrB F.SENSE_STAT_CAL_BUSY ((List.range 32).any (fun k => decide (t.senseMode k = 1)))

/-- Safe state, a fence or the loss of PLL A abandons the calibration of channel `c`: the previous MODE returns, the shims
keep their values (R261). -/
def State.calAbandon (s : State) (c : Nat) : State :=
  let back (k : Nat) (t : State) : State := if t.senseMode k = 1 then t.setSenseMode k (t.sin k).before else t
  (back (16 + c) (back c s)).calSettle

/-- Is a calibrated slice good: its shims within range, its reference results in agreement (R259, step 6)? -/
def sliceGood (ofs gain : Int) (agree : Bool) : Bool :=
  decide (-32768 ≤ ofs) && decide (ofs ≤ 32767) && decide (-32768 ≤ gain) && decide (gain ≤ 32767) && agree

/-- Steps 6 to 8 of R259 for one input. A slice fault outlasts the boot calibration: only a commanded one that passes, or a
reset of the power die, ends it (R263). -/
def State.calResult (s : State) (boot : Bool) (r : CalResult) : State :=
  let k := r.input.val
  if s.senseMode k ≠ 1 then s
  else
    let g0 := sliceGood r.ofs0 r.gain0 r.agree0 && !(boot && (s.sin k).bad0)
    let g1 := sliceGood r.ofs1 r.gain1 r.agree1 && !(boot && (s.sin k).bad1) && decide (-256 ≤ r.trim) && decide (r.trim ≤ 255)
    let t := s.setSin k { s.sin k with bad0 := !g0, bad1 := !g1, bg := BgSt.empty }
    let t := if g0 then (t.wrI (F.SENSE_INk_OFS_SLICE0 k) r.ofs0).wrI (F.SENSE_INk_GAIN_SLICE0 k) r.gain0
             else (t.ev A.SENSE_EVENT 3).raise 5 (k % 16) 1 0 false
    let t := if g1 then ((t.wrI (F.SENSE_INk_OFS_SLICE1 k) r.ofs1).wrI (F.SENSE_INk_GAIN_SLICE1 k) r.gain1).wrI
               (F.SENSE_INk_SKEW_TRIM k) r.trim
             else (t.ev A.SENSE_EVENT 3).raise 5 (k % 16) 1 0 false
    let t := if !g0 && !g1 then ((t.setSenseMode k 5).ev A.SENSE_EVENT 2).raise 5 (k % 16) 2 0 false
             else if g0 && g1 then (t.setSenseMode k 2).ev A.SENSE_EVENT 0
             else t.setSenseMode k (if g0 then 3 else 4)
    t.driftUpdate k (s.farShims k)

/-- The results of a calibration arrive (R259). BOOTCAL_DONE sets with the end of the boot
calibration, the one that no CAL bit shows. -/
def State.calResults (s : State) (rs : List CalResult) : State :=
  let boot := (List.range 32).any (fun k => decide (s.senseMode k = 1) && !s.evOn A.SENSE_CTRL (k % 16))
  let t := (s.forEach rs (fun r t => t.calResult boot r)).calSettle
  if boot && !t.on F.SENSE_STAT_CAL_BUSY then t.wr F.SENSE_STAT_BOOTCAL_DONE 1 else t

end Sys2Proof.Machine
end

