-- ==== Sys2Proof/Machine/LoopCfg.lean ====
section
/-!
DEFINITION. Machine/LoopCfg.lean: the configuration of the control engine: coefficient banks, fallback tables, swaps, the
LOOPBANK section, the bank of a degraded pair (R210, R216 to R221, R224).
-/

namespace Sys2Proof.Machine

open Sys2Proof

/-- The record of channel `c` of the control engine. -/
def State.lch (s : State) (c : Nat) : LoopCh := Tbl.get LoopCh.reset s.loop.ch c

/-- Set the record of channel `c` of the control engine. -/
def State.setLch (s : State) (c : Nat) (x : LoopCh) : State :=
  { s with loop := { s.loop with ch := Tbl.set LoopCh.reset s.loop.ch c x } }

/-- The record of output `o`. -/
def State.out (s : State) (o : Nat) : OutSt := Tbl.get OutSt.reset s.outs o

/-- Set the record of output `o`. -/
def State.setOut (s : State) (o : Nat) (x : OutSt) : State := { s with outs := Tbl.set OutSt.reset s.outs o x }

/-- The state of output `o` (table of output states). -/
def State.oState (s : State) (o : Nat) : Nat := s.rd (F.MOD_OUTo_STAT_STATE o)

/-- The output bound to channel `c` is OFF or UNBOUND, or none is (R216). -/
def State.channelIdle (s : State) (c : Nat) : Bool :=
  match s.outOf c with
  | none => true
  | some o => decide (s.oState o = 0 ∨ s.oState o = 9)

/-- The bank in effect for channel `c`: 0 A, 1 B. -/
def State.bank (s : State) (c : Nat) : Nat := s.rd ⟨A.LOOP_BANKACT, c, 1⟩

/-- Word `k` of bank `b` of channel `c`. -/
def State.bankWord (s : State) (c b k : Nat) : BitVec 32 := s.reg (A.LOOP_CHc_BANKb_Wk c b k)

/-- ORDER of a bank; 0 is an empty one. -/
def State.bankOrder (s : State) (c b : Nat) : Nat := getField (s.bankWord c b 0) 0 2

/-- T_ref in nanoseconds at the present Fa: 2.5 ÷ Fa + 3.000 µs (R210). -/
def State.tRef (s : State) : Nat := roundN (2500000000 + 3000 * s.fa) s.fa

/-- Bank `b` is in effect for channel `c`: LOOP_BANKACT, STAT.BANK and the reference trim show it (R210, R217). -/
def State.setBank (s : State) (c b : Nat) : State :=
  let t := (s.setBit A.LOOP_BANKACT c (b == 1)).wr (F.LOOP_CHc_STAT_BANK c) b
  (t.wr (F.LOOP_CHc_REFDLY_TRIM_NS c) (2988 - getField (s.bankWord c b 0) 16 16)).wr (F.LOOP_CHc_REFDLY_TOTAL_NS c) s.tRef

/-- Where a channel shows T_ref, it shows the one of the present Fa (R210). -/
def State.refdlyFa (s : State) : State :=
  s.forAll 16 (fun c t => if t.on (F.LOOP_CHc_REFDLY_TOTAL_NS c) then t.wr (F.LOOP_CHc_REFDLY_TOTAL_NS c) t.tRef else t)

/-- The channel starts with its INIT_BANK, its history at zero (R208, R218). -/
def State.loopBind (s : State) (c : Nat) : State :=
  ((s.setLch c LoopCh.reset).setBank c (s.rd (F.LOOP_CHc_CFG_INIT_BANK c))).wr (F.LOOP_CHc_STAT_DEGRADED c) 0

/-- One channel of a pair is lost: the survivor runs on DEG_BANK with no trim; the upper channel takes the lower one's
history (R221). -/
def State.loopDegrade (s : State) (survivor : Nat) : State :=
  let lower := survivor / 2 * 2
  let x := s.lch lower
  let t := if survivor = lower then s.setLch lower { x with trim := 0 }
           else (s.setLch survivor { x with trim := 0 }).setLch lower { x with trim := 0 }
  let t := (t.wr (F.LOOP_CHc_STAT_TRIM lower) 0).wr (F.LOOP_CHc_STAT_DEGRADED survivor) 1
  t.setBank survivor (s.rd (F.LOOP_CHc_CFG_DEG_BANK survivor))

/-! ### Writes (R216, R217) -/

/-- A refused write of a bank, a table or a channel's configuration. -/
def State.loopRefused (s : State) : State := (s.bump F.LOOP_CMDCNT_WR_REFUSED).ev A.LOOP_EVENT 2

/-- The bits of bank word `k` that hold something; the others are reserved and read 0 (R10). -/
def bankMask (k : Nat) : BitVec 32 := if k = 0 then 0xFFFF000F else if 13 ≤ k then 0 else 0xFFFFFFFF

/-- Bank word `k` of bank `b` takes a value. -/
def State.setBankWord (s : State) (c b k : Nat) (v : BitVec 32) : State := s.setReg (A.LOOP_CHc_BANKb_Wk c b k) (v &&& bankMask k)

/-- A write of a bank word: the active bank refuses it. The golden copies take what the bank takes (R216). -/
def State.bankWrite (s : State) (c b k : Nat) (v : BitVec 32) : State :=
  if s.bank c = b then s.loopRefused else s.setBankWord c b k v

/-- BANK_WRITE. -/
def execBankWrite (c : Fin 16) (b : Bool) (k : Fin 16) (v : Word) (s : State) : Host.Outcome State Fault Refusal :=
  .next (s.reach (A.LOOP_CHc_BANKb_Wk c b.toNat k) (fun s => s.bankWrite c b.toNat k v))

/-- A write of a fallback table word (R216). -/
def State.fbWrite (s : State) (c k : Nat) (slope : Bool) (v : BitVec 32) : State :=
  if s.channelIdle c then s.setReg (if slope then A.LOOP_CHc_FBk_SLOPE c k else A.LOOP_CHc_FBk c k) v else s.loopRefused

/-- FB_TABLE_WRITE. -/
def execFbTableWrite (c : Fin 16) (k : Fin 64) (slope : Bool) (v : Word) (s : State) : Host.Outcome State Fault Refusal :=
  .next (s.reach (A.LOOP_CHc_FBk c k) (fun s => s.fbWrite c k slope v))

/-- A write of LOOP_CHc_CFG: refused and counted unless the output bound to the channel is OFF or UNBOUND. -/
def State.loopCfgWrite (s : State) (c : Nat) (v : BitVec 32) : State :=
  if s.channelIdle c then s.setReg (A.LOOP_CHc_CFG c) (v &&& 0xFFFF1F3F) else s.bump F.LOOP_CMDCNT_WR_REFUSED

/-- LOOP_CH_CFG_WRITE. -/
def execLoopChCfgWrite (c : Fin 16) (v : Word) (s : State) : Host.Outcome State Fault Refusal :=
  .next (s.reach (A.LOOP_CHc_CFG c) (fun s => s.loopCfgWrite c v))

/-- A write of LOOP_BANKSEL: a request for every group, for the next control-sample boundary or, in the last two cycles of
a period, the one after it (R217). -/
def State.bankselWrite (s : State) (v : Nat) (late : Bool) : State :=
  let t := s.wr F.LOOP_BANKSEL_GROUP v
  let req (g : Nat) : SwapReq := { bank := v / 2 ^ g % 2, late := late }
  let q := (List.range 4).foldl (fun q g => Tbl.set none q g (some (req g))) t.loop.swaps
  { t with loop := { t.loop with swaps := q } }

/-- BANKSEL_WRITE. -/
def execBankselWrite (v : BitVec 4) (late : Bool) (s : State) : Host.Outcome State Fault Refusal :=
  .next (s.reach A.LOOP_BANKSEL (fun s => s.bankselWrite v.toNat late))

/-- The channels of swap group `g` whose active bank differs from `b`. -/
def State.swapSet (s : State) (g b : Nat) : List Nat :=
  (List.range 16).filter (fun c => decide (s.rd (F.LOOP_CHc_CFG_SWAP_GROUP c) = g) && decide (s.bank c ≠ b))

/-- A group swaps at the boundary (R217, R218): an empty bank refuses the whole group; a degraded survivor ignores it. -/
def State.swapGroup (s : State) (g b : Nat) : State :=
  let all := s.swapSet g b
  let deg := all.filter (fun c => s.on (F.LOOP_CHc_STAT_DEGRADED c))
  let go := all.filter (fun c => !s.on (F.LOOP_CHc_STAT_DEGRADED c))
  let s := s.forEach deg (fun _ t => t.bump F.LOOP_CMDCNT_SWAP_REFUSED)
  if go = [] then s
  else if go.any (fun c => decide (s.bankOrder c b = 0)) then (s.bump F.LOOP_CMDCNT_SWAP_REFUSED).ev A.LOOP_EVENT 1
  else ((s.forEach go (fun c t => t.setBank c b)).setReg A.LOOP_SWAPSTAMP (s.reg A.LOOP_CSCNT)).ev A.LOOP_EVENT 0

/-- BANK_SWAP: a control-sample boundary with requests waiting (R217). -/
def execBankSwap (s : State) : Host.Outcome State Fault Refusal :=
  .next (s.forAll 4 (fun g t =>
    match Tbl.get none t.loop.swaps g with
    | none => t
    | some r =>
      if r.late then
        { t with loop := { t.loop with swaps := Tbl.set none t.loop.swaps g (some { r with late := false }) } }
      else
        { t with loop := { t.loop with swaps := Tbl.set none t.loop.swaps g none } }.swapGroup g r.bank))

/-- COEF_REFETCH: a failing copy of a word of channel `c` is rewritten from its golden copy (R224): every copy again holds
the word the other one held. -/
def execCoefRefetch (c : Fin 16) (s : State) : Host.Outcome State Fault Refusal :=
  .next ((s.ev A.LOOP_EVENT 14).raise 4 (c / 4) 3 0 false)

/-! ### The LOOPBANK section (R219) -/

/-- The record of channel `c` in the section. -/
def lbRecord (b : List (BitVec 8)) (c : Nat) : List (BitVec 8) := slice b (16 + 704 * c) 704

/-- Word `k` of bank `i` of a record. -/
def lbWord (r : List (BitVec 8)) (i k : Nat) : Nat := u32 r (64 + 64 * i + 4 * k)

/-- A bank of a record passes the checks of R219. -/
def lbBankOk (r : List (BitVec 8)) (fbEn : Bool) (i : Nat) : Bool :=
  let w0 := lbWord r i 0
  let order := w0 % 4
  let w12 := lbWord r i 12
  decide (order ≠ 1) && decide (w0 / 65536 ≤ 2900) &&
  (order != 2 || (decide (lbWord r i 4 = 0) && decide (lbWord r i 7 = 0))) &&
  (!fbEn || decide (order = 0) ||
    (decide (toSigned 32 (lbWord r i 10) < toSigned 32 (lbWord r i 9)) && decide (w12 / 65536 ≠ 0) &&
     decide (w12 / 256 % 256 ≠ 0) && decide (w12 % 256 ≠ 0)))

/-- Consecutive fallback segments of a record meet within 2^−15 V (R219); amounts in units of 2^−52 V. -/
def lbFallbackOk (r : List (BitVec 8)) (shift : Nat) : Bool :=
  (List.range 63).all (fun k =>
    let y (i : Nat) : Int := toSigned 32 (u32 r (192 + 8 * i))
    let g : Int := toSigned 32 (u32 r (196 + 8 * k))
    decide (((y k - y (k + 1)) * 2 ^ 27 + g * 2 ^ shift).natAbs ≤ 2 ^ 37))

/-- A channel record passes the checks of R219. -/
def lbRecordOk (r : List (BitVec 8)) : Bool :=
  let cfg := u32 r 0
  let shift := cfg / 256 % 32
  let fbEn := cfg % 2 == 1
  decide (lbWord r (cfg / 4 % 2) 0 % 4 ≠ 0) && decide (lbWord r (cfg / 8 % 2) 0 % 4 ≠ 0) &&
  lbBankOk r fbEn 0 && lbBankOk r fbEn 1 && decide (14 ≤ shift) && decide (shift ≤ 24) && lbFallbackOk r shift

/-- The section passes check 9 but for its VERSION, which check 8 reads (R219). -/
def loopbankOk (b : List (BitVec 8)) : Bool :=
  decide (b.length = 16 + 16 * 704) && decide (u16 b 2 = 16) && decide (u16 b 4 % 2 = 1) &&
  (List.range 16).all (fun c => lbRecordOk (lbRecord b c))

/-- The section's values go to the registers of every channel (R219). -/
def State.loadLoopbank (s : State) (b : List (BitVec 8)) : State :=
  s.forAll 16 (fun c t =>
    let r := lbRecord b c
    let w (i : Nat) := BitVec.ofNat 32 (u32 r i)
    let t := t.setReg (A.LOOP_CHc_CFG c) (w 0 &&& 0xFFFF1F3F)
    let t := t.forAll 16 (fun k t =>
      (t.setBankWord c 0 k (w (64 + 4 * k))).setBankWord c 1 k (w (128 + 4 * k)))
    let t := t.forAll 64 (fun k t =>
      (t.setReg (A.LOOP_CHc_FBk c k) (w (192 + 8 * k))).setReg (A.LOOP_CHc_FBk_SLOPE c k) (w (196 + 8 * k)))
    t.setBank c (t.rd (F.LOOP_CHc_CFG_INIT_BANK c)))

end Sys2Proof.Machine
end

