-- ==== Sys2Proof/Machine/Graph.lean ====
section
/-!
DEFINITION. Machine/Graph.lean: the GRAPH and SOUNDLIB sections, the checks of a graph, parameter formats and block costs
(R126, R137, R140, R141, R147, R148, R479).
-/

namespace Sys2Proof.Machine

/-! ### Reading the sections -/

/-- The block records of a GRAPH section, and what follows them. -/
def parseBlocks : Nat → List (BitVec 8) → List Block × List (BitVec 8)
  | 0, b => ([], b)
  | k + 1, b =>
    let cnt := u16 b 6
    let blk : Block :=
      { inst := u16 b 0, ty := u8 b 2, cls := u8 b 3, pclass := u8 b 4, asil := (u8 b 5).testBit 0,
        params := (List.range cnt).map (fun i => BitVec.ofNat 32 (u32 b (8 + 4 * i))) }
    let r := parseBlocks k (b.drop (8 + 4 * cnt))
    (blk :: r.1, r.2)

/-- The edge records. -/
def parseEdges : Nat → List (BitVec 8) → List Edge × List (BitVec 8)
  | 0, b => ([], b)
  | k + 1, b =>
    let e : Edge := { srcInst := u16 b 0, srcPin := u8 b 2, dstInst := u16 b 3, dstPin := u8 b 5, channels := u8 b 6 }
    let r := parseEdges k (b.drop 8)
    (e :: r.1, r.2)

/-- The terminal records. -/
def parseTerms : Nat → List (BitVec 8) → List Terminal × List (BitVec 8)
  | 0, b => ([], b)
  | k + 1, b =>
    let t : Terminal := { kind := u8 b 0, number := u8 b 1, inst := u16 b 2, pin := u8 b 4, control := (u8 b 5).testBit 0 }
    let r := parseTerms k (b.drop 8)
    (t :: r.1, r.2)

/-- A GRAPH section (table of GRAPH records): header, blocks, edges, terminals. -/
def parseGraph (b : List (BitVec 8)) : Graph :=
  let r := parseBlocks (u16 b 0) (b.drop 16)
  let e := parseEdges (u16 b 2) r.2
  let t := parseTerms (u16 b 4) e.2
  { blocks := r.1, edges := e.1, terms := t.1 }

/-- The SOUNDLIB entries (R137): 24 bytes each after the 16-byte header. The count stands in the first two bytes of the
header, whose layout the spec does not give (log entry 13). -/
def parseSounds (early : Bool) (b : List (BitVec 8)) : List Sound :=
  (List.range (u16 b 0)).map (fun i =>
    let e := b.drop (16 + 24 * i)
    { id := u16 e 0, format := u8 e 2, rate := u8 e 3, p0 := (u8 e 4).testBit 0, looped := (u8 e 4).testBit 1,
      offset := u32 e 8, length := u32 e 12, loopStart := u32 e 16, loopEnd := u32 e 20, early := early,
      data := slice b (u32 e 8) ((if u8 e 2 = 0 then 2 else 4) * u32 e 12) })

/-- A SOUNDLIB entry within its ranges. -/
def soundOk (x : Sound) : Bool :=
  decide (1 ≤ x.id) && decide (x.id ≤ 65534) && decide (x.format ≤ 2) && decide (x.rate ≤ 3) && x.offset % 64 == 0 &&
  (!x.looped || (decide (x.loopStart < x.loopEnd) && decide (x.loopEnd ≤ x.length)))

/-! ### Parameters (R126, R141, R479) -/

/-- Parameter word `i` of a block; 0 beyond its parameters. -/
def Block.par (b : Block) (i : Nat) : Nat := (b.params.getD i 0).toNat

/-- Samples in a frame of a class: 0 F32, 1 F4. -/
def frameLen (cls : Nat) : Nat := if cls = 0 then 32 else 4

/-- PARAM_COUNT of a block by its type and leading parameters (R479). -/
def paramCount (b : Block) : Nat :=
  if b.ty = 1 then 16 + 5 * b.par 0
  else if b.ty = 2 then 16 + b.par 0
  else if b.ty = 3 then 16 + b.par 1 - 1
  else if b.ty = 4 then 16 + b.par 0
  else if b.ty = 5 then 8
  else if b.ty = 6 then 16 + b.par 0 * b.par 1
  else if b.ty = 7 then 16 + 40 * b.par 4
  else if b.ty = 8 then 16 + 8 * b.par 0
  else if b.ty = 0x0B then 5
  else 1

/-- The format code of parameter `i` of a block (R126, R479); none for a reserved index. -/
def paramFormat (b : Block) (i : Nat) : Option Nat :=
  if paramCount b ≤ i then none
  else if b.ty = 1 then (if i < 2 then some 0 else if i < 16 then none else some 1)
  else if b.ty = 2 then (if i = 0 then some 0 else if i < 16 then none else some 4)
  else if b.ty = 3 then (if i < 3 then some 0 else if i < 16 then none else some 3)
  else if b.ty = 4 then (if i < 2 then some 0 else if i < 16 then none else some 0)
  else if b.ty = 5 then
    (if i < 2 then some 0 else if i < 4 then some 2 else if i = 4 then some 1 else if i < 7 then some 3 else some 0)
  else if b.ty = 6 then (if i < 2 then some 0 else if i = 2 then some 1 else if i = 3 then some 3 else
    if i < 16 then none else some 1)
  else if b.ty = 7 then
    if i < 16 then (if i = 0 ∨ i = 4 then some 0 else if i < 4 then some 3 else none)
    else
      let j := (i - 16) % 40
      let pts := b.par (i - j + 4)
      if j = 0 ∨ j = 3 ∨ j = 4 then some 0
      else if j < 3 then some 1
      else if pts ≤ (j - 5) / 2 then none
      else if j % 2 = 1 then some 3 else some 2
  else if b.ty = 8 then
    if i < 16 then (if i < 2 then some 0 else if i = 2 then some 3 else none)
    else
      let j := (i - 16) % 8
      if j = 2 then some 3 else if j = 4 then some 1 else if j < 6 then some 0 else none
  else if b.ty = 0x0B then (if i = 2 then some 1 else if i = 3 then some 3 else some 0)
  else some 0

/-- The smallest delay of a delay block's channels. -/
def minDelay (b : Block) : Nat :=
  ((List.range (b.par 0)).map (fun k => b.par (16 + k))).foldl min (b.par 1)

/-- A delay block of at least the samples of its class: its output does not depend on this frame's input (R148). -/
def breaksLoop (b : Block) : Bool := decide (b.ty = 4) && decide (frameLen b.cls ≤ minDelay b)

/-- The classes a type allows (R140). -/
def classOk (b : Block) : Bool :=
  if b.ty = 7 ∨ b.ty = 8 ∨ b.ty = 9 ∨ b.ty = 0x0B then decide (b.cls = 0)
  else if b.ty = 2 then decide (b.cls ≤ 1) && (b.cls == 0 || decide (b.par 0 ≤ 1024))
  else if b.ty = 5 then decide (b.cls ≤ 1) && (b.cls == 0 || decide (b.par 7 = 0))
  else decide (b.cls ≤ 1)

/-- The split frequencies of a crossover rise (R479). -/
def risingFrom (b : Block) : Nat → Nat → Bool
  | _, 0 => true
  | i, k + 1 => decide (b.par i < b.par (i + 1)) && risingFrom b (i + 1) k

/-- One layer of an AVAS synthesiser is within its ranges (R142): a looped P0 sound, 2 to 16 points. -/
def avasLayerOk (b : Block) (sounds : List Sound) (l : Nat) : Bool :=
  let o := 16 + 40 * l
  decide (2 ≤ b.par (o + 4)) && decide (b.par (o + 4) ≤ 16) && decide (b.par (o + 3) ≤ 1) &&
  sounds.any (fun x => x.id == b.par o && x.p0 && x.looped)

/-- One chime is within its ranges (R144): a P0 sound, an interval of at least the sound's length. -/
def chimeOk (b : Block) (sounds : List Sound) (i : Nat) : Bool :=
  let o := 16 + 8 * i
  decide (b.par (o + 1) ≤ 255) && decide (b.par (o + 3) ≤ 15) && decide (b.par (o + 5) ≤ 1) &&
  sounds.any (fun x => x.id == b.par o && x.p0 && decide (x.length * 1000 * 65536 ≤ b.par (o + 2) * faHz x.rate))

/-- The parameters of a block are within their stated ranges (R140 to R145, R479). `fa` is the owner's Fa. -/
def paramsOk (b : Block) (sounds : List Sound) (fa : Nat) : Bool :=
  if b.ty = 1 then decide (1 ≤ b.par 0) && decide (b.par 0 ≤ 32) && decide (1 ≤ b.par 1)
  else if b.ty = 2 then decide (1 ≤ b.par 0) && decide (b.par 0 ≤ 8192)
  else if b.ty = 3 then
    decide (b.par 0 = 2 ∨ b.par 0 = 4 ∨ b.par 0 = 8) && decide (2 ≤ b.par 1) && decide (b.par 1 ≤ 4) &&
    decide (1 ≤ b.par 2) && risingFrom b 16 (b.par 1 - 2)
  else if b.ty = 4 then
    decide (1 ≤ b.par 0) && decide (b.par 1 ≤ 65535) && (List.range (b.par 0)).all (fun k => decide (b.par (16 + k) ≤ b.par 1))
  else if b.ty = 5 then decide (1 ≤ b.par 0) && decide (b.par 0 ≤ 16) && decide (b.par 1 ≤ 2) && decide (b.par 7 ≤ 240)
  else if b.ty = 6 then decide (1 ≤ b.par 0) && decide (b.par 0 ≤ 64) && decide (1 ≤ b.par 1) && decide (b.par 1 ≤ 64)
  else if b.ty = 7 then
    decide (b.par 0 ≤ 1) && decide (10 * 65536 ≤ b.par 2) && decide (b.par 2 ≤ 2000 * 65536) && decide (1 ≤ b.par 4) &&
    decide (b.par 4 ≤ 8) && (List.range (b.par 4)).all (avasLayerOk b sounds)
  else if b.ty = 8 then
    decide (1 ≤ b.par 0) && decide (b.par 0 ≤ 16) && (List.range (b.par 0)).all (chimeOk b sounds)
  else if b.ty = 9 ∨ b.ty = 0x0A ∨ b.ty = 0x0C then decide (b.par 0 ≤ 15)
  else if b.ty = 0x0B then
    decide (1 ≤ b.par 0) && decide (b.par 0 ≤ 16) && decide (2 * fa ≤ 1000 * b.par 1) && decide (1 ≤ b.par 4) &&
    decide (b.par 4 ≤ 64)
  else false

/-- A block record passes R141 and R479: a known type in an allowed class, its PARAM_COUNT, its ranges, its reserved
words 0. -/
def blockOk (sounds : List Sound) (fa : Nat) (b : Block) : Bool :=
  classOk b && decide (b.params.length = paramCount b) && paramsOk b sounds fa && decide (b.pclass ≤ 3) &&
  (List.range (paramCount b)).all (fun i => (paramFormat b i).isSome || decide (b.par i = 0))

/-- The sound IDs a block refers to. -/
def blockSounds (b : Block) : List Nat :=
  if b.ty = 7 then (List.range (b.par 4)).map (fun l => b.par (16 + 40 * l))
  else if b.ty = 8 then (List.range (b.par 0)).map (fun i => b.par (16 + 8 * i))
  else []

/-! ### The graph (R147, R148) -/

/-- The block of an instance. -/
def Graph.block (g : Graph) (inst : Nat) : Option Block := g.blocks.find? (fun b => b.inst == inst)

/-- The instances that feed a block, loop-breaking delay blocks aside. -/
def Graph.feeders (g : Graph) (b : Block) : List Nat :=
  ((g.edges.filter (fun e => e.dstInst == b.inst)).map (fun e => e.srcInst)).filter (fun i =>
    match g.block i with
    | some x => !breaksLoop x
    | none => false)

/-- Peel off blocks whose feeders are all peeled, `k` rounds. -/
def Graph.peel (g : Graph) : Nat → List Nat → List Nat
  | 0, done => done
  | k + 1, done =>
    g.peel k (done ++ ((g.blocks.filter (fun b => !done.contains b.inst && (g.feeders b).all (fun i => done.contains i))).map
      (fun b => b.inst)))

/-- Every loop of edges contains a delay block of at least n samples (R148). -/
def Graph.loopsOk (g : Graph) : Bool := decide ((g.peel g.blocks.length []).length = g.blocks.length)

/-- The look-ahead block of a graph (R147: at most one). -/
def Graph.lookahead (g : Graph) : Option Block := g.blocks.find? (fun b => b.ty == 0x0B)

/-- R147: at most one look-ahead block; with one, every speaker terminal is driven by an output pin of it, each of the
pins drives exactly one speaker terminal. -/
def Graph.laOk (g : Graph) : Bool :=
  match g.blocks.filter (fun b => b.ty == 0x0B) with
  | [] => true
  | [b] =>
    let spk := g.terms.filter (fun t => t.kind == 2)
    spk.all (fun t => t.inst == b.inst && decide (t.pin < b.par 0)) &&
    (List.range (b.par 0)).all (fun k => decide ((spk.filter (fun t => t.pin == k)).length = 1))
  | _ => false

/-- Channels of pin `p` of a block: a FIR block has one channel (R140), a look-ahead block's pins carry one each (R145); of every
other type the spec gives no count per pin (log entry 11). -/
def pinWidth (b : Block) (out : Bool) (p : Nat) : Nat := if b.ty = 2 ∨ b.ty = 0x0B then 1 else Config.pinChannels b.ty b.params out p

/-- An edge joins blocks of the graph, with the channel count of its pins (R148). -/
def Graph.edgeOk (g : Graph) (e : Edge) : Bool :=
  match g.block e.srcInst, g.block e.dstInst with
  | some a, some b =>
    decide (e.channels = pinWidth a true e.srcPin) &&
    decide (e.channels = pinWidth b false e.dstPin)
  | _, _ => false

/-- A terminal names a context or an output of the device and a block of the graph; CONTROL stands on inputs only. -/
def Graph.termOk (g : Graph) (t : Terminal) : Bool :=
  decide (t.kind ≤ 2) && decide (t.number < (if t.kind = 2 then 16 else 128)) && (g.block t.inst).isSome &&
  (!t.control || t.kind == 0)

/-- The context or output a terminal names. -/
def Terminal.what (t : Terminal) : Bool × Nat := (t.kind == 2, t.number)

/-- A graph passes check 9 (R141, R147, R148, R152). -/
def Graph.ok (g : Graph) (sounds : List Sound) (fa : Nat) : Bool :=
  decide (g.blocks.length ≤ 504) &&
  decide ((g.blocks.map (fun b => b.inst)).eraseDups.length = g.blocks.length) &&
  g.blocks.all (fun b => decide (b.inst ≠ 0) && decide (b.inst ≠ 0xFFFF) && blockOk sounds fa b) &&
  g.edges.all g.edgeOk && g.loopsOk &&
  g.blocks.all (fun b => b.pclass != 0 ||
    (blockSounds b).all (fun i => sounds.any (fun x => x.id == i && x.early))) &&
  g.terms.all g.termOk && decide ((g.terms.map Terminal.what).eraseDups.length = g.terms.length) && g.laOk

/-- Voices that a block uses: an AVAS synthesiser one for each layer, a chime player two (R139, R142, R144). -/
def blockVoices (b : Block) : Nat := if b.ty = 7 then b.par 4 else if b.ty = 8 then 2 else 0

/-- The first voice of a block: the blocks of the graph take voices 20 to 31 in order. -/
def Graph.firstVoice (g : Graph) (inst : Nat) : Nat :=
  20 + ((g.blocks.takeWhile (fun b => b.inst != inst)).map blockVoices).foldl (· + ·) 0

/-! ### Costs and sizes (R140) -/

/-- Round up a quotient. -/
def ceilDiv (a b : Nat) : Nat := (a + b - 1) / b

/-- Sections of a biquad or crossover block. -/
def sectionsOf (b : Block) : Nat :=
  if b.ty = 1 then b.par 0 else (b.par 1 - 1) * b.par 0 + (b.par 1 - 2) * ceilDiv (b.par 0) 4

/-- Channels K of a biquad or crossover block. -/
def chansOf (b : Block) : Nat := if b.ty = 1 then b.par 1 else b.par 2

/-- Worst-case DSP cycles of a block per frame (R140). -/
def blockCost (b : Block) : Nat :=
  let n := frameLen b.cls
  if b.ty = 1 ∨ b.ty = 3 then n * sectionsOf b * ceilDiv (chansOf b) 8 * 6 + 40
  else if b.ty = 2 then n * ceilDiv (b.par 0) 8 + 60
  else if b.ty = 4 then n * b.par 0 + 30
  else if b.ty = 5 then n * (b.par 0 + 12) + 80
  else if b.ty = 6 then n * ceilDiv (b.par 0 * b.par 1) 8 + 40
  else if b.ty = 7 then n * 24 * b.par 4 + 400
  else if b.ty = 8 then n * 8 + 200
  else if b.ty = 9 then 120
  else if b.ty = 0x0A then n * 40 + 100
  else if b.ty = 0x0B then n * (b.par 0 + 2) + 300
  else n * 2 + 40

/-- Scheduling and glue-up of a core per frame of a class (R140). -/
def schedCost (cls : Nat) : Nat := if cls = 0 then 2000 else 300

/-- The buffers of a block: kind (0 state, 1 parameters, 2 history) and bytes (R140, R156). -/
def blockBuffers (b : Block) : List (Nat × Nat) :=
  let n := frameLen b.cls
  if b.ty = 1 ∨ b.ty = 3 then [(0, 8 * sectionsOf b * chansOf b), (1, 20 * sectionsOf b)]
  else if b.ty = 2 then [(1, 4 * b.par 0), (2, 4 * (b.par 0 + n))]
  else if b.ty = 4 then [(2, 4 * b.par 0 * (b.par 1 + n))]
  else if b.ty = 5 then [(2, 4 * b.par 0 * (b.par 7 + n))]
  else if b.ty = 6 then [(1, 8 * b.par 0 * b.par 1)]
  else if b.ty = 7 then [(0, 4096)]
  else if b.ty = 8 ∨ b.ty = 0x0A then [(0, 2048)]
  else if b.ty = 9 then [(0, 256)]
  else if b.ty = 0x0B then [(2, 4 * b.par 0 * (b.par 1 + n))]
  else [(0, 64)]

end Sys2Proof.Machine
end

