-- ==== Sys2Proof/Machine/Placement.lean ====
section
/-!
DEFINITION. Machine/Placement.lean: placement of blocks and buffers, shedding, fences of cores and memory regions, migration
and the placement record (R152 to R178).
-/

namespace Sys2Proof.Machine

open Sys2Proof

/-! ### Policy (R177) -/

/-- The global entry of policy table 0x0004 (its defaults where the table is absent). -/
def State.placeGlobal (s : State) : List (BitVec 8) :=
  ((s.polEntries 4).find? (fun e => u16 e 0 == 0)).getD [0, 0, 0, 0, 16, 0, 0, 0]

/-- The entry of a block, or the defaults: SHED_RANK 128, zero, any core, any tier. -/
def State.placeEntry (s : State) (inst : Nat) : List (BitVec 8) :=
  ((s.polEntries 4).find? (fun e => u16 e 0 == inst)).getD [0, 0, 128, 1, 0xFF, 0xFF, 0, 0]

/-- SHED_ACTION bypass is allowed for biquad, FIR, delay and dynamics blocks only (R174). -/
def bypassAllowed (ty : Nat) : Bool := decide (ty = 1 ∨ ty = 2 ∨ ty = 4 ∨ ty = 5)

/-- Policy table 0x0004 passes check 9 against a graph (R174, R177). -/
def placePolicyOk (es : List (List (BitVec 8))) (g : Graph) : Bool :=
  es.any (fun e => u16 e 0 == 0) &&
  es.all (fun e =>
    if u16 e 0 = 0 then decide (u8 e 2 ≤ 1) && decide (u8 e 3 ≤ 1) && decide (16 ≤ u16 e 4) && decide (u16 e 4 ≤ 256) &&
      decide (u16 e 6 = 0)
    else
      match g.block (u16 e 0) with
      | none => false
      | some b => decide (u8 e 3 ≤ 1) && (u8 e 3 == 1 || bypassAllowed b.ty) && decide (u8 e 4 ≤ 3 ∨ u8 e 4 = 255) &&
        decide (u8 e 5 ≤ 2 ∨ u8 e 5 = 255) && decide (u16 e 6 = 0))

/-! ### Bounds (R154, R155) -/

/-- What placement depends on (R152): the graph, the policy's pins and tiers by instance, full-guarantee mode, the fenced cores,
the fenced regions, the owner's Fa, the bytes of golden data and the spare regions kept unassigned. -/
structure PlaceIn where
  g : Graph
  pinCore : Nat → Nat
  pinTier : Nat → Nat
  full : Bool
  cores : BitVec 4
  regions : List (Nat × Nat)
  fa : Nat
  golden : Nat
  spare : Nat

/-- The bound of R154 in percent. -/
def PlaceIn.bound (p : PlaceIn) : Nat := if p.full then 45 else 85

/-- Does a number of DSP cycles lie within the bound of a frame period of a class (R154)? -/
def PlaceIn.within (p : PlaceIn) (cls cycles : Nat) : Bool :=
  decide (cycles * p.fa * 100 ≤ p.bound * 737280000 * frameLen cls)

/-- Where blocks stand so far: instance and core. -/
abbrev Cores := List (Nat × Nat)

/-- The core of an instance. -/
def coreOf (cs : Cores) (inst : Nat) : Option Nat := (cs.find? (fun x => x.1 == inst)).map (fun x => x.2)

/-- The load of a core for a class, in DSP cycles per frame, scheduling included. -/
def PlaceIn.load (p : PlaceIn) (cs : Cores) (c cls : Nat) : Nat :=
  schedCost cls + ((p.g.blocks.filter (fun b => b.cls == cls && coreOf cs b.inst == some c)).map blockCost).foldl (· + ·) 0

/-- The longest chain of dependent blocks of a class that ends in each placed block: `k` rounds of relaxation, 200
cycles for each edge that crosses between cores (R154). -/
def PlaceIn.chains (p : PlaceIn) (cs : Cores) (cls : Nat) : Nat → List (Nat × Nat) → List (Nat × Nat)
  | 0, t => t
  | k + 1, t =>
    p.chains cs cls k ((p.g.blocks.filter (fun b => b.cls == cls && (coreOf cs b.inst).isSome)).map (fun b =>
      let ins := (p.g.feeders b).filterMap (fun i =>
        match coreOf cs i, t.find? (fun x => x.1 == i) with
        | some c, some x => some (x.2 + (if some c = coreOf cs b.inst then 0 else 200))
        | _, _ => none)
      (b.inst, blockCost b + ins.foldl max 0)))

/-- The critical path of a class. -/
def PlaceIn.critical (p : PlaceIn) (cs : Cores) (cls : Nat) : Nat :=
  ((p.chains cs cls (cs.length + 1) []).map (fun x => x.2)).foldl max 0

/-- The compute bounds hold for both classes (R154). -/
def PlaceIn.computeOk (p : PlaceIn) (cs : Cores) : Bool :=
  [0, 1].all (fun cls => (List.range 4).all (fun c => p.within cls (p.load cs c cls)) && p.within cls (p.critical cs cls))

/-! ### Blocks to cores (R153) -/

/-- Insert a block in the order of R153: PCLASS 0 first, then F4 first, then the lowest instance ID. -/
def insertBlock (b : Block) : List Block → List Block
  | [] => [b]
  | c :: t =>
    let key := fun (x : Block) => (x.pclass * 2 + (1 - x.cls)) * 65536 + x.inst
    if key b ≤ key c then b :: c :: t else c :: insertBlock b t

/-- The blocks in the order of R153. -/
def placeOrder (bs : List Block) : List Block := bs.foldr insertBlock []

/-- The load of a core over both classes, as cycles per F32 period: its order among the candidates (R153) and among the partners
(R170). R154 defines a load per class; that both count together is the model's choice (DESIGN CHOICE, log entry 161). -/
def PlaceIn.totalLoad (p : PlaceIn) (cs : Cores) (c : Nat) : Nat := p.load cs c 0 + 8 * p.load cs c 1

/-- Insert a core by load, lower index first on ties. -/
def PlaceIn.insertCore (p : PlaceIn) (cs : Cores) (c : Nat) : List Nat → List Nat
  | [] => [c]
  | d :: t => if p.totalLoad cs c ≤ p.totalLoad cs d then c :: d :: t else d :: p.insertCore cs c t

/-- The candidate cores of a block (R153). -/
def PlaceIn.candidates (p : PlaceIn) (cs : Cores) (b : Block) : List Nat :=
  let live := (List.range 4).filter (fun c => !p.cores.getLsbD c)
  if p.pinCore b.inst ≠ 255 then live.filter (fun c => c == p.pinCore b.inst)
  else live.foldr (p.insertCore cs) []

/-- Place blocks in order; a block goes to the first candidate where the compute bounds still hold. Answers the cores
and the blocks that found none. -/
def PlaceIn.toCores (p : PlaceIn) : List Block → Cores → Cores × List Nat
  | [], cs => (cs, [])
  | b :: t, cs =>
    match (p.candidates cs b).find? (fun c => p.computeOk (cs ++ [(b.inst, c)])) with
    | some c => p.toCores t (cs ++ [(b.inst, c)])
    | none => let r := p.toCores t cs; (r.1, b.inst :: r.2)

/-! ### Buffers to tiers (R156, R158) -/

/-- A buffer: instance, kind, bytes and access density (bytes per frame, scaled). -/
structure Buffer where
  inst : Nat
  kind : Nat
  bytes : Nat
  access : Nat

/-- Insert a buffer by bytes accessed per frame divided by size, the highest first. -/
def insertBuffer (b : Buffer) : List Buffer → List Buffer
  | [] => [b]
  | c :: t => if c.access * b.bytes ≤ b.access * c.bytes then b :: c :: t else c :: insertBuffer b t

/-- The tiers a kind of buffer may use, fastest first: 0 local, 1 shared, 2 DRAM (R156). -/
def tiersOf (kind : Nat) : List Nat := if kind = 0 then [0] else if kind = 1 then [0, 1] else [0, 1, 2]

/-- Fenced 64 KiB regions of a memory instance, in bytes. -/
def PlaceIn.fencedBytes (p : PlaceIn) (mi : Nat) : Nat := (p.regions.filter (fun r => r.1 == mi)).length * 65536

/-- The usable size of a tier for a block on core `c` (R156, R158): in DRAM what the golden pair and the spare regions leave. -/
def PlaceIn.room (p : PlaceIn) (tier c : Nat) : Nat :=
  if tier = 0 then 960 * 1024 - p.fencedBytes c
  else if tier = 1 then 8064 * 1024 - p.fencedBytes 4
  else 64 * 1024 * 1024 - 2 * p.golden - p.spare * 65536 - p.fencedBytes 5

/-- The tier of a buffer's mirror in full-guarantee mode (R158): the next slower one, DRAM for DRAM; parameters have none. -/
def mirrorTier (kind tier : Nat) : Option Nat := if kind = 1 then none else some (min 2 (tier + 1))

/-- Assigned buffers: the buffer, its core, its tier. -/
abbrev Tiers := List (Buffer × Nat × Nat)

/-- Bytes in a tier (of core `c` for the local one), mirrors included in full-guarantee mode. -/
def PlaceIn.fill (p : PlaceIn) (ts : Tiers) (tier c : Nat) : Nat :=
  let own := ts.filter (fun x => x.2.2 == tier && (tier != 0 || x.2.1 == c))
  let mirrors := ts.filter (fun x => p.full && mirrorTier x.1.kind x.2.2 == some tier)
  ((own ++ mirrors).map (fun x => x.1.bytes)).foldl (· + ·) 0

/-- A buffer has room in a tier, and its mirror in its own (R156, R158). -/
def PlaceIn.fits (p : PlaceIn) (ts : Tiers) (b : Buffer) (c tier : Nat) : Bool :=
  [some tier, mirrorTier b.kind tier].all (fun x => match x with
    | some k => decide (p.fill (ts ++ [(b, c, tier)]) k c ≤ p.room k c)
    | none => true)

/-- Assign buffers in order; answers the assignment and the instances whose buffers found no room. PIN_TIER binds every buffer of its
block, whatever the kind (DESIGN CHOICE, log entry 163). -/
def PlaceIn.toTiers (p : PlaceIn) (cs : Cores) : List Buffer → Tiers → Tiers × List Nat
  | [], ts => (ts, [])
  | b :: t, ts =>
    let c := (coreOf cs b.inst).getD 255
    let allowed := if p.pinTier b.inst = 255 then tiersOf b.kind else (tiersOf b.kind).filter (fun x => x == p.pinTier b.inst)
    match allowed.find? (fun tier => p.fits ts b c tier) with
    | some tier => p.toTiers cs t (ts ++ [(b, c, tier)])
    | none => let r := p.toTiers cs t ts; (r.1, b.inst :: r.2)

/-- The buffers of the placed blocks in the order of R156. -/
def PlaceIn.buffers (p : PlaceIn) (cs : Cores) : List Buffer :=
  ((p.g.blocks.filter (fun b => (coreOf cs b.inst).isSome)).flatMap (fun b =>
    (blockBuffers b).map (fun x =>
      { inst := b.inst, kind := x.1, bytes := x.2, access := Config.accessBytes b.ty b.params x.1 : Buffer }))).foldr
    insertBuffer []

/-- The traffic bounds of R154: shared SRAM 23.6 GB/s, DRAM 8.5 GB/s, mirrors and scrub included; without a buffer there is the
scrub alone, at most 2 % of DRAM bandwidth (R161). -/
def PlaceIn.trafficOk (p : PlaceIn) (cs : Cores) (ts : Tiers) : Bool :=
  let desc := p.g.blocks.map (fun b =>
    (b.ty, b.params, (coreOf cs b.inst).getD 255, (ts.filter (fun x => x.1.inst == b.inst)).map (fun x => x.2.2)))
  ts.isEmpty || (decide (Config.trafficBytes false p.full p.golden desc * p.fa * 100 ≤ p.bound * 23600000000 * 32) &&
  decide (Config.trafficBytes true p.full p.golden desc * p.fa * 100 ≤ p.bound * 8500000000 * 32))

/-! ### Shedding (R173) -/

/-- One attempt at placing the blocks not refused: the entries, and the first reason it does not fit (1 compute,
2 memory, 3 bandwidth), none where all fit. -/
def PlaceIn.attempt (p : PlaceIn) (refused : List Nat) : Cores × Tiers × Option Nat :=
  let r := p.toCores (placeOrder (p.g.blocks.filter (fun b => !refused.contains b.inst))) []
  let m := p.toTiers r.1 (p.buffers r.1) []
  (r.1, m.1, if r.2 ≠ [] then some 1 else if m.2 ≠ [] then some 2 else if p.trafficOk r.1 m.1 then none else some 3)

/-- The next block to refuse: P3 first, then P2, then P1; the highest SHED_RANK, then the higher instance ID. -/
def nextRefusal (g : Graph) (rank : Nat → Nat) (refused : List Nat) : Option Block :=
  (g.blocks.filter (fun b => b.pclass != 0 && !refused.contains b.inst)).foldl (fun best b =>
    match best with
    | none => some b
    | some a =>
      let key := fun (x : Block) => (x.pclass * 256 + rank x.inst) * 65536 + x.inst
      if key a < key b then some b else some a) none

/-- Blocks fed only by refused blocks (and by at least one): refused with them, `k` rounds. -/
def fedByRefused (g : Graph) : Nat → List (Nat × Nat) → List (Nat × Nat)
  | 0, r => r
  | k + 1, r =>
    let has := fun i => r.any (fun x => x.1 == i)
    fedByRefused g k (r ++ ((g.blocks.filter (fun b =>
      let ins := (g.edges.filter (fun e => e.dstInst == b.inst)).map (fun e => e.srcInst)
      !has b.inst && b.pclass != 0 && !ins.isEmpty && ins.all has &&
        !(g.terms.any (fun t => t.kind == 0 && t.inst == b.inst)))).map (fun b => (b.inst, 4))))

/-- Place, refusing blocks one by one until the rest fits (R173). Answers the cores, the tiers, the refused blocks with
their reasons, and whether all fit. A pinned block that does not fit on its core does not stand alone in this: blocks of a lower
class are refused before it (DESIGN CHOICE, log entry 162). -/
def PlaceIn.solve (p : PlaceIn) (rank : Nat → Nat) : Nat → List (Nat × Nat) → Cores × Tiers × List (Nat × Nat) × Bool
  | 0, refused => let r := p.attempt (refused.map (fun x => x.1)); (r.1, r.2.1, refused, r.2.2.isNone)
  | k + 1, refused =>
    let r := p.attempt (refused.map (fun x => x.1))
    match r.2.2, nextRefusal p.g rank (refused.map (fun x => x.1)) with
    | some why, some b => p.solve rank k (fedByRefused p.g p.g.blocks.length (refused ++ [(b.inst, why)]))
    | _, _ => (r.1, r.2.1, refused, r.2.2.isNone)

/-- The inputs of placement in a state, for a mode (0 full-guarantee, 1 relaxed). -/
def State.placeIn (s : State) (g : Graph) (mode : Nat) : PlaceIn :=
  { g := g, pinCore := fun i => u8 (s.placeEntry i) 4, pinTier := fun i => u8 (s.placeEntry i) 5,
    full := decide (mode = 0), cores := s.dsp.place.cores, regions := s.dsp.place.regions, fa := s.fa,
    golden := (s.boot.dir.map (fun d => d.length)).foldl (· + ·) 0,
    spare := if mode ≠ 0 then 0 else if s.boot.state = bootFullRunning then s.dsp.place.spare else u16 s.placeGlobal 4 }

/-- The cores, tiers and refusals of a graph in one mode, and whether all that is not refused fits. -/
def State.placeSolve (s : State) (g : Graph) (mode : Nat) : Cores × Tiers × List (Nat × Nat) × Bool :=
  (s.placeIn g mode).solve (fun i => u8 (s.placeEntry i) 2) g.blocks.length []

/-- The golden pair, the DRAM buffers, their mirrors and the spare lie within 64 MiB (R158). -/
def State.dramOk (s : State) (g : Graph) (mode : Nat) : Bool :=
  let p := s.placeIn g mode
  decide (2 * p.golden + p.spare * 65536 + p.fill (s.placeSolve g mode).2.1 2 0 ≤ 64 * 1024 * 1024)

/-- Placement of a graph in one mode (R153): none where P0 blocks do not fit. -/
def State.placeIn1 (s : State) (g : Graph) (mode : Nat) : Option Placement :=
  let r := s.placeSolve g mode
  if !r.2.2.2 then none
  else
    some { mode := mode, entries := g.blocks.map (fun b =>
      { inst := b.inst, core := (coreOf r.1 b.inst).getD 255,
        tier := ((r.2.1.find? (fun x => x.1.inst == b.inst && x.1.kind == 0)).map (fun x => x.2.2)).getD 0,
        state := if (coreOf r.1 b.inst).isSome then 0 else 1,
        reason := ((r.2.2.1.find? (fun x => x.1 == b.inst)).map (fun x => x.2)).getD 0, pclass := b.pclass }) }

/-- The mode placement starts from: relaxed once it was forced, else the policy's (R155, R175). -/
def State.placeMode (s : State) : Nat := if s.dsp.place.forced then 1 else u8 s.placeGlobal 2

/-- Placement of a graph (R153, R175): in the policy's mode; where its P0 blocks do not fit, in relaxed mode. -/
def State.computePlacement (s : State) (g : Graph) : Option Placement :=
  match s.placeIn1 g s.placeMode with
  | some p => some p
  | none => if s.placeMode = 0 then s.placeIn1 g 1 else none

/-! ### Taking effect -/

/-- SEQ of the placement record after an update: one step before and one after it (R178). -/
def State.placeSeq (s : State) : State :=
  { s with dsp := { s.dsp with place := { s.dsp.place with seq := s.dsp.place.seq + 2 } } }

/-- The context a terminal names takes its direction, terminal and CONTROL flag (R130, R131, R134). -/
def State.bindTerminal (s : State) (k : Nat) (t : Terminal) : State :=
  if t.kind = 2 then s
  else
    let c := t.number
    let u := (s.wr (F.DSPX_CTXn_CFG_DIR c) (t.kind + 1)).wr (F.DSPX_CTXn_CFG_TERMINAL c) k
    let u := u.wrB (F.DSPX_CTXn_CFG_CONTROL c) t.control
    if t.kind = 1 then
      let u := u.ctxBind c 5 0
      (u.setCtx c { u.ctx c with srcOn := true }).ctxRetarget c
    else u

/-- A context of a graph that is replaced loses its terminal. -/
def State.unbindTerminal (s : State) (c : Nat) : State :=
  let u := (s.wr (F.DSPX_CTXn_CFG_DIR c) 0).wr (F.DSPX_CTXn_CFG_TERMINAL c) 0xFF
  let u := u.wr (F.DSPX_CTXn_CFG_CONTROL c) 0
  if u.rd (F.DSPX_CTXn_CFG_KIND c) = 5 then u.ctxBind c 0 0 else u

/-- The numbered terminals of a graph. -/
def Graph.numbered (g : Graph) : List (Nat × Terminal) := (List.range g.terms.length).zip g.terms

/-- The voices after a change of the graph: a block that stays keeps its own under their new numbers. -/
def State.voicesFor (s : State) (g : Graph) : Tbl Voice :=
  g.blocks.foldl (fun m b =>
    if (s.dsp.graph.block b.inst).isNone then m
    else (List.range (blockVoices b)).foldl (fun m l =>
      Tbl.set Voice.idle m (g.firstVoice b.inst + l) (s.voice (s.dsp.graph.firstVoice b.inst + l))) m)
    (s.dsp.voices.filter (fun x => decide (x.1 < 20)))

/-- A graph becomes the graph in use: its terminals bind contexts; blocks of instances that stay keep their state, wherever it is
held, and no other state stays (R51, R145). `code` is DSPX_STAT.GRAPH. -/
def State.installGraph (s : State) (g : Graph) (code : Nat) : State :=
  let old := (s.dsp.graph.terms.filter (fun t => t.kind != 2)).map (fun t => t.number)
  let stays (i : Nat) : Bool := (g.block i).isSome
  let sameLa := decide (g.lookahead.map (fun b => b.inst) = s.dsp.graph.lookahead.map (fun b => b.inst))
  let t := s.forEach old (fun c t => t.unbindTerminal c)
  let t := { t with dsp := { t.dsp with
    graph := g, blockState := t.dsp.blockState.filter (fun x => stays x.1), avas := t.dsp.avas.filter (fun x => stays x.1),
    chimes := t.dsp.chimes.filter (fun x => stays x.1), paramRamp := t.dsp.paramRamp.filter (fun r => stays r.inst),
    voices := s.voicesFor g, laPeaks := if sameLa then t.dsp.laPeaks else [], laHist := if sameLa then t.dsp.laHist else [],
    laLast := if sameLa then t.dsp.laLast else [] } }
  let t := t.setReg A.DSPX_PLAYSTAT (bitsWord (fun v => (t.voice v).busy))
  let t := t.forEach g.numbered (fun x t => t.bindTerminal x.1 x.2)
  let t := t.wr F.DSPX_STAT_GRAPH code
  (t.wr F.DSPX_FRAMECNT_VALUE 0).wr F.DSPX_STAT_LA_ACTIVE 0

/-- A placement takes effect: it becomes the placement in use, REFUSED is set where it refuses a block, the mode shows
in DSPX_STAT; a change to relaxed mode after a fence is a forced one (R152, R155, R174, R175). -/
def State.takePlacement (s : State) (p : Placement) : State :=
  let forced := s.dsp.place.forced ||
    decide (p.mode ≠ u8 s.placeGlobal 2 ∧ (s.dsp.place.cores ≠ 0 ∨ s.dsp.place.regions ≠ []))
  let t := { s with dsp := { s.dsp with place := { s.dsp.place with
    now := p, next := none, partner := [], migrating := false, late := false, forced := forced,
    crossing := [], crossed := [] } } }
  let t := t.wr F.DSPX_STAT_MODE p.mode
  let t := if p.entries.any (fun e => e.state == 1) then t.ev A.DSPX_EVENT 6 else t
  t.placeSeq

/-- P0 blocks that no mode can place: class 2, code 0x04, with the lasting hint (R175). -/
def State.p0Unplaceable (s : State) : State := s.raise 2 0 4 0 true

/-- Blocks that the placement to come refuses and the one in use does not: in full-guarantee mode they crossfade (R174). -/
def PlaceSt.due (p : PlaceSt) : List Nat :=
  let refused (l : List PlaceEntry) := (l.filter (fun e => e.state == 1)).map (fun e => e.inst)
  match p.next with
  | some q => if p.now.mode = 0 then (refused q.entries).filter (fun i => !(refused p.now.entries).contains i) else []
  | none => []

/-- A block of class F4. -/
def State.blockF4 (s : State) (inst : Nat) : Bool :=
  match s.dsp.graph.block inst with
  | some b => b.cls == 1
  | none => false

/-- No frame of a block has yet been computed in this F32 period, and one will be. -/
def State.frameOpen (s : State) (inst : Nat) : Bool :=
  if s.blockF4 inst then s.dsp.f4.input.isSome && !s.dsp.f4.done && s.dsp.sub == 0 else s.dsp.f32.input.isSome && !s.dsp.f32.done

/-- Every frame of a block in this F32 period has been computed. -/
def State.frameOver (s : State) (inst : Nat) : Bool :=
  if s.blockF4 inst then (s.dsp.f4.input.isNone || s.dsp.f4.done) && s.dsp.sub == 7 else s.dsp.f32.input.isNone || s.dsp.f32.done

/-- Every crossfade that a placement to come asks for is over: its frame is past, or computed (R174). -/
def State.crossDone (s : State) : Bool :=
  s.dsp.place.due.all (fun i => s.dsp.place.crossed.contains i || (s.dsp.place.crossing.contains i && s.frameOver i))

/-- Firmware computes the placement of the graph in use and holds it for the next boundary (R152). A block it refuses begins its
crossfade in the frame being computed, or else in the next (R174; log entry 164). -/
def State.placementRun (s : State) : State :=
  match s.computePlacement s.dsp.graph with
  | some q =>
    let p := { s.dsp.place with next := some q }
    { s with dsp := { s.dsp with place := { p with
        crossed := p.crossed.filter (fun i => p.due.contains i),
        crossing := p.due.filter (fun i => !p.crossed.contains i && (p.crossing.contains i || s.frameOpen i)) } } }
  | none => s.p0Unplaceable

/-- PLACEMENT_RUN: firmware runs with PLL B (R17). -/
def execPlacementRun (s : State) : Host.Outcome State Fault Refusal := .next (s.when s.busUp State.placementRun)

/-! ### Fences of cores and memory (R169 to R172) -/

/-- The load of a core in the placement in use, in cycles per F32 period. -/
def State.coreLoad (s : State) (c : Nat) : Nat :=
  let cs : Cores := s.dsp.place.now.entries.filterMap (fun e => if e.core = 255 then none else some (e.inst, e.core))
  (s.placeIn s.dsp.graph 0).totalLoad cs c

/-- The unfenced core with the lowest load, the lower index on a tie (R170). -/
def State.partnerFor (s : State) (c : Nat) : Option Nat :=
  ((List.range 4).filter (fun d => d != c && !s.dsp.place.cores.getLsbD d)).foldl (fun best d =>
    match best with
    | none => some d
    | some b => if s.coreLoad d < s.coreLoad b then some d else some b) none

/-- The blocks a core runs in the placement in use. -/
def State.coreBlocks (s : State) (c : Nat) : List Nat :=
  (s.dsp.place.now.entries.filter (fun e => e.core == c)).map (fun e => e.inst)

/-- The instances downstream of a list, itself included, `k` rounds. -/
def Graph.downstream (g : Graph) : Nat → List Nat → List Nat
  | 0, l => l
  | k + 1, l => g.downstream k (l ++ ((g.edges.filter (fun e => l.contains e.srcInst && !l.contains e.dstInst)).map
      (fun e => e.dstInst)).eraseDups)

/-- The speaker outputs that blocks feed. -/
def Graph.outputsOf (g : Graph) (l : List Nat) : List Nat :=
  let d := g.downstream g.blocks.length l
  (g.terms.filter (fun t => t.kind == 2 && d.contains t.inst)).map (fun t => t.number)

/-- Set the bits of a list in a 16-bit mask. -/
def maskOf (l : List Nat) : BitVec 16 := l.foldl (fun m o => m ||| BitVec.ofNat 16 (2 ^ o)) 0

/-- The fenced cores whose blocks nothing runs any more: the frame of each class conceals, the outputs that the blocks feed fade and
stay muted until the new placement takes effect (R171, R172). -/
def State.coresLost (s : State) (cs : List Nat) : State :=
  let p := s.dsp.place
  { s with dsp := { s.dsp with
      place := { p with
        partner := p.partner.filter (fun x => !cs.contains x.1),
        muted := p.muted ||| maskOf (s.dsp.graph.outputsOf (cs.flatMap s.coreBlocks)),
        now := { p.now with entries := p.now.entries.map (fun e => if cs.contains e.core ∧ e.state = 2 then { e with state := 0 } else e) } },
      f32 := { s.dsp.f32 with doomed := true }, f4 := { s.dsp.f4 with doomed := true } } }

/-- Core `d` becomes the partner of a fenced core: it runs its blocks from their mirrors (R158, R170). -/
def State.partnerRuns (s : State) (c d : Nat) : State :=
  let p := s.dsp.place
  let from' (m : Tbl (List (BitVec 32))) (i : Nat) : Tbl (List (BitVec 32)) :=
    if s.dsp.mirror.any (fun x => x.1 == i) then Tbl.set [] m i (Tbl.get [] s.dsp.mirror i) else m
  { s with dsp := { s.dsp with
      blockState := (s.coreBlocks c).foldl from' s.dsp.blockState,
      place := { p with
        partner := p.partner ++ [(c, d)],
        now := { p.now with entries := p.now.entries.map (fun e => if e.core = c ∧ e.state = 0 then { e with state := 2 } else e) } } } }

/-- A core is fenced (R169 to R172). In full-guarantee mode a partner runs its blocks and every frame commits. In relaxed mode, when
the core was itself a partner, and when no core is left, its blocks and those it ran stop. -/
def State.coreFence (s : State) (c : Nat) (id : BitVec 16) : State :=
  if s.dsp.place.cores.getLsbD c then s
  else
    let p := s.dsp.place
    let ran := (p.partner.filter (fun x => x.2 == c)).map (fun x => x.1)
    let t := { s with dsp := { s.dsp with place := { p with
      cores := p.cores ||| BitVec.ofNat 4 (2 ^ c), migrating := true, late := false, next := none, lastFence := id } } }
    let t := (t.wr F.DSPX_STAT_FENCED t.dsp.place.cores.toNat).ev A.DSPX_EVENT 4
    let t := match if p.now.mode ≠ 0 ∨ ran ≠ [] then none else t.partnerFor c with
      | none => t.coresLost (c :: ran)
      | some d => t.partnerRuns c d
    t.placementRun.placeSeq

/-- CORE_FENCE: with the fault ID that asked for it (R178). -/
def execCoreFence (c : Fin 4) (id : BitVec 16) (s : State) : Host.Outcome State Fault Refusal :=
  .next (s.when s.busUp (fun s => s.coreFence c id))

/-- The placement computed takes effect after a migration: outputs muted under R171 are released (they ramp to their graph gain over
the next F32 frame; one with no channel stays muted, R176), MIGRATED is set (R170, R171). -/
def State.migrate (s : State) : State :=
  match s.dsp.place.next with
  | some p =>
    let t := (s.takePlacement p).ev A.DSPX_EVENT 5
    let bare := maskOf ((List.range 16).filter (fun o => decide ((Tbl.get OutSt.reset s.outs o).chans = [])))
    { t with dsp := { t.dsp with place := { t.dsp.place with muted := t.dsp.place.muted &&& bare } } }
  | none => s

/-- MIGRATION_DONE (R170): the first F32 boundary after the migration time. A placement whose last crossfade frame is not over waits
for it (R174; log entry 164). -/
def State.migrationDone (s : State) : State :=
  if !s.dsp.place.migrating then s
  else if s.crossDone then s.migrate
  else { s with dsp := { s.dsp with place := { s.dsp.place with late := true } } }

/-- MIGRATION_DONE. -/
def execMigrationDone (s : State) : Host.Outcome State Fault Refusal := .next (s.when s.busUp State.migrationDone)

/-- A 64 KiB memory region is fenced and its buffers are placed anew (R169): memory instance 0 to 3 local SRAM, 4 shared
SRAM, 5 DRAM. -/
def State.regionFence (s : State) (mi r : Nat) (id : BitVec 16) : State :=
  if s.dsp.place.regions.contains (mi, r) then s
  else
    let t := { s with dsp := { s.dsp with place := { s.dsp.place with
      regions := s.dsp.place.regions ++ [(mi, r)], migrating := true, late := false, next := none, lastFence := id } } }
    (t.ev A.DSPX_EVENT 4).placementRun.placeSeq

/-- REGION_FENCE. -/
def execRegionFence (mi : Fin 6) (r : Fin 1024) (id : BitVec 16) (s : State) : Host.Outcome State Fault Refusal :=
  .next (s.when s.busUp (fun s => s.regionFence mi r id))

/-! ### Detection codes (R159) -/

/-- The remainder of bits, the first one first, in a CRC of `n` bits with generator `g` (its leading term left out), from `r`. -/
def crcBits (n g : Nat) : List Bool → Nat → Nat
  | [], r => r
  | b :: t, r =>
    let top := r.testBit (n - 1) != b
    crcBits n g t ((if top then (2 * r) ^^^ g else 2 * r) % 2 ^ n)

/-- The low `n` bits of a number, the highest first. -/
def bitsDown (n x : Nat) : List Bool := (List.range n).map (fun i => x.testBit (n - 1 - i))

/-- The code of a memory word (R159): CRC-7 over 32 data bits and the word address in SRAM, CRC-8 over 64 in DRAM; data first, the
highest bit first, from zero (DESIGN CHOICE, log entry 160). -/
def memCode (mi word data : Nat) : Nat :=
  if mi = 5 then crcBits 8 7 (bitsDown 64 data ++ bitsDown 23 word) 0
  else crcBits 7 9 (bitsDown 32 data ++ bitsDown (if mi = 4 then 21 else 18) word) 0

/-- A word as read fails its check. -/
def memBad (mi : Nat) (w : MemRead) : Bool :=
  memCode mi w.word.toNat w.data.toNat != w.code.toNat % (if mi = 5 then 256 else 128)

/-- The 64 KiB region of a word. -/
def memRegion (mi : Nat) (w : MemRead) : Nat := w.word.toNat % (if mi = 5 then 2 ^ 23 else if mi = 4 then 2 ^ 21 else 2 ^ 18) /
  (if mi = 5 then 8192 else 16384)

/-- A multiply-accumulate fails its check: the residues mod 15 of the significands, or the duplicated logic (R159). -/
def macBad (m : MacCheck) : Bool := (m.a.toNat % 15) * (m.b.toNat % 15) % 15 != m.product.toNat % 15 || !m.dup

/-- What a detection brings fails its check. -/
def detBad : Detection → Bool
  | .residue m => macBad m
  | .memory mi w _ => memBad mi w

/-- A detection in committed state, or in history with no second copy outside full-guarantee mode (R167). -/
def detNoCopy : Detection → Bool
  | .residue _ => false
  | .memory _ _ n => n

/-! ### Memory detections (R161, R164 to R167) -/

/-- A region of DRAM, or of mirrors in shared SRAM, is fenced after a detection in FULL_RUNNING; its contents move to a spare region
at the next F32 boundary with no change to the placement. Without a spare, code 0x04 is raised (R161, R166). -/
def State.memFence (s : State) (mi r : Nat) (id : BitVec 16) : State :=
  if s.boot.state ≠ bootFullRunning ∨ s.dsp.place.regions.contains (mi, r) then s
  else
    let t := { s with dsp := { s.dsp with place := { s.dsp.place with
      regions := s.dsp.place.regions ++ [(mi, r)], lastFence := id } } }
    let t := (t.ev A.DSPX_EVENT 4).placeSeq
    if t.dsp.place.spare = 0 then t.raise 3 mi 4 r false
    else { t with dsp := { t.dsp with place := { t.dsp.place with
      moves := t.dsp.place.moves ++ [(mi, r)], spare := t.dsp.place.spare - 1 } } }

/-- DRAM_REGION_MOVE (R166): the contents have moved from the surviving copy. -/
def State.regionMove (s : State) (mi r : Nat) : State :=
  if s.dsp.place.moves.contains (mi, r) then
    { s with dsp := { s.dsp with place := { s.dsp.place with moves := s.dsp.place.moves.filter (fun x => x != (mi, r)) } } }.placeSeq
  else s

/-- DRAM_REGION_MOVE. -/
def execDramRegionMove (mi : Fin 6) (r : Fin 1024) (s : State) : Host.Outcome State Fault Refusal :=
  .next (s.when s.busUp (fun s => s.regionMove mi r))

/-- SCRUB_REPAIR (R161): a word of the golden pair or of a mirror, in shared SRAM or DRAM, that fails its check is rewritten from the
other copy; its region is then handled under R166. -/
def State.scrub (s : State) (mi : Nat) (w : MemRead) : State :=
  if mi < 4 || !memBad mi w then s
  else (s.raise 3 mi 3 (memRegion mi w) false).memFence mi (memRegion mi w) (faultId 3 mi 3)

/-- SCRUB_REPAIR. -/
def execScrubRepair (mi : Fin 6) (w : MemRead) (s : State) : Host.Outcome State Fault Refusal :=
  .next (s.when s.busUp (fun s => s.scrub mi w))

/-- Set the frame record of a class: `f4` or F32. -/
def State.setClass (s : State) (f4 : Bool) (c : ClassSt) : State :=
  if f4 then { s with dsp := { s.dsp with f4 := c } } else { s with dsp := { s.dsp with f32 := c } }

/-- The frame record of a class. -/
def State.cls (s : State) (f4 : Bool) : ClassSt := if f4 then s.dsp.f4 else s.dsp.f32

/-- Set the committed state of a block. -/
def State.setBlockState (s : State) (inst : Nat) (x : List (BitVec 32)) : State :=
  { s with dsp := { s.dsp with blockState := Tbl.set [] s.dsp.blockState inst x } }

/-- The state and history of a block are set to zero, wherever they are held (R167). -/
def State.zeroBlock (s : State) (b : Block) : State :=
  let t := s.setBlockState b.inst ((Tbl.get [] s.dsp.blockState b.inst).map (fun _ => 0))
  let v0 := s.dsp.graph.firstVoice b.inst
  let t := { t with dsp := { t.dsp with
    mirror := t.dsp.mirror.filter (fun x => x.1 != b.inst),
    avas := t.dsp.avas.filter (fun x => x.1 != b.inst), chimes := t.dsp.chimes.filter (fun x => x.1 != b.inst),
    voices := t.dsp.voices.filter (fun x => !(decide (v0 ≤ x.1) && decide (x.1 < v0 + blockVoices b))) } }
  if b.ty = 7 ∨ b.ty = 8 then t.setReg A.DSPX_PLAYSTAT (bitsWord (fun v => (t.voice v).busy))
  else if b.ty = 0x0B then { t with dsp := { t.dsp with laPeaks := [], laHist := [] } }
  else if b.ty = 9 then
    let g := Tbl.get GuardSt.reset t.guard (b.par 0)
    { t with guard := Tbl.set GuardSt.reset t.guard (b.par 0) { g with therm := { g.therm with
        dt1 := 0, dt2 := 0, tvc := 0, att := 0, acc := [], frames := 0 } } }
  else t

/-- The core that runs a block: its own, or the partner of its fenced core (R170, R172). -/
def State.runsOn (s : State) (inst : Nat) : Nat :=
  match s.dsp.place.now.entries.find? (fun e => e.inst == inst) with
  | some e =>
    if e.state = 2 then ((s.dsp.place.partner.find? (fun x => x.1 == e.core)).map (fun x => x.2)).getD e.core else e.core
  | none => 0

/-- A DRAM detection in FULL_RUNNING that finds no spare region left: R167 applies to its buffers (R166). -/
def State.spareGone (s : State) : Detection → Bool
  | .residue _ => false
  | .memory mi _ _ => decide (mi.val = 5) && decide (s.dsp.place.spare = 0) && decide (s.boot.state = bootFullRunning)

/-- A detection with no second copy of what it struck: in relaxed mode, and where no spare region is left (R166, R167). -/
def State.detLost (s : State) (d : Detection) : Bool := (decide (s.dsp.place.now.mode ≠ 0) || s.spareGone d) && detNoCopy d

/-- A detection in a block's frame: the first is recovered, from the mirror where the committed copy failed, and changes no result
(R164); a second one in the same block conceals the frame (R165); one that is lost conceals it and zeroes the block (R167). -/
def State.blockDetected (s : State) (b : Block) (d : Detection) : State :=
  let f4 := b.cls == 1
  let c := s.cls f4
  let lost := s.detLost d
  let t := s.setClass f4 { c with detected := b.inst :: c.detected, doomed := c.doomed || c.detected.contains b.inst || lost }
  if lost then t.zeroBlock b
  else if detNoCopy d && s.dsp.mirror.any (fun x => x.1 == b.inst) then t.setBlockState b.inst (Tbl.get [] s.dsp.mirror b.inst)
  else t

/-- A word or a lane fails its check in a block (R159, R164 to R167): the block recovers or its frame conceals, the event goes to
the collector, a DRAM region is fenced. What passes its check does nothing, and a lane of no block of the graph is none. -/
def State.dspDetection (s : State) (inst : Nat) (d : Detection) : State :=
  if !detBad d then s
  else
    let b := s.dsp.graph.block inst
    let t := match b with
      | some b => s.blockDetected b d
      | none => s
    match d with
    | .residue _ => if b.isNone then s else t.raise 2 (s.runsOn inst) 1 0 false
    | .memory mi w _ =>
      let code := if b.isSome && s.detLost d then 2 else 1
      let t := t.raise 3 mi code (memRegion mi w) false
      if mi.val = 5 then t.memFence 5 (memRegion mi w) (faultId 3 5 code) else t

/-- DSP_DETECTION. -/
def execDspDetection (inst : BitVec 16) (d : Detection) (s : State) : Host.Outcome State Fault Refusal :=
  .next (s.when s.busUp (fun s => s.dspDetection inst.toNat d))

/-! ### The placement record (R178) -/

/-- Permille of a frame period of a class that a number of cycles takes. -/
def State.permille (s : State) (cls cycles : Nat) : Nat := cycles * s.fa * 1000 / (737280000 * frameLen cls)

/-- The bytes of the placement record. -/
def State.placementRecord (s : State) : List (BitVec 8) :=
  let p := s.dsp.place
  let cs : Cores := p.now.entries.filterMap (fun e => if e.core = 255 then none else some (e.inst, e.core))
  let pin := s.placeIn s.dsp.graph p.now.mode
  leBytes 4 p.seq.toNat ++ [BitVec.ofNat 8 (if p.forced then 2 else p.now.mode), p.cores.setWidth 8] ++
  leBytes 2 p.now.entries.length ++
  (List.range 4).flatMap (fun c => leBytes 2 (s.permille 0 (pin.load cs c 0)) ++ leBytes 2 (s.permille 1 (pin.load cs c 1))) ++
  leBytes 4 p.regions.length ++ leBytes 2 p.spare ++ leBytes 2 p.muted.toNat ++ leBytes 4 p.lastFence.toNat ++
  List.replicate 28 0 ++
  p.now.entries.flatMap (fun e => leBytes 2 e.inst ++
    [BitVec.ofNat 8 e.core, BitVec.ofNat 8 e.tier, BitVec.ofNat 8 e.state, BitVec.ofNat 8 e.reason, BitVec.ofNat 8 e.pclass, 0])

end Sys2Proof.Machine
end

