-- ==== Sys2Proof/Machine/Outputs.lean ====
section
/-!
DEFINITION. Machine/Outputs.lean: bridges, outputs, binding, trips (R180 to R201, R466), with the parts of the load
diagnostics that an output's movements need (R314 to R318, R321).
-/

namespace Sys2Proof.Machine

open Sys2Proof

/-- Output state OFF (table of output states). -/
abbrev oOff : Nat := 0
/-- DCCHECK. -/
abbrev oDcCheck : Nat := 1
/-- CM_UP. -/
abbrev oCmUp : Nat := 2
/-- MUTED. -/
abbrev oMuted : Nat := 3
/-- UNMUTING. -/
abbrev oUnmuting : Nat := 4
/-- PLAYING. -/
abbrev oPlaying : Nat := 5
/-- MUTING. -/
abbrev oMuting : Nat := 6
/-- CM_DOWN. -/
abbrev oCmDown : Nat := 7
/-- TRIPPED. -/
abbrev oTripped : Nat := 8
/-- UNBOUND. -/
abbrev oUnbound : Nat := 9
/-- SAFE. -/
abbrev oSafe : Nat := 10

/-- Output gain 1.0 in the model's units (log entry 18). -/
abbrev outOne : Nat := 167772160

/-- Set the state of output `o`; one in SAFE stays there until a reset (R200). -/
def State.setOState (s : State) (o st : Nat) : State := if s.oState o = oSafe then s else s.wr (F.MOD_OUTo_STAT_STATE o) st

/-- The output switches: CM_UP to CM_DOWN. -/
def State.switching (s : State) (o : Nat) : Bool := decide (2 ≤ s.oState o) && decide (s.oState o ≤ 7)

/-! ### The output map (R187, R188) -/

/-- The entry of output `o` in policy table 0x0003. -/
def State.outEntry (s : State) (o : Nat) : Option (List (BitVec 8)) := (s.polEntries 3).find? (fun e => u8 e 0 == o)

/-- MODE of output `o`: unused without an entry. -/
def State.outMode (s : State) (o : Nat) : Nat :=
  match s.outEntry o with
  | some e => u8 e 1
  | none => 3

/-- An entry of the output map within its ranges (R187). -/
def outEntryOk (e : List (BitVec 8)) : Bool :=
  decide (u8 e 0 ≤ 15) && decide (u8 e 1 ≤ 3) && decide (0x400 ≤ u16 e 2) && decide (8 ≤ u8 e 4) && decide (u8 e 4 ≤ 28) &&
  decide (u8 e 5 ≤ 15) && decide (10 ≤ u8 e 6) && decide (4 ≤ u8 e 7) && decide (u8 e 7 ≤ 12) &&
  (slice e 9 7).all (fun b => b == 0)

/-- MODE of an output in a table. -/
def mapMode (es : List (List (BitVec 8))) (o : Nat) : Nat :=
  match es.find? (fun e => u8 e 0 == o) with
  | some e => u8 e 1
  | none => 3

/-- Check 9 of the output map: ranges, dovetail modes, VFS within MI_MAX × PVDD_MAX, terminals of a graph that name used
outputs (R187). `mi` gives MI_MAX (UQ0.16) of each power die, `pvddMax` is in UQ6.10 V. -/
def outMapOk (es : List (List (BitVec 8))) (g : Graph) (mi : Nat → Nat) (pvddMax : Nat) : Bool :=
  es.all outEntryOk &&
  es.all (fun e =>
    let o := u8 e 0
    decide ((es.filter (fun x => u8 x 0 == o)).length = 1) &&
    !(o % 2 == 1 && u8 e 1 == 1) &&
    !(o % 2 == 1 && mapMode es (o - 1) == 1 && u8 e 1 != 3) &&
    !(o % 2 == 1 && mapMode es (o - 1) == 2 && u8 e 1 != 3 && u8 e 1 != 0) &&
    decide (u16 e 2 * 65536 ≤ mi (o / 8) * pvddMax)) &&
  g.terms.all (fun t => t.kind != 2 || mapMode es t.number != 3)

/-- The channels that an entry may bind (R188). -/
def mayBind (o mode : Nat) : List Nat :=
  if mode = 3 then [] else if mode = 0 ∨ o % 2 = 1 then [o] else [o, o + 1]

/-- The outputs that may bind channel `c` (R188). -/
def State.mayBindChannel (s : State) (c : Nat) : List Nat :=
  (List.range 16).filter (fun o => (mayBind o (s.outMode o)).contains c)

/-- A write of TRIP_LIM: lower-only, a value below 8 taken as 8 (R188, R14). -/
def State.tripLimWrite (s : State) (c v : Nat) : State :=
  let v := max 8 v
  if v ≤ s.rd (F.MOD_CHc_CFG_TRIP_LIM c) then s.wr (F.MOD_CHc_CFG_TRIP_LIM c) v
  else (s.bump F.GUARD_RAISECNT_COUNT).forEach (s.mayBindChannel c) (fun o t => t.ev (A.GUARD_OUTo_EVENT o) 11)

/-- TRIP_LIM_WRITE. -/
def execTripLimWrite (c : Fin 16) (v : BitVec 5) (s : State) : Host.Outcome State Fault Refusal :=
  .next (s.reach (A.MOD_CHc_CFG c) (fun s => s.tripLimWrite c v.toNat))

/-- Firmware applies the output map (R187, R188): MODE, VFS, the ramp and the zero-crossing timeout of every entry, and its
TRIP to every channel the entry may bind. -/
def State.applyOutMap (s : State) : State :=
  s.forAll 16 (fun o t =>
    match t.outEntry o with
    | none => t.wr (F.MOD_OUTo_CFG_MODE o) 3
    | some e =>
      let t := ((t.wr (F.MOD_OUTo_CFG_MODE o) (u8 e 1)).wr (F.MOD_OUTo_CFG_VFS o) (u16 e 2)).wr
        (F.MOD_OUTo_CFG_RAMP_LOG2 o) (u8 e 7)
      (t.wr (F.MOD_OUTo_CFG_ZC_TIMEOUT_MS o) (u8 e 8)).forEach (mayBind o (u8 e 1)) (fun c t => t.tripLimWrite c (u8 e 4)))

/-! ### Cells and bridges (R180, R185, R186) -/

/-- The record of the bridge of channel `c`. -/
def State.bridge (s : State) (c : Nat) : BridgeSt := Tbl.get BridgeSt.reset s.bridges c

/-- Set the record of the bridge of channel `c`. -/
def State.setBridge (s : State) (c : Nat) (x : BridgeSt) : State :=
  { s with bridges := Tbl.set BridgeSt.reset s.bridges c x }

/-- Good cells of a leg, bit per cell. -/
def State.goodCells (s : State) (c : Nat) (legN : Bool) : Nat :=
  s.rd (if legN then F.MOD_CHc_STAT_GOOD_N c else F.MOD_CHc_STAT_GOOD_P c)

/-- Number of bits set in a byte. -/
def popCount (n : Nat) : Nat := ((List.range 8).filter (fun i => n.testBit i)).length

/-- Number of good cells of a leg. -/
def State.goodCount (s : State) (c : Nat) (legN : Bool) : Nat := popCount (s.goodCells c legN)

/-- Fewer than six good cells in either leg (R186). -/
def State.broken (s : State) (c : Nat) : Bool := decide (s.goodCount c false < 6) || decide (s.goodCount c true < 6)

/-- Active cells a leg needs for a current envelope in Q5.26 A (R185); every good cell without shedding. -/
def State.cellsFor (s : State) (c : Nat) (legN : Bool) (i : Nat) : Nat :=
  let d := c / 8
  let good := s.goodCount c legN
  if s.on (F.MOD_DIEd_SHED_SHED_EN d) then
    let icell := s.rd (F.MOD_DIEd_SHED_I_CELL d) * 2 ^ 21
    min good (max (s.rd (F.MOD_DIEd_SHED_MIN_CELLS d)) ((i + icell - 1) / icell))
  else good

/-- The field of the active cells of a leg. -/
def cellsField (c : Nat) (legN : Bool) : Fld := if legN then F.MOD_CHc_STAT_CELLS_N c else F.MOD_CHc_STAT_CELLS_P c

/-- The bridge of channel `c` starts switching. -/
def State.bridgeOn (s : State) (c : Nat) : State :=
  let t := s.setBridge c { s.bridge c with lowP := none, lowN := none, iEnv := [], resP := 0, resN := 0, cmdLast := 0, cmdBefore := 0 }
  ((t.wr (F.MOD_CHc_STAT_BRIDGE c) 1).wr (cellsField c false) (s.cellsFor c false 0)).wr (cellsField c true)
    (s.cellsFor c true 0)

/-- Every cell of channel `c` turns off: the bridge is high-impedance. -/
def State.bridgeOff (s : State) (c : Nat) : State :=
  ((s.wr (F.MOD_CHc_STAT_BRIDGE c) 0).wr (cellsField c false) 0).wr (cellsField c true) 0

/-- The present current envelope changes the need of a leg (R185): a rise acts at the next edge, a lower need waits. -/
def State.shedLeg (s : State) (c : Nat) (legN : Bool) (i : Nat) : State :=
  let now := s.rd (cellsField c legN)
  let need := s.cellsFor c legN i
  let b := s.bridge c
  let low := if legN then b.lowN else b.lowP
  let setLow (t : State) (v : Option Nat) : State :=
    t.setBridge c (if legN then { t.bridge c with lowN := v } else { t.bridge c with lowP := v })
  if now < need then setLow (s.wr (cellsField c legN) need) none
  else if need = now then setLow s none
  else
    match low with
    | some v => setLow s (some (max v need))
    | none => setLow s (some need)

/-- SHED_FALL: the lower count of a leg has been required for SHED_HOLD_MS; cells lost since then bound it (R185). -/
def execShedFall (c : Fin 16) (legN : Bool) (s : State) : Host.Outcome State Fault Refusal :=
  let b := s.bridge c
  match (if legN then b.lowN else b.lowP) with
  | none => .next s
  | some v =>
    let t := s.setBridge c (if legN then { b with lowN := none } else { b with lowP := none })
    .next (t.wr (cellsField c legN) (min v (s.goodCount c legN)))

/-- CELL_ROTATE: the active set moves by one cell where fewer cells are active than good (R185). -/
def execCellRotate (c : Fin 16) (s : State) : Host.Outcome State Fault Refusal :=
  .next (if s.rd (cellsField c false) < s.goodCount c false ∨ s.rd (cellsField c true) < s.goodCount c true then
      s.setBridge c { s.bridge c with rot := ((s.bridge c).rot + 1) % 8 }
    else s)

/-! ### Diagnostics in progress (R314 to R317) -/

/-- DIAG_STAT shows the active source slots and the outputs with a check or a sweep waiting or running. -/
def State.diagStat (s : State) : State :=
  let d := s.diag
  let busy := ((d.waiting ++ d.running).map (fun q => q.out)) ++
    (List.range 16).filter (fun o => (Tbl.get none d.sweeps o).isSome)
  (s.wr F.DIAG_STAT_SOURCES (min 8 (d.running.foldl (fun n q => n + q.drives) 0))).wr F.DIAG_STAT_BUSY (maskOf busy).toNat

/-- Restriction of a result code, 0 the most restrictive (R310, R311); AC classes for op 2 (R320). -/
def restriction (op code : Nat) : Nat :=
  let order := if op = 1 then [9, 10, 8, 7, 11, 6, 5, 3, 2, 4, 1, 0] else [4, 5, 6, 3, 2, 1, 0]
  (order.findIdx? (fun c => c == code)).getD 12

/-- Output `o` has finished its part of a commanded operation with a code; the last one writes the completion (R317). -/
def State.jobDone (s : State) (op o code : Nat) : State :=
  match s.diag.jobs.find? (fun j => j.op == op && j.left.contains o) with
  | none => s
  | some j =>
    let j' := { j with left := j.left.filter (fun x => x != o),
                       code := if restriction op code < restriction op j.code then code else j.code }
    let rest := s.diag.jobs.filter (fun x => x != j)
    if j'.left = [] then
      ({ s with diag := { s.diag with jobs := rest } }).complete 1
        [BitVec.ofNat 8 op, BitVec.ofNat 8 j.mask, BitVec.ofNat 8 (j.mask / 256), BitVec.ofNat 8 j'.code]
    else { s with diag := { s.diag with jobs := rest ++ [j'] } }

/-- The DC result of channel `c`: code, R, CONF (R310, R311); a failing code, LOW and HIGH are reported (R317). -/
def State.dcResult (s : State) (c code r conf : Nat) : State :=
  let t := ((s.wr (F.DIAG_CHc_DC_CODE c) code).wr (F.DIAG_CHc_DC_R c) r).wr (F.DIAG_CHc_DC_CONF c) conf
  if code = 2 ∨ code = 3 ∨ 5 ≤ code then t.raise 9 c code 0 false else t

/-- A code that passes DC diagnostics (R311). -/
def dcPasses (code : Nat) : Bool := decide (1 ≤ code) && decide (code ≤ 4)

/-- Channel `c` passes DC diagnostics by its latest result. -/
def State.dcOk (s : State) (c : Nat) : Bool := dcPasses (s.rd (F.DIAG_CHc_DC_CODE c))

/-- A completed check of channel `c` passed within the last 100 ms (R191, R315). -/
def State.dcFresh (s : State) (c : Nat) : Bool :=
  s.dcOk c &&
  (match Tbl.get none s.diag.checked c with
   | some t => decide (s.now ≤ t + 100000)
   | none => false)

/-- Ask for a quick check of output `o` (R314, R315). Only channel 2p of a pair drives. -/
def State.askCheck (s : State) (o : Nat) (chans : List Nat) (commanded : Bool) : State :=
  let q : QuickCheck := { out := o, chans := chans, drives := 1, commanded := commanded }
  ({ s with diag := { s.diag with waiting := s.diag.waiting ++ [q] } }.setOState o oDcCheck).diagStat

/-- The check of output `o`, waiting or running. -/
def State.checkOf (s : State) (o : Nat) : Option QuickCheck :=
  (s.diag.running ++ s.diag.waiting).find? (fun q => q.out == o)

/-- The check of output `o` is abandoned with ABORTED (R316); one that still waits has no result to write. -/
def State.checkAbort (s : State) (o : Nat) : State :=
  match s.checkOf o with
  | none => s
  | some q =>
    let t := if s.diag.running.contains q then
        s.forEach q.chans (fun c t => (t.dcResult c 10 0xFFFF 1).bridgeOff c)
      else s
    let d := t.diag
    let t := { t with diag := { d with waiting := d.waiting.filter (fun x => x.out != o),
                                       running := d.running.filter (fun x => x.out != o) } }
    let t := (t.bump F.DIAG_CNT_ABORTED).diagStat
    if q.commanded then t.jobDone 1 o 10 else t

/-- The sweep of output `o`. -/
def State.sweep (s : State) (o : Nat) : Option Sweep := Tbl.get none s.diag.sweeps o

/-- Set the sweep of output `o`. -/
def State.setSweep (s : State) (o : Nat) (x : Option Sweep) : State :=
  ({ s with diag := { s.diag with sweeps := Tbl.set none s.diag.sweeps o x } }).diagStat

/-- The sweep of output `o` ends as ABORTED (R320, R321); the output's next move is the caller's. -/
def State.sweepAbort (s : State) (o : Nat) : State :=
  match s.sweep o with
  | none => s
  | some w =>
    let t := { s with diag := { s.diag with points := Tbl.set [] s.diag.points o w.pts } }.setSweep o none
    let t := (t.wr (F.DIAG_OUTo_AC_CLASS o) 6).ev (A.DIAG_OUTo_EVENT o) 3
    (t.bump F.DIAG_CNT_ABORTED).jobDone 2 o 6

/-- A request of playing ends a sweep at once: its tone fades over 64 samples of the owner's rate (R318). -/
def State.sweepFade (s : State) (o : Nat) : State :=
  let t := s.sweepAbort o
  t.setOut o { t.out o with tone := 64 * 12288000 / s.fa }

/-! ### Movements (R191 to R194) -/

/-- What output `o` is to move towards: REQ, or muted while a sweep runs (R318). -/
def State.want (s : State) (o : Nat) : Nat := if (s.sweep o).isSome then 1 else s.rd (F.MOD_OUTo_CTRL_REQ o)

/-- A request of output `o` waits (R193). -/
def State.enqueue (s : State) (o : Nat) (v : Option Nat) : State :=
  (s.setOut o { s.out o with queued := v }).wrB (F.MOD_OUTo_STAT_QUEUED o) v.isSome

/-- The channels of output `o` that switch: those bound but the lost one (R198). -/
def State.live (s : State) (o : Nat) : List Nat :=
  (s.out o).chans.filter (fun c => decide ((s.out o).lost ≠ some c))

/-- All cells of output `o` turn off. -/
def State.outCellsOff (s : State) (o : Nat) : State := s.forEach (s.out o).chans (fun c t => t.bridgeOff c)

/-- The channels that a check of output `o` measures: all that may switch again (R198, R314). -/
def State.checkChans (s : State) (o : Nat) : List Nat :=
  (s.out o).chans.filter (fun c => !s.on (F.MOD_CHc_STAT_FENCED c) && !s.broken c)

/-- Outputs stay off for the whole of the boot: a dry-fit unmutes none (R56, R57); in the ramp of a warm reset none starts (R31). -/
def State.outputsHeld (s : State) : Bool := decide (s.boot.mode = 1) || s.sys.rst.isSome

/-- May output `o` start: PLL A locked, PVDD in window, no safe state, none of its channels in calibration (R200, R261,
R344), no dry-fit and no reset in its ramp? -/
def State.mayStart (s : State) (o : Nat) : Bool :=
  s.on F.SYS_CLKSTAT_PLLA_LOCK && s.pmu.pvddOk && !s.on F.FCOL_STAT_SAFE && !s.outputsHeld && !(s.out o).dropDue &&
    (s.out o).chans.all (fun c => !s.calibrating c)

/-- CM_UP begins (R191). A lost channel whose output has passed through OFF and whose check has passed rejoins (R198). -/
def State.enterCmUp (s : State) (o : Nat) : State :=
  let x := s.out o
  let back := match x.lost with
    | some c => x.rejoin && (s.checkChans o).contains c && s.dcOk c
    | none => false
  let s := if back then
      (((s.setOut o { x with lost := none, rejoin := false, bindDue := true }).wr (F.MOD_OUTo_STAT_DEGRADED o) 0).setBit
        A.MOD_BIND (16 + o / 2) false)
    else s
  let t := s.forEach (s.live o) (fun c t => t.bridgeOn c)
  (t.setOut o { t.out o with cm := 0, gain := 0, ramp := .rest, startDue := false }).setOState o oCmUp

/-- Output `o` starts from OFF or after a trip (R191, R197): the quick check, or CM_UP at once where every channel's check
has passed within 100 ms. A start that may not begin yet waits (R200, R261, R344). One with no channel left that a check may pass,
each fenced or below six good cells, does not start (R186). -/
def State.outStart (s : State) (o : Nat) (fresh : Bool) : State :=
  if s.checkChans o = [] then s
  else if !s.mayStart o then s.setOut o { s.out o with startDue := true }
  else if fresh && (s.checkChans o).all s.dcFresh then s.enterCmUp o
  else (s.setOut o { s.out o with startDue := false, post := false }).askCheck o (s.checkChans o) false

/-- OFF is entered (R191): cells off, gain 0. A degraded pair may rejoin from here (R198, R221). -/
def State.enterOff (s : State) (o : Nat) : State :=
  let t := s.outCellsOff o
  let x := t.out o
  let t := t.setOut o { x with gain := 0, ramp := .rest, up := false, cm := 0, post := false, demag := false,
                               rejoin := x.lost.isSome, exhausted := false }
  let t := t.forEach x.chans (fun c t =>
    let t := t.wr (F.LOOP_CHc_STAT_DEGRADED c) 0
    if t.on (F.MOD_CHc_STAT_FENCED c) then t.rcFence c else t)
  (t.setOState o oOff).ev (A.MOD_OUTo_EVENT o) 11

/-- The first unmute of the early graph is step 13 of the boot: T_EARLY is its time (R50, R53). -/
def State.stampEarly (s : State) : State :=
  if (s.boot.state = bootEarlyRunning ∨ s.boot.state = bootEarlyOnly) ∧ s.boot.tEarly = 0 then
    { s with boot := { s.boot with tEarly := s.now - s.boot.porTime } }
  else s

/-- The gain of output `o` starts towards 1 or 0 (R192): a zero-crossing wait, or the ramp at once with a timeout of 0. -/
def State.gainTowards (s : State) (o : Nat) (up : Bool) : State :=
  let s := if up then s.stampEarly else s
  let r := if s.rd (F.MOD_OUTo_CFG_ZC_TIMEOUT_MS o) = 0 then OutRamp.running else OutRamp.waiting
  (s.setOut o { s.out o with ramp := r, up := up }).setOState o (if up then oUnmuting else oMuting)

/-- Output `o`, at rest in OFF or MUTED, moves towards what is asked (R191). -/
def State.outToward (s : State) (o : Nat) : State :=
  let w := s.want o
  if s.oState o = oOff then (if w = 0 then s else s.outStart o true)
  else if s.oState o = oMuted then
    (if w = 0 then (s.setOut o { s.out o with cm := s.rd F.MOD_RAMP_CM_RAMP_MS * 12288 }).setOState o oCmDown
     else if w = 2 then s.gainTowards o true else s)
  else s

/-- MUTED is entered (R191): a sweep that waited for it begins (R318). -/
def State.enterMuted (s : State) (o : Nat) : State :=
  let t := (s.setOut o { s.out o with gain := 0, ramp := .rest }).setOState o oMuted
  let t := match t.sweep o with
    | some w => t.setSweep o (some { w with starting := false })
    | none => t
  t.outToward o

/-- PLAYING is entered. -/
def State.enterPlaying (s : State) (o : Nat) : State :=
  ((s.setOut o { s.out o with gain := outOne, ramp := .rest }).setOState o oPlaying).ev (A.MOD_OUTo_EVENT o) 12

/-- The ramp of output `o` is a fast-off. -/
def State.fastOff (s : State) (o : Nat) : Bool :=
  match (s.out o).ramp with
  | .fast _ => true
  | _ => false

/-- Retries of the last 60 s of output `o` (R197). -/
def State.retriesUsed (s : State) (o : Nat) : Nat := (s.recent (s.out o).retries 60000000).length

/-- RETRY_MAX of output `o` (R187). -/
def State.retryMax (s : State) (o : Nat) : Nat :=
  match s.outEntry o with
  | some e => u8 e 5
  | none => 3

/-- A tripped output that is to go on and has no retry left: it stays TRIPPED, sets RETRY_EXHAUSTED and reports (R197). -/
def State.retryCheck (s : State) (o : Nat) : State :=
  if s.rd (F.MOD_OUTo_CTRL_REQ o) = 0 ∨ s.retriesUsed o < s.retryMax o ∨ (s.out o).exhausted then s
  else
    ((s.setOut o { s.out o with exhausted := true }).ev (A.MOD_OUTo_EVENT o) 1).raise 7 ((s.out o).chans.headD 0) 4 0 false

/-- A write of REQ (R191, R193, R194): refused for 0b11, queued during a check, a fast-off or with the cells off, else
served from the output's present condition. -/
def State.outReq (s : State) (o v : Nat) : State :=
  if v = 3 then s.ev (A.MOD_OUTo_EVENT o) 9
  else
    let t := s.wr (F.MOD_OUTo_CTRL_REQ o) v
    let x := t.out o
    let st := t.oState o
    if s.fastOff o ∨ st = oDcCheck then t.enqueue o (some v)
    else if st = oOff then
      (if v = 0 then t.setOut o { x with startDue := false } else t.outToward o)
    else if st = oCmUp then (if t.want o = 0 then t.setOState o oCmDown else t)
    else if st = oMuted then
      (if (t.sweep o).isSome then (if v = 2 then (t.sweepFade o).outToward o else t) else t.outToward o)
    else if st = oUnmuting then
      (if v = 2 then t
       else if x.ramp = .waiting then t.enterMuted o
       else (t.setOut o { x with up := false }).setOState o oMuting)
    else if st = oPlaying then (if v = 2 then t else t.gainTowards o false)
    else if st = oMuting then
      (if v ≠ 2 then t
       else if x.ramp = .waiting then t.enterPlaying o
       else (t.setOut o { x with up := true }).setOState o oUnmuting)
    else if st = oCmDown then (if v = 0 then t else t.setOState o oCmUp)
    else if st = oTripped then
      (if x.demag then (if v = 0 then t.enqueue o (some 0) else t)
       else if v ≠ 0 then t.retryCheck o
       else (t.setOut o { x with retries := [], startDue := false }).enterOff o)
    else t

/-- OUTPUT_REQ_WRITE. -/
def execOutputReqWrite (o : Fin 16) (v : BitVec 2) (s : State) : Host.Outcome State Fault Refusal :=
  .next (s.reach (A.MOD_OUTo_CTRL o) (fun s => s.outReq o v.toNat))

/-- FASTOFF (R194): from a switching state the gain ramps to 0 over 4 ms, 49 152 control samples; elsewhere no effect. -/
def State.fastoff (s : State) (o : Nat) : State :=
  if !s.switching o || s.fastOff o then s
  else
    let t := s.sweepAbort o
    let t := t.setOut o { t.out o with ramp := .fast 49152, up := false }
    if oUnmuting ≤ s.oState o ∧ s.oState o ≤ oMuting then t.setOState o oMuting else t

/-- FASTOFF. -/
def execFastoff (o : Fin 16) (s : State) : Host.Outcome State Fault Refusal :=
  .next (s.reach (A.MOD_OUTo_CTRL o) (fun s => s.fastoff o))

/-- A write of MOD_OUTo_CTRL: FASTOFF governs the REQ bits written with it. -/
def State.outCtrlWrite (s : State) (o : Nat) (v : BitVec 32) : State :=
  if v.getLsbD 8 then s.fastoff o else s.outReq o (getField v 0 2)

/-- The queued request of an output that has reached OFF with its check passed is acted on (R193). -/
def State.takeQueued (s : State) (o : Nat) : State :=
  match (s.out o).queued with
  | none => s
  | some v => ((s.enqueue o none).wr (F.MOD_OUTo_CTRL_REQ o) v).outToward o

/-- FASTOFF_DONE (R194). -/
def State.fastoffDone (s : State) (o : Nat) : State :=
  if s.fastOff o then ((s.enterOff o).wr (F.MOD_OUTo_CTRL_REQ o) 0).takeQueued o else s

/-- CM_RAMP_DONE (R191): CM_UP enters MUTED; CM_DOWN turns the cells off and runs the quick check. -/
def execCmRampDone (o : Fin 16) (s : State) : Host.Outcome State Fault Refusal :=
  .next (if s.fastOff o then s
    else if s.oState o = oCmUp then s.enterMuted o
    else if s.oState o = oCmDown then
      let t := s.outCellsOff o
      (t.setOut o { t.out o with post := true, cm := 0, rejoin := (t.out o).lost.isSome }).askCheck o (s.checkChans o) false
    else s)

/-- OUTPUT_ZERO_CROSSING (R192). -/
def execOutputZeroCrossing (o : Fin 16) (s : State) : Host.Outcome State Fault Refusal :=
  .next (if (s.out o).ramp = .waiting then s.setOut o { s.out o with ramp := .running } else s)

/-- OUTPUT_ZC_TIMEOUT (R192). -/
def execOutputZcTimeout (o : Fin 16) (s : State) : Host.Outcome State Fault Refusal :=
  .next (if (s.out o).ramp = .waiting then (s.setOut o { s.out o with ramp := .running }).ev (A.MOD_OUTo_EVENT o) 8 else s)

/-- OUTPUT_RAMP_DONE: the gain reaches 1 or 0 (R192). -/
def execOutputRampDone (o : Fin 16) (s : State) : Host.Outcome State Fault Refusal :=
  .next (if (s.out o).ramp = .running then (if (s.out o).up then s.enterPlaying o else s.enterMuted o) else s)

/-- One control sample of the gain ramp of output `o` (R192, R194). -/
def OutSt.gainStep (x : OutSt) (fa ramp : Nat) : OutSt :=
  let slope := (if fa = 0 then 147 else if fa = 1 then 160 else if fa = 2 then 294 else 320) * 2 ^ (12 - ramp)
  match x.ramp with
  | .running => { x with gain := if x.up then min outOne (x.gain + slope) else x.gain - slope }
  | .fast n =>
    { x with gain := if n ≤ 1 then 0 else (roundQ ((x.gain : Int) * ((n - 1 : Nat) : Int)) n).toNat, ramp := .fast (n - 1) }
  | _ => x

/-! ### Losses of a channel (R176, R198, R199) -/

/-- MOD_BIND shows nothing for the pair of an output that is not bound (R189, R198). -/
def State.pairNone (s : State) (o : Nat) : State :=
  if o % 2 = 0 then
    ((s.setBit A.MOD_BIND (o / 2) false).setBit A.MOD_BIND (8 + o / 2) false).setBit A.MOD_BIND (16 + o / 2) false
  else s

/-- Output `o` loses its last channel (R176, R198, R199). -/
def State.outUnbound (s : State) (o : Nat) : State :=
  let t := (s.checkAbort o).sweepAbort o
  let t := t.outCellsOff o
  let t := ((t.setOut o { OutSt.reset with retries := (t.out o).retries }).setOState o oUnbound).ev (A.MOD_OUTo_EVENT o) 10
  let t := ((t.wr (F.MOD_OUTo_STAT_DOVETAIL o) 0).wr (F.MOD_OUTo_STAT_DEGRADED o) 0).wr (F.MOD_OUTo_STAT_QUEUED o) 0
  let t := t.pairNone o
  let t := { t with dsp := { t.dsp with place := { t.dsp.place with muted := t.dsp.place.muted ||| maskOf [o] } } }
  t.placeSeq

/-- Channel `c` of the pair of output `o` is lost (R198): the other goes on alone on its DEG_BANK; with both lost the
output is UNBOUND. -/
def State.degrade (s : State) (o c : Nat) : State :=
  if (s.out o).lost = some c then s
  else if (s.out o).lost.isSome then s.outUnbound o
  else
    let t := s.setOut o { s.out o with lost := some c, bindDue := true }
    let t := (t.wr (F.MOD_OUTo_STAT_DEGRADED o) 1).setBit A.MOD_BIND (16 + o / 2) true
    let t := (t.ev (A.MOD_OUTo_EVENT o) 3).raise 7 c 5 0 false
    t.loopDegrade (if c = o then o + 1 else o)

/-! ### Trips (R195, R197, R466) -/

/-- The trip threshold of a leg (R186): TRIP_LIM (0.5 A) × good cells ÷ 8, in Q5.26 A. -/
def State.tripLevel (s : State) (c : Nat) (legN : Bool) : Nat := s.rd (F.MOD_CHc_CFG_TRIP_LIM c) * s.goodCount c legN * 2 ^ 22

/-- The demagnetising state of a bridge, on all good cells (R195). -/
def State.demagnetise (s : State) (c : Nat) : State :=
  ((s.wr (F.MOD_CHc_STAT_BRIDGE c) 2).wr (cellsField c false) (s.goodCount c false)).wr (cellsField c true) (s.goodCount c true)

/-- BRIDGE_TRIP (R195): the power die drives the demagnetising state, on both bridges of a pair, and flags the trip. A
single output enters TRIPPED; of a pair the tripping channel is lost (R198). A running ramp or fast-off ends (R200). A bridge that no
output uses turns off. -/
def State.bridgeTrip (s : State) (c : Nat) : State :=
  if s.rd (F.MOD_CHc_STAT_BRIDGE c) ≠ 1 then s
  else
    let t := (s.bump (F.MOD_CHc_CNT_TRIPS c)).raise 7 c 1 0 false
    match s.outOf c with
    | none => (t.traceTrip [c]).bridgeOff c
    | some o =>
      let live := s.live o
      let t := ((t.forEach live (fun d t => t.demagnetise d)).ev (A.MOD_OUTo_EVENT o) 0).traceTrip (s.out o).chans
      let t := t.setOut o { t.out o with demag := true }
      if live.length = 2 then ((t.sweepAbort o).degrade o c).outToward o
      else
        let t := t.sweepAbort o
        (t.setOut o { t.out o with gain := 0, ramp := .rest }).setOState o oTripped

/-- BRIDGE_TRIP: the current of a leg, Q5.26 A, has crossed its threshold (R186, R195). -/
def execBridgeTrip (c : Fin 16) (legN : Bool) (current : Nat) (s : State) : Host.Outcome State Fault Refusal :=
  .next (if s.tripLevel c legN < current then s.bridgeTrip c else s)

/-- The end of the demagnetising state (R195, steps 4 and 5): cells off; the survivor of a pair goes on switching (R198) unless it
too has fewer than six good cells (R186). A tripped output waits for its retry, or has none left (R197); a request of off that came
meanwhile takes it to OFF, and one that followed starts it afresh (R193). -/
def State.demagEnd (s : State) (o : Nat) : State :=
  if !(s.out o).demag then s
  else
    let t := s.forEach (s.out o).chans (fun c t =>
      if t.rd (F.MOD_CHc_STAT_BRIDGE c) = 2 then
        (if t.oState o ≠ oTripped ∧ (t.live o).contains c ∧ !t.broken c then t.wr (F.MOD_CHc_STAT_BRIDGE c) 1 else t.bridgeOff c)
      else t)
    let t := t.setOut o { t.out o with demag := false }
    if t.oState o ≠ oTripped then t
    else if (t.out o).chans.length = 2 then t.outUnbound o
    else if (t.out o).queued = some 0 then
      (((t.enqueue o none).setOut o { (t.out o) with retries := [], queued := none, startDue := false }).enterOff o).outToward o
    else t.retryCheck o

/-- TRIP_DEMAG_END. -/
def execTripDemagEnd (o : Fin 16) (s : State) : Host.Outcome State Fault Refusal := .next (s.demagEnd o)

/-- TRIP_RETRY: RETRY_DELAY has passed (R197). A hot bridge (R466) or one with fewer than six good cells gets no retry. -/
def execTripRetry (o : Fin 16) (s : State) : Host.Outcome State Fault Refusal :=
  let x := s.out o
  .next (if s.oState o ≠ oTripped ∨ x.demag ∨ x.exhausted ∨ s.want o = 0 ∨ s.retryMax o ≤ s.retriesUsed o ∨
            x.chans.any (fun c => s.broken c || (s.bridge c).hot || s.on (F.MOD_CHc_STAT_FENCED c)) then s
    else
      let t := s.setOut o { x with retries := s.recent x.retries 60000000 ++ [s.now] }
      t.outStart o false)

/-- A channel falls below six good cells in a leg (R186, R198): a switching one trips; otherwise a pair loses it, and a single
output leaves its check for OFF. -/
def State.sixCells (s : State) (c : Nat) : State :=
  if s.rd (F.MOD_CHc_STAT_BRIDGE c) = 1 then s.bridgeTrip c
  else
    match s.outOf c with
    | none => s
    | some o =>
      if (s.out o).chans.length = 2 then (s.degrade o c).outToward o
      else if s.oState o = oDcCheck then ((s.checkAbort o).enqueue o none).enterOff o
      else s

/-- CELL_DESAT: a cell is held off for good (R186); with fewer than six good cells in a leg the channel trips and reports a
lasting bridge fault. -/
def execCellDesat (c : Fin 16) (legN : Bool) (cell : Fin 8) (s : State) : Host.Outcome State Fault Refusal :=
  let f := if legN then F.MOD_CHc_STAT_GOOD_N c else F.MOD_CHc_STAT_GOOD_P c
  if !(s.goodCells c legN).testBit cell then .next s
  else
    let was := s.broken c
    let t := s.setBit f.addr (f.lo + cell) false
    let t := (t.bump (F.MOD_CHc_CNT_CELL_FAULTS c)).raise 7 c 2 0 false
    let t := match t.outOf c with
      | some o => t.ev (A.MOD_OUTo_EVENT o) 2
      | none => t
    let g := t.goodCount c legN
    let t := if g < t.rd (cellsField c legN) then t.wr (cellsField c legN) g else t
    .next (if t.broken c && !was then (t.raise 7 c 3 0 true).sixCells c else t)

/-- BRIDGE_OVERTEMP (R466): a bridge sensor above 160 °C (reading 3584) for 10 µs trips its channel; a retry waits until it has read
below 140 °C (3264). -/
def execBridgeOvertemp (c : Fin 16) (reading us : Nat) (s : State) : Host.Outcome State Fault Refusal :=
  .next (if reading < 3264 then s.setBridge c { s.bridge c with hot := false }
    else if 3584 < reading ∧ 10 ≤ us then (s.setBridge c { s.bridge c with hot := true }).bridgeTrip c
    else s)

/-- IMBALANCE (R190). -/
def execImbalance (p : Fin 8) (s : State) : Host.Outcome State Fault Refusal :=
  let o := 2 * p.val
  .next (if (s.live o).length = 2 && s.switching o then s.ev (A.MOD_OUTo_EVENT o) 4 else s)

/-! ### Fences, safe state, clocks and supply (R199, R200, R261, R316, R321, R344) -/

/-- Channel `c` is fenced (R169, R199): high-impedance, its diagnostics and calibration abandoned, its repetitive table
zeroed (of the lower channel of a pair, once the survivor that goes on with it has passed through OFF, R240; log entry 167); a
single output becomes UNBOUND, a pair is degraded. -/
def State.channelFence (s : State) (c : Nat) : State :=
  if s.on (F.MOD_CHc_STAT_FENCED c) then s
  else
    let t := ((s.wr (F.MOD_CHc_STAT_FENCED c) 1).ev A.DSPX_EVENT 4).calAbandon c
    let serves := match t.outOf c with
      | some o => decide (c = o) && decide ((t.live o).length = 2)
      | none => false
    let t := if serves then t else t.rcFence c
    match t.outOf c with
    | none => t.bridgeOff c
    | some o =>
      let t := t.sweepAbort o
      let t := if (t.checkOf o).isSome then (t.checkAbort o).enterOff o else t
      let pair := decide ((t.out o).chans.length = 2)
      let t := if pair then t.degrade o c else t.outUnbound o
      (t.bridgeOff c).outToward o

/-- Every output goes to SAFE (R200): all cells off at once. -/
def State.outputsSafe (s : State) : State :=
  let t := s.forAll 16 (fun c t => (t.bridgeOff c).calAbandon c)
  t.forAll 16 (fun o t =>
    let t := (t.checkAbort o).sweepAbort o
    ((t.setOut o { t.out o with gain := 0, ramp := .rest, queued := none, demag := false, startDue := false }).wr
      (F.MOD_OUTo_STAT_QUEUED o) 0).setOState o oSafe)

/-- The bridges go high-impedance and every output that switches or is being checked enters OFF with REQ kept, to start
again later (R200, R344). -/
def State.outputsOff (s : State) : State :=
  s.forAll 16 (fun o t =>
    if t.switching o ∨ t.oState o = oDcCheck then
      let t := (t.checkAbort o).sweepAbort o
      let t := (t.enqueue o none).enterOff o
      t.setOut o { t.out o with startDue := decide (t.rd (F.MOD_OUTo_CTRL_REQ o) ≠ 0) }
    else if t.oState o = oTripped then (t.setOut o { t.out o with demag := false }).outCellsOff o
    else t)

/-- PLL A is lost (R200, R261, R316). -/
def State.outputsPllLost (s : State) : State :=
  (s.forAll 16 (fun c t => t.calAbandon c)).outputsOff

/-- Starts that waited are tried again (R200, R261, R344). -/
def State.outputsKick (s : State) : State :=
  s.forAll 16 (fun o t =>
    if (t.out o).startDue ∧ t.mayStart o = true then
      (if t.oState o = oTripped then t.outStart o false else t.outToward o)
    else t)

/-! ### Binding (R176, R189) -/

/-- The pair is found joined (R313). -/
def State.joined (s : State) (p : Nat) : Bool := s.rd ⟨A.DIAG_PAIR, p, 1⟩ == 1

/-- May channel `c` be bound: it passes DC diagnostics and is not fenced. -/
def State.bindable (s : State) (c : Nat) : Bool := s.dcOk c && !s.on (F.MOD_CHc_STAT_FENCED c)

/-- Output `o` gets no channel from the first (R176, R187): an output in use is muted and reported, once. -/
def State.neverBound (s : State) (o : Nat) : State :=
  let t := s.setOState o oUnbound
  if s.outMode o = 3 ∨ s.dsp.place.muted.getLsbD o then t
  else
    let t := t.ev (A.MOD_OUTo_EVENT o) 10
    ({ t with dsp := { t.dsp with place := { t.dsp.place with muted := t.dsp.place.muted ||| maskOf [o] } } }).placeSeq

/-- Bind output `o` to channels, or to none (R189, R218). Its state becomes OFF or UNBOUND. -/
def State.bindTo (s : State) (o : Nat) (chans : List Nat) : State :=
  if (s.out o).chans = chans ∧ chans ≠ [] then s
  else if chans = [] then
    (if (s.out o).chans = [] then s.neverBound o else s.outUnbound o)
  else
    let t := s.setOut o { (s.out o) with chans := chans, lost := none, rejoin := false }
    let t := t.forEach chans (fun c t => t.loopBind c)
    let t := t.wrB (F.MOD_OUTo_STAT_DOVETAIL o) (decide (chans.length = 2))
    let t := if o % 2 = 0 then (t.setBit A.MOD_BIND (o / 2) (decide (chans.length = 2))).setBit A.MOD_BIND (8 + o / 2) false else t
    let t := t.forEach chans (fun c t => t.rcBound c)
    let low := decide (chans.length = 1) && decide (s.rd (F.DIAG_CHc_DC_R (chans.headD 0)) < 768)
    let t := t.wrB (F.MOD_OUTo_STAT_LOW_Z o) low
    let t := { t with dsp := { t.dsp with place := { t.dsp.place with muted := t.dsp.place.muted &&& ~~~ maskOf [o] } } }
    t.setOState o oOff

/-- A channel on its own where it may be bound, else none. -/
def State.alone (s : State) (c : Nat) (used : Bool) : List Nat := if used && s.bindable c then [c] else []

/-- DOVETAIL_FAULT of output `o`. -/
def State.dovetailFault (s : State) (o : Nat) : State := s.ev (A.MOD_OUTo_EVENT o) 6

/-- The binding decision for pair `p` (table of R189). A pair that already runs on one channel keeps its binding (R198). -/
def State.bindPair (s : State) (p : Nat) : State :=
  let a := 2 * p
  let b := a + 1
  let ma := s.outMode a
  let mb := s.outMode b
  if (s.out a).lost.isSome ∨ (s.out a).dropDue ∨ (s.out b).dropDue then s
  else if ma = 0 ∨ ma = 3 then
    if s.joined p then
      let t := (s.bindTo a []).bindTo b []
      if ma = 0 then (t.dovetailFault a).dovetailFault b else t
    else (s.bindTo a (s.alone a (ma == 0))).bindTo b (s.alone b (mb != 3))
  else if s.joined p then
    if s.bindable a && s.bindable b then (s.bindTo a [a, b]).bindTo b []
    else ((s.bindTo a []).dovetailFault a).bindTo b []
  else if ma = 2 then (s.bindTo a (s.alone a true)).bindTo b (s.alone b (mb == 0))
  else
    let code (c : Nat) := s.rd (F.DIAG_CHc_DC_CODE c)
    if s.bindable a ∧ code a ≠ 4 ∧ (code b = 4 ∨ code b = 5) ∧ !s.diag.disagree.contains p then
      (((s.bindTo a [a]).ev (A.MOD_OUTo_EVENT a) 5).setBit A.MOD_BIND (8 + p) true).bindTo b []
    else ((s.bindTo a []).dovetailFault a).bindTo b []

/-- FASTOFF_DONE: an output that the full map drops is unbound now (R51). -/
def execFastoffDone (o : Fin 16) (s : State) : Host.Outcome State Fault Refusal :=
  .next (if (s.out o).dropDue then
      let t := s.setOut o { s.out o with dropDue := false }
      (t.fastoffDone o).bindPair (o / 2)
    else s.fastoffDone o)

/-- The binding of every pair from the latest findings (R189). -/
def State.bindAll (s : State) : State := (s.forAll 8 (fun p t => t.bindPair p)).placeSeq

/-- OUTPUT_BINDING: decided again after a channel fence, at an F32 boundary (R176). -/
def execOutputBinding (s : State) : Host.Outcome State Fault Refusal :=
  .next (if s.busUp && s.on F.DIAG_STAT_BOOT_DONE then s.bindAll else s)

end Sys2Proof.Machine
end

