-- ==== Sys2Proof/Machine/Diag.lean ====
section
/-!
DEFINITION. Machine/Diag.lean: load diagnostics (R309 to R326), and the end of a sense calibration (R259 to R261).
-/

namespace Sys2Proof.Machine

open Sys2Proof

/-! ### Policy table 0x0007 (R325) -/

/-- The global entry's bytes: the defaults where the table lacks one. -/
def diagDfltGlobal : List (BitVec 8) := [0xFF, 2, 60, 0, 20, 0, 0x20, 0x4E, 0x00, 0x04, 24, 8, 10, 0, 0, 0]

/-- An output entry's bytes by default. -/
def diagDfltOut : List (BitVec 8) := [0, 4, 0x00, 0x01, 0x80, 0x01, 0x00, 0x10, 10, 0, 25, 0, 0, 0, 0, 0]

/-- The global entry in effect. -/
def State.diagGlobal (s : State) : List (BitVec 8) :=
  ((s.polEntries 7).find? (fun e => u8 e 0 == 0xFF)).getD diagDfltGlobal

/-- The entry of output `o` in effect. -/
def State.diagOut (s : State) (o : Nat) : List (BitVec 8) := ((s.polEntries 7).find? (fun e => u8 e 0 == o)).getD diagDfltOut

/-- R_OPEN by the I_DIAG code, UQ8.8 Ω: min(40 Ω, 4.5 V ÷ I_DIAG) (R309). -/
def rOpen (code : Nat) : Nat := if code = 3 then 30 * 256 else 40 * 256

/-- An entry of table 0x0007 within its ranges; `fa` is the code of Fa (R325). -/
def diagEntryOk (fa rop : Nat) (e : List (BitVec 8)) : Bool :=
  if u8 e 0 = 0xFF then
    decide (u8 e 1 ≤ 3) && (decide (u16 e 2 = 0) || (decide (10 ≤ u16 e 2) && decide (u16 e 2 ≤ 3600))) &&
    decide (10 ≤ u16 e 4) && decide (u16 e 4 ≤ 1000) && decide (u16 e 4 < u16 e 6) &&
    decide (u16 e 6 ≤ (if fa < 2 then 20000 else 40000)) && decide (1024 ≤ 10 * u16 e 8) && decide (u16 e 8 ≤ 4096) &&
    decide (8 ≤ u8 e 10) && decide (u8 e 10 ≤ 64) && decide (2 ≤ u8 e 11) && decide (u8 e 11 ≤ 50) &&
    decide (1 ≤ u8 e 12) && decide (u8 e 12 ≤ 60) && (slice e 13 3).all (fun b => b == 0)
  else
    decide (u8 e 0 ≤ 15) && decide (512 ≤ 10 * u16 e 2) && decide (u16 e 2 ≤ 512) && decide (u16 e 2 < u16 e 4) &&
    decide (u16 e 4 < u16 e 6) && decide (u16 e 6 < rop) && decide (1 ≤ u16 e 8) && decide (u16 e 8 ≤ 60) &&
    decide (5 ≤ u8 e 10) && decide (u8 e 10 ≤ 100) && (slice e 11 5).all (fun b => b == 0)

/-- Check 9 of table 0x0007. -/
def diagPolicyOk (fa : Nat) (es : List (List (BitVec 8))) : Bool :=
  let g := (es.find? (fun e => u8 e 0 == 0xFF)).getD diagDfltGlobal
  es.all (diagEntryOk fa (rOpen (u8 g 1)))

/-- DIAG_CFG shows the current and R_OPEN in effect. -/
def State.diagCfg (s : State) : State :=
  let i := u8 s.diagGlobal 1
  (s.wr F.DIAG_CFG_I_DIAG i).wr F.DIAG_CFG_R_OPEN (rOpen i)

/-- The output whose entry serves channel `c`: the one bound to it, else its own number, or that of the lower channel of a
pair that is to be, or is, joined. -/
def State.chanOutput (s : State) (c : Nat) : Nat :=
  match s.outOf c with
  | some o => o
  | none =>
    let a := c / 2 * 2
    if s.outMode a = 1 ∨ (s.outMode a = 2 ∧ s.joined (c / 2)) then a else c

/-! ### DC measurement (R310, R311, R313) -/

/-- The class of a resistance, UQ8.8 (table of R311). -/
def dcClass (r rshort rmin rmax rop : Nat) (cap : Bool) : Nat :=
  if r < rshort then 6 else if r < rmin then 2 else if r ≤ rmax then 1 else if r ≤ rop then 3 else if cap then 4 else 5

/-- `r` lies within 5 % of a class boundary (R310). -/
def nearEdge (r b : Nat) : Bool := decide (((r : Int) - b).natAbs * 100 ≤ 5 * b)

/-- The more restrictive of two classes (R310). -/
def stricter (a b : Nat) : Nat := if restriction 1 a ≤ restriction 1 b then a else b

/-- Code, R and CONF of a measurement without a pin flag, by the entry of the channel's output (R310, R311). -/
def dcJudge (m : DcMeas) (e : List (BitVec 8)) (rop : Nat) : Nat × Nat × Nat :=
  let cap := (u8 e 1).testBit 0
  let rs := u16 e 2
  let rn := u16 e 4
  let rx := u16 e 6
  let opened := if cap then 4 else 5
  if m.limit ∨ m.di = 0 then (opened, 0xFFFF, if m.spread ≤ 10 then 3 else if m.spread ≤ 50 then 2 else 1)
  else
    let r := if m.dv * m.di ≤ 0 then 0 else roundN (m.dv.natAbs * 512) m.di.natAbs
    let cls := dcClass r rs rn rx rop cap
    let edge := nearEdge r rs || nearEdge r rn || nearEdge r rx || nearEdge r rop
    let c := if nearEdge r rs then stricter cls (stricter 6 2) else cls
    let c := if nearEdge r rn then stricter c (stricter 2 1) else c
    let c := if nearEdge r rx then stricter c (stricter 1 3) else c
    let c := if nearEdge r rop then stricter c (stricter 3 opened) else c
    (c, if rop < r then 0xFFFF else r, if edge then 1 else if m.spread ≤ 10 then 3 else if m.spread ≤ 50 then 2 else 1)

/-- The voltage or the current input of channel `c` is off, calibrating or failed (R311). -/
def State.noSense (s : State) (c : Nat) : Bool := modeSuppresses (s.senseMode c) || modeSuppresses (s.senseMode (16 + c))

/-- The pin flags of a measurement go to the register (R311). -/
def State.pinFlags (s : State) (m : DcMeas) : State :=
  let c := m.chan.val
  (((s.wrB (F.DIAG_CHc_DC_P_GND c) m.pGnd).wrB (F.DIAG_CHc_DC_P_SUP c) m.pSup).wrB (F.DIAG_CHc_DC_N_GND c) m.nGnd).wrB
    (F.DIAG_CHc_DC_N_SUP c) m.nSup

/-- The result of channel `c` from its own measurement (R311). -/
def State.dcJudgeCh (s : State) (c : Nat) (m : DcMeas) : Nat × Nat × Nat :=
  if s.noSense c then (9, 0xFFFF, 1)
  else if m.pSup || m.nSup then (8, 0xFFFF, 1)
  else if m.pGnd || m.nGnd then (7, 0xFFFF, 1)
  else dcJudge m (s.diagOut (s.chanOutput c)) (s.rd F.DIAG_CFG_R_OPEN)

/-- The first condition of R313: the partner sees the same voltage step. -/
def joinSeen (m : DcMeas) : Bool :=
  decide (2 ^ 25 ≤ m.dv.natAbs * 50) && decide ((m.dvPartner - m.dv).natAbs * 10 ≤ m.dv.natAbs)

/-- A measurement of channel `c` among the results; none leaves the channel ABORTED. -/
def measOf (rs : List DcMeas) (c : Nat) : Option DcMeas := rs.find? (fun m => m.chan.val == c)

/-- The result of channel `c` from the measurements (R311): ABORTED without one, unless it has no sense. -/
def State.dcFrom (s : State) (rs : List DcMeas) (c : Nat) : Nat × Nat × Nat :=
  match measOf rs c with
  | some m => s.dcJudgeCh c m
  | none => (if s.noSense c then 9 else 10, 0xFFFF, 1)

/-- The time of the last completed check of channel `c` (R315). -/
def State.setChecked (s : State) (c : Nat) : State :=
  { s with diag := { s.diag with checked := Tbl.set none s.diag.checked c (some s.now) } }

/-- Write the result of channel `c`, with its pin flags. -/
def State.dcWrite (s : State) (rs : List DcMeas) (c : Nat) (x : Nat × Nat × Nat) : State :=
  let t := match measOf rs c with
    | some m => s.pinFlags m
    | none => s
  t.dcResult c x.1 x.2.1 x.2.2

/-! ### Quick checks (R314, R315) -/

/-- The results of a quick check by channel. Of a pair only the lower channel drives, and the upper must see its step
(R314). -/
def State.quickResults (s : State) (chans : List Nat) (rs : List DcMeas) : List (Nat × Nat × Nat × Nat) :=
  let one (c : Nat) : Nat × Nat × Nat := s.dcFrom rs c
  match chans with
  | [a, b] =>
    let ra := one a
    let lost := match measOf rs a with
      | some m => decide (ra.1 ≤ 6) && !joinSeen m
      | none => false
    let rb := match measOf rs b with
      | some m => if s.noSense b then (9, 0xFFFF, 1) else if m.pSup || m.nSup then (8, 0xFFFF, 1)
                  else if m.pGnd || m.nGnd then (7, 0xFFFF, 1) else ra
      | none => ra
    if lost then [(a, 11, 0xFFFF, 1), (b, if 7 ≤ rb.1 then rb.1 else 11, 0xFFFF, 1)] else [(a, ra), (b, rb)]
  | _ => chans.map (fun c => (c, one c))

/-- The check of output `o` has ended (R191, R193): it goes to CM_UP, or to OFF, and takes a queued request there. -/
def State.checkEnded (s : State) (o : Nat) (commanded pass : Bool) : State :=
  if s.oState o ≠ oDcCheck then s
  else if !pass then (s.enqueue o none).enterOff o
  else if commanded || (s.out o).post then (s.enterOff o).takeQueued o
  else
    let t := match (s.out o).queued with
      | some v => (s.enqueue o none).wr (F.MOD_OUTo_CTRL_REQ o) v
      | none => s
    if t.want o = 0 then t.enterOff o
    else if t.mayStart o then t.enterCmUp o
    else
      let t := t.enterOff o
      t.setOut o { t.out o with startDue := true }

/-- QUICK_CHECK_START: the first waiting check whose channels do not calibrate takes its slots, if they are free. -/
def execQuickCheckStart (s : State) : Host.Outcome State Fault Refusal :=
  match s.diag.waiting.find? (fun q => q.chans.all (fun c => !s.calibrating c)) with
  | none => .next s
  | some q =>
    let used := s.diag.running.foldl (fun n x => n + x.drives) 0
    if 8 < used + q.drives then .next s
    else
      let d := s.diag
      let t := { s with diag := { d with waiting := d.waiting.filter (fun x => x.out != q.out),
                                         running := d.running ++ [q] } }
      .next (t.forEach q.chans (fun c t => t.wr (F.MOD_CHc_STAT_BRIDGE c) 3)).diagStat

/-- The end of the quick check of output `o` (R314, R315). -/
def State.quickDone (s : State) (o : Nat) (rs : List DcMeas) : State :=
  match s.diag.running.find? (fun q => q.out == o) with
  | none => s
  | some q =>
    let res := s.quickResults q.chans rs
    let t := s.forEach res (fun x t => ((t.dcWrite rs x.1 x.2).when (x.2.1 != 10) (fun t => t.setChecked x.1)).bridgeOff x.1)
    let t := { t with diag := { t.diag with running := t.diag.running.filter (fun x => x.out != o) } }.diagStat
    let pass := res.all (fun x => dcPasses x.2.1)
    let t := t.ev (A.DIAG_OUTo_EVENT o) 0
    let t := if pass then t else t.ev (A.DIAG_OUTo_EVENT o) 1
    let code := res.foldl (fun k x => stricter k x.2.1) 0
    let t := if q.commanded then t.jobDone 1 o code else t
    t.checkEnded o q.commanded pass

/-- QUICK_CHECK_DONE. -/
def execQuickCheckDone (o : Fin 16) (results : List DcMeas) (s : State) : Host.Outcome State Fault Refusal :=
  .next (s.quickDone o results)

/-- A refused command for output `o` (R315, R318). -/
def State.diagRefused (s : State) (o : Nat) : State := (s.ev (A.DIAG_OUTo_EVENT o) 8).bump F.DIAG_CNT_REFUSED

/-- The outputs a mask names. -/
def named (mask : BitVec 16) : List Nat := (List.range 16).filter (fun o => mask.getLsbD o)

/-- A commanded operation begins: the completion waits for the outputs accepted (R317). -/
def State.newJob (s : State) (op : Nat) (mask : BitVec 16) (go : List Nat) : State :=
  if go = [] then s
  else { s with diag := { s.diag with jobs := s.diag.jobs ++ [{ op := op, mask := mask.toNat, left := go, code := 0 }] } }

/-- The quick-check operation of DIAG_CMD (R315): accepted for outputs in OFF with a channel. -/
def State.cmdQuick (s : State) (mask : BitVec 16) : State :=
  let ok (o : Nat) : Bool := decide (s.oState o = oOff) && decide ((s.out o).chans ≠ [])
  let go := (named mask).filter ok
  let t := (s.newJob 1 mask go).forEach ((named mask).filter (fun o => !ok o)) (fun o t => t.diagRefused o)
  t.forEach go (fun o t => (t.setOut o { t.out o with post := false }).askCheck o (t.checkChans o) true)

/-- QUICK_DC_CHECK. -/
def execQuickDcCheck (mask : BitVec 16) (s : State) : Host.Outcome State Fault Refusal := .next (s.cmdQuick mask)

/-! ### Sweeps (R318 to R322) -/

/-- The sweep operation of DIAG_CMD (R318): accepted for bound outputs in OFF or MUTED; from OFF the output is first brought
to MUTED. -/
def State.cmdSweep (s : State) (mask : BitVec 16) : State :=
  let ok (o : Nat) : Bool :=
    decide (s.oState o = oOff ∨ s.oState o = oMuted) && decide ((s.out o).chans ≠ []) && (s.sweep o).isNone && !s.fastOff o
  let go := (named mask).filter ok
  let t := (s.newJob 2 mask go).forEach ((named mask).filter (fun o => !ok o)) (fun o t => t.diagRefused o)
  t.forEach go (fun o t =>
    let off := decide (t.oState o = oOff)
    let t := t.setSweep o (some { pts := [], frames := [], again := false, starting := off, paused := false, dryfit := false })
    if off then t.outToward o else t)

/-- AC_SWEEP. -/
def execAcSweep (mask : BitVec 16) (s : State) : Host.Outcome State Fault Refusal := .next (s.cmdSweep mask)

/-- The sweep of output `o` ends early and the output moves towards REQ (R321). -/
def State.sweepStop (s : State) (o : Nat) : State :=
  if (s.sweep o).isSome then (s.sweepAbort o).outToward o else s

/-- The abort operation of DIAG_CMD (R321). -/
def State.cmdAbort (s : State) (mask : BitVec 16) : State := s.forEach (named mask) (fun o t => t.sweepStop o)

/-- DIAG_ABORT. -/
def execDiagAbort (mask : BitVec 16) (s : State) : Host.Outcome State Fault Refusal := .next (s.cmdAbort mask)

/-- A write of DIAG_CMD. -/
def State.diagCmd (s : State) (v : BitVec 32) : State :=
  let mask := BitVec.ofNat 16 v.toNat
  let op := getField v 30 2
  if op = 1 then s.cmdQuick mask else if op = 2 then s.cmdSweep mask else if op = 3 then s.cmdAbort mask else s

/-- The frequency of point `k` of a sweep, log-spaced from F_START to F_STOP (R319), UQ16.16 Hz: by the global entry. -/
def sweepFreq (g : List (BitVec 8)) (k : Nat) : Nat :=
  let a := u16 g 4 * 65536
  let b := u16 g 6 * 65536
  let n := u8 g 10 - 1
  if k = 0 then a else if n ≤ k then b else Config.logInterp a b k n

/-- The frequency at which the phase first rises through −45° (R320), in hertz; 0 without a crossing. -/
def sweepFc : List SweepPt → Nat
  | a :: b :: t =>
    if a.phase < -4500 ∧ -4500 ≤ b.phase then
      roundN (Config.logInterp a.hz b.hz (-4500 - a.phase).toNat (b.phase - a.phase).toNat) 65536
    else sweepFc (b :: t)
  | _ => 0

/-- Walk down from a maximum: the lowest magnitude before the curve rises again. -/
def valley : Nat → List Nat → Nat
  | z, [] => z
  | z, y :: t => if y ≤ z then valley y t else z

/-- The resonance (R320): among the local maxima below 1 kHz that exceed 1.2 × the lower of the neighbouring minima, the
largest, as magnitude and hertz. `done` holds the points already passed, nearest first. -/
def sweepRes : List SweepPt → List SweepPt → Nat × Nat
  | _, [] => (0, 0)
  | passed, a :: t =>
    let rest := sweepRes (a :: passed) t
    match passed, t with
    | p :: _, n :: _ =>
      let low := min (valley a.z (passed.map (fun x => x.z))) (valley a.z (t.map (fun x => x.z)))
      if p.z < a.z ∧ n.z < a.z ∧ a.hz < 1000 * 65536 ∧ 12 * low < 10 * a.z ∧ rest.1 < a.z then (a.z, roundN a.hz 65536) else rest
    | _, _ => rest

/-- The class of a complete sweep (table of R320). -/
def acClass (pts : List SweepPt) (rshort : Nat) : Nat :=
  let zmin := pts.foldl (fun m p => min m p.z) 0xFFFFFFFF
  let cap := match pts with
    | p :: _ => decide (p.phase < -4500) && decide (10 * zmin < p.z)
    | [] => false
  if pts.all (fun p => !p.i1mA) then 4
  else if pts.all (fun p => decide (p.z < rshort)) then 5
  else if cap then (if 1000 ≤ sweepFc pts then 3 else 2)
  else 1

/-- The confidence of a complete sweep (R320). -/
def acConf (pts : List SweepPt) : Nat :=
  if pts.all (fun p => p.i5mA && decide (p.agree ≤ 20)) then 3 else if pts.all (fun p => decide (p.agree ≤ 100)) then 2 else 1

/-- Band `b` of output `o`. -/
def State.band (s : State) (o b : Nat) : TrackBand := Tbl.get TrackBand.reset s.diag.track (4 * o + b)

/-- Set band `b` of output `o`. -/
def State.setBand (s : State) (o b : Nat) (x : TrackBand) : State :=
  { s with diag := { s.diag with track := Tbl.set TrackBand.reset s.diag.track (4 * o + b) x } }

/-- The results of a complete sweep of output (in dry-fit: channel) `o` are written and reported (R320, R323), by the entry of the
output. -/
def State.acWrite (s : State) (o : Nat) (e : List (BitVec 8)) (pts : List SweepPt) : State :=
  let cls := acClass pts (u16 e 2)
  let cap := (u8 e 1).testBit 0
  let mismatch := if cap then decide (cls = 1 ∨ cls = 4 ∨ cls = 5) else decide (cls = 2 ∨ cls = 3)
  let t := { s with diag := { s.diag with points := Tbl.set [] s.diag.points o pts } }
  let t := ((t.wr (F.DIAG_OUTo_AC_CLASS o) cls).wr (F.DIAG_OUTo_AC_CONF o) (acConf pts)).wr (F.DIAG_OUTo_AC_ZMIN o)
    (min 0xFFFF (pts.foldl (fun m p => min m p.z) 0xFFFFFFFF))
  let t := (t.wr (F.DIAG_OUTo_ACF_F_C o) (min 0xFFFF (sweepFc pts))).wr (F.DIAG_OUTo_ACF_F_RES o)
    (min 0xFFFF (sweepRes [] pts).2)
  let t := if mismatch then (t.ev (A.DIAG_OUTo_EVENT o) 4).raise 9 o 0x10 0 false else t
  let t := if cls = 4 then t.raise 9 o 0x11 0 false else if cls = 5 then t.raise 9 o 0x12 0 false else t
  let t := if cls = 1 then
      t.forAll 3 (fun b t =>
        t.setBand o b { t.band o b with base := some (Config.sweepAt (pts.map (fun p => (p.hz, p.z))) b), dev := false })
    else t
  t.ev (A.DIAG_OUTo_EVENT o) 2

/-- The next channel that dry-fit sweeps: the first above `c` that passed DC diagnostics (R322). -/
def State.dryfitSweep (s : State) (lo : Nat) : State :=
  match (List.range 16).find? (fun c => decide (lo ≤ c) && s.bindable c) with
  | none => s
  | some c =>
    (s.setSweep c (some { pts := [], frames := [], again := false, starting := false, paused := false, dryfit := true })).bridgeOn c

/-- A DRYFIT entry of 16 bytes (R57): fault ID, error code, severity, detail; the record holds 240 (R53). -/
def State.dryfitEntry (s : State) (id : BitVec 16) (err sev : Nat) (detail : List (BitVec 8)) : State :=
  if 240 ≤ s.boot.dryfit.length then s else
  { s with boot := { s.boot with dryfit := s.boot.dryfit ++
      [leBytes 2 id.toNat ++ [BitVec.ofNat 8 err, BitVec.ofNat 8 sev] ++ slice detail 0 12] } }

/-- Terms of the arcus tangent of z × 2^−60: t = 2^60 × (z × 2^−60)^(2i+1), alternating. -/
def atanTerms : Nat → Nat → Nat → Nat → Int
  | 0, _, _, _ => 0
  | n + 1, i, t, z => (t / (2 * i + 1) : Nat) - atanTerms n (i + 1) (t * z / 2 ^ 60 * z / 2 ^ 60) z

/-- atan(y ÷ x) in units of 2^−60, for y at most x: for a ratio above ½ as π ÷ 4 less that of (x − y) ÷ (x + y). -/
def atanFix (y x : Nat) : Int :=
  let small (a b : Nat) : Int := atanTerms 40 0 (a * 2 ^ 60 / b) (a * 2 ^ 60 / b)
  if 2 * y ≤ x then small y x else 905502432259640355 - small (x - y) (x + y)

/-- The angle of re + j im in 0.01°, from −180° to 180°. -/
def phaseOf (re im : Int) : Int :=
  let a := re.natAbs
  let b := im.natAbs
  let q := if b ≤ a then atanFix b a else 1811004864519280710 - atanFix a b
  let h := if re < 0 then 3622009729038561421 - q else q
  roundQ (((if im < 0 then -h else h) * 36864000 + 3622009729038561421) / 7244019458077122842) 1024

/-- Samples at 4 × Fa that settle at a point, and those that it measures (R319): max(2 periods, 2 ms) and max(4 periods, 10 ms). -/
def pointSpan (hz fa : Nat) : Nat × Nat :=
  let up (a b : Nat) : Nat := (a + b - 1) / b
  (max (up (8 * fa * 65536) hz) (up (8 * fa) 1000), max (up (16 * fa * 65536) hz) (up (40 * fa) 1000))

/-- The in-phase and the quadrature sum of samples, the first of them sample `k` of the reference, against a tone of `hz` (UQ16.16) at
4 × Fa, in units of 2^−149. -/
def demodulate (hz fa k : Nat) (xs : List Int) : Int × Int :=
  let ref (m q : Nat) : Int := f32Int (Config.sine ((m * hz + q * fa * 65536) % (4 * fa * 65536)) (4 * fa * 65536))
  ((List.range xs.length).zip xs).foldl (fun a x => (a.1 + x.2 * ref (k + x.1) 0, a.2 + x.2 * ref (k + x.1) 1)) (0, 0)

/-- i_L, the current without that of the filter capacitor, in units of 2^−26 nA (R319, R298): C_F in nanofarads, the voltage sample
before the first. -/
def lineCurrent (cf fa : Nat) (last : Int) (v i : List Int) : List Int :=
  (i.zip (v.zip (last :: v))).map (fun (i, x, y) => 1000000000 * i - cf * 8 * fa * (x - y))

/-- The sum of the squares of a phasor. -/
def phasorSq (p : Int × Int) : Nat := p.1.natAbs * p.1.natAbs + p.2.natAbs * p.2.natAbs

/-- |Z| in units of 2^−k Ω from the sums of the squares of a voltage (2^−25 V) and a current (2^−26 nA); without a current as large
as the word can be. -/
def impedance (k v i : Nat) : Nat := if i = 0 then 2 ^ 32 - 1 else roundSqrt (v * (2000000000 * 2 ^ k) ^ 2) i

/-- What a sweep finds at a frequency (R319, R320), and whether every frame of the measurement was sound; none before its frames have
come. The frame in which the point began is left out. -/
def sweepMeasure (hz fa cf : Nat) (fs : List MeasFrame) : Option (SweepPt × Bool) :=
  let span := pointSpan hz fa
  let from' := 128 + span.1
  let v := fs.flatMap (fun f => f.v)
  let i := fs.flatMap (fun f => f.i)
  if v.length < from' + span.2 then none
  else
    let vs := (v.drop from').take span.2
    let il := lineCurrent cf fa (v.getD (from' - 1) 0) vs ((i.drop from').take span.2)
    let h := span.2 / 2
    let v1 := demodulate hz fa 0 (vs.take h)
    let i1 := demodulate hz fa 0 (il.take h)
    let v2 := demodulate hz fa h (vs.drop h)
    let i2 := demodulate hz fa h (il.drop h)
    let vp := (v1.1 + v2.1, v1.2 + v2.2)
    let ip := (i1.1 + i2.1, i1.2 + i2.2)
    let z := impedance 24 (phasorSq vp) (phasorSq ip)
    let z1 := impedance 24 (phasorSq v1) (phasorSq i1)
    let z2 := impedance 24 (phasorSq v2) (phasorSq i2)
    let milli (n : Nat) : Bool := decide ((n * span.2 * 2 ^ 175 * 1000000) ^ 2 ≤ 4 * phasorSq ip)
    let bad := ((fs.take ((from' + span.2 + 127) / 128)).drop (from' / 128)).any (fun f => f.bad)
    some ({ hz := hz, z := impedance 8 (phasorSq vp) (phasorSq ip),
            phase := phaseOf (vp.1 * ip.1 + vp.2 * ip.2) (vp.2 * ip.1 - vp.1 * ip.2),
            i1mA := milli 1, i5mA := milli 5,
            agree := (1000 * (max z1 z2 - min z1 z2) + z - 1) / max 1 z }, !bad)

/-- C_F of output `o` in nanofarads (R298, policy table 0x0008). -/
def State.filterCap (s : State) (o : Nat) : Nat := (((s.polEntries 8).find? (fun e => u8 e 0 == o)).map (fun e => u16 e 0x10)).getD 0

/-- SWEEP_POINT_DONE (R319): once the point's measurement is complete; one with a frame that is not sound is made again once; after
the last point the load is classified (R320). -/
def State.sweepPoint (s : State) (o : Nat) : State :=
  match s.sweep o with
  | none => s
  | some w =>
    if w.starting ∨ w.paused then s
    else
      let out := if w.dryfit then s.chanOutput o else o
      match sweepMeasure (sweepFreq s.diagGlobal w.pts.length) s.fa (s.filterCap out) w.frames.reverse with
      | none => s
      | some (p, sound) =>
        if !sound && !w.again then s.setSweep o (some { w with frames := [], again := true })
        else
          let pts := w.pts ++ [p]
          if pts.length < u8 s.diagGlobal 10 then s.setSweep o (some { w with pts := pts, frames := [], again := false })
          else
            let t := (s.setSweep o none).acWrite o (s.diagOut out) pts
            if w.dryfit then
              let ac := t.reg (A.DIAG_OUTo_AC o)
              let acf := t.reg (A.DIAG_OUTo_ACF o)
              let warn := t.evOn (A.DIAG_OUTo_EVENT o) 4
              let id := if warn then faultId 9 o 0x10 else 0
              (((t.bridgeOff o).dryfitEntry id 0 (if warn then 1 else 0)
                (BitVec.ofNat 8 o :: 0 :: 0 :: 0 :: (leBytes 4 ac.toNat ++ leBytes 4 acf.toNat)))).dryfitSweep (o + 1)
            else (t.jobDone 2 o (t.rd (F.DIAG_OUTo_AC_CLASS o))).outToward o

/-- SWEEP_POINT_DONE. -/
def execSweepPointDone (o : Fin 16) (s : State) : Host.Outcome State Fault Refusal := .next (s.sweepPoint o)

/-- The governor refuses P3 power to the sweep of output `o`: the point in progress is discarded, the sweep pauses (R321). -/
def State.sweepPause (s : State) (o : Nat) : State :=
  match s.sweep o with
  | some w => if w.starting then s else s.setSweep o (some { w with frames := [], paused := true, again := false })
  | none => s

/-- SWEEP_RESUME (R321): the power is granted within SHED_WAIT, or the sweep ends as ABORTED. -/
def execSweepResume (o : Fin 16) (granted : Bool) (s : State) : Host.Outcome State Fault Refusal :=
  .next (match s.sweep o with
    | some w => if !w.paused then s else if granted then s.setSweep o (some { w with paused := false }) else s.sweepStop o
    | none => s)

/-! ### Boot DC diagnostics (R312, R313) -/

/-- BOOT_DC_DIAG_START: boot step 11, after the sense calibration, on every channel that is not fenced (R312). -/
def execBootDcDiagStart (s : State) : Host.Outcome State Fault Refusal :=
  .next (if s.boot.firmware && s.on F.SENSE_STAT_BOOTCAL_DONE && !s.on F.DIAG_STAT_BOOT_DONE && !s.diag.boot then
      let t := { s with diag := { s.diag with boot := true } }.diagCfg
      t.forAll 16 (fun c t => if t.on (F.MOD_CHc_STAT_FENCED c) then t else t.wr (F.MOD_CHc_STAT_BRIDGE c) 3)
    else s)

/-- The join finding of pair `p` (R313): both source phases must see it. -/
def State.joinFinding (s : State) (p : Nat) (rs : List DcMeas) : State :=
  let seen (c : Nat) : Bool := match measOf rs c with
    | some m => !(m.pSup || m.nSup || m.pGnd || m.nGnd) && joinSeen m
    | none => false
  let a := seen (2 * p)
  let b := seen (2 * p + 1)
  let t := s.setBit A.DIAG_PAIR p (a && b)
  { t with diag := { t.diag with disagree := if a == b then t.diag.disagree else t.diag.disagree ++ [p] } }

/-- Outputs that are bound move towards MUTED at the end of step 11 (R191); none in dry-fit (R56). -/
def State.bootMute (s : State) : State :=
  if s.boot.mode = 1 then s.dryfitSweep 0
  else s.forAll 16 (fun o t =>
    if (t.out o).chans ≠ [] ∧ t.oState o = oOff then (t.wr (F.MOD_OUTo_CTRL_REQ o) 1).outToward o else t)

/-- BOOT_DC_DIAG_DONE (R312): results and join findings are written, the binding is decided (R189), bound outputs enter
CM_UP. -/
def execBootDcDiagDone (results : List DcMeas) (s : State) : Host.Outcome State Fault Refusal :=
  .next (if !s.diag.boot then s
    else
      let t := { s with diag := { s.diag with boot := false, disagree := [] } }
      let t := t.forAll 8 (fun p t => t.joinFinding p results)
      let t := t.forAll 16 (fun c t =>
        if t.on (F.MOD_CHc_STAT_FENCED c) then t
        else
          let x := t.dcFrom results c
          ((t.dcWrite results c x).when (x.1 != 10) (fun t => t.setChecked c)).bridgeOff c)
      (t.wr F.DIAG_STAT_BOOT_DONE 1).bindAll.bootMute)

/-! ### In-play tracking (R323) and standby findings (R324) -/

/-- One evaluated band: |Z| in UQ8.8 against the baseline (R323). -/
def State.trackBand (s : State) (o b z : Nat) : State :=
  let x := { s.band o b with z := some z }
  if !x.first && decide (s.boot.state = bootFullRunning) then s.setBand o b { x with base := some z, first := true, dev := false }
  else match x.base with
  | none => s.setBand o b x
  | some base =>
    let tol := u8 (s.diagOut o) 10
    let dev := decide (tol * base < ((z : Int) - base).natAbs * 100)
    let pct := if base = 0 then 127 else clampInt (-127) 127 (roundQ (((z : Int) - base) * 100) base)
    let t := s.wrI ⟨A.DIAG_OUTo_TRK o, 8 * b, 8⟩ pct
    let drift := dev && x.dev
    let t := (t.setBand o b { x with dev := dev }).setBit (A.DIAG_OUTo_TRK o) (24 + b) drift
    if drift then (t.ev (A.DIAG_OUTo_EVENT o) 5).raise 9 o 0x20 0 false else t

/-- Impedance tracking of output `o` runs (R323): TRACK_EN is set, the output plays, no sweep runs. -/
def State.tracks (s : State) (o : Nat) : Bool :=
  (u8 (s.diagOut o) 1).testBit 1 && decide (s.oState o = oPlaying) && (s.sweep o).isNone

/-- A period of band `b` ends (R323): evaluated with at least 0.5 s of counted frames. -/
def State.trackEnd (s : State) (o b : Nat) : State :=
  let x := s.band o b
  let t := s.setBand o b { x with frames := 0, sumV := 0, sumI := 0 }
  if s.fa ≤ 64 * x.frames then t.trackBand o b (min 65535 (impedance 8 x.sumV x.sumI)) else t

/-- TRACK_PERIOD_END (R323). -/
def execTrackPeriodEnd (o : Fin 16) (s : State) : Host.Outcome State Fault Refusal :=
  .next (if s.tracks o then s.forAll 3 (fun b t => t.trackEnd o b) else s)

/-- A frame of a band (R323): it counts where it is sound and its current exceeds 20 mA RMS. -/
def TrackBand.take (x : TrackBand) (b fa cf : Nat) (f : MeasFrame) : TrackBand :=
  let v := Config.bandFilter b fa x.vState f.v
  let i := Config.bandFilter b fa x.iState (lineCurrent cf fa x.vLast f.v f.i)
  let sq (l : List Int) : Nat := l.foldl (fun a y => a + y.natAbs * y.natAbs) 0
  let on := !f.bad && decide (f.i.length * (2 ^ 26 * 20000000) ^ 2 < sq i.1)
  { x with vState := v.2, iState := i.2, vLast := f.v.getLastD 0, frames := if on then x.frames + 1 else x.frames,
           sumV := if on then x.sumV + sq v.1 else x.sumV, sumI := if on then x.sumI + sq i.1 else x.sumI }

/-- At boot firmware copies the standby findings and reports each short (R324). -/
def State.stbyReport (s : State) : State :=
  let t := s.setReg A.DIAG_STBY s.diag.stby
  t.forAll 16 (fun o t =>
    let f := t.rd ⟨A.DIAG_STBY, 2 * o, 2⟩
    if f < 2 then t else (t.ev (A.DIAG_OUTo_EVENT o) 7).raise 9 o (if f = 2 then 0x30 else 0x31) 0 false)

/-! ### Sense calibration (R259 to R261) -/

/-- A CAL command; a calibration request ends a sweep (R260, R321). -/
def State.senseCalCmd (s : State) (mask : BitVec 16) : State :=
  let t := s.forEach (named mask) (fun c t =>
    match t.outOf c with
    | some o => t.sweepStop o
    | none => t)
  t.senseCal mask

/-- SENSE_CAL. -/
def execSenseCal (mask : BitVec 16) (s : State) : Host.Outcome State Fault Refusal :=
  .next (s.reach A.SENSE_CTRL (fun s => s.senseCalCmd mask))

/-- A write of SENSE_CTRL: BG_FREEZE and the CAL bits. -/
def State.senseCtrlWrite (s : State) (v : BitVec 32) : State :=
  (s.bgFreeze (v.getLsbD 16)).senseCalCmd (BitVec.ofNat 16 v.toNat)

/-- SENSE_CAL_DONE: the results are written, and starts that waited go on (R259, R261). -/
def execSenseCalDone (results : List CalResult) (s : State) : Host.Outcome State Fault Refusal :=
  .next (s.calResults results).outputsKick

end Sys2Proof.Machine
end

