-- ==== Sys2Proof/Machine/Guard.lean ====
section
/-!
DEFINITION. Machine/Guard.lean: speaker protection: clamps, protection assignments, parameter sets, the thermal and
excursion models (R288 to R308).
-/

namespace Sys2Proof.Machine

open Sys2Proof

/-- The protection record of output `o`. -/
def State.grd (s : State) (o : Nat) : GuardSt := Tbl.get GuardSt.reset s.guard o

/-- Set the protection record of output `o`. -/
def State.setGrd (s : State) (o : Nat) (x : GuardSt) : State := { s with guard := Tbl.set GuardSt.reset s.guard o x }

/-- The entry of output `o` in policy table 0x0008. -/
def State.guardEntry (s : State) (o : Nat) : Option (List (BitVec 8)) := (s.polEntries 8).find? (fun e => u8 e 0 == o)

/-! ### binary32 values, compared exactly -/

/-- A finite word above 0. -/
def f32Pos (x : BitVec 32) : Bool := !f32NonFinite x && decide (0 < f32Int x)

/-- A binary32 word as a fixed-point field with `frac` fraction bits and the given limits (rounding open, log entry 10). -/
def f32Fixed (x : BitVec 32) (frac : Nat) (lo hi : Int) : Int :=
  if f32NonFinite x then (if x.getLsbD 31 then lo else hi) else clampInt lo hi (roundQ (f32Int x * 2 ^ frac) (2 ^ 149))

/-! ### Parameter sets (R296, R297) -/

/-- The sets of a SPKMODEL section: a 16-byte header with SET_COUNT, then 64 words each. -/
def parseSets (b : List (BitVec 8)) : List (List (BitVec 32)) :=
  (List.range (u16 b 0)).map (fun i => (List.range 64).map (fun k => BitVec.ofNat 32 (u32 b (16 + 256 * i + 4 * k))))

/-- Word `k` of a set. -/
def setWord (ws : List (BitVec 32)) (k : Nat) : BitVec 32 := ws.getD k 0

/-- The set of an ID. -/
def findSet (sets : List (List (BitVec 32))) (id : Nat) : Option (List (BitVec 32)) :=
  sets.find? (fun ws => (setWord ws 0).toNat == id)

/-- The polynomial without its leading zeros, lowest power first. -/
def polyTrim (p : List Int) : List Int := (p.reverse.dropWhile (fun c => c == 0)).reverse

/-- The value of a polynomial. -/
def polyEval (p : List Int) (x : Int) : Int := p.foldr (fun c acc => c + x * acc) 0

/-- The remainder of `p` by `q` up to a positive factor: `k` elimination steps. -/
def polyRem (q : List Int) : Nat → List Int → List Int
  | 0, p => p
  | k + 1, p =>
    let p := polyTrim p
    if p.length < q.length ∨ p = [] then p
    else
      let lp := p.getLastD 0
      let lq := q.getLastD 0
      let sh := p.length - q.length
      let m := if 0 < lq then lq else -lq
      let f := if 0 < lq then lp else -lp
      polyRem q k ((List.range (p.length - 1)).map (fun i => m * p.getD i 0 - (if i < sh then 0 else f * q.getD (i - sh) 0)))

/-- The Sturm sequence that starts with two polynomials. -/
def sturm : Nat → List Int → List Int → List (List Int)
  | 0, p, _ => [p]
  | k + 1, p, q =>
    if q = [] then [p] else p :: sturm k q (polyTrim ((polyRem q 8 p).map (fun c => -c)))

/-- The sign changes of a list, zeros skipped. -/
def signChanges (vs : List Int) : Nat :=
  let nz := vs.filter (fun v => v != 0)
  ((nz.zip nz.tail).filter (fun x => decide ((x.1 < 0) ≠ (x.2 < 0)))).length

/-- A polynomial is positive on [−1, 1]: positive at both ends, with no root between (Sturm). -/
def polyPositive (p : List Int) : Bool :=
  let p := polyTrim p
  let d := polyTrim ((List.range (p.length - 1)).map (fun i => (i + 1 : Nat) * p.getD (i + 1) 0))
  let q := sturm 8 p d
  decide (0 < polyEval p 1) && decide (0 < polyEval p (-1)) &&
  decide (signChanges (q.map (fun r => polyEval r (-1))) = signChanges (q.map (fun r => polyEval r 1)))

/-- Kms(x) is positive for every |x| ≤ 1.5 × X_LIM (R297): with x = 1.5 × X_LIM × t, over t from −1 to 1. -/
def stiffnessOk (ws : List (BitVec 32)) : Bool :=
  let l := 3 * f32Int (setWord ws 17)
  polyPositive ((List.range 5).map (fun k => f32Int (setWord ws (12 + k)) * l ^ k * 2 ^ (150 * (4 - k))))

/-- A set passes the checks of R297, the duplicates and the F4 look-ahead aside; a word that one of them judges holds a number. -/
def setOk (ws : List (BitVec 32)) : Bool :=
  [13, 14, 15, 16, 22, 23, 27, 30].all (fun k => !f32NonFinite (setWord ws k)) &&
  [1, 5, 7, 12, 17, 18, 19, 20, 21].all (fun k => f32Pos (setWord ws k)) &&
  decide (f32Int (setWord ws 22) < f32Int (setWord ws 23)) &&
  decide (0 ≤ f32Int (setWord ws 27)) && decide (f32Int (setWord ws 27) ≤ 2 ^ 149) &&
  decide (f32Int (setWord ws 30) ≤ 64 * 2 ^ 149) && stiffnessOk ws

/-- The SPKMODEL section passes check 9 (R297). -/
def spkmodelOk (b : List (BitVec 8)) : Bool :=
  let sets := parseSets b
  decide (1 ≤ sets.length) && decide (sets.length ≤ 256) && decide (b.length = 16 + 256 * sets.length) &&
  decide ((sets.map (fun ws => setWord ws 0)).eraseDups.length = sets.length) && sets.all setOk

/-! ### Protection assignments (R288, R296) -/

/-- A field of an assignment within its range (table of protection assignments). -/
def guardEntryOk (e : List (BitVec 8)) : Bool :=
  let amb := toSigned 16 (u16 e 0x12)
  decide (u8 e 0 ≤ 15) && decide (u8 e 1 ≤ 7) && decide (1 ≤ u16 e 2) && decide (u16 e 2 ≤ 65534) &&
  decide (u16 e 4 ≤ 65534) && decide (u8 e 6 ≤ 8) && decide (1 ≤ u8 e 7) &&
  decide (0x0400 ≤ u16 e 8) && decide (u16 e 8 ≤ 0xD000) && decide (10 ≤ u8 e 0x0A) && decide (u8 e 0x0A ≤ 135) &&
  decide (u8 e 0x0B = 0) && decide (0x0100 ≤ u16 e 0x0C) && decide (u16 e 0x0C ≤ 0xF000) && decide (1 ≤ u16 e 0x0E) &&
  decide (-2560 ≤ amb) && decide (amb ≤ 8000) && decide (1280 ≤ u16 e 0x14) && decide (u16 e 0x14 ≤ 10240) &&
  decide (52 ≤ u16 e 0x16) && decide (u16 e 0x16 ≤ 2048) && decide (1 ≤ u16 e 0x18) && decide (u16 e 0x18 ≤ 600) &&
  (slice e 0x1A 6).all (fun b => b == 0)

/-- The model blocks of a graph that name output `o`. -/
def Graph.modelsOf (g : Graph) (ty o : Nat) : List Block := g.blocks.filter (fun b => b.ty == ty && b.par 0 == o)

/-- One assignment against the graph and the sets (R288, R296, R297). -/
def guardFits (g : Graph) (sets : List (List (BitVec 32))) (e : List (BitVec 8)) : Bool :=
  let o := u8 e 0
  let used := (findSet sets (u16 e 2)).toList ++ (if u16 e 4 = 0 then [] else (findSet sets (u16 e 4)).toList)
  let one (bit ty : Nat) := !(u8 e 1).testBit bit || decide ((g.modelsOf ty o).length = 1)
  (findSet sets (u16 e 2)).isSome && (u16 e 4 == 0 || (findSet sets (u16 e 4)).isSome) &&
  one 0 9 && one 1 0x0A && one 2 0x0C &&
  ((g.modelsOf 0x0A o).all (fun b => b.cls == 0) || used.all (fun ws => decide (f32Int (setWord ws 30) ≤ 4 * 2 ^ 149))) &&
  (!(u8 e 1).testBit 2 || g.blocks.all (fun b =>
    b.ty != 0x0B || !g.terms.any (fun t => t.kind == 2 && t.number == o && t.inst == b.inst) ||
      decide (u16 e 0x16 * 64 ≤ b.par 3)))

/-- Policy table 0x0008 passes check 9 (R296); `outs` is the output map. -/
def guardPolicyOk (outs es : List (List (BitVec 8))) (g : Graph) (sets : List (List (BitVec 32))) : Bool :=
  es.all guardEntryOk && decide ((es.map (fun e => u8 e 0)).eraseDups.length = es.length) && es.all (guardFits g sets) &&
  outs.all (fun m => u8 m 1 == 3 || es.any (fun e => u8 e 0 == u8 m 0)) &&
  g.blocks.all (fun b => !(b.ty == 9 || b.ty == 0x0A || b.ty == 0x0C) || es.any (fun e => u8 e 0 == b.par 0))

/-! ### Ceilings (R294) -/

/-- The ceiling of a clamp: 0 voltage, 1 current, 2 proxy, 3 energy. -/
def ceilingField (o clamp : Nat) : Fld :=
  if clamp = 0 then F.GUARD_OUTo_VCLAMP_V o
  else if clamp = 1 then F.GUARD_OUTo_ICLAMP_A o
  else if clamp = 2 then F.GUARD_OUTo_XCLAMP_V o
  else F.GUARD_OUTo_ECLAMP_E o

/-- A write of a ceiling: at or below the present value it takes effect; a higher one is counted and refused (R294). A
current ceiling below 10 is taken as 10. -/
def State.clampWrite (s : State) (o clamp v : Nat) : State :=
  let f := ceilingField o clamp
  let v := if clamp = 1 then max 10 v else v
  if v ≤ s.rd f then s.wr f v else (s.bump F.GUARD_RAISECNT_COUNT).ev (A.GUARD_OUTo_EVENT o) 11

/-- CLAMP_CEILING_WRITE. -/
def execClampCeilingWrite (o : Fin 16) (clamp : Fin 4) (v : BitVec 16) (s : State) : Host.Outcome State Fault Refusal :=
  .next (s.clampWrite o clamp (if clamp = 1 then v.toNat % 256 else v.toNat))

/-- The set in effect for output `o`. -/
def State.guardSet (s : State) (o : Nat) : List (BitVec 32) := (findSet s.spkSets (s.rd (F.GUARD_OUTo_STAT_SET o))).getD []

/-- A set takes effect: STAT.SET and X_LIM in micrometres. -/
def State.takeSet (s : State) (o id : Nat) : State :=
  let t := s.wr (F.GUARD_OUTo_STAT_SET o) id
  t.wr (F.GUARD_OUTo_XPRED_LIM o)
    (clampInt 0 65535 (roundQ (f32Int (setWord (t.guardSet o) 17) * 1000000) (2 ^ 149))).toNat

/-- Firmware writes the clamp fields of an instance of the policy to GUARD (R296) and the sets in effect. -/
def State.applyGuard (s : State) : State :=
  s.forAll 16 (fun o t =>
    match t.guardEntry o with
    | none => t
    | some e =>
      let t := (((t.clampWrite o 0 (u16 e 8)).clampWrite o 1 (u8 e 0x0A)).clampWrite o 2 (u16 e 0x0C)).clampWrite o 3 (u16 e 0x0E)
      if t.on (F.GUARD_OUTo_STAT_FALLBACK o) then t else t.takeSet o (u16 e 2))

/-- SET_SWITCHED (R306): at an F32 boundary the output changes to its FALLBACK_SET; the model states and gains go on. -/
def execSetSwitched (o : Fin 16) (s : State) : Host.Outcome State Fault Refusal :=
  match s.guardEntry o with
  | some e =>
    .next (if (s.grd o).fallbackDue && u16 e 4 != 0 && !s.on (F.GUARD_OUTo_STAT_FALLBACK o) then
      let t := s.setGrd o { s.grd o with fallbackDue := false }
      ((t.takeSet o (u16 e 4)).wr (F.GUARD_OUTo_STAT_FALLBACK o) 1).ev (A.GUARD_OUTo_EVENT o) 9
    else s)
  | none => .next s

/-! ### The clamp stage (R289 to R293) -/

/-- A disagreement of output `o` (R304, R306). -/
def State.disagree (s : State) (o : Nat) : State :=
  let t := ((s.bump (F.GUARD_OUTo_DISCNT_COUNT o)).ev (A.GUARD_OUTo_EVENT o) 8).raise 8 o 6 0 false
  let ts := s.recent (s.grd o).disTimes 10000000 ++ [s.now]
  match s.guardEntry o with
  | some e =>
    t.setGrd o { t.grd o with disTimes := ts, fallbackDue := (t.grd o).fallbackDue || (decide (u8 e 7 ≤ ts.length) && u16 e 4 != 0) }
  | none => t.setGrd o { t.grd o with disTimes := ts }

/-- An episode of a clamp begins: 0 voltage, 1 current, 2 proxy, 3 energy (R292). -/
def State.clampEpisode (s : State) (o k : Nat) : State :=
  let f := if k = 0 then F.GUARD_OUTo_CNT_V o else if k = 1 then F.GUARD_OUTo_CNT_I o
           else if k = 2 then F.GUARD_OUTo_CNT_X o else F.GUARD_OUTo_CNT_E o
  ((s.bump f).ev (A.GUARD_OUTo_EVENT o) k).raise 8 o (k + 1) 0 false

/-- The limit of T_vc tests: T_SOFT or T_MAX (`w`), lowered by T_MARGIN while the stale margin applies (R300). -/
def State.thermLimit (s : State) (o w : Nat) : BitVec 32 :=
  let ws := s.guardSet o
  if s.on (F.GUARD_OUTo_STAT_MARGIN o) then f32Sub (setWord ws w) (setWord ws 28) else setWord ws w

/-- V_CLAMP of output `o` in the reference's format, Q6.25 V. -/
def State.vLimit (s : State) (o : Nat) : Int := s.rd (F.GUARD_OUTo_VCLAMP_V o) * 2 ^ 15

/-- g_c after one control sample, with the quiet count (R291); Fc is 12.288 MHz. -/
def gcStep (gc quiet : Nat) (exceeds : Bool) : Nat × Nat :=
  if exceeds then (gc - roundN gc 256, 0)
  else if quiet < 614400 then (gc, quiet + 1)
  else (min 2147483648 (gc + roundN 2147483648 6144000), quiet)

/-- The clamp stage of output `o` on reference sample `r` (Q6.25 V), with the voltage sense `v` (Q6.25 V) and the current
senses `is` (Q5.26 A) of its switching channels, the lower first: the reference as the lanes take it (R289 to R292). -/
def State.clampStage (s : State) (o : Nat) (r v : Int) (is : List Int) : Int × State :=
  let x := s.grd o
  let lim := s.vLimit o
  let r1 := clampInt (-lim) lim r
  let vAct := decide (r1 ≠ r)
  let iMax := is.foldl (fun m i => max m i.natAbs) 0
  let iAct := decide (s.rd (F.GUARD_OUTo_ICLAMP_A o) * 2 ^ 26 < iMax * 10)
  let px := Config.proxyStep (s.rd (F.GUARD_OUTo_XCLAMP_FP o)) x.proxy v
  let xAct := decide (s.rd (F.GUARD_OUTo_XCLAMP_V o) * 2 ^ 15 < px.1.natAbs)
  let r2 := clampInt (-lim) lim (roundQ (r1 * x.gc) (2 ^ 31))
  let exceeds := iAct || xAct || x.eOver
  let gq := gcStep x.gc x.quiet exceeds
  let gc := gq.1
  let quiet := gq.2
  let full := gc == 2147483648
  let s := s.when (vAct && x.vEpi.isNone) (fun s => s.clampEpisode o 0)
  let s := s.when (iAct && !x.iEpi) (fun s => s.clampEpisode o 1)
  let s := s.when (xAct && !x.xEpi) (fun s => s.clampEpisode o 2)
  let s := s.when (xAct && !x.xEpi && s.on (F.GUARD_OUTo_STAT_EXC o) && decide (2 ≤ x.gxOnes)) (fun s => s.disagree o)
  let vEpi := if vAct then some 0 else x.vEpi.bind (fun n => if n + 1 < 614400 then some (n + 1) else none)
  let s := s.setGrd o { s.grd o with
    gc := gc, quiet := quiet, proxy := px.2, acc := x.acc + v * is.foldl (· + ·) 0, vEpi := vEpi,
    iEpi := (x.iEpi || iAct) && !full, xEpi := (x.xEpi || xAct) && !full, eEpi := x.eEpi && !full }
  let s := (s.wrB (F.GUARD_OUTo_CLSTAT_V_ACT o) vAct).wrB (F.GUARD_OUTo_CLSTAT_I_ACT o) iAct
  let s := (s.wrB (F.GUARD_OUTo_CLSTAT_X_ACT o) xAct).wrB (F.GUARD_OUTo_CLSTAT_E_ACT o) x.eOver
  let s := (s.wr (F.GUARD_OUTo_CLSTAT_GC o) (gc / 65536)).wrB (F.GUARD_OUTo_CLSTAT_QUIET o)
    (!exceeds && !full && decide (quiet < 614400))
  (r2, s.peak (F.GUARD_OUTo_MEAS_XPK o) (roundN px.1.natAbs (2 ^ 15)))

/-- An energy sub-window of output `o` ends (R290, R291): E_w over the last 16 against E_CLAMP, 7/8 of it to end. -/
def State.energyEnd (s : State) (o : Nat) : State :=
  let x := s.grd o
  let subs := (x.acc :: x.subs).take 16
  let sum := subs.foldl (· + ·) 0
  let unit : Nat := 2 ^ 51 * 12288000
  let lim : Int := s.rd (F.GUARD_OUTo_ECLAMP_E o) * unit
  let exceeds := decide (lim < sum * 100) || (x.eOver && decide (7 * lim < sum * 800))
  let begins := exceeds && !x.eOver && !x.eEpi
  let s := s.setGrd o { x with acc := 0, subs := subs, eOver := exceeds, eEpi := x.eEpi || exceeds }
  let s := s.wrB (F.GUARD_OUTo_CLSTAT_E_ACT o) exceeds
  let s := s.wr (F.GUARD_OUTo_MEAS_EW o) (if sum < 0 then 0 else min 65535 (roundN (sum.toNat * 100) unit))
  let s := s.when begins (fun s => s.clampEpisode o 3)
  s.when (begins && s.on (F.GUARD_OUTo_STAT_THERM o) && f32Lt x.therm.tvc (s.thermLimit o 22)) (fun s => s.disagree o)

/-- ENERGY_SUBWINDOW_END. -/
def execEnergySubwindowEnd (o : Fin 16) (s : State) : Host.Outcome State Fault Refusal := .next (s.energyEnd o)

/-! ### The models (R298 to R307) -/

/-- The block of the graph that runs a model of type `ty` for output `o`, where it is placed and not refused. -/
def State.modelBlock (s : State) (ty o : Nat) : Option Block :=
  (s.dsp.graph.modelsOf ty o).find? (fun b => s.dsp.place.now.entries.any (fun e => e.inst == b.inst && e.core != 255))

/-- A model is asked for by its flag and its block runs. -/
def State.modelOn (s : State) (o bit ty : Nat) : Bool :=
  match s.guardEntry o with
  | some e => (u8 e 1).testBit bit && (s.modelBlock ty o).isSome
  | none => false

/-- The sense inputs of output `o`: the voltage of its lower switching channel, the currents of all. -/
def State.guardInputs (s : State) (o : Nat) : List Nat :=
  match s.live o with
  | [] => []
  | c :: t => c :: (c :: t).map (fun d => 16 + d)

/-- A path of output `o` is off, or suppressed by its input's MODE (R307). -/
def State.pathsLost (s : State) (o : Nat) : Bool := (s.guardInputs o).any (fun k => modeSuppresses (s.senseMode k))

/-- The paths of output `o` are all valid (R279, R307). -/
def State.pathsValid (s : State) (o : Nat) : Bool :=
  (s.guardInputs o).all (fun k => decide (s.rd (F.DECIM_PATHk_STAT_STATE k) = 2))

/-- The governor's record of output `o`. -/
def State.gout (s : State) (o : Nat) : GovOut := Tbl.get GovOut.reset s.gov.outs o

/-- Set the governor's record of output `o`. -/
def State.setGout (s : State) (o : Nat) (x : GovOut) : State :=
  { s with gov := { s.gov with outs := Tbl.set GovOut.reset s.gov.outs o x } }

/-- The decimated voltage and current of the frame in binary32 (R298): 128 samples each; the sum of the currents of a dovetailed
output. -/
def State.guardSamples (s : State) (o : Nat) : List (BitVec 32) × List (BitVec 32) :=
  let at' (k m : Nat) : Int := (s.path k).frame.samples.getD m 0
  match s.guardInputs o with
  | [] => ([], [])
  | v :: is =>
    ((List.range 128).map (fun m => f32OfFix (at' v m) 25),
     (List.range 128).map (fun m => f32OfFix (is.foldl (fun a k => a + at' k m) 0) 26))

/-- The frame is spoiled for the pilot: VALID = 0 or OVR on one of the paths (R300). -/
def State.frameSpoiled (s : State) (o : Nat) : Bool :=
  (s.guardInputs o).any (fun k => decide (0 < (s.path k).frame.suppressed) || (s.path k).frame.ovr) || (s.guardInputs o).isEmpty

/-- The frame of paths, the voltage's first (R319, R323). -/
def State.measFrame (s : State) (ks : List Nat) : MeasFrame :=
  let at' (k m : Nat) : Int := (s.path k).frame.samples.getD m 0
  { v := (List.range 128).map (fun m => at' (ks.headD 0) m),
    i := (List.range 128).map (fun m => ks.tail.foldl (fun a k => a + at' k m) 0),
    bad := ks.isEmpty || ks.any (fun k => decide (0 < (s.path k).frame.suppressed) || (s.path k).frame.ovr) }

/-- At an F32 boundary the frames of the period that ended go to the sweeps and to the tracking of outputs that play (R319, R323). -/
def State.diagFrame (s : State) : State :=
  s.forAll 16 (fun o t =>
    match t.sweep o with
    | some w =>
      if w.starting || w.paused then t
      else t.setSweep o (some { w with frames := t.measFrame (if w.dryfit then [o, 16 + o] else t.guardInputs o) :: w.frames })
    | none =>
      if t.tracks o then
        t.forAll 3 (fun b u => u.setBand o b ((u.band o b).take b u.fa (u.filterCap o) (u.measFrame (u.guardInputs o))))
      else t)

/-- A signed field in units of 1/64 °C. -/
def f32Temp (x : BitVec 32) : Int := f32Fixed x 6 (-32768) 32767

/-- A gain as UQ1.15. -/
def f32Gain (x : BitVec 32) : Nat := (f32Fixed x 15 0 65535).toNat

/-- Frames of a number of seconds. -/
def State.framesOf (s : State) (sec : Nat) : Nat := sec * s.fa / 32

/-! #### The equations, in binary32, each operation in the order in which the rule writes it (log entry 21) -/

/-- Re(T) = RE_REF × (1 + ALPHA × (T − T_REF)) (R298). -/
def coilRe (ws : List (BitVec 32)) (temp : BitVec 32) : BitVec 32 :=
  f32Mul (setWord ws 1) (f32Add f32One (f32Mul (setWord ws 3) (f32Sub temp (setWord ws 2))))

/-- i_L, the current without that of the filter capacitor (R298): `c` in nanofarads, `last` the voltage sample before the first. -/
def loadCurrent (c fa : Nat) (last : BitVec 32) (v i : List (BitVec 32)) : List (BitVec 32) :=
  (i.zip (v.zip (last :: v))).map (fun (i, x, y) =>
    f32Sub i (f32Mul (f32Mul (f32Div (f32Nat c) (f32Nat 1000000000)) (f32Sub x y)) (f32Nat (4 * fa))))

/-- ΔT1 and ΔT2 after Δt = 32 ÷ Fa at the coil power P (R298). -/
def thermUpdate (ws : List (BitVec 32)) (fa : Nat) (power : BitVec 32) (d : BitVec 32 × BitVec 32) : BitVec 32 × BitVec 32 :=
  let dt := f32Div (f32Nat 32) (f32Nat fa)
  let next (rth tau x : BitVec 32) := f32Add x (f32Mul (f32Div dt tau) (f32Sub (f32Mul power rth) x))
  (next (setWord ws 18) (setWord ws 19) d.1, next (setWord ws 20) (setWord ws 21) d.2)

/-- ΔT1 and ΔT2 after `n` frames at one power (R307). -/
def thermFrames (ws : List (BitVec 32)) (fa : Nat) (power : BitVec 32) : Nat → BitVec 32 × BitVec 32 → BitVec 32 × BitVec 32
  | 0, d => d
  | n + 1, d => thermFrames ws fa power n (thermUpdate ws fa power d)

/-- T_vc = T_AMB + ΔT1 + ΔT2 (R298); T_AMB in 1/64 °C. -/
def thermSum (amb : Nat) (d : BitVec 32 × BitVec 32) : BitVec 32 := f32Add (f32Add (f32OfFix (toSigned 16 amb) 6) d.1) d.2

/-- The mean of the squares of a frame's 128 samples. -/
def meanSquare (xs : List (BitVec 32)) : BitVec 32 := f32Mul (f32Dot (xs.map (fun x => (x, x)))) (f32OfFix 1 7)

/-- The sine of the pilot after `n` samples of a rate, `quarter` quarters of a period later (R300): PILOT_F in UQ8.8 Hz. -/
def pilotSine (freq rate n quarter : Nat) : BitVec 32 :=
  Config.sine ((n * freq + quarter * 64 * rate) % (256 * rate)) (256 * rate)

/-- The demodulation of one more frame (R300): the sums V_c, V_s, I_c, I_s against the in-phase and the quadrature reference. -/
def pilotSums (freq fa n : Nat) (acc v i : List (BitVec 32)) : List (BitVec 32) :=
  let ref (q : Nat) := (List.range 128).map (fun m => pilotSine freq (4 * fa) (4 * n + m) q)
  [f32Add (acc.getD 0 0) (f32Dot (v.zip (ref 0))), f32Add (acc.getD 1 0) (f32Dot (v.zip (ref 1))),
   f32Add (acc.getD 2 0) (f32Dot (i.zip (ref 0))), f32Add (acc.getD 3 0) (f32Dot (i.zip (ref 1)))]

/-- Re_meas, T_meas and |I|² of a window of so many frames (R300); the phasors are peak values. -/
def pilotResult (ws acc : List (BitVec 32)) (frames : Nat) : BitVec 32 × BitVec 32 × BitVec 32 :=
  let amp (k : Nat) := f32Mul (acc.getD k 0) (f32Div (f32Nat 2) (f32Nat (128 * frames)))
  let sq := f32Add (f32Mul (amp 2) (amp 2)) (f32Mul (amp 3) (amp 3))
  let re := f32Div (f32Add (f32Mul (amp 0) (amp 2)) (f32Mul (amp 1) (amp 3))) sq
  (re, f32Add (setWord ws 2) (f32Div (f32Sub (f32Div re (setWord ws 1)) f32One) (setWord ws 3)), sq)

/-- The end of a pilot window (R300, R304, R305): the measurement is discarded, or found out of range, or corrects ΔT1. -/
def State.pilotMeasure (s : State) (o : Nat) (e : List (BitVec 8)) : State :=
  let ws := s.guardSet o
  let th := (s.grd o).therm
  let (re, tm, sq) := pilotResult ws th.acc th.frames
  let s := s.setGrd o { s.grd o with therm := { th with acc := [], frames := 0, spoiled := false } }
  if th.spoiled || !s.modelOn o 2 0x0C || decide (f32Mag sq * 10000 < 2 ^ 149) then s
  else
    let s := s.wr (F.GUARD_OUTo_RE_MEAS o) (f32Fixed re 12 0 65535).toNat
    let rt := coilRe ws th.tvc
    if f32Lt re (f32Mul 0x3F000000 rt) || f32Lt (f32Mul 0x40000000 rt) re then (s.ev (A.DIAG_OUTo_EVENT o) 6).raise 9 o 0x21 0 false
    else
      let off := f32Sub tm th.tvc
      let s := s.when (f32Lt (setWord ws 29) (f32Abs off)) (fun s => s.disagree o)
      let d1 := f32Add th.dt1 (f32Mul (setWord ws 27) off)
      let th := { (s.grd o).therm with dt1 := d1, tvc := thermSum (u16 e 0x12) (d1, th.dt2), age := 0 }
      let s := s.setGrd o { s.grd o with therm := th }
      let s := (s.wrI (F.GUARD_OUTo_THERM_TMEAS o) (f32Temp tm)).wr (F.GUARD_OUTo_STAT_PILOT_OK o) 1
      s.wr (F.GUARD_OUTo_STAT_MARGIN o) 0

/-- The stale rule of R300. -/
def State.pilotStale (s : State) (o : Nat) (e : List (BitVec 8)) : State :=
  if s.framesOf (u16 e 0x18) ≤ (s.grd o).therm.age then
    let t := s.wr (F.GUARD_OUTo_STAT_PILOT_OK o) 0
    if t.on (F.GUARD_OUTo_STAT_MARGIN o) then t else (t.wr (F.GUARD_OUTo_STAT_MARGIN o) 1).ev (A.GUARD_OUTo_EVENT o) 7
  else s

/-- The reduction A in dB after a frame (R299): at once upwards, by at most TH_REL downwards. -/
def thermAtt (ws : List (BitVec 32)) (fa : Nat) (soft tvc before : BitVec 32) : BitVec 32 :=
  let goal := if f32Lt soft tvc then f32Min (setWord ws 25) (f32Mul (setWord ws 24) (f32Sub tvc soft)) else 0
  f32Max goal (f32Sub before (f32Mul (setWord ws 26) (f32Div (f32Nat 32) (f32Nat fa))))

/-- The reduction of R299 from T_vc, and its events. -/
def State.thermReduce (s : State) (o : Nat) : State :=
  let th := (s.grd o).therm
  let att := thermAtt (s.guardSet o) s.fa (s.thermLimit o 22) th.tvc th.att
  let begins := decide (0 < f32Int att) && !decide (0 < f32Int th.att)
  let hot := !f32Lt th.tvc (s.thermLimit o 23)
  let own := if f32Abs att = 0 then f32One else Config.dbToGain (f32Neg att)
  let s := s.setGrd o { s.grd o with therm := { th with att := att, own := own, hot := hot } }
  let s := s.when begins (fun s => s.ev (A.GUARD_OUTo_EVENT o) 4)
  let s := s.when hot (fun s => s.ev (A.GUARD_OUTo_EVENT o) 5)
  s.when (hot && !th.hot) (fun s => s.raise 8 o 5 0 true)

/-- The temperatures after the frames in which the models stood (R307): the coil at P = PVDD² ÷ RE_REF. -/
def State.thermResume (s : State) (o : Nat) (th : ThermSt) : ThermSt :=
  match th.stopped with
  | none => th
  | some n =>
    let ws := s.guardSet o
    let pvdd := f32OfFix (s.rd F.LOOP_PVDDSTAT_VOLTS) 10
    let d := thermFrames ws s.fa (f32Div (f32Mul pvdd pvdd) (setWord ws 1)) n (th.dt1, th.dt2)
    { th with stopped := none, dt1 := d.1, dt2 := d.2 }

/-- The thermal model of output `o` over one F32 frame (R298 to R300), the models running. -/
def State.thermFrame (s : State) (o : Nat) (e : List (BitVec 8)) : State :=
  let ws := s.guardSet o
  let th := s.thermResume o (s.grd o).therm
  let (v, i) := s.guardSamples o
  let il := loadCurrent (u16 e 0x10) s.fa th.vLast v i
  let power := f32Mul (coilRe ws (thermSum (u16 e 0x12) (th.dt1, th.dt2))) (meanSquare il)
  let d := thermUpdate ws s.fa power (th.dt1, th.dt2)
  let th := { th with
    dt1 := d.1, dt2 := d.2, tvc := thermSum (u16 e 0x12) d, vLast := v.getLastD 0, age := th.age + 1, frames := th.frames + 1,
    spoiled := th.spoiled || s.frameSpoiled o, acc := pilotSums (u16 e 0x14) s.fa th.pilotN th.acc v il }
  let s := s.setGrd o { s.grd o with therm := th }
  let n := (u16 e 0x14 + 511) / 512
  let s := s.when (decide (n * 256 * s.fa ≤ th.frames * 32 * u16 e 0x14)) (fun s => s.pilotMeasure o e)
  let s := (s.pilotStale o e).thermReduce o
  let s := s.wr (F.GUARD_OUTo_RE_AGE o) (min 65535 ((s.grd o).therm.age * 32 / s.fa))
  s.wrI (F.GUARD_OUTo_THERM_TVC o) (f32Temp (s.grd o).therm.tvc)

/-- The models of output `o` stop, or stay stopped (R307). -/
def State.modelsStop (s : State) (o : Nat) : State :=
  let th := (s.grd o).therm
  match th.stopped with
  | some n => s.setGrd o { s.grd o with therm := { th with stopped := some (n + 1) } }
  | none =>
    let t := s.setGrd o { s.grd o with therm := { th with stopped := some 0, spoiled := true } }
    ((t.wr (F.GUARD_OUTo_STAT_CLAMP_ONLY o) 1).ev (A.GUARD_OUTo_EVENT o) 10).raise 8 o 7 0 true

/-- The terminal gain of output `o`: the smallest of its link group (R302). -/
def State.linkedGain (s : State) (o : Nat) : BitVec 32 :=
  let own (p : Nat) := (s.grd p).therm.own
  match s.guardEntry o with
  | none => f32One
  | some e =>
    if u8 e 6 = 0 then own o
    else ((s.polEntries 8).filter (fun x => u8 x 6 == u8 e 6)).foldl
      (fun g x => if f32Mag (own (u8 x 0)) < f32Mag g then own (u8 x 0) else g) (own o)

/-- The thermal models of every output at an F32 glue-up, and the status of both models (R298 to R307). Without a channel
bound they hold their state (log entry 108); models that have stopped resume once the paths are valid again. The terminal gain of the
frame just committed takes effect where that starts to play. -/
def State.guardFrame (s : State) : State :=
  let s := s.forEach (s.polEntries 8) (fun e t =>
    let o := u8 e 0
    let th := t.modelOn o 0 9
    let ex := t.modelOn o 1 0x0A
    let lost := (th || ex) && (t.pathsLost o || ((t.grd o).therm.stopped.isSome && !t.pathsValid o))
    let t := (t.wrB (F.GUARD_OUTo_STAT_THERM o) (th && !lost)).wrB (F.GUARD_OUTo_STAT_EXC o) (ex && !lost)
    if lost then t.modelsStop o
    else if (t.guardInputs o).isEmpty then t
    else
      let t := t.wr (F.GUARD_OUTo_STAT_CLAMP_ONLY o) 0
      let t := if th then t.thermFrame o e else t.setGrd o { t.grd o with therm := { (t.grd o).therm with stopped := none } }
      t.setGrd o { t.grd o with gxOnes := if (t.grd o).gx = f32One then (t.grd o).gxOnes + 1 else 0 })
  s.forEach (s.polEntries 8) (fun e t =>
    let o := u8 e 0
    let g := t.linkedGain o
    let t := t.setGrd o { t.grd o with therm := { (t.grd o).therm with gthNext := some g } }
    (t.wr (F.GUARD_OUTo_GAIN_GTH o) (f32Gain g)).wr (F.GUARD_OUTo_GAIN_GX o) (f32Gain (t.grd o).gx))

/-- At an F32 boundary the terminal gain and the pilot of a committed frame go on; with a concealed one they repeat (R288, R308). -/
def State.guardBoundary (s : State) : State :=
  s.forEach (s.polEntries 8) (fun e t =>
    let x := t.grd (u8 e 0)
    match x.therm.gthNext with
    | none => t
    | some g => t.setGrd (u8 e 0) { x with
        therm := { x.therm with gth := g, gthPrev := x.therm.gth, gthNext := none, pilotN := x.therm.pilotN + 32 } })

/-! ### The excursion model (R301) -/

/-- An excursion block within its frame: g_x, the target it moves to and the samples left, the committed model state, the largest
|x| predicted in the frame, the samples held ahead, oldest first. -/
structure ExcRun where
  g : BitVec 32
  goal : BitVec 32
  left : Nat
  model : List (BitVec 32)
  peak : BitVec 32
  held : List (BitVec 32)
  deriving DecidableEq, Repr

/-- The state words of an excursion block: g_x, peak, target, samples left, x, dx/dt, i, then the samples held. -/
def ExcRun.ofWords (la : Nat) (st : List (BitVec 32)) : ExcRun :=
  let held := st.drop 7
  { g := st.getD 0 f32One, goal := st.getD 2 f32One, left := (st.getD 3 0).toNat, model := (st.drop 4).take 3, peak := 0,
    held := List.replicate (la - held.length) 0 ++ held.drop (held.length - la) }

/-- The state words of an excursion block. -/
def ExcRun.words (r : ExcRun) : List (BitVec 32) :=
  [r.g, r.peak, r.goal, BitVec.ofNat 32 r.left, r.model.getD 0 0, r.model.getD 1 0, r.model.getD 2 0] ++ r.held

/-- The largest |x| of a prediction: the committed state run on over samples at the present gain. -/
def excPeak (ws : List (BitVec 32)) (re vfs g : BitVec 32) (fa : Nat) : List (BitVec 32) → List (BitVec 32) → BitVec 32
  | m, [] => f32Abs (m.getD 0 0)
  | m, x :: xs => f32Max (f32Abs (m.getD 0 0)) (excPeak ws re vfs g fa (Config.excursionStep ws re fa m (f32Mul (f32Mul g x) vfs)) xs)

/-- g_x after a sample: on its way to the target of a reduction, else rising at EXC_REL. -/
def ExcRun.gain (r : ExcRun) (ws : List (BitVec 32)) (fa : Nat) : ExcRun :=
  if r.left = 0 then
    if r.g = f32One then r
    else { r with g := f32Min f32One (f32Mul r.g (Config.dbToGain (f32Div (setWord ws 31) (f32Nat fa)))) }
  else if r.left = 1 then { r with g := r.goal, left := 0 }
  else { r with g := f32Add r.g (f32Div (f32Sub r.goal r.g) (f32Nat r.left)), left := r.left - 1 }

/-- One sample of the block (R301): it enters the samples held ahead, the oldest leaves with g_x and drives the committed state; a
predicted peak beyond X_LIM sets a target of g_x × X_LIM ÷ peak, to be reached over EXC_LA samples. -/
def ExcRun.step (r : ExcRun) (ws : List (BitVec 32)) (re vfs : BitVec 32) (fa : Nat) (x : BitVec 32) : ExcRun × BitVec 32 :=
  let line := r.held ++ [x]
  let y := f32Mul r.g (line.headD 0)
  let r := { r with held := line.tail, model := Config.excursionStep ws re fa r.model (f32Mul y vfs) }
  let peak := excPeak ws re vfs r.g fa r.model r.held
  let r := { r with peak := f32Max r.peak peak }
  let goal := f32Div (f32Mul r.g (setWord ws 17)) peak
  if f32Lt (setWord ws 17) peak && (r.left == 0 || f32Lt goal r.goal) then
    if r.held = [] then ({ r with g := goal, goal := goal, left := 0 }, y)
    else (({ r with goal := goal, left := r.held.length }.gain ws fa), y)
  else (r.gain ws fa, y)

/-- The block over its samples. -/
def ExcRun.run (ws : List (BitVec 32)) (re vfs : BitVec 32) (fa : Nat) : ExcRun → List (BitVec 32) → ExcRun × List (BitVec 32)
  | r, [] => (r, [])
  | r, x :: xs =>
    let a := r.step ws re vfs fa x
    let b := ExcRun.run ws re vfs fa a.1 xs
    (b.1, a.2 :: b.2)

/-- The samples held pass with a g_x that stands while the models are stopped (R307). -/
def ExcRun.pass (r : ExcRun) (xs : List (BitVec 32)) : ExcRun × List (BitVec 32) :=
  let line := r.held ++ xs
  ({ r with held := line.drop xs.length }, (line.take xs.length).map (fun x => f32Mul r.g x))

/-- An excursion block over a frame (R301, R307): T_vc from the thermal model, or T_REF without one; the set in effect (R306). -/
def State.excursionRun (s : State) (o : Nat) (st xs : List (BitVec 32)) : List (List (BitVec 32)) × List (BitVec 32) :=
  let ws := s.guardSet o
  let la := f32Mag (setWord ws 30) / 2 ^ 149
  let temp := if s.on (F.GUARD_OUTo_STAT_THERM o) then (s.grd o).therm.tvc else setWord ws 2
  let r := ExcRun.ofWords la st
  let a := if s.on (F.GUARD_OUTo_STAT_CLAMP_ONLY o) then r.pass xs
           else r.run ws (coilRe ws temp) (f32OfFix (s.rd (F.MOD_OUTo_CFG_VFS o)) 10) s.fa xs
  ([a.2], a.1.words)

/-- An excursion block has run a frame: g_x and the predicted peak, and the first reduction after the gain was 1 is an event
(R301). -/
def State.excursionDone (s : State) (o : Nat) (st : List (BitVec 32)) : State :=
  let gx := st.getD 0 f32One
  let was := (s.grd o).gx
  let t := s.setGrd o { s.grd o with gx := gx, gxOnes := if gx = f32One then (s.grd o).gxOnes else 0 }
  let t := t.when (was == f32One && decide (f32Int gx < 2 ^ 149)) (fun t => t.ev (A.GUARD_OUTo_EVENT o) 6)
  t.peak (F.GUARD_OUTo_XPRED_PEAK o) (clampInt 0 65535 (roundQ (f32Int (st.getD 1 0) * 1000000) (2 ^ 149))).toNat

/-! ### The terminal (R288, R300) -/

/-- The pilot sample that the terminal of output `o` adds (R288, R300): PILOT_V × sine ÷ VFS; 0 unless PILOT is set, its
block runs and the governor grants its power (R365). -/
def State.pilot (s : State) (o n : Nat) : BitVec 32 :=
  match s.guardEntry o with
  | some e =>
    if s.modelOn o 2 0x0C && !(s.gout o).p3Refused then
      f32Div (f32Mul (pilotSine (u16 e 0x14) s.fa n 0) (f32OfFix (u16 e 0x16) 10)) (f32OfFix (s.rd (F.MOD_OUTo_CFG_VFS o)) 10)
    else 0
  | none => 0

/-- A speaker terminal's sample `i` of its F32 frame (R288): × g_th, moving linearly over the frame, plus the pilot, then the
limit of R124. -/
def State.terminalSample (s : State) (o i : Nat) (x : BitVec 32) : BitVec 32 :=
  let th := (s.grd o).therm
  f32Limit (f32Add (f32Mul x (moveAt th.gthPrev th.gth i)) (s.pilot o (th.pilotN + i)))

end Sys2Proof.Machine
end

