-- ==== Sys2Proof/Machine/Modulator.lean ====
section
/-!
DEFINITION. Machine/Modulator.lean: carriers, leg duties and edges of the modulators (R181 to R184).
-/

namespace Sys2Proof.Machine

open Sys2Proof

/-- The carrier period in MOD cycles of a carrier code (R181). -/
def carrierPeriod (code : Nat) : Nat :=
  if code = 0 then 1440 else if code = 1 then 1280 else if code = 2 then 1120 else if code = 3 then 960 else 240

/-- The carrier of a die runs: PLL A is locked and its die out of reset (R17, R19). -/
def State.carrierOn (s : State) : Bool := !s.sys.dieHeld && s.on F.SYS_CLKSTAT_PLLA_LOCK

/-- Channel `c` is the upper one of a dovetailed pair with both channels at work. -/
def State.upperOf (s : State) (c : Nat) : Bool := c % 2 == 1 && decide ((s.live (c - 1)).length = 2)

/-- The carrier phase of a channel (R184); the upper channel of a dovetailed pair takes that of the lower. -/
def State.carrierPhase (s : State) (c : Nat) : Nat :=
  let c := if s.upperOf c then c - 1 else c
  let d := c / 8
  let p := carrierPeriod (s.rd (F.MOD_DIEd_CFG_CARRIER d))
  let n := 2 * (c % 8) + c / 8
  let il := s.rd (F.MOD_DIEd_CFG_INTERLEAVE d)
  if il = 1 then (if s.on (F.MOD_DIEd_CFG_LEVELS d) then n * p / 32 else n * p / 16)
  else if il = 2 then s.rd (F.MOD_PHASEc_CUSTOM c)
  else 0

/-! ### Legs (R182, R183) -/

/-- A leg of a bridge: it is high, its quantisation residue (2^−19 MOD cycles), it was held at a limit in this carrier period, and in
this control period. -/
structure Leg where
  high : Bool
  res : Nat
  held : Bool
  hit : Bool
  deriving DecidableEq, Repr

/-- MOD cycles that a leg is high in half a carrier period of `per` cycles, by its duty in units of 2^−18 and the residue carried;
the residue it leaves; whether the limit of MIN_PULSE holds it. The residue is carried from edge to edge (DESIGN CHOICE, log entry
166). -/
def legHalf (per minPulse duty res : Nat) : Nat × Nat × Bool :=
  let x := duty * per + res
  let lo := (minPulse + 1) / 2
  let hi := per / 2 - lo
  let q := x / 2 ^ 19
  if q < lo then (lo, 0, true) else if hi < q then (hi, 0, true) else (q, x % 2 ^ 19, false)

/-- One MOD cycle of a leg at a place of the triangle: it rises in the first half period, falls in the second (R182). -/
def Leg.cycle (l : Leg) (per minPulse duty pos : Nat) : Leg :=
  let h := legHalf per minPulse duty l.res
  if pos < per / 2 then
    if !l.high && decide (per / 2 ≤ pos + h.1) then { high := true, res := h.2.1, held := l.held || h.2.2, hit := l.hit || h.2.2 } else l
  else if l.high && decide (per / 2 + h.1 ≤ pos) then { high := false, res := h.2.1, held := l.held || h.2.2, hit := l.hit || h.2.2 }
  else l

/-- The command in effect at cycle `i` of a control period for a channel of slot `j`: the latest that reached MOD at least 4 cycles
before (R182, R204): this control period's, the last one's or the one's before. -/
def commandAt (j i : Nat) (now last before : Int) : Int :=
  if 10 * j + 18 ≤ i then now else if i + 40 < 10 * j + 18 then before else last

/-- Leg duties of a command in units of 2^−18 (R182): (1 + u) ÷ 2 and (1 − u) ÷ 2; both rise from 0 to one half in a common-mode
ramp (R191). -/
def State.legDuty (s : State) (c : Nat) (legN : Bool) (u : Int) : Nat :=
  let half : Int := match s.outOf c with
    | some o =>
      let total := s.rd F.MOD_RAMP_CM_RAMP_MS * 12288
      if (s.oState o = oCmUp ∨ s.oState o = oCmDown) ∧ total ≠ 0 then roundQ (2 ^ 17 * (min (s.out o).cm total : Nat)) total else 2 ^ 17
    | none => 2 ^ 17
  (half + (if legN then -u else u)).toNat

/-- The output is in its common-mode ramp. -/
def State.cmRamp (s : State) (c : Nat) : Bool :=
  match s.outOf c with
  | some o => decide (s.oState o = oCmUp ∨ s.oState o = oCmDown)
  | none => false

/-- The bridge of channel `c` over the 40 MOD cycles of a control period: in two-level mode leg N is the complement of leg P (R182). -/
def State.legsRun (s : State) (c : Nat) : Leg × Leg :=
  let d := c / 8
  let b := s.bridge c
  let per := carrierPeriod (s.rd (F.MOD_DIEd_CFG_CARRIER d))
  let minPulse := s.rd (F.MOD_DIEd_CFG_DEADTIME d) + 8
  let three := s.on (F.MOD_DIEd_CFG_LEVELS d) || s.cmRamp c
  let j := (if s.upperOf c then c - 1 else c) % 4
  (List.range 40).foldl (fun (l : Leg × Leg) i =>
    let pos := (40 * s.loop.carrier + i + per - s.carrierPhase c) % per
    let u := commandAt j i (s.lch c).u b.cmdLast b.cmdBefore
    let p := l.1.cycle per minPulse (s.legDuty c false u) pos
    let n := if three then l.2.cycle per minPulse (s.legDuty c true u) pos else { l.2 with high := !p.high }
    if pos + 1 = per then ({ p with held := false }, { n with held := false }) else (p, n))
    ({ high := b.highP, res := b.resP, held := b.heldP, hit := false }, { high := b.highN, res := b.resN, held := b.heldN, hit := false })

/-- A carrier period of channel `c` ends within this control period. -/
def State.carrierEnds (s : State) (c : Nat) : Bool :=
  let per := carrierPeriod (s.rd (F.MOD_DIEd_CFG_CARRIER (c / 8)))
  decide (per ≤ (40 * s.loop.carrier + per - s.carrierPhase c) % per + 40)

/-- The modulator of channel `c` over a control period (R182, R183): edges, residues, the report of a leg at a limit to the lane; a
carrier period in which a leg was held is counted at its first hold and sets SAT. -/
def State.modStep (s : State) (c : Nat) : State :=
  let b := s.bridge c
  if s.rd (F.MOD_CHc_STAT_BRIDGE c) ≠ 1 then
    (s.setBridge c { b with highP := false, highN := false, resP := 0, resN := 0, heldP := false, heldN := false, cmdBefore := 0,
                            cmdLast := 0 }).setLch c { s.lch c with legLimit := false }
  else
    let r := s.legsRun c
    let hit := r.1.hit || r.2.hit
    let fresh := hit && !(b.heldP || b.heldN) || (hit && s.carrierEnds c && (r.1.held || r.2.held))
    let t := s.setBridge c { b with
      highP := r.1.high, highN := r.2.high, resP := r.1.res, resN := r.2.res, heldP := r.1.held, heldN := r.2.held,
      cmdBefore := b.cmdLast, cmdLast := (s.lch c).u }
    let t := t.setLch c { t.lch c with legLimit := hit }
    if !fresh then t
    else
      let t := t.bump (F.MOD_CHc_CNT_SAT c)
      match t.outOf c with
      | some o => t.ev (A.MOD_OUTo_EVENT o) 7
      | none => t

/-- Both modulators over a control period; their common count of the carriers goes on (R181, R184). 2016 control samples hold a whole
number of periods of every carrier. -/
def State.modulators (s : State) : State :=
  let t := s.forAll 16 (fun c t => t.modStep c)
  { t with loop := { t.loop with carrier := (t.loop.carrier + 1) % 2016 } }

end Sys2Proof.Machine
end

