-- ==== Sys2Proof/Machine/Lane.lean ====
section
/-!
DEFINITION. Machine/Lane.lean: one control sample of the sixteen lanes' channels: reference, governor gain, clamp stage,
compensator, fallback path, repetitive correction, duty, saturation flags, trace (R202 to R225, R227, R231 to R234, R243).
-/

namespace Sys2Proof.Machine

open Sys2Proof

/-! ### Lane arithmetic (R205, R207) -/

/-- Saturation at `n` bits of two's complement: the value, and whether it saturated. -/
def satN (n : Nat) (x : Int) : Int × Bool :=
  let y := clampInt (-(2 ^ (n - 1))) (2 ^ (n - 1) - 1) x
  (y, decide (y ≠ x))

/-- A product of a Q4.27 and a Q6.25 word: exact Q11.52, rounded to Q11.36 by adding 2^−37 and truncating. -/
def laneMul (a x : Int) : Int := (a * x + 2 ^ 15) / 2 ^ 16

/-- Rounding of Q11.36 to Q6.25: half a step added, truncated, saturated. -/
def toQ25 (x : Int) : Int × Bool := satN 32 ((x + 2 ^ 10) / 2 ^ 11)

/-- Rounding of Q11.36 to Q0.17. -/
def toQ17 (x : Int) : Int × Bool := satN 18 ((x + 2 ^ 18) / 2 ^ 19)

/-- A 48-bit accumulation of products; whether any step saturated. -/
def laneAcc : List Int → Int × Bool → Int × Bool
  | [], a => a
  | p :: t, a =>
    let r := satN 48 (a.1 + p)
    laneAcc t (r.1, a.2 || r.2)

/-- The bits of saturated nodes, node 0 first (R222). -/
def nodeMask (bs : List Bool) : Nat := bs.foldr (fun b acc => (if b then 1 else 0) + 2 * acc) 0

/-! ### The scale G (R211) -/

/-- A look-ahead block feeds the terminal of output `o`. -/
def State.laFeeds (s : State) (o : Nat) : Bool :=
  match s.dsp.graph.lookahead with
  | some b => s.dsp.graph.terms.any (fun t => t.kind == 2 && t.number == o && t.inst == b.inst)
  | none => false

/-- The static scale 1 ÷ LOOP_PVDDSTAT, Q4.27. -/
def State.staticScale (s : State) : Nat :=
  let v := s.rd F.LOOP_PVDDSTAT_VOLTS
  if v = 0 then 2 ^ 31 - 1 else min (2 ^ 31 - 1) (roundN (2 ^ 37) v)

/-- Control samples of an F32 frame. -/
def State.frameSamples (s : State) : Nat := 32 * 12288000 / s.fa

/-- G of channel `c` of output `o`. -/
def State.scaleOf (s : State) (o c : Nat) : Nat :=
  if s.on (F.LOOP_CHc_CFG_SCALE_SRC c) || !s.laFeeds o then s.staticScale
  else
    match s.loop.scales with
    | [] => s.staticScale
    | g :: _ => s.loop.scales.getD (min 31 (32 * s.loop.csFrame / s.frameSamples)) g

/-! ### The correction q (R231, R232) -/

/-- The channel whose controller serves channel `c` (R240). -/
def State.rcIndex (s : State) (c : Nat) : Nat :=
  if c % 2 = 1 ∧ s.on (F.LOOP_CHc_STAT_DEGRADED c) then c - 1 else c

/-- The bins in use for a period (R231). -/
def binsOf (p w : Nat) : Nat := (p + w * 2 ^ 14 - 1) / (w * 2 ^ 14)

/-- The correction of the controller of channel `c` (R232), faded in FADE (R238). -/
def State.correction (s : State) (c : Nat) : Int :=
  let x := s.rc c
  let st := s.rcState c
  if st < rcLearning ∨ x.p = 0 then 0
  else
    let w := s.binW c * 2 ^ 14
    let pos := (x.since + getField x.gain 16 8 * 2 ^ 14) % x.p
    let k := pos / w
    let nb := binsOf x.p (s.binW c)
    let a := Tbl.get 0 x.table k
    let b := Tbl.get 0 x.table (if k + 1 < nb then k + 1 else 0)
    let q := a + roundQ ((b - a) * (pos % w : Nat)) w
    let q := if st = rcFade ∧ x.fadeLen ≠ 0 then roundQ (q * x.fadeLeft) x.fadeLen else q
    clampInt (-(s.qLim c)) (s.qLim c) q

/-- The bin of channel `c` at `n` units of 2^−14 control samples after the period start (R231). -/
def State.binAt (s : State) (c n : Nat) : Nat :=
  (if (s.rc c).p = 0 then 0 else n % (s.rc c).p) / (s.binW c * 2 ^ 14)

/-- One control sample of the controller of channel `c` (R233, R238): error `e` of a sample that counts or does not. A
step to the tracker's phase waits for the bin boundary (R237). -/
def State.rcSample (s : State) (c : Nat) (e : Int) (counts : Bool) : State :=
  let x := s.rc c
  let st := s.rcState c
  let learns := decide (st = rcLearning ∨ st = rcConverged)
  let t := if s.binAt c x.since = x.bin then s
    else
      let t := if learns then s.binUpdate c else s
      let since := x.step.getD x.since
      t.setRc c { t.rc c with since := since, step := none, bin := s.binAt c since, sum := 0, cnt := 0 }
  let y := t.rc c
  let take := learns && counts && !s.on (F.LOOP_RC_CHc_CTRL_FREEZE c)
  t.setRc c { y with
    since := y.since + 2 ^ 14, step := y.step.map (· + 2 ^ 14), fadeLeft := if st = rcFade then y.fadeLeft - 1 else y.fadeLeft,
    sum := if take then y.sum + e else y.sum, cnt := if take then y.cnt + 1 else y.cnt }

/-! ### Saturation flags (R222) -/

/-- The nodes that saturated in this sample reach the sticky flags, the counts and the trace triggers; a sample already counted is
not counted again. -/
def State.nodesSet (s : State) (c m : Nat) (counted : Bool) : State :=
  let old := s.rd (F.LOOP_CHc_STICKY_NODES c)
  if m = 0 then s
  else
    let new := m &&& (old ^^^ 0xFFF)
    let first := ((List.range 12).find? (fun k => new.testBit k)).getD 0
    let t := s.wr (F.LOOP_CHc_STICKY_NODES c) (old ||| m)
    let t := if old = 0 then t.wr (F.LOOP_CHc_STICKY_FIRST c) first else t
    let t := if new = 0 then t else t.ev A.LOOP_EVENT 8
    (if counted then t else t.bump (F.LOOP_CHc_SATCNT_SAT_SAMPLES c)).traceChannel c 5

/-! ### Detections of a slot (R223, R224, R227, R241, R295) -/

/-- The cycles C0 to C4 with mismatches. -/
def faultCycles (fs : List LaneFault) : List (Fin 5) :=
  (fs.filterMap (fun f => match f with
    | .mac k _ => some k
    | _ => none)).eraseDups

/-- Both subtractors of C0 fail. -/
def subtractorsFail (fs : List LaneFault) : Bool := fs.contains (.subtractor false) && fs.contains (.subtractor true)

/-- A recomputed operation fails again, in the lane or in the repetitive unit, or both copies of a word fail. -/
def repeatFails (fs : List LaneFault) : Bool :=
  fs.any (fun f => match f with
    | .mac _ again => again
    | .form again => again
    | .repetitive again => again
    | .word _ both => both
    | _ => false)

/-- The sample is held (R223, R224, R227): mismatches in two or more of C0 to C4, both subtractors, a repeat that fails, both copies
of a word. Answers whether the subtractors fail. -/
def heldBy (fs : List LaneFault) : Option Bool :=
  if subtractorsFail fs then some true
  else if 2 ≤ (faultCycles fs).length ∨ repeatFails fs = true then some false
  else none

/-- A mismatch of the lane that its recompute slot recovers (R223). -/
def recoveredBy (fs : List LaneFault) : Bool :=
  (heldBy fs).isNone && fs.any (fun f => match f with
    | .mac _ _ => true
    | .form _ => true
    | _ => false)

/-- The effects of a slot's faults beside the arithmetic. -/
def State.laneFaults (s : State) (c : Nat) (fs : List LaneFault) : State :=
  let l := c / 4
  let s := if recoveredBy fs then
      (((s.ev A.LOOP_EVENT 12).bump ⟨A.LOOP_RESCNT, 8 * l, 8⟩).raise 4 l 1 0 false).traceChannel c 8
    else s
  let s := if (heldBy fs).isSome then
      (((((s.ev A.LOOP_EVENT 13).bump ⟨A.LOOP_UNRECCNT, 8 * l, 8⟩).bump (F.LOOP_CHc_SATCNT_HELD c)).raise 4 l 2 0 false)).traceChannel
        c 8
    else s
  s.forEach fs (fun f t =>
    match f with
    | .word true false => t.raise 4 l 3 0 false
    | .clampStage => t.raise 4 l 5 0 true
    | .repetitive false => t.raise 4 l 6 0 false
    | .tableWord _ false => t.raise 4 l 7 0 false
    | .tableWord bin true =>
      let k := t.rcIndex c
      let t := t.setRc k { t.rc k with table := Tbl.set 0 (t.rc k).table bin 0 }
      ((t.ev A.LOOP_EVENT 31).bump F.LOOP_RC_CNT_BIN_LOST).raise 4 l 4 0 false
    | _ => t)

/-! ### One slot -/

/-- What the lane forms in cycles C0 to C6 (R206, R212): the nodes are those of R222. -/
structure LaneEval where
  e : Int
  yMain : Int
  yFb : Int
  y : Int
  w : Int
  u : Int
  nodes : Nat
  /-- a saturation as R213 counts it, node MI among them or not -/
  sat : Bool
  mi : Bool

/-- y_fb of an error by the fallback table (R212). -/
def State.fallbackOf (s : State) (c : Nat) (e : Int) : Int × Bool :=
  let sh := s.rd (F.LOOP_CHc_CFG_FB_SHIFT c)
  let m := e.natAbs
  let k := min 63 (m / 2 ^ sh)
  let d : Int := (m : Int) - k * 2 ^ sh
  let y := toQ25 ((s.reg (A.LOOP_CHc_FBk c k)).toInt * 2 ^ 11 + laneMul (s.reg (A.LOOP_CHc_FBk_SLOPE c k)).toInt d)
  (if e < 0 then (satN 32 (-y.1)).1 else if e = 0 then 0 else y.1, y.2)

/-- The modulator reported a leg of a channel that `c` evaluates for at its limit (R213): of a pair, either bridge. -/
def State.legReport (s : State) (c : Nat) : Bool := (s.lch c).legLimit || (s.upperOf (c + 1) && (s.lch (c + 1)).legLimit)

/-- The evaluation of the bank in effect on channel `c`'s history (R206): reference, voltage, q, G, the reference node. -/
def State.laneEval (s : State) (c : Nat) (r v q : Int) (g : Nat) (ref : Bool) : LaneEval :=
  let x := s.lch c
  let k (i : Nat) : Int := (s.bankWord c (s.bank c) i).toInt
  let shift := getField (s.bankWord c (s.bank c) 0) 2 2
  let (e, nE) := satN 32 (r - v)
  let (accA, nA) := laneAcc [laneMul (k 1) e, laneMul (k 2) x.e1, laneMul (k 3) x.e2, laneMul (k 4) x.e3] (0, false)
  let (accB, nB) := laneAcc [laneMul (k 5) x.y1, laneMul (k 6) x.y2, laneMul (k 7) x.y3] (0, false)
  let (sh, nS) := satN 48 (accA * 2 ^ shift)
  let (yMain, nY) := toQ25 (sh - accB)
  let (yFb, nF) := s.fallbackOf c e
  let y := if x.fallback then yFb else yMain
  let (ff, nFF) := toQ25 (laneMul (k 8) r)
  let (w, nW) := satN 32 (y + ff - q)
  let (u0, nU) := toQ17 (laneMul g w)
  let lim : Int := s.rd (F.MOD_DIEd_CFG_MI_MAX (c / 8)) * 2
  let u := clampInt (-lim) lim u0
  let nMi := decide (u ≠ u0) || s.legReport c
  { e := e, yMain := yMain, yFb := yFb, y := y, w := w, u := u, mi := nMi, sat := nA || nB || nS || nY || nMi,
    nodes := nodeMask [nE, nA, nB, nS, nY, nF, nFF, nW, nU, nMi, false, ref] }

/-- The path in effect for the next sample (R213, R214). -/
def State.pathNext (s : State) (c : Nat) (v : LaneEval) : State :=
  let x := s.lch c
  let b := s.bank c
  let w12 := s.bankWord c b 12
  let enter := (s.bankWord c b 9).toInt
  let exit' := (s.bankWord c b 10).toInt
  let back := (s.bankWord c b 11).toInt
  let nEnter := if enter ≤ v.e.natAbs then x.nEnter + 1 else 0
  let nSat := if v.sat then x.nSat + 1 else 0
  let nExit := if v.e.natAbs ≤ exit' ∧ !v.sat ∧ ((v.yMain - v.yFb).natAbs : Int) ≤ back then x.nExit + 1 else 0
  if !x.fallback then
    let bySat := decide (getField w12 8 8 ≤ nSat)
    if s.on (F.LOOP_CHc_CFG_FB_EN c) && (decide (getField w12 0 8 ≤ nEnter) || bySat) then
      let t := s.setLch c { x with fallback := true, nEnter := 0, nSat := 0, nExit := 0 }
      let t := ((t.ev A.LOOP_EVENT 4).bump (F.LOOP_CHc_SATCNT_FB_ENTRIES c)).traceChannel c 4
      if bySat && v.mi then
        (((t.ev A.LOOP_EVENT 16).ev A.GOV_EVENT 10).bump F.GOV_CNT_PVDD_EPISODES).raise 0xB ((s.outOf c).getD 0) 5 0 false
      else t
    else s.setLch c { x with nEnter := nEnter, nSat := nSat, nExit := 0 }
  else if getField w12 16 16 ≤ nExit then
    (s.setLch c { x with fallback := false, nEnter := 0, nSat := 0, nExit := 0 }).ev A.LOOP_EVENT 5
  else s.setLch c { x with nEnter := 0, nSat := 0, nExit := nExit }

/-- The history takes this sample (R208), and the record keeps the nodes for the trace. -/
def LoopCh.take (x : LoopCh) (r v i q : Int) (g : Nat) (z : LaneEval) : LoopCh :=
  { x with e3 := x.e2, e2 := x.e1, e1 := z.e, y3 := x.y2, y2 := x.y1, y1 := z.y, u := z.u, r := r, v := v, e := z.e, i := i,
           yMain := z.yMain, yFb := z.yFb, w := z.w, q := q, g := g, nodes := z.nodes }

/-- A held sample (R223): u and the trims are reissued, the e history takes the checked e or repeats the last, the y history
repeats the last. -/
def LoopCh.hold (x : LoopCh) (r v i e : Int) (subtractors : Bool) : LoopCh :=
  let e := if subtractors then x.e1 else e
  { x with e3 := x.e2, e2 := x.e1, e1 := e, y3 := x.y2, y2 := x.y1, r := r, v := v, e := e, i := i, nodes := 0 }

/-- The slot of an idle channel (R208): u is 0, the history is held at zero. -/
def State.slotIdle (s : State) (c : Nat) : State :=
  (s.setLch c { LoopCh.reset with trim := (s.lch c).trim, v := (s.sin c).value, i := (s.sin (16 + c)).value }).wr
    (F.LOOP_CHc_STAT_MODE c) 0

/-- The slot of a survivor while both bridges of its pair demagnetise (R195): u is 0, the history stays, so the survivor goes on from
the pair's state (R198, R221). -/
def State.slotWait (s : State) (c : Nat) : State :=
  (s.setLch c { s.lch c with u := 0, v := (s.sin c).value, i := (s.sin (16 + c)).value }).wr (F.LOOP_CHc_STAT_MODE c) 0

/-- What the slot of channel `c` issues at the end of C9 (R204, R220): u, or of a pair u + t to it and u − t to the upper channel. -/
def State.issue (s : State) (c : Nat) (u : Int) : State :=
  if !s.upperOf (c + 1) then s.setLch c { s.lch c with u := u }
  else
    let t := (s.lch c).trim
    (s.setLch c { s.lch c with u := (satN 18 (u + t)).1 }).setLch (c + 1) { s.lch (c + 1) with u := (satN 18 (u - t)).1 }

/-- The slot of a channel that evaluates its compensator. -/
def State.slotMain (s : State) (c o : Nat) (r : Int) (ref : Bool) (held : Option Bool) : State :=
  let v := (s.sin c).value
  let i := (s.sin (16 + c)).value
  let k := s.rcIndex c
  let q := s.correction k
  let g := s.scaleOf o c
  let z := s.laneEval c r v q g ref
  let s := s.peak (F.LOOP_RC_CHc_RESID_QPEAK k) (roundN q.natAbs (2 ^ 15))
  match held with
  | some sub =>
    let t := s.setLch c ((s.lch c).hold r v i z.e sub)
    (t.rcSample k z.e (!sub && !(s.lch c).fallback && !z.nodes.testBit 0)).wr (F.LOOP_CHc_STAT_MODE c) 4
  | none =>
    let fb := (s.lch c).fallback
    let t := (s.setLch c ((s.lch c).take r v i q g z)).issue c z.u
    let t := t.rcSample k z.e (!fb && !z.nodes.testBit 0)
    let t := (t.wr (F.LOOP_CHc_SCALE_G c) g).peak (F.LOOP_CHc_ERRPK_VALUE c) z.e.natAbs
    let t := (t.wr (F.LOOP_CHc_STAT_MODE c) (if fb then 2 else 1)).pathNext c z
    t.nodesSet c z.nodes false

/-- The balance trim limit 0.02 in Q0.17 (R220). -/
abbrev trimMax : Int := 2621

/-- The balance trim after a control sample (R207, R220): K_BAL (2^−24 per ampere) times the difference of the currents (Q5.26),
rounded to Q11.36 and to Q0.17, taken off; whether the limit holds it. -/
def trimNext (kBal : Nat) (trim iLow iUp : Int) : Int × Bool :=
  let p := (kBal * (satN 32 (iLow - iUp)).1 + 2 ^ 13) / 2 ^ 14
  let t := trim - (toQ17 p).1
  let t' := clampInt (-trimMax) trimMax t
  (t', decide (t' ≠ t))

/-- The slot of the upper channel of a pair (R220): I_env and the trim from both currents; what the modulator reports of its own legs
shows in its node MI. The trim stands on the lower channel. -/
def State.slotUpper (s : State) (c : Nat) (held : Bool) : State :=
  let lo := c - 1
  let x := s.lch lo
  let y := s.lch c
  let i := (s.sin (16 + c)).value
  let z := if held then (x.trim, false) else trimNext (s.rd (F.LOOP_CHc_CFG_K_BAL lo)) x.trim (s.sin (16 + lo)).value i
  let own := if y.legLimit then 512 else 0
  let s := s.setLch c { LoopCh.reset with u := y.u, v := (s.sin c).value, i := i, trim := z.1, nodes := own }
  let s := (s.setLch lo { s.lch lo with trim := z.1 }).wrI (F.LOOP_CHc_STAT_TRIM lo) z.1
  let s := (s.wr (F.LOOP_CHc_STAT_MODE c) (if held then 4 else 3)).nodesSet c own false
  if z.2 then s.nodesSet lo 1024 (x.nodes != 0) else s

/-- The current envelope of channel `c` (R185): the largest |i| of the last 12 control samples, about 1 µs. -/
def State.envelope (s : State) (c : Nat) : State :=
  let b := s.bridge c
  let w := ((s.sin (16 + c)).value.natAbs :: b.iEnv).take 12
  let t := s.setBridge c { b with iEnv := w }
  let m := w.foldl max 0
  if t.rd (F.MOD_CHc_STAT_BRIDGE c) = 1 then (t.shedLeg c false m).shedLeg c true m else t

/-- The slot of channel `c` with the reference of its output (R204). -/
def State.slot (s : State) (c : Nat) (r : Int) (ref : Bool) (fs : List LaneFault) : State :=
  let held := heldBy fs
  let t := (s.envelope c).laneFaults c fs
  let t := match t.outOf c with
    | none => t.slotIdle c
    | some o =>
      if !t.closedLoop c then
        (if (t.out o).demag && t.oState o != oTripped && (t.live o).contains c then t.slotWait c else t.slotIdle c)
      else if t.upperOf c then t.slotUpper c held.isSome
      else t.slotMain c o r ref held
  t

/-! ### The reference of an output (R209, R318, R365) -/

/-- PCLASS of output `o` (R150, R364): that of the block that drives its terminal; 3 without one. -/
def State.outClass (s : State) (o : Nat) : Nat :=
  match s.dsp.graph.terms.find? (fun t => t.kind == 2 && t.number == o) with
  | some t =>
    match s.dsp.graph.block t.inst with
    | some b => b.pclass
    | none => 3
  | none => 3

/-- g_gov of output `o` at this control sample, in units of 2^−31 (R365, R367). -/
def State.govGain (s : State) (o : Nat) : Nat :=
  let x := s.gout o
  let n := s.frameSamples
  let k := min n (s.loop.csFrame + 1)
  let g := ((x.gFrom : Int) + roundQ (((x.gTo : Int) - x.gFrom) * k) n).toNat
  match x.hu with
  | none => g
  | some j => if s.outClass o = 0 then g else roundN (g * (256 - min 256 j)) 256

/-- The sweep of output `o` sounds its tone (R318, R321): it has started, and its power is not refused. -/
def State.toneOn (s : State) (o : Nat) : Bool :=
  match s.sweep o with
  | some w => !(w.starting || w.paused || (s.gout o).p3Refused)
  | none => false

/-- The sweep tone of output `o`, Q6.25 V: SWEEP_V × sine (R318, R319); that of a sweep that playing ended fades. -/
def State.toneOf (s : State) (o : Nat) : Int :=
  let x := s.out o
  let v := roundQ (f32Int (Config.sine x.tonePhase (12288000 * 65536)) * (u16 s.diagGlobal 8 * 2 ^ 15)) (2 ^ 149)
  if s.toneOn o then v
  else if (s.sweep o).isSome || x.tone = 0 then 0
  else roundQ (v * x.tone) (64 * 12288000 / s.fa)

/-- The tone moves on by one control sample, phase-continuous from point to point (R319). -/
def State.toneStep (s : State) (o : Nat) : OutSt :=
  let x := s.out o
  let move (hz : Nat) : OutSt := { x with tonePhase := (x.tonePhase + hz) % (12288000 * 65536), toneHz := hz, tone := x.tone - 1 }
  match s.sweep o with
  | some w => if s.toneOn o then move (sweepFreq s.diagGlobal w.pts.length) else { x with tone := x.tone - 1 }
  | none => if x.tone = 0 then { x with tonePhase := 0 } else move x.toneHz

/-- No word of the reference FIFO has come for the present control sample (R209): the frame that plays is over by a sample. -/
def State.refShort (s : State) : Bool := decide (33 * 12288000 ≤ s.loop.csFrame * s.fa)

/-- What the interpolator makes of two frames, in units of 2^−30 of full scale (R209): of a constant, the constant. -/
def State.interpolated (s : State) (past now : List (BitVec 32)) (place trim : Nat) : Int :=
  match now with
  | [] => 0
  | x :: _ =>
    if (past ++ now).all (fun y => y == x) then roundQ (f32Int x) (2 ^ 119)
    else Config.reference past now place (s.rd F.DECIM_RATIO_VALUE) trim (s.reg A.SYS_PLLA_CFG).toNat (s.rd F.LOOP_CSCNT_VALUE)

/-- The reference of output `o` before the governor stage, Q6.25 V, and node REF (R209): the interpolated terminal sample × VFS ×
output gain. While words are missing the last one repeats. -/
def State.referenceOf (s : State) (o : Nat) : Int × Bool :=
  let look (l : List (Nat × List (BitVec 32))) := ((l.find? (fun x => x.1 == o)).map (fun x => x.2)).getD []
  let c := (s.live o).headD 0
  let now := look s.dsp.playing.1
  let trim := s.rd (F.LOOP_CHc_REFDLY_TRIM_NS c)
  let v := if s.refShort then s.interpolated now (now.map (fun _ => now.getLast?.getD 0)) (s.loop.csFrame - s.frameSamples) trim
    else s.interpolated (look s.loop.past) now s.loop.csFrame trim
  let x := satN 32 (roundQ (v * s.rd (F.MOD_OUTo_CFG_VFS o)) (2 ^ 15))
  let g := (s.out o).gain
  let y := if g = 0 then 0 else if g = outOne then x.1 else roundQ (x.1 * g) outOne
  ((satN 32 (y + s.toneOf o)).1, x.2)

/-- Stages 4 to 6 of output `o` in this control sample: the reference the lanes take, and node REF. -/
def State.outputReference (s : State) (o : Nat) : (Int × Bool) × State :=
  let live := s.live o
  let r := if live = [] then (0, false) else s.referenceOf o
  let x := s.gout o
  let s := s.setGout o { x with sumSq := x.sumSq + r.1.natAbs * r.1.natAbs, samples := x.samples + 1, peak := max x.peak r.1.natAbs }
  let g := s.govGain o
  let r1 := if g = 2147483648 then r.1 else roundQ (r.1 * g) (2 ^ 31)
  let v := match live with
    | [] => 0
    | c :: _ => (s.sin c).value
  let z := s.clampStage o r1 v (live.map (fun c => (s.sin (16 + c)).value))
  ((z.1, r.2), z.2)

/-! ### Trace (R243 to R245) -/

/-- Node `k` of channel `c` as traced. -/
def State.traceNode (s : State) (c k : Nat) : Int :=
  let x := s.lch c
  let upper := s.upperOf c = true
  let lo := if upper then c - 1 else c
  if upper ∧ ¬ (k = 1 ∨ k = 3 ∨ k = 11 ∨ k = 12 ∨ k = 15) then 0
  else if k = 0 then x.r
  else if k = 1 then x.v
  else if k = 2 then x.e
  else if k = 3 then x.i
  else if k = 4 then x.yMain
  else if k = 5 then x.yFb
  else if k = 6 then x.y1
  else if k = 7 then x.w
  else if k = 8 then x.q
  else if k = 9 then x.u
  else if k = 10 then x.g
  else if k = 11 then ((s.bridge c).iEnv.foldl max 0 : Nat)
  else if k = 12 then (s.lch lo).trim
  else if k = 13 then (s.rc (s.rcIndex c)).ebar
  else if k = 14 then
    let y := s.rc (s.rcIndex c)
    ((if y.p = 0 then 0 else y.since % y.p / s.binW (s.rcIndex c) : Nat) : Int)
  else
    ((x.nodes + s.rd (F.LOOP_CHc_STAT_MODE c) * 2 ^ 12 + s.bank c * 2 ^ 15 + s.rcState (s.rcIndex c) * 2 ^ 16 +
      s.rd F.LOOP_CSCNT_VALUE % 2 ^ 13 * 2 ^ 19 : Nat) : Int)

/-- A level trigger (R244, codes 1 to 3): the node rises to the level, or falls below it. -/
def crosses (code : Nat) (prev : Option Int) (now level : Int) : Bool :=
  match prev with
  | none => false
  | some p =>
    let up := decide (p < level) && decide (level ≤ now)
    let down := decide (level ≤ p) && decide (now < level)
    if code = 1 then up else if code = 2 then down else if code = 3 then up || down else false

/-- Trace buffer `b` in this control sample: its level trigger, then its capture. -/
def State.traceStep (s : State) (b : Nat) : State :=
  let c := s.rd (F.TRACE_CFGb_CHANNEL b)
  let now := s.traceNode c (s.rd (F.TRACE_CFGb_TRIG_NODE b))
  let hit := crosses (s.rd (F.TRACE_CFGb_TRIG_SRC b)) (s.tbuf b).prev now (s.traceLevel b)
  let t := if hit then s.trigger b else s
  t.setTbuf b { t.tbuf b with prev := some now }

/-- Every buffer captures the sample where its decimation takes it (R243). -/
def State.traceTake (s : State) (b : Nat) : State :=
  if s.rd F.LOOP_CSCNT_VALUE % 2 ^ s.rd (F.TRACE_CFGb_DEC_LOG2 b) ≠ 0 then s
  else
    let c := s.rd (F.TRACE_CFGb_CHANNEL b)
    let nodes := [s.rd (F.TRACE_NODESb_NODE0 b), s.rd (F.TRACE_NODESb_NODE1 b), s.rd (F.TRACE_NODESb_NODE2 b),
      s.rd (F.TRACE_NODESb_NODE3 b)].take (s.rd (F.TRACE_CFGb_NCOUNT b) + 1)
    s.traceCapture b (nodes.map (fun k => BitVec.ofInt 32 (s.traceNode c k)))

/-! ### The control sample -/

/-- The output's gain ramp and common-mode ramp move by one control sample (R191, R192); the tone too. -/
def State.rampStep (s : State) (o : Nat) : State :=
  let x := (s.toneStep o).gainStep s.faCode (s.rd (F.MOD_OUTo_CFG_RAMP_LOG2 o))
  let cm := if s.oState o = oCmUp then x.cm + 1 else if s.oState o = oCmDown then x.cm - 1 else x.cm
  s.setOut o { x with cm := cm }

/-- One control sample (R202): references, slots, modulators, trace, ramps; LOOP_CSCNT counts it. -/
def State.controlSample (s : State) (faults : List (Fin 16 × LaneFault)) : State :=
  let s := if s.refShort && s.dsp.playing.1 != [] then s.ev A.LOOP_EVENT 24 else s
  let r := (List.range 16).foldl (fun (acc : List (Int × Bool) × State) o =>
    let r := acc.2.outputReference o
    (acc.1 ++ [r.1], r.2)) ([], s)
  let rs := r.1
  let s := r.2.forAll 16 (fun c t =>
    let r := match t.outOf c with
      | some o => rs.getD o (0, false)
      | none => (0, false)
    t.slot c r.1 r.2 ((faults.filter (fun f => f.1.val == c)).map (fun f => f.2)))
  let s := s.modulators
  let s := (s.forAll 4 (fun b t => t.traceStep b)).forAll 4 (fun b t => t.traceTake b)
  let s := s.forAll 16 (fun o t => t.rampStep o)
  let s := { s with loop := { s.loop with csFrame := s.loop.csFrame + 1 } }
  let s := s.forAll 16 (fun o t => t.setGout o { t.gout o with hu := (t.gout o).hu.map (fun j => min 256 (j + 1)) })
  s.bumpWrap F.LOOP_CSCNT_VALUE

/-- LANE_EVALUATE: every lane's slots of one control sample; the lanes stop with PLL A (R17). `faults` are the detections in
the slots. -/
def execLaneEvaluate (faults : List (Fin 16 × LaneFault)) (s : State) : Host.Outcome State Fault Refusal :=
  .next (if s.on F.SYS_CLKSTAT_PLLA_LOCK then s.controlSample faults else s)

end Sys2Proof.Machine
end

