-- ==== Sys2Proof/Machine/Supply.lean ====
section
/-!
DEFINITION. Machine/Supply.lean: shared operations of the supply: rails, the PVDD converter and its target, hold-up, the
start of a discharge and of standby entry (R327 to R349, R358 to R361).
-/

namespace Sys2Proof.Machine

open Sys2Proof

/-- Rail number of PVDD (R331). -/
abbrev rPvdd : Nat := 7
/-- Rail number of the hold-up charger (R331). -/
abbrev rChg : Nat := 8

/-- The mask of one rail. -/
def railMask (r : Nat) : BitVec 9 := BitVec.ofNat 9 (2 ^ r)

/-- Rail `r` is in window. -/
def State.railIn (s : State) (r : Nat) : Bool := s.rd ⟨A.PMU_RAILSTAT, r, 1⟩ == 1

/-- Rail `r` is discharging. -/
def State.railDis (s : State) (r : Nat) : Bool := s.rd ⟨A.PMU_RAILSTAT, 16 + r, 1⟩ == 1

/-! ### Thresholds (R327, R328) -/

/-- The OTP stage-1 set that BOOTSEL chooses (R36, R328): set 1 for a 48 V net. -/
def State.stageSet (s : State) : Nat := s.boot.bootsel % 2

/-- VSYS through which stage 1 starts, in millivolts (R328). -/
def State.vsysStart (s : State) : Nat := if s.stageSet = 0 then 6500 else 24000

/-- VSYS_MIN in millivolts (R328). -/
def State.vsysMin (s : State) : Nat := if s.stageSet = 0 then 5500 else 18000

/-- The VBAT_LOW threshold in millivolts (R328). -/
def State.vbatLow (s : State) (rising : Bool) : Nat :=
  if s.stageSet = 0 then (if rising then 9500 else 9000) else if rising then 38000 else 36000

/-- HOLDUP can be entered (R347): the bank is READY, or CHARGING with HOLD (units of 0.25 V) at least HU_FLOOR + 5 V. -/
def State.bankCarries (s : State) (hold : Nat) : Bool :=
  let st := s.rd F.PMU_HOLD_STAT_STATE
  decide (st = 2) || (decide (st = 1) && decide (s.rd F.PMU_HOLD_CFG_HU_FLOOR + 20 ≤ hold))

/-- The filter time of the brown-out in microseconds (R327): longer while HOLDUP can be entered. -/
def State.brownFilter (s : State) (hold : Nat) : Nat := if s.bankCarries hold then 25 else 10

/-! ### PVDD (R337 to R344) -/

/-- The converter switches. -/
def State.pvddRuns (s : State) : Bool :=
  s.pmu.enabled.getLsbD rPvdd && !s.pmu.ocp && !s.pmu.ov && !s.pmu.vbatStop && !s.pmu.pvddFail

/-- PMU_PVDD_STAT2 shows whether the converter switches; it starts on all four phases and shows none while it stands. -/
def State.pvddStat (s : State) : State :=
  let on := s.pvddRuns
  let t := s.wrB F.PMU_PVDD_STAT2_RUNNING on
  t.wr F.PMU_PVDD_STAT2_PHASES (if !on then 0 else if t.rd F.PMU_PVDD_STAT2_PHASES = 0 then 4 else t.rd F.PMU_PVDD_STAT2_PHASES)

/-- V_C now (R339, R340): from its value at the last change of V_T towards V_T, at the slew of its direction, or at
2.6 V/ms in soft start. UQ6.10 V. -/
def State.vcNow (s : State) : Nat :=
  let p := s.pmu
  let up := decide (p.vcFrom < p.vT)
  let rate := if !p.follow then 26624 else 40 * (if up then s.rd F.PMU_PVDD_SLEW_UP else s.rd F.PMU_PVDD_SLEW_DN)
  let d := roundN ((s.now - p.vcTime) * rate) 10000
  if up then min p.vT (p.vcFrom + d) else max p.vT (p.vcFrom - d)

/-- V_T changes (R340). -/
def State.setVT (s : State) (v : Nat) : State :=
  let vc := s.vcNow
  { s with pmu := { s.pmu with vcFrom := vc, vcTime := s.now, vT := v } }

/-- The governor's PVDD cap as SUP holds it (R356, R358). -/
def State.pvddCap (s : State) : Nat := s.pmu.vPcap.getD (s.rd F.PMU_PVDD_STATIC_VOLTS)

/-- The largest active demand (R340). -/
def State.demandMax (s : State) : Option Nat :=
  (s.pmu.queue.filter (fun d => d.2)).foldl (fun m d => some (max (m.getD 0) d.1.volts)) none

/-- V_T formed again (R339 to R341). -/
def State.pvddTarget (s : State) : State :=
  if !s.pmu.enabled.getLsbD rPvdd then s
  else
    let static := s.rd F.PMU_PVDD_STATIC_VOLTS
    if !s.pmu.follow then s.setVT (min s.pvddCap static)
    else if s.pmu.laStatic then s.setVT static
    else
      match s.demandMax with
      | some v => s.setVT (min (s.rd F.PMU_PVDD_RANGE_MAX) (min s.pvddCap v))
      | none => s.setVT (min s.pvddCap s.vcNow)

/-- PVDD and CHG may be started: no discharge, no CRASH latch, no safe state, no failed converter (R344, R361). -/
def State.storesMayStart (s : State) : Bool :=
  !s.pmu.crash && !s.on F.GOV_STATUS_DISCHARGE && !s.on F.FCOL_STAT_SAFE

/-- The converter starts its soft start from a voltage (R339, R344). Without the reference it runs from SUP (R337). -/
def State.pvddStart (s : State) (volts : Nat) : State :=
  if !s.storesMayStart || s.pmu.pvddFail then s
  else
    let p := s.pmu
    let t := { s with
      pmu := { p with enabled := p.enabled ||| railMask rPvdd, soft := p.soft ||| railMask rPvdd, follow := false,
                      vcFrom := volts, vcTime := s.now, vT := min s.pvddCap (s.rd F.PMU_PVDD_STATIC_VOLTS), ocp := false },
      sys := { s.sys with pvddHeld := false } }
    let t := if t.on F.SYS_CLKSTAT_XTAL_OK ∨ t.on F.PMU_PVDD_STAT2_CLKFB then t
             else (t.wr F.PMU_PVDD_STAT2_CLKFB 1).ev A.PMU_EVENT 7
    t.pvddStat

/-- PVDD leaves its window (R344): every bridge high-impedance, switching outputs to OFF with REQ kept. -/
def State.pvddOut (s : State) : State :=
  ({ s with pmu := { s.pmu with pvddOk := false, pvddLost := true } }.setBit A.PMU_RAILSTAT rPvdd false).outputsOff

/-- The converter stops. -/
def State.pvddStop (s : State) : State :=
  if !s.pmu.enabled.getLsbD rPvdd then s
  else
    let p := s.pmu
    let t := { s with pmu := { p with enabled := p.enabled &&& ~~~ railMask rPvdd, soft := p.soft &&& ~~~ railMask rPvdd,
                                      follow := false, laStatic := false, vcFrom := 0, vcTime := s.now, vT := 0 } }
    (t.wr F.PMU_PVDD_STAT2_CAUSE 0).pvddStat.pvddOut

/-! ### Hold-up (R346 to R348) -/

/-- State of the bank (hold-up states table). -/
def State.holdState (s : State) : Nat := s.rd F.PMU_HOLD_STAT_STATE

/-- Set the state of the bank. -/
def State.setHold (s : State) (st : Nat) : State := s.wr F.PMU_HOLD_STAT_STATE st

/-- Milliseconds since HOLDUP was entered, as the field holds them (R347). -/
def State.huElapsed (s : State) : Nat := min 4095 ((s.now - s.pmu.huTime) / 1000)

/-- The charger starts (R346, R361). -/
def State.chgStart (s : State) : State :=
  if !s.storesMayStart then s
  else
    let t := { s with pmu := { s.pmu with enabled := s.pmu.enabled ||| railMask rChg, soft := s.pmu.soft ||| railMask rChg,
                                          chgOff := false } }
    let t := t.wr F.PMU_RAILCTRL_CHG_EN 1
    if t.holdState = 0 then t.setHold 1 else t

/-- The charger stops; a bank in CHARGING or READY shows OFF. -/
def State.chgStop (s : State) : State :=
  let t := { s with pmu := { s.pmu with enabled := s.pmu.enabled &&& ~~~ railMask rChg, soft := s.pmu.soft &&& ~~~ railMask rChg } }
  let t := t.setBit A.PMU_RAILSTAT rChg false
  if t.holdState = 1 ∨ t.holdState = 2 ∨ t.holdState = 4 then t.setHold 0 else t

/-- HOLDUP is left for a state of the bank (R347, R348): HU_ELAPSED stands, the P0 rules end. -/
def State.holdupLeave (s : State) (st : Nat) : State :=
  if s.holdState ≠ 3 then s.setHold st
  else
    let t := (s.wr F.PMU_HOLD_STAT_HU_ELAPSED s.huElapsed).setHold st
    t.wr F.GOV_STATUS_HOLDUP 0

/-! ### Rails (R331 to R336) -/

/-- A rail starts its soft start. -/
def State.railOn (s : State) (r : Nat) : State :=
  if r = rPvdd then s.pvddStart 0
  else if r = rChg then s.chgStart
  else { s with pmu := { s.pmu with enabled := s.pmu.enabled ||| railMask r, soft := s.pmu.soft ||| railMask r,
                                    again := s.pmu.again &&& ~~~ railMask r } }

/-- A rail is stopped; an auxiliary rail discharges (R333). What PMU_RAILCTRL shows of it is then disabled (R336). -/
def State.railOff (s : State) (r : Nat) : State :=
  let s := if r = 5 ∨ r = 6 ∨ r = rChg then s.setBit A.PMU_RAILCTRL r false else s
  if r = rPvdd then s.pvddStop
  else if r = rChg then s.chgStop
  else if !s.pmu.enabled.getLsbD r then s
  else
    let p := s.pmu
    let t := { s with pmu := { p with enabled := p.enabled &&& ~~~ railMask r, soft := p.soft &&& ~~~ railMask r,
                                      again := p.again &&& ~~~ railMask r } }
    (t.setBit A.PMU_RAILSTAT r false).setBit A.PMU_RAILSTAT (16 + r) true

/-- A rail is requested: one that discharges waits (R334). -/
def State.railRequest (s : State) (r : Nat) : State :=
  if s.railDis r then
    { s with pmu := { s.pmu with again := s.pmu.again ||| railMask r } }.ev A.PMU_EVENT 15
  else s.railOn r

/-- A rail is disabled: a disable while it waits to start again cancels the start (R334). -/
def State.railDisable (s : State) (r : Nat) : State :=
  if s.railDis r then { s with pmu := { s.pmu with again := s.pmu.again &&& ~~~ railMask r } } else s.railOff r

/-! ### Standby entry (R333, R349) -/

/-- The groups in which rails go down (R333): those that no stage started, the later stages from the last, stage 1 in the
reverse of R329. -/
def State.downGroups (s : State) : List (List Nat) :=
  let staged := (s.pmu.stages.take s.pmu.nextStage).map (fun g => g.rails)
  let rest := (List.range 9).filter (fun r => decide (5 ≤ r) && s.pmu.enabled.getLsbD r && !(staged.flatMap id).contains r)
  [rest] ++ staged.reverse ++ [[1], [4], [3], [2], [0]]

/-- A rail stops on the way down; PVDD and the bank count as discharging too until they are below 10 % of their target. -/
def State.railDown (s : State) (r : Nat) : State :=
  let t := s.railOff r
  if r = rPvdd ∨ r = rChg then t.setBit A.PMU_RAILSTAT (16 + r) true else t

/-- The groups still to stop, the present one first: the next group stops once every rail of the present one is below
10 %; with stage 1 the digital die goes into reset (R333, R349). -/
def State.downGo : List (List Nat) → State → State
  | [], s => { s with pmu := { s.pmu with down := [] } }
  | g :: rest, s =>
    let t := s.forEach g (fun r t => t.railDown r)
    let t := if g = [1] then { t with sys := { t.sys with dieHeld := true } } else t
    let left := g.filter (fun r => t.railDis r)
    if left = [] then State.downGo rest t
    else { t with pmu := { t.pmu with down := left :: rest } }

/-- The rails start to go down, once the stored energy is below the discharged level (R349). -/
def State.downStart (s : State) : State :=
  if s.pmu.mode = .entry ∧ s.pmu.down = [] ∧ !s.sys.dieHeld then State.downGo s.downGroups s else s

/-- A rail of the present group is below 10 %, or is given up (R333). -/
def State.downDone (s : State) (r : Nat) : State :=
  match s.pmu.down with
  | [] => s
  | g :: rest =>
    let g := g.filter (fun x => x != r)
    if g = [] then State.downGo rest s else { s with pmu := { s.pmu with down := g :: rest } }

/-! ### Discharge (R359, R361) -/

/-- A discharge starts (R359); one in progress goes on as it is, but for the CRASH latch (R361). -/
def State.dischargeStart (s : State) (crash : Bool) : State :=
  let s := if crash then { s with pmu := { s.pmu with crash := true } }.ev A.GOV_EVENT 7 else s
  if s.on F.GOV_STATUS_DISCHARGE then s
  else
    let t := s.wr F.GOV_STATUS_DISCHARGE 1
    let t := (t.holdupLeave 5).chgStop
    let t := { t with gov := { t.gov with hdis := true } }.ev A.GOV_EVENT 4
    if crash then (t.forAll 16 (fun o t => t.fastoff o)).raise 0xB 0 3 0 false else t

/-- Step 3 of a discharge: the converter stops, PDIS_G turns on. -/
def State.dischargePvdd (s : State) : State :=
  let t := s.pvddStop
  { t with gov := { t.gov with pdis := true } }

/-- Standby entry begins (R349, step 1): FASTOFF on every output, the charger stopped, the discharge; AON takes the host
address in use (R417). -/
def State.standbyEnter (s : State) : State :=
  let addr := if s.hbus.booted then s.rd F.HBUS_STAT_ADDR else 0x40 + s.hbus.strap
  let t := { s with pmu := { s.pmu with mode := .entry, stbyDue := false, wakeDue := 0, down := [] },
                    hbus := { s.hbus with matchAddr := addr } }
  let t := ((t.wr F.PMU_SEQSTAT_STATE 3).forAll 16 (fun o t => t.fastoff o)).dischargeStart false
  if t.on F.GOV_STATUS_DISCHARGED then t.downStart else t

/-- HOLDUP has ended: what waited for it takes effect (R348). -/
def State.holdupEnded (s : State) : State :=
  let t := if s.pmu.chgOff then { s with pmu := { s.pmu with chgOff := false } }.chgStop else s
  if t.pmu.stbyDue then t.standbyEnter else t

/-- A discharge that ends HOLDUP lets a standby request that waited for that begin (R348). -/
def State.discharge (s : State) (crash : Bool) : State :=
  let t := s.dischargeStart crash
  if s.holdState = 3 ∧ t.pmu.stbyDue = true then t.standbyEnter else t

/-- A request of standby: deferred in HOLDUP (R348); nothing while entry is under way. -/
def State.standbyRequest (s : State) : State :=
  if s.pmu.mode ≠ .run then s
  else if s.holdState = 3 then { s with pmu := { s.pmu with stbyDue := true } }.ev A.PMU_EVENT 3
  else s.standbyEnter

/-! ### Housekeeping results (R345, R358, R377) -/

/-- The lowest-numbered entry of the housekeeping sequence that measures an input (R377). -/
def State.hkEntry (s : State) (input : Nat) : Option HkEnt := s.hk.seq.ents.find? (fun e => e.input == input)

/-- The latest valid RESULT of an input, with its entry's N, SHIFT. -/
def State.hkResult (s : State) (input : Nat) : Option (Nat × HkEnt) :=
  match s.hkEntry input with
  | none => none
  | some e => if s.on (F.HKADC_ENTk_RES_VALID e.slot) then some (s.rd (F.HKADC_ENTk_RES_RESULT e.slot), e) else none

/-- The housekeeping result of a rail lies in its band, while the converter is ready and not in calibration (R345). -/
def State.hkInBand (s : State) (r : Nat) : Bool :=
  s.on F.HKADC_STAT_REF_RDY && !s.on F.HKADC_STAT_CAL_BUSY &&
  !s.on F.HKADC_STAT_CHECK_FAIL &&
  (match s.hk.seq.ents.find? (fun e => e.winEn && e.back == r) with
   | some e => s.on (F.HKADC_ENTk_RES_VALID e.slot) && !s.pmu.hkOut.getLsbD r
   | none => false)

/-- The windows that back the microphone biases follow PMU_MICB_CFG (R386): ±10 % around its voltage in RESULT units. -/
def State.hkMicb (s : State) : State :=
  let ents := s.hk.seq.ents.map (fun e =>
    if e.back = 5 ∨ e.back = 6 then
      let v := s.rd (if e.back = 5 then F.PMU_MICB_CFG_MICB0 else F.PMU_MICB_CFG_MICB1)
      { e with lo := v * 60 * e.n / 2 ^ e.shift, hi := min 65535 ((v * 220 * e.n + 3 * 2 ^ e.shift - 1) / (3 * 2 ^ e.shift)) }
    else e)
  { s with hk := { s.hk with seq := { s.hk.seq with ents := ents } } }

end Sys2Proof.Machine
end

