-- ==== Sys2Proof/Machine/Reset.lean ====
section
/-!
DEFINITION. Machine/Reset.lean: clocks, PLLs and the timing source (R17 to R23), crossings (R26, R27), the reset types
(R30 to R35) and the start of the boot ROM (R50, step 4).
-/

namespace Sys2Proof.Machine

open Sys2Proof

/-! ### What a reset clears and keeps (R30) -/

/-- Registers that a warm reset leaves: SUP's and the housekeeping converter's, the clock status, and the FCOL registers of
R410. -/
def warmKeeps (a : Nat) : Bool :=
  (decide (0x20000 ≤ a) && decide (a < 0x28000)) || a / 0x10000 == 3 || a == A.SYS_CLKSTAT || a == A.FCOL_TICK ||
  a == A.FCOL_FIRST || a == A.FCOL_RSTCNT || a == A.FCOL_LOGSTAT || (decide (0xC4000 ≤ a) && decide (a < 0xC4400))

/-- What AON and the pins keep of the supply over a brown-out or a standby exit (R30, R330, R350, R361). -/
def PmuSt.aon (p : PmuSt) (crash : Bool) : PmuSt :=
  { PmuSt.reset with lastFail := p.lastFail, lockedOut := p.lockedOut, wakeCfg := p.wakeCfg, wakeSrc := p.wakeSrc,
                     wakePin := p.wakePin, crashLow := p.crashLow, crash := crash }

/-- What a warm reset keeps of the supply (R30, R32): rails and sequencer; PVDD goes to its static level. -/
def State.pmuWarm (s : State) : PmuSt :=
  let p := s.pmu
  { p with vcFrom := s.vcNow, vcTime := s.now, vT := if p.enabled.getLsbD rPvdd then s.rd F.PMU_PVDD_STATIC_VOLTS else 0,
           queue := [], laStatic := false, seqOn := false, opened := [] }

/-- The security version after a reset: a programming that the reset interrupts ends at either value (R460). -/
def State.svAfterReset (s : State) : Nat × State :=
  match s.sec.svValue with
  | none => (s.otp.minSv, s)
  | some v => (if (s.draw 1).1 = 1 then max s.otp.minSv v else s.otp.minSv, (s.draw 1).2)

/-- The fields after a reset that includes the digital die (R30): what survives stays, all else takes its reset value. -/
def State.dieKeep (s : State) (k : ResetKind) (sv : Nat) : State :=
  let warm := decide (k = .warm)
  let por := decide (k = .por)
  let p := s.pmu
  let b := s.boot
  { State.reset with
    regs := if por then [] else Tbl.drop (fun a => !(a == A.SYS_RSTCAUSE || (warm && warmKeeps a))) s.regs,
    mem := if warm then s.mem else [],
    now := s.now, freeCount := s.freeCount, pending := s.pending,
    otp := { s.otp with minSv := sv },
    sys := if warm then { s.sys with rst := none, dieHeld := false, fromSafe := false, pvddHeld := s.sys.fromSafe, lastFa := none }
           else { SysSt.reset with rst := some (k, .stage1) },
    boot := if por then { BootSt.reset with porTime := s.now }
            else { BootSt.reset with mode := if warm then b.reqMode else 0, bootsel := b.bootsel, bootselBad := b.bootselBad,
                                     strapped := b.strapped, porTime := b.porTime },
    pmu := match k with
      | .por => { PmuSt.reset with wakePin := p.wakePin, crashLow := p.crashLow }
      | .bor => p.aon false
      | .wake => p.aon (p.crash && p.crashLow)
      | .warm => s.pmuWarm,
    hk := if warm then s.hk else HkSt.reset,
    fcol := if warm then { FcolSt.reset with resetTimes := s.fcol.resetTimes } else FcolSt.reset,
    sense := if warm then s.sense.map (fun e => (e.1, { SenseSt.reset with bad0 := e.2.bad0, bad1 := e.2.bad1 })) else [],
    hbus := if por then HbusSt.reset
            else { HbusSt.reset with strapBad0 := s.hbus.strapBad0, strapBad1 := s.hbus.strapBad1, strap := s.hbus.strap,
                                     booted := s.hbus.booted, matchAddr := s.hbus.matchAddr },
    diag := if por then DiagSt.reset else { DiagSt.reset with stby := s.diag.stby },
    sec := if por then SecSt.reset else { SecSt.reset with lockUntil := s.sec.lockUntil } }

/-- A reset that includes the digital die (R30), with the registers that R32, R330 and R372 keep or load. -/
def State.dieReset (s : State) (k : ResetKind) : State :=
  let warm := decide (k = .warm)
  let r := s.svAfterReset
  let s := r.2
  let p := s.pmu
  let t := s.dieKeep k r.1
  let t := { t with sense := t.sense.filter (fun e => decide (e.2 ≠ SenseSt.reset)) }
  let t := if warm then t else t.setReg A.HKADC_SHIM s.otp.hkShim
  if k = .por then t
  else
    let t := t.setReg A.SEC_ATTEMPT (s.reg A.SEC_ATTEMPT &&& 0x87FF003F)
    if warm then
      let t := t.forAll 16 (fun c t =>
        (t.wr (F.MOD_CHc_STAT_GOOD_P c) (s.rd (F.MOD_CHc_STAT_GOOD_P c))).wr (F.MOD_CHc_STAT_GOOD_N c)
          (s.rd (F.MOD_CHc_STAT_GOOD_N c)))
      let t := (t.wr F.SYS_CLKSTAT_TSRC_LOCKED 0).wr F.SYS_CLKSTAT_SSC_ACTIVE 0
      let t := if t.holdState = 5 then t.setHold 0 else t
      t.wrB F.GOV_STATUS_HOLDUP (decide (t.holdState = 3))
    else
      let t := t.wr F.SYS_CLKSTAT_WAKE_SRC p.wakeSrc
      if k = .wake then t.wr F.PMU_RAILSTAT_DISCHARGING (s.rd F.PMU_RAILSTAT_DISCHARGING) else t

/-- The image copies in the order they are tried (R36, R43). -/
def bootPlan (bootsel mode : Nat) : List (Nat × Nat) :=
  let copies := if mode = 2 then [1, 0] else [0, 1]
  (if bootsel < 2 then [1, 2] else [2, 1]).flatMap (fun src => copies.map (fun c => (src, c)))

/-- The digital die leaves reset and the boot ROM starts (R50, step 4): the boot record begins, the ring link enters PASS (R109), SUP shows what AON kept
(R330, R350), the WAKE_OFF count starts again (R349). -/
def State.bootRom (s : State) : State :=
  let p := s.pmu
  let t := { s with
    sys := { s.sys with rst := none, dieHeld := false },
    boot := { s.boot with state := bootRomRead, plan := bootPlan s.boot.bootsel s.boot.mode },
    hbus := { s.hbus with sclHeld := false, matched := false },
    pmu := { p with wakeCount := !p.wakePin } }
  let t := t.when s.hbus.matched (fun t => t.ev A.HBUS_EVENT 14)
  let t := { t with intc := { t.intc with late := [] } }.forEach s.intc.late (fun e t => t.complete e.1 e.2)
  let t := (t.setReg A.PMU_WAKECFG p.wakeCfg).wr F.PMU_SEQSTAT_STAGE1_RAIL p.lastFail
  let t := (t.wrB F.PMU_SEQSTAT_STAGE1_RETRY (decide (0 < p.tries) || p.lockedOut)).wrB F.PMU_SEQSTAT_STAGE1_LOCKOUT p.lockedOut
  let t := (t.wr F.PMU_SEQSTAT_OTP_SET (s.boot.bootsel % 2)).wr F.HBUS_STAT_STRAP s.hbus.strap
  ((t.wr F.HBUS_STAT_ADDR (0x40 + s.hbus.strap)).wr F.SEC_SECVER_MIN s.otp.minSv).wr F.TRING_STAT_STATE rPass

/-! ### Triggers (R33) -/

/-- The scope of a reset, wider ones higher (R30). -/
def ResetKind.scope : ResetKind → Nat
  | .por => 3
  | .bor => 2
  | .wake => 1
  | .warm => 0

/-- A trigger is shut out by the reset in progress (R33). -/
def State.shutOut (s : State) (k : ResetKind) : Bool :=
  match s.sys.rst with
  | none => false
  | some (cur, _) => decide (k.scope ≤ cur.scope)

/-- A power-on, brown-out or standby-exit trigger (R33): a wider one aborts what is in progress; a narrower or equal one is
discarded and, but for power-on, recorded. -/
def State.resetTrigger (s : State) (k : ResetKind) : State :=
  let rec' (t : State) := if k = .bor then t.wr F.SYS_RSTCAUSE_BOR 1 else if k = .wake then t.wr F.SYS_RSTCAUSE_WAKE 1 else t
  if s.shutOut k then rec' s else rec' (s.dieReset k)

/-- A warm-reset trigger (R31, R33): recorded; without another reset in progress and with the die running, the 4 ms ramp of
every active output begins. `mode` is the boot mode it carries (R55). -/
def State.warmTrigger (s : State) (fcol : Bool) (mode : Nat) : State :=
  let t := if fcol then s.wr F.SYS_RSTCAUSE_WARM_FCOL 1 else s.wr F.SYS_RSTCAUSE_WARM_HOST 1
  if t.sys.rst.isSome || t.sys.dieHeld then t
  else
    let t := { t with sys := { t.sys with rst := some (.warm, .ramp), fromSafe := t.on F.FCOL_STAT_SAFE },
                      boot := { t.boot with reqMode := mode } }
    t.forAll 16 (fun o t => t.fastoff o)

/-- Safe state during the ramp abandons the warm reset (R31). -/
def State.warmAbandon (s : State) : State :=
  if s.sys.rst = some (.warm, .ramp) then
    { s with sys := { s.sys with rst := none, fromSafe := false }, boot := { s.boot with reqMode := 0 } }
  else s

/-- POWER_ON_RESET. -/
def execPowerOnReset (s : State) : Host.Outcome State Fault Refusal := .next (s.resetTrigger .por)

/-- What the supervisors saw is a brown-out (R30, R327, R330): a stage-1 rail out of its window once stage 1 is complete, or VSYS below
VSYS_MIN for the filter time. -/
def State.isBrownOut (s : State) : BrownOut → Bool
  | .rail _ => s.sys.pllAOn
  | .vsys mv us hold => decide (mv < s.vsysMin) && decide (s.brownFilter hold ≤ us)

/-- BROWN_OUT (R30, R327): SUP's supervisors give it, so it does not come while only AON runs. -/
def execBrownOut (c : BrownOut) (s : State) : Host.Outcome State Fault Refusal :=
  .next (if s.pmu.mode = .standby || s.pmu.mode = .lockout || !s.isBrownOut c then s else s.resetTrigger .bor)

/-- A write of SYS_RSTCTRL (R31): a wrong key is ignored and counted. -/
def State.rstctrlWrite (s : State) (v : BitVec 32) : State :=
  if getField v 16 16 ≠ 0x5752 then s.bump F.SYS_XING_ERR_KEY
  else if v.getLsbD 0 then s.warmTrigger false 0
  else s

/-- SYS_RSTCTRL_WARM. -/
def execSysRstctrlWarm (v : Word) (s : State) : Host.Outcome State Fault Refusal := .next (s.rstctrlWrite v)

/-- WARM_RESET_RAMP_END (R31): the bridges go high-impedance and the die is reset; rails and PLLs stay, so the boot ROM runs
again at once. -/
def execWarmResetRampEnd (s : State) : Host.Outcome State Fault Refusal :=
  .next (if s.sys.rst = some (.warm, .ramp) then (s.dieReset .warm).bootRom else s)

/-- TEST_ACCESS_RESET (R30): only the TAP controller. -/
def execTestAccessReset (s : State) : Host.Outcome State Fault Refusal :=
  .next { s with sys := { s.sys with tapReset := true } }

/-! ### Block resets (R34) -/

/-- A block-reset trigger is accepted: its bit is not set and no reset of the digital die is in progress. The bit and
SYS_RSTCAUSE.BLK set. -/
def State.blockStart (s : State) (bit : Nat) (f : State → State) : State :=
  if s.evOn A.SYS_BLKRST bit || s.sys.rst.isSome || s.sys.dieHeld then s
  else f ((s.setBit A.SYS_BLKRST bit true).wr F.SYS_RSTCAUSE_BLK 1)

/-- DIAG is reset: sweeps end, a DC check in progress starts again, results read NOT_RUN. -/
def State.blockDiag (s : State) : State :=
  s.blockStart 7 (fun t =>
    let t := t.forAll 16 (fun o t => t.sweepAbort o)
    let d := t.diag
    let t := { t with diag := { DiagSt.reset with waiting := d.running ++ d.waiting, jobs := d.jobs, boot := d.boot,
                                                  stby := d.stby } }
    (t.resetRegs (fun a => a / 0x10000 == 9)).diagStat)

/-- BLKRST_DIAG. -/
def execBlkrstDiag (s : State) : Host.Outcome State Fault Refusal := .next s.blockDiag

/-- The Treras link is reset; the contexts it sources take fault ramps, as after an underrun, and lose their slots. Contexts
that it only transmits are not sourced from it and stay as they are. -/
def State.blockTring (s : State) : State :=
  s.blockStart 6 (fun t =>
    let t := t.forEach (t.ringCtxs) (fun c t => (t.ctxFault c).ctxBind c 0 0)
    { t.resetRegs (fun a => a / 0x10000 == 11) with ring := RingSt.reset })

/-- BLKRST_TRING. -/
def execBlkrstTring (s : State) : Host.Outcome State Fault Refusal := .next s.blockTring

/-- A port is reset: the contexts it sources take fault ramps and lose their slots, and the port stands in OFF. -/
def State.blockPort (s : State) (n : Nat) : State :=
  s.blockStart (2 + n) (fun t =>
    let t := t.forEach (t.rxCtxs n) (fun c t => (t.ctxFault c).ctxBind c 0 0)
    (t.resetRegs (fun a => decide (0xA0000 + 0x1000 * n ≤ a) && decide (a < 0xA0000 + 0x1000 * (n + 1)))).setPort n
      PortSt.reset)

/-- BLKRST_PORT. -/
def execBlkrstPort (n : Fin 4) (s : State) : Host.Outcome State Fault Refusal := .next (s.blockPort n)

/-- TRACE is reset: every buffer IDLE, its record discarded. -/
def State.blockTrace (s : State) : State :=
  s.blockStart 1 (fun t => { t.resetRegs (fun a => a / 0x10000 == 16) with loop := { t.loop with trace := [] } })

/-- BLKRST_TRACE. -/
def execBlkrstTrace (s : State) : Host.Outcome State Fault Refusal := .next s.blockTrace

/-- The decimation chain is reset: spans and waiting resets are abandoned; boot-locked fields keep their carcass values
(R11). -/
def State.blockDecim (s : State) : State :=
  s.blockStart 0 (fun t =>
    let t := t.resetRegs (fun a => a / 0x10000 == 5 && a != A.DECIM_CFG)
    { t with decim := { DecimSt.reset with seed := t.decim.seed } })

/-- BLKRST_DECIM. -/
def execBlkrstDecim (s : State) : Host.Outcome State Fault Refusal := .next s.blockDecim

/-- A write of SYS_BLKRST, bit by bit. -/
def State.blkrstWrite (s : State) (v : BitVec 32) : State :=
  let t := if v.getLsbD 0 then s.blockDecim else s
  let t := if v.getLsbD 1 then t.blockTrace else t
  let t := t.forAll 4 (fun n t => if v.getLsbD (2 + n) then t.blockPort n else t)
  let t := if v.getLsbD 6 then t.blockTring else t
  if v.getLsbD 7 then t.blockDiag else t

/-- BLOCK_RESET_COMPLETE (R34): the bit reads 0; the decimation chain starts again, the ring link enters PASS (R109). -/
def execBlockResetComplete (bit : Fin 8) (s : State) : Host.Outcome State Fault Refusal :=
  .next (if s.evOn A.SYS_BLKRST bit then
      let t := s.setBit A.SYS_BLKRST bit false
      if bit.val = 0 then t.decimStart else if bit.val = 6 then t.wr F.TRING_STAT_STATE rPass else t
    else s)

/-! ### Reference and PLLs (R18, R19, R21) -/

/-- Stage 1 completes once its five rails are in window and the reference runs (R50, step 3): PLLs and the housekeeping
reference buffer are enabled. -/
def State.stage1Check (s : State) : State :=
  if s.pmu.stage1 && !s.sys.pllAOn && [0, 1, 2, 3, 4].all s.railIn && s.on F.SYS_CLKSTAT_XTAL_OK then
    let t := { s with sys := { s.sys with pllAOn := true, pllBOn := true }, hk := { s.hk with refOn := true } }
    (t.wr F.PMU_SEQSTAT_STAGE 1).wr F.HKADC_STAT_RUN 1
  else s

/-- XTAL_WINDOW_END (R19): two windows in a row outside 88 to 104 edges clear XTAL_OK and raise a clock fault, and the
phase clock of PVDD changes to SUP (R337); two in a row inside set it, and the housekeeping converter runs again (R381). -/
def execXtalWindowEnd (edges : Nat) (s : State) : Host.Outcome State Fault Refusal :=
  if s.pmu.mode = .standby ∨ s.pmu.mode = .lockout then .next s
  else
    let good := decide (88 ≤ edges) && decide (edges ≤ 104)
    let g := if good then min 2 (s.sys.xtalGood + 1) else 0
    let b := if good then 0 else min 2 (s.sys.xtalBad + 1)
    let t := { s with sys := { s.sys with xtalGood := g, xtalBad := b } }
    if g = 2 ∧ !t.on F.SYS_CLKSTAT_XTAL_OK then
      let t := t.wr F.SYS_CLKSTAT_XTAL_OK 1
      .next (if t.hk.refOn then t.wr F.HKADC_STAT_RUN 1 else t).stage1Check
    else if b = 2 ∧ t.on F.SYS_CLKSTAT_XTAL_OK then
      let t := (t.wr F.SYS_CLKSTAT_XTAL_OK 0).raise 1 0 1 0 false
      .next (if t.pvddRuns && !t.on F.PMU_PVDD_STAT2_CLKFB then (t.wr F.PMU_PVDD_STAT2_CLKFB 1).ev A.PMU_EVENT 7 else t)
    else .next t

/-- Spread is applied while PLL A is locked, from boot lock on, at a depth that is not 0 (R21). -/
def State.spreadStat (s : State) : State :=
  s.wrB F.SYS_CLKSTAT_SSC_ACTIVE (s.on F.SYS_CLKSTAT_PLLA_LOCK && s.on F.SEC_LOCKSTAT_LOCKED && decide (s.rd F.SYS_PLLA_CFG_SSC_DEPTH ≠ 0))

/-- PLL_LOCK_LOST (R19): the lock bit clears, a clock fault of its code is raised; without PLL A the bridges go
high-impedance (R200). -/
def execPllLockLost (pllB : Bool) (s : State) : Host.Outcome State Fault Refusal :=
  let f := if pllB then F.SYS_CLKSTAT_PLLB_LOCK else F.SYS_CLKSTAT_PLLA_LOCK
  if !s.on f then .next s
  else
    let t := (s.wr f 0).raise 1 0 (if pllB then 3 else 2) 0 false
    .next (if pllB then t else t.outputsPllLost.spreadStat)

/-- PLL_LOCK_ACQUIRED (R18, R19): an enabled PLL locks on a reference within its window and its islands resume; with both
locked for the first time the die leaves reset (R50, step 4). -/
def execPllLockAcquired (pllB : Bool) (s : State) : Host.Outcome State Fault Refusal :=
  if !(if pllB then s.sys.pllBOn else s.sys.pllAOn) || !s.on F.SYS_CLKSTAT_XTAL_OK then .next s
  else
    let t := s.wr (if pllB then F.SYS_CLKSTAT_PLLB_LOCK else F.SYS_CLKSTAT_PLLA_LOCK) 1
    let t := if pllB then t else t.spreadStat
    let t := if t.sys.dieHeld && t.sys.rst.isSome && t.on F.SYS_CLKSTAT_PLLA_LOCK && t.on F.SYS_CLKSTAT_PLLB_LOCK then t.bootRom else t
    .next (if pllB then t else t.outputsKick)

/-! ### Timing source (R23) -/

/-- TSRC_LOCK_GAINED (R23): 64 clean frames of the owner; the ratio tracker is seeded with their mean period (R276). The contexts
of an owning port that runs switch in again; a ring that waits for the lock enters RUNNING (R110). -/
def execTsrcLockGained (period : BitVec 24) (s : State) : Host.Outcome State Fault Refusal :=
  if s.on F.SYS_CLKSTAT_TSRC_LOCKED then .next s
  else
    let src := s.rd F.SYS_TSRC_SRC
    let t := s.wr F.SYS_CLKSTAT_TSRC_LOCKED 1
    let t := { t with sys := { t.sys with lastFa := some (BitVec.ofNat 2 t.faCode) } }
    let t := if src = 5 then t else t.trackerAcquire period.toNat
    .next ((if src < 4 ∧ t.pState src = pRunning then t.portRxIn src else t).ringLockGained).refdlyFa

/-- TSRC_LOCK_LOST (R23): the contexts that the owner feeds are muted by their ramps; the tracker enters INTERNAL (R277). -/
def execTsrcLockLost (s : State) : Host.Outcome State Fault Refusal :=
  if !s.on F.SYS_CLKSTAT_TSRC_LOCKED then .next s
  else .next ((s.forEach s.ownerCtxs (fun c t => t.ctxFault c)).tsrcUnlock)

/-! ### Crossings (R26, R27) -/

/-- BENCH_ACCESS_TIMEOUT (R26): an access to a stopped island is terminated and counted. -/
def execBenchAccessTimeout (s : State) : Host.Outcome State Fault Refusal := .next (s.bump F.SYS_XING_ERR_STALLED)

/-- CROSSING_FIFO_EVENT (R27): a FIFO of a crossing without audio would overflow or underflow: a crossing fault of its
destination island. Audio crossings count slips and underruns in their ports' own commands. -/
def execCrossingFifoEvent (island : Fin 15) (s : State) : Host.Outcome State Fault Refusal :=
  .next (s.raise 1 island 0x10 0 false)

end Sys2Proof.Machine
end

