-- ==== Sys2Proof/Machine/Pmu.lean ====
section
/-!
DEFINITION. Machine/Pmu.lean: sequencer, rails, PVDD converter, hold-up, standby and wake (R327 to R353, R417, R324).
-/

namespace Sys2Proof.Machine

open Sys2Proof

/-! ### Stage 1 (R329, R330) -/

/-- The rail that follows in stage 1 (R329). -/
def stage1Next (r : Nat) : Option Nat :=
  if r = 0 then some 2 else if r = 2 then some 3 else if r = 3 then some 4 else if r = 4 then some 1 else none

/-- Stage 1 runs: it has started and not completed. -/
def State.inStage1 (s : State) : Bool := s.pmu.stage1 && !s.sys.pllAOn

/-- The level of a four-level strap by the resistance to ground in ohms (R36); none where it lies in no band. -/
def strapLevel (ohms : Nat) : Option Nat :=
  if ohms < 2000 then some 0
  else if 5000 ≤ ohms ∧ ohms ≤ 20000 then some 1
  else if 30000 ≤ ohms ∧ ohms ≤ 150000 then some 2
  else if 300000 < ohms then some 3
  else none

/-- The straps, as resistances in ohms, are sampled once after a power-on reset (R36, R415): a level outside the bands counts
as 0 and is marked. -/
def State.sampleStraps (s : State) (bootsel hbAddr0 hbAddr1 : Nat) : State :=
  if s.boot.strapped then s
  else
    let b := strapLevel bootsel
    let h0 := strapLevel hbAddr0
    let h1 := strapLevel hbAddr1
    let lv (x : Option Nat) : Nat := x.getD 0
    let n := 4 * lv h1 + lv h0
    { s with boot := { s.boot with strapped := true, bootsel := lv b, bootselBad := b.isNone },
             hbus := { s.hbus with strapBad0 := h0.isNone, strapBad1 := h1.isNone, strap := n, matchAddr := 0x40 + n } }

/-- STAGE1_START (R329, step 2): with VSYS at the start threshold of the set that BOOTSEL chooses. -/
def execStage1Start (vsys bootsel hbAddr0 hbAddr1 : Nat) (s : State) : Host.Outcome State Fault Refusal :=
  let due : Bool := match s.sys.rst with
    | some (_, .stage1) => true
    | _ => false
  .next (if due && !s.pmu.stage1 && !s.pmu.retryWait && decide (s.pmu.mode = .run) then
      let t := s.sampleStraps bootsel hbAddr0 hbAddr1
      if vsys < t.vsysStart then s else { t with pmu := { t.pmu with stage1 := true } }.railRequest 0
    else s)

/-- A stage is complete once its rails are in window (R332): STAGE_DONE; the last one ends the sequence. -/
def State.stageCheck (s : State) : State :=
  if s.pmu.opened ≠ [] ∨ s.pmu.nextStage = 0 then s
  else
    let t := (s.wr F.PMU_SEQSTAT_STAGE (s.pmu.nextStage + 1)).ev A.PMU_EVENT 0
    if s.pmu.stages.length ≤ s.pmu.nextStage then t.wr F.PMU_SEQSTAT_STATE 2 else t

/-- A rail of the stage in progress is in window, or is given up. -/
def State.stageRail (s : State) (r : Nat) : State :=
  if s.pmu.opened.contains r then
    { s with pmu := { s.pmu with opened := s.pmu.opened.filter (fun x => x != r) } }.stageCheck
  else s

/-- A rail reaches its window: its soft start ends, and the sequencer goes on (R329, R332). -/
def State.railReady (s : State) (r : Nat) : State :=
  if !s.pmu.soft.getLsbD r then s
  else
    let t := { s with pmu := { s.pmu with soft := s.pmu.soft &&& ~~~ railMask r } }
    let t := ((t.setBit A.PMU_RAILSTAT r true).setBit A.PMU_SUPSTAT r false).setBit A.PMU_SUPSTAT (16 + r) false
    if t.inStage1 ∧ r < 5 then
      match stage1Next r with
      | some n => t.railRequest n
      | none => t.stage1Check
    else t.stageRail r

/-- PVDD is in window at its static level: queued demands are applied (R339); after a loss the outputs wait for 10 ms in
window (R344). -/
def State.pvddReady (s : State) : State :=
  if !s.pmu.enabled.getLsbD rPvdd || s.pmu.follow || !s.pvddRuns then s
  else
    let vc := s.rd F.PMU_PVDD_STATIC_VOLTS
    let t := { s with pmu := { s.pmu with follow := true, vcFrom := vc, vcTime := s.now, vT := vc, pvddOk := !s.pmu.pvddLost } }
    let t := { t with pmu := { t.pmu with soft := t.pmu.soft ||| railMask rPvdd } }
    (t.railReady rPvdd).pvddTarget.outputsKick

/-- RAIL_IN_WINDOW. -/
def execRailInWindow (rail : Fin 9) (s : State) : Host.Outcome State Fault Refusal :=
  .next (if rail.val = rPvdd then s.pvddReady else s.railReady rail)

/-- PVDD_SOFT_START_DONE (R339). -/
def execPvddSoftStartDone (s : State) : Host.Outcome State Fault Refusal := .next s.pvddReady

/-- STAGE1_RAIL_TIMEOUT (R330): stage 1 stops; after the third failed attempt only AON runs. -/
def execStage1RailTimeout (rail : Fin 9) (s : State) : Host.Outcome State Fault Refusal :=
  if !s.inStage1 || !s.pmu.soft.getLsbD rail || decide (5 ≤ rail.val) then .next s
  else
    let t := s.forEach [1, 4, 3, 2, 0] (fun r t => t.railOff r)
    let n := t.pmu.tries + 1
    let t := { t with pmu := { t.pmu with stage1 := false, tries := n, lastFail := rail, again := 0 } }
    if 3 ≤ n then .next { t with pmu := { t.pmu with mode := .lockout, lockedOut := true }, sys := { t.sys with rst := none } }
    else .next { t with pmu := { t.pmu with retryWait := true } }

/-- STAGE1_RETRY: 100 ms later stage 1 starts again from step 2 (R330). -/
def execStage1Retry (s : State) : Host.Outcome State Fault Refusal :=
  .next (if s.pmu.retryWait then
      { s with pmu := { s.pmu with retryWait := false, stage1 := true } }.railRequest 0
    else s)

/-! ### Later stages (R331, R332, R361) -/

/-- The stage that is due starts its rails; while CRASH is set PVDD and CHG are neither started nor waited for (R361). -/
def State.stageStart (s : State) : State :=
  match s.pmu.stages[s.pmu.nextStage]? with
  | none => s
  | some g =>
    let rails := g.rails.filter (fun r => !(s.pmu.crash && (r == rPvdd || r == rChg)))
    let t := s.forEach rails (fun r t =>
      if t.railIn r then t
      else
        let t := if r = 5 ∨ r = 6 then t.setBit A.PMU_RAILCTRL r true else t
        t.railRequest r)
    { t with pmu := { t.pmu with nextStage := t.pmu.nextStage + 1, opened := rails.filter (fun r => !t.railIn r) } }.stageCheck

/-- LATER_STAGE_START (R332): the stage before is complete and DELAY has passed. -/
def execLaterStageStart (s : State) : Host.Outcome State Fault Refusal :=
  .next (if s.pmu.seqOn ∧ s.pmu.opened = [] ∧ s.pmu.mode = .run then s.stageStart else s)

/-- STAGE_TIMEOUT (R332): the rail is stopped, flagged and reported; the sequence goes on without it. -/
def execStageTimeout (rail : Fin 9) (s : State) : Host.Outcome State Fault Refusal :=
  .next (if s.pmu.opened.contains rail.val then
      let t := ((s.railOff rail).setBit A.PMU_SEQSTAT (16 + rail) true).ev A.PMU_EVENT 1
      (t.raise 0xA rail 1 0 true).stageRail rail
    else s)

/-! ### Wakes (R350, R352) -/

/-- A wake (R350): the standby exit reset; stage 1 runs next. -/
def State.wakeReset (s : State) (src : Nat) : State :=
  { s with pmu := { s.pmu with wakeSrc := src } }.resetTrigger .wake

/-- A wake from a source (R330, R350, R352): it ends standby or a lockout; during standby entry it is latched, and acts once
stage 1 is down. -/
def State.wake (s : State) (src : Nat) : State :=
  match s.pmu.mode with
  | .run => s
  | .entry =>
    if s.sys.dieHeld ∧ s.pmu.down = [] then s.wakeReset src
    else if s.pmu.wakeDue = 0 then { s with pmu := { s.pmu with wakeDue := src } } else s
  | .standby => s.wakeReset src
  | .lockout => s.wakeReset src

/-- A wake that was latched acts at the end of step 5 (R352). -/
def State.wakeLatched (s : State) : State :=
  if s.pmu.mode = .entry ∧ s.sys.dieHeld ∧ s.pmu.down = [] ∧ s.pmu.wakeDue ≠ 0 then s.wakeReset s.pmu.wakeDue else s

/-! ### Discharging rails (R333, R334) -/

/-- A rail ends its discharge or gives it up: one that is wanted again starts. -/
def State.railAgain (s : State) (r : Nat) : State :=
  if s.pmu.again.getLsbD r then (s.setBit A.PMU_RAILSTAT (16 + r) false).railOn r else s

/-- RAIL_DISCHARGED (R333). -/
def execRailDischarged (rail : Fin 9) (s : State) : Host.Outcome State Fault Refusal :=
  .next (if s.railDis rail then (((s.setBit A.PMU_RAILSTAT (16 + rail) false).railAgain rail).downDone rail).wakeLatched else s)

/-- DISCHARGE_TIMEOUT (R333): reported, and the shutdown goes on; the rail stays flagged. -/
def execDischargeTimeout (rail : Fin 9) (s : State) : Host.Outcome State Fault Refusal :=
  .next (if s.railDis rail then ((((s.ev A.PMU_EVENT 17).raise 0xA rail 7 0 true).railAgain rail).downDone rail).wakeLatched else s)

/-! ### Window trips and auxiliary rails (R336, R344, R345) -/

/-- The converter stops switching on an overvoltage (R344). -/
def State.pvddOv (s : State) : State :=
  if !s.pmu.enabled.getLsbD rPvdd || s.pmu.ov then s
  else
    let t := { s with pmu := { s.pmu with ov := true } }.pvddStat
    ((t.ev A.PMU_EVENT 9).raise 0xA rPvdd 5 0 false).pvddOut

/-- PVDD below 10 V (R344). -/
def State.pvddUv (s : State) : State :=
  if !s.pmu.enabled.getLsbD rPvdd || !s.pmu.follow then s else (s.ev A.PMU_EVENT 10).pvddOut

/-- RAIL_WINDOW_TRIP (R345): the comparator alone decides. A stage-1 rail causes a brown-out (R330); PVDD acts by R344; a
microphone bias above its window keeps running (R336). A trip while the housekeeping result is in band counts as a
disagreement. -/
def execRailWindowTrip (rail : Fin 9) (exceeds : Bool) (s : State) : Host.Outcome State Fault Refusal :=
  let r := rail.val
  if r = rChg ∨ !s.pmu.enabled.getLsbD r ∨ s.pmu.soft.getLsbD r then .next s
  else
    let t := if s.hkInBand r then s.bump F.PMU_CNT2_SUP_DISAGREE else s
    let t := (t.bump F.PMU_CNT2_RAIL_TRIPS).setBit A.PMU_SUPSTAT (if exceeds then 16 + r else r) true
    let t := t.ev A.PMU_EVENT (if exceeds then 13 else 12)
    let t := (t.setBit A.PMU_RAILSTAT r false).raise 0xA r 2 0 false
    .next (if r < 5 then (if t.sys.pllAOn then t.resetTrigger .bor else t)
      else if r = rPvdd then (if exceeds then t.pvddOv else t.pvddUv)
      else t)

/-- A write of PMU_RAILCTRL (R336, R348): only the microphone biases and the charger, and only once stage 1 is complete. -/
def State.railctrlWrite (s : State) (v : BitVec 32) : State :=
  if getField v 0 5 ≠ 0 ∨ s.sys.pllAOn = false then s.bump F.PMU_CNT_REFUSED
  else
    let t := s.forEach [5, 6] (fun r t =>
      let was := t.evOn A.PMU_RAILCTRL r
      let t := t.setBit A.PMU_RAILCTRL r (v.getLsbD r)
      if v.getLsbD r && !was then t.railRequest r else if !v.getLsbD r && was then t.railDisable r else t)
    let was := t.on F.PMU_RAILCTRL_CHG_EN
    let t := t.wrB F.PMU_RAILCTRL_CHG_EN (v.getLsbD 8)
    if v.getLsbD 8 && !was then
      (if t.holdState = 3 then { t with pmu := { t.pmu with chgOff := false } } else t.chgStart)
    else if !v.getLsbD 8 && was then
      (if t.holdState = 3 then { t with pmu := { t.pmu with chgOff := true } } else t.chgStop)
    else t

/-- RAIL_CTRL_WRITE. -/
def execRailCtrlWrite (v : Word) (s : State) : Host.Outcome State Fault Refusal := .next (s.railctrlWrite v)

/-- A write of PMU_MICB_CFG (R336): each field only while its regulator is off, and only 2.0 V to 3.3 V. -/
def State.micbCfgWrite (s : State) (v : BitVec 32) : State :=
  let one (t : State) (r : Nat) (f : Fld) : State :=
    let x := getField v f.lo 7
    if x = t.rd f then t
    else if t.pmu.enabled.getLsbD r ∨ x < 20 ∨ 33 < x then t.bump F.PMU_CNT_REFUSED
    else (t.wr f x).hkMicb
  one (one s 5 F.PMU_MICB_CFG_MICB0) 6 F.PMU_MICB_CFG_MICB1

/-- MICB_CFG_WRITE. -/
def execMicbCfgWrite (v : Word) (s : State) : Host.Outcome State Fault Refusal := .next (s.micbCfgWrite v)

/-- MICB_SHORT (R336): 1 ms at the limit, or under the window, switches the regulator off until a write enables it again. -/
def execMicbShort (micb1 under : Bool) (s : State) : Host.Outcome State Fault Refusal :=
  let r := if micb1 then 6 else 5
  .next (if s.pmu.enabled.getLsbD r then
      let t := (s.ev A.PMU_EVENT 14).setBit A.PMU_RAILCTRL r false
      let t := if under then t.ev A.PMU_EVENT 12 else t
      (t.railOff r).stageRail r
    else s)

/-! ### Demands (R340, R341) -/

/-- PMU_PVDD_STAT2.QUEUE shows the queue's fill. -/
def State.setDemands (s : State) (q : List (Demand × Bool)) : State :=
  { s with pmu := { s.pmu with queue := q } }.wr F.PMU_PVDD_STAT2_QUEUE q.length

/-- Late or discarded demands are counted. -/
def State.demandsLate (s : State) (n : Nat) : State :=
  if n = 0 then s else (s.forAll n (fun _ t => t.bump F.PMU_CNT_DEMAND_LATE)).ev A.PMU_EVENT 5

/-- LA_BATCH_ARRIVE (R340): the oldest batch on its way joins the queue of 128, or is discarded whole; `late` of its
demands, the oldest, are active at once. -/
def execLaBatchArrive (late : Nat) (s : State) : Host.Outcome State Fault Refusal :=
  match s.dsp.laSent with
  | [] => .next s
  | b :: rest =>
    let s := { s with dsp := { s.dsp with laSent := rest } }
    if 128 < s.pmu.queue.length + b.length then .next (s.demandsLate b.length).pvddTarget
    else
      let n := min late b.length
      let t := s.setDemands (s.pmu.queue ++ (b.take n).map (fun d => (d, true)) ++ (b.drop n).map (fun d => (d, false)))
      .next (({ t with pmu := { t.pmu with laStatic := false } }.demandsLate n).pvddTarget)

/-- The oldest demand that is not active becomes active. -/
def activateFirst : List (Demand × Bool) → List (Demand × Bool)
  | [] => []
  | (d, a) :: t => if a then (d, a) :: activateFirst t else (d, true) :: t

/-- DEMAND_ACTIVE (R340). -/
def execDemandActive (s : State) : Host.Outcome State Fault Refusal :=
  .next (if s.pmu.queue.all (fun d => d.2) then s else (s.setDemands (activateFirst s.pmu.queue)).pvddTarget)

/-- DEMAND_EXPIRED (R340): the oldest demand ends. -/
def execDemandExpired (s : State) : Host.Outcome State Fault Refusal :=
  .next (if s.pmu.queue = [] then s else (s.setDemands s.pmu.queue.tail).pvddTarget)

/-- The loop changes to the static scale where a look-ahead block's scale words have stopped (R211). -/
def State.scaleStatic (s : State) : State :=
  if s.loop.scales = [] then s
  else ({ s with loop := { s.loop with scales := [] } }.ev A.LOOP_EVENT 20).wr F.DSPX_STAT_LA_ACTIVE 0

/-- No batch has come for two F32 periods (R146, R341): of a look-ahead block that runs, two boundaries without one; else none is sent. -/
def State.laSilent (s : State) : Bool :=
  !s.busUp || s.dsp.graph.lookahead.isNone || decide (s.rd F.DSPX_STAT_GRAPH = 0) || decide (2 ≤ s.dsp.laMissed)

/-- LA_TIMEOUT (R341): no batch has arrived for two F32 periods. V_T becomes PVDD_STATIC, and the loop changes to the static scale at
the same boundary (R211). -/
def execLaTimeout (s : State) : Host.Outcome State Fault Refusal :=
  .next (if s.laSilent then (({ s with pmu := { s.pmu with laStatic := true } }.ev A.PMU_EVENT 6).pvddTarget).scaleStatic else s)

/-! ### Limits and protection of PVDD (R337, R342 to R344) -/

/-- PVDD_LIMITED (R342): the causes (none once the episode is over) and the converter's output power, which the governor
takes for the next frame where the phases or VSYS limit (R363); the charger gives way first. -/
def execPvddLimited (cause : BitVec 4) (power : BitVec 16) (s : State) : Host.Outcome State Fault Refusal :=
  let t := s.wr F.PMU_PVDD_STAT2_CAUSE cause.toNat
  if cause = 0 ∨ !s.pvddRuns then .next (if cause = 0 then t else s)
  else
    let t := ((t.ev A.PMU_EVENT 4).bump F.PMU_CNT_PVDD_LIMITED).bump F.GOV_CNT_PVDD_EPISODES
    let t := t.ev A.GOV_EVENT 10
    let t := if cause.getLsbD 0 && (t.holdState = 1 || t.holdState = 2) then t.ev A.PMU_EVENT 25 else t
    .next (if cause.getLsbD 1 || cause.getLsbD 2 then { t with gov := { t.gov with limitedAt := some power.toNat } } else t)

/-- The phases that run at an output current (R343). -/
def State.phasesAt (s : State) (amps : Nat) : Nat :=
  if s.rd F.PMU_PVDD_CFG_PH_SHED2 < amps then 4 else if s.rd F.PMU_PVDD_CFG_PH_SHED1 ≤ amps then 2 else 1

/-- PHASE_SHED (R343): one, two or four phases. -/
def execPhaseShed (amps : Nat) (s : State) : Host.Outcome State Fault Refusal :=
  .next (if s.pvddRuns && s.on F.PMU_PVDD_CFG_SHED_EN then s.wr F.PMU_PVDD_STAT2_PHASES (s.phasesAt amps) else s)

/-- PVDD_OCP (R344): a phase above 1.5 × PH_ILIM in two consecutive periods; a second stop within 1 s leaves the converter stopped. -/
def execPvddOcp (first second : Nat) (s : State) : Host.Outcome State Fault Refusal :=
  if !s.pvddRuns || decide (min first second ≤ 15 * s.rd F.PMU_ILIM_PH_ILIM) then .next s
  else
    let again := decide (s.recent s.pmu.ocpTimes 1000000 ≠ [])
    let p := s.pmu
    let t := { s with pmu := { p with ocp := true, pvddFail := again, follow := false, vcFrom := 0, vcTime := s.now, vT := 0,
                                      soft := p.soft &&& ~~~ railMask rPvdd,
                                      ocpTimes := s.recent p.ocpTimes 1000000 ++ [s.now] } }
    let t := (t.ev A.PMU_EVENT 8).pvddStat.pvddOut
    .next (if again then (t.ev A.PMU_EVENT 11).raise 0xA rPvdd 4 0 true else t)

/-- PVDD_OCP_RESTART (R344): 10 ms later, a soft start from the present PVDD. -/
def execPvddOcpRestart (volts : BitVec 16) (s : State) : Host.Outcome State Fault Refusal :=
  .next (if s.pmu.ocp && !s.pmu.pvddFail && s.pmu.enabled.getLsbD rPvdd then s.pvddStart volts.toNat else s)

/-- PVDD lies above V_C + max(3 V, 10 % of V_C) (R344), UQ6.10 V. -/
def State.overVc (s : State) (volts : Nat) : Bool := decide (10 * s.vcNow + max (30 * 1024) s.vcNow < 10 * volts)

/-- PVDD_OV (R344): above the limit over V_C for 50 µs, or above 56 V at once. -/
def execPvddOv (volts : BitVec 16) (us : Nat) (s : State) : Host.Outcome State Fault Refusal :=
  .next (s.when (decide (56 * 1024 < volts.toNat) || (decide (50 ≤ us) && s.overVc volts.toNat)) State.pvddOv)

/-- PVDD_OV_CLEARED (R344): switching resumes with PVDD back inside the limit over V_C. -/
def execPvddOvCleared (volts : BitVec 16) (s : State) : Host.Outcome State Fault Refusal :=
  .next (if s.pmu.ov && !s.overVc volts.toNat then { s with pmu := { s.pmu with ov := false } }.pvddStat else s)

/-- PVDD_UV (R344): below 10 V for 50 µs. -/
def execPvddUv (volts : BitVec 16) (us : Nat) (s : State) : Host.Outcome State Fault Refusal :=
  .next (s.when (decide (volts.toNat < 10 * 1024) && decide (50 ≤ us)) State.pvddUv)

/-- PVDD_WINDOW_RESTORED (R344): 10 ms in window let the outputs start again. -/
def execPvddWindowRestored (s : State) : Host.Outcome State Fault Refusal :=
  .next (if s.pmu.pvddLost && s.pmu.follow && s.pvddRuns then
      let t := { s with pmu := { s.pmu with pvddLost := false, pvddOk := true } }.setBit A.PMU_RAILSTAT rPvdd true
      ((t.setBit A.PMU_SUPSTAT rPvdd false).setBit A.PMU_SUPSTAT (16 + rPvdd) false).outputsKick
    else s)

/-- PVDD_CLOCK_RETURN (R337). -/
def execPvddClockReturn (s : State) : Host.Outcome State Fault Refusal :=
  .next (if s.on F.SYS_CLKSTAT_XTAL_OK then s.wr F.PMU_PVDD_STAT2_CLKFB 0 else s)

/-- VBAT_THRESHOLD (R328): VBAT_LOW falling, VBAT_HIGH, and 65 V and 62 V, at which the converter and the charger stop and resume. -/
def execVbatThreshold (mv : Nat) (rising : Bool) (s : State) : Host.Outcome State Fault Refusal :=
  .next (if !rising && mv == s.vbatLow false then s.ev A.PMU_EVENT 28
    else if rising && mv == 60000 then s.ev A.PMU_EVENT 29
    else if rising && mv == 65000 then { s with pmu := { s.pmu with vbatStop := true } }.pvddStat
    else if !rising && mv == 62000 then { s with pmu := { s.pmu with vbatStop := false } }.pvddStat
    else s)

/-! ### Hold-up (R346 to R348, R367) -/

/-- BANK_READY (R346). -/
def execBankReady (s : State) : Host.Outcome State Fault Refusal :=
  .next (if s.holdState = 1 then ((s.setHold 2).railReady rChg).ev A.PMU_EVENT 23 else s)

/-- CHG_FAULT (R346): the charger stops; a lasting supply fault. -/
def execChgFault (s : State) : Host.Outcome State Fault Refusal :=
  .next (if s.holdState = 1 ∨ s.holdState = 2 then
      (s.chgStop.ev A.PMU_EVENT 24).raise 0xA rChg 6 0 true
    else s)

/-- HOLDUP_ENTER (R347): from READY, or from CHARGING with HOLD at least HU_FLOOR + 5 V. The governor's P0 rules act from then on
(R367). -/
def execHoldupEnter (hold : Nat) (s : State) : Host.Outcome State Fault Refusal :=
  .next (if s.bankCarries hold then
      let t := ((s.setHold 3).ev A.PMU_EVENT 20).bump F.PMU_CNT_HU_ENTRIES
      let t := { t with pmu := { t.pmu with huTime := t.now } }
      let t := t.forAll 16 (fun o t => t.setGout o { t.gout o with hu := some ((t.gout o).hu.getD 0) })
      ((t.wr F.PMU_HOLD_STAT_HU_ELAPSED 0).wr F.GOV_STATUS_HOLDUP 1).ev A.GOV_EVENT 12
    else s)

/-- HOLDUP_EXIT: VBAT at or above HU_EXIT for 1 ms (R347). -/
def execHoldupExit (s : State) : Host.Outcome State Fault Refusal :=
  .next (if s.holdState = 3 then ((s.holdupLeave 1).ev A.PMU_EVENT 21).holdupEnded
    else if s.holdState = 4 then s.setHold 1 else s)

/-- HOLDUP_SPENT (R347). -/
def execHoldupSpent (s : State) : Host.Outcome State Fault Refusal :=
  .next (if s.holdState = 3 then ((s.holdupLeave 4).ev A.PMU_EVENT 22).holdupEnded else s)

/-! ### Standby and wake (R324, R349 to R352, R417) -/

/-- A write of PMU_STBYCTRL (R349): refused while the WAKE pin would wake the device at once. -/
def State.stbyctrlWrite (s : State) (v : BitVec 32) : State :=
  if getField v 16 16 ≠ 0x5342 then s.bump F.PMU_CNT_REFUSED
  else if !v.getLsbD 0 then s
  else if s.pmu.wakePin && s.on F.PMU_WAKECFG_PIN_EN then (s.bump F.PMU_CNT_REFUSED).ev A.PMU_EVENT 2
  else s.standbyRequest

/-- STBY_GO. -/
def execStbyGo (v : Word) (s : State) : Host.Outcome State Fault Refusal := .next (s.stbyctrlWrite v)

/-- STBY_AUTO: WAKE has been inactive for WAKE_OFF seconds (R349). -/
def execStbyAuto (s : State) : Host.Outcome State Fault Refusal :=
  .next (if s.on F.PMU_WAKECFG_WAKE_OFF && s.pmu.wakeCount && !s.sys.dieHeld then s.standbyRequest else s)

/-- STBY_CURRENT_REACHED (R349): only AON runs. -/
def execStbyCurrentReached (s : State) : Host.Outcome State Fault Refusal :=
  if s.pmu.mode = .entry ∧ s.sys.dieHeld ∧ s.pmu.down = [] then
    if s.pmu.wakeDue ≠ 0 then .next s.wakeLatched
    else .next { s with pmu := { s.pmu with mode := .standby } }
  else .next s

/-- A write of PMU_WAKECFG (R350, R351): mirrored into AON; the WAKE_OFF count starts again. -/
def State.wakecfgWrite (s : State) (v : BitVec 32) : State :=
  if getField v 0 3 = 0 ∨ getField v 8 8 = 0 then s.bump F.PMU_CNT_REFUSED
  else
    let v := v &&& 0x00FFFF07
    { s.setReg A.PMU_WAKECFG v with pmu := { s.pmu with wakeCfg := v, wakeCount := !s.pmu.wakePin } }

/-- WAKECFG_WRITE. -/
def execWakecfgWrite (v : Word) (s : State) : Host.Outcome State Fault Refusal := .next (s.wakecfgWrite v)

/-- WAKE_PIN_CHANGE (R349). -/
def execWakePinChange (active : Bool) (s : State) : Host.Outcome State Fault Refusal :=
  .next { s with pmu := { s.pmu with wakePin := active, wakeCount := !active } }

/-- WAKE_PIN_WAKE (R350): the pin has been high for PIN_DEB ms. -/
def execWakePinWake (s : State) : Host.Outcome State Fault Refusal :=
  let t := { s with pmu := { s.pmu with wakePin := true, wakeCount := false } }
  .next (if s.pmu.wakeCfg.getLsbD 0 then t.wake 1 else t)

/-- RING_ACTIVITY_WAKE (R350). -/
def execRingActivityWake (s : State) : Host.Outcome State Fault Refusal :=
  .next (if s.pmu.wakeCfg.getLsbD 2 then s.wake 4 else s)

/-- HOST_MATCH_WAKE (R417): where the address is the one it compares with, the matcher holds HB_SCL and starts a wake. -/
def execHostMatchWake (addr : BitVec 7) (s : State) : Host.Outcome State Fault Refusal :=
  .next (if s.pmu.wakeCfg.getLsbD 1 && addr.toNat == s.hbus.matchAddr && (s.pmu.mode = .standby || s.pmu.mode = .lockout) then
      let t := s.wake 2
      { t with hbus := { t.hbus with sclHeld := true, matched := true } }
    else s)

/-- HOST_MATCH_RELEASE (R417): the host interface is not running 20 ms after the match. -/
def execHostMatchRelease (s : State) : Host.Outcome State Fault Refusal :=
  .next { s with hbus := { s.hbus with sclHeld := false } }

/-- STBY_LINE_CHECK (R324): where checks are on, the findings of the outputs with STBY_EN that were checked, clear, short to ground
or short to supply; the others read not checked. -/
def execStbyLineCheck (findings : List (Fin 16 × Fin 3)) (s : State) : Host.Outcome State Fault Refusal :=
  if s.pmu.mode = .standby ∧ u16 s.diagGlobal 2 ≠ 0 then
    let w := (findings.filter (fun f => (u8 (s.diagOut f.1) 1).testBit 2)).foldl (fun w f => putField w (2 * f.1.val) 2 (f.2.val + 1)) 0
    .next { s with diag := { s.diag with stby := w } }
  else .next s

end Sys2Proof.Machine
end

