-- ==== Sys2Proof/Machine/Gov.lean ====
section
/-!
DEFINITION. Machine/Gov.lean: the energy governor: stored energy and its caps, active discharge, power allocation, power
policy (R354 to R370).
-/

namespace Sys2Proof.Machine

open Sys2Proof

/-! ### Arithmetic -/

/-- Terms of 2 × artanh of a fraction: t = 2^60 × z^(2i+1), z = num ÷ den. -/
def artanhTerms : Nat → Nat → Nat → Nat → Nat → Nat
  | 0, _, _, _, _ => 0
  | n + 1, i, t, num, den => 2 * t / (2 * i + 1) + artanhTerms n (i + 1) (t * num * num / (den * den)) num den

/-- ln y in units of 2^−60, for y from 1 to 2^16: y = 2^k × (1 + f), ln 2 by its 60-bit value. -/
def lnFix (y : Nat) : Nat :=
  let k := Nat.log2 y
  let d := y - 2 ^ k
  let e := y + 2 ^ k
  k * 799144290325165978 + artanhTerms 24 0 (d * 2 ^ 60 / e) d e

/-! ### Power policy, table 0x0002 (R369) -/

/-- The defaults of the global entry. -/
def govDfltGlobal : List (BitVec 8) := [0xFF, 20, 0, 0, 8, 30, 0x40, 0x06, 0x00, 0x38, 0, 0, 10, 135, 0, 0]

/-- The defaults of an output entry; RESERVE and L_LEG have none (0 here). -/
def govDfltOut : List (BitVec 8) := [0, 1, 0, 0, 0, 0, 0x58, 0x02, 0, 0, 0, 0, 0, 0, 0, 0]

/-- The global entry of a table 0x0002. -/
def govGlobalOf (es : List (List (BitVec 8))) : List (BitVec 8) := (es.find? (fun e => u8 e 0 == 0xFF)).getD govDfltGlobal

/-- The entry of output `o` in a table 0x0002. -/
def govOutOf (es : List (List (BitVec 8))) (o : Nat) : List (BitVec 8) := (es.find? (fun e => u8 e 0 == o)).getD govDfltOut

/-- The global entry in effect. -/
def State.govGlobal (s : State) : List (BitVec 8) := govGlobalOf (s.polEntries 2)

/-- The entry of output `o` in effect. -/
def State.govOut (s : State) (o : Nat) : List (BitVec 8) := govOutOf (s.polEntries 2) o

/-- 100 + CTOL. -/
def State.tolHigh (s : State) : Nat := 100 + u8 s.govGlobal 1

/-- max(PVDD_STATIC, P0_VREQ), UQ6.10 V (R355). -/
def State.vRes (s : State) : Nat := max (s.rd F.PMU_PVDD_STATIC_VOLTS) (u16 s.govGlobal 8)

/-- CHG is in a stage of the sequencer. -/
def State.chgStaged (s : State) : Bool := s.pmu.stages.any (fun g => g.rails.contains rChg)

/-- GOV_LIMIT_MIN (R355), rounded up to the next 1/256 J. -/
def State.limitMin (s : State) : Nat :=
  let hv := 256 * s.rd F.PMU_HOLD_CFG_HOLD_V
  let bank := if s.chgStaged then s.rd F.GOV_CAP_HOLD * (hv * hv) else 0
  (s.tolHigh * (s.rd F.GOV_CAP_PVDD * (s.vRes * s.vRes) + bank) + 10000000 * 8192 - 1) / (10000000 * 8192)

/-! ### Stored energy and its caps (R354 to R358) -/

/-- The energy of a store in joules as a fraction: its capacitance in 10 µF, the housekeeping result of its voltage raised by
1 % (R354). -/
def State.storeEnergy (s : State) (cap : Nat) (r : Nat × HkEnt) : Nat × Nat :=
  let v := r.1 * 2 ^ r.2.shift
  (cap * s.tolHigh * (v * v) * 91809, 5120000000000000 * (r.2.n * r.2.n))

/-- A fraction of joules as UQ8.8. -/
def joules (e : Nat × Nat) : Nat := min 65535 (roundN (e.1 * 256) e.2)

/-- V_HCAP (R356), UQ6.10 V; HOLD_V where no bank is declared. -/
def State.bankCap (s : State) : Nat :=
  let hv := 256 * s.rd F.PMU_HOLD_CFG_HOLD_V
  let c := s.rd F.GOV_CAP_HOLD * s.tolHigh
  if c = 0 then hv
  else min hv (roundSqrt (s.rd F.GOV_LIMIT_JOULES * 81920000000 - s.rd F.GOV_CAP_PVDD * s.tolHigh * (s.vRes * s.vRes)) c)

/-- V_PCAP (R356), UQ6.10 V, never below max(PVDD_STATIC, P0_VREQ); `eh` is the bank term. -/
def State.pvddCapOf (s : State) (eh : Nat × Nat) : Nat :=
  let c := s.rd F.GOV_CAP_PVDD * s.tolHigh
  let top := s.rd F.PMU_PVDD_RANGE_MAX
  if c = 0 then top
  else max s.vRes (min top (roundSqrt (s.rd F.GOV_LIMIT_JOULES * 81920000000 * eh.2 - 20971520000000 * eh.1) (c * eh.2)))

/-- HOLD as measured, UQ6.10 V. -/
def hkVolts (r : Nat × HkEnt) : Nat := roundN (r.1 * 2 ^ r.2.shift * 96) (5 * r.2.n)

/-- The caps are sent to SUP (R356): a bank above its cap is bled, one that falls more than 1 V below its target charges. -/
def State.sendCaps (s : State) (vp vh hold : Nat) : State :=
  let hu := decide (s.holdState = 3)
  let p := s.pmu
  let t := { s with pmu := { p with vPcap := some vp, vHcap := if hu then p.vHcap else vh } }
  let t := (t.wr F.GOV_CAPS_PVDD vp).wr F.GOV_CAPS_HOLD t.pmu.vHcap
  let t := { t with gov := { t.gov with hdis := t.on F.GOV_STATUS_DISCHARGE || (!hu && decide (vh < hold)) } }
  let t := if t.holdState = 2 ∧ hold + 1024 < vh then t.setHold 1 else t
  t.pvddTarget

/-- APPLIED and ENERGY_OVER of an evaluation (R355, R357); `e` is E in joules. -/
def State.judgeEnergy (s : State) (e : Nat × Nat) : State :=
  let lim := s.rd F.GOV_LIMIT_JOULES
  let t := if e.1 * 256 ≤ lim * e.2 ∧ !s.on F.GOV_STATUS_APPLIED then (s.wr F.GOV_STATUS_APPLIED 1).ev A.GOV_EVENT 0 else s
  if lim * e.2 * 102 < e.1 * 25600 then
    let n := min 4 (t.gov.overRun + 1)
    let t := { t with gov := { t.gov with overRun := n } }
    if n = 4 ∧ !t.gov.overOn then
      let t := { t with gov := { t.gov with overOn := true } }.ev A.GOV_EVENT 2
      (t.bump F.GOV_CNT_OVER).raise 0xB 0 1 0 true
    else t
  else { t with gov := { t.gov with overRun := 0, overOn := false } }

/-- GOV_EVALUATE (R354, R356, R358): from boot lock on, with both results valid. -/
def execGovEvaluate (s : State) : Host.Outcome State Fault Refusal :=
  if !s.busUp || !s.on F.SEC_LOCKSTAT_LOCKED then .next s
  else
    match s.hkResult 2, s.hkResult 3 with
    | some p, some h =>
      let ep := s.storeEnergy (s.rd F.GOV_CAP_PVDD) p
      let eh := s.storeEnergy (s.rd F.GOV_CAP_HOLD) h
      let t := (s.wr F.GOV_ENERGY_PVDD (joules ep)).wr F.GOV_ENERGY_HOLD (joules eh)
      .next ((t.sendCaps (t.pvddCapOf eh) t.bankCap (hkVolts h)).judgeEnergy (ep.1 * eh.2 + eh.1 * ep.2, ep.2 * eh.2))
    | _, _ => .next s

/-- A write of GOV_LIMIT (R355). -/
def State.govLimitWrite (s : State) (v : Nat) : State :=
  if s.rd F.GOV_LIMIT_MAX_MIN ≤ v ∧ v ≤ s.rd F.GOV_LIMIT_MAX_MAX ∧ !s.on F.GOV_STATUS_DISCHARGE then
    (s.wr F.GOV_LIMIT_JOULES v).wr F.GOV_STATUS_APPLIED 0
  else (s.bump F.GOV_CNT_REFUSED).ev A.GOV_EVENT 1

/-- GOV_LIMIT_WRITE. -/
def execGovLimitWrite (v : Word) (s : State) : Host.Outcome State Fault Refusal := .next (s.govLimitWrite (getField v 0 16))

/-! ### Active discharge (R359 to R361) -/

/-- CRASH_N (R359): held low for 10 µs it triggers. SUP latches CRASH wherever it runs; the discharge and the outputs follow
once the digital die runs. -/
def execCrashN (lowUs : Nat) (s : State) : Host.Outcome State Fault Refusal :=
  let t := { s with pmu := { s.pmu with crashLow := decide (lowUs ≠ 0) } }
  .next (if decide (lowUs < 10) || decide (t.pmu.mode = .standby) || decide (t.pmu.mode = .lockout) then t
    else if t.sys.dieHeld then { t with pmu := { t.pmu with crash := true } }
    else t.discharge true)

/-- A write of GOV_CTRL (R359). -/
def State.govCtrlWrite (s : State) (v : BitVec 32) : State :=
  if getField v 16 16 ≠ 0x4443 then s.bump F.GOV_CNT_REFUSED
  else if v.getLsbD 0 then s.discharge false
  else s

/-- GOV_DISCHARGE. -/
def execGovDischarge (v : Word) (s : State) : Host.Outcome State Fault Refusal := .next (s.govCtrlWrite v)

/-- DISCHARGE_PVDD_STOP (R359, step 3): with the outputs stopped, or after 4.1 ms. -/
def execDischargePvddStop (s : State) : Host.Outcome State Fault Refusal :=
  .next (if s.on F.GOV_STATUS_DISCHARGE && !s.gov.pdis then s.dischargePvdd else s)

/-- E is at most 0.2 J (R359) by the housekeeping results of PVDD and HOLD, where both are valid. -/
def State.energySpent (s : State) : Option Bool :=
  match s.hkResult 2, s.hkResult 3 with
  | some p, some h =>
    let ep := s.storeEnergy (s.rd F.GOV_CAP_PVDD) p
    let eh := s.storeEnergy (s.rd F.GOV_CAP_HOLD) h
    some (decide (5 * (ep.1 * eh.2 + eh.1 * ep.2) ≤ ep.2 * eh.2))
  | _, _ => none

/-- DISCHARGE_DONE (R359, step 4): E at or below 0.2 J; standby entry goes on (R349). -/
def execDischargeDone (s : State) : Host.Outcome State Fault Refusal :=
  .next (if s.on F.GOV_STATUS_DISCHARGE && !s.on F.GOV_STATUS_DISCHARGED && s.energySpent != some false then
      ((s.wr F.GOV_STATUS_DISCHARGED 1).ev A.GOV_EVENT 5).downStart
    else s)

/-- DIS_FAIL (R359, step 5). -/
def execDisFail (s : State) : Host.Outcome State Fault Refusal :=
  .next (if s.on F.GOV_STATUS_DISCHARGE && !s.on F.GOV_STATUS_DISCHARGED && s.energySpent != some true then
      ((s.ev A.GOV_EVENT 6).raise 0xB 0 2 0 true).downStart
    else s)

/-! ### Power budget (R363). Powers are in units of 2^−16 W. -/

/-- |Z| of output `o` as the demand takes it, UQ8.8 Ω (R363). -/
def State.govZ (s : State) (o : Nat) : Nat :=
  let e := s.diagOut o
  let bands := (List.range 3).filterMap (fun b => (s.band o b).z)
  let c := (s.out o).chans.headD o
  let code := s.rd (F.DIAG_CHc_DC_CODE c)
  let r := s.rd (F.DIAG_CHc_DC_R c)
  let zmin := s.rd (F.DIAG_OUTo_AC_ZMIN o)
  let z :=
    if (u8 e 1).testBit 1 ∧ bands ≠ [] then bands.foldl min 65535
    else if ¬ (code = 0 ∨ code = 4 ∨ r = 0 ∨ s.rd F.DIAG_CFG_R_OPEN < r) then r
    else if s.rd (F.DIAG_OUTo_AC_CONF o) ≠ 0 ∧ zmin ≠ 0 then zmin
    else u16 e 4
  max 1 (max z (u16 e 2))

/-- The output is a degraded dovetailed one: its policy is halved (R363). -/
def State.halved (s : State) (o : Nat) : Bool := (s.out o).lost.isSome

/-- P3 demand on output `o` beside its own signal: the sweep tone, else the pilot (R364). -/
def State.p3Demand (s : State) (o z : Nat) : Nat :=
  let peak :=
    match s.sweep o with
    | some w => if w.starting then 0 else u16 s.diagGlobal 8
    | none =>
      match s.guardEntry o with
      | some e => if s.modelOn o 2 0x0C then u16 e 0x16 else 0
      | none => 0
  roundN (8 * peak * peak) z

/-- An output in the allocation of a frame: its class, weight (halves), reserve, demand, demand within the PVDD cap, P3 demand. -/
structure GovItem where
  o : Nat
  cls : Nat
  weight : Nat
  reserve : Nat
  dem : Nat
  d : Nat
  p3 : Nat

/-- Output `o` in the allocation (R363, R364): demand from the frame's mean of r², at most P_MAX, capped so that its peak fits
V_PCAP × MI_MAX. -/
def State.govItem (s : State) (o : Nat) : GovItem :=
  let e := s.govOut o
  let x := s.gout o
  let z := s.govZ o
  let cls := s.outClass o
  let p3 := s.p3Demand o z
  let paused := match s.sweep o with
    | some w => w.paused
    | none => false
  let meas := if x.samples = 0 then 0 else roundN x.sumSq (x.samples * 2 ^ 26 * z)
  let half := s.halved o
  let top := u16 e 6 * (if half then 32768 else 65536)
  let dem := min top (meas - (if x.p3Refused || paused then 0 else p3))
  let lim := min s.pvddCap (s.rd F.PMU_PVDD_RANGE_MAX) * s.rd (F.MOD_DIEd_CFG_MI_MAX (((s.out o).chans.headD o) / 8))
  let d := if x.peak * 2 ≤ lim then dem else roundN (dem * (lim * lim)) (4 * x.peak * x.peak)
  { o := o, cls := cls, weight := u8 e 1 * (if half then 1 else 2),
    reserve := if cls = 0 then u16 e 2 * (if half then 32768 else 65536) else 0, dem := dem, d := d, p3 := p3 }

/-- Shares by weight (R364): those whose demand lies within their share take it, and the surplus is shared again among the
others. At most one round per item. -/
def shareOut : Nat → Nat → List GovItem → List (Nat × Nat)
  | 0, _, _ => []
  | n + 1, pool, items =>
    let w := items.foldl (fun a i => a + i.weight) 0
    let fits := items.filter (fun i => decide (i.d * w ≤ pool * i.weight))
    if fits = [] then items.map (fun i => (i.o, if w = 0 then 0 else pool * i.weight / w))
    else
      fits.map (fun i => (i.o, i.d)) ++
        shareOut n (pool - fits.foldl (fun a i => a + i.d) 0) (items.filter (fun i => !decide (i.d * w ≤ pool * i.weight)))
termination_by structural n => n

/-- What a list of grants gives output `o`. -/
def grantOf (gs : List (Nat × Nat)) (o : Nat) : Nat := ((gs.find? (fun g => g.1 == o)).map (fun g => g.2)).getD 0

/-- The sum of a list of grants. -/
def grantSum (gs : List (Nat × Nat)) : Nat := gs.foldl (fun a g => a + g.2) 0

/-- P0 takes what remains beyond the reserves, in output order (R364). -/
def p0Grants : Nat → List GovItem → List (Nat × Nat)
  | _, [] => []
  | rem, i :: t =>
    let base := min i.d i.reserve
    let more := min (i.d - base) rem
    (i.o, base + more) :: p0Grants (rem - more) t

/-- P3 in output order, each in full or not at all: those granted (R364). -/
def p3Grants : Nat → List GovItem → List Nat
  | _, [] => []
  | rem, i :: t =>
    let need := i.p3 + (if i.cls = 3 then i.d else 0)
    if need = 0 then p3Grants rem t
    else if need ≤ rem then i.o :: p3Grants (rem - need) t
    else p3Grants rem t

/-- The charger's present draw: while the bank charges or is topped up, a free value (log entry 23). -/
def State.chargerDraw (s : State) : Nat × State := if s.holdState = 1 ∨ s.holdState = 2 then s.draw 20 else (0, s)

/-- What the housekeeping converter measures at an input, in code steps (R377); a free value while it has no valid result (log entry
23). -/
def State.hkMeas (s : State) (input : Nat) : (Nat × Nat) × State :=
  match s.hkResult input with
  | some r => ((r.1 * 2 ^ r.2.shift, r.2.n), s)
  | none =>
    let x := s.draw 12
    ((x.1, 1), x.2)

/-- P_IN (R363). -/
def State.powerIn (s : State) : Nat × State :=
  let c := s.chargerDraw
  let v := c.2.hkMeas 1
  (roundN (s.rd F.PMU_ILIM_IIN_LIM * v.1.1 * 141 * 65536) (16000 * v.1.2) - u8 s.govGlobal 4 * 65536 - c.1, v.2)

/-- The hottest bridge, in units of 1/256 °C, of those with a valid result (R363). -/
def State.hottest (s : State) : Option Int :=
  (List.range 16).foldl (fun m c =>
    match s.hkResult (16 + c) with
    | none => m
    | some r =>
      let t := roundQ (r.1 * 2 ^ r.2.shift * 16 : Nat) r.2.n - 16384
      match m with
      | none => some t
      | some x => some (max x t)) none

/-- The sum of two fractions. -/
def fracAdd (a b : Nat × Nat) : Nat × Nat := (a.1 * b.2 + b.1 * a.2, a.2 * b.2)

/-- R_PATH of channel `c` at a bridge temperature in codes, in units of 2^−32 Ω (R363): on the line through its values at 25 °C (code
1424) and at 150 °C (code 3424). -/
def pathOhmsAt (c : Nat) (t : Nat × Nat) : Nat × Nat :=
  (((Config.pathOhms c false : Int) * (3424 * t.2 - t.1 : Int) + Config.pathOhms c true * (t.1 - 1424 * t.2 : Int)).toNat, 2000 * t.2)

/-- P_COND + P_SW of channel `c` in watts (R363), of its bridge temperature and of PVDD in codes. -/
def State.channelLoss (s : State) (c : Nat) (temp pvdd : Nat × Nat) : Nat × Nat :=
  let xs := (s.path (16 + c)).frame.samples
  let n := max 1 xs.length
  let cells := s.rd (F.MOD_CHc_STAT_CELLS_P c) + s.rd (F.MOD_CHc_STAT_CELLS_N c)
  let slew := s.rd (F.MOD_DIEd_CFG_SLEW (c / 8))
  let levels := s.rd (F.MOD_DIEd_CFG_LEVELS (c / 8))
  let r := pathOhmsAt c temp
  let cond := ((xs.foldl (fun a i => a + i * i) 0).toNat * r.1 * 16, n * 2 ^ 84 * r.2 * max 1 cells)
  let sw := fracAdd (Config.switchEnergy slew levels * 491520000 * cells, 2 ^ 52 * carrierPeriod (s.rd (F.MOD_DIEd_CFG_CARRIER (c / 8))))
    (Config.recoveryPower slew levels * xs.foldl (fun a i => a + i.natAbs) 0, n * 2 ^ 58)
  fracAdd cond (sw.1 * pvdd.1, sw.2 * 2560 * pvdd.2)

/-- The bridge temperatures of channels, in codes. -/
def State.bridgeTemps (s : State) : List Nat → List (Nat × Nat × Nat) × State
  | [] => ([], s)
  | c :: cs =>
    let t := s.hkMeas (16 + c)
    let rest := t.2.bridgeTemps cs
    ((c, t.1) :: rest.1, rest.2)

/-- P_DISS of this frame (R363): P_CORE and the losses of the switching channels, through the filter of 1 s. -/
def State.dissipate (s : State) : State :=
  let v3 := s.hkMeas 6
  let i3 := v3.2.hkMeas 14
  let v4 := i3.2.hkMeas 7
  let i4 := v4.2.hkMeas 15
  let pv := i4.2.hkMeas 2
  let core := fracAdd (1, 2) (fracAdd (3 * v3.1.1 * i3.1.1, 4000000 * v3.1.2 * i3.1.2) (3 * v4.1.1 * i4.1.1, 16000000 * v4.1.2 * i4.1.2))
  let temps := pv.2.bridgeTemps ((List.range 16).filter (fun c => s.rd (F.MOD_CHc_STAT_BRIDGE c) == 1))
  let p := temps.1.foldl (fun a x => fracAdd a (s.channelLoss x.1 x.2 pv.1)) core
  let before := s.gov.pdiss
  let moved := roundQ (((roundN (p.1 * 65536) p.2 : Int) - before) * Config.dissStep s.fa) (2 ^ 32)
  { temps.2 with gov := { temps.2.gov with pdiss := (before + moved).toNat } }

/-- P_TH (R363) of P_PK. -/
def State.powerTh (s : State) (pk : Nat) : Nat :=
  let g := s.govGlobal
  let soft : Int := u8 g 13 * 256
  match s.hottest with
  | none => pk
  | some t =>
    if t ≤ soft then pk
    else if 38400 ≤ t then 0
    else
      let num := pk * (38400 - t).toNat
      let den := (38400 - soft).toNat
      let budget := u8 g 5 * 65536
      if s.gov.pdiss ≤ budget then roundN num den else roundN (num * budget) (den * s.gov.pdiss)

/-- A power as UQ12.4 W. -/
def watts4 (p : Nat) : Nat := min 65535 (roundN p 4096)

/-- A rise of g_gov in a frame: at most the larger of 3 dB and 0.125 (R365). -/
def gainStep (cur target : Nat) : Nat :=
  if target ≤ cur then target
  else min target (max (roundN (cur * 1412537544622754) 1000000000000000) (cur + 268435456))

/-- What the allocation gives an output: grant and P3 granted, and the budget: P_AVAIL, the constraint that binds, those within
2 % of it, and the RESERVE rule of R366 in force. -/
structure GovBudget where
  avail : Nat
  prim : Nat
  near : Nat
  short : Bool
  hu : Bool
  grants : List (Nat × Nat)
  p3 : List Nat

/-- The gain and the cause report of an output (R365, R367, R368). -/
def State.govReport (s : State) (b : GovBudget) (i : GovItem) : State :=
  let x := s.gout i.o
  let g := grantOf b.grants i.o
  let st := if i.dem ≠ 0 ∧ g = 0 then 2 else if g < i.dem then 1 else 0
  let p3no := decide (i.p3 ≠ 0) && !b.p3.contains i.o
  let ecap := decide (i.d < i.dem)
  let hu := b.hu && decide (i.cls ≠ 0)
  let energy := (hu || ecap) && !b.short && (hu || decide (i.d ≤ g))
  let tie := if ecap ∧ i.d * 100 ≤ g * 102 then 8 else 0
  let cause := if st = 0 ∧ !p3no then 0 else if energy then 8 else b.near ||| tie
  let prim := if st = 0 ∧ !p3no then 0 else if energy then 3 else b.prim
  let changed := decide (s.rd (F.GOV_LIMIT_CAUSEo_STATE i.o) ≠ st) || decide (s.rd (F.GOV_LIMIT_CAUSEo_CAUSE i.o) ≠ cause)
  let half := s.halved i.o
  let fresh := half && !s.on (F.GOV_LIMIT_CAUSEo_HALVED i.o)
  let t := ((s.wr (F.GOV_LIMIT_CAUSEo_STATE i.o) st).wr (F.GOV_LIMIT_CAUSEo_CAUSE i.o) cause).wr (F.GOV_LIMIT_CAUSEo_PRIMARY i.o) prim
  let t := ((t.wr (F.GOV_LIMIT_CAUSEo_CLASS i.o) i.cls).wrB (F.GOV_LIMIT_CAUSEo_HALVED i.o) half).wrB (F.GOV_LIMIT_CAUSEo_P3_REFUSED i.o) p3no
  let t := if changed then t.ev A.GOV_EVENT 8 else t
  let t := if fresh then t.ev A.GOV_EVENT 13 else t
  let t := (t.wr (F.GOV_OUTo_POWER_DEMAND i.o) (watts4 (i.dem + i.p3))).wr (F.GOV_OUTo_POWER_GRANT i.o)
    (watts4 (g + if b.p3.contains i.o then i.p3 else 0))
  let t := if st = 2 then t.bump (F.GOV_OUTo_CNT_REFUSED i.o) else if st = 1 then t.bump (F.GOV_OUTo_CNT_LIMITED i.o) else t
  let cur := match x.hu with
    | some j => if i.cls = 0 then x.gTo else roundN (x.gTo * (256 - j)) 256
    | none => x.gTo
  let target := if g < i.dem then roundSqrt (g * 2 ^ 62) i.dem else 2147483648
  let y := { x with sumSq := 0, samples := 0, peak := 0, p3Refused := p3no }
  let t :=
    if b.hu ∧ 2 ≤ i.cls then t.setGout i.o { y with gFrom := x.gTo }
    else t.setGout i.o { y with gFrom := cur, gTo := gainStep cur target, hu := none }
  if p3no then t.sweepPause i.o else t

/-- GOV_ALLOCATE (R363 to R368): at an F32 boundary, over the bound outputs. -/
def execGovAllocate (s : State) : Host.Outcome State Fault Refusal :=
  if !s.busUp || !s.boot.firmware then .next s
  else
    let gl := s.govGlobal
    let (pin, s) := s.powerIn
    let pk := match s.gov.limitedAt with
      | some p => p * 4096
      | none => u16 gl 6 * 65536
    let s := s.dissipate
    let pth := s.powerTh pk
    let avail := min pin (min pk pth)
    let prim := if pth ≤ avail then 2 else if pk ≤ avail then 1 else 0
    let close (p : Nat) : Bool := decide (p * 100 ≤ avail * 102)
    let near := (if close pin then 1 else 0) + (if close pk then 2 else 0) + (if close pth then 4 else 0)
    let items := ((List.range 16).filter (fun o => decide ((s.out o).chans ≠ []))).map s.govItem
    let of (c : Nat) := items.filter (fun i => i.cls == c)
    let need := (of 0).foldl (fun a i => a + min i.d i.reserve) 0
    let short := decide (avail < need)
    let hu := decide (s.holdState = 3)
    let g0 := p0Grants (avail - need) (of 0)
    let rem := if short then 0 else avail - grantSum g0
    let g1 := shareOut 17 (if hu then min rem (u16 gl 10 * 65536) else rem) (of 1)
    let rem := rem - grantSum g1
    let g2 := if hu then [] else shareOut 17 rem (of 2)
    let p3 := if short || hu then [] else p3Grants (rem - grantSum g2) items
    let g3 := (of 3).map (fun i => (i.o, if p3.contains i.o || (i.p3 == 0 && i.d == 0) then i.d else 0))
    let b : GovBudget := { avail := avail, prim := prim, near := near, short := short, hu := hu, grants := g0 ++ g1 ++ g2 ++ g3, p3 := p3 }
    let t := (s.wr F.GOV_BUDGET_P_AVAIL (watts4 avail)).wr F.GOV_BUDGET_PRIMARY prim
    let t := (t.wr F.GOV_PDISS_P_TH (watts4 pth)).wr F.GOV_PDISS_P_DISS (min 65535 (roundN t.gov.pdiss 256))
    let t := if short then (t.bump F.GOV_CNT_RESERVE_SHORT).ev A.GOV_EVENT 9 else t
    let t := if short && !t.gov.shortOn then t.raise 0xB 0 4 0 false else t
    let t := { t with gov := { t.gov with shortOn := short, limitedAt := none } }
    .next (t.forEach items (fun i t => t.govReport b i))

/-! ### Check 9 (R360, R362, R369, R370) -/

/-- R × C_eff of a store meets R360: R in 0.1 Ω, C in 10 µF, `tol` = 100 + CTOL, GOV_LIMIT_MAX in 1/256 J. -/
def storeDrains (r c tol lim : Nat) : Bool := decide (r * c * tol * (lnFix (5 * lim) - 7 * 799144290325165978) ≤ 90000000 * 2 ^ 60)

/-- The energy into a shorted line of R362 in units of 2^−21 nJ: L_LEG (UQ8.8 µH), TRIP, C_F (nF), V_CLAMP (UQ6.10 V). -/
def lineEnergy (l trip cf v : Nat) : Nat := 2 * (2097152 * 1000000) + l * (trip + 1) * (trip + 1) * 2048000 + cf * (v * v)

/-- Ranges of an entry of table 0x0002 (R369); `p0` says whether the output's class is P0. -/
def govEntryOk (p0 : Nat → Bool) (e : List (BitVec 8)) : Bool :=
  if u8 e 0 = 0xFF then
    decide (u8 e 1 ≤ 50) && decide (u16 e 2 ≤ 400) && decide (1 ≤ u8 e 4) && decide (u8 e 4 ≤ 30) && decide (5 ≤ u8 e 5) &&
    decide (u8 e 5 ≤ 30) && decide (100 ≤ u16 e 6) && decide (u16 e 6 ≤ 1600) && decide (14336 ≤ u16 e 8) &&
    decide (u16 e 8 ≤ 53248) && decide (u16 e 10 ≤ 400) && decide (3 ≤ u8 e 12) && decide (u8 e 12 ≤ 50) &&
    decide (100 ≤ u8 e 13) && decide (u8 e 13 ≤ 145) && (slice e 14 2).all (fun b => b == 0)
  else
    decide (u8 e 0 ≤ 15) && decide (1 ≤ u8 e 1) &&
    (if p0 (u8 e 0) then decide (1 ≤ u16 e 2) && decide (u16 e 2 ≤ 400) else decide (u16 e 2 = 0)) &&
    decide (u8 e 4 = 0) && decide (u8 e 5 = 0) && decide (1 ≤ u16 e 6) && decide (u16 e 6 ≤ 600) &&
    decide (2200 * 256 ≤ u16 e 8 * 1000) && decide (u16 e 8 ≤ 25600) && (slice e 10 6).all (fun b => b == 0)

/-- Check 9 of the power policy (R360, R362, R369, R370): tables 0x0002, 0x0003 and 0x0008, the classes of the outputs; the
registers of BOOTCFG and its stages are in place. -/
def State.govPolicyOk (s : State) (es outs guards : List (List (BitVec 8))) (p0 : Nat → Bool) : Bool :=
  let t := { s with boot := { s.boot with policy := [{ id := 2, entries := es }] } }
  let g := govGlobalOf es
  let bound := outs.filter (fun e => u8 e 1 != 3)
  let hv := s.rd F.PMU_HOLD_CFG_HOLD_V
  let hf := s.rd F.PMU_HOLD_CFG_HU_FLOOR
  let top := s.rd F.GOV_LIMIT_MAX_MAX
  let p0res := u16 g 2
  let vlow := if s.boot.bootsel % 2 = 1 then 36 else 9
  es.any (fun e => u8 e 0 == 0xFF) && es.all (govEntryOk p0) &&
  es.all (fun e => decide ((es.filter (fun x => u8 x 0 == u8 e 0)).length = 1)) &&
  bound.all (fun e => es.any (fun x => u8 x 0 == u8 e 0)) &&
  storeDrains (s.rd F.GOV_DISR_PDIS) (s.rd F.GOV_CAP_PVDD) t.tolHigh top &&
  storeDrains (s.rd F.GOV_DISR_HDIS) (s.rd F.GOV_CAP_HOLD) t.tolHigh top &&
  bound.all (fun e =>
    let ge := (guards.find? (fun x => u8 x 0 == u8 e 0)).getD []
    decide (lineEnergy (u16 (govOutOf es (u8 e 0)) 8) (u8 e 4) (u16 ge 0x10) (u16 ge 8) ≤ u8 g 12 * 2097152000000)) &&
  decide (t.limitMin ≤ top) &&
  (!s.chgStaged ||
    decide ((p0res + u8 g 4 + u16 g 10) * s.rd F.PMU_HOLD_CFG2_HU_TIME * 160000000 ≤
      45 * s.rd F.GOV_CAP_HOLD * (100 - u8 g 1) * (hv * hv - hf * hf))) &&
  decide ((es.filter (fun e => u8 e 0 != 0xFF && p0 (u8 e 0))).foldl (fun a e => a + u16 e 2) 0 = p0res) &&
  decide (p0res ≤ u16 g 6) && decide (100 * (p0res + u8 g 4) ≤ 47 * s.rd F.PMU_ILIM_IIN_LIM * vlow)

end Sys2Proof.Machine
end

