-- ==== Sys2Proof/Machine/Hk.lean ====
section
/-!
DEFINITION. Machine/Hk.lean: the housekeeping converter: sequencing, injected requests, results and windows, calibration,
backing of the rail supervisors (R345, R372 to R387).
-/

namespace Sys2Proof.Machine

open Sys2Proof

/-! ### Samples and results (R373, R377 to R379) -/

/-- A quotient rounded to the nearest; a tie goes either way (log entry 10). -/
def roundNear (num : Int) (den : Nat) : Int :=
  let q := (2 * num + den) / (2 * den)
  if (2 * num + den) % (2 * den) = 0 ∧ !Config.roundUp num den then q - 1 else q

/-- The corrected sample of a raw code (R373). -/
def State.hkSample (s : State) (x : Nat) : Nat :=
  (clampInt 0 4095 (roundNear ((16 * x - s.rdI F.HKADC_SHIM_OFFSET) * (65536 + s.rdI F.HKADC_SHIM_GAIN)) (2 ^ 20))).toNat

/-- The accumulator of entry `k`. -/
def State.hkAcc (s : State) (k : Nat) : HkAcc := Tbl.get { sum := 0, cnt := 0 } s.hk.accs k

/-- Set the accumulator of entry `k`. -/
def State.setHkAcc (s : State) (k : Nat) (a : HkAcc) : State :=
  { s with hk := { s.hk with accs := Tbl.set { sum := 0, cnt := 0 } s.hk.accs k a } }

/-- The entry of slot `k` in a sequence. -/
def HkSeq.ent (q : HkSeq) (k : Nat) : Option HkEnt := q.ents.find? (fun e => e.slot == k)

/-- The band of rail `r` that backs entry `e`, in RESULT units (R386): its own window, for PVDD the band of R344 around V_C, for
the charger the bank cap plus 2 V. -/
def State.railBand (s : State) (r : Nat) (e : HkEnt) : Nat × Nat :=
  let up (v10 : Nat) : Nat := (v10 * 5 * e.n + 960 * 2 ^ e.shift - 1) / (960 * 2 ^ e.shift)
  if r = rPvdd then (51200 * e.n / (96 * 2 ^ e.shift), up (10 * s.vcNow + max 30720 s.vcNow))
  else if r = rChg then (0, up (10 * (s.pmu.vHcap + 2048)))
  else (e.lo, e.hi)

/-- A result of rail `r` reaches SUP (R345): eight in a row out of band, with the rail in its analogue window, are a
disagreement. -/
def State.railResult (s : State) (r : Nat) (e : HkEnt) (v : Nat) : State :=
  let b := s.railBand r e
  let out := decide (v < b.1) || decide (b.2 < v)
  let p := s.pmu
  let n := if out && s.railIn r && !s.on F.HKADC_STAT_CHECK_FAIL then min 8 (Tbl.get 0 p.outBand r + 1) else 0
  let t := { s with pmu := { p with outBand := Tbl.set 0 p.outBand r n,
                                    hkOut := if out then p.hkOut ||| railMask r else p.hkOut &&& ~~~ railMask r } }
  if n = 8 ∧ Tbl.get 0 p.outBand r ≠ 8 then ((t.ev A.PMU_EVENT 16).bump F.PMU_CNT2_SUP_DISAGREE).raise 0xA r 3 0 false else t

/-- A calibration is commanded (R383): ignored while one is pending or running. -/
def State.hkCal (s : State) : State :=
  if s.on F.HKADC_STAT_CAL_PENDING then s else (s.wr F.HKADC_STAT_CAL_PENDING 1).wr F.HKADC_CTRL_CAL 1

/-- The PD0 die temperature has moved by more than CAL_DT since the last calibration (R383): since its last RESULT before the end of
that calibration, or else the first one after it. -/
def State.hkDrift (s : State) (e : HkEnt) (v : Nat) : Bool :=
  match s.hk.calTemp with
  | none => false
  | some (a, d) =>
    let dt := s.hk.seq.calDt
    decide (dt ≠ 0) && decide (dt * 16 * d * e.n < ((v * 2 ^ e.shift * d : Nat) - (a * e.n : Nat) : Int).natAbs)

/-- Entry `e` forms a RESULT (R377, R379, R383, R386, R387). -/
def State.hkForm (s : State) (e : HkEnt) (sum : Nat) : State :=
  let k := e.slot
  let q := sum / 2 ^ e.shift
  let v := min 65535 q
  let sat := decide (65535 < q)
  let was := s.on (F.HKADC_ENTk_RES_OUT k)
  let out := if e.winEn then decide (v < e.lo) || decide (e.hi < v) else false
  let t := ((s.wr (F.HKADC_ENTk_RES_RESULT k) v).wr (F.HKADC_ENTk_RES_VALID k) 1).wrB (F.HKADC_ENTk_RES_SAT k) sat
  let t := if sat then (t.bump F.HKADC_CNT2_SAT).ev A.HKADC_EVENT 13 else t
  let t := t.wrB (F.HKADC_ENTk_RES_OUT k) out
  let t := if out && !was then t.setBit (if k < 32 then A.HKADC_WINEVT0 else A.HKADC_WINEVT1) (k % 32) true else t
  let t := if out && !was && e.fcol then t.raise 0xC 0 3 k false else t
  let t :=
    if e.input = 39 ∧ e.winEn then
      let t := t.wrB F.HKADC_STAT_CHECK_FAIL out
      if out && !was then (t.ev A.HKADC_EVENT 2).raise 0xC 0 2 0 true else t
    else t
  let t := if e.back < 9 then t.railResult e.back e v else t
  if e.input ≠ 32 then t
  else if t.hk.calTemp.isNone then { t with hk := { t.hk with calTemp := some (v * 2 ^ e.shift, e.n) } }
  else if t.hkDrift e v then t.hkCal else t

/-- A valid corrected sample of entry `e`: tracker and accumulator (R377, R378). -/
def State.hkTake (s : State) (e : HkEnt) (x : Nat) : State :=
  let k := e.slot
  let t := if x < s.rd (F.HKADC_ENTk_MM_MIN k) then s.wr (F.HKADC_ENTk_MM_MIN k) x else s
  let t := t.peak (F.HKADC_ENTk_MM_MAX k) x
  let a := t.hkAcc k
  let sum := a.sum + x
  if e.n ≤ a.cnt + 1 then (t.setHkAcc k { sum := 0, cnt := 0 }).hkForm e sum else t.setHkAcc k { sum := sum, cnt := a.cnt + 1 }

/-- A conversion of entry `e` ends (R377, R380): before REF_RDY it is invalid and counted. -/
def State.hkConvert (s : State) (e : HkEnt) (x : Nat) : State :=
  if s.on F.HKADC_STAT_REF_RDY then s.hkTake e (s.hkSample x)
  else (s.bump F.HKADC_CNT_INVALID).ev A.HKADC_EVENT 5

/-! ### Sequencing (R374 to R376) -/

/-- The converter converts: its clock runs, not in standby (R384), and no calibration is running. -/
def State.hkRuns (s : State) : Bool :=
  s.on F.HKADC_STAT_RUN && decide (s.pmu.mode ≠ .standby) && s.on F.SYS_CLKSTAT_XTAL_OK && !s.on F.HKADC_STAT_CAL_BUSY

/-- Set the queue of injected requests; HKADC_STAT.QUEUE shows its fill. -/
def State.setHkQueue (s : State) (q : List Nat) : State :=
  { s with hk := { s.hk with queue := q } }.wr F.HKADC_STAT_QUEUE q.length

/-- The sequence goes on to the next entry. -/
def State.hkNext (s : State) : State :=
  let h := s.hk
  { s with hk := { h with pos := if h.pos + 1 < h.seq.len then h.pos + 1 else 0, settled := 0, done := 0 } }

/-- A slot of the sequence or of the table ends: a settling slot, or a conversion of its entry (R374, R376). -/
def State.hkSlot (s : State) (x : Nat) : State :=
  let h := s.hk
  match h.seq.ent h.pos with
  | none => s.hkNext
  | some e =>
    if h.seq.table ∧ h.settled < e.delay then { s with hk := { h with settled := h.settled + 1 } }
    else
      let t := s.hkConvert e x
      if h.seq.table ∧ h.done + 1 < e.rep then { t with hk := { t.hk with done := h.done + 1 } } else t.hkNext

/-- The slot of an injected request ends (R375). -/
def State.hkInjected (s : State) (k x : Nat) : State :=
  (match s.hk.seq.ent k with
   | some e => s.hkConvert e x
   | none => s).ev A.HKADC_EVENT 8

/-- The next slot is assigned: the oldest queued request has it, else the sequence (R373). -/
def State.hkAssign (s : State) : State :=
  match s.hk.queue with
  | k :: rest => { s with hk := { s.hk with inj := some k } }.setHkQueue rest
  | [] => { s with hk := { s.hk with inj := none } }

/-- HK_CONVERSION: the slot ends and the next is assigned. -/
def execHkConversion (x : BitVec 12) (s : State) : Host.Outcome State Fault Refusal :=
  .next (if !s.hkRuns then s
    else
      (match s.hk.inj with
       | some k => s.hkInjected k x.toNat
       | none => s.hkSlot x.toNat).hkAssign)

/-- A request of injected entry `k` (R375, R383); none while the clock is stopped (R381). -/
def State.hkRequest (s : State) (k : Nat) : State :=
  if s.hk.seq.table || (s.hk.seq.ent k).isNone || !(s.on F.HKADC_STAT_RUN && s.on F.SYS_CLKSTAT_XTAL_OK) then s
  else if s.on F.HKADC_STAT_CAL_PENDING then (s.bump F.HKADC_CNT_DROP_CAL).ev A.HKADC_EVENT 9
  else if 2 ≤ s.hk.queue.length then (s.bump F.HKADC_CNT_DROP_FULL).ev A.HKADC_EVENT 9
  else s.setHkQueue (s.hk.queue ++ [k])

/-- The injected entries with a trigger code, in entry order. -/
def State.hkTriggered (s : State) (trig : Nat) : List Nat :=
  (List.range 8).map (fun j => 32 + j) |>.filter (fun k =>
    match s.hk.seq.ent k with
    | some e => e.trig == trig
    | none => false)

/-- HK_INJECT_TRIGGER: a hardware trigger, codes 0x1 to 0x6. -/
def execHkInjectTrigger (trig : Fin 8) (s : State) : Host.Outcome State Fault Refusal :=
  .next (if trig.val = 0 ∨ trig.val = 7 then s else s.forEach (s.hkTriggered trig) (fun k t => t.hkRequest k))

/-- SW_TRIG: bits of HKADC_CTRL.SW_TRIG written 1. -/
def State.hkSwTrig (s : State) (bits : BitVec 8) : State :=
  s.forEach ((s.hkTriggered 0).filter (fun k => bits.getLsbD (k - 32))) (fun k t => t.hkRequest k)

/-- SW_TRIG. -/
def execSwTrig (bits : BitVec 8) (s : State) : Host.Outcome State Fault Refusal :=
  .next (s.reach A.HKADC_CTRL (fun s => s.hkSwTrig bits))

/-- HK_TIMER: every TIMER µs. -/
def execHkTimer (s : State) : Host.Outcome State Fault Refusal :=
  .next (if s.rd F.HKADC_TIMER_PERIOD = 0 then s else s.forEach (s.hkTriggered 7) (fun k t => t.hkRequest k))

/-! ### Reference, clock (R380, R381) -/

/-- REF_READY: boot calibration starts when it first sets (R382); one that a clock stop abandoned runs again (R383). -/
def execRefReady (s : State) : Host.Outcome State Fault Refusal :=
  .next (if s.hk.refOn && s.on F.HKADC_STAT_RUN && !s.on F.HKADC_STAT_REF_RDY then
      let t := (s.wr F.HKADC_STAT_REF_RDY 1).ev A.HKADC_EVENT 4
      let cal := !t.hk.bootCal || t.hk.calAgain
      let t := { t with hk := { t.hk with bootCal := true, calAgain := false } }
      if cal then t.hkCal else t
    else s)

/-- HK_CLOCK_STOP: the conversion in progress, the queue and a running calibration are lost; accumulators restart empty when
the clock returns. -/
def execHkClockStop (s : State) : Host.Outcome State Fault Refusal :=
  .next (if s.on F.HKADC_STAT_RUN && !s.on F.SYS_CLKSTAT_XTAL_OK then
      let busy := s.on F.HKADC_STAT_CAL_BUSY
      let t := (s.wr F.HKADC_STAT_RUN 0).wr F.HKADC_STAT_REF_RDY 0
      let t := (t.setHkQueue []).ev A.HKADC_EVENT 14
      let t := { t with hk := { t.hk with accs := [], inj := none, calAgain := t.hk.calAgain || busy } }
      if busy then ((t.wr F.HKADC_STAT_CAL_BUSY 0).wr F.HKADC_STAT_CAL_PENDING 0).wr F.HKADC_CTRL_CAL 0 else t
    else s)

/-! ### Calibration (R382, R383) -/

/-- HK_CAL: written by the host or commanded by firmware. -/
def execHkCal (s : State) : Host.Outcome State Fault Refusal := .next (s.reach A.HKADC_CTRL State.hkCal)

/-- HK_CAL_START: no injected conversion is queued or in progress and the reference is ready. -/
def execHkCalStart (s : State) : Host.Outcome State Fault Refusal :=
  .next (if s.on F.HKADC_STAT_CAL_PENDING && s.hkRuns && s.on F.HKADC_STAT_REF_RDY && decide (s.hk.queue = []) && s.hk.inj.isNone then
      s.wr F.HKADC_STAT_CAL_BUSY 1
    else s)

/-- HK_CAL_DONE: the OFFSET and GAIN found. -/
def execHkCalDone (offset gain : BitVec 16) (s : State) : Host.Outcome State Fault Refusal :=
  .next (if !s.on F.HKADC_STAT_CAL_BUSY then s
    else
      let t := { s with hk := { s.hk with accs := [], calTemp := (s.hkResult 32).map (fun (r : Nat × HkEnt) => (r.1 * 2 ^ r.2.shift, r.2.n)) } }
      let t := ((t.wr F.HKADC_STAT_CAL_BUSY 0).wr F.HKADC_STAT_CAL_PENDING 0).wr F.HKADC_CTRL_CAL 0
      if offset.toInt.natAbs ≤ 512 ∧ gain.toInt.natAbs ≤ 1966 then
        let t := (t.wr F.HKADC_SHIM_OFFSET offset.toNat).wr F.HKADC_SHIM_GAIN gain.toNat
        ((t.wr F.HKADC_STAT_CAL_FAIL 0).ev A.HKADC_EVENT 0).bump F.HKADC_CNT2_CAL_COUNT
      else ((t.wr F.HKADC_STAT_CAL_FAIL 1).ev A.HKADC_EVENT 1).raise 0xC 0 1 0 true)

/-! ### Sequences (R384, R385) -/

/-- The configuration of a slot entry of policy table 0x000A. -/
def hkEntOf (e : List (BitVec 8)) : HkEnt :=
  { slot := u8 e 0, input := u8 e 1, n := u8 e 2 + 1, shift := u8 e 3, winEn := (u8 e 4).testBit 0, fcol := (u8 e 4).testBit 1,
    back := if u8 e 5 = 0xFF then 15 else u8 e 5, trig := u8 e 6, rep := u8 e 7, delay := u8 e 8, hi := u16 e 10, lo := u16 e 12 }

/-- Insert an entry, the slots rising. -/
def hkInsert (x : HkEnt) : List HkEnt → List HkEnt
  | [] => [x]
  | y :: t => if x.slot < y.slot then x :: y :: t else y :: hkInsert x t

/-- The sequence of a policy table 0x000A; the default sequence where it has no global entry. -/
def hkSeqOf (es : List (List (BitVec 8))) : HkSeq :=
  match es.find? (fun e => u8 e 0 == 0xFF) with
  | none => HkSeq.dflt
  | some g =>
    { table := u8 g 1 == 1, len := u8 g 2, calDt := u8 g 3, timer := u16 g 4,
      ents := (es.filter (fun e => u8 e 0 != 0xFF)).foldl (fun l e => hkInsert (hkEntOf e) l) [] }

/-- Firmware applies table 0x000A: the sequence waits for its slot boundary (R384). -/
def State.hkLoad (s : State) : State := { s with hk := { s.hk with seqDue := some (hkSeqOf (s.polEntries 10)) } }

/-- HK_SEQ_APPLY: at a slot boundary, after the queued requests. -/
def execHkSeqApply (s : State) : Host.Outcome State Fault Refusal :=
  match s.hk.seqDue with
  | none => .next s
  | some q =>
    if s.hk.queue ≠ [] ∨ s.hk.inj.isSome ∨ !s.hkRuns then .next s
    else
      let old := s.hk.seq
      let same (k : Nat) : Bool := (old.ent k).map (fun e => e.input) == (q.ent k).map (fun e => e.input)
      let t := s.forAll 64 (fun k t =>
        if same k then t else (t.setReg (A.HKADC_ENTk_RES k) 0).setReg (A.HKADC_ENTk_MM k) (regDefault (A.HKADC_ENTk_MM k)))
      let t := { t with hk := { t.hk with seq := q, seqDue := none, accs := [], pos := 0, settled := 0, done := 0 } }
      let t := ((t.wrB F.HKADC_STAT_MODE q.table).wr F.HKADC_TIMER_PERIOD q.timer).hkMicb
      .next ((t.ev A.HKADC_EVENT 12).bumpWrap F.HKADC_STAT_SEQ_GEN)

/-- A write of an entry's window (R379): by the host, not where the entry backs a rail. -/
def State.hkWinWrite (s : State) (k : Nat) (v : BitVec 32) : State :=
  let hi := getField v 16 16
  let lo := getField v 0 16
  let backs := match s.hk.seq.ent k with
    | some e => decide (e.back ≠ 15)
    | none => false
  if decide (hi < lo) || backs then (s.bump F.HKADC_CNT2_WR_REFUSED).ev A.HKADC_EVENT 15
  else
    let ents := s.hk.seq.ents.map (fun e => if e.slot = k then { e with hi := hi, lo := lo } else e)
    { s.setReg (A.HKADC_ENTk_WIN k) v with hk := { s.hk with seq := { s.hk.seq with ents := ents } } }

/-- HK_WIN_WRITE. -/
def execHkWinWrite (k : Fin 64) (v : Word) (s : State) : Host.Outcome State Fault Refusal :=
  .next (s.reach (A.HKADC_ENTk_WIN k) (fun s => s.hkWinWrite k v))

/-- A write of HKADC_CTRL: software triggers, then the calibration command. -/
def State.hkCtrlWrite (s : State) (v : BitVec 32) : State :=
  let t := s.hkSwTrig (BitVec.ofNat 8 (getField v 8 8))
  if v.getLsbD 0 then t.hkCal else t

/-! ### Check 9 (R385) -/

/-- Slots of one pass of a sequence. -/
def HkSeq.pass (q : HkSeq) : Nat :=
  if q.table then (q.ents.filter (fun e => decide (e.slot < q.len))).foldl (fun a e => a + e.delay + e.rep) 0 else q.len

/-- The result interval of an entry in slots (R385). -/
def HkSeq.interval (q : HkSeq) (e : HkEnt) : Nat :=
  if q.table then (if e.n ≤ e.rep then q.pass else (e.n + e.rep - 1) / e.rep * q.pass) else e.n * q.pass

/-- An entry that is not injected. -/
def HkSeq.regular (q : HkSeq) (e : HkEnt) : Bool := decide (e.slot < q.len)

/-- The result interval of an entry is at most so many microseconds: a slot is 24 cycles of 24.576 MHz (R373). -/
def HkSeq.within (q : HkSeq) (e : HkEnt) (us : Nat) : Bool := decide (q.interval e * 1000 ≤ us * 1024)

/-- Check 9 of table 0x000A; `stages` are the rails of the later sequencer stages (stage 1 starts rails 0 to 4). -/
def hkPolicyOk (es : List (List (BitVec 8))) (staged : List Nat) : Bool :=
  let q := hkSeqOf es
  let g := (es.find? (fun e => u8 e 0 == 0xFF)).getD []
  let has (i us : Nat) : Bool := q.ents.any (fun e => e.input == i && q.regular e && q.within e us)
  let backs (r : Nat) : List HkEnt := q.ents.filter (fun e => e.back == r)
  es.any (fun e => u8 e 0 == 0xFF) && decide (u8 g 1 ≤ 1) && decide (1 ≤ u8 g 2) && decide (u8 g 2 ≤ if u8 g 1 = 1 then 64 else 32) &&
  (decide (u8 g 3 = 0) || (decide (5 ≤ u8 g 3) && decide (u8 g 3 ≤ 50))) && (decide (u16 g 4 = 0) || decide (10 ≤ u16 g 4)) &&
  (slice g 6 10).all (fun b => b == 0) &&
  es.all (fun e => decide ((es.filter (fun x => u8 x 0 == u8 e 0)).length = 1)) &&
  es.all (fun e => u8 e 0 == 0xFF ||
    (let inj := !q.table && decide (32 ≤ u8 e 0)
     (if inj then decide (u8 e 0 < 40) else decide (u8 e 0 < q.len)) &&
     decide (u8 e 1 ≤ 47) && decide (u8 e 3 ≤ 8) && decide (u8 e 4 ≤ 3) && (decide (u8 e 5 ≤ 8) || decide (u8 e 5 = 0xFF)) &&
     (inj || decide (u8 e 2 ≠ 0)) && (if inj then decide (u8 e 6 ≤ 7) else decide (u8 e 6 = 0)) &&
     (if q.table then decide (1 ≤ u8 e 7) else decide (u8 e 7 = 1) && decide (u8 e 8 = 0)) && decide (u8 e 9 = 0) &&
     decide (u16 e 12 ≤ u16 e 10) && decide (u16 e 14 = 0) &&
     (!inj || (decide (u8 e 5 = 0xFF) && !(u8 e 4).testBit 1)))) &&
  (List.range q.len).all (fun k => (q.ent k).isSome) &&
  (List.range 4).all (fun i => has i 450) && (List.range 16).all (fun c => has (16 + c) 900) &&
  (List.range 3).all (fun i => has (32 + i) 9000) &&
  q.ents.any (fun e => e.input == 39 && q.regular e && e.winEn && q.within e 9000) &&
  (List.range 9).all (fun r => decide ((backs r).length ≤ 1) &&
    (!(decide (r < 5) || staged.contains r) || (backs r).any (fun e => e.winEn && q.within e 1000)))

end Sys2Proof.Machine
end

