-- ==== Sys2Proof/Machine/Fcol.lean ====
section
/-!
DEFINITION. Machine/Fcol.lean: the fault collector: intake, classification, reactions, safe state, rules, ALIVE, log and jig
(R389 to R412).
-/

namespace Sys2Proof.Machine

open Sys2Proof

/-- Debug access is open (R451). -/
def State.debugOpen (s : State) : Bool := s.otp.lifecycle == 0 || s.on F.SEC_DBGSTAT_OPEN

/-! ### Log (R410, R448) -/

/-- A fault log entry is written: circularly, its completion and policy sources follow. `cls` is CLASS (3 direct), `react` the
reaction byte with NOT_APPLIED, `flags` bit 0 JIG, 1 ESCALATED, 2 class default, 3 lasting hint. -/
def State.faultLog (s : State) (e : Evt) (cls react count flags : Nat) : State :=
  let seq := s.rd F.FCOL_LOGSTAT_NEXT_SEQ
  let slot := seq % 64
  let bytes := leBytes 2 seq ++ leBytes 2 e.id.toNat ++ leBytes 4 (s.rd F.FCOL_TICK_COUNT) ++
    leBytes 1 cls ++ leBytes 1 react ++ leBytes 1 (min 255 count) ++ leBytes 1 flags ++ leBytes 4 e.detail.toNat
  let t := s.forAll 4 (fun j t => t.setReg (A.FCOL_LOGe_Wj slot j) (BitVec.ofNat 32 (u32 bytes (4 * j))))
  let t := t.bumpWrap F.FCOL_LOGSTAT_NEXT_SEQ
  let t := if t.rd F.FCOL_LOGSTAT_ENTRIES = 64 then t.wr F.FCOL_LOGSTAT_WRAPPED 1 else t.bumpWrap F.FCOL_LOGSTAT_ENTRIES
  let heavy := decide (2 ≤ cls) || decide (react % 8 = 4)
  let t := if heavy && decide (t.rd F.FCOL_FIRST_ID = 0) then (t.wr F.FCOL_FIRST_SEQ seq).wr F.FCOL_FIRST_ID e.id.toNat else t
  let t := if cls = 0 then t.ev A.FCOL_EVENT 3 else if cls = 1 then t.ev A.FCOL_EVENT 2 else if cls = 2 then t.ev A.FCOL_EVENT 1 else t
  let t := if 1 ≤ cls ∨ 2 ≤ react % 8 then t.complete 4 (leBytes 2 seq ++ leBytes 2 e.id.toNat) else t
  t.forEach t.intc.pol (fun p t =>
    if p.minClass ≤ cls ∧ (e.id &&& p.mask) = (p.id &&& p.mask) then t.setBit A.INTC_POLEVENT (p.source - 116) true else t)

/-! ### ALIVE, safe state (R406 to R408) -/

/-- ALIVE stops and stays low until a reset that includes the digital die (R408). -/
def State.aliveStop (s : State) : State :=
  let t := { s with fcol := { s.fcol with alive := false, aliveStopped := true } }
  if t.on F.FCOL_STAT_ALIVE_RUN then (t.wr F.FCOL_STAT_ALIVE_RUN 0).ev A.FCOL_EVENT 5 else t

/-- Safe state is entered (R406): outputs off, ALIVE low, PVDD and charger stopped, discharge with its third step at once; a warm
reset in its ramp is abandoned (R31). Nothing where it holds already. -/
def State.enterSafe (s : State) (cause : Nat) : State :=
  if s.on F.FCOL_STAT_SAFE then s
  else
    let t := ((s.wr F.FCOL_STAT_SAFE 1).wr F.FCOL_STAT_SAFE_CAUSE cause).aliveStop
    let t := (t.outputsSafe.pvddStop.discharge false)
    let t := if t.gov.pdis then t else t.dischargePvdd
    t.warmAbandon.ev A.FCOL_EVENT 0

/-- A direct entry into safe state with its log entry (R392, R405, R406). In safe state a command changes nothing, and a mismatch or an
event that finds the priority queue full is logged with NOT_APPLIED (R400). -/
def State.safeDirect (s : State) (cause : Nat) (e : Evt) : State :=
  if s.on F.FCOL_STAT_SAFE then
    (if cause = 2 then s else s.faultLog e 3 (4 + 128) 0 ((if e.jig then 1 else 0) + if e.lasting then 8 else 0))
  else (s.enterSafe cause).faultLog e 3 4 0 ((if e.jig then 1 else 0) + if e.lasting then 8 else 0)

/-! ### Rules (R399, R402 to R404) -/

/-- Active rule `k`. -/
def State.rule (s : State) (k : Nat) : Rule := Tbl.get Rule.none s.fcol.rules k

/-- The lowest-numbered active rule that matches an ID (R399). -/
def State.ruleMatch (s : State) (id : BitVec 16) : Option Nat :=
  (List.range 128).find? (fun k => (s.rule k).valid && decide ((id &&& (s.rule k).mask) = ((s.rule k).id &&& (s.rule k).mask)))

/-- The class defaults: reaction bytes for transient, recurring and lasting (R402). -/
def classDefault (id : BitVec 16) : Nat × Nat × Nat :=
  let c := idClass id
  let k := idCode id
  if c = 0 then (0, 0, 8)
  else if c = 1 then (0, 3, 4)
  else if c = 2 then (if k = 4 then (4, 4, 4) else (1, 2, 2))
  else if c = 3 then (1, 2, 2)
  else if c = 4 then (if k = 5 then (4, 4, 4) else (0, 2, 2))
  else if c = 5 ∨ c = 7 ∨ c = 9 then (0, 0, 2)
  else if c = 10 ∨ c = 13 then (0, 0, 8)
  else if c = 11 then (if k = 1 ∨ k = 2 then (12, 12, 12) else if k = 3 then (4, 4, 4) else (0, 0, 0))
  else if c = 14 then (3, 3, 3)
  else (0, 0, 0)

/-- The reaction bytes of an event with its rule; a rule that is no longer valid leaves the class defaults. -/
def State.reactBytes (s : State) (rule : Option Nat) (id : BitVec 16) : Nat × Nat × Nat :=
  match rule with
  | some k => if (s.rule k).valid then ((s.rule k).reactT.toNat, (s.rule k).reactR.toNat, (s.rule k).reactL.toNat) else classDefault id
  | none => classDefault id

/-- A reaction byte as R398 allows it. -/
def reactOk (b : Nat) : Bool := decide (b < 64) && decide (b % 8 ≤ 4) && (!b.testBit 5 || decide (b % 8 ≤ 1))

/-- Check 9 of table 0x0001 (R403). -/
def fcolPolicyOk (es : List (List (BitVec 8))) : Bool :=
  decide (es.length ≤ 128) && decide (es.foldl (fun a e => a + if (u8 e 11).testBit 0 then 16 else 1) 0 ≤ 256) &&
  es.all (fun e => decide (1 ≤ u16 e 4) && decide (1 ≤ u8 e 6) && decide (u8 e 6 ≤ u8 e 7) && reactOk (u8 e 8) && reactOk (u8 e 9) &&
    reactOk (u8 e 10) && decide (u8 e 11 ≤ 1) && (slice e 12 4).all (fun b => b == 0))

/-- A write of a pending rule (R404): firmware only; fields that R398 and R395 rule out are refused. -/
def State.ruleWrite (s : State) (who : Writer) (k j : Nat) (v : BitVec 32) : State :=
  let ok := if j = 0 then true
    else if j = 1 then decide (getField v 16 16 ≠ 0) && decide (getField v 0 8 ≠ 0) && decide (getField v 0 8 ≤ getField v 8 8)
    else reactOk (getField v 0 8) && reactOk (getField v 8 8) && reactOk (getField v 16 8)
  if who ≠ .firmware || !ok then s.bump F.FCOL_CNT_REFUSED
  else s.setReg (0xC1000 + 0x10 * k + 4 * j) (if j = 2 then v &&& 0xC0FFFFFF else v)

/-- FCOL_RULE_WRITE. -/
def execFcolRuleWrite (who : Writer) (k : Fin 128) (j : Fin 3) (v : Word) (s : State) : Host.Outcome State Fault Refusal :=
  .next (s.ruleWrite who k j v)

/-- Firmware writes the entries of table 0x0001 into the pending rules; a rule without an entry is not valid (R403, R404). -/
def State.ruleLoad (s : State) : State :=
  let es := s.polEntries 1
  s.forAll 128 (fun k t =>
    match es[k]? with
    | none => t.wr (F.FCOL_RULEk_REACT_VALID k) 0
    | some e =>
      let t := (t.wr (F.FCOL_RULEk_MATCH_ID k) (u16 e 0)).wr (F.FCOL_RULEk_MATCH_MASK k) (u16 e 2)
      let t := ((t.wr (F.FCOL_RULEk_WIN_WINDOW k) (u16 e 4)).wr (F.FCOL_RULEk_WIN_R_THRESH k) (u8 e 6)).wr
        (F.FCOL_RULEk_WIN_L_THRESH k) (u8 e 7)
      let t := ((t.wr (F.FCOL_RULEk_REACT_T k) (u8 e 8)).wr (F.FCOL_RULEk_REACT_R k) (u8 e 9)).wr (F.FCOL_RULEk_REACT_L k) (u8 e 10)
      (t.wrB (F.FCOL_RULEk_REACT_PER_INSTANCE k) ((u8 e 11).testBit 0)).wr (F.FCOL_RULEk_REACT_VALID k) 1)

/-- Pending rule `k`. -/
def State.pendingRule (s : State) (k : Nat) : Rule :=
  { valid := s.on (F.FCOL_RULEk_REACT_VALID k), id := BitVec.ofNat 16 (s.rd (F.FCOL_RULEk_MATCH_ID k)),
    mask := BitVec.ofNat 16 (s.rd (F.FCOL_RULEk_MATCH_MASK k)), window := s.rd (F.FCOL_RULEk_WIN_WINDOW k),
    rThresh := s.rd (F.FCOL_RULEk_WIN_R_THRESH k), lThresh := s.rd (F.FCOL_RULEk_WIN_L_THRESH k),
    reactT := BitVec.ofNat 8 (s.rd (F.FCOL_RULEk_REACT_T k)), reactR := BitVec.ofNat 8 (s.rd (F.FCOL_RULEk_REACT_R k)),
    reactL := BitVec.ofNat 8 (s.rd (F.FCOL_RULEk_REACT_L k)), perInst := s.on (F.FCOL_RULEk_REACT_PER_INSTANCE k) }

/-- Counters survive a commit where the rule's ID, MASK, WINDOW and PER_INSTANCE do (R404). -/
def sameCounters (a b : Rule) : Bool :=
  a.valid && b.valid && a.id == b.id && a.mask == b.mask && a.window == b.window && a.perInst == b.perInst

/-- A commit (R404): every pending rule becomes active; the first of a boot starts ALIVE and the watchdog (R408, R409). -/
def State.fcolCommit (s : State) : State :=
  let old := s.fcol
  let rules := (List.range 128).foldl (fun r k => Tbl.set Rule.none r k (s.pendingRule k)) ([] : Tbl Rule)
  let keep (key : Nat) : Bool := sameCounters (Tbl.get Rule.none old.rules (key / 16)) (Tbl.get Rule.none rules (key / 16))
  let first := decide (s.rd F.FCOL_STAT_RULES = 0)
  let t := { s with fcol := { old with rules := rules, ruleCtr := old.ruleCtr.filter (fun e => keep e.1) } }
  let t := t.wr F.FCOL_STAT_RULES (if bootFullRunning ≤ t.boot.state ∧ t.boot.state ≠ bootEarlyOnly then 2 else 1)
  let t := if first then { t with fcol := { t.fcol with wdogAt := t.now } }.wr F.FCOL_STAT_WDOG_RUN 1 else t
  if first && !t.fcol.aliveStopped then t.wr F.FCOL_STAT_ALIVE_RUN 1 else t

/-- COMMIT: firmware only. -/
def execCommit (who : Writer) (s : State) : Host.Outcome State Fault Refusal :=
  .next (if who = .firmware then s.fcolCommit else s.bump F.FCOL_CNT_REFUSED)

/-! ### Units (R389, R393) -/

/-- The units that a fence of an event acts on; none for a class that is not fenceable. -/
def State.evtUnits (s : State) (e : Evt) : List Unit' :=
  let c := idClass e.id
  let i := idInst e.id
  let chans (o : Nat) : List Unit' := (s.out o).chans.map Unit'.channel
  if c = 2 then [.core i]
  else if c = 3 then [.region i e.detail.toNat]
  else if c = 4 then (List.range 4).map (fun k => .channel (4 * i + k))
  else if c = 5 ∨ c = 7 then [.channel i]
  else if c = 8 then chans i
  else if c = 9 then (if idCode e.id < 0x10 then [.channel i] else chans i)
  else []

/-- A unit is fenced, or its fence is on its way. -/
def State.unitFenced (s : State) (u : Unit') : Bool :=
  s.fcol.fenced.contains u ||
  (match u with
   | .channel c => s.on (F.MOD_CHc_STAT_FENCED c)
   | .core c => s.dsp.place.cores.getLsbD c
   | .region i r => s.dsp.place.regions.contains (i, r))

/-- Every unit that an event names is fenced already (R393). -/
def State.evtMasked (s : State) (e : Evt) : Bool :=
  let us := s.evtUnits e
  !us.isEmpty && us.all s.unitFenced

/-! ### Intake (R391, R392) -/

/-- The window of an event's counter, in ticks. -/
def State.evtWindow (s : State) (rule : Option Nat) : Nat :=
  match rule with
  | some k => max 1 (s.rule k).window
  | none => 1000

/-- An event joins its queue. -/
def State.fcolQueue (s : State) (e : Evt) (atRollover contained : Bool) : State :=
  let m := s.ruleMatch e.id
  let b := s.reactBytes m e.id
  let roll := atRollover && decide (s.rd F.FCOL_TICK_COUNT % s.evtWindow m = 0)
  let q : QEvt := { ev := e, rule := m, atRollover := roll, contained := contained }
  let f := s.fcol
  if b.1 % 8 = 4 ∨ b.2.1 % 8 = 4 ∨ b.2.2 % 8 = 4 then
    (if 4 ≤ f.prio.length then s.safeDirect 3 e else { s with fcol := { f with prio := f.prio ++ [q] } })
  else if 32 ≤ f.normal.length then
    ({ s with fcol := { f with overflowDue := true } }.bump F.FCOL_CNT_LOST).ev A.FCOL_EVENT 7
  else { s with fcol := { f with normal := f.normal ++ [q] } }

/-- The fault ID of a detection of the jig's checker (R412), for channel inputs the channel of the input. -/
def jigId (t : Nat) : BitVec 16 :=
  if t < 4 then faultId 2 t 1
  else if t < 10 then faultId 3 (t - 4) 1
  else if t < 0x0E then faultId 4 (t - 0x0A) 1
  else if t < 0x12 then faultId 4 (t - 0x0E) 3
  else if t < 0x16 then faultId 4 (t - 0x12) 6
  else if t < 0x1A then faultId 4 (t - 0x16) 7
  else if t < 0x3A then faultId 5 ((t - 0x1A) % 16) 4
  else faultId 0 0 2

/-- A detection of the armed jig (R412): JIG_DONE; in full mode the configuration comparator enters safe state (R405). -/
def State.jigDetect (s : State) (e : Evt) (roll : Bool) : State :=
  if s.rd F.FCOL_JIGSTAT_STATE ≠ 1 ∨ e.id ≠ jigId (s.rd F.FCOL_JIG_TARGET) then s
  else
    let full := s.on F.FCOL_JIG_MODE
    let t := ((s.wr F.FCOL_JIGSTAT_STATE 2).wr F.FCOL_JIGSTAT_ID e.id.toNat).ev A.FCOL_EVENT 6
    if full ∧ s.rd F.FCOL_JIG_TARGET = 0x3A then t.safeDirect 1 e
    else if t.evtMasked e then t.bump F.FCOL_CNT_MASKED
    else t.fcolQueue e roll (!full)

/-- An event arrives (R391 to R393). -/
def State.fcolArrive (s : State) (e : Evt) (roll : Bool) : State :=
  if s.sys.dieHeld then s
  else if e.jig then s.jigDetect e roll
  else if s.evtMasked e then s.bump F.FCOL_CNT_MASKED
  else s.fcolQueue e roll false

/-- FCOL_EVENT_ARRIVE: an event of a detector outside the model, or the oldest one on its way; `atRollover` in the collector
cycle of a tick. -/
def execFcolEventArrive (ev : Option FaultEvt) (atRollover : Bool) (s : State) : Host.Outcome State Fault Refusal :=
  .next (match ev with
    | some e => s.fcolArrive e atRollover
    | none =>
      match s.fcol.inFlight with
      | [] => s
      | e :: rest => { s with fcol := { s.fcol with inFlight := rest } }.fcolArrive e atRollover)

/-! ### Classification (R394 to R397) -/

/-- The classification of an event in a window: the window's count with it, and whether it was classified lasting before. None:
counted, no reaction (R397). -/
def classifyIn (n : Nat) (was : Bool) (r l : Nat) (hint : Bool) : Option (Nat × Nat) :=
  if was && !hint then none else some (if hint || decide (l ≤ n) then 2 else if r ≤ n then 1 else 0, n)

/-- The more severe of two classifications, the first on a tie. -/
def severer (a b : Option (Nat × Nat)) : Option (Nat × Nat) :=
  match a, b with
  | some x, some y => if x.1 < y.1 then some y else some x
  | some x, none => some x
  | none, y => y

/-- The counter after an event, its classification, and the counts at which R410 logs it. -/
def countEvent (c : Counter) (roll : Bool) (r l : Nat) (hint : Bool) : Counter × Option (Nat × Nat) × List Nat :=
  let n := min 255 (c.n + 1)
  let now := classifyIn n c.lasting r l hint
  let is2 (x : Option (Nat × Nat)) : Bool := match x with
    | some y => decide (y.1 = 2)
    | none => false
  if roll then
    let m := min 255 (c.prevN + 1)
    let prev := classifyIn m c.prevLasting r l hint
    ({ n := n, lasting := c.lasting || is2 now, prevN := m, prevLasting := c.prevLasting || is2 prev }, severer prev now,
     (if prev.isSome then [m] else []) ++ (if now.isSome then [n] else []))
  else ({ c with n := n, lasting := c.lasting || is2 now }, now, if now.isSome then [n] else [])

/-! ### Reactions (R398 to R401) -/

/-- RESET reactions of the last 600 s (R401). -/
def State.resetsRecent (s : State) : Nat := (s.recent s.fcol.resetTimes 600000000).length

/-- FCOL_RSTCNT.RECENT is kept as the record of reset times gives it. -/
def State.rstcntStat (s : State) : State := s.wr F.FCOL_RSTCNT_RECENT (min 255 s.resetsRecent)

/-- The RESET reaction: counted where a warm reset starts. -/
def State.fcolReset (s : State) : State :=
  if s.sys.rst.isSome then s.warmTrigger true 0
  else
    let t := { s with fcol := { s.fcol with resetTimes := s.recent s.fcol.resetTimes 600000000 ++ [s.now] } }
    ((t.bump F.FCOL_RSTCNT_TOTAL).rstcntStat).warmTrigger true 0

/-- The FENCE reaction on units not yet fenced (R399): channels at once, the others through firmware. -/
def State.fcolFence (s : State) (us : List Unit') (id : BitVec 16) : State :=
  let t := { s with dsp := { s.dsp with place := { s.dsp.place with lastFence := id } } }.ev A.FCOL_EVENT 4
  let t := t.forEach us (fun u t =>
    if t.unitFenced u then t
    else
      let t := { t with fcol := { t.fcol with fenced := t.fcol.fenced ++ [u] } }
      match u with
      | .channel c => t.channelFence c
      | _ => { t with fcol := { t.fcol with fenceDue := t.fcol.fenceDue ++ [u] } })
  t.placeSeq

/-- The FAULT biscuit that firmware broadcasts (R411, R113); a received one is never broadcast again. -/
def State.faultBroadcast (s : State) (e : Evt) (cls react : Nat) : State :=
  if s.ringState = 0 ∨ (idClass e.id = 0xF ∧ idCode e.id = 0x10) then s
  else s.ringQueue false (biscuit 0x10 s.ring.seq 0xFFFF s.ringPos
    (leBytes 2 e.id.toNat ++ leBytes 1 cls ++ leBytes 1 react ++ leBytes 4 e.detail.toNat) 0)

/-- RECOMPUTE on a core or a memory (R398): within the next F32 period the stream engine re-reads and checks every committed, mirror
and golden word of the unit; what it detects arrives as new events. -/
def State.fcolReread (s : State) (e : Evt) : State :=
  if idClass e.id = 2 ∨ idClass e.id = 3 then
    { s with fcol := { s.fcol with reread := s.fcol.reread ++ (s.evtUnits e).map (fun u => (u, false)) } }
  else s

/-- An F32 boundary ends the period of the re-reads that ran, and starts that of the others. -/
def State.rereadPeriod (s : State) : State :=
  { s with fcol := { s.fcol with reread := (s.fcol.reread.filter (fun r => !r.2)).map (fun r => (r.1, true)) } }

/-- The reaction of a classified event, with its log entry (R398, R400, R401, R410). -/
def State.fcolReact (s : State) (e : Evt) (cls n : Nat) (byte : Nat) (dflt logged : Bool) : State :=
  let safe := s.on F.FCOL_STAT_SAFE
  let code := byte % 8
  let us := s.evtUnits e
  let escalated := decide (code = 3) && !safe && decide (3 ≤ s.resetsRecent)
  let code' := if escalated then 4 else code
  let void := (safe && decide (3 ≤ code)) || (decide (code = 2) && (us.isEmpty || us.all s.unitFenced))
  let taken := byte / 8 * 8 + code'
  let flags := (if e.jig then 1 else 0) + (if escalated then 2 else 0) + (if dflt then 4 else 0) + (if e.lasting then 8 else 0)
  let t := if logged then s.faultLog e cls (taken + if void then 128 else 0) n flags else s
  let t :=
    if void then t
    else if code' = 1 then t.fcolReread e
    else if code' = 2 then t.fcolFence us e.id
    else if code' = 3 then t.fcolReset
    else if code' = 4 then t.enterSafe 0
    else t
  let t := if byte.testBit 3 then t.aliveStop else t
  if byte.testBit 4 then t.faultBroadcast e cls taken else t

/-- The counter of an event: the rule's, or that of the default bank. -/
def State.evtCounter (s : State) (k : Option Nat) (key : Nat) : Counter :=
  Tbl.get Counter.zero (if k.isSome then s.fcol.ruleCtr else s.fcol.defCtr) key

/-- Set the counter of an event. -/
def State.setEvtCounter (s : State) (k : Option Nat) (key : Nat) (c : Counter) : State :=
  if k.isSome then { s with fcol := { s.fcol with ruleCtr := Tbl.set Counter.zero s.fcol.ruleCtr key c } }
  else { s with fcol := { s.fcol with defCtr := Tbl.set Counter.zero s.fcol.defCtr key c } }

/-- One event is classified (R395 to R397) and reacted to. -/
def State.fcolClassify (s : State) (q : QEvt) : State :=
  let e := q.ev
  if s.evtMasked e then s.bump F.FCOL_CNT_MASKED
  else if q.contained then (s.bump F.FCOL_CNT_JIG).faultLog e 0 0 0 (1 + if e.lasting then 8 else 0)
  else
    let k := q.rule.filter (fun k => (s.rule k).valid)
    let th := match k with
      | some k => ((s.rule k).rThresh, (s.rule k).lThresh)
      | none => (3, 10)
    let r := th.1
    let l := th.2
    let key := match k with
      | some k => 16 * k + if (s.rule k).perInst then idInst e.id else 0
      | none => 16 * idClass e.id + idInst e.id
    let x := countEvent (s.evtCounter k key) q.atRollover r l e.lasting
    let ns := x.2.2
    let t := s.setEvtCounter k key x.1
    match x.2.1 with
    | none => t
    | some (cls, n) =>
      let b := t.reactBytes k e.id
      let byte := if cls = 0 then b.1 else if cls = 1 then b.2.1 else b.2.2
      let logged := !byte.testBit 5 && (ns.any (fun x => decide (x = 1 ∨ x = r ∨ x = l)) || e.lasting || decide (2 ≤ byte % 8))
      let u := idClass e.id
      let t := t.bump (if cls = 0 then F.FCOL_CLSc_TRANSIENT u else if cls = 1 then F.FCOL_CLSc_RECURRING u else F.FCOL_CLSc_LASTING u)
      t.fcolReact e cls n byte k.isNone logged

/-- FCOL_CLASSIFY: the oldest event of the priority queue, else of the normal queue; a place that frees there takes an overflow
event that is due (R392). -/
def execFcolClassify (s : State) : Host.Outcome State Fault Refusal :=
  .next (match s.fcol.prio, s.fcol.normal with
    | q :: rest, _ => { s with fcol := { s.fcol with prio := rest } }.fcolClassify q
    | [], q :: rest =>
      let due := s.fcol.overflowDue
      let t := { s with fcol := { s.fcol with normal := rest, overflowDue := false } }
      let t := if due then t.fcolQueue { id := faultId 0 0 1, detail := 0, lasting := true, jig := false } false false else t
      t.fcolClassify q
    | [], [] => s)

/-- A counter over a number of ticks (R394): a window that ends leaves its count behind for R396. -/
def Counter.roll (c : Counter) (old ticks w : Nat) : Counter :=
  let k := (old + ticks) / w - old / w
  let k := if 2 ^ 32 ≤ old + ticks then max 1 k else k
  if k = 0 then c
  else if k = 1 then { n := 0, lasting := false, prevN := c.n, prevLasting := c.lasting }
  else Counter.zero

/-- FCOL_WINDOW_ROLLOVER: FCOL_TICK advances by so many ticks, and counters whose WINDOW ends restart. -/
def execFcolWindowRollover (ticks : Nat) (s : State) : Host.Outcome State Fault Refusal :=
  if s.sys.dieHeld then .next s
  else
    let old := s.rd F.FCOL_TICK_COUNT
    let f := s.fcol
    let rc := (f.ruleCtr.map (fun e => (e.1, e.2.roll old ticks (max 1 (s.rule (e.1 / 16)).window)))).filter (fun e => decide (e.2 ≠ Counter.zero))
    let dc := (f.defCtr.map (fun e => (e.1, e.2.roll old ticks 1000))).filter (fun e => decide (e.2 ≠ Counter.zero))
    .next ({ s with fcol := { f with ruleCtr := rc, defCtr := dc } }.wr F.FCOL_TICK_COUNT (old + ticks))

/-- FENCE_APPLY: the oldest fence on its way to firmware (R169, R399). -/
def execFenceApply (s : State) : Host.Outcome State Fault Refusal :=
  .next (if !s.busUp then s else match s.fcol.fenceDue with
    | [] => s
    | u :: rest =>
      let t := { s with fcol := { s.fcol with fenceDue := rest } }
      match u with
      | .channel c => t.channelFence c
      | .core c => t.coreFence c t.dsp.place.lastFence
      | .region i r => t.regionFence i r t.dsp.place.lastFence)

/-! ### Commands of the control registers (R404 to R410) -/

/-- CLR_FIRST (R410). -/
def State.clrFirst (s : State) : State := s.setReg A.FCOL_FIRST 0

/-- The SAFE bit of FCOL_CTRL (R406): a wrong key is ignored and counted. -/
def State.fcolSafe (s : State) (who : Writer) (v : BitVec 32) : State :=
  if !v.getLsbD 0 then s
  else if getField v 16 16 ≠ 0x5346 then s.bump F.FCOL_CNT_REFUSED
  else s.safeDirect 2 { id := 0x0004, detail := if who = .firmware then 1 else 0, lasting := false, jig := false }

/-- A write of FCOL_CTRL. -/
def State.fcolCtrlWrite (s : State) (who : Writer) (v : BitVec 32) : State :=
  let t := s.fcolSafe who v
  let t := if v.getLsbD 1 then (if who = .firmware then t.fcolCommit else t.bump F.FCOL_CNT_REFUSED) else t
  if v.getLsbD 2 then t.clrFirst else t

/-- FCOL_SAFE_CMD. -/
def execFcolSafeCmd (who : Writer) (v : Word) (s : State) : Host.Outcome State Fault Refusal := .next (s.fcolSafe who v)

/-- CLR_FIRST. -/
def execClrFirst (s : State) : Host.Outcome State Fault Refusal := .next s.clrFirst

/-- FCOL_CONFIG_MISMATCH (R405). -/
def execFcolConfigMismatch (s : State) : Host.Outcome State Fault Refusal :=
  .next (if s.sys.dieHeld then s else s.safeDirect 1 { id := faultId 0 0 2, detail := 0, lasting := false, jig := false })

/-- ALIVE_TOGGLE (R408). -/
def execAliveToggle (s : State) : Host.Outcome State Fault Refusal :=
  .next (if s.on F.FCOL_STAT_ALIVE_RUN then { s with fcol := { s.fcol with alive := !s.fcol.alive } } else s)

/-- A write of FCOL_WDOG (R404, R409): firmware only; a kick restarts the timer. -/
def State.wdogWrite (s : State) (who : Writer) : State :=
  if who = .firmware then { s with fcol := { s.fcol with wdogAt := s.now } } else s.bump F.FCOL_CNT_REFUSED

/-- KICK. -/
def execKick (who : Writer) (s : State) : Host.Outcome State Fault Refusal := .next (s.wdogWrite who)

/-- 500 000 cycles of the FCOL clock in microseconds where it runs 5 % fast (R394, R409). -/
abbrev wdogLeast : Nat := 9523

/-- WATCHDOG_EXPIRE (R409): 500 000 FCOL cycles without a kick; the timer restarts. -/
def execWatchdogExpire (s : State) : Host.Outcome State Fault Refusal :=
  .next (if s.on F.FCOL_STAT_WDOG_RUN && decide (wdogLeast ≤ s.now - s.fcol.wdogAt) then
      { s with fcol := { s.fcol with wdogAt := s.now } }.fcolArrive { id := faultId 14 0 1, detail := 0, lasting := true, jig := false } false
    else s)

/-! ### Jig (R412) -/

/-- A write of FCOL_JIG. -/
def State.jigWrite (s : State) (who : Writer) (v : BitVec 32) : State :=
  let open' := who == .firmware || s.debugOpen || s.boot.state == bootDryfitRunning || s.boot.state == bootDryfitDone
  let arm := v.getLsbD 31
  if !open' || decide (0x3A < getField v 0 8) || (arm && decide (s.rd F.FCOL_JIGSTAT_STATE = 1)) then s.bump F.FCOL_CNT_REFUSED
  else
    let t := (s.wr F.FCOL_JIG_TARGET (getField v 0 8)).wrB F.FCOL_JIG_MODE (v.getLsbD 8)
    if arm then t.wr F.FCOL_JIGSTAT_STATE 1 else t

/-- JIG_ARM. -/
def execJigArm (who : Writer) (v : Word) (s : State) : Host.Outcome State Fault Refusal := .next (s.jigWrite who v)

/-- JIG_MISSED: no detection within 10 ms; in dry-fit also an entry of severity 2. -/
def execJigMissed (s : State) : Host.Outcome State Fault Refusal :=
  .next (if s.rd F.FCOL_JIGSTAT_STATE = 1 then
      let t := (s.wr F.FCOL_JIGSTAT_STATE 3).ev A.FCOL_EVENT 6
      let t := t.when (t.boot.state == bootDryfitRunning) (fun t => t.dryfitEntry (faultId 0 0 3) 0 2 (leBytes 4 (t.rd F.FCOL_JIG_TARGET)))
      t.fcolArrive { id := faultId 0 0 3, detail := BitVec.ofNat 32 (s.rd F.FCOL_JIG_TARGET), lasting := true, jig := false } false
    else s)

/-- A FAULT biscuit is fed to the collector (R411, R389); it is never broadcast again. -/
def State.faultBiscuit (s : State) (src : Nat) (payload : List (BitVec 8)) : State :=
  s.raise 0xF (src % 16) 0x10 (u16 payload 0 + 65536 * u8 payload 2) false

/-- FAULT_BISCUIT. -/
def execFaultBiscuit (src : BitVec 16) (payload : List Byte) (s : State) : Host.Outcome State Fault Refusal :=
  .next (s.faultBiscuit src.toNat payload)

end Sys2Proof.Machine
end

