-- ==== Sys2Proof/Machine/Intc.lean ====
section
/-!
DEFINITION. Machine/Intc.lean: the interrupt controller: source levels, claim and complete, moderation, counters, IRQ_N, the
alert request and the completion queue (R435 to R449).
-/

namespace Sys2Proof.Machine

open Sys2Proof

/-! ### Sources (R435, R436) -/

/-- The pseudo-source of the completion queue (R435). -/
abbrev cqSource : Nat := 128

/-- The moderation group of a source (R435). -/
def srcGroup (n : Nat) : Nat :=
  if n < 8 then 0 else if n < 24 then 1 else if n < 40 then 2 else if n < 48 then 3 else if n < 52 then 4
  else if n < 60 then 5 else if n < 76 then 6 else if n < 84 then 7 else if n < 92 then 8 else if n < 100 then 9
  else if n < 104 then 10 else if n < 108 then 11 else if n < 112 then 12 else if n < 116 then 13
  else if n < 128 then 14 else 15

/-- Bits lo .. lo+w-1 of an event register that are set with their enables. -/
def State.enabledBits (s : State) (evt en lo w : Nat) : Bool :=
  getField (s.reg evt &&& s.reg en) lo w != 0

/-- The request line of a source, as the owning chapter defines it (R413, R201, R326, R353, R371, R388, R98, R122, R151, R226,
R248, R287, R434, R461, R448, R447). -/
def State.sourceLevel (s : State) (n : Nat) : Bool :=
  if n < 8 then s.enabledBits A.FCOL_EVENT A.FCOL_IRQEN n 1
  else if n < 24 then
    s.enabledBits (A.MOD_OUTo_EVENT (n - 8)) (A.MOD_OUTo_IRQEN (n - 8)) 0 13 ||
      s.enabledBits (A.GUARD_OUTo_EVENT (n - 8)) (A.GUARD_OUTo_IRQEN (n - 8)) 0 12
  else if n < 40 then s.enabledBits (A.DIAG_OUTo_EVENT (n - 24)) (A.DIAG_OUTo_IRQEN (n - 24)) 0 9
  else if n < 48 then s.enabledBits A.PMU_EVENT A.PMU_IRQEN (4 * (n - 40)) 4
  else if n < 52 then s.enabledBits A.GOV_EVENT A.GOV_IRQEN (4 * (n - 48)) 4
  else if n < 54 then s.enabledBits A.HKADC_WINEVT0 A.HKADC_WINEN0 (16 * (n - 52)) 16
  else if n < 56 then s.enabledBits A.HKADC_WINEVT1 A.HKADC_WINEN1 (16 * (n - 54)) 16
  else if n < 60 then s.enabledBits A.HKADC_EVENT A.HKADC_IRQEN (4 * (n - 56)) 4
  else if n < 76 then
    s.enabledBits (A.PORTn_EVENT ((n - 60) / 4)) (A.PORTn_IRQEN ((n - 60) / 4)) (4 * ((n - 60) % 4)) 4
  else if n < 84 then s.enabledBits A.TRING_EVENT A.TRING_IRQEN (4 * (n - 76)) 4
  else if n < 92 then s.enabledBits A.DSPX_EVENT A.DSPX_IRQEN (4 * (n - 84)) 4
  else if n < 100 then s.enabledBits A.LOOP_EVENT A.LOOP_IRQEN (4 * (n - 92)) 4
  else if n < 104 then s.enabledBits A.TRACE_EVENT A.TRACE_IRQEN (4 * (n - 100)) 4
  else if n < 108 then s.enabledBits A.DECIM_EVENT A.DECIM_IRQEN (4 * (n - 104)) 4
  else if n < 112 then s.enabledBits A.HBUS_EVENT A.HBUS_IRQEN (4 * (n - 108)) 4
  else if n < 116 then s.enabledBits A.SEC_EVENT A.SEC_IRQEN (4 * (n - 112)) 4
  else if n < 128 then s.evOn A.INTC_POLEVENT (n - 116)
  else decide (n = cqSource) && !s.intc.cq.isEmpty

/-- The level of a source as last sampled (R436). -/
def State.rawLevel (s : State) (n : Nat) : Bool :=
  if n < 128 then s.evOn (A.INTC_RAWk (n / 32)) (n % 32) else s.intc.cqLevel

/-- Set the sampled level of a source. -/
def State.setRaw (s : State) (n : Nat) (b : Bool) : State :=
  if n < 128 then s.setBit (A.INTC_RAWk (n / 32)) (n % 32) b else { s with intc := { s.intc with cqLevel := b } }

/-- The enable of a source (R436). -/
def State.srcEn (s : State) (n : Nat) : Bool :=
  if n < 128 then s.evOn (A.INTC_ENk (n / 32)) (n % 32) else s.on F.INTC_CQ_CFG_EN

/-- The priority of a source (R436). -/
def State.srcPrio (s : State) (n : Nat) : Nat :=
  if n < 128 then getField (s.reg (A.INTC_PRIOk (n / 8))) (4 * (n % 8)) 4 else s.rd F.INTC_CQ_CFG_PRIO

/-- Does a source request an alert when PENDING (R445)? -/
def State.srcAlert (s : State) (n : Nat) : Bool :=
  if n < 128 then s.evOn (A.INTC_ALERTk (n / 32)) (n % 32) else s.on F.INTC_CQ_CFG_ALERT

/-- The state of a source (R437). -/
def State.src (s : State) (n : Nat) : SrcState := Tbl.get SrcState.idle s.intc.src n

/-- Set the state of a source. -/
def State.setSrc (s : State) (n : Nat) (x : SrcState) : State :=
  { s with intc := { s.intc with src := Tbl.set SrcState.idle s.intc.src n x } }

/-- The sources in a state, in rising order (R435). -/
def State.srcsIn (s : State) (x : SrcState) : List Nat := (List.range 129).filter (fun n => s.src n == x)

/-! ### IRQ_N and the alert request (R444, R445, R429) -/

/-- IRQ_N is driven low (R444); it is released during every reset that includes the digital die (R430). -/
def State.irqLow (s : State) : Bool :=
  s.sys.rst.isNone && s.on F.INTC_CTRL_IRQ_EN && !(s.srcsIn .pending).isEmpty

/-- The alert request is present (R445). -/
def State.alertReq (s : State) : Bool := (s.srcsIn .pending).any (fun n => s.srcAlert n)

/-- ALERT_N is driven low (R429): released from a won response until the request has gone or is asserted again. -/
def State.alertLow (s : State) : Bool :=
  s.sys.rst.isNone && s.alertReq && s.on F.HBUS_CFG_ALERT_EN && !s.hbus.alertWon

/-- Once no alert is requested, a won response no longer holds ALERT_N released. -/
def State.alertSettle (s : State) : State :=
  if s.alertReq then s else { s with hbus := { s.hbus with alertWon := false } }

/-! ### Moderation (R442) -/

/-- The timer of a group runs. -/
def State.modRunning (s : State) (g : Nat) : Bool := s.on (F.INTC_MODg_RUNNING g)

/-- A request of a source passes the gate, with the timer of its group running or not before this BENCH cycle (R442): only an
idle source takes one. -/
def State.gate (s : State) (running : Bool) (n : Nat) : State :=
  if s.src n = .idle then
    if running then s.setSrc n .held
    else
      let t := s.setSrc n .pending
      if t.rd (F.INTC_MODg_MOD_US (srcGroup n)) = 0 then t else t.wr (F.INTC_MODg_RUNNING (srcGroup n)) 1
  else s

/-- A source's edge is counted (R441). -/
def State.countEdge (s : State) (n : Nat) : State := if n < 128 then s.bump (F.INTC_CNTs_COUNT n) else s

/-- A HELD or PENDING source returns to IDLE (R437). -/
def State.srcIdle (s : State) (n : Nat) : State :=
  if s.src n = .held ∨ s.src n = .pending then s.setSrc n .idle else s

/-- The sampled level of a source rises (R436, R441, R442); `running` is its group's timer before this BENCH cycle. Nothing where the
line is low or was high already. -/
def State.levelRise (s : State) (running : Bool) (n : Nat) : State :=
  if !s.sourceLevel n || s.rawLevel n then s
  else
    let t := (s.setRaw n true).countEdge n
    if t.srcEn n then t.gate running n else t

/-- SOURCE_LEVEL_RISE (R436, R441, R442): the sampled level of a source rises, with those of others in the same BENCH cycle. Nothing
while the controller is held in reset. -/
def execSourceLevelRise (n : Fin 129) (more : List (Fin 129)) (s : State) : Host.Outcome State Fault Refusal :=
  .next (if s.sys.dieHeld then s
    else s.forEach (n :: more) (fun k t => t.levelRise (s.modRunning (srcGroup k)) k))

/-- SOURCE_LEVEL_FALL (R437): the sampled level of a source falls; HELD and PENDING return to IDLE, CLAIMED stays. -/
def execSourceLevelFall (n : Fin 129) (s : State) : Host.Outcome State Fault Refusal :=
  if s.sys.dieHeld || s.sourceLevel n || !s.rawLevel n then .next s
  else .next ((s.setRaw n false).srcIdle n).alertSettle

/-- A source becomes enabled or disabled; `running` is its group's timer before the write (R437). -/
def State.enableChange (s : State) (n : Nat) (was now running : Bool) : State :=
  if was == now then s
  else if now then (if s.rawLevel n then s.gate running n else s)
  else s.srcIdle n

/-- A write of INTC_ENk (R436, R437): sources enabled together with their levels high request in one BENCH cycle. -/
def State.intcEnWrite (s : State) (k : Nat) (v : Word) : State :=
  let t := s.setReg (A.INTC_ENk k) v
  (t.forAll 32 (fun b t =>
    t.enableChange (32 * k + b) (s.srcEn (32 * k + b)) (v.getLsbD b) (s.modRunning (srcGroup (32 * k + b))))).alertSettle

/-- A write of INTC_CQ_CFG (R436, R437). -/
def State.intcCqCfgWrite (s : State) (v : Word) : State :=
  let t := s.setReg A.INTC_CQ_CFG (v &&& 0x3F)
  (t.enableChange cqSource (s.srcEn cqSource) (v.getLsbD 4) (s.modRunning 15)).alertSettle

/-- INTC_EN_WRITE (R437). -/
def execIntcEnWrite (k : Fin 4) (v : Word) (s : State) : Host.Outcome State Fault Refusal :=
  if s.sys.dieHeld then .next s else .next (s.intcEnWrite k v)

/-- MODERATION_EXPIRY (R442, R443): levels that have fallen are sampled first; every HELD source of the group is then
presented, and the timer starts again if one was. -/
def execModerationExpiry (g : Fin 16) (s : State) : Host.Outcome State Fault Refusal :=
  if s.sys.dieHeld || !s.modRunning g then .next s
  else
    let held := (s.srcsIn .held).filter (fun n => srcGroup n == g)
    let t := s.wr (F.INTC_MODg_RUNNING g) 0
    let t := t.forEach held (fun n t => if s.sourceLevel n then t.setSrc n .pending else (t.setRaw n false).setSrc n .idle)
    .next (if held.any (fun n => s.sourceLevel n) && decide (t.rd (F.INTC_MODg_MOD_US g) ≠ 0) then
        t.wr (F.INTC_MODg_RUNNING g) 1 else t)

/-! ### Claim and complete (R438 to R440) -/

/-- Of two candidates the one a claim returns (R438): the higher priority, a tie to the lower number. -/
def State.claimBest (s : State) (l : List Nat) : Option Nat :=
  l.foldl (fun b n =>
    match b with
    | none => some n
    | some m => if s.srcPrio m < s.srcPrio n then some n else some m) (none : Option Nat)

/-- A claim (R438): the number returned, and the state after it. -/
def State.intcClaim (s : State) : Nat × State :=
  match s.claimBest (s.srcsIn .pending) with
  | none => (0xFF, s.bump F.INTC_ERR_EMPTY_CLAIM)
  | some n => (n, (s.setSrc n .claimed).alertSettle)

/-- A completion (R439, R441): the level is evaluated again; a high one counts an edge and, of an enabled source, is a new
request. -/
def State.intcComplete (s : State) (n : Nat) : State :=
  if cqSource < n ∨ s.src n ≠ .claimed then s.bump F.INTC_ERR_BAD_COMPLETE
  else
    let t := (s.setSrc n .idle).setRaw n (s.sourceLevel n)
    if s.sourceLevel n then
      let t := t.countEdge n
      if t.srcEn n then t.gate (t.modRunning (srcGroup n)) n else t
    else t

/-! ### Completion queue (R446, R447) -/

/-- The 16 bytes of a completion entry (R446). -/
def CqEntry.bytes (e : CqEntry) : List (BitVec 8) :=
  leBytes 2 e.seq.toNat ++ [e.ty, if e.lost then 1 else 0] ++ slice e.data 0 12

/-! ### Policy table 0x0009 (R448) -/

/-- An entry of policy table 0x0009. -/
def polSourceOf (e : List (BitVec 8)) : PolSource :=
  { source := u8 e 0, minClass := u8 e 1, id := BitVec.ofNat 16 (u16 e 2), mask := BitVec.ofNat 16 (u16 e 4) }

/-- Policy table 0x0009 passes check 9 (R448): at most 12 entries, fields in range, no SOURCE twice. -/
def intcPolicyOk (es : List (List (BitVec 8))) : Bool :=
  decide (es.length ≤ 12) &&
    es.all (fun e => decide (116 ≤ u8 e 0 ∧ u8 e 0 ≤ 127 ∧ u8 e 1 ≤ 3)) && decide (es.map (fun e => u8 e 0)).Nodup

/-- The policy-defined sources take table 0x0009 (R448). -/
def State.polSourceLoad (s : State) : State :=
  { s with intc := { s.intc with pol := (s.polEntries 9).map polSourceOf } }

end Sys2Proof.Machine
end

