-- ==== Sys2Proof/Machine/Sec.lean ====
section
/-!
DEFINITION. Machine/Sec.lean: command results of the host bus (R418), debug access, unlock attempts and lockout (R450 to
R458), the security version (R459, R460).
-/

namespace Sys2Proof.Machine

open Sys2Proof

/-! ### Command results (R418 to R420) -/

/-- RESULT is written and RESULT_SEQ advances (R418). -/
def State.hostResult (s : State) (code : Nat) : State := (s.wr F.HBUS_STAT_RESULT code).bumpWrap F.HBUS_STAT_RESULT_SEQ

/-- A refusal or an error of the host bus: its RESULT, its counter and its event (R419 to R422, R424, R426, R427). -/
def State.hostErr (s : State) (code : Nat) : State :=
  let t := s.hostResult code
  if code = 1 then (t.bump F.HBUS_CNT_PEC).ev A.HBUS_EVENT 0
  else if code = 2 then (t.bump F.HBUS_CNT_BUSY).ev A.HBUS_EVENT 4
  else if code = 3 then (t.bump F.HBUS_CNT2_LENGTH).ev A.HBUS_EVENT 5
  else if code = 4 then t.ev A.HBUS_EVENT 6
  else if code = 5 then (t.bump F.HBUS_CNT2_UNKNOWN).ev A.HBUS_EVENT 3
  else if code = 6 then (t.bump F.HBUS_CNT_PROTO).ev A.HBUS_EVENT 1
  else if code = 7 then (t.bump F.HBUS_CNT_TIMEOUT).ev A.HBUS_EVENT 2
  else t

/-! ### Attempts (R450 to R458) -/

/-- The bytes of SYS_UID_LO and SYS_UID_HI, each least significant first (R418, R455). -/
def Otp.uid (o : Otp) : List (BitVec 8) := leBytes 4 o.uidLo.toNat ++ leBytes 4 o.uidHi.toNat

/-- The first 16 bytes of HMAC-SHA-256(K_dev, nonce ‖ UID) (R455). -/
def State.responseFor (s : State) (nonce : List (BitVec 8)) : List (BitVec 8) :=
  slice (hmacSha256 s.otp.kDev (nonce ++ s.otp.uid)) 0 16

/-- The lifecycle and the OTP permit a method: password or challenge-response (R450). -/
def State.methodOk (s : State) (password : Bool) : Bool :=
  s.otp.lifecycle == 1 && (if password then s.otp.pwEn else s.otp.crEn)

/-- Attempts are refused: a lockout runs, or FAILS has reached 32 (R457). -/
def State.lockedOut (s : State) : Bool := decide (32 ≤ s.rd F.SEC_ATTEMPT_FAILS) || decide (s.now < s.sec.lockUntil)

/-- Set the nonce outstanding; SEC_DBGSTAT shows it. -/
def State.setNonce (s : State) (n : Option (List (BitVec 8))) : State :=
  { s.wrB F.SEC_DBGSTAT_NONCE_VALID n.isSome with sec := { s.sec with nonce := n } }

/-- A CHALLENGE on either path: a fresh nonce, the one before discarded (R455, R456). -/
def State.challenge (s : State) (nonce : List (BitVec 8)) : State :=
  let t := s.setNonce (some (slice nonce 0 16))
  { t with sec := { t.sec with nonceUntil := t.now + 60000000 } }

/-- An attempt that R457 or R450 refuses, or that goes under evaluation (R458). -/
def State.attemptGo (s : State) (password : Bool) (a : Attempt) (valid : Bool) : State :=
  if !s.methodOk password || s.debugOpen then s.hostResult 8
  else if s.lockedOut then ((s.bump F.SEC_ATTEMPT_REFUSED).ev A.SEC_EVENT 5).hostResult 8
  else if valid then { s with sec := { s.sec with attempt := some a, relocked := false } }
  else s.hostResult 8

/-- UNLOCK_PW on either path (R454, R458). -/
def State.unlockPw (s : State) (bytes : List (BitVec 8)) : State :=
  if s.sec.attempt.isSome then s.hostResult 2 else s.attemptGo true (.password (slice bytes 0 8)) true

/-- RESPONSE on either path (R455, R458): unless it is answered busy, the nonce is discarded. -/
def State.response (s : State) (bytes : List (BitVec 8)) : State :=
  if s.sec.attempt.isSome then s.hostResult 2
  else (s.setNonce none).attemptGo false (.response (slice bytes 0 16) s.sec.nonce)
    (s.sec.nonce.isSome && decide (s.now < s.sec.nonceUntil))

/-- The secret of an attempt is right (R454, R455). -/
def State.attemptMatches (s : State) : Attempt → Bool
  | .password b => sha256 b == s.otp.pwHash
  | .response b n => match n with
    | some x => s.responseFor x == b
    | none => false

/-- METHOD of an attempt. -/
def Attempt.method : Attempt → Nat
  | .password _ => 1
  | .response _ _ => 2

/-- The lockout in seconds after a failure that leaves FAILS at f (R457). -/
def lockoutSeconds (f : Nat) : Nat := 2 ^ (min f 11 - 1)

/-- A failed attempt is counted and its lockout starts (R457). -/
def State.attemptFail (s : State) : State :=
  let f := s.rd F.SEC_ATTEMPT_FAILS + 1
  let t := (s.wr F.SEC_ATTEMPT_FAILS f).ev A.SEC_EVENT 4
  let t := { t with sec := { t.sec with lockUntil := t.now + 1000000 * lockoutSeconds f } }
  if f = 32 then (t.wr F.SEC_ATTEMPT_PERMANENT 1).ev A.SEC_EVENT 6 else t

/-- A matching attempt opens debug access (R451, R457). -/
def State.debugUnlock (s : State) (method : Nat) : State :=
  let t := (s.wr F.SEC_DBGSTAT_OPEN 1).wr F.SEC_DBGSTAT_METHOD method
  let t := (t.wr F.SEC_ATTEMPT_FAILS 0).ev A.SEC_EVENT 0
  { t with sec := { t.sec with lockUntil := 0 } }

/-- ATTEMPT_EVALUATED (R454, R455, R457, R458): a match opens access unless a RELOCK came during the evaluation; anything
else is a failure. The outcome stands in RESULT. -/
def execAttemptEvaluated (s : State) : Host.Outcome State Fault Refusal :=
  match s.sec.attempt with
  | none => .next s
  | some a =>
    let t := { s with sec := { s.sec with attempt := none, relocked := false } }
    .next (if s.attemptMatches a then
        (if s.sec.relocked then t.hostResult 8 else (t.debugUnlock a.method).hostResult 0)
      else t.attemptFail.hostResult 8)

/-- JTAG_UNLOCK_MAILBOX (R456): the three operations through the mailbox, which share nonce and counter with the host. -/
def execJtagUnlockMailbox (m : Mailbox) (s : State) : Host.Outcome State Fault Refusal :=
  .next (if s.sys.dieHeld then s
    else match m with
      | .challenge n => s.challenge n
      | .response b => s.response b
      | .unlockPw b => s.unlockPw b)

/-- LOCKOUT_END (R457): the time of the lockout has passed. -/
def execLockoutEnd (s : State) : Host.Outcome State Fault Refusal :=
  .next (if s.now < s.sec.lockUntil then s else { s with sec := { s.sec with lockUntil := 0 } })

/-- NONCE_EXPIRE (R455): 60 s after the nonce was issued. -/
def execNonceExpire (s : State) : Host.Outcome State Fault Refusal :=
  .next (if s.now < s.sec.nonceUntil then s else s.setNonce none)

/-- What the JTAG instruction IDCODE reads, whether debug access is open or closed (R452). -/
def State.jtagIdcode (s : State) : BitVec 32 := s.sys.idcode

/-- A write of SEC_CTRL (R451, R458): RELOCK with its key closes debug access; in FACTORY it has no effect. -/
def State.relock (s : State) (v : Word) : State :=
  if s.otp.lifecycle = 0 then s
  else if getField v 16 16 ≠ 0x524C then s.bump F.SEC_CNT_RELOCK_REFUSED
  else if v.getLsbD 0 then
    let t := (s.wr F.SEC_DBGSTAT_OPEN 0).ev A.SEC_EVENT 1
    { t with sec := { t.sec with relocked := t.sec.attempt.isSome } }
  else s

/-- RELOCK. -/
def execRelock (v : Word) (s : State) : Host.Outcome State Fault Refusal := .next (if s.sys.dieHeld then s else s.relock v)

/-! ### Security version (R459, R460) -/

/-- A write of SEC_SVCTRL is accepted (R460). -/
def State.svOk (s : State) (v : Word) : Bool :=
  let x := getField v 0 7
  getField v 16 16 == 0x5356 && s.sec.svValue.isNone && s.boot.state == bootFullRunning &&
    decide (s.otp.minSv < x ∧ x ≤ s.rd F.SEC_SECVER_ACTIVE ∧ x ≤ 64)

/-- A write of SEC_SVCTRL (R460): programming starts, or the write is refused and counted. -/
def State.svWrite (s : State) (v : Word) : State :=
  if s.svOk v then
    let t := s.wr F.SEC_SECVER_BUSY 1
    { t with sec := { t.sec with svValue := some (getField v 0 7) } }
  else (s.bump F.SEC_CNT_SV_REFUSED).ev A.SEC_EVENT 13

/-- SV_RAISE. -/
def execSvRaise (v : Word) (s : State) : Host.Outcome State Fault Refusal := .next (if s.sys.dieHeld then s else s.svWrite v)

/-- SV_RAISED (R460): the OTP holds the new minimum; a bit of its thermometer once programmed stays (R459). -/
def execSvRaised (s : State) : Host.Outcome State Fault Refusal :=
  match s.sec.svValue with
  | none => .next s
  | some x =>
    let m := max s.otp.minSv x
    let t := ((s.wr F.SEC_SECVER_BUSY 0).wr F.SEC_SECVER_MIN m).ev A.SEC_EVENT 12
    .next { t with otp := { t.otp with minSv := m }, sec := { t.sec with svValue := none } }

end Sys2Proof.Machine
end

