-- ==== Sys2Proof/Machine/BusView.lean ====
section
/-!
DEFINITION. Machine/BusView.lean: what a register reads (R5): the stored word, with the fields that show a record of a
unit put in.
-/

namespace Sys2Proof.Machine

open Sys2Proof

/-- The index of `a` in an array of registers. -/
def arrIdx (base stride count a : Nat) : Option Nat :=
  if base ≤ a ∧ a < base + stride * count ∧ (a - base) % stride = 0 then some ((a - base) / stride) else none

/-- A word with a field put in. -/
def Fld.put (f : Fld) (v : Nat) (w : BitVec 32) : BitVec 32 := putField w f.lo f.w v

/-- A word with a flag put in. -/
def Fld.putB (f : Fld) (b : Bool) (w : BitVec 32) : BitVec 32 := f.put (if b then 1 else 0) w

/-- SYS registers as read: the device ID stands in OTP. -/
def State.viewSys (s : State) (a : Nat) (w : BitVec 32) : BitVec 32 :=
  if a = A.SYS_UID_LO then s.otp.uidLo else if a = A.SYS_UID_HI then s.otp.uidHi else w

/-- PMU and GOV registers as read: housekeeping results (R353), V_C (R340), the hold-up time (R347), the CRASH latch (R361). -/
def State.viewPmu (s : State) (a : Nat) (w : BitVec 32) : BitVec 32 :=
  let volts (input : Nat) (old : Nat) : Nat := match s.hkResult input with
    | some r => min 65535 (hkVolts r)
    | none => old
  if a = A.PMU_PVDD_STAT then
    F.PMU_PVDD_STAT_MEAS.put (volts 2 (getField w 16 16)) (F.PMU_PVDD_STAT_VC.put (if s.pvddRuns then s.vcNow else 0) w)
  else if a = A.PMU_HOLD_STAT then
    let w := F.PMU_HOLD_STAT_V_HOLD.put (volts 3 (getField w 16 16)) w
    if s.holdState = 3 then F.PMU_HOLD_STAT_HU_ELAPSED.put s.huElapsed w else w
  else if a = A.PMU_VMEAS then
    F.PMU_VMEAS_VBAT.put (volts 0 (getField w 16 16)) (F.PMU_VMEAS_VSYS.put (volts 1 (getField w 0 16)) w)
  else if a = A.GOV_STATUS then F.GOV_STATUS_CRASH.putB s.pmu.crash w
  else w

/-- HKADC registers as read: the entries of the sequence in effect (R385). -/
def State.viewHk (s : State) (a : Nat) (w : BitVec 32) : BitVec 32 :=
  let k := (a - 0x31000) / 0x20
  let r := (a - 0x31000) % 0x20
  if a < 0x31000 then w
  else if 0x0C ≤ r then w
  else match s.hk.seq.ent k with
    | none => 0
    | some e =>
      if r = 0 then
        BitVec.ofNat 32 ((if e.winEn then 2 ^ 31 else 0) + (if e.fcol then 2 ^ 30 else 0) + e.back % 16 * 2 ^ 24 +
          e.trig % 16 * 2 ^ 20 + e.shift % 16 * 2 ^ 16 + (e.n - 1) % 256 * 2 ^ 8 + e.input % 64)
      else if r = 4 then BitVec.ofNat 32 (e.delay % 256 * 256 + e.rep % 256)
      else BitVec.ofNat 32 (e.hi % 65536 * 65536 + e.lo % 65536)

/-- The table window of the repetitive controller (R239). -/
def State.viewLoop (s : State) (a : Nat) (w : BitVec 32) : BitVec 32 :=
  match arrIdx (A.LOOP_RC_TBLk 0) 4 4096 a with
  | some k => s.rcTableRead k
  | none => w

/-- MOD registers as read (R181, R183, R184, R192, R197). -/
def State.viewMod (s : State) (a : Nat) (w : BitVec 32) : BitVec 32 :=
  match arrIdx (A.MOD_DIEd_STAT 0) 0x10 2 a with
  | some d =>
    let f := F.MOD_DIEd_STAT_PERIOD d
    let w := f.put (carrierPeriod (s.rd (F.MOD_DIEd_CFG_CARRIER d))) w
    let w := (F.MOD_DIEd_STAT_DT_MIN d).put (if d = 0 then s.otp.dtMin0 else s.otp.dtMin1) w
    (F.MOD_DIEd_STAT_LINK_OK d).putB s.carrierOn ((F.MOD_DIEd_STAT_RUNNING d).putB s.carrierOn w)
  | none =>
    match arrIdx (A.MOD_PHASEc 0) 4 16 a with
    | some c => (F.MOD_PHASEc_ACTIVE c).put (s.carrierPhase c) w
    | none =>
      match arrIdx (A.MOD_OUTo_STAT 0) 0x20 16 a with
      | some o => (F.MOD_OUTo_STAT_GAIN o).put ((s.out o).gain / 5120) ((F.MOD_OUTo_STAT_RETRIES o).put (s.retriesUsed o) w)
      | none => w

/-- DIAG registers as read (R315, R320). -/
def State.viewDiag (s : State) (a : Nat) (w : BitVec 32) : BitVec 32 :=
  match arrIdx (A.DIAG_CHc_AGE 0) 0x10 16 a with
  | some c => match Tbl.get none s.diag.checked c with
    | some t => BitVec.ofNat 32 (min 65535 ((s.now - t) / 1000))
    | none => w
  | none =>
    let pts := Tbl.get [] s.diag.points (s.rd F.DIAG_SWSEL_OUTPUT)
    match arrIdx (A.DIAG_SWPk_F 0) 8 64 a with
    | some k => match pts[k]? with
      | some p => BitVec.ofNat 32 p.hz
      | none => 0
    | none => match arrIdx (A.DIAG_SWPk_Z 0) 8 64 a with
      | some k => match pts[k]? with
        | some p => BitVec.ofNat 32 (min 65535 p.z * 65536 + ofSigned 16 p.phase)
        | none => 0
      | none => w

/-- PORT registers as read (R72, R84, R86). -/
def State.viewPort (s : State) (a : Nat) (w : BitVec 32) : BitVec 32 :=
  match arrIdx (A.PORTn_STAT 0) 0x1000 4 a with
  | some n =>
    let w := (F.PORTn_STAT_OWNER n).putB (s.portOwner n) w
    let w := (F.PORTn_STAT_IEC_LOCK n).putB (decide (n = 3) && s.on F.PORT3_IEC_STAT_LOCK) w
    (F.PORTn_STAT_ZC_PENDING n).putB (s.zcPending n) w
  | none => match arrIdx (A.PORTn_FILL 0) 0x1000 4 a with
    | some n => BitVec.ofNat 32 (16 * (s.port n).txFifo.length + (s.port n).rxFifo.length)
    | none => w

/-- TRING registers as read (R113, R116). -/
def State.viewTring (s : State) (a : Nat) (w : BitVec 32) : BitVec 32 :=
  if a = A.TRING_BTXCTL then F.TRING_BTXCTL_LEVEL.put s.ring.txq.length w
  else if a = A.TRING_OWN_LO then bitsWord s.ownsSlot
  else if a = A.TRING_OWN_HI then bitsWord (fun b => s.ownsSlot (32 + b))
  else if a = A.TRING_BRXCTL then F.TRING_BRXCTL_LEVEL.put s.ring.rxq.length w
  else match arrIdx (A.TRING_BRXk 0) 4 4 a with
    | some k => match s.ring.rxq.head? with
      | some b => BitVec.ofNat 32 (u32 b (4 * k))
      | none => 0
    | none => w

/-- The counters assigned to the rules, in rule order: rule and instance of each (R394). -/
def State.ruleCounters (s : State) : List (Nat × Nat) :=
  (s.fcol.rules.filter (fun e => e.2.valid)).flatMap (fun e =>
    if e.2.perInst then (List.range 16).map (fun i => (e.1, i)) else [(e.1, 0)])

/-- FCOL registers as read (R391, R394, R401). -/
def State.viewFcol (s : State) (a : Nat) (w : BitVec 32) : BitVec 32 :=
  if a = A.FCOL_STAT then
    F.FCOL_STAT_QUEUE.put s.fcol.normal.length (F.FCOL_STAT_PQUEUE.put s.fcol.prio.length w)
  else if a = A.FCOL_RSTCNT then F.FCOL_RSTCNT_RECENT.put (min 255 s.resetsRecent) w
  else match arrIdx (A.FCOL_CTRk 0) 4 256 a with
    | some k => match s.ruleCounters[k]? with
      | some (r, i) =>
        BitVec.ofNat 32 (2 ^ 31 + r * 2 ^ 24 + i * 2 ^ 20 + min 255 (Tbl.get Counter.zero s.fcol.ruleCtr (16 * r + i)).n)
      | none => 0
    | none => w

/-- INTC registers as read (R437, R444, R445, R446); a read of INTC_CLAIM claims (`State.busRead`). -/
def State.viewIntc (s : State) (a : Nat) (w : BitVec 32) : BitVec 32 :=
  let states (base : Nat) (x : SrcState) : Option (BitVec 32) := match arrIdx base 4 4 a with
    | some k => some (bitsWord (fun b => s.src (32 * k + b) == x))
    | none => none
  if a = A.INTC_STAT then
    BitVec.ofNat 32 ((if s.alertReq then 2 ^ 25 else 0) + (if s.irqLow then 2 ^ 24 else 0) +
      (s.srcsIn .claimed).length * 2 ^ 16 + (s.srcsIn .held).length * 2 ^ 8 + (s.srcsIn .pending).length)
  else if a = A.INTC_CQSTAT then F.INTC_CQSTAT_LEVEL.put s.intc.cq.length w
  else match states (A.INTC_PENDk 0) .pending with
    | some x => x
    | none => match states (A.INTC_HELDk 0) .held with
      | some x => x
      | none => match states (A.INTC_CLAIMEDk 0) .claimed with
        | some x => x
        | none => w

/-- The value of a block parameter in effect (R126, R127): a gain on its ramp reads the sample reached, which the ramp gives
at a glue-up; else the parameter word. -/
def State.paramWord (s : State) (inst i : Nat) : Option (Nat × BitVec 32) :=
  match s.dsp.graph.block inst with
  | none => none
  | some b => match paramFormat b i with
    | none => none
    | some f =>
      let w := b.params.getD i 0
      match s.dsp.paramRamp.find? (fun r => r.inst == inst && r.index == i) with
      | some r => some (f, BitVec.ofInt 32 (r.start.toInt + roundQ ((w.toInt - r.start.toInt) * r.done) r.total))
      | none => some (f, w)

/-- DSPX registers as read (R130, R133, R135, R150). -/
def State.viewDspx (s : State) (a : Nat) (w : BitVec 32) : BitVec 32 :=
  if a = A.DSPX_PARAM_DATA then match s.paramWord (s.rd F.DSPX_PARAM_SEL_INSTANCE) (s.rd F.DSPX_PARAM_SEL_INDEX) with
    | some (_, x) => x
    | none => 0
  else if a = A.DSPX_PARAM_STAT then match s.paramWord (s.rd F.DSPX_PARAM_SEL_INSTANCE) (s.rd F.DSPX_PARAM_SEL_INDEX) with
    | some (f, _) => BitVec.ofNat 32 (2 * f + 1)
    | none => 0
  else match arrIdx (A.DSPX_CTXn_STAT 0) 0x10 128 a with
    | some n => (F.DSPX_CTXn_STAT_STATE n).put (s.ctxState n) ((F.DSPX_CTXn_STAT_SWITCH n).put ((s.ctx n).sw.gain / 512).toNat w)
    | none => w

/-- SEC registers as read (R450, R451, R457, R46). -/
def State.viewSec (s : State) (a : Nat) (w : BitVec 32) : BitVec 32 :=
  if a = A.SEC_DBGSTAT then
    let w := F.SEC_DBGSTAT_LIFECYCLE.put s.otp.lifecycle (F.SEC_DBGSTAT_CR_EN.putB s.otp.crEn (F.SEC_DBGSTAT_PW_EN.putB s.otp.pwEn w))
    if s.otp.lifecycle = 0 then F.SEC_DBGSTAT_OPEN.put 1 (F.SEC_DBGSTAT_METHOD.put 3 w) else w
  else if a = A.SEC_ATTEMPT then
    F.SEC_ATTEMPT_LOCKOUT_S.put (min 2047 (ceilDiv (s.sec.lockUntil - s.now) 1000000)) w
  else match arrIdx (A.SEC_KEYHASHk 0) 4 8 a with
    | some k => BitVec.ofNat 32 (u32 s.otp.keyHash (4 * k))
    | none => w

/-- TRACE registers as read: a level narrower than its register is sign-extended (R4). -/
def State.viewTrace (s : State) (a : Nat) (w : BitVec 32) : BitVec 32 :=
  match (List.range 4).find? (fun b => a == A.TRACE_LEVELb b) with
  | some b => BitVec.ofInt 32 (s.traceLevel b)
  | none => w

/-- The bits of a register that a field holds; the others are reserved (R10). -/
def RegGroup.mask (g : RegGroup) : BitVec 32 := g.fields.foldl (fun m f => m ||| fieldMask f.lo f.w) 0

/-- The word of a register with the fields that show a record of its unit put in. -/
def State.viewUnit (s : State) (a : Nat) (w : BitVec 32) : BitVec 32 :=
  let page := a / 0x10000
  if page = 1 then s.viewSys a w
  else if page = 2 then s.viewPmu a w
  else if page = 3 then s.viewHk a w
  else if page = 6 then s.viewLoop a w
  else if page = 7 then s.viewMod a w
  else if page = 9 then s.viewDiag a w
  else if page = 10 then s.viewPort a w
  else if page = 11 then s.viewTring a w
  else if page = 12 then s.viewFcol a w
  else if page = 13 then s.viewIntc a w
  else if page = 15 then s.viewDspx a w
  else if page = 16 then s.viewTrace a w
  else if page = 17 then s.viewSec a w
  else w

/-- The word a register reads (R5); WO fields, reserved bits and free addresses read 0 (R10). -/
def State.viewReg (s : State) (a : Nat) : BitVec 32 :=
  match findReg a with
  | none => 0
  | some g =>
    s.viewUnit a (g.fields.foldl (fun w f => if f.acc = .wo then putField w f.lo f.w 0 else w) (s.reg a)) &&& g.mask

end Sys2Proof.Machine
end

