-- ==== Sys2Proof/Machine/Bus.lean ====
section
/-!
DEFINITION. Machine/Bus.lean: the register bus (R5 to R10, R26, R28, R29): one word read or written by the host, by
firmware, by the ring or over JTAG; the boot record and the placement record as the host reads them (R53, R178); the biscuits
a host sends and takes (R116); REGISTER_WRITE.
-/

namespace Sys2Proof.Machine

open Sys2Proof

/-! ### Biscuits of the host (R116) -/

/-- SEND of TRING_BTXCTL (R112, R116): the staged biscuit is queued with SRC and CRC filled in; refused where the queue is full,
the type is not allowed or HOP is 0. -/
def State.biscuitSend (s : State) : State :=
  let b := (List.range 4).flatMap (fun k => leBytes 4 (s.reg (A.TRING_BTXk k)).toNat)
  let ty := u8 b 0
  if s.ring.txq.length < 8 ∧ (ty = 3 ∨ ty = 4 ∨ 128 ≤ ty) ∧ u16 b 2 ≠ 0 then
    let b := slice b 0 4 ++ leBytes 2 s.ringPos ++ slice b 6 9
    s.ringQueue false (b ++ [crc8 0 b])
  else s.ev A.TRING_EVENT 18

/-- POP of TRING_BRXCTL: the head of the receive queue is discarded. -/
def State.biscuitPop (s : State) : State :=
  let rest := s.ring.rxq.drop 1
  { s with ring := { s.ring with rxq := rest } }

/-- BISCUIT_SEND. -/
def execBiscuitSend (s : State) : Host.Outcome State Fault Refusal := .next s.biscuitSend
/-- BISCUIT_POP. -/
def execBiscuitPop (s : State) : Host.Outcome State Fault Refusal := .next s.biscuitPop

/-! ### Records in shared SRAM (R53, R178) -/

/-- An attempt of the boot record. -/
def BootAttempt.bytes (x : BootAttempt) : List (BitVec 8) :=
  [BitVec.ofNat 8 x.source, BitVec.ofNat 8 (x.copy + if x.common then 128 else 0), BitVec.ofNat 8 x.lastCheck,
   BitVec.ofNat 8 x.err] ++ leBytes 2 x.ty ++ leBytes 2 x.inst

/-- The boot record (R53). -/
def State.bootRecord (s : State) : List (BitVec 8) :=
  let b := s.boot
  leBytes 4 0x43455242 ++
  [BitVec.ofNat 8 b.state, BitVec.ofNat 8 b.mode, BitVec.ofNat 8 (b.bootsel + if b.bootselBad then 128 else 0),
   BitVec.ofNat 8 (b.actSource + 4 * b.actCopy + if b.actCommon then 8 else 0)] ++
  leBytes 4 b.tEarly ++ leBytes 4 b.tFull ++ leBytes 4 b.secver.toNat ++ slice b.configId 0 8 ++
  leBytes 2 b.dryfit.length ++ leBytes 2 b.vmapDropped ++
  slice (b.attempts.flatMap BootAttempt.bytes) 0 64 ++ List.replicate 160 0 ++
  slice (b.dryfit.flatMap (fun e => slice e 0 16)) 0 3840

/-- First address of the placement record (R178). -/
abbrev placementBase : Nat := 0x207EE000
/-- First address of the veneer staging area (R53). -/
abbrev stagingBase : Nat := 0x207EF000
/-- First address of the boot record (R53). -/
abbrev recordBase : Nat := 0x207FF000

/-- A byte of the memory windows: the two records as the device keeps them, where the host has not written over them; a byte
that nothing has written reads 0 (log entry 3). -/
def State.memByte (s : State) (a : Nat) : BitVec 8 :=
  if recordBase ≤ a ∧ a < recordBase + 4096 then (Tbl.get none s.boot.overlay a).getD (s.bootRecord.getD (a - recordBase) 0)
  else if placementBase ≤ a ∧ a < stagingBase then
    (Tbl.get none s.boot.overlay a).getD (s.placementRecord.getD (a - placementBase) 0)
  else Tbl.get 0 s.mem a

/-- Write a byte of the memory windows. -/
def State.setMemByte (s : State) (a : Nat) (x : BitVec 8) : State :=
  if (recordBase ≤ a ∧ a < recordBase + 4096) ∨ (placementBase ≤ a ∧ a < stagingBase) then
    { s with boot := { s.boot with overlay := Tbl.set none s.boot.overlay a (some x) } }
  else { s with mem := Tbl.set 0 s.mem a x }

/-- The word at `a` of a memory window (R2). -/
def State.memWord (s : State) (a : Nat) : BitVec 32 :=
  BitVec.ofNat 32 (ofLe ((List.range 4).map (fun i => s.memByte (a + i))))

/-- Write a word of a memory window (R2). -/
def State.setMemWord (s : State) (a : Nat) (v : BitVec 32) : State :=
  s.forAll 4 (fun i t => t.setMemByte (a + i) (BitVec.ofNat 8 (v.toNat / 256 ^ i)))

/-- `n` bytes of a memory window. -/
def State.memBytes (s : State) (a n : Nat) : List (BitVec 8) := (List.range n).map (fun i => s.memByte (a + i))

/-- The shared SRAM window (R28). -/
def inSram (a : Nat) : Bool := decide (0x20000000 ≤ a) && decide (a < 0x20800000)
/-- The DRAM window (R28). -/
def inDram (a : Nat) : Bool := decide (0x80000000 ≤ a) && decide (a < 0x84000000)

/-- A window access is allowed (R29, R453): firmware reaches everything; host and JTAG read the records and the staging area,
and with open debug access the windows; they write the staging area, and with open debug access SRAM in ROM_DEFAULTS and
DRYFIT_DONE and DRAM in ROM_DEFAULTS. -/
def State.windowOk (s : State) (who : Writer) (write : Bool) (a : Nat) : Bool :=
  let staging := decide (stagingBase ≤ a) && decide (a < recordBase)
  match who with
  | .firmware => true
  | .ring => false
  | _ =>
    if write then
      staging || (s.debugOpen && (if inSram a then s.boot.state == bootRomDefaults || s.boot.state == bootDryfitDone
        else s.boot.state == bootRomDefaults))
    else (decide (placementBase ≤ a) && decide (a < recordBase + 4096)) || s.debugOpen

/-! ### Writes by access type (R5, R9) -/

/-- The boot lock (R59). -/
def State.bootLocked (s : State) : Bool := s.on F.SEC_LOCKSTAT_LOCKED

/-- The word a register takes from a write of `v` under the access types of its fields. -/
def RegGroup.written (g : RegGroup) (locked : Bool) (old v : BitVec 32) : BitVec 32 :=
  g.fields.foldl (fun w f =>
    let x := getField v f.lo f.w
    match f.acc with
    | .rw | .rws => putField w f.lo f.w x
    | .rwb => if locked then w else putField w f.lo f.w x
    | .w1c => w &&& ~~~ (v &&& fieldMask f.lo f.w)
    | .w1s => w ||| (v &&& fieldMask f.lo f.w)
    | .ro | .rc | .wo => w) old

/-- A write after boot lock that would change an RWB field of the register (R9). -/
def RegGroup.touchesRwb (g : RegGroup) (old v : BitVec 32) : Bool :=
  g.fields.any (fun f => decide (f.acc = .rwb) && decide (getField old f.lo f.w ≠ getField v f.lo f.w))

/-- An RWB write ignored after boot lock is counted and flagged (R9, R60). -/
def State.rwbIgnored (s : State) (g : RegGroup) (a : Nat) (v : BitVec 32) : State :=
  if s.bootLocked && g.touchesRwb (s.reg a) v then (s.bump F.SEC_LOCKSTAT_IGNORED).ev A.SEC_EVENT 8 else s

/-- A write of a register that acts by the types of its fields alone; addresses without a register ignore it (R10). -/
def State.plainWrite (s : State) (a : Nat) (v : BitVec 32) : State :=
  match findReg a with
  | none => s
  | some g => (s.rwbIgnored g a v).setReg a (g.written s.bootLocked (s.reg a) v)

/-- A field value outside its range refuses the write. -/
def State.plainIf (s : State) (ok : Bool) (a : Nat) (v : BitVec 32) : State := if ok then s.plainWrite a v else s

/-! ### Registers whose writes act (each under the rule of its chapter) -/

/-- SYS. -/
def State.writeSys (s : State) (a : Nat) (v : BitVec 32) : State :=
  if a = A.SYS_RSTCTRL then s.rstctrlWrite v
  else if a = A.SYS_BLKRST then s.blkrstWrite v
  else s.plainWrite a v

/-- PMU and GOV. -/
def State.writePmu (s : State) (a : Nat) (v : BitVec 32) : State :=
  if a = A.PMU_RAILCTRL then s.railctrlWrite v
  else if a = A.PMU_MICB_CFG then s.micbCfgWrite v
  else if a = A.PMU_STBYCTRL then s.stbyctrlWrite v
  else if a = A.PMU_WAKECFG then s.wakecfgWrite v
  else if a = A.GOV_LIMIT then s.govLimitWrite (getField v 0 16)
  else if a = A.GOV_CTRL then s.govCtrlWrite v
  else s.plainWrite a v

/-- HKADC. -/
def State.writeHk (s : State) (a : Nat) (v : BitVec 32) : State :=
  if a = A.HKADC_CTRL then s.hkCtrlWrite v
  else match arrIdx (A.HKADC_ENTk_WIN 0) 0x20 64 a with
    | some k => s.hkWinWrite k v
    | none => s.plainWrite a v

/-- SENSE. -/
def State.writeSense (s : State) (a : Nat) (v : BitVec 32) : State :=
  if a = A.SENSE_CTRL then s.senseCtrlWrite v
  else if a = A.SENSE_OVR_LIM then s.plainIf (decide (getField v 0 16 ≠ 0)) a v
  else s.plainWrite a v

/-- DECIM. -/
def State.writeDecim (s : State) (a : Nat) (v : BitVec 32) : State :=
  if a = A.DECIM_TRK then s.plainIf (decide (getField v 0 2 ≠ 3)) a v
  else match arrIdx (A.DECIM_PATHk_CFG 0) 0x10 36 a with
    | some k => if k < 32 then s else s.auxPathWrite k v
    | none =>
      if 0x50200 ≤ a ∧ a < 0x50300 then
        (if a % 16 = 12 then s else s.thrWrite ((a - 0x50200) / 16) (a % 16 / 4) v)
      else s.plainWrite a v

/-- LOOP, the repetitive controllers included. -/
def State.writeLoop (s : State) (a : Nat) (v : BitVec 32) : State :=
  if a = A.LOOP_BANKSEL then s.bankselWrite (getField v 0 4) false
  else if a = A.LOOP_RC_SRC then s.rcSrcWrite 0 v
  else if a = A.LOOP_RC_EST then s.rcSrcWrite 1 v
  else if a = A.LOOP_RC_EST_BAND then s.rcSrcWrite 2 v
  else if 0x61000 ≤ a ∧ a < 0x61400 ∧ a % 0x40 = 0 then s.loopCfgWrite ((a - 0x61000) / 0x40) v
  else if 0x64000 ≤ a ∧ a < 0x64800 then s.bankWrite ((a - 0x64000) / 0x80) (a % 0x80 / 0x40) (a % 0x40 / 4) v
  else if 0x66000 ≤ a ∧ a < 0x68000 then s.fbWrite ((a - 0x66000) / 0x200) (a % 0x200 / 8) (decide (a % 8 = 4)) v
  else if 0x68100 ≤ a ∧ a < 0x68300 then
    let c := (a - 0x68100) / 0x20
    let r := a % 0x20
    if r = 0 then s.rcCfgWrite c v
    else if r = 4 then s.rcGainWrite c v
    else if r = 8 then s.rcConvWrite c v
    else if r = 12 then (let t := s.plainWrite a v; if v.getLsbD 0 then t.rcClear c else t)
    else s
  else if 0x6C000 ≤ a then s.rcTableWrite ((a - 0x6C000) / 4) v
  else s.plainWrite a v

/-- MOD: VFS and MODE take a value from firmware alone (R188). -/
def State.writeMod (s : State) (who : Writer) (a : Nat) (v : BitVec 32) : State :=
  match arrIdx (A.MOD_DIEd_SHED 0) 0x10 2 a with
  | some _ =>
    s.plainIf (decide (getField v 16 8 ≠ 0) && decide (1 ≤ getField v 8 4) && decide (getField v 8 4 ≤ 8) &&
      decide (getField v 0 8 ≠ 0)) a v
  | none =>
    if a = A.MOD_RAMP then s.plainIf (decide (1 ≤ getField v 0 8) && decide (getField v 0 8 ≤ 16)) a v
    else match arrIdx (A.MOD_OUTo_CFG 0) 0x20 16 a with
      | some o =>
        if getField v 16 4 < 4 ∨ 12 < getField v 16 4 then s
        else
          let t := s.plainWrite a v
          if who = .firmware then (t.wr (F.MOD_OUTo_CFG_VFS o) (getField v 0 16)).wr (F.MOD_OUTo_CFG_MODE o) (getField v 22 2) else t
      | none => match arrIdx (A.MOD_OUTo_CTRL 0) 0x20 16 a with
        | some o => s.outCtrlWrite o v
        | none => match arrIdx (A.MOD_CHc_CFG 0) 0x10 16 a with
          | some c => s.tripLimWrite c (getField v 0 5)
          | none => s.plainWrite a v

/-- GUARD: the ceilings only fall (R294); F_P and WIN_LOG2 are RWB. -/
def State.writeGuard (s : State) (a : Nat) (v : BitVec 32) : State :=
  if 0x80100 ≤ a ∧ a < 0x80500 ∧ a % 0x40 < 16 then
    let o := (a - 0x80100) / 0x40
    let c := a % 0x40 / 4
    let f := ceilingField o c
    let t := s.plainWrite a (putField v f.lo f.w (s.rd f))
    if a % 4 = 0 then t.clampWrite o c (getField v f.lo f.w) else s
  else s.plainWrite a v

/-- PORT. -/
def State.writePort (s : State) (a : Nat) (v : BitVec 32) : State :=
  if a = A.PORT_GSTART then
    if getField v 0 2 = 3 then s
    else (let t := s.wr F.PORT_GSTART_SRC (getField v 0 2); if v.getLsbD 8 then t.gstartFire else t)
  else if a = A.PORT3_IEC_CFG then
    let keep := if s.pState 3 = pOff then v else F.PORT3_IEC_CFG_DIR.put (s.rd F.PORT3_IEC_CFG_DIR) v
    (s.plainWrite a keep).portDivider 3
  else
    let n := (a - 0xA0000) / 0x1000
    let r := a % 0x1000
    if 4 ≤ n then s
    else if r = 0 then s.portCfgWrite n v
    else if r = 4 then s.portCtrlWrite n v
    else if r = 0x14 then s.portSlotmask n v false
    else if r = 0x24 then (if 4 ≤ getField v 8 4 ∧ getField v 8 4 ≤ 10 then s.plainWrite a v else s.portRefused n)
    else if 0x40 ≤ r ∧ r < 0x50 ∧ r % 4 = 0 then s.portMapWrite n false ((r - 0x40) / 4) v
    else if 0x50 ≤ r ∧ r < 0x60 ∧ r % 4 = 0 then s.portMapWrite n true ((r - 0x50) / 4) v
    else s.plainWrite a v

/-- TRING. -/
def State.writeTring (s : State) (a : Nat) (v : BitVec 32) : State :=
  if a = A.TRING_CFG then s.tringCfgWrite v
  else if a = A.TRING_CTRL then (let t := if v.getLsbD 0 then s.ringStart else s; if v.getLsbD 1 then t.ringStop else t)
  else if a = A.TRING_BTXCTL then (if v.getLsbD 0 then s.biscuitSend else s)
  else if a = A.TRING_BRXCTL then (if v.getLsbD 0 then s.biscuitPop else s)
  else match arrIdx (A.TRING_RXMAPk 0) 4 16 a with
    | some k => s.tringMapWrite false k v
    | none => match arrIdx (A.TRING_TXMAPk 0) 4 16 a with
      | some k => s.tringMapWrite true k v
      | none => s.plainWrite a v

/-- FCOL (R404 to R412). -/
def State.writeFcol (s : State) (who : Writer) (a : Nat) (v : BitVec 32) : State :=
  if a = A.FCOL_CTRL then s.fcolCtrlWrite who v
  else if a = A.FCOL_WDOG then s.wdogWrite who
  else if a = A.FCOL_JIG then s.jigWrite who v
  else if 0xC1000 ≤ a ∧ a < 0xC1800 ∧ a % 16 < 12 ∧ a % 4 = 0 then s.ruleWrite who ((a - 0xC1000) / 16) (a % 16 / 4) v
  else s.plainWrite a v

/-- INTC (R436 to R445). -/
def State.writeIntc (s : State) (a : Nat) (v : BitVec 32) : State :=
  if a = A.INTC_COMPLETE then s.intcComplete (getField v 0 8)
  else if a = A.INTC_CQ_CFG then s.intcCqCfgWrite v
  else match arrIdx (A.INTC_ENk 0) 4 4 a with
    | some k => s.intcEnWrite k v
    | none => (s.plainWrite a v).alertSettle

/-- Is the stored DSPX_ZC value in range? -/
def zcRampOk (v : BitVec 32) : Bool := decide (4 ≤ getField v 8 4) && decide (getField v 8 4 ≤ 10)

/-- DSPX. -/
def State.writeDspx (s : State) (a : Nat) (v : BitVec 32) : State :=
  if a = A.DSPX_PLAYCMD then s.playCmd v
  else if a = A.DSPX_ZC then (if zcRampOk v then s.plainWrite a v else s.dspRefused)
  else if 0xF0100 ≤ a ∧ a < 0xF0180 ∧ a % 8 = 0 then s.genCfgWrite ((a - 0xF0100) / 8) v
  else if 0xF0100 ≤ a ∧ a < 0xF0180 ∧ a % 8 = 4 then s.genFreqWrite ((a - 0xF0100) / 8) v
  else if 0xF1000 ≤ a ∧ a < 0xF1800 ∧ a % 16 = 0 then s.ctxCfgWrite ((a - 0xF1000) / 16) v
  else if 0xF1000 ≤ a ∧ a < 0xF1800 ∧ a % 16 = 4 then s.ctxLevelWrite ((a - 0xF1000) / 16) v
  else s.plainWrite a v

/-- TRACE (R243 to R247). -/
def State.writeTrace (s : State) (a : Nat) (v : BitVec 32) : State :=
  if a < 0x100080 ∧ a % 4 = 0 then
    let b := (a - 0x100000) / 0x20
    let r := a % 0x20
    if r < 16 then s.traceCfgWrite b (r / 4) v else if r = 16 then s.traceCtrl b v else s
  else s.plainWrite a v

/-- The NVM operations (R432, R433). `code` refuses a GO. -/
def State.nvmRefuse (s : State) (code : Nat) : State :=
  ((s.wr F.HBUS_NVM_STAT_ERR code).bump F.HBUS_CNT2_NVM_FAIL).ev A.HBUS_EVENT 9

/-- The error a GO meets (R432, R433); 0 none. -/
def State.nvmCheck (s : State) (op : Nat) (eeprom : Bool) (addr len : Nat) : Nat :=
  let space := if eeprom then 262144 else if s.boot.xspiFound then min 268435456 s.boot.flashSize else 268435456
  if s.on F.HBUS_NVM_STAT_BUSY then 0x23
  else if s.boot.state ≠ bootRomDefaults ∧ s.boot.state ≠ bootDryfitDone then 0x21
  else if op = 3 then 0x22
  else if op = 2 then (if eeprom ∨ addr % 4096 ≠ 0 ∨ space < addr + 4096 then 0x22 else 0)
  else if len = 0 ∨ 256 < len ∨ space < addr + len then 0x22
  else if eeprom ∧ addr / 65536 ≠ (addr + len - 1) / 65536 then 0x22
  else if !eeprom ∧ op = 1 ∧ addr / 256 ≠ (addr + len - 1) / 256 then 0x22
  else 0

/-- A write of HBUS_NVM_CTRL (R432, R433): the settings, then GO. A Program takes its bytes at once. -/
def State.nvmCtrlWrite (s : State) (v : BitVec 32) : State :=
  let t := s.plainWrite A.HBUS_NVM_CTRL v
  if !v.getLsbD 31 then t
  else
    let op := getField v 0 2
    let eeprom := v.getLsbD 3
    let a := (s.reg A.HBUS_NVM_ADDR).toNat
    let addr := if eeprom then a % 262144 else a
    let len := getField v 16 9
    let e := s.nvmCheck op eeprom addr len
    if e ≠ 0 then t.nvmRefuse e
    else
      let bytes := slice ((List.range 64).flatMap (fun k => leBytes 4 (s.reg (A.HBUS_NVM_DATAk k)).toNat)) 0 len
      let x : NvmOp := { op := op, eeprom := eeprom, fast := v.getLsbD 4, addr := addr, len := len, data := if op = 1 then bytes else [] }
      let t := t.wr F.HBUS_NVM_STAT_BUSY 1
      { t with hbus := { t.hbus with nvm := some x } }

/-- HBUS. -/
def State.writeHbus (s : State) (a : Nat) (v : BitVec 32) : State :=
  if a = A.HBUS_NVM_CTRL then s.nvmCtrlWrite v else s.plainWrite a v

/-- SEC. -/
def State.writeSec (s : State) (a : Nat) (v : BitVec 32) : State :=
  if a = A.SEC_CTRL then s.relock v else if a = A.SEC_SVCTRL then s.svWrite v else s.plainWrite a v

/-- A register write that has reached its block. -/
def State.writeReg (s : State) (who : Writer) (a : Nat) (v : BitVec 32) : State :=
  let page := a / 0x10000
  if (findReg a).isNone then s
  else if page = 1 then s.writeSys a v
  else if page = 2 then s.writePmu a v
  else if page = 3 then s.writeHk a v
  else if page = 4 then s.writeSense a v
  else if page = 5 then s.writeDecim a v
  else if page = 6 then s.writeLoop a v
  else if page = 7 then s.writeMod who a v
  else if page = 8 then s.writeGuard a v
  else if page = 9 then (if a = A.DIAG_CMD then s.diagCmd v else s.plainWrite a v)
  else if page = 10 then s.writePort a v
  else if page = 11 then s.writeTring a v
  else if page = 12 then s.writeFcol who a v
  else if page = 13 then s.writeIntc a v
  else if page = 14 then s.writeHbus a v
  else if page = 15 then s.writeDspx a v
  else if page = 16 then s.writeTrace a v
  else s.writeSec a v

/-- A register read that has reached its block: the word, and the state after its side effects (RC fields clear to what they
read after reset; a claim; the trace window). -/
def State.readReg (s : State) (a : Nat) : BitVec 32 × State :=
  if a = A.INTC_CLAIM then (let r := s.intcClaim; (BitVec.ofNat 32 r.1, r.2))
  else match arrIdx (A.TRACE_WINDOWw 0) 4 8192 a with
    | some w => let r := s.traceRead w false; (r.2, r.1)
    | none =>
      match findReg a with
      | none => (0, s)
      | some g =>
        (s.viewReg a,
         if g.fields.any (fun f => f.acc == .rc) then
           s.setReg a (g.fields.foldl (fun w f => if f.acc = .rc then putField w f.lo f.w (f.rstAt g a) else w) (s.reg a))
         else s)

/-! ### One access (R26, R28, R29) -/

/-- How an access ended: served, terminated because its island stands still (R26), outside the map (R28), refused (R29). -/
inductive BusEnd
  | ok | stalled | unmapped | denied
  deriving DecidableEq, Repr

/-- Where an access ends before it has any effect. -/
def State.busCheck (s : State) (who : Writer) (write : Bool) (a : Nat) : BusEnd :=
  if 0x10000 ≤ a ∧ a < 0x120000 then (if s.islandStopped a then .stalled else .ok)
  else if inSram a || inDram a then (if s.windowOk who write a then .ok else .denied)
  else .unmapped

/-- An access that ended without reaching its target is counted. -/
def State.busCount (s : State) : BusEnd → State
  | .ok => s
  | .stalled => s.bump F.SYS_XING_ERR_STALLED
  | .unmapped => s.bump F.SYS_XING_ERR_UNMAPPED
  | .denied => s.bump F.SYS_XING_ERR_REFUSED

/-- One word written. -/
def State.busWrite (s : State) (who : Writer) (a : Nat) (v : BitVec 32) : BusEnd × State :=
  let e := s.busCheck who true a
  (e, if e = .ok then (if a < 0x120000 then s.writeReg who a v else s.setMemWord (a / 4 * 4) v) else s.busCount e)

/-- One word read. -/
def State.busRead (s : State) (who : Writer) (a : Nat) : BusEnd × BitVec 32 × State :=
  let e := s.busCheck who false a
  if e = .ok then
    (if a < 0x120000 then (let r := s.readReg a; (e, r.1, r.2)) else (e, s.memWord (a / 4 * 4), s))
  else (e, 0, s.busCount e)

/-- REGISTER_WRITE (R5): nothing where the register bus stands still; JTAG reaches it with open debug access alone. -/
def execRegisterWrite (who : Writer) (addr : Nat) (v : Word) (s : State) : Host.Outcome State Fault Refusal :=
  .next (if !s.busUp || (who == .jtag && !s.debugOpen) then s else (s.busWrite who addr v).2)

end Sys2Proof.Machine
end

