-- ==== Sys2Proof/Machine/Hbus.lean ====
section
/-!
DEFINITION. Machine/Hbus.lean: the host bus commands (R414 to R430, R454, R455) and the NVM operations (R432, R433).
-/

namespace Sys2Proof.Machine

open Sys2Proof

/-! ### Transactions (R417 to R420, R424) -/

/-- The host interface runs (R417): the BENCH clock runs, and no reset that includes the digital die is in progress, or a warm
reset only in its ramp, in which the die is not yet reset (R31, R34). -/
def State.hostUp (s : State) : Bool :=
  s.busUp && s.pmu.mode == .run && (match s.sys.rst with
    | none | some (_, .ramp) => true
    | some (_, .stage1) => false)

/-- The restriction of R54 holds (R424): STATE is POWERUP, ROM_READ or EARLY_LOADING. -/
def State.hostBusy (s : State) : Bool := decide (s.boot.state < bootEarlyRunning)

/-- What the device gave back in a transaction: the bytes read from it, and whether it acknowledged every byte. -/
def State.hostBack (s : State) (out : List (BitVec 8)) (acked : Bool) : State :=
  { s with hbus := { s.hbus with out := out, acked := acked } }

/-- A transaction that ends in an error (R419 to R424). -/
def State.hostFail (s : State) (code : Nat) : State := (s.hostErr code).hostBack [] false

/-- The PEC of a writing transaction (R419): over the address byte and the bytes written, from the command code on. -/
def State.writePec (s : State) (wr : List (BitVec 8)) : BitVec 8 := crc8 0 (BitVec.ofNat 8 (2 * s.rd F.HBUS_STAT_ADDR) :: wr)

/-- A writing command once its length and state are right: the bytes written from the command code on, the way it ends, then its
effect `act` (R419, R420, R423). -/
def State.hostWrite (s : State) (wr : List (BitVec 8)) (e : WriteEnd) (act : State → State) : State :=
  match e with
  | .extraByte | .short | .wrongDirection => s.hostFail 6
  | .noPec => if s.on F.HBUS_CFG_PEC_REQ then s.hostFail 1 else act (s.hostBack [] true)
  | .pec b => if b = s.writePec wr then act (s.hostBack [] true) else s.hostFail 1

/-- The bytes of a reading transaction as the controller sees them (R419): the data, the PEC over the whole transaction where it
is read, 0xFF after it. `wr` are the bytes written, from the command code on. -/
def State.hostBytes (s : State) (wr data : List (BitVec 8)) (e : ReadEnd) : List (BitVec 8) :=
  let addr := 2 * s.rd F.HBUS_STAT_ADDR
  let pec := crc8 0 ([BitVec.ofNat 8 addr] ++ wr ++ [BitVec.ofNat 8 (addr + 1)] ++ data)
  match e with
  | .withPec => data ++ [pec]
  | .extraByte => data ++ [pec, 0xFF]
  | _ => data

/-- A reading command (R419, R420): `data` read in `t`, the state once the read has had its effects, with the RESULT of a
sound one. A read cut short is discarded without effect. -/
def State.hostRead (s : State) (e : ReadEnd) (wr data : List (BitVec 8)) (t : State) (result : Nat) : State :=
  match e with
  | .short | .wrongDirection => s.hostFail 6
  | .extraByte => (t.hostErr 6).hostBack (s.hostBytes wr data e) true
  | _ => (if result = 0 then t.hostResult 0 else t.hostErr result).hostBack (s.hostBytes wr data e) true

/-- A command that R54 may hold off: nothing is acknowledged while the host interface does not run (R417), the command code is
not acknowledged as busy (R424). -/
def State.hostCmd (s : State) (f : State → State) : Host.Outcome State Fault Refusal :=
  .next (if !s.hostUp then s.hostBack [] false else if s.hostBusy then s.hostFail 2 else f s)

/-- A command that is always served (R424). -/
def State.hostAlways (s : State) (f : State → State) : Host.Outcome State Fault Refusal :=
  .next (if !s.hostUp then s.hostBack [] false else f s)

/-- A count byte before the data it announces (R418). -/
def counted (data : List (BitVec 8)) : List (BitVec 8) := BitVec.ofNat 8 data.length :: data

/-! ### Identity and status (R418) -/

/-- The IDENT data (R418). -/
def State.identData (s : State) : List (BitVec 8) :=
  leBytes 4 (s.viewReg A.SYS_IDENT).toNat ++ s.otp.uid ++
  [BitVec.ofNat 8 s.boot.state,
   BitVec.ofNat 8 (s.hbus.strap % 16 + (if s.hbus.strapBad0 || s.hbus.strapBad1 then 64 else 0) + if s.hbus.cfgAddrUsed then 128 else 0),
   BitVec.ofNat 8 (s.rd F.HBUS_STAT_ADDR), 1]

/-- The STATUS data (R418). -/
def State.statusData (s : State) : List (BitVec 8) :=
  let bit (b : Bool) (k : Nat) : Nat := if b then 2 ^ k else 0
  [BitVec.ofNat 8 s.boot.state,
   BitVec.ofNat 8 (bit s.irqLow 0 + bit s.alertLow 1 + bit (!s.intc.cq.isEmpty) 2 + bit (s.on F.FCOL_STAT_SAFE) 3 +
     bit s.debugOpen 5 + bit (s.on F.HBUS_NVM_STAT_BUSY) 6),
   BitVec.ofNat 8 (s.rd F.HBUS_STAT_RESULT), BitVec.ofNat 8 (s.rd F.HBUS_STAT_RESULT_SEQ)]

/-- IDENT. -/
def execIdent (e : ReadEnd) (s : State) : Host.Outcome State Fault Refusal :=
  s.hostAlways (fun s => s.hostRead e [0x01] (counted s.identData) s 0)

/-- STATUS: a sound one leaves RESULT as it is. -/
def execStatus (e : ReadEnd) (s : State) : Host.Outcome State Fault Refusal :=
  s.hostAlways (fun s => match e with
    | .noPec | .withPec => s.hostBack (s.hostBytes [0x20] s.statusData e) true
    | _ => s.hostRead e [0x20] s.statusData s 0)

/-! ### The pointer (R421, R422) -/

/-- An address inside the boot record (R53). -/
def inRecord (a : Nat) : Bool := decide (recordBase ≤ a) && decide (a < recordBase + 4096)

/-- SET_PTR (R421, R424). -/
def execSetPtr (v : Word) (e : WriteEnd) (s : State) : Host.Outcome State Fault Refusal :=
  s.hostAlways (fun s =>
    if e = .short ∨ e = .wrongDirection then s.hostFail 6
    else if s.hostBusy && !inRecord v.toNat then s.hostFail 2
    else s.hostWrite (0x10 :: leBytes 4 v.toNat) e (fun s =>
      if v.toNat % 4 ≠ 0 then s.hostErr 3 else (s.setReg A.HBUS_PTR v).hostResult 0))

/-- The pointer advances by one word (R421). -/
def State.ptrNext (s : State) : State := s.setReg A.HBUS_PTR (s.reg A.HBUS_PTR + 4)

/-- `n` words read at the pointer: the bytes, whether a word was terminated, unmapped or refused, the state. -/
def State.ptrRead : Nat → State → List (BitVec 8) × Bool × State
  | 0, s => ([], false, s)
  | n + 1, s =>
    let r := s.busRead .host (s.reg A.HBUS_PTR).toNat
    let t := State.ptrRead n r.2.2.ptrNext
    (leBytes 4 r.2.1.toNat ++ t.1, decide (r.1 ≠ .ok) || t.2.1, t.2.2)

/-- Words written at the pointer: whether one was terminated, unmapped or refused, and the state. -/
def State.ptrWrite : List (BitVec 8) → Nat → State → Bool × State
  | _, 0, s => (false, s)
  | b, n + 1, s =>
    let r := s.busWrite .host (s.reg A.HBUS_PTR).toNat (BitVec.ofNat 32 (u32 b 0))
    let t := State.ptrWrite (b.drop 4) n r.2.ptrNext
    (decide (r.1 ≠ .ok) || t.1, t.2)

/-- READ_BLK (R418, R422, R424). -/
def execReadBlk (n : Byte) (e : ReadEnd) (s : State) : Host.Outcome State Fault Refusal :=
  s.hostAlways (fun s =>
    if n = 0 ∨ n.toNat % 4 ≠ 0 then s.hostFail 3
    else if s.hostBusy && !inRecord (s.reg A.HBUS_PTR).toNat then s.hostFail 2
    else
      let r := State.ptrRead (n.toNat / 4) s
      s.hostRead e [0x11, n] (n :: r.1) r.2.2 (if r.2.1 then 4 else 0))

/-- WRITE_BLK (R418, R422, R423). -/
def execWriteBlk (n : Byte) (bytes : List Byte) (e : WriteEnd) (s : State) : Host.Outcome State Fault Refusal :=
  s.hostCmd (fun s =>
    if n = 0 ∨ n.toNat % 4 ≠ 0 then s.hostFail 3
    else s.hostWrite (0x12 :: n :: bytes) e (fun s =>
      let r := State.ptrWrite bytes (n.toNat / 4) s
      if r.1 then r.2.hostErr 4 else r.2.hostResult 0))

/-! ### Interrupts, completions, the fault log (R438, R439, R447, R410) -/

/-- CLAIM (R438). -/
def execClaim (e : ReadEnd) (s : State) : Host.Outcome State Fault Refusal :=
  s.hostCmd (fun s => s.hostRead e [0x30] [BitVec.ofNat 8 s.intcClaim.1] s.intcClaim.2 0)

/-- COMPLETE (R439). -/
def execComplete (n : Byte) (e : WriteEnd) (s : State) : Host.Outcome State Fault Refusal :=
  s.hostCmd (fun s => s.hostWrite [0x31, n] e (fun s => (s.intcComplete n.toNat).hostResult 0))

/-- CQ_READ (R447): up to 15 entries, removed once the transaction has ended soundly. -/
def execCqRead (e : ReadEnd) (s : State) : Host.Outcome State Fault Refusal :=
  s.hostAlways (fun s =>
    let taken := s.intc.cq.take 15
    let rest := s.intc.cq.drop 15
    let t := if e = .noPec ∨ e = .withPec then { s with intc := { s.intc with cq := rest } } else s
    s.hostRead e [0x38] (counted (taken.flatMap CqEntry.bytes)) t 0)

/-- The 16 bytes of the log entry with sequence number `seq` (R410). -/
def State.logEntry (s : State) (seq : Nat) : List (BitVec 8) :=
  (List.range 4).flatMap (fun j => leBytes 4 (s.reg (A.FCOL_LOGe_Wj (seq % 64) j)).toNat)

/-- The log entries from `seq`, or from the oldest where that one is no longer held; none where it is yet to come (R418). -/
def State.logFrom (s : State) (seq : Nat) : List (BitVec 8) :=
  let next := s.rd F.FCOL_LOGSTAT_NEXT_SEQ
  let held := s.rd F.FCOL_LOGSTAT_ENTRIES
  let age := (next + 65536 - seq) % 65536
  if age = 0 ∨ 32768 < age then []
  else
    let n := min age held
    (List.range (min 15 n)).flatMap (fun i => s.logEntry ((next + 65536 - n + i) % 65536))

/-- FAULT_LOG (R410, R418). -/
def execFaultLog (seq : BitVec 16) (e : ReadEnd) (s : State) : Host.Outcome State Fault Refusal :=
  s.hostCmd (fun s => s.hostRead e ([0x40] ++ leBytes 2 seq.toNat) (counted (s.logFrom seq.toNat)) s 0)

/-! ### Debug access (R454, R455) -/

/-- CHALLENGE: the nonce the random source gives goes to the host (R455). -/
def execChallenge (nonce : List Byte) (e : ReadEnd) (s : State) : Host.Outcome State Fault Refusal :=
  s.hostCmd (fun s => s.hostRead e [0x50] (counted (slice nonce 0 16)) (s.challenge nonce) 0)

/-- RESPONSE (R455, R458): its RESULT comes with its evaluation, or at once where it is turned away. -/
def execResponse (n : Byte) (bytes : List Byte) (e : WriteEnd) (s : State) : Host.Outcome State Fault Refusal :=
  s.hostCmd (fun s => if n ≠ 16 then s.hostFail 3 else s.hostWrite (0x51 :: n :: bytes) e (fun s => s.response bytes))

/-- UNLOCK_PW (R454, R458). -/
def execUnlockPw (n : Byte) (bytes : List Byte) (e : WriteEnd) (s : State) : Host.Outcome State Fault Refusal :=
  s.hostCmd (fun s => if n ≠ 8 then s.hostFail 3 else s.hostWrite (0x58 :: n :: bytes) e (fun s => s.unlockPw bytes))

/-! ### Warm reset, exceptions (R30, R55, R426, R427) -/

/-- WARM_RESET (R55): the key and a mode byte of 0 to 2, else RESULT 0x08. -/
def execWarmReset (mode : List Byte) (e : WriteEnd) (s : State) : Host.Outcome State Fault Refusal :=
  s.hostCmd (fun s => s.hostWrite (0x6F :: mode) e (fun s =>
    if u8 mode 0 = 0x52 ∧ u8 mode 1 = 0x57 ∧ u8 mode 2 ≤ 2 then (s.hostResult 0).warmTrigger false (u8 mode 2) else s.hostErr 8))

/-- UNKNOWN_CMD (R420). -/
def execUnknownCmd (s : State) : Host.Outcome State Fault Refusal := s.hostAlways (fun s => s.hostFail 5)

/-- HBUS_START_EXCEPTION (R426). -/
def execHbusStartException (s : State) : Host.Outcome State Fault Refusal := s.hostAlways (fun s => s.hostFail 6)

/-- HBUS_TIMEOUT (R427). -/
def execHbusTimeout (s : State) : Host.Outcome State Fault Refusal := s.hostAlways (fun s => s.hostFail 7)

/-! ### Address and alerts (R416, R429) -/

/-- ADDR_CHANGED (R416): the bus is idle after boot lock. -/
def execAddrChanged (s : State) : Host.Outcome State Fault Refusal :=
  .next (if !s.hbus.addrPending || s.sys.dieHeld then s
    else
      let t := (s.wr F.HBUS_STAT_ADDR (s.rd F.HBUS_CFG_ADDR)).ev A.HBUS_EVENT 7
      { t with hbus := { t.hbus with addrPending := false, cfgAddrUsed := true } })

/-- ALERT_RESPONSE (R429): a read of address 0x0C, and the byte that the line carried, the AND of what the devices sent: the device
has lost where it sent a 1 and read a 0. Without a low ALERT_N it takes no part. -/
def execAlertResponse (line : Byte) (s : State) : Host.Outcome State Fault Refusal :=
  .next (if !s.hostUp || !s.alertLow then s.hostBack [] false
    else
      let own := BitVec.ofNat 8 (2 * s.rd F.HBUS_STAT_ADDR)
      let t := s.hostBack [own] true
      if own &&& line = own then
        let t := t.ev A.HBUS_EVENT 12
        { t with hbus := { t.hbus with alertWon := true } }
      else (t.bump F.HBUS_CNT2_ARA_LOST).ev A.HBUS_EVENT 13)

/-- ALERT_REASSERT (R429, R445): 1 ms after a won response, ALERT_N follows the request again. -/
def execAlertReassert (s : State) : Host.Outcome State Fault Refusal :=
  .next { s with hbus := { s.hbus with alertWon := false } }

/-! ### NVM operations (R432, R433) -/

/-- The word of HBUS_NVM_CTRL that starts an operation. -/
def nvmWord (op : Nat) (eeprom fast : Bool) (len : BitVec 9) : BitVec 32 :=
  BitVec.ofNat 32 (2 ^ 31 + len.toNat * 65536 + (if fast then 16 else 0) + (if eeprom then 8 else 0) + op)

/-- GO written with an operation, over the register bus. -/
def State.nvmGo (s : State) (op : Nat) (eeprom fast : Bool) (len : BitVec 9) : State :=
  if s.busUp then s.nvmCtrlWrite (nvmWord op eeprom fast len) else s

/-- NVM_READ. -/
def execNvmRead (eeprom fast : Bool) (len : BitVec 9) (s : State) : Host.Outcome State Fault Refusal :=
  .next (s.nvmGo 0 eeprom fast len)
/-- NVM_PROGRAM. -/
def execNvmProgram (eeprom fast : Bool) (len : BitVec 9) (s : State) : Host.Outcome State Fault Refusal :=
  .next (s.nvmGo 1 eeprom fast len)
/-- NVM_ERASE. -/
def execNvmErase (eeprom fast : Bool) (len : BitVec 9) (s : State) : Host.Outcome State Fault Refusal :=
  .next (s.nvmGo 2 eeprom fast len)

/-- The data registers take the bytes of a Read (R433); bytes beyond LEN in its last word stay. -/
def State.nvmData (s : State) (n : Nat) (data : List (BitVec 8)) : State :=
  s.forAll ((n + 3) / 4) (fun k t =>
    let old := leBytes 4 (t.reg (A.HBUS_NVM_DATAk k)).toNat
    let new := (List.range 4).map (fun i => if 4 * k + i < n then data.getD (4 * k + i) 0 else old.getD i 0)
    t.setReg (A.HBUS_NVM_DATAk k) (BitVec.ofNat 32 (ofLe new)))

/-- The error codes with which an operation on a target can end (R432): 0x20 on both, the NVM bus's on the EEPROM, missing discovery
parameters on the flash. -/
def nvmEnds (eeprom : Bool) (err : Byte) : Bool :=
  err == 0 || err == 0x20 || (if eeprom then err == 0x0B || err == 0x0C else err == 0x0D)

/-- NVM_OP_DONE (R432): the running operation ends with an error code, 0 for none; a Read delivers its bytes. -/
def execNvmOpDone (err : Byte) (data : List Byte) (s : State) : Host.Outcome State Fault Refusal :=
  match s.hbus.nvm with
  | none => .next s
  | some x =>
    if !nvmEnds x.eeprom err then .next s else
    let t := if x.op = 0 then s.nvmData x.len data else s
    let t := { t with hbus := { t.hbus with nvm := none }, boot := { t.boot with nackRetry := false } }
    let t := (t.wr F.HBUS_NVM_STAT_BUSY 0).wr F.HBUS_NVM_STAT_ERR err.toNat
    .next (if err = 0 then t.ev A.HBUS_EVENT 8 else (t.bump F.HBUS_CNT2_NVM_FAIL).ev A.HBUS_EVENT 9)

end Sys2Proof.Machine
end

