-- ==== Sys2Proof/Machine/Biscuits.lean ====
section
/-!
DEFINITION. Machine/Biscuits.lean: biscuits on their way and at their target (R112 to R116), and edges of the SYNC pin (R82,
R114, R282).
-/

namespace Sys2Proof.Machine

open Sys2Proof

/-- Set what leaves in a biscuit slot of the present frame. -/
def State.setBiscuitSlot (s : State) (slot : Nat) (b : List (BitVec 8)) : State :=
  { s with ring := { s.ring with slots := Tbl.set [] s.ring.slots slot b } }

/-- A removed or unknown biscuit is counted (R112). -/
def State.biscuitBad (s : State) : State := s.bump F.TRING_BCNT_BAD

/-- Does the 32-bit index `now` stand beyond `limit`? Indexes wrap. -/
def beyond (now limit : Nat) : Bool :=
  let d := (now + 2 ^ 32 - limit % 2 ^ 32) % 2 ^ 32
  decide (0 < d) && decide (d < 2 ^ 31)

/-- A late START or SYNC (R114). -/
def State.biscuitLate (s : State) : State := (s.bump F.TRING_BCNT_LATE).ev A.TRING_EVENT 20

/-- A START reaches the DSP island (R82, R114): late after owner frame S − 2; else the armed ports start at S where the ring is
the trigger source. -/
def State.startBiscuit (s : State) (f : Nat) : State :=
  if beyond (s.rd F.PORT_TBFRAME_COUNT) (f + 2 ^ 32 - 2) then s.biscuitLate
  else if s.rd F.PORT_GSTART_SRC = 2 then (s.portTrigger f).ev A.TRING_EVENT 21
  else s

/-- A SYNC reaches the DSP island (R114, R282): late at or after J_sync − 8; else the decimators reset at J_sync. -/
def State.syncBiscuit (s : State) (j : Nat) : State :=
  if beyond s.ownerIndex (j + 2 ^ 32 - 9) then s.biscuitLate
  else (s.decimRequest j).ev A.TRING_EVENT 22

/-- START_BISCUIT. -/
def execStartBiscuit (frame : Word) (s : State) : Host.Outcome State Fault Refusal := .next (s.startBiscuit frame.toNat)
/-- SYNC_BISCUIT. -/
def execSyncBiscuit (j : Word) (s : State) : Host.Outcome State Fault Refusal := .next (s.syncBiscuit j.toNat)

/-- The answer to REG_WR or REG_RD goes to its originator, ahead of the host's biscuits (R113, R115). -/
def State.regRsp (s : State) (src addr : Nat) (v : BitVec 32) (status : Nat) : State :=
  let n := s.rd F.TRING_TOPO_RLEN
  let hop := if n = 0 then 0 else (src + n - s.ringPos % n) % n
  s.ringQueue true (biscuit 5 s.ring.seq hop s.ringPos (leBytes 4 addr ++ leBytes 4 v.toNat) status)

/-- The target refuses an access of the ring (R115). -/
def State.ringAccessRefused (s : State) (write : Bool) (a : Nat) : Bool :=
  let page := a / 0x10000
  let rwb := match findReg a with
    | some g => g.fields.any (fun f => f.acc == .rwb)
    | none => false
  !s.on F.TRING_CFG_REMOTE_EN || decide (page = 0 ∨ 17 ≤ page ∨ page = 12 ∨ page = 8) || (write && rwb)

/-- REG_WR at its target (R115). -/
def State.regWr (s : State) (src addr : Nat) (v : BitVec 32) : State :=
  if s.ringAccessRefused true addr then s.regRsp src addr v 1
  else
    let r := s.busWrite .ring addr v
    r.2.regRsp src addr v (if r.1 = .ok then 0 else 2)

/-- REG_RD at its target (R115). -/
def State.regRd (s : State) (src addr : Nat) : State :=
  if s.ringAccessRefused false addr then s.regRsp src addr 0 1
  else
    let r := s.busRead .ring addr
    r.2.2.regRsp src addr r.2.1 (if r.1 = .ok then 0 else 2)

/-- REG_WR. -/
def execRegWr (src : BitVec 16) (addr : Word) (v : Word) (s : State) : Host.Outcome State Fault Refusal :=
  .next (if s.busUp then s.regWr src.toNat addr.toNat v else s)
/-- REG_RD. -/
def execRegRd (src : BitVec 16) (addr : Word) (s : State) : Host.Outcome State Fault Refusal :=
  .next (if s.busUp then s.regRd src.toNat addr.toNat else s)

/-- HOST and REG_RSP biscuits enter the receive queue, or are dropped (R116). -/
def State.biscuitTake (s : State) (b : List (BitVec 8)) : State :=
  if 16 ≤ s.ring.rxq.length then (s.bump F.TRING_BCNT_DROPPED).ev A.TRING_EVENT 13
  else
    let t := s.ev A.TRING_EVENT 12
    { t with ring := { t.ring with rxq := s.ring.rxq ++ [slice b 0 16] } }

/-- REG_RSP. -/
def execRegRsp (bytes : List Byte) (s : State) : Host.Outcome State Fault Refusal := .next (s.biscuitTake bytes)
/-- HOST_BISCUIT. -/
def execHostBiscuit (bytes : List Byte) (s : State) : Host.Outcome State Fault Refusal := .next (s.biscuitTake bytes)

/-- A POLICY biscuit goes to firmware (R113). -/
def State.policyBiscuit (s : State) (b : List (BitVec 8)) : State :=
  { s with ring := { s.ring with policyIn := s.ring.policyIn ++ [slice b 0 16] } }

/-- POLICY_BISCUIT. -/
def execPolicyBiscuit (bytes : List Byte) (s : State) : Host.Outcome State Fault Refusal := .next (s.policyBiscuit bytes)

/-- A biscuit is consumed by its type (R113). A broadcast of a type that the table addresses as unicast (REG_WR, REG_RD) is handled
like one addressed to this device (log entry 156). -/
def State.biscuitConsume (s : State) (b : List (BitVec 8)) : State :=
  let ty := u8 b 0
  let src := u16 b 4
  if ty = 1 then s.startBiscuit (u32 b 6)
  else if ty = 2 then s.syncBiscuit (u32 b 6)
  else if ty = 3 then s.regWr src (u32 b 6) (BitVec.ofNat 32 (u32 b 10))
  else if ty = 4 then s.regRd src (u32 b 6)
  else if ty = 5 ∨ 128 ≤ ty then s.biscuitTake b
  else if ty = 0x10 then s.faultBiscuit src (slice b 6 8)
  else if ty = 0x11 then s.policyBiscuit b
  else s.biscuitBad

/-- A biscuit for this device leaves the link; where the bus stands still its effect does not come about (R17, R112). -/
def State.biscuitHandle (s : State) (b : List (BitVec 8)) : State := if s.busUp then s.biscuitConsume b else s

/-- BISCUIT_RX (R112): what a received biscuit meets, in order; an empty slot is 16 zero bytes. The link runs on the recovered
clock (R17). -/
def execBiscuitRx (slot : Fin 8) (bytes : List Byte) (s : State) : Host.Outcome State Fault Refusal :=
  let b := slice bytes 0 16
  let t := s.setBiscuitSlot slot []
  let hop := u16 b 2
  .next (if s.ringState = rOff ∨ s.ringState = rHalted ∨ !s.ringUp ∨ b.all (fun x => x == 0) then s
    else if crc8 0 (b.take 15) ≠ b.getD 15 0 then t.biscuitBad
    else if u16 b 4 = s.ringPos then
      (if hop = 0xFFFF then t else (t.bump F.TRING_BCNT_UNDELIVERED).ev A.TRING_EVENT 17)
    else if hop = 0xFFFF then (t.setBiscuitSlot slot b).biscuitHandle b
    else if hop ≤ 1 then (if s.ringState = rPass then t.biscuitBad else t.biscuitHandle b)
    else
      let f := b.take 2 ++ leBytes 2 (hop - 1) ++ slice b 4 11
      t.setBiscuitSlot slot (f ++ [crc8 0 f]))

/-- Remove the first biscuit of the queue that `p` admits. -/
def takeBiscuit (p : Bool × List (BitVec 8) → Bool) : List (Bool × List (BitVec 8)) →
    Option (List (BitVec 8) × List (Bool × List (BitVec 8)))
  | [] => none
  | x :: t => if p x then some (x.2, t) else match takeBiscuit p t with
    | some (b, rest) => some (b, x :: rest)
    | none => none

/-- BISCUIT_INSERT (R113): the slot passes empty; at most two insertions a frame; slot 0 takes START and SYNC alone. BTX_DONE is
set on every insertion, the device's own START, SYNC and REG_RSP included (log entry 157). -/
def execBiscuitInsert (slot : Fin 8) (s : State) : Host.Outcome State Fault Refusal :=
  .next (if !s.ringUp ∨ s.ringState = rOff ∨ s.ringState = rHalted ∨ 2 ≤ s.ring.inserted ∨ Tbl.get [] s.ring.slots slot ≠ [] then s
    else match takeBiscuit (fun x => decide (slot.val ≠ 0) || decide (u8 x.2 0 = 1 ∨ u8 x.2 0 = 2)) s.ring.txq with
      | none => s
      | some (b, rest) =>
        let t := (s.setBiscuitSlot slot b).ev A.TRING_EVENT 16
        { t with ring := { t.ring with txq := rest, inserted := s.ring.inserted + 1 } })

/-- SYNC_PIN_EDGE (R82, R114, R244, R282): the pin triggers the ports where it is their source; with SYNC_TX the device
broadcasts SYNC and resets its decimators at J_sync; else, where the pin is enabled for it, it resets them at J_e + 8. -/
def execSyncPinEdge (s : State) : Host.Outcome State Fault Refusal :=
  if s.sys.dieHeld then .next s
  else
    let t := if s.rd F.PORT_GSTART_SRC = 1 then s.localTrigger else s
    let t := if s.on F.TRING_CFG_SYNC_TX then
        let j := (t.ownerIndex + 96) % 2 ^ 32
        (t.ringQueue true (biscuit 2 t.ring.seq 0xFFFF t.ringPos (leBytes 4 j) 0)).decimRequest j
      else if s.on F.DECIM_SYNC_PIN_EN then t.decimRequest ((t.ownerIndex + 8) % 2 ^ 32)
      else t
    .next t.traceSync

end Sys2Proof.Machine
end

