-- ==== Sys2Proof/Machine/BootCheck.lean ====
section
/-!
DEFINITION. Machine/BootCheck.lean: the image as the device reads it: header, directory, sections, BOOTCFG, the policy
tables, and the checks of R47.
-/

namespace Sys2Proof.Machine

open Sys2Proof

/-- The sections read so far, as type, instance and bytes. -/
abbrev Sections := List (Nat × Nat × List (BitVec 8))

/-- The bytes of a section; none where it was not read. -/
def sectionOf (ss : Sections) (ty inst : Nat) : List (BitVec 8) :=
  match ss.find? (fun x => x.1 == ty && x.2.1 == inst) with
  | some x => x.2.2
  | none => []

/-! ### Header and directory (R46, R47, R480) -/

/-- The directory entries (R46). -/
def parseDir (n : Nat) (b : List (BitVec 8)) : List DirEntry :=
  (List.range n).map (fun i =>
    let e := b.drop (64 * i)
    { ty := u16 e 0, flags := u16 e 2, inst := u16 e 4, offset := u32 e 8, length := u32 e 12, crc := u32 e 16,
      sha := slice e 32 32 })

/-- A TYPE and INSTANCE that the section types table has (R46). -/
def sectionKnown (ty inst : Nat) : Bool :=
  decide (1 ≤ ty) && decide (ty ≤ 11) && (inst == 0 || (inst == 1 && (ty == 5 || ty == 6 || ty == 9)))

/-- The EARLY flag column of that table. -/
def sectionEarly (ty inst : Nat) : Bool :=
  if ty = 5 ∨ ty = 6 ∨ ty = 9 then inst == 0 else decide (ty ≤ 8)

/-- The EARLY flag of an entry. -/
def DirEntry.early (d : DirEntry) : Bool := d.flags.testBit 0

/-- Two sections share no byte. -/
def DirEntry.apart (a b : DirEntry) : Bool :=
  decide (a.offset + a.length ≤ b.offset) || decide (b.offset + b.length ≤ a.offset)

/-- Sections of a directory lie apart, pair by pair. -/
def allApart : List DirEntry → Bool
  | [] => true
  | d :: t => t.all (fun e => d.apart e) && allApart t

/-- The directory is consistent (R480); `len` is IMAGE_LEN. -/
def dirOk (ds : List DirEntry) (len : Nat) : Bool :=
  let has (ty inst : Nat) : Bool := ds.any (fun d => d.ty == ty && d.inst == inst)
  let front := 256 + 64 * ds.length + 128
  ds.all (fun d => sectionKnown d.ty d.inst) && decide ((ds.map (fun d => (d.ty, d.inst))).Nodup) &&
  has 1 0 && has 3 0 && has 4 0 && has 5 0 && has 5 1 && has 6 0 && has 6 1 && has 8 0 &&
  ds.all (fun d => d.early == sectionEarly d.ty d.inst && d.flags.testBit 1 == (d.ty == 11)) &&
  ds.all (fun d => decide (d.offset + d.length ≤ len) && d.offset % 256 == 0 && decide (front ≤ d.offset)) &&
  allApart ds &&
  ds.all (fun d => !d.early || ds.all (fun e => e.early || decide (d.offset + d.length ≤ e.offset))) &&
  decide ((ds.filter DirEntry.early).foldl (fun n d => n + d.length) 0 ≤ 4194304)

/-- Checks 1 to 6 (R47): the last one passed and the error code, 0 where all pass. -/
def State.headerCheck (s : State) (h d sg : List (BitVec 8)) : Nat × Nat :=
  let n := u16 h 12
  let dir := slice d 0 (64 * n)
  let rev := 16 * s.rd F.SYS_IDENT_REV_MAJOR + s.rd F.SYS_IDENT_REV_MINOR
  if u32 h 0 ≠ 0x53414F4D ∨ u8 h 5 ≠ 1 ∨ u16 h 6 ≠ 256 ∨ 125829120 < u32 h 8 ∨ n = 0 ∨ 64 < n ∨
      u32 h 252 ≠ (crc32 (slice h 0 252)).toNat then (0, 3)
  else if u16 h 16 ≠ 0x1648 ∨ rev < u8 h 18 then (1, 4)
  else if sha256 (slice sg 0 64) ≠ s.otp.keyHash then (2, 5)
  else if ecdsaVerify (slice sg 0 64) (sha256 (slice h 0 256 ++ dir)) (slice sg 64 64) = false then (3, 6)
  else if u32 h 20 < s.otp.minSv then (4, 7)
  else if dirOk (parseDir n dir) (u32 h 8) = false then (5, 10)
  else (6, 0)

/-! ### BOOTCFG (R331, R478) -/

/-- The rails that a mask names, in the numbering of R331. -/
def maskRails (m : Nat) : List Nat := (List.range 9).filter (fun r => m.testBit r)

/-- The stages of the sequencer record (R331). -/
def seqStages (b : List (BitVec 8)) : List SeqStage :=
  (List.range (u16 b 0)).map (fun i =>
    { rails := maskRails (u16 b (2 + 8 * i)), delay := u16 b (4 + 8 * i), timeout := u16 b (6 + 8 * i) })

/-- The sequencer record passes check 9 (R331). -/
def seqRecordOk (b : List (BitVec 8)) : Bool :=
  let n := u16 b 0
  let masks := (List.range n).map (fun i => u16 b (2 + 8 * i))
  let rails : List Nat := (seqStages b).flatMap (fun g => g.rails)
  decide (1 ≤ n) && decide (n ≤ 6) && masks.all (fun m => decide (m < 512) && m % 32 == 0) && decide rails.Nodup &&
  rails.contains rPvdd && (seqStages b).all (fun g => decide (1 ≤ g.timeout) && decide (g.timeout ≤ 1000))

/-- Where the RWB record begins: the next 4-byte boundary after the sequencer record (R478). -/
def rwbAt (b : List (BitVec 8)) : Nat := (2 + 8 * u16 b 0 + 3) / 4 * 4

/-- The pairs of the RWB record (R478). -/
def rwbPairs (b : List (BitVec 8)) : List (Nat × BitVec 32) :=
  (List.range (u16 b (rwbAt b))).map (fun i => (u32 b (rwbAt b + 4 + 8 * i), BitVec.ofNat 32 (u32 b (rwbAt b + 8 + 8 * i))))

/-- The bits of a register's RWB fields. -/
def RegGroup.rwbMask (g : RegGroup) : BitVec 32 :=
  g.fields.foldl (fun m f => if f.acc = .rwb then m ||| fieldMask f.lo f.w else m) 0

/-- An address inside the register blocks (R28). -/
def inBlocks (a : Nat) : Bool := decide (0x10000 ≤ a) && decide (a < 0x120000)

/-- The register at an address has an RWB field. -/
def isRwb (a : Nat) : Bool :=
  match findReg a with
  | some g => g.rwbMask != 0
  | none => false

/-- A pair names a register with an RWB field, and every other bit of its word holds its reset value (R478). -/
def rwbPairOk (p : Nat × BitVec 32) : Bool :=
  match findReg p.1 with
  | some g => p.1 % 4 == 0 && g.rwbMask != 0 && (p.2 &&& ~~~ g.rwbMask) == (g.rstWord p.1 &&& ~~~ g.rwbMask)
  | none => false

/-- The RWB fields of a pair lie within the ranges and codes that their registers state (R478); a DEADTIME below DT_MIN is
taken (R183). -/
def rwbRangeOk (p : Nat × BitVec 32) : Bool :=
  let v := p.2
  let a := p.1
  let within (lo w from' goal : Nat) : Bool := decide (from' ≤ getField v lo w) && decide (getField v lo w ≤ goal)
  if a = A.SYS_TSRC then within 0 3 0 5
  else if a = A.MOD_DIEd_CFG 0 ∨ a = A.MOD_DIEd_CFG 1 then within 0 3 0 4 && within 5 2 0 2 && within 10 6 0 40
  else if a = A.DECIM_CFG then within 8 7 8 64 && within 0 3 2 5
  else if (arrIdx (A.GUARD_OUTo_XCLAMP 0) 64 16 a).isSome then within 16 11 10 2000
  else if (arrIdx (A.GUARD_OUTo_ECLAMP 0) 64 16 a).isSome then within 0 4 3 13
  else if a = A.PMU_PVDD_STATIC then within 24 5 3 18
  else if a = A.PMU_PVDD_SLEW then within 0 16 256 12800 && within 16 16 256 12800
  else if a = A.PMU_PVDD_CFG then decide (getField v 16 8 < getField v 8 8)
  else if a = A.PMU_ILIM then within 16 6 10 50 && within 0 9 4 300
  else if a = A.PMU_HOLD_CFG then within 0 8 160 200
  else if a = A.PMU_HOLD_CFG2 then within 16 5 0 20 && within 0 8 1 255
  else if a = A.GOV_LIMIT_MAX then within 0 16 0x0080 0x0C00
  else if a = A.HBUS_CFG then
    getField v 0 7 == 0 || (within 0 7 0x09 0x77 && !([0x0C, 0x28, 0x37, 0x61].contains (getField v 0 7)))
  else true

/-- The RWB record passes check 9 (R478). -/
def rwbRecordOk (b : List (BitVec 8)) : Bool :=
  let ps := rwbPairs b
  decide (rwbAt b + 4 + 8 * ps.length = b.length) && decide (ps.length ≤ 256) && u16 b (rwbAt b + 2) == 0 &&
  decide ((ps.map (fun p => p.1)).Nodup) && ps.all (fun p => rwbPairOk p && rwbRangeOk p)

/-- The RWB fields of a pair take their values; no other bit is written (R478). -/
def State.applyRwb (s : State) (p : Nat × BitVec 32) : State :=
  match findReg p.1 with
  | some g => s.setReg p.1 ((s.reg p.1 &&& ~~~ g.rwbMask) ||| (p.2 &&& g.rwbMask))
  | none => s

/-- DEADTIME below DT_MIN is raised to it (R183). -/
def State.raiseDeadtime (s : State) : State :=
  s.forAll 2 (fun d t => t.wr (F.MOD_DIEd_CFG_DEADTIME d)
    (max (t.rd (F.MOD_DIEd_CFG_DEADTIME d)) (if d = 0 then t.otp.dtMin0 else t.otp.dtMin1)))

/-- The configuration that a BOOTCFG section sets up: its RWB values and its stages. -/
def State.withBootcfg (s : State) (b : List (BitVec 8)) : State :=
  let t := (s.forEach (rwbPairs b) (fun p t => t.applyRwb p)).raiseDeadtime
  { t with pmu := { t.pmu with stages := seqStages b } }

/-- Rules of other chapters about the RWB values (R181, R183, R184, R211, R270, R338, R347); where a port owns the rate, its Fa
comes with REGINIT and the chain is judged there. -/
def State.rwbConfigOk (s : State) : Bool :=
  let pmax := s.rd F.PMU_PVDD_RANGE_MAX
  let pmin := s.rd F.PMU_PVDD_RANGE_MIN
  let stat := s.rd F.PMU_PVDD_STATIC_VOLTS
  let hv := s.rd F.PMU_HOLD_CFG_HOLD_V
  let fl := s.rd F.PMU_HOLD_CFG_HU_FLOOR
  let enter := s.rd F.PMU_HOLD_CFG_HU_ENTER
  (List.range 2).all (fun d =>
    let car := s.rd (F.MOD_DIEd_CFG_CARRIER d)
    let per := carrierPeriod car
    decide (car ≤ 4) && (decide (car ≠ 4) || decide (pmax ≤ 26 * 1024)) &&
    decide (s.rd (F.MOD_DIEd_CFG_DEADTIME d) ≤ 40) &&
    decide (s.rd (F.MOD_DIEd_CFG_MI_MAX d) * per + 131072 * (s.rd (F.MOD_DIEd_CFG_DEADTIME d) + 8) ≤ 65536 * per) &&
    decide (s.rd (F.MOD_DIEd_CFG_INTERLEAVE d) ≠ 3) &&
    (List.range 8).all (fun c => decide (s.rd (F.MOD_PHASEc_CUSTOM (8 * d + c)) < per))) &&
  decide (14 * 1024 ≤ pmin) && decide (pmin ≤ stat) && decide (stat ≤ pmax) && decide (pmax ≤ 52 * 1024) &&
  decide (s.rd F.LOOP_PVDDSTAT_VOLTS = stat) &&
  decide (5 * (pmax - pmin) ≤ s.rd F.PMU_PVDD_SLEW_UP * (s.rd F.PMU_PVDD_STATIC_T_LEAD - 2) * 2) &&
  (decide (s.rd F.SYS_TSRC_SRC < 4) || decimSetupOk s.decimK s.decimL (s.rd F.DECIM_CFG_COMP) s.fa) &&
  (!s.chgStaged || (decide (enter + 4 ≤ s.rd F.PMU_HOLD_CFG_HU_EXIT) && decide (48 ≤ fl) && decide (fl ≤ 160) &&
    decide (fl + 20 ≤ hv) && decide (enter + 8 < hv) && decide (s.rd F.PMU_HOLD_CFG2_HU_TIME ≠ 0)))

/-- BOOTCFG passes check 9 (R478). -/
def State.bootcfgOk (s : State) (b : List (BitVec 8)) : Bool :=
  seqRecordOk b && rwbRecordOk b && (s.withBootcfg b).rwbConfigOk

/-! ### REGINIT and the ports (R47, R78, R97) -/

/-- The records of REGINIT. -/
def regInit (b : List (BitVec 8)) : List (Nat × BitVec 32) :=
  (List.range (b.length / 8)).map (fun i => (u32 b (8 * i), BitVec.ofNat 32 (u32 b (8 * i + 4))))

/-- A GUARD clamp register (R294). -/
def isClamp (a : Nat) : Bool := decide (0x80100 ≤ a) && decide (a < 0x80500) && decide ((a - 0x80100) % 0x40 < 0x10)

/-- What the register at `a` holds once the records are applied. -/
def State.regAfter (s : State) (rs : List (Nat × BitVec 32)) (a : Nat) : BitVec 32 :=
  match rs.reverse.find? (fun r => r.1 == a) with
  | some r => r.2
  | none => s.reg a

/-- The state with the owner's configured Fa in force, whether it is locked or not (R22, R121, R270). -/
def State.atCfgFa (s : State) : State :=
  let src := s.rd F.SYS_TSRC_SRC
  if src < 4 then { s with sys := { s.sys with lastFa := some (BitVec.ofNat 2 (s.rd (F.PORTn_CFG_FA src))) } } else s

/-- The state with the port configuration of REGINIT, which check 9 judges (R97, R121). -/
def State.withPorts (s : State) (b : List (BitVec 8)) : State :=
  let rs := regInit b
  let t := s.forAll 4 (fun n t => t.setReg (A.PORTn_CFG n) (s.regAfter rs (A.PORTn_CFG n)))
  (t.setReg A.PORT3_IEC_CFG (s.regAfter rs A.PORT3_IEC_CFG)).atCfgFa

/-- REGINIT passes check 9: no record at an RWB field, a clamp or outside the blocks (R47); the ports' configuration, which the
state holds (R68, R78, R97). -/
def State.regInitOk (s : State) (b : List (BitVec 8)) : Bool :=
  let rs := regInit b
  let src := s.rd F.SYS_TSRC_SRC
  let words := (List.range 4).flatMap (fun n => (List.range 4).map (fun k => A.PORTn_RXMAPk n k)) ++
    (List.range 16).map (fun k => A.TRING_RXMAPk k)
  let bound := words.flatMap (fun w => boundCtxs ((List.range 4).map (mapEntry (s.regAfter rs w))))
  rs.all (fun r => inBlocks r.1 && !isRwb r.1 && !isClamp r.1) &&
  (List.range 4).all (fun n =>
    portCfgOk n (s.reg (A.PORTn_CFG n)) && (s.rd (F.PORTn_CFG_MODE n) == 0 ||
      (s.rd (F.PORTn_CFG_FA n) == s.faCode && !(decide (src = n) && s.portMaster n)))) &&
  decide bound.Nodup

/-! ### Policy (R61) -/

/-- The tables of a POLICY section (R61): none where a header is out of range, a major version is above 1 or a CRC fails. -/
def parsePolicy : Nat → List (BitVec 8) → Option (List PolTable)
  | 0, b => if b = [] then some [] else none
  | k + 1, b =>
    if b = [] then some []
    else
      let size := u16 b 4
      let n := u16 b 6
      let body := (b.drop 16).take (size * n)
      if b.length < 16 + size * n ∨ 1 < u8 b 3 ∨ size % 4 ≠ 0 ∨ 4096 < n ∨ u32 b 8 ≠ (crc32 body).toNat then none
      else
        match parsePolicy k (b.drop (16 + size * n)) with
        | none => none
        | some ts => some ({ id := u16 b 0, entries := (List.range n).map (fun i => slice body (size * i) size) } :: ts)

/-- The tables of a POLICY section. -/
def policyOf (b : List (BitVec 8)) : Option (List PolTable) := parsePolicy (b.length / 16 + 1) b

/-- Bytes of an entry of a table; 0 for an unknown TABLE_ID. -/
def entrySize (id : Nat) : Nat :=
  if id = 4 ∨ id = 9 then 8 else if id = 6 then 144 else if id = 8 then 32 else if 1 ≤ id ∧ id ≤ 10 then 16 else 0

/-- No table twice, the required tables present, entries of their size (R61), one entry in a ring table (R121). -/
def policyShapeOk (ts : List PolTable) : Bool :=
  decide ((ts.map (fun t => t.id)).Nodup) && [1, 2, 3, 4, 8, 10].all (fun i => ts.any (fun t => t.id == i)) &&
  ts.all (fun t => entrySize t.id == 0 || t.entries.all (fun e => decide (e.length = entrySize t.id))) &&
  ts.all (fun t => t.id != 6 || decide (t.entries.length = 1))

/-- The power class of an output in a graph (R364). -/
def Graph.outClass (g : Graph) (o : Nat) : Nat :=
  match g.terms.find? (fun t => t.kind == 2 && t.number == o) with
  | some t => ((g.block t.inst).map (fun b => b.pclass)).getD 3
  | none => 3

/-- The placement that check 9 asks for (R158, R175, R177): P0 blocks fit in full-guarantee mode, or ALLOW_RELAX lets them not;
DRAM holds what it must; a pinned block can be placed on its pins alone. The policy of the state is the one under check. -/
def State.placementOk (s : State) (g : Graph) : Bool :=
  let mode := u8 s.placeGlobal 2
  (decide (mode ≠ 0) || (u8 s.placeGlobal 3).testBit 0 || (s.placeIn1 g 0).isSome) && s.dramOk g mode &&
  (s.polEntries 4).all (fun e => u16 e 0 == 0 || (u8 e 4 == 255 && u8 e 5 == 255) ||
    (match g.block (u16 e 0) with
     | none => true
     | some b =>
       match s.placeIn1 { Graph.empty with blocks := [b] } mode with
       | some p => p.entries.all (fun x => x.state != 1)
       | none => false))

/-- A policy passes check 9 against a graph and the speaker sets; BOOTCFG is in place (R61 and the rules of each table). -/
def State.policyOk (s : State) (ts : List PolTable) (g : Graph) (sets : List (List (BitVec 32))) : Bool :=
  let t := { s with boot := { s.boot with policy := ts } }
  let tb (i : Nat) := t.polEntries i
  let mi (d : Nat) := s.rd (F.MOD_DIEd_CFG_MI_MAX d)
  let staged := s.pmu.stages.flatMap (fun x => x.rails)
  policyShapeOk ts && fcolPolicyOk (tb 1) &&
  s.govPolicyOk (tb 2) (tb 3) (tb 8) (fun o => g.outClass o == 0) &&
  outMapOk (tb 3) g mi (s.rd F.PMU_PVDD_RANGE_MAX) && placePolicyOk (tb 4) g && t.placementOk g &&
  (tb 5).all portEntryOk && decide (((tb 5).map (fun e => u8 e 0)).Nodup) &&
  (tb 6).all (fun e => ringEntryOk e (slotCapacity s.faCode) && ringRoleOk (u8 e 0) (s.rd F.SYS_TSRC_SRC)) &&
  diagPolicyOk s.fa (tb 7) && guardPolicyOk (tb 3) (tb 8) g sets && hkPolicyOk (tb 10) staged && intcPolicyOk (tb 9)

/-! ### Checks 7 to 9 (R47, R48) -/

/-- How a check fails: the last check passed, the error code, TYPE and INSTANCE of the section (R53). -/
structure BootFail where
  last : Nat
  err : Nat
  ty : Nat
  inst : Nat
  deriving DecidableEq, Repr

/-- A section as read passes check 7: it is there in full and its CRC-32 is right. -/
def crcOk (ss : Sections) (d : DirEntry) : Bool :=
  let b := sectionOf ss d.ty d.inst
  decide (b.length = d.length) && (crc32 b).toNat == d.crc

/-- The first of checks 7 and 8 that fails over some sections. -/
def integrityFail (ss : Sections) (ds : List DirEntry) : Option BootFail :=
  match ds.find? (fun d => !crcOk ss d) with
  | some d => some { last := 6, err := 8, ty := d.ty, inst := d.inst }
  | none =>
    match ds.find? (fun d => decide (sha256 (sectionOf ss d.ty d.inst) ≠ d.sha)) with
    | some d => some { last := 7, err := 9, ty := d.ty, inst := d.inst }
    | none => none

/-- Check 9 over the early sections but BOOTCFG, whose values are in place. -/
def State.earlyConfig (s : State) (ss : Sections) : Option BootFail :=
  let s := s.withPorts (sectionOf ss 2 0)
  let sounds := parseSounds true (sectionOf ss 9 0)
  let g := parseGraph (sectionOf ss 5 0)
  let sets := parseSets (sectionOf ss 7 0)
  let fail (ty : Nat) : Option BootFail := some { last := 8, err := 14, ty := ty, inst := 0 }
  if s.regInitOk (sectionOf ss 2 0) = false then fail 2
  else if decimSetupOk s.decimK s.decimL (s.rd F.DECIM_CFG_COMP) s.fa = false then fail 1
  else if sounds.all soundOk = false ∨ decide ((sounds.map (fun x => x.id)).Nodup) = false then fail 9
  else if g.ok sounds s.fa = false then fail 5
  else if ((sectionOf ss 7 0 == []) || spkmodelOk (sectionOf ss 7 0)) = false then fail 7
  else if loopbankOk (sectionOf ss 8 0) = false then fail 8
  else
    match policyOf (sectionOf ss 6 0) with
    | none => fail 6
    | some ts => if s.policyOk ts g sets then none else fail 6

/-- Check 9 over the non-early sections; `early` are the sounds of the early instance. -/
def State.fullConfig (s : State) (ss : Sections) (early : List Sound) (sets : List (List (BitVec 32))) : Option BootFail :=
  let s := s.atCfgFa
  let late := parseSounds false (sectionOf ss 9 1)
  let sounds := early ++ late
  let g := parseGraph (sectionOf ss 5 1)
  let fail (ty inst : Nat) : Option BootFail := some { last := 8, err := 14, ty := ty, inst := inst }
  if late.all soundOk = false ∨ decide ((sounds.map (fun x => x.id)).Nodup) = false then fail 9 1
  else if g.ok sounds s.fa = false then fail 5 1
  else
    match policyOf (sectionOf ss 6 1) with
    | none => fail 6 1
    | some ts => if s.policyOk ts g sets then none else fail 6 1

/-- The whole of checks 7 to 9 over one copy, as dry-fit runs them (R56); `s` holds no value of the copy yet. -/
def State.copyConfig (s : State) (ss : Sections) (ds : List DirEntry) : Option BootFail :=
  let t := s.withBootcfg (sectionOf ss 1 0)
  let t := { t with boot := { t.boot with dir := ds } }
  match integrityFail ss (ds.filter DirEntry.early) with
  | some f => some f
  | none =>
    if s.bootcfgOk (sectionOf ss 1 0) = false then some { last := 8, err := 14, ty := 1, inst := 0 }
    else
      match t.earlyConfig ss with
      | some f => some f
      | none =>
        match integrityFail ss (ds.filter (fun d => !d.early)) with
        | some f => some f
        | none => (t.withPorts (sectionOf ss 2 0)).fullConfig ss (parseSounds true (sectionOf ss 9 0)) (parseSets (sectionOf ss 7 0))

end Sys2Proof.Machine
end

