-- ==== Sys2Proof/Machine/Boot.lean ====
section
/-!
DEFINITION. Machine/Boot.lean: the boot ROM's walk over the image sources (R38 to R48), the boot timeline from step 5 to
FULL_RUNNING (R49 to R51), dry-fit (R56, R57), ROM defaults (R58) and the boot lock (R59).
-/

namespace Sys2Proof.Machine

open Sys2Proof

/-! ### Attempts (R43, R53) -/

/-- Change the boot state. -/
def State.bt (s : State) (f : BootSt → BootSt) : State := { s with boot := f s.boot }

/-- The source being read: that of the copy tried next, or of the copy in use; 0 none. -/
def State.bootSource (s : State) : Nat :=
  match s.boot.plan with
  | [] => 0
  | p :: _ => p.1

/-- The attempt at the present copy, with its result. -/
def State.attemptOf (s : State) (f : BootFail) : BootAttempt :=
  let p := s.boot.plan.headD (0, 0)
  let common := match s.boot.chosen with
    | some c => if s.boot.state = bootEarlyLoading then c.common else (s.boot.loc.map (fun l => l.2.2)).getD false
    | none => (s.boot.loc.map (fun l => l.2.2)).getD false
  { source := p.1, copy := p.2, common := common, lastCheck := f.last, err := f.err, ty := f.ty, inst := f.inst }

/-- Record the attempt at the present copy. -/
def State.recordAttempt (s : State) (f : BootFail) : State :=
  s.bt (fun b => { b with attempts := b.attempts ++ [s.attemptOf f] })

/-- The image in use is settled: its directory is the one that counts and its sections are to be read. Bytes that arrive end a
repeat after a missing acknowledge (R481). -/
def State.adopt (s : State) (c : BootChoice) : State :=
  s.bt (fun b => { b with state := bootEarlyLoading, dir := c.dir, chosen := some c, lastCheck := 6, rereads := [],
                          cfgApplied := false, nackRetry := false })

/-- The image in use has failed: none is active any more (R53). -/
def BootSt.unchoose (b : BootSt) : BootSt :=
  { b with chosen := none, actSource := 0, actCopy := 0, actCommon := false, secver := 0, configId := List.replicate 8 0 }

/-- The copies left to try: the next one starts from its header, a new source from its locator. In dry-fit, once every copy
has been checked, the first that passed is used (R56). -/
def State.planTo (s : State) (rest : List (Nat × Nat)) : State :=
  let same := decide (s.bootSource = (rest.headD (0, 0)).1)
  let t := s.bt (fun b => { b with
    plan := rest, state := bootRomRead, rereads := [], cfgApplied := false, lastCheck := 0, arbWait := false, stuck := false,
    stuckTries := 0, nackRetry := false, loc := if same then b.loc else none, locBad := if same then b.locBad else 0,
    dir := [] })
  match rest, s.boot.chosen with
  | [], some c => (t.adopt c).bt (fun b => { b with plan := [(c.source, c.copy)] })
  | _, _ => t

/-- The present copy fails: it is recorded and the next copy is tried (R43). -/
def State.copyFail (s : State) (f : BootFail) : State :=
  let t := s.recordAttempt f
  let t := if s.boot.state = bootEarlyLoading then t.bt BootSt.unchoose else t
  t.planTo (s.boot.plan.drop 1)

/-- The present source fails for both copies (R43): one attempt is recorded. -/
def State.sourceFail (s : State) (err : Nat) : State :=
  let t := s.recordAttempt { last := 0, err := err, ty := 0, inst := 0 }
  let t := if s.boot.state = bootEarlyLoading then t.bt BootSt.unchoose else t
  t.planTo (s.boot.plan.filter (fun p => p.1 != s.bootSource))

/-- The boot ROM reads images: the state is ROM_READ, or EARLY_LOADING. -/
def State.romReads (s : State) : Bool :=
  (s.boot.state == bootRomRead || s.boot.state == bootEarlyLoading) && !s.boot.plan.isEmpty

/-- The check that the failure of a later section leaves as the last one passed (R53). -/
def lastOf (err : Nat) : Nat := if err = 8 then 6 else if err = 9 then 7 else if err = 14 then 8 else if err = 15 then 9 else 10

/-- A boot fault: class 0xD, instance 0, code 0x01, with the error code (R49, R58). -/
def State.bootFault (s : State) (err : Nat) : State := s.raise 0xD 0 1 err false

/-- The severity 2 entry of a failed copy (R57): the attempt as the boot record holds it. -/
def State.refusal (s : State) (a : BootAttempt) : State :=
  if a.err = 0 then s else s.dryfitEntry (faultId 0xD 0 1) a.err 2 a.bytes

/-- A check fails on a non-early section, or its source fails, after the early graph has begun (R49): the attempt that
succeeded shows the failure; EARLY_ONLY and a boot fault; in dry-fit a refusal entry (R57). -/
def State.lateFail (s : State) (f : BootFail) : State :=
  let used (a : BootAttempt) : Bool := a.err == 0 && a.source == s.boot.actSource && a.copy == s.boot.actCopy
  let fix (a : BootAttempt) : BootAttempt := { a with lastCheck := f.last, err := f.err, ty := f.ty, inst := f.inst }
  let att := s.boot.attempts.map (fun a => if used a then fix a else a)
  let t := s.bt (fun b => { b with attempts := att, plan := [] })
  if s.boot.state = bootEarlyRunning then (t.bt (fun b => { b with state := bootEarlyOnly })).bootFault f.err
  else
    (t.bt (fun b => { b with dryfitRan := true })).forEach ((s.boot.attempts.filter used).map fix) (fun a t => t.refusal a)

/-- The non-early sections are being read: EARLY_RUNNING, or dry-fit. -/
def State.lateReads (s : State) : Bool :=
  (s.boot.state == bootEarlyRunning || s.boot.state == bootDryfitRunning) && !s.boot.plan.isEmpty

/-- The present source fails, wherever the boot stands (R43, R49). -/
def State.bootSourceFail (s : State) (err : Nat) : State :=
  if s.romReads then s.sourceFail err
  else if s.lateReads then s.lateFail { last := lastOf err, err := err, ty := 0, inst := 0 }
  else s

/-! ### xSPI discovery (R38, R39) -/

/-- A transaction with the flash is under way: at boot from that source, or for an operation of the host. -/
def State.flashBusy (s : State) : Bool :=
  (s.romReads && s.bootSource == 1) ||
  (match s.hbus.nvm with
   | some x => !x.eeprom
   | none => false)

/-- XSPI_DISCOVERY_DONE (R38): the density is known; at boot the ROM takes 8D-8D-8D where the flash declares it. -/
def execXspiDiscoveryDone (octal : Bool) (size : Nat) (s : State) : Host.Outcome State Fault Refusal :=
  .next (if s.flashBusy then
      s.bt (fun b => { b with xspiFound := true, flashSize := size, xspi8d := octal && s.romReads })
    else s)

/-- An operation of the host on the NVM bus or the flash ends with an error (R432). -/
def State.nvmFail (s : State) (err : Nat) : State :=
  let t := { s with hbus := { s.hbus with nvm := none } }
  (((t.wr F.HBUS_NVM_STAT_BUSY 0).wr F.HBUS_NVM_STAT_ERR err).bump F.HBUS_CNT2_NVM_FAIL).ev A.HBUS_EVENT 9

/-- XSPI_DISCOVERY_TIMEOUT (R39): code 0x0D. -/
def execXspiDiscoveryTimeout (s : State) : Host.Outcome State Fault Refusal :=
  .next (if !s.flashBusy || s.boot.xspiFound then s
    else if s.hbus.nvm.isSome then s.nvmFail 0x0D
    else s.sourceFail 0x0D)

/-! ### The NVM bus (R41, R42, R481) -/

/-- The device makes transactions on the NVM bus: a boot from the EEPROM, or an EEPROM operation of the host (R431). -/
def State.nvmActive (s : State) : Bool :=
  ((s.romReads || s.lateReads) && s.bootSource == 2) ||
  (match s.hbus.nvm with
   | some x => x.eeprom
   | none => false)

/-- The source on the NVM bus fails: the host's operation where one runs, else the boot source. -/
def State.nvmSourceFail (s : State) (err opErr : Nat) : State :=
  let t := s.bt (fun b => { b with arbWait := false, stuck := false, stuckTries := 0, nackRetry := false })
  if s.hbus.nvm.isSome then t.nvmFail opErr else t.bootSourceFail err

/-- NVM_ARBITRATION_LOST (R41): SDA is released and the transaction waits. -/
def execNvmArbitrationLost (s : State) : Host.Outcome State Fault Refusal :=
  .next (if s.nvmActive && !s.boot.arbWait then (s.bt (fun b => { b with arbWait := true })).ev A.HBUS_EVENT 11 else s)

/-- NVM_ARBITRATION_RETRY (R41): the lost transaction starts again. -/
def execNvmArbitrationRetry (s : State) : Host.Outcome State Fault Refusal :=
  .next (if s.boot.arbWait then s.bt (fun b => { b with arbWait := false }) else s)

/-- NVM_ARBITRATION_TIMEOUT (R41): code 0x0C. -/
def execNvmArbitrationTimeout (s : State) : Host.Outcome State Fault Refusal :=
  .next (if s.nvmActive then s.nvmSourceFail 0x0C 0x0C else s)

/-- One recovery attempt (R42, steps 1 to 5): `freed` says that SDA rose after one of the pulses. After the fourth failed
attempt the source fails with code 0x0B. -/
def State.recovery (s : State) (freed : Bool) : State :=
  if freed then s.bt (fun b => { b with stuck := false, stuckTries := 0 })
  else if 3 ≤ s.boot.stuckTries then s.nvmSourceFail 0x0B 0x0B
  else s.bt (fun b => { b with stuck := true, stuckTries := b.stuckTries + 1 })

/-- STUCK_BUS_DETECTED (R42): the first recovery attempt. -/
def execStuckBusDetected (freed : Bool) (s : State) : Host.Outcome State Fault Refusal :=
  .next (if s.nvmActive && !s.boot.stuck then
      ((s.bt (fun b => { b with stuckTries := 0 })).ev A.HBUS_EVENT 10).recovery freed
    else s)

/-- STUCK_BUS_RETRY (R42): the next recovery attempt, 100 µs after a failed one. -/
def execStuckBusRetry (freed : Bool) (s : State) : Host.Outcome State Fault Refusal :=
  .next (if s.boot.stuck then s.recovery freed else s)

/-- EEPROM_NACK (R481): the transaction is to be repeated once. -/
def execEepromNack (s : State) : Host.Outcome State Fault Refusal :=
  .next (if s.nvmActive && !s.boot.nackRetry then s.bt (fun b => { b with nackRetry := true }) else s)

/-- EEPROM_NACK_RETRY (R481): not acknowledged again: code 0x10 for the source in a locator read, for the copy in an image
read; an operation of the host ends with 0x20 (R432). -/
def execEepromNackRetry (s : State) : Host.Outcome State Fault Refusal :=
  .next (if !s.boot.nackRetry || !s.nvmActive then s
    else
      let t := s.bt (fun b => { b with nackRetry := false })
      if t.hbus.nvm.isSome then t.nvmFail 0x20
      else if t.lateReads then t.lateFail { last := 10, err := 0x10, ty := 0, inst := 0 }
      else if t.boot.loc.isNone then t.sourceFail 0x10
      else t.copyFail { last := t.boot.lastCheck, err := 0x10, ty := 0, inst := 0 })

/-! ### Locator (R44, R45) -/

/-- The source of the next copy can be read: the flash once it is discovered, the EEPROM while its bus is free. -/
def State.sourceReady (s : State) : Bool :=
  if s.bootSource = 1 then s.boot.xspiFound else !s.boot.arbWait && !s.boot.stuck

/-- An offset that marks a copy as absent (R45). -/
abbrev absentCopy : Nat := 0xFFFFFFFF

/-- LOCATOR_READ (R44, R45): the next stored copy of the locator, 148 bytes. A bad one leaves the second to be read, two bad
ones fail the source; a good one gives the offsets of the image copies, and those that are absent are not tried. R45 requires
offsets that are multiples of 256 and gives no outcome for others: such a copy is tried where its offset says (log entry 148). -/
def execLocatorRead (bytes : List Byte) (s : State) : Host.Outcome State Fault Refusal :=
  .next (if s.boot.state ≠ bootRomRead ∨ s.boot.plan = [] ∨ s.boot.loc.isSome ∨ !s.sourceReady then s
    else if u32 bytes 0 ≠ 0x434F4C4D ∨ u32 bytes 0x90 ≠ (crc32 (slice bytes 0 0x90)).toNat then
      (if s.boot.locBad = 0 then s.bt (fun b => { b with locBad := 1, nackRetry := false }) else s.sourceFail 1)
    else
      let n := s.hbus.strap % 16
      let own := (u32 bytes (8 + 8 * n), u32 bytes (12 + 8 * n))
      let common := own.1 == absentCopy && own.2 == absentCopy
      let at' := if common then (u32 bytes 0x88, u32 bytes 0x8C) else own
      let src := s.bootSource
      let t := s.bt (fun b => { b with loc := some (at'.1, at'.2, common), nackRetry := false, eepFast := b.eepFast || (src == 2 && u8 bytes 4 == 1) })
      if at'.1 = absentCopy ∧ at'.2 = absentCopy then t.sourceFail 2
      else t.bt (fun b => { b with plan := b.plan.filter (fun p =>
        !(p.1 == src && (if p.2 = 0 then at'.1 else at'.2) == absentCopy)) }))

/-! ### Header, directory and signature (R47, checks 1 to 6) -/

/-- IMAGE_HEADER_CHECKED: checks 1 to 6 of the present copy. A copy that passes is used; in dry-fit every check runs on every
copy before the first that passed is used (R56), over the `sections` as read. -/
def execImageHeaderChecked (header directory signature : List Byte) (sections : List (Nat × Nat × List Byte)) (s : State) :
    Host.Outcome State Fault Refusal :=
  .next (if s.boot.state ≠ bootRomRead ∨ s.boot.plan = [] ∨ s.boot.loc.isNone ∨ !s.sourceReady then s
    else
      let r := s.headerCheck header directory signature
      if r.2 ≠ 0 then s.copyFail { last := r.1, err := r.2, ty := 0, inst := 0 }
      else
        let p := s.boot.plan.headD (0, 0)
        let c : BootChoice :=
          { source := p.1, copy := p.2, common := (s.boot.loc.map (fun l => l.2.2)).getD false, flags := u16 header 14,
            secver := BitVec.ofNat 32 (u32 header 20), configId := slice header 24 8,
            dir := parseDir (u16 header 12) directory }
        if s.boot.mode ≠ 1 ∧ c.flags.testBit 0 = false then s.adopt c
        else
          match s.copyConfig sections c.dir with
          | some f => s.copyFail f
          | none =>
            let t := s.recordAttempt { last := 10, err := 0, ty := 0, inst := 0 }
            let t := t.bt (fun b => { b with mode := 1, chosen := some (b.chosen.getD c) })
            t.planTo (s.boot.plan.drop 1))

/-! ### BOOTCFG and the boot lock (R50, step 8; R59, R478) -/

/-- One pair of the RWB record as a word write of the boot ROM: after the boot lock it is ignored and counted (R9). -/
def State.romWrite (s : State) (p : Nat × BitVec 32) : State := if s.bootLocked then s.plainWrite p.1 p.2 else s.applyRwb p

/-- What the boot lock starts: the later stages (R332), the decimation chain (R279), spread (R21), the stored-energy limit at its
ceiling (R358), the address of HBUS_CFG at the next idle (R416). -/
def State.bootStart (s : State) (stages : List SeqStage) : State :=
  let t := s.wr F.SEC_LOCKSTAT_LOCKED 1
  let t := { t with pmu := { t.pmu with stages := stages, nextStage := 0, opened := [], seqOn := true },
                    hbus := { t.hbus with addrPending := decide (t.rd F.HBUS_CFG_ADDR ≠ 0) },
                    sys := { t.sys with pvddHeld := false } }
  ((t.wr F.PMU_SEQSTAT_STATE 1).wr F.GOV_LIMIT_JOULES (t.rd F.GOV_LIMIT_MAX_MAX)).spreadStat.decimStart

/-- BOOTCFG_APPLIED (R478): BOOTCFG passes checks 7 to 9, its pairs are written in order and the boot lock is set. -/
def execBootcfgApplied (bytes : List Byte) (s : State) : Host.Outcome State Fault Refusal :=
  .next (match s.boot.chosen, s.boot.dir.find? (fun d => d.ty == 1) with
    | some c, some d =>
      if s.boot.state ≠ bootEarlyLoading ∨ s.boot.cfgApplied then s
      else
        match integrityFail [(1, 0, bytes)] [d] with
        | some f => s.copyFail f
        | none =>
          if s.bootcfgOk bytes = false then s.copyFail { last := 8, err := 14, ty := 1, inst := 0 }
          else
            let first := !s.bootLocked
            let t := s.forEach (rwbPairs bytes) (fun p t => t.romWrite p)
            let t := if first then t.raiseDeadtime.bootStart (seqStages bytes) else t
            let t := t.wr F.SEC_SECVER_ACTIVE (min c.secver.toNat 0xFFFFFF)
            t.bt (fun b => { b with cfgApplied := true, nackRetry := false, secver := c.secver, configId := c.configId, actSource := c.source,
                                    actCopy := c.copy, actCommon := c.common })
    | _, _ => s)

/-! ### Sections (R48) -/

/-- SECTION_REREAD (R48): a section with a bad CRC, or with a DRAM detection, is read again, at most twice in an attempt; after
that the attempt fails with the check's code. -/
def execSectionReread (ty inst : Nat) (dram : Bool) (s : State) : Host.Outcome State Fault Refusal :=
  .next (match s.boot.dir.find? (fun d => d.ty == ty && d.inst == inst) with
    | none => s
    | some _ =>
      let n := ((s.boot.rereads.find? (fun x => x.1 == ty && x.2.1 == inst)).map (fun x => x.2.2)).getD 0
      let f : BootFail := if dram then { last := 9, err := 15, ty := ty, inst := inst } else { last := 6, err := 8, ty := ty, inst := inst }
      if s.boot.state ≠ bootEarlyLoading ∧ !s.lateReads then s
      else if n < 2 then
        s.bt (fun b => { b with rereads := (ty, inst, n + 1) :: b.rereads.filter (fun x => !(x.1 == ty && x.2.1 == inst)) })
      else if s.boot.state = bootEarlyLoading then s.copyFail f
      else s.lateFail f)

/-! ### Firmware starts (R50, step 9) -/

/-- Firmware takes a POLICY instance: output map (R188), protection (R296), housekeeping sequence (R384), fault rules (R404),
policy-defined interrupts (R448), diagnostics (R325), the least stored-energy limit (R355). -/
def State.takePolicy (s : State) (ts : List PolTable) : State :=
  let t := s.bt (fun b => { b with policy := ts })
  let t := t.applyOutMap.applyGuard.hkLoad.ruleLoad.fcolCommit.polSourceLoad.diagCfg
  t.wr F.GOV_LIMIT_MAX_MIN (min 65535 t.limitMin)

/-- A strap in none of the decoding bands is reported once firmware runs (R36, R415): DETAIL 0 BOOTSEL, 1 HB_ADDR0, 2 HB_ADDR1. -/
def State.strapFaults (s : State) : State :=
  let t := s.when s.boot.bootselBad (fun t => t.raise 0xD 0 2 0 false)
  let t := t.when s.hbus.strapBad0 (fun t => t.raise 0xD 0 2 1 false)
  t.when s.hbus.strapBad1 (fun t => t.raise 0xD 0 2 2 false)

/-- A stage-1 retry or lockout is reported after the first commit (R330). -/
def State.stage1Fault (s : State) : State :=
  s.when (s.on F.PMU_SEQSTAT_STAGE1_RETRY || s.on F.PMU_SEQSTAT_STAGE1_LOCKOUT) (fun t => t.raise 0xA s.pmu.lastFail 1 0 false)

/-- Dry-fit entries of a policy instance: a table with an unknown TABLE_ID is information (R61). -/
def State.unknownTables (s : State) (ts : List PolTable) : State :=
  s.forEach (ts.filter (fun t => entrySize t.id == 0)) (fun x t => t.dryfitEntry 0 0 0 (leBytes 2 x.id))

/-- EARLY_SECTIONS_LOADED (R48, R50 step 9): checks 7 to 9 over the early sections, then firmware starts with the early
configuration and STATE becomes EARLY_RUNNING, in dry-fit DRYFIT_RUNNING. -/
def execEarlySectionsLoaded (sections : List (Nat × Nat × List Byte)) (s : State) : Host.Outcome State Fault Refusal :=
  .next (if s.boot.state ≠ bootEarlyLoading ∨ !s.boot.cfgApplied then s
    else
      let early := s.boot.dir.filter (fun d => d.early && d.ty != 1)
      match integrityFail sections early with
      | some f => s.copyFail f
      | none =>
        match s.earlyConfig sections with
        | some f => s.copyFail f
        | none =>
          let ts := (policyOf (sectionOf sections 6 0)).getD []
          let dry := decide (s.boot.mode = 1)
          let done := s.boot.attempts
          let t := if dry then s else s.recordAttempt { last := 10, err := 0, ty := 0, inst := 0 }
          let t := { t with spkSets := parseSets (sectionOf sections 7 0),
                            dsp := { t.dsp with sounds := parseSounds true (sectionOf sections 9 0),
                                                graphDue := some (parseGraph (sectionOf sections 5 0)) } }
          let t := ((t.loadLoopbank (sectionOf sections 8 0)).takePolicy ts).stage1Fault
          let t := t.bt (fun b => { b with state := if dry then bootDryfitRunning else bootEarlyRunning, firmware := true,
                                           nackRetry := false })
          let t := t.strapFaults.stbyReport
          let t := t.forEach (regInit (sectionOf sections 2 0)) (fun r t => t.writeReg .firmware r.1 r.2)
          if dry then (t.forEach done (fun a t => t.refusal a)).unknownTables ts else t)

/-! ### Graphs (R50, steps 12 to 15; R51) -/

/-- The speaker outputs of a graph. -/
def Graph.outputs (g : Graph) : List Nat := (g.terms.filter (fun t => t.kind == 2)).map (fun t => t.number)

/-- The graph in use is placed and its placement takes effect (R152); spare regions are set aside in full-guarantee mode (R158). -/
def State.placeGraph (s : State) : State :=
  let s := { s with dsp := { s.dsp with place := { s.dsp.place with spare := u16 s.placeGlobal 4 } } }
  match s.computePlacement s.dsp.graph with
  | none => s.p0Unplaceable
  | some p =>
    let t := s.takePlacement p
    let spare := if p.mode = 0 then u16 t.placeGlobal 4 else 0
    { t with dsp := { t.dsp with place := { t.dsp.place with spare := spare } } }

/-- Bound outputs of a list that passed DC diagnostics are asked to play (R50, steps 13 and 15). -/
def State.unmute (s : State) (os : List Nat) : State :=
  s.forEach os (fun o t => if (t.out o).chans = [] ∨ t.rd (F.MOD_OUTo_CTRL_REQ o) = 2 then t else t.outReq o 2)

/-- EARLY_GRAPH_PLACED (R50, steps 12 and 13): after DC diagnostics the early graph is placed; its outputs begin to unmute, none
in dry-fit (R56). -/
def execEarlyGraphPlaced (s : State) : Host.Outcome State Fault Refusal :=
  .next (match s.dsp.graphDue with
    | none => s
    | some g =>
      if !s.boot.firmware || !s.on F.DIAG_STAT_BOOT_DONE then s
      else
        let t := { s with dsp := { s.dsp with graphDue := none } }
        let t := (t.installGraph g 1).placeGraph
        if s.boot.mode = 1 then t
        else t.unmute g.outputs)

/-- A P0 output of the early graph that the full graph lacks is ramped out over 4 F32 frames (R51); its binding under the new map
follows then. -/
def State.rampOut (s : State) (o : Nat) : State :=
  if !s.switching o then s
  else if s.fastOff o then s.setOut o { s.out o with dropDue := true }
  else
    let t := s.setOut o { s.out o with ramp := .fast (4 * s.frameSamples), up := false, dropDue := true }
    if oUnmuting ≤ s.oState o ∧ s.oState o ≤ oMuting then t.setOState o oMuting else t

/-- The ring policy of the full instance is applied and the link starts; without one it stays in PASS (R106, R109, R121). -/
def State.applyRing (s : State) : State :=
  match s.ringEntry with
  | none => s
  | some e =>
    let v := BitVec.ofNat 32 (u16 e 2 % 8 * 65536 + u8 e 1 % 64 * 256 + u8 e 0 % 4)
    let t := s.tringCfgWrite v
    if u8 e 0 % 4 = 0 then t.ringGoto rOff else t.ringStart

/-! ### The veneer map (R62) -/

/-- The entries of VENEERMAP (R62). -/
def parseVmap (b : List (BitVec 8)) : List VMapEntry :=
  (List.range (b.length / 24)).map (fun i =>
    let e := b.drop (24 * i)
    { kind := u8 e 0, signed := (u8 e 2).testBit 0, target := BitVec.ofNat 32 (u32 e 4), mask := BitVec.ofNat 32 (u32 e 8),
      min := BitVec.ofNat 32 (u32 e 12), max := BitVec.ofNat 32 (u32 e 16) })

/-- An entry is kept (R62): not at an RWB field, a clamp, an address outside the register blocks, a coefficient window (R216), a
repetitive-controller window (R239), an fp32 parameter (R126), the global entry or a RESERVE of table 0x0002 (R369), a clamp
field of table 0x0008 (R294). -/
def State.vmapKeep (s : State) (e : VMapEntry) : Bool :=
  let a := e.target.toNat
  if e.kind = 0 then
    inBlocks a && !isClamp a && !(isRwb a && (match findReg a with
      | some g => (e.mask &&& g.rwbMask) != 0
      | none => false)) &&
    !(decide (0x64000 ≤ a) && decide (a < 0x68000)) && !(decide (0x6C000 ≤ a) && decide (a < 0x70000))
  else if e.kind = 1 then
    (match s.dsp.graph.block (a / 65536) with
     | some b => decide (paramFormat b (a % 65536) ≠ some 4)
     | none => true)
  else if e.kind = 2 then
    let table := a / 0x1000000
    let word := a % 256
    if table = 2 then
      !(u8 ((s.polEntries 2).getD (a / 256 % 65536) []) 0 == 0xFF) && !(word == 0 && (e.mask &&& 0xFFFF0000) != 0)
    else if table = 8 then !(word == 2 && (e.mask &&& 0x00FFFFFF) != 0) && word != 3
    else true
  else false

/-- Firmware takes the veneer map and counts what it drops (R62). -/
def State.takeVmap (s : State) (b : List (BitVec 8)) : State :=
  let es := parseVmap b
  let keep := es.filter (fun e => s.vmapKeep e)
  s.bt (fun x => { x with vmap := keep, vmapDropped := es.length - keep.length })

/-! ### FULL_RUNNING (R48, R50 step 15, R51) -/

/-- A dry-fit warning where the full instance asks for more than the early one leaves (R188, R296). -/
def State.raiseWarnings (s : State) (early full : List PolTable) : State :=
  let tb (ts : List PolTable) (i : Nat) : List (List (BitVec 8)) := ((ts.find? (fun t => t.id == i)).map (fun t => t.entries)).getD []
  let warn (i : Nat) (more : List (BitVec 8) → List (BitVec 8) → Bool) (s : State) : State :=
    s.forEach (tb full i) (fun e t =>
      match (tb early i).find? (fun x => u8 x 0 == u8 e 0) with
      | some x => if more x e then t.dryfitEntry 0 0 1 [BitVec.ofNat 8 i, BitVec.ofNat 8 (u8 e 0)] else t
      | none => t)
  warn 8 (fun x e => decide (u16 x 8 < u16 e 8) || decide (u8 x 10 < u8 e 10) || decide (u16 x 12 < u16 e 12) || decide (u16 x 14 < u16 e 14))
    (warn 3 (fun x e => decide (u8 x 4 < u8 e 4)) s)

/-- FULL_RUNNING_TAKEOVER: checks 7 to 9 over the non-early sections; then, at one F32 boundary, the full graph and the full
policy take over, STATE becomes FULL_RUNNING and the remaining outputs unmute. In dry-fit the full graph runs for its second
on zero input, and ports and link start (R56). -/
def execFullRunningTakeover (sections : List (Nat × Nat × List Byte)) (s : State) : Host.Outcome State Fault Refusal :=
  .next (if !s.lateReads || s.boot.dryfitRan then s
    else
      match integrityFail sections (s.boot.dir.filter (fun d => !d.early)) with
      | some f => s.lateFail f
      | none =>
        match s.fullConfig sections s.dsp.sounds s.spkSets with
        | some f => s.lateFail f
        | none =>
          if s.dsp.graphDue.isSome then s
          else
            let dry := decide (s.boot.mode = 1)
            let ts := (policyOf (sectionOf sections 6 1)).getD []
            let old := s.boot.policy
            let g := parseGraph (sectionOf sections 5 1)
            let gone := s.dsp.graph.outputs.filter (fun o => s.outClass o == 0 && !g.outputs.contains o)
            let t := s.bt (fun b => { b with
              state := if dry then bootDryfitRunning else bootFullRunning, plan := [], nackRetry := false, tFull := if dry then 0 else s.now - b.porTime })
            let t := { t with dsp := { t.dsp with sounds := t.dsp.sounds ++ parseSounds false (sectionOf sections 9 1) },
                              hbus := { t.hbus with booted := t.hbus.booted || !dry } }
            let t := (t.takePolicy ts).installGraph g (if dry then 3 else 2)
            let t := (t.placeGraph.forEach gone (fun o t => t.rampOut o)).bindAll
            let t := (t.takeVmap (sectionOf sections 0xA 0)).applyRing
            if dry then
              let t := (t.unknownTables ts).raiseWarnings old ts
              let t := if t.rd F.DSPX_STAT_MODE ≠ u8 t.placeGlobal 2 then t.dryfitEntry 0 0 1 [4] else t
              t.forAll 4 (fun n t => if t.rd (F.PORTn_CFG_MODE n) = 0 then t else t.cmdStart n)
            else t.unmute g.outputs)

/-- EARLY_ONLY_ENTRY (R49). -/
def execEarlyOnlyEntry (err ty inst : Nat) (s : State) : Host.Outcome State Fault Refusal :=
  .next (if s.boot.state = bootEarlyRunning then s.lateFail { last := lastOf err, err := err, ty := ty, inst := inst } else s)

/-! ### ROM defaults (R58) -/

/-- Every RWB field goes back to its ROM default. -/
def State.rwbDefaults (s : State) : State :=
  s.forEach (s.regs.map (fun e => e.1)) (fun a t =>
    match findReg a with
    | some g => t.setReg a ((t.reg a &&& ~~~ g.rwbMask) ||| (g.rstWord a &&& g.rwbMask))
    | none => t)

/-- ROM_DEFAULTS_ENTRY (R58): no copy passed. PVDD, MICB0, MICB1 and the charger are off, ALIVE stops, the boot lock is set, the
boot fault carries the last error code, the bus answers at the strap address; a dry-fit records its refusals first (R57). -/
def execRomDefaultsEntry (s : State) : Host.Outcome State Fault Refusal :=
  .next (if s.boot.state ≠ bootRomRead ∨ s.boot.plan ≠ [] ∨ s.boot.chosen.isSome then s
    else
      let t := if s.boot.mode = 1 then s.forEach s.boot.attempts (fun a t => t.refusal a) else s
      let t := t.rwbDefaults.forEach [5, 6, 7, 8] (fun r t => t.railOff r)
      let t := { t with pmu := { t.pmu with stages := [], nextStage := 0, opened := [], seqOn := false },
                        hbus := { t.hbus with addrPending := false, cfgAddrUsed := false } }
      let t := t.wr F.HBUS_STAT_ADDR (0x40 + t.hbus.strap)
      let t := (t.bt (fun b => { b with state := bootRomDefaults })).wr F.SEC_LOCKSTAT_LOCKED 1
      t.aliveStop.bootFault ((s.boot.attempts.getLast?.map (fun a => a.err)).getD 0))

/-! ### Dry-fit ends (R56, R57) -/

/-- DRYFIT_EXECUTION_END (R56): the load of each core, in permille, is recorded. -/
def execDryfitExecutionEnd (loads : List Nat) (s : State) : Host.Outcome State Fault Refusal :=
  .next (if s.boot.state ≠ bootDryfitRunning ∨ s.rd F.DSPX_STAT_GRAPH ≠ 3 ∨ s.boot.dryfitRan then s
    else
      let t := s.dryfitEntry 0 0 0 (2 :: 0 :: 0 :: 0 :: (List.range 4).flatMap (fun c => leBytes 2 (loads.getD c 0)))
      t.bt (fun b => { b with dryfitRan := true }))

/-- DRYFIT_DONE (R57): every check has run: the ports' and the link's lock is reported, STATE and the completion follow. -/
def execDryfitDone (s : State) : Host.Outcome State Fault Refusal :=
  .next (if s.boot.state ≠ bootDryfitRunning ∨ !s.boot.dryfitRan ∨ (List.range 16).any (fun o => (s.sweep o).isSome) then s
    else
      let t := s.forAll 4 (fun n t =>
        if t.rd (F.PORTn_CFG_MODE n) = 0 then t
        else t.dryfitEntry 0 0 (if t.pState n = pRunning then 0 else 1) [5, BitVec.ofNat 8 n, BitVec.ofNat 8 (t.pState n)])
      let t := if t.ringEntry.isSome then
          t.dryfitEntry 0 0 (if t.ringState = rRunning then 0 else 1) [6, 0, BitVec.ofNat 8 t.ringState]
        else t
      let t := t.bt (fun b => { b with state := bootDryfitDone, plan := [] })
      t.complete 5 (leBytes 2 t.boot.dryfit.length))

end Sys2Proof.Machine
end

