-- ==== Sys2Proof/Machine/Veneer.lean ====
section
/-!
DEFINITION. Machine/Veneer.lean: veneers (R62 to R66, R127, R141).
-/

namespace Sys2Proof.Machine

open Sys2Proof

/-! ### VENEER_APPLY (R64, R65) -/

/-- A "veneer refused" completion: sequence number, first invalid record, reason (R64, R446). -/
def State.veneerRefused (s : State) (seq idx reason : Nat) : State :=
  s.complete 3 (leBytes 4 seq ++ leBytes 2 idx ++ [BitVec.ofNat 8 reason])

/-- The command copies the staging area, or is refused: not ready outside FULL_RUNNING and DRYFIT_DONE, busy while an apply is
copied or validated or four wait (R65). -/
def State.veneerApply (s : State) : State :=
  let seq := (s.memWord (stagingBase + 8)).toNat
  let n := (s.memWord (stagingBase + 4)).toNat
  if s.boot.state ≠ bootFullRunning ∧ s.boot.state ≠ bootDryfitDone then s.veneerRefused seq 0 5
  else if s.boot.job.isSome ∨ 4 ≤ s.boot.waiting.length then s.veneerRefused seq 0 4
  else
    s.bt (fun b => { b with job := some { bytes := s.memBytes stagingBase (if 1 ≤ n ∧ n ≤ 4095 then 16 + 16 * n else 16) } })

/-- VENEER_APPLY, a command without data (R418). -/
def execVeneerApply (e : WriteEnd) (s : State) : Host.Outcome State Fault Refusal :=
  s.hostCmd (fun s => s.hostWrite [0x60] e (fun s => s.veneerApply.hostResult 0))

/-! ### Validation (R62, R63) -/

/-- The lowest bit set in a mask, and the number of bits from it to the highest. -/
def maskSpan (m : Nat) : Nat × Nat :=
  match (List.range 32).find? (fun i => m.testBit i) with
  | none => (0, 0)
  | some lo => (lo, ((List.range 32).foldl (fun h i => if m.testBit i then i else h) lo) - lo + 1)

/-- A value lies within a map entry's range (R62): signed over the field's width where FLAGS says so. -/
def VMapEntry.inRange (e : VMapEntry) (v : BitVec 32) : Bool :=
  let (lo, w) := maskSpan e.mask.toNat
  let f := (v &&& e.mask).toNat / 2 ^ lo
  if w = 0 then false
  else if e.signed then
    let x (n : Nat) : Int := toSigned w (n % 2 ^ w)
    decide (x e.min.toNat ≤ x f) && decide (x f ≤ x e.max.toNat)
  else decide (e.min.toNat ≤ f) && decide (f ≤ e.max.toNat)

/-- New content of a target: (old AND NOT MASK) OR (VALUE AND MASK) (R63). -/
def merged (old v mask : BitVec 32) : BitVec 32 := (old &&& ~~~ mask) ||| (v &&& mask)

/-- A graph with a record's parameter changed. -/
def Graph.withParam (g : Graph) (target v mask : BitVec 32) : Graph :=
  let inst := target.toNat / 65536
  let i := target.toNat % 65536
  { g with blocks := g.blocks.map (fun b =>
      if b.inst = inst then { b with params := b.params.set i (merged (b.params.getD i 0) v mask) } else b) }

/-- The map entry of a record (R63): the same KIND and TARGET, and a MASK that covers every bit set in VALUE; where none
covers it, the first of that KIND and TARGET (log entry 52). Of several that cover it, one whose range holds the field. -/
def State.vmapEntry (s : State) (r : VeneerRec) : Option VMapEntry :=
  let same := s.boot.vmap.filter (fun e => e.kind == r.kind && e.target == r.target)
  let cover := same.filter (fun e => r.value &&& ~~~ e.mask == 0)
  match cover.find? (fun e => e.inRange r.value) with
  | some e => some e
  | none => (cover ++ same).head?

/-- The records of an apply against the map, in order from index `k`: the records with their masks, or the first invalid one and
its reason (R63, R141). `g` is the graph as the records before leave it. -/
def State.checkRecords (s : State) : Nat → List VeneerRec → Graph → Nat × Nat × List (VeneerRec × BitVec 32)
  | _, [], _ => (0, 0, [])
  | k, r :: t, g =>
    match s.vmapEntry r with
    | none => (k, 2, [])
    | some e =>
      let g' := if r.kind = 1 then g.withParam r.target r.value e.mask else g
      let ok := match g'.block (r.target.toNat / 65536) with
        | some b => decide (r.kind ≠ 1) || blockOk s.dsp.sounds s.fa b
        | none => true
      if !e.inRange r.value || !ok then (k, 3, [])
      else
        let (i, why, rest) := State.checkRecords s (k + 1) t g'
        (i, why, (r, e.mask) :: rest)

/-- The records of a staging area as copied. -/
def veneerRecs (b : List (BitVec 8)) : List VeneerRec :=
  (List.range (u32 b 4)).map (fun i =>
    { kind := u8 b (16 + 16 * i), target := BitVec.ofNat 32 (u32 b (20 + 16 * i)), value := BitVec.ofNat 32 (u32 b (24 + 16 * i)) })

/-- The graph as the applies that wait will leave it. -/
def State.graphAhead (s : State) : Graph :=
  (s.boot.waiting.flatMap (fun w => w.recs)).foldl (fun g r => if r.1.kind = 1 then g.withParam r.1.target r.1.value r.2 else g) s.dsp.graph

/-- VENEER_VALIDATED (R64): the copy's header and records are checked; one invalid record refuses them all; valid records wait
for the next glue-up, and in DRYFIT_DONE change nothing (R65). -/
def execVeneerValidated (s : State) : Host.Outcome State Fault Refusal :=
  .next (match s.boot.job with
    | none => s
    | some j =>
      let t := s.bt (fun b => { b with job := none })
      let b := j.bytes
      let n := u32 b 4
      let seq := u32 b 8
      if u32 b 0 ≠ 0x524E4556 ∨ n = 0 ∨ 4095 < n ∨ b.length ≠ 16 + 16 * n ∨ u32 b 12 ≠ (crc32 (b.drop 16)).toNat then
        t.veneerRefused seq 0 1
      else
        let r := s.checkRecords 0 (veneerRecs b) s.graphAhead
        if r.2.1 ≠ 0 then t.veneerRefused seq r.1 r.2.1
        else
          let t := if s.boot.state = bootDryfitDone then t
            else t.bt (fun x => { x with waiting := x.waiting ++ [{ seq := BitVec.ofNat 32 seq, recs := r.2.2 }] })
          t.complete 2 (leBytes 4 seq))

/-! ### Taking effect (R64 to R66, R127) -/

/-- The RAMP parameter of a gain parameter: a mixer's and a chime player's gains ramp (R127, R140). -/
def gainRamp (b : Block) (i : Nat) : Option Nat :=
  if paramFormat b i ≠ some 1 then none
  else if b.ty = 6 then some (b.par 3)
  else if b.ty = 8 then some (b.par 2)
  else none

/-- A graph parameter changes (R127): a gain ramps from its present value over RAMP, every other parameter changes at once. A
write of a synthesiser's SPEED is a fresh value, changed or not (R143). -/
def State.setParam (s : State) (target v mask : BitVec 32) : State :=
  let inst := target.toNat / 65536
  let i := target.toNat % 65536
  match s.dsp.graph.block inst with
  | none => s
  | some b =>
    let now := ((s.paramWord inst i).map (fun x => x.2)).getD (b.params.getD i 0)
    let n := match gainRamp b i with
      | some ms => roundN (ms * s.fa) 65536000
      | none => 0
    let others := s.dsp.paramRamp.filter (fun r => !(r.inst == inst && r.index == i))
    let ramps := if n = 0 then others else others ++ [{ inst := inst, index := i, start := now, done := 0, total := n }]
    let a := Tbl.get AvasSt.reset s.dsp.avas inst
    let avas := if b.ty = 7 ∧ i = 1 then Tbl.set AvasSt.reset s.dsp.avas inst { a with fresh := true } else s.dsp.avas
    { s with dsp := { s.dsp with graph := s.dsp.graph.withParam target v mask, paramRamp := ramps, avas := avas } }

/-- The bytes of an entry with one word changed. -/
def entryWith (e : List (BitVec 8)) (w : Nat) (v mask : BitVec 32) : List (BitVec 8) :=
  if e.length < 4 * w + 4 then e
  else e.take (4 * w) ++ leBytes 4 (merged (BitVec.ofNat 32 (u32 e (4 * w))) v mask).toNat ++ e.drop (4 * w + 4)

/-- A policy word changes, and firmware takes the table anew. -/
def State.setPolWord (s : State) (target v mask : BitVec 32) : State :=
  let a := target.toNat
  let id := a / 0x1000000
  let k := a / 256 % 65536
  let change (t : PolTable) : PolTable :=
    if t.id = id then { t with entries := t.entries.set k (entryWith (t.entries.getD k []) (a % 256) v mask) } else t
  let t := s.bt (fun b => { b with policy := b.policy.map change })
  if id = 1 then t.ruleLoad.fcolCommit
  else if id = 2 then t.wr F.GOV_LIMIT_MAX_MIN (min 65535 t.limitMin)
  else if id = 3 then t.applyOutMap
  else if id = 7 then t.diagCfg
  else if id = 8 then t.applyGuard
  else if id = 9 then t.polSourceLoad
  else if id = 10 then t.hkLoad
  else t

/-- One record takes effect (R63). -/
def State.veneerRecord (s : State) (r : VeneerRec) (mask : BitVec 32) : State :=
  if r.kind = 0 then
    let a := r.target.toNat
    (s.busWrite .host a (merged (s.viewReg a) r.value mask)).2
  else if r.kind = 1 then s.setParam r.target r.value mask
  else s.setPolWord r.target r.value mask

/-- Every apply that waits takes effect, in the order of arrival (R65). -/
def State.veneersDue (s : State) : State :=
  let t := s.forEach s.boot.waiting (fun w t => t.forEach w.recs (fun r t => t.veneerRecord r.1 r.2))
  t.bt (fun b => { b with waiting := [] })

end Sys2Proof.Machine
end

