-- ==== Sys2Proof/Machine/Blocks.lean ====
section
/-!
DEFINITION. Machine/Blocks.lean: what the blocks of the library compute over a frame (R123, R126, R127, R140, R142, R144, R145),
in binary32.
-/

namespace Sys2Proof.Machine

open Sys2Proof

/-! ### Parameters (R126, R127) -/

/-- Parameter `i` of a block at sample `k` of its frame, in binary32; a gain on its ramp has moved `k` samples on from where the
last frame left it. -/
def State.parAt (s : State) (b : Block) (i k : Nat) : BitVec 32 :=
  let w := b.params.getD i 0
  match s.dsp.paramRamp.find? (fun r => r.inst == b.inst && r.index == i) with
  | some r => f32OfFix (r.start.toInt + roundQ ((w.toInt - r.start.toInt) * (min (r.done + k) r.total : Nat)) r.total) 27
  | none => paramF32 ((paramFormat b i).getD 0) w

/-- Channel `k` of a list of channels, `n` samples. -/
def chanOf (ins : List (List (BitVec 32))) (n k : Nat) : List (BitVec 32) := (List.range n).map (fun i => (ins.getD k []).getD i 0)

/-! ### Histories (R127, R140, R145) -/

/-- A block's history of `d` samples for channel `k` of `chans`, oldest first: zeros before the first frame; after a change of the
depth the newest samples stay (R127). -/
def histOf (st : List (BitVec 32)) (chans d k : Nat) : List (BitVec 32) :=
  let was := st.length / chans
  let line := (st.drop (k * was)).take was
  List.replicate (d - was) 0 ++ line.drop (was - d)

/-- Delay of each channel: history and inputs, the depth of the history, the delay of channel `k`. Answers the outputs and the new
history. -/
def delayRun (st : List (BitVec 32)) (n d : Nat) (delay : Nat → Nat) (ins : List (List (BitVec 32))) :
    List (List (BitVec 32)) × List (BitVec 32) :=
  let lines := ((List.range ins.length).zip ins).map (fun (k, xs) => (delay k, histOf st ins.length d k ++ xs))
  (lines.map (fun (m, l) => (l.drop (d - m)).take n), (lines.map (fun (_, l) => l.drop (l.length - d))).flatten)

/-! ### Biquad: cascaded sections of transposed direct form II (R140) -/

/-- One section: coefficients b0, b1, b2, a1, a2 as `c` numbers them, its two states and a sample. Answers the output and the
states after it. -/
def biquadStep (c : Nat → BitVec 32) (z : BitVec 32 × BitVec 32) (x : BitVec 32) : BitVec 32 × (BitVec 32 × BitVec 32) :=
  let y := f32Dot [(c 0, x), (z.1, f32One)]
  (y, (f32Dot [(c 1, x), (f32Neg (c 3), y), (z.2, f32One)], f32Dot [(c 2, x), (f32Neg (c 4), y)]))

/-- One sample through the sections from number `j` on. -/
def biquadCascade (c : Nat → Nat → BitVec 32) : Nat → List (BitVec 32 × BitVec 32) → BitVec 32 →
    BitVec 32 × List (BitVec 32 × BitVec 32)
  | _, [], x => (x, [])
  | j, z :: zs, x =>
    let y := biquadStep (c j) z x
    let r := biquadCascade c (j + 1) zs y.1
    (r.1, y.2 :: r.2)

/-- One channel over a frame. -/
def biquadChannel (c : Nat → Nat → BitVec 32) : List (BitVec 32 × BitVec 32) → List (BitVec 32) →
    List (BitVec 32) × List (BitVec 32 × BitVec 32)
  | zs, [] => ([], zs)
  | zs, x :: xs =>
    let y := biquadCascade c 0 zs x
    let r := biquadChannel c y.2 xs
    (y.1 :: r.1, r.2)

/-- A biquad block: S sections on K channels. -/
def State.biquadRun (s : State) (b : Block) (st : List (BitVec 32)) (n : Nat) (ins : List (List (BitVec 32))) :
    List (List (BitVec 32)) × List (BitVec 32) :=
  let c (j i : Nat) := s.parAt b (16 + 5 * j + i) 0
  let rs := (List.range (b.par 1)).map (fun k =>
    biquadChannel c ((List.range (b.par 0)).map (fun j =>
      let at' := 2 * (k * b.par 0 + j)
      (st.getD at' 0, st.getD (at' + 1) 0))) (chanOf ins n k))
  (rs.map (fun r => r.1), rs.flatMap (fun r => r.2.flatMap (fun z => [z.1, z.2])))

/-! ### FIR: T taps, direct form (R140) -/

/-- A FIR block: one channel, with the samples its taps reach back to as its state. -/
def State.firRun (s : State) (b : Block) (st : List (BitVec 32)) (n : Nat) (ins : List (List (BitVec 32))) :
    List (List (BitVec 32)) × List (BitVec 32) :=
  let d := b.par 0 - 1
  let line := histOf st 1 d 0 ++ chanOf ins n 0
  ([(List.range n).map (fun i => f32Dot ((List.range (b.par 0)).map (fun t => (s.parAt b (16 + t) 0, line.getD (d + i - t) 0))))],
   line.drop (line.length - d))

/-! ### Mixer and dynamics (R140) -/

/-- A mixer: output n is MASTER times the sum over m of gain(n, m) times input m. -/
def State.mixerRun (s : State) (b : Block) (n : Nat) (ins : List (List (BitVec 32))) : List (List (BitVec 32)) :=
  (List.range (b.par 1)).map (fun o => (List.range n).map (fun i =>
    f32Mul (s.parAt b 2 i) (f32Dot ((List.range (b.par 0)).map (fun m =>
      (s.parAt b (16 + o * b.par 0 + m) i, (ins.getD m []).getD i 0))))))

/-- A dynamics block: one gain for its linked channels, which stand delayed by the look-ahead. Its state is the delay lines' length,
the lines and the detector's state. -/
def State.dynamicsRun (b : Block) (st : List (BitVec 32)) (n : Nat) (ins : List (List (BitVec 32))) :
    List (List (BitVec 32)) × List (BitVec 32) :=
  let xs := (List.range (b.par 0)).map (fun k => chanOf ins n k)
  let held := (st.headD 0).toNat * b.par 0
  let d := delayRun ((st.drop 1).take held) n (b.par 7) (fun _ => b.par 7) xs
  let g := Config.dynamicsGain b.params (st.drop (1 + held)) xs
  (d.1.map (fun l => (List.range n).map (fun i => f32Mul (g.1.getD i 0) (l.getD i 0))), BitVec.ofNat 32 (b.par 7) :: d.2 ++ g.2)

/-! ### Layers of the AVAS synthesiser (R142) -/

/-- The linear gain of a level in units of 2^−24 dB. -/
def dbGain (db : Int) : BitVec 32 := if db = 0 then f32One else Config.dbToLinear db

/-- The level of a curve at a speed (UQ16.16): linear between its points, flat beyond its ends; speeds and levels as `pts`. -/
def curveAt : List (Int × Int) → Int → Int
  | [], _ => 0
  | [p], _ => p.2
  | p :: q :: t, v =>
    if v ≤ p.1 then p.2
    else if v < q.1 then p.2 + roundQ ((q.2 - p.2) * (v - p.1)) (q.1 - p.1).toNat
    else curveAt (q :: t) v

/-- The points of a layer's gain curve. -/
def avasCurve (b : Block) (l : Nat) : List (Int × Int) :=
  let o := 16 + 40 * l
  (List.range (b.par (o + 4))).map (fun p => ((b.par (o + 5 + 2 * p) : Int), (b.params.getD (o + 6 + 2 * p) 0).toInt))

/-- The sound of the layers: each layer's samples with its gain, which moves across the frame. -/
def layersMix (old new : List (BitVec 32)) (ls : List (List (BitVec 32))) : List (BitVec 32) :=
  (List.range 32).map (fun i => f32Sum (((List.range ls.length).zip ls).map (fun (l, xs) =>
    f32Mul (moveAt (old.getD l 0) (new.getD l 0) i) (xs.getD i 0))))

/-! ### Crossfade (R174) -/

/-- Sample `k` of 32 of a linear crossfade from `x` to `y`. -/
def crossfade (x y : BitVec 32) (k : Nat) : BitVec 32 := f32Dot [(x, f32OfFix (32 - k) 5), (y, f32OfFix k 5)]

end Sys2Proof.Machine
end

