-- ==== Sys2Proof/Machine/DspFrame.lean ====
section
/-!
DEFINITION. Machine/DspFrame.lean: frames of the signal graph: release, glue-up, concealment and playout (R128, R134, R136,
R146, R149, R162, R163, R167, R171, R174), the AVAS synthesiser (R142, R143), the chime player (R144), the look-ahead block
(R145, R211), zero crossings (R86).
-/

namespace Sys2Proof.Machine

open Sys2Proof

/-! ### Zero crossings (R86, R133) -/

/-- ZC_SWITCH: a context or transmit slot that waits switches. -/
def execZcSwitch (t : ZcTarget) (s : State) : Host.Outcome State Fault Refusal :=
  .next (match t with
    | .ctx n => s.setCtx n { s.ctx n with sw := (s.ctx n).sw.cross }
    | .portTx p k => s.setTxGain p k (s.txGain p k).cross)

/-- ZC_TIMEOUT: one that waits ramps; the timeout of a port's slot is an event of the port. -/
def execZcTimeout (t : ZcTarget) (s : State) : Host.Outcome State Fault Refusal :=
  .next (match t with
    | .ctx n =>
      if !(s.ctx n).sw.waiting then s
      else
        let u := s.setCtx n { s.ctx n with sw := (s.ctx n).sw.expire (s.ctxZc n).2 }
        if s.rd (F.DSPX_CTXn_CFG_KIND n) = 1 then u.ev (A.PORTn_EVENT (s.rd (F.DSPX_CTXn_CFG_INDEX n) / 16)) 12 else u
    | .portTx p k =>
      if !(s.txGain p k).waiting then s
      else (s.setTxGain p k ((s.txGain p k).expire (2 ^ s.rd (F.PORTn_ZC_RAMP_LOG2 p)))).ev (A.PORTn_EVENT p) 12)

/-! ### Terminals -/

/-- The class of the block a terminal names: `true` F4. -/
def Graph.isF4 (g : Graph) (inst : Nat) : Bool :=
  match g.block inst with
  | some b => b.cls == 1
  | none => false

/-- The terminals of a kind and class. -/
def Graph.termsOf (g : Graph) (kind : Nat) (f4 : Bool) : List Terminal :=
  g.terms.filter (fun t => t.kind == kind && g.isF4 t.inst == f4)

/-- Samples in a frame of a class. -/
def frameN (f4 : Bool) : Nat := if f4 then 4 else 32

/-- The samples of a terminal's number in frame data. -/
def samplesOf (d : FrameData) (k : Nat) : List (BitVec 32) := ((d.find? (fun x => x.1 == k)).map (fun x => x.2)).getD []

/-! ### Sources inside the device (R136, R137) -/

/-- The contexts whose source is generator `g`. -/
def State.genCtxs (s : State) (g : Nat) : List Nat :=
  (List.range 128).filter (fun c => decide (s.rd (F.DSPX_CTXn_CFG_KIND c) = 4 ∧ s.rd (F.DSPX_CTXn_CFG_INDEX c) = g))

/-- A sample of a source inside the device enters its contexts. -/
def State.collectAll (s : State) (cs : List Nat) (x : BitVec 32) : State := s.forEach cs (fun c t => t.collect c x (f32ToQ31 x))

/-- The bound generators and voices 0 to 19 deliver samples `i0` to `i0 + n − 1` of the F32 period; a voice that is silent or late
gives a control context nothing (R134). -/
def State.sources (s : State) (i0 n : Nat) : State :=
  let s := s.forAll 16 (fun g t =>
    match t.genCtxs g with
    | [] => t
    | cs => t.forAll n (fun i t =>
        let r := t.genStep g (i0 + i)
        (t.setGen g r.2).collectAll cs r.1))
  s.forAll 20 (fun v t =>
    match t.voiceCtxs v with
    | [] => t
    | cs => t.forAll n (fun _ t =>
        let r := t.voiceStep v
        let live := (t.voice v).busy && !t.voiceEnded v && (t.voice v).late == 0
        (t.setVoice v r.2).collectAll (cs.filter (fun c => live || !t.ctxControl c)) r.1))

/-! ### Release (R128, R131, R134) -/

/-- An input context of a class gives its frame: `n` samples, the last word repeated where its source gave fewer (R27), 0 in
dry-fit execution (R56). A control context takes its value. -/
def State.releaseCtx (s : State) (n c : Nat) : State × Option (Nat × List (BitVec 32)) :=
  if s.ctxControl c then (s.ctxTakeValue c, none)
  else
    let s := s.forAll (n - (s.ctx c).collected.length) (fun _ t => t.collectWord c (t.ctx c).last)
    let xs := (s.ctx c).collected.take n
    let zero := decide (s.rd F.DSPX_STAT_GRAPH = 3)
    (s.setCtx c { s.ctx c with collected := [] }, some (c, if zero then xs.map (fun _ => 0) else xs))

/-- The collected frames of a class are released for computation. -/
def State.release (s : State) (f4 : Bool) : State :=
  let r := (s.dsp.graph.termsOf 0 f4).foldl (fun (r : State × FrameData) t =>
    let u := r.1.releaseCtx (frameN f4) t.number
    (u.1, r.2 ++ u.2.toList)) (s, [])
  let last := (s.cls f4).committed
  r.1.setClass f4 { input := if s.rd F.DSPX_STAT_GRAPH = 0 then none else some r.2, detected := [], doomed := false,
                    done := false, committed := last }

/-! ### Playout (R124, R128, R132, R171) -/

/-- `n` samples of an output context leave the graph: gains, then Q0.31 (R124, R132). -/
def State.playCtx (s : State) (c : Nat) : List (BitVec 32) → State × List (BitVec 32)
  | [] => (s, [])
  | x :: xs =>
    let w := f32ToQ31 (ctxGain x (s.ctx c).level (s.ctx c).sw.gain)
    let t := s.setCtx c { (s.ctx c).advance 1 with last := w }
    let r := State.playCtx t c xs
    (r.1, w :: r.2)

/-- Where the fade of R171 stands `k` samples on from `f`, in thirty-seconds: towards 0 for a muted output, else towards 1. -/
def fadeAt (muted : Bool) (f k : Nat) : Nat := if muted then f - k else min 32 (f + k)

/-- Samples `i0` on of a speaker terminal: the gain and pilot of protection (R288) and the fade of R171, which moves on with them. -/
def State.playSpk (s : State) (o i0 : Nat) (xs : List (BitVec 32)) : State × List (BitVec 32) :=
  let f := Tbl.get 32 s.dsp.place.fade o
  let stands (k : Nat) := fadeAt (s.dsp.place.muted.getLsbD o) f k
  ({ s with dsp := { s.dsp with place := { s.dsp.place with fade := Tbl.set 32 s.dsp.place.fade o (stands xs.length) } } },
   ((List.range xs.length).zip xs).map (fun (i, x) => ctxGain (s.terminalSample o (i0 + i) x) (2 ^ 40) ((stands (i + 1) : Int) * 2 ^ 19)))

/-- `xs` at places `i0` on of a list of 32. -/
def overlay32 (old : List (BitVec 32)) (i0 : Nat) (xs : List (BitVec 32)) : List (BitVec 32) :=
  (List.range 32).map (fun i => if i0 ≤ i ∧ i < i0 + xs.length then xs.getD (i - i0) 0 else old.getD i 0)

/-- The last committed frame of a class starts to play at place `i0` of the F32 period. -/
def State.playClass (s : State) (f4 : Bool) (i0 : Nat) : State :=
  match (s.cls f4).committed with
  | none => s
  | some (spk, out) =>
    let s := s.forEach (s.dsp.graph.termsOf 2 f4) (fun t u =>
      let o := t.number
      let r := u.playSpk o i0 (samplesOf spk o)
      let u := r.1
      let ys := r.2
      let old := u.dsp.playing.1
      { u with dsp := { u.dsp with playing :=
          (old.filter (fun x => x.1 != o) ++ [(o, overlay32 (samplesOf old o) i0 ys)], u.dsp.playing.2) } })
    s.forEach (s.dsp.graph.termsOf 1 f4) (fun t u =>
      let c := t.number
      let r := u.playCtx c (samplesOf out c)
      let u := r.1
      let ws := r.2
      let old := u.dsp.playing.2
      { u with dsp := { u.dsp with playing :=
          (u.dsp.playing.1, old.filter (fun x => x.1 != c) ++ [(c, overlay32 (samplesOf old c) i0 ws)]) } })

/-! ### Look-ahead (R145, R146, R211) -/

/-- A binary32 voltage coded UQ6.10, within the limits of PVDD (R145). -/
def State.codeVolts (s : State) (v : BitVec 32) : Nat :=
  let lo := s.rd F.PMU_PVDD_RANGE_MIN
  let hi := s.rd F.PMU_PVDD_RANGE_MAX
  if f32NonFinite v then (if f32Sign v then lo else hi)
  else if f32Sign v then lo
  else min hi (max lo (roundN (f32Mag v * 2 ^ 10) (2 ^ 149)))

/-- The demand of a peak, coded UQ6.10: MI_INV × (P + HEADROOM) within PVDD_MIN and PVDD_MAX (R145). -/
def State.demandOf (s : State) (b : Block) (peak : BitVec 32) : Nat :=
  s.codeVolts (f32Mul (s.parAt b 2 0) (f32Add peak (s.parAt b 3 0)))

/-- The outputs that the look-ahead block's pins drive, by pin; an output that no channel is bound to has no demand (R176). -/
def State.laOutputs (s : State) (b : Block) : List (Option Nat) :=
  (List.range (b.par 0)).map (fun k =>
    ((s.dsp.graph.terms.find? (fun t => t.kind == 2 && t.inst == b.inst && t.pin == k)).map (fun t => t.number)).filter
      (fun o => decide ((s.out o).chans ≠ [])))

/-- The peak of F4 interval `i` of a frame over the block's inputs, |x| × VFS in binary32; a NaN or infinite sample plays as 0 (R125,
R145). -/
def State.laPeak (s : State) (b : Block) (ins : List (List (BitVec 32))) (i : Nat) : BitVec 32 :=
  (((s.laOutputs b).zip ins).map (fun (o, xs) =>
    match o with
    | none => 0
    | some o =>
      let top := (((xs.drop (4 * i)).take 4).map (fun x => if f32NonFinite x then 0 else f32Abs x)).foldl f32Max 0
      f32Mul top (f32OfFix (s.rd (F.MOD_OUTo_CFG_VFS o)) 10))).foldl f32Max 0

/-- The owner sample index of the first sample of the frame that is computed in this F32 period. -/
def State.frameIndex (s : State) : Nat := (s.ownerIndex / 32) * 32 + (2 ^ 32 - 32)

/-- The look-ahead block takes a frame: peaks, demands, the scale words of its delayed samples, the batch (R145, R146, R211). -/
def State.lookaheadFrame (s : State) (b : Block) (ins : List (List (BitVec 32))) : State :=
  let peaks := (List.range 8).foldl (fun l i => s.laPeak b ins i :: l) s.dsp.laPeaks
  let ds := (List.range 8).map (fun i => s.demandOf b (((peaks.drop (7 - i)).take (b.par 4 + 1)).foldl f32Max 0))
  let hist := ds.foldl (fun l d => d :: l) s.dsp.laHist
  let words := (List.range 32).map (fun i =>
    let d := hist.getD ((b.par 1 + 31 - i) / 4) (s.demandOf b 0)
    if d = 0 then 2 ^ 31 - 1 else min (2 ^ 31 - 1) (roundN (2 ^ 37) d))
  let batch := ((List.range 8).zip ds).map (fun (i, d) => { tag := (s.frameIndex + 4 * i) % 2 ^ 32, volts := d : Demand })
  { s with dsp := { s.dsp with laPeaks := peaks.take 64, laHist := hist.take (b.par 1 / 4 + 8), laWords := words,
                               laQueue := some batch, laLast := batch } }

/-- The batch of a concealed frame: eight copies of the largest demand of the last committed batch (R146). -/
def State.lookaheadRepeat (s : State) : State :=
  if s.dsp.laLast = [] ∨ s.dsp.graph.lookahead = none then s
  else
    let d := (s.dsp.laLast.map (fun x => x.volts)).foldl max 0
    let batch := (List.range 8).map (fun i => { tag := (s.frameIndex + 4 * i) % 2 ^ 32, volts := d : Demand })
    { s with dsp := { s.dsp with laQueue := some batch } }

/-- At an F32 boundary the queued batch is sent to SUP with the scale words of the frame that starts to play; a period without
one is stale and holds the last G (R146, R211). -/
def State.laSend (s : State) : State :=
  match s.dsp.laQueue with
  | some batch =>
    let last := ((batch.getLast?).map (fun x => x.volts)).getD 0
    let t := { s with
      dsp := { s.dsp with laQueue := none, laSent := s.dsp.laSent ++ [batch], laMissed := 0 },
      loop := { s.loop with scales := s.dsp.laWords } }
    let t := (t.wr F.DSPX_LA_STAT_LAST last).wr F.DSPX_STAT_LA_ACTIVE 1
    t.peak F.DSPX_LA_STAT_MAX ((batch.map (fun x => x.volts)).foldl max 0)
  | none =>
    if s.dsp.graph.lookahead = none ∨ s.rd F.DSPX_STAT_GRAPH = 0 then s
    else
      let held := match s.loop.scales.getLast? with
        | some g => List.replicate 32 g
        | none => []
      { s with dsp := { s.dsp with laMissed := s.dsp.laMissed + 1 }, loop := { s.loop with scales := held } }.ev A.DSPX_EVENT 12

/-! ### Concealment (R163, R167) -/

/-- A frame of a class is concealed: its last committed outputs repeat, its input is discarded, no state advances. -/
def State.conceal (s : State) (f4 late : Bool) : State :=
  let c := s.cls f4
  let t := s.setClass f4 { c with done := true }
  let t := (t.ev A.DSPX_EVENT 1).bump F.DSPX_CNT_CONCEALED
  let t := if late && !c.doomed then t.ev A.DSPX_EVENT 0 else t
  if f4 then
    let j := 4 * ((s.dsp.sub + 7) % 8)
    { t with dsp := { t.dsp with fastNow := t.dsp.fastNow.map (fun (k, chs) =>
        (k, chs.map (fun xs => overlay32 xs (4 * s.dsp.sub) ((xs.drop j).take 4)))) } }
  else
    t.lookaheadRepeat

/-- FRAME_CONCEAL: the compute period ends without a commit. -/
def execFrameConceal (f4 late : Bool) (s : State) : Host.Outcome State Fault Refusal :=
  .next (if s.busUp && (s.cls f4).input.isSome && !(s.cls f4).done then s.conceal f4 late else s)

/-! ### Voices of blocks (R139, R142, R144) -/

/-- `n` samples of voice `v`; a voice beyond 31 gives none. -/
def State.voiceRun (s : State) (v : Nat) : Nat → State × List (BitVec 32)
  | 0 => (s, [])
  | n + 1 =>
    let y := s.voiceStep v
    let t := if v < 32 then s.setVoice v (if s.voiceEnded v then Voice.idle else y.2) else s
    let r := State.voiceRun t v n
    (r.1, y.1 :: r.2)

/-- `n` samples of each of several voices. -/
def State.voicesRun (s : State) (n : Nat) : List Nat → State × List (List (BitVec 32))
  | [] => (s, [])
  | v :: vs =>
    let x := s.voiceRun v n
    let r := State.voicesRun x.1 n vs
    (r.1, x.2 :: r.2)

/-- The control context on an input pin of a block (R134). -/
def State.controlOf (s : State) (inst pin : Nat) : Option Nat :=
  (s.dsp.graph.terms.find? (fun t => t.kind == 0 && t.control && t.inst == inst && t.pin == pin)).map (fun t => t.number)

/-- A context is STALE. -/
def State.isStale (s : State) (c : Nat) : Bool := s.on (F.DSPX_CTXn_STAT_STALE c)

/-! ### AVAS synthesiser (R142, R143) -/

/-- The record of a synthesiser. -/
def State.avas (s : State) (inst : Nat) : AvasSt := Tbl.get AvasSt.reset s.dsp.avas inst

/-- Set the record of a synthesiser. -/
def State.setAvas (s : State) (inst : Nat) (x : AvasSt) : State :=
  { s with dsp := { s.dsp with avas := Tbl.set AvasSt.reset s.dsp.avas inst x } }

/-- Fallback begins: AVAS_FALLBACK. -/
def State.avasFallback (s : State) (inst : Nat) : State :=
  if (s.avas inst).fallback then s
  else (s.setAvas inst { s.avas inst with fallback := true, fresh := false, moveLeft := 0 }).ev A.DSPX_EVENT 16

/-- AVAS_FALLBACK (R143): the speed source has stood unchanged for SPEED_TIMEOUT, or is stale. -/
def execAvasFallback (inst : BitVec 16) (s : State) : Host.Outcome State Fault Refusal :=
  .next (match s.dsp.graph.block inst.toNat with
    | some b => if s.busUp && b.ty == 7 then s.avasFallback inst.toNat else s
    | none => s)

/-- The speed source of a synthesiser: its value and whether it is stale. -/
def State.avasSource (s : State) (b : Block) : BitVec 32 × Bool :=
  match if b.par 0 = 1 then s.controlOf b.inst 0 else none with
  | some c => ((s.ctx c).value, s.isStale c)
  | none => (BitVec.ofNat 32 (b.par 1), false)

/-- The speed of the frame (R143): fallback and return from it, the move to a new speed over 8 frames. -/
def State.avasSpeed (s : State) (b : Block) : State :=
  let v := (s.avasSource b).1
  let stale := (s.avasSource b).2
  let x := s.avas b.inst
  let fresh := !stale && (v != x.lastValue || x.stale || x.fresh)
  let s := if stale then s.avasFallback b.inst else s
  let x := s.avas b.inst
  let back := x.fallback && fresh
  let left := if back then 8 else x.moveLeft
  let goal : Int := if x.fallback && !back then b.par 3 else v.toNat
  let speed := if left = 0 then goal else x.speed + roundQ (goal - x.speed) left
  let s := s.setAvas b.inst { x with
    lastValue := v, stale := stale, fresh := false, fallback := x.fallback && !back, speed := speed, moveLeft := left - 1 }
  if back then s.ev A.DSPX_EVENT 17 else s

/-- The reverse input is non-zero; stale counts as non-zero (R142). -/
def State.avasReverse (s : State) (inst : Nat) : Bool :=
  match s.controlOf inst 1 with
  | some c => s.isStale c || (s.ctx c).value != 0
  | none => false

/-- The rate factor of a layer, units of 2^−27: base × (1 + slope × speed), limited to 0.25 to 3.99 (R142). -/
def avasRate (base slope : BitVec 32) (speed : Int) : Nat :=
  let x := f32Mul (paramF32 1 base) (f32Add f32One (f32Mul (paramF32 1 slope) (f32OfFix speed 16)))
  f32Mag (f32Min 0x407F5C29 (f32Max 0x3E800000 x)) / 2 ^ 122

/-- The layers of a synthesiser for one frame: voices start and stop (REVERSE_ONLY), rates follow the speed, gains move to the
curves' values at that speed. Answers the samples of its sound. -/
def State.avasFrame (s : State) (b : Block) : State × List (BitVec 32) :=
  let s := s.avasSpeed b
  let speed := (s.avas b.inst).speed
  let rev := s.avasReverse b.inst
  let v0 := s.dsp.graph.firstVoice b.inst
  let s := s.forAll (b.par 4) (fun l t =>
    let o := 16 + 40 * l
    let v := t.voice (v0 + l)
    let on := (b.par (o + 3) == 0 || rev) && decide (v0 + l < 32)
    let v := if v.busy && v.sound == b.par o then v else { Voice.idle with busy := true, sound := b.par o }
    if on then t.setVoice (v0 + l) { v with rate := avasRate (b.params.getD (o + 1) 0) (b.params.getD (o + 2) 0) speed }
    else if v0 + l < 32 then t.setVoice (v0 + l) Voice.idle
    else t)
  let r := s.voicesRun 32 ((List.range (b.par 4)).map (fun l => v0 + l))
  let gains := (List.range (b.par 4)).map (fun l => dbGain (curveAt (avasCurve b l) speed))
  (r.1.setAvas b.inst { r.1.avas b.inst with gains := gains }, layersMix (s.avas b.inst).gains gains r.2)

/-! ### Chime player (R144) -/

/-- The record of a chime player. -/
def State.chime (s : State) (inst : Nat) : ChimeSt := Tbl.get ChimeSt.reset s.dsp.chimes inst

/-- Set the record of a chime player. -/
def State.setChime (s : State) (inst : Nat) (x : ChimeSt) : State :=
  { s with dsp := { s.dsp with chimes := Tbl.set ChimeSt.reset s.dsp.chimes inst x } }

/-- The request word: a control context's value, held while it is stale, or the REQUEST parameter. -/
def State.chimeRequest (s : State) (b : Block) : BitVec 32 :=
  match s.controlOf b.inst 0 with
  | some c => if s.isStale c then (s.chime b.inst).request else (s.ctx c).value
  | none => BitVec.ofNat 32 (b.par 1)

/-- Word `j` of chime `i`. -/
def chimePar (b : Block) (i j : Nat) : Nat := b.par (16 + 8 * i + j)

/-- The chime to play: requested, with repetitions left, of the highest priority, the lower index on a tie. -/
def chimeBest (b : Block) (x : ChimeSt) : Option Nat :=
  (List.range (b.par 0)).foldl (fun best i =>
    if x.request.getLsbD i && (chimePar b i 1 == 0 || decide (Tbl.get 0 x.played i < chimePar b i 1)) then
      match best with
      | none => some i
      | some j => if chimePar b j 3 < chimePar b i 3 then some i else some j
    else best) none

/-- A repetition of chime `i` starts on voice `v`. -/
def State.chimeRepeat (s : State) (b : Block) (v i : Nat) : State :=
  let x := s.chime b.inst
  let t := s.setChime b.inst { x with playing := some i, elapsed := 0, played := Tbl.set 0 x.played i (Tbl.get 0 x.played i + 1) }
  if v < 32 then
    t.setVoice v { Voice.idle with busy := true, sound := chimePar b i 0, atEnd := true }
  else t

/-- A chime starts: CHIME_START. -/
def State.chimeStart (s : State) (b : Block) (v : Nat) : State :=
  match chimeBest b (s.chime b.inst) with
  | some i => (s.chimeRepeat b v i).ev A.DSPX_EVENT 20
  | none => s

/-- The playing chime ends: CHIME_END. -/
def State.chimeStop (s : State) (b : Block) : State := (s.setChime b.inst { s.chime b.inst with playing := none }).ev A.DSPX_EVENT 21

/-- What chime `i`, playing on voice `v`, does at the start of a frame: a chime of higher priority pre-empts it, by a fade of 64
samples or at the end of its repetition; a withdrawn or finished one ends; the next repetition starts at its interval. -/
def State.chimePlaying (s : State) (b : Block) (v i : Nat) : State :=
  let x := s.chime b.inst
  let silent := !(s.voice v).busy
  let exceeds := match chimeBest b x with
    | some j => if chimePar b i 3 < chimePar b j 3 then some j else none
    | none => none
  let wanted := x.request.getLsbD i
  match exceeds with
  | some j =>
    if chimePar b j 5 = 1 && !silent then
      let played := if wanted then Tbl.set 0 x.played i (Tbl.get 0 x.played i - 1) else x.played
      let t := s.setChime b.inst { x with playing := none, fading := some i, played := played }
      let t := if v + 1 < 32 then t.setVoice (v + 1) { s.voice v with fade := some 64 } else t
      (t.setVoice v Voice.idle).ev A.DSPX_EVENT 22
    else if silent then
      let done := !wanted || decide (chimePar b i 1 ≠ 0 ∧ chimePar b i 1 ≤ Tbl.get 0 x.played i)
      (if done then s.chimeStop b else (s.setChime b.inst { x with playing := none }).ev A.DSPX_EVENT 22).chimeStart b v
    else s
  | none =>
    if !silent then s
    else if !wanted || decide (chimePar b i 1 ≠ 0 ∧ chimePar b i 1 ≤ Tbl.get 0 x.played i) then (s.chimeStop b).chimeStart b v
    else if chimePar b i 2 * s.fa ≤ x.elapsed * 65536000 then s.chimeRepeat b v i
    else s

/-- The gain of a chime at sample `k` of the frame: its GAIN, on its ramp (R127, R144); 0 for no chime. -/
def State.chimeGain (s : State) (b : Block) (i : Option Nat) (k : Nat) : BitVec 32 :=
  match i with
  | some i => s.parAt b (16 + 8 * i + 4) k
  | none => 0

/-- One frame of a chime player. Answers the samples of its sound: the chime that plays and the one that fades, each with its gain. -/
def State.chimeFrame (s : State) (b : Block) : State × List (BitVec 32) :=
  let x := s.chime b.inst
  let req := s.chimeRequest b
  let v := s.dsp.graph.firstVoice b.inst
  let s := s.setChime b.inst { x with request := req, played := x.played.filter (fun e => req.getLsbD e.1 || x.playing == some e.1) }
  let s := match x.playing with
    | some i => s.chimePlaying b v i
    | none => s.chimeStart b v
  let y := s.chime b.inst
  let r := s.voicesRun 32 [v, v + 1]
  let s := r.1
  let mix := (List.range 32).map (fun k => f32Dot [(s.chimeGain b y.playing k, (r.2.getD 0 []).getD k 0),
    (s.chimeGain b y.fading k, (r.2.getD 1 []).getD k 0)])
  (s.setChime b.inst { y with elapsed := y.elapsed + 32, fading := if (s.voice (v + 1)).busy then y.fading else none }, mix)

/-! ### Blocks (R123, R125, R140, R149, R174) -/

/-- Outputs computed so far in a frame: by 256 × instance + pin, the channels. -/
abbrev Env := List (Nat × List (List (BitVec 32)))

/-- The channels of an output pin in an environment, as last computed. -/
def envGet (e : Env) (inst pin : Nat) : List (List (BitVec 32)) :=
  ((e.reverse.find? (fun x => x.1 == 256 * inst + pin)).map (fun x => x.2)).getD []

/-- The channels that arrive at an input pin of block `b`: from a block of its class in this frame; through the adapter of R149
from one of the other; from an input context; zeros where nothing is connected. -/
def State.pinIn (s : State) (b : Block) (env : Env) (input : FrameData) (pin : Nat) : List (List (BitVec 32)) :=
  let n := frameLen b.cls
  let zeros := List.replicate n (0 : BitVec 32)
  match s.dsp.graph.edges.find? (fun e => e.dstInst == b.inst && e.dstPin == pin) with
  | some e =>
    let src := s.dsp.graph.isF4 e.srcInst
    let k := 256 * e.srcInst + e.srcPin
    let got : List (List (BitVec 32)) :=
      if src = (b.cls == 1) then envGet env e.srcInst e.srcPin
      else if src then Tbl.get [] s.dsp.fastPrev k
      else (Tbl.get [] s.dsp.slowOut k).map (fun xs => (xs.drop (4 * s.dsp.sub)).take 4)
    (List.range e.channels).map (fun c => overlay32 [] 0 (got.getD c zeros) |>.take n)
  | none =>
    match s.dsp.graph.terms.find? (fun t => t.kind == 0 && t.inst == b.inst && t.pin == pin) with
    | some t => if t.control then [List.replicate n (s.ctx t.number).value] else [overlay32 [] 0 (samplesOf input t.number) |>.take n]
    | none => List.replicate (pinWidth b false pin) zeros

/-- The input pins of a block: every pin up to the last one connected. -/
def Graph.inPins (g : Graph) (inst : Nat) : Nat :=
  let es := (g.edges.filter (fun e => e.dstInst == inst)).map (fun e => e.dstPin + 1)
  let ts := (g.terms.filter (fun t => t.kind == 0 && t.inst == inst)).map (fun t => t.pin + 1)
  (es ++ ts).foldl max 0

/-- The output pins of a block: every pin up to the last one connected. -/
def Graph.outPins (g : Graph) (inst : Nat) : Nat :=
  let es := (g.edges.filter (fun e => e.srcInst == inst)).map (fun e => e.srcPin + 1)
  let ts := (g.terms.filter (fun t => t.kind != 0 && t.inst == inst)).map (fun t => t.pin + 1)
  (es ++ ts).foldl max 0

/-- Channels in pin order divided among the pins from `p` on. -/
def splitPins (b : Block) : Nat → Nat → List (List (BitVec 32)) → List (List (List (BitVec 32)))
  | 0, _, _ => []
  | k + 1, p, chs => chs.take (pinWidth b true p) :: splitPins b k (p + 1) (chs.drop (pinWidth b true p))

/-- The channels of the output pins of a block that has one sound: every channel carries it (log entry 11). -/
def State.oneSound (s : State) (b : Block) (xs : List (BitVec 32)) : List (List (BitVec 32)) :=
  List.replicate (((List.range (s.dsp.graph.outPins b.inst)).map (fun p => pinWidth b true p)).foldl (· + ·) 0) xs

/-- A block computes its frame: outputs in pin order, and its new state. A crossover is a free function (log entry 11); the thermal
model and the pilot generator feed no block and run at the commit and at the terminal (R298, R300). -/
def State.blockOut (s : State) (b : Block) (ins : List (List (BitVec 32))) : State × List (List (BitVec 32)) × List (BitVec 32) :=
  let n := frameLen b.cls
  let st := Tbl.get [] s.dsp.blockState b.inst
  if b.ty = 1 then (s, s.biquadRun b st n ins)
  else if b.ty = 2 then (s, s.firRun b st n ins)
  else if b.ty = 4 then (s, delayRun st n (b.par 1) (fun k => b.par (16 + k)) ((List.range (b.par 0)).map (chanOf ins n)))
  else if b.ty = 5 then (s, State.dynamicsRun b st n ins)
  else if b.ty = 6 then (s, s.mixerRun b n ins, [])
  else if b.ty = 7 then let r := s.avasFrame b; (r.1, r.1.oneSound b r.2, [])
  else if b.ty = 8 then let r := s.chimeFrame b; (r.1, r.1.oneSound b r.2, [])
  else if b.ty = 0x0A then
    let r := s.excursionRun (b.par 0) st (chanOf ins n 0)
    (s.excursionDone (b.par 0) r.2, r)
  else if b.ty = 0x0B then
    let xs := (List.range (b.par 0)).map (chanOf ins n)
    (s.lookaheadFrame b xs, delayRun st n (b.par 1) (fun _ => b.par 1) xs)
  else if b.ty = 3 then (s, Config.blockRun b.ty n b.params st ins)
  else (s, [], [])

/-- A block's audio inputs all come from contexts of a list or from blocks of a list, and it has one. -/
def Graph.fedBy (g : Graph) (cs bs : List Nat) (b : Block) : Bool :=
  let es := g.edges.filter (fun e => e.dstInst == b.inst)
  let ts := g.terms.filter (fun t => t.kind == 0 && t.inst == b.inst && !t.control)
  (!es.isEmpty || !ts.isEmpty) && es.all (fun e => bs.contains e.srcInst) && ts.all (fun t => cs.contains t.number)

/-- The blocks that take nothing but what contexts of a list feed, over `k` rounds. -/
def Graph.onlyFrom (g : Graph) (cs : List Nat) : Nat → List Nat → List Nat
  | 0, bs => bs
  | k + 1, bs => g.onlyFrom cs k ((g.blocks.filter (g.fedBy cs bs)).map (fun b => b.inst))

/-- An audio context is silent: its switch gain has come to rest at 0. -/
def State.ctxSilent (s : State) (c : Nat) : Bool :=
  let x := s.ctx c
  s.ctxControl c || (decide (x.sw.gain = 0) && !x.sw.busy && !x.faultDue)

/-- The block's frames are not executed while the owner is not locked (R23): they take their input from the owner alone, and the
ramps of its contexts have muted them (log entry 159). -/
def State.ownerWaits (s : State) (inst : Nat) : Bool :=
  if s.on F.SYS_CLKSTAT_TSRC_LOCKED || s.rd F.SYS_TSRC_SRC == 5 then false
  else
    let cs := s.ownerCtxs
    cs.all s.ctxSilent && (s.dsp.graph.onlyFrom cs s.dsp.graph.blocks.length []).contains inst

/-- How a block stands in the placement in use: it runs, or its frame is its shed action (R174), or its core is fenced and no
partner runs it (R171): zeros; or it waits for the owner (R23). -/
def State.blockRuns (s : State) (inst : Nat) : Bool :=
  match s.dsp.place.now.entries.find? (fun e => e.inst == inst) with
  | none => false
  | some e => !s.ownerWaits inst && e.state != 1 && !s.dsp.place.crossed.contains inst && (e.state == 2 || !s.dsp.place.cores.getLsbD e.core)

/-- The shed action of a block at output pin `p` (R174). -/
def State.shedPin (s : State) (b : Block) (ins : List (List (List (BitVec 32)))) (p : Nat) : List (List (BitVec 32)) :=
  let zeros := List.replicate (frameLen b.cls) (0 : BitVec 32)
  let w := pinWidth b true p
  let got := if u8 (s.placeEntry b.inst) 3 = 0 then ins.getD p [] else []
  (List.range w).map (fun c => got.getD c zeros)

/-- A block's samples made whole: `n` in each channel. -/
def wholeFrame (n : Nat) (chs : List (List (BitVec 32))) : List (List (BitVec 32)) :=
  chs.map (fun xs => (List.range n).map (fun i => xs.getD i 0))

/-- One block of the frame: its outputs join the environment; state, history and ramps advance; a NaN or infinite state becomes
zero (R125). -/
def State.runBlock (s : State) (input : FrameData) (env : Env) (b : Block) : State × Env :=
  let g := s.dsp.graph
  let n := frameLen b.cls
  let ins := (List.range (g.inPins b.inst)).map (fun p => s.pinIn b env input p)
  let put (pins : List (List (List (BitVec 32)))) : Env :=
    env ++ ((List.range pins.length).zip pins).map (fun (p, chs) => (256 * b.inst + p, wholeFrame n chs))
  let shed := (List.range (g.outPins b.inst)).map (fun p => s.shedPin b ins p)
  if !s.blockRuns b.inst then (s, put shed)
  else
    let r := s.blockOut b ins.flatten
    let t := r.1
    let chs := r.2.1
    let st := r.2.2
    let pins := splitPins b (g.outPins b.inst) 0 chs
    let i0 := if b.cls = 1 then 4 * s.dsp.sub else 0
    let pins := if !s.dsp.place.crossing.contains b.inst then pins
      else (pins.zip shed).map (fun (xs, ys) => (xs.zip ys).map (fun (x, y) =>
        (List.range n).map (fun i => crossfade (x.getD i 0) (y.getD i 0) (i0 + i + 1))))
    let bad := st.any f32NonFinite
    let t := { t with dsp := { t.dsp with
      blockState := Tbl.set [] t.dsp.blockState b.inst (if bad then [] else st),
      paramRamp := (t.dsp.paramRamp.map (fun r => if r.inst = b.inst then { r with done := r.done + n } else r)).filter
        (fun r => decide (r.done < r.total)) } }
    (if bad then (t.bump F.DSPX_CNT_NONFINITE).ev A.DSPX_EVENT 2 else t, put pins)

/-- The blocks of a class in an order in which each follows its feeders (R148). -/
def Graph.order (g : Graph) (f4 : Bool) : List Block :=
  (g.peel g.blocks.length []).filterMap (fun i => (g.block i).filter (fun b => (b.cls == 1) == f4))

/-- What a loop-breaking delay block gives in this frame, from its history alone (R148). -/
def State.breakers (s : State) (f4 : Bool) : Env :=
  (s.dsp.graph.blocks.filter (fun b => breaksLoop b && (b.cls == 1) == f4 && s.blockRuns b.inst)).flatMap (fun b =>
    let n := frameLen b.cls
    let r := delayRun (Tbl.get [] s.dsp.blockState b.inst) n (b.par 1) (fun k => b.par (16 + k)) (List.replicate (b.par 0) [])
    let pins := splitPins b (s.dsp.graph.outPins b.inst) 0 r.1
    ((List.range pins.length).zip pins).map (fun (p, chs) => (256 * b.inst + p, wholeFrame n chs)))

/-- Every block of a class over one frame: the state after and the outputs. The output of a loop-breaking delay block stands
first, so the feedback paths read it. -/
def State.runBlocks (s : State) (f4 : Bool) (input : FrameData) : State × Env :=
  (s.dsp.graph.order f4).foldl (fun r b => r.1.runBlock input r.2 b) (s, s.breakers f4)

/-! ### Glue-up (R125, R162) -/

/-- The samples of a terminal from the outputs of a frame: a NaN or infinite value becomes 0 and is counted (R125). -/
def State.termOut (s : State) (n : Nat) (env : Env) (t : Terminal) : State × (Nat × List (BitVec 32)) :=
  let xs := (wholeFrame n [(envGet env t.inst t.pin).headD []]).headD []
  let bad := (xs.filter f32NonFinite).length
  let u := s.forAll bad (fun _ u => u.bump F.DSPX_CNT_NONFINITE)
  let u := if bad = 0 then u else u.ev A.DSPX_EVENT 2
  (u, (t.number, xs.map (fun x => if f32NonFinite x then 0 else x)))

/-- The outputs of the terminals of a list. -/
def State.termOuts (s : State) (n : Nat) (env : Env) (ts : List Terminal) : State × FrameData :=
  ts.foldl (fun r t => let u := r.1.termOut n env t; (u.1, r.2 ++ [u.2])) (s, [])

/-- The load of a core in the frame just committed (DSPX_LOADc). -/
def State.coreLoadSeen (s : State) (c cycles : Nat) : State :=
  let pm := s.permille 0 cycles
  let t := (s.wr (F.DSPX_LOADc_LAST c) (min cycles (2 ^ 20 - 1))).peak (F.DSPX_LOADc_PEAK c) pm
  if s.rd F.DSPX_LOADTH_PERMILLE < pm then t.ev A.DSPX_EVENT 8 else t

/-- The mirrors of the committed states are written in full-guarantee mode; there are none in relaxed mode (R158, R167). -/
def State.writeMirrors (s : State) : State :=
  { s with dsp := { s.dsp with mirror := if s.dsp.place.now.mode = 0 then s.dsp.blockState else [] } }

/-- GLUE_UP (R162): the frame of a class commits; a frame with an unresolved detection does not. First the write-back check (R160):
`found` are the words it read with their blocks, and one that fails is a detection in this frame. The cycles are what each core used.
The F32 commit carries the thermal models, the due veneers and the frame count. -/
def State.glueUp (s : State) (f4 : Bool) (cycles : List Nat) (found : List (BitVec 16 × Detection)) : State :=
  match (s.cls f4).input with
  | none => s
  | some input =>
    if (s.cls f4).done || (s.cls f4).doomed then s
    else if found.any (fun x => detBad x.2) then s.forEach found (fun x t => t.dspDetection x.1.toNat x.2)
    else
      let g := s.dsp.graph
      let n := frameN f4
      let r := s.runBlocks f4 input
      let env := r.2
      let spk := r.1.termOuts n env (g.termsOf 2 f4)
      let out := spk.1.termOuts n env (g.termsOf 1 f4)
      let t := out.1
      let t := (t.setClass f4 { t.cls f4 with done := true, committed := some (spk.2, out.2) }).writeMirrors
      if f4 then
        env.foldl (fun (u : State) (e : Nat × List (List (BitVec 32))) =>
          let old := Tbl.get [] u.dsp.fastNow e.1
          let new := ((List.range e.2.length).zip e.2).map (fun (c, xs) => overlay32 (old.getD c []) (4 * s.dsp.sub) xs)
          { u with dsp := { u.dsp with fastNow := Tbl.set [] u.dsp.fastNow e.1 new } }) t
      else
        let slow := env.foldl (fun (m : Tbl (List (List (BitVec 32)))) e => Tbl.set [] m e.1 e.2) []
        let t := { t with dsp := { t.dsp with slowNext := slow } }
        let t := t.forEach ((List.range 4).zip cycles) (fun (c, k) u => u.coreLoadSeen c k)
        (t.guardFrame.bumpWrap F.DSPX_FRAMECNT_VALUE).veneersDue

/-- GLUE_UP. -/
def execGlueUp (f4 : Bool) (cycles : List Nat) (found : List (BitVec 16 × Detection)) (s : State) : Host.Outcome State Fault Refusal :=
  .next (s.when s.busUp (fun s => s.glueUp f4 cycles found))

/-! ### Frame boundaries (R128, R152, R174) -/

/-- A frame that has not committed by the end of its compute period is concealed (R163). -/
def State.endPeriod (s : State) (f4 : Bool) : State :=
  let c := s.cls f4
  if c.input.isSome && !c.done then s.conceal f4 true else s

/-- The crossfades of the frame that ends are over; those that are due begin: a block that the placement to come refuses crossfades
to its shed action over one F32 frame and then holds it (R174). -/
def State.crossfades (s : State) : State :=
  let p := s.dsp.place
  let crossed := p.crossed ++ p.crossing
  { s with dsp := { s.dsp with place := { p with
      crossed := crossed.filter (fun i => p.due.contains i), crossing := p.due.filter (fun i => !crossed.contains i) } } }

/-- A placement takes effect at the boundary once no crossfade is left: one that no fence has asked for, or one whose migration
time is over (R152, R174). -/
def State.placeDue (s : State) : State :=
  match s.dsp.place.next with
  | some p =>
    if s.dsp.place.crossing ≠ [] then s
    else if s.dsp.place.migrating then (if s.dsp.place.late then s.migrate else s)
    else s.takePlacement p
  | none => s

/-- The playing frame keeps only what the graph drives; the reference interpolator keeps the frame before (R209). -/
def State.nextPlaying (s : State) : State :=
  let has (kind k : Nat) := s.dsp.graph.terms.any (fun t => t.kind == kind && t.number == k)
  let p := s.dsp.playing
  { s with
    loop := { s.loop with past := p.1, csFrame := 0 },
    dsp := { s.dsp with playing := (p.1.filter (fun x => has 2 x.1), p.2.filter (fun x => has 1 x.1)) } }

/-- What an F32 boundary does before its frames: a frame without a commit is concealed; the frame count, level ramps (R132), maps,
records and measurements that wait for it. -/
def State.f32Begin (s : State) : State :=
  let s := s.endPeriod false
  let s := if s.ringTimed && s.on F.SYS_CLKSTAT_TSRC_LOCKED then s else s.bumpWrap F.PORT_TBFRAME_COUNT
  let s := { s with ring := { s.ring with phase := 0 } }
  let s := s.forAll 128 (fun c t => t.ctxLevelStart c)
  let s := (s.crossfades.placeDue.ringMapApply.decimFrame false).nextPlaying
  let s := s.forAll 16 (fun o t => if (t.out o).bindDue then (t.setOut o { t.out o with bindDue := false }).placeSeq else t)
  let s := s.forAll 16 (fun g t => t.genBoundary g)
  let s := s.forAll 4 (fun n t => t.setPort n { t.port n with txPos := 0 })
  let s := s.guardBoundary.rereadPeriod.diagFrame
  let s := { s with dsp := { s.dsp with fastPrev := s.dsp.fastNow, slowOut := s.dsp.slowNext } }
  s.laSend

/-- What an F32 boundary does after its frames: fault ramps start, contexts without a terminal discard their samples (R88, R131). -/
def State.f32End (s : State) : State :=
  s.forAll 128 (fun c t =>
    let used := t.dsp.graph.terms.any (fun x => x.kind == 0 && x.number == c)
    let t := if used || (t.ctx c).collected.isEmpty then t else t.setCtx c { t.ctx c with collected := [] }
    if used && t.dsp.graph.terms.any (fun x => x.kind == 0 && x.number == c && t.dsp.graph.isF4 x.inst) then t
    else t.ctxFaultStart c)

/-- The F4 contexts' fault ramps start with their next frame (R88). -/
def State.f4End (s : State) : State := s.forEach (s.dsp.graph.termsOf 0 true) (fun x t => t.ctxFaultStart x.number)

/-- A frame boundary (R128). Every F4 boundary releases the F4 frame and starts the one committed; the boundary after the eighth
F4 frame, or one of class F32, is also the F32 boundary. -/
def State.boundary (s : State) (f4 : Bool) : State :=
  let whole := !f4 || s.dsp.sub == 7
  let n := if f4 then 4 else 4 * (8 - s.dsp.sub)
  let s := (s.sources (4 * s.dsp.sub) n).endPeriod true
  let s := s.when whole State.f32Begin
  let s := { s with dsp := { s.dsp with sub := if whole then 0 else s.dsp.sub + 1 } }
  let s := s.when whole (fun s => (s.playClass false 0).release false)
  let s := ((s.playClass true (4 * s.dsp.sub)).decimFrame true).release true
  (s.when whole State.f32End).f4End

/-- DSP_FRAME_BOUNDARY: the DSP island runs with PLL B (R17, R19). -/
def execDspFrameBoundary (f4 : Bool) (s : State) : Host.Outcome State Fault Refusal :=
  .next (if s.busUp then s.boundary f4 else s)

end Sys2Proof.Machine
end

