-- ==== Sys2Proof/Machine/Dispatch.lean ====
section
/-!
DEFINITION. Machine/Dispatch.lean: one arm per command, each a call of its meaning.
-/

namespace Sys2Proof.Machine

open Sys2Proof

/-- The effect of a command on everything but the queue. -/
def exec (i : Instr) (s : State) : Host.Outcome State Fault Refusal :=
  match i with
  | .powerOnReset => Sys2Proof.Machine.execPowerOnReset s
  | .brownOut c => Sys2Proof.Machine.execBrownOut c s
  | .warmReset mode e => Sys2Proof.Machine.execWarmReset mode e s
  | .sysRstctrlWarm v => Sys2Proof.Machine.execSysRstctrlWarm v s
  | .warmResetRampEnd => Sys2Proof.Machine.execWarmResetRampEnd s
  | .blkrstDiag => Sys2Proof.Machine.execBlkrstDiag s
  | .blkrstTring => Sys2Proof.Machine.execBlkrstTring s
  | .blkrstPort n => Sys2Proof.Machine.execBlkrstPort n s
  | .blkrstTrace => Sys2Proof.Machine.execBlkrstTrace s
  | .blkrstDecim => Sys2Proof.Machine.execBlkrstDecim s
  | .blockResetComplete bit => Sys2Proof.Machine.execBlockResetComplete bit s
  | .testAccessReset => Sys2Proof.Machine.execTestAccessReset s
  | .xtalWindowEnd edges => Sys2Proof.Machine.execXtalWindowEnd edges s
  | .pllLockLost pllB => Sys2Proof.Machine.execPllLockLost pllB s
  | .pllLockAcquired pllB => Sys2Proof.Machine.execPllLockAcquired pllB s
  | .tsrcLockGained period => Sys2Proof.Machine.execTsrcLockGained period s
  | .tsrcLockLost => Sys2Proof.Machine.execTsrcLockLost s
  | .benchAccessTimeout => Sys2Proof.Machine.execBenchAccessTimeout s
  | .crossingFifoEvent island => Sys2Proof.Machine.execCrossingFifoEvent island s
  | .registerWrite who addr v => Sys2Proof.Machine.execRegisterWrite who addr v s
  | .xspiDiscoveryDone octal size => Sys2Proof.Machine.execXspiDiscoveryDone octal size s
  | .xspiDiscoveryTimeout => Sys2Proof.Machine.execXspiDiscoveryTimeout s
  | .locatorRead bytes => Sys2Proof.Machine.execLocatorRead bytes s
  | .nvmArbitrationLost => Sys2Proof.Machine.execNvmArbitrationLost s
  | .nvmArbitrationRetry => Sys2Proof.Machine.execNvmArbitrationRetry s
  | .nvmArbitrationTimeout => Sys2Proof.Machine.execNvmArbitrationTimeout s
  | .stuckBusDetected freed => Sys2Proof.Machine.execStuckBusDetected freed s
  | .stuckBusRetry freed => Sys2Proof.Machine.execStuckBusRetry freed s
  | .eepromNack => Sys2Proof.Machine.execEepromNack s
  | .eepromNackRetry => Sys2Proof.Machine.execEepromNackRetry s
  | .imageHeaderChecked header directory signature sections => Sys2Proof.Machine.execImageHeaderChecked header directory signature sections s
  | .bootcfgApplied bytes => Sys2Proof.Machine.execBootcfgApplied bytes s
  | .sectionReread ty inst dram => Sys2Proof.Machine.execSectionReread ty inst dram s
  | .earlySectionsLoaded sections => Sys2Proof.Machine.execEarlySectionsLoaded sections s
  | .earlyGraphPlaced => Sys2Proof.Machine.execEarlyGraphPlaced s
  | .fullRunningTakeover sections => Sys2Proof.Machine.execFullRunningTakeover sections s
  | .earlyOnlyEntry err ty inst => Sys2Proof.Machine.execEarlyOnlyEntry err ty inst s
  | .romDefaultsEntry => Sys2Proof.Machine.execRomDefaultsEntry s
  | .dryfitExecutionEnd loads => Sys2Proof.Machine.execDryfitExecutionEnd loads s
  | .dryfitDone => Sys2Proof.Machine.execDryfitDone s
  | .veneerApply e => Sys2Proof.Machine.execVeneerApply e s
  | .veneerValidated => Sys2Proof.Machine.execVeneerValidated s
  | .portStart n => Sys2Proof.Machine.execPortStart n s
  | .portArm n => Sys2Proof.Machine.execPortArm n s
  | .portDisarm n => Sys2Proof.Machine.execPortDisarm n s
  | .portStop n => Sys2Proof.Machine.execPortStop n s
  | .portRestart n => Sys2Proof.Machine.execPortRestart n s
  | .portCfgWrite n v => Sys2Proof.Machine.execPortCfgWrite n v s
  | .portMapWrite n tx k v => Sys2Proof.Machine.execPortMapWrite n tx k v s
  | .portSlotmaskWrite n v late => Sys2Proof.Machine.execPortSlotmaskWrite n v late s
  | .portMaskApply n => Sys2Proof.Machine.execPortMaskApply n s
  | .portGstartFire => Sys2Proof.Machine.execPortGstartFire s
  | .syncPinEdge => Sys2Proof.Machine.execSyncPinEdge s
  | .portStartFrame n => Sys2Proof.Machine.execPortStartFrame n s
  | .portRunningReached n => Sys2Proof.Machine.execPortRunningReached n s
  | .portStartTimeout n => Sys2Proof.Machine.execPortStartTimeout n s
  | .portStopDrainDone n => Sys2Proof.Machine.execPortStopDrainDone n s
  | .portRxFrame n f => Sys2Proof.Machine.execPortRxFrame n f s
  | .portSlip n tx => Sys2Proof.Machine.execPortSlip n tx s
  | .zcSwitch t => Sys2Proof.Machine.execZcSwitch t s
  | .zcTimeout t => Sys2Proof.Machine.execZcTimeout t s
  | .clkLoss n => Sys2Proof.Machine.execClkLoss n s
  | .rateFault n period => Sys2Proof.Machine.execRateFault n period s
  | .portResume n => Sys2Proof.Machine.execPortResume n s
  | .portOverrunUnderrun n tx overrun => Sys2Proof.Machine.execPortOverrunUnderrun n tx overrun s
  | .portRestartCapture n => Sys2Proof.Machine.execPortRestartCapture n s
  | .iecLock sinceB parityOk => Sys2Proof.Machine.execIecLock sinceB parityOk s
  | .iecBlockEnd csA csB => Sys2Proof.Machine.execIecBlockEnd csA csB s
  | .iecTxBlockStart => Sys2Proof.Machine.execIecTxBlockStart s
  | .ringFrameEmit => Sys2Proof.Machine.execRingFrameEmit s
  | .ringFrameRx f codeErrs delay => Sys2Proof.Machine.execRingFrameRx f codeErrs delay s
  | .ringFrameReturn f codeErrs rtt => Sys2Proof.Machine.execRingFrameReturn f codeErrs rtt s
  | .ringBreak noSignal codeErrs => Sys2Proof.Machine.execRingBreak noSignal codeErrs s
  | .ringBreakResume => Sys2Proof.Machine.execRingBreakResume s
  | .electCandidate => Sys2Proof.Machine.execElectCandidate s
  | .elected => Sys2Proof.Machine.execElected s
  | .electTimeout => Sys2Proof.Machine.execElectTimeout s
  | .ringStart => Sys2Proof.Machine.execRingStart s
  | .ringStop => Sys2Proof.Machine.execRingStop s
  | .tringCfgWrite v => Sys2Proof.Machine.execTringCfgWrite v s
  | .tringMapWrite tx k v => Sys2Proof.Machine.execTringMapWrite tx k v s
  | .biscuitRx slot bytes => Sys2Proof.Machine.execBiscuitRx slot bytes s
  | .biscuitInsert slot => Sys2Proof.Machine.execBiscuitInsert slot s
  | .startBiscuit frame => Sys2Proof.Machine.execStartBiscuit frame s
  | .syncBiscuit j => Sys2Proof.Machine.execSyncBiscuit j s
  | .regWr src addr v => Sys2Proof.Machine.execRegWr src addr v s
  | .regRd src addr => Sys2Proof.Machine.execRegRd src addr s
  | .regRsp bytes => Sys2Proof.Machine.execRegRsp bytes s
  | .hostBiscuit bytes => Sys2Proof.Machine.execHostBiscuit bytes s
  | .policyBiscuit bytes => Sys2Proof.Machine.execPolicyBiscuit bytes s
  | .faultBiscuit src payload => Sys2Proof.Machine.execFaultBiscuit src payload s
  | .biscuitSend => Sys2Proof.Machine.execBiscuitSend s
  | .biscuitPop => Sys2Proof.Machine.execBiscuitPop s
  | .dspFrameBoundary f4 => Sys2Proof.Machine.execDspFrameBoundary f4 s
  | .glueUp f4 cycles found => Sys2Proof.Machine.execGlueUp f4 cycles found s
  | .frameConceal f4 late => Sys2Proof.Machine.execFrameConceal f4 late s
  | .dspDetection inst d => Sys2Proof.Machine.execDspDetection inst d s
  | .ctxCfgWrite n v => Sys2Proof.Machine.execCtxCfgWrite n v s
  | .ctxLevelWrite n v => Sys2Proof.Machine.execCtxLevelWrite n v s
  | .genCfgWrite g v => Sys2Proof.Machine.execGenCfgWrite g v s
  | .genFreqWrite g v => Sys2Proof.Machine.execGenFreqWrite g v s
  | .play voice sound => Sys2Proof.Machine.execPlay voice sound s
  | .stopAtEnd voice => Sys2Proof.Machine.execStopAtEnd voice s
  | .stopNow voice => Sys2Proof.Machine.execStopNow voice s
  | .playDone voice => Sys2Proof.Machine.execPlayDone voice s
  | .playUnderrun voice late => Sys2Proof.Machine.execPlayUnderrun voice late s
  | .avasFallback inst => Sys2Proof.Machine.execAvasFallback inst s
  | .placementRun => Sys2Proof.Machine.execPlacementRun s
  | .coreFence c id => Sys2Proof.Machine.execCoreFence c id s
  | .migrationDone => Sys2Proof.Machine.execMigrationDone s
  | .regionFence mi r id => Sys2Proof.Machine.execRegionFence mi r id s
  | .dramRegionMove mi r => Sys2Proof.Machine.execDramRegionMove mi r s
  | .scrubRepair mi w => Sys2Proof.Machine.execScrubRepair mi w s
  | .outputBinding => Sys2Proof.Machine.execOutputBinding s
  | .outputReqWrite o v => Sys2Proof.Machine.execOutputReqWrite o v s
  | .fastoff o => Sys2Proof.Machine.execFastoff o s
  | .fastoffDone o => Sys2Proof.Machine.execFastoffDone o s
  | .cmRampDone o => Sys2Proof.Machine.execCmRampDone o s
  | .outputZeroCrossing o => Sys2Proof.Machine.execOutputZeroCrossing o s
  | .outputZcTimeout o => Sys2Proof.Machine.execOutputZcTimeout o s
  | .outputRampDone o => Sys2Proof.Machine.execOutputRampDone o s
  | .bridgeTrip c legN current => Sys2Proof.Machine.execBridgeTrip c legN current s
  | .tripDemagEnd o => Sys2Proof.Machine.execTripDemagEnd o s
  | .tripRetry o => Sys2Proof.Machine.execTripRetry o s
  | .cellDesat c legN cell => Sys2Proof.Machine.execCellDesat c legN cell s
  | .shedFall c legN => Sys2Proof.Machine.execShedFall c legN s
  | .cellRotate c => Sys2Proof.Machine.execCellRotate c s
  | .imbalance p => Sys2Proof.Machine.execImbalance p s
  | .tripLimWrite c v => Sys2Proof.Machine.execTripLimWrite c v s
  | .bridgeOvertemp c reading us => Sys2Proof.Machine.execBridgeOvertemp c reading us s
  | .laneEvaluate faults => Sys2Proof.Machine.execLaneEvaluate faults s
  | .energySubwindowEnd o => Sys2Proof.Machine.execEnergySubwindowEnd o s
  | .bankselWrite v late => Sys2Proof.Machine.execBankselWrite v late s
  | .bankSwap => Sys2Proof.Machine.execBankSwap s
  | .bankWrite c b k v => Sys2Proof.Machine.execBankWrite c b k v s
  | .fbTableWrite c k slope v => Sys2Proof.Machine.execFbTableWrite c k slope v s
  | .loopChCfgWrite c v => Sys2Proof.Machine.execLoopChCfgWrite c v s
  | .coefRefetch c => Sys2Proof.Machine.execCoefRefetch c s
  | .rcTrackerEdge k t => Sys2Proof.Machine.execRcTrackerEdge k t s
  | .rcTrackerTimeout k => Sys2Proof.Machine.execRcTrackerTimeout k s
  | .rcPeriodEnd c => Sys2Proof.Machine.execRcPeriodEnd c s
  | .rcFadeEnd c => Sys2Proof.Machine.execRcFadeEnd c s
  | .rcClear c => Sys2Proof.Machine.execRcClear c s
  | .rcFreeze c on => Sys2Proof.Machine.execRcFreeze c on s
  | .rcChCfgWrite c v => Sys2Proof.Machine.execRcChCfgWrite c v s
  | .rcSrcEstWrite r v => Sys2Proof.Machine.execRcSrcEstWrite r v s
  | .rcTableWrite k v => Sys2Proof.Machine.execRcTableWrite k v s
  | .traceArm b => Sys2Proof.Machine.execTraceArm b s
  | .traceStop b => Sys2Proof.Machine.execTraceStop b s
  | .traceForce b => Sys2Proof.Machine.execTraceForce b s
  | .traceCfgWrite b k v => Sys2Proof.Machine.execTraceCfgWrite b k v s
  | .traceWindowRead w bad => Sys2Proof.Machine.execTraceWindowRead w bad s
  | .senseSample k slice raw chop linkOk => Sys2Proof.Machine.execSenseSample k slice raw chop linkOk s
  | .sliceFault k slice => Sys2Proof.Machine.execSliceFault k slice s
  | .bgWindowEnd k => Sys2Proof.Machine.execBgWindowEnd k s
  | .bgFreezeWrite on => Sys2Proof.Machine.execBgFreezeWrite on s
  | .senseCal mask => Sys2Proof.Machine.execSenseCal mask s
  | .senseBootCalStart => Sys2Proof.Machine.execSenseBootCalStart s
  | .senseCalDone results => Sys2Proof.Machine.execSenseCalDone results s
  | .decimOutputSample => Sys2Proof.Machine.execDecimOutputSample s
  | .ratioTrackerTick err => Sys2Proof.Machine.execRatioTrackerTick err s
  | .decimReset => Sys2Proof.Machine.execDecimReset s
  | .decimSettled k => Sys2Proof.Machine.execDecimSettled k s
  | .thrCfgWrite u r v => Sys2Proof.Machine.execThrCfgWrite u r v s
  | .auxPathCfgWrite k v => Sys2Proof.Machine.execAuxPathCfgWrite k v s
  | .clampCeilingWrite o clamp v => Sys2Proof.Machine.execClampCeilingWrite o clamp v s
  | .setSwitched o => Sys2Proof.Machine.execSetSwitched o s
  | .quickDcCheck mask => Sys2Proof.Machine.execQuickDcCheck mask s
  | .acSweep mask => Sys2Proof.Machine.execAcSweep mask s
  | .diagAbort mask => Sys2Proof.Machine.execDiagAbort mask s
  | .quickCheckStart => Sys2Proof.Machine.execQuickCheckStart s
  | .quickCheckDone o results => Sys2Proof.Machine.execQuickCheckDone o results s
  | .bootDcDiagStart => Sys2Proof.Machine.execBootDcDiagStart s
  | .bootDcDiagDone results => Sys2Proof.Machine.execBootDcDiagDone results s
  | .sweepPointDone o => Sys2Proof.Machine.execSweepPointDone o s
  | .sweepResume o granted => Sys2Proof.Machine.execSweepResume o granted s
  | .trackPeriodEnd o => Sys2Proof.Machine.execTrackPeriodEnd o s
  | .stbyLineCheck findings => Sys2Proof.Machine.execStbyLineCheck findings s
  | .stage1Start vsys bootsel hbAddr0 hbAddr1 => Sys2Proof.Machine.execStage1Start vsys bootsel hbAddr0 hbAddr1 s
  | .railInWindow rail => Sys2Proof.Machine.execRailInWindow rail s
  | .stage1RailTimeout rail => Sys2Proof.Machine.execStage1RailTimeout rail s
  | .stage1Retry => Sys2Proof.Machine.execStage1Retry s
  | .laterStageStart => Sys2Proof.Machine.execLaterStageStart s
  | .stageTimeout rail => Sys2Proof.Machine.execStageTimeout rail s
  | .railDischarged rail => Sys2Proof.Machine.execRailDischarged rail s
  | .dischargeTimeout rail => Sys2Proof.Machine.execDischargeTimeout rail s
  | .railWindowTrip rail exceeds => Sys2Proof.Machine.execRailWindowTrip rail exceeds s
  | .railCtrlWrite v => Sys2Proof.Machine.execRailCtrlWrite v s
  | .micbCfgWrite v => Sys2Proof.Machine.execMicbCfgWrite v s
  | .micbShort micb1 under => Sys2Proof.Machine.execMicbShort micb1 under s
  | .pvddSoftStartDone => Sys2Proof.Machine.execPvddSoftStartDone s
  | .laBatchArrive late => Sys2Proof.Machine.execLaBatchArrive late s
  | .demandActive => Sys2Proof.Machine.execDemandActive s
  | .laTimeout => Sys2Proof.Machine.execLaTimeout s
  | .pvddLimited cause power => Sys2Proof.Machine.execPvddLimited cause power s
  | .phaseShed amps => Sys2Proof.Machine.execPhaseShed amps s
  | .pvddOcp first second => Sys2Proof.Machine.execPvddOcp first second s
  | .pvddOcpRestart volts => Sys2Proof.Machine.execPvddOcpRestart volts s
  | .pvddOv volts us => Sys2Proof.Machine.execPvddOv volts us s
  | .pvddUv volts us => Sys2Proof.Machine.execPvddUv volts us s
  | .pvddWindowRestored => Sys2Proof.Machine.execPvddWindowRestored s
  | .pvddClockReturn => Sys2Proof.Machine.execPvddClockReturn s
  | .bankReady => Sys2Proof.Machine.execBankReady s
  | .chgFault => Sys2Proof.Machine.execChgFault s
  | .vbatThreshold mv rising => Sys2Proof.Machine.execVbatThreshold mv rising s
  | .holdupEnter hold => Sys2Proof.Machine.execHoldupEnter hold s
  | .holdupExit => Sys2Proof.Machine.execHoldupExit s
  | .holdupSpent => Sys2Proof.Machine.execHoldupSpent s
  | .stbyGo v => Sys2Proof.Machine.execStbyGo v s
  | .stbyAuto => Sys2Proof.Machine.execStbyAuto s
  | .stbyCurrentReached => Sys2Proof.Machine.execStbyCurrentReached s
  | .wakecfgWrite v => Sys2Proof.Machine.execWakecfgWrite v s
  | .wakePinWake => Sys2Proof.Machine.execWakePinWake s
  | .hostMatchWake addr => Sys2Proof.Machine.execHostMatchWake addr s
  | .hostMatchRelease => Sys2Proof.Machine.execHostMatchRelease s
  | .ringActivityWake => Sys2Proof.Machine.execRingActivityWake s
  | .govEvaluate => Sys2Proof.Machine.execGovEvaluate s
  | .govLimitWrite v => Sys2Proof.Machine.execGovLimitWrite v s
  | .crashN lowUs => Sys2Proof.Machine.execCrashN lowUs s
  | .govDischarge v => Sys2Proof.Machine.execGovDischarge v s
  | .dischargePvddStop => Sys2Proof.Machine.execDischargePvddStop s
  | .dischargeDone => Sys2Proof.Machine.execDischargeDone s
  | .disFail => Sys2Proof.Machine.execDisFail s
  | .govAllocate => Sys2Proof.Machine.execGovAllocate s
  | .hkConversion x => Sys2Proof.Machine.execHkConversion x s
  | .hkInjectTrigger trig => Sys2Proof.Machine.execHkInjectTrigger trig s
  | .swTrig bits => Sys2Proof.Machine.execSwTrig bits s
  | .hkTimer => Sys2Proof.Machine.execHkTimer s
  | .refReady => Sys2Proof.Machine.execRefReady s
  | .hkClockStop => Sys2Proof.Machine.execHkClockStop s
  | .hkCal => Sys2Proof.Machine.execHkCal s
  | .hkCalStart => Sys2Proof.Machine.execHkCalStart s
  | .hkCalDone offset gain => Sys2Proof.Machine.execHkCalDone offset gain s
  | .hkSeqApply => Sys2Proof.Machine.execHkSeqApply s
  | .hkWinWrite k v => Sys2Proof.Machine.execHkWinWrite k v s
  | .fcolEventArrive ev atRollover => Sys2Proof.Machine.execFcolEventArrive ev atRollover s
  | .fcolClassify => Sys2Proof.Machine.execFcolClassify s
  | .fcolWindowRollover ticks => Sys2Proof.Machine.execFcolWindowRollover ticks s
  | .fenceApply => Sys2Proof.Machine.execFenceApply s
  | .fcolSafeCmd who v => Sys2Proof.Machine.execFcolSafeCmd who v s
  | .commit who => Sys2Proof.Machine.execCommit who s
  | .fcolRuleWrite who k j v => Sys2Proof.Machine.execFcolRuleWrite who k j v s
  | .clrFirst => Sys2Proof.Machine.execClrFirst s
  | .fcolConfigMismatch => Sys2Proof.Machine.execFcolConfigMismatch s
  | .aliveToggle => Sys2Proof.Machine.execAliveToggle s
  | .kick who => Sys2Proof.Machine.execKick who s
  | .watchdogExpire => Sys2Proof.Machine.execWatchdogExpire s
  | .jigArm who v => Sys2Proof.Machine.execJigArm who v s
  | .jigMissed => Sys2Proof.Machine.execJigMissed s
  | .ident e => Sys2Proof.Machine.execIdent e s
  | .setPtr v e => Sys2Proof.Machine.execSetPtr v e s
  | .readBlk n e => Sys2Proof.Machine.execReadBlk n e s
  | .writeBlk n bytes e => Sys2Proof.Machine.execWriteBlk n bytes e s
  | .status e => Sys2Proof.Machine.execStatus e s
  | .claim e => Sys2Proof.Machine.execClaim e s
  | .complete n e => Sys2Proof.Machine.execComplete n e s
  | .cqRead e => Sys2Proof.Machine.execCqRead e s
  | .faultLog seq e => Sys2Proof.Machine.execFaultLog seq e s
  | .challenge nonce e => Sys2Proof.Machine.execChallenge nonce e s
  | .response n bytes e => Sys2Proof.Machine.execResponse n bytes e s
  | .unlockPw n bytes e => Sys2Proof.Machine.execUnlockPw n bytes e s
  | .attemptEvaluated => Sys2Proof.Machine.execAttemptEvaluated s
  | .jtagUnlockMailbox m => Sys2Proof.Machine.execJtagUnlockMailbox m s
  | .lockoutEnd => Sys2Proof.Machine.execLockoutEnd s
  | .nonceExpire => Sys2Proof.Machine.execNonceExpire s
  | .relock v => Sys2Proof.Machine.execRelock v s
  | .svRaise v => Sys2Proof.Machine.execSvRaise v s
  | .svRaised => Sys2Proof.Machine.execSvRaised s
  | .unknownCmd => Sys2Proof.Machine.execUnknownCmd s
  | .hbusStartException => Sys2Proof.Machine.execHbusStartException s
  | .hbusTimeout => Sys2Proof.Machine.execHbusTimeout s
  | .addrChanged => Sys2Proof.Machine.execAddrChanged s
  | .alertResponse line => Sys2Proof.Machine.execAlertResponse line s
  | .alertReassert => Sys2Proof.Machine.execAlertReassert s
  | .nvmRead eeprom fast len => Sys2Proof.Machine.execNvmRead eeprom fast len s
  | .nvmProgram eeprom fast len => Sys2Proof.Machine.execNvmProgram eeprom fast len s
  | .nvmErase eeprom fast len => Sys2Proof.Machine.execNvmErase eeprom fast len s
  | .nvmOpDone err data => Sys2Proof.Machine.execNvmOpDone err data s
  | .sourceLevelRise n more => Sys2Proof.Machine.execSourceLevelRise n more s
  | .sourceLevelFall n => Sys2Proof.Machine.execSourceLevelFall n s
  | .intcEnWrite k v => Sys2Proof.Machine.execIntcEnWrite k v s
  | .moderationExpiry g => Sys2Proof.Machine.execModerationExpiry g s
  | .demandExpired => Sys2Proof.Machine.execDemandExpired s
  | .pvddOvCleared volts => Sys2Proof.Machine.execPvddOvCleared volts s
  | .wakePinChange active => Sys2Proof.Machine.execWakePinChange active s

end Sys2Proof.Machine
end

