-- ==== Sys2Proof/Safety.lean ====
section
/-!
DEFINITION. Safety.lean: the invariant of the machine: its tables stand in canonical form, and every queue keeps within the
capacity that the spec gives it.
-/

namespace Sys2Proof.Machine

/-- The canonical form of the memory windows: addresses strictly rising, no entry equal to what an unlisted byte reads as. -/
def Memory.wf (m : List Host.Cell) : Bool := Tbl.wf (fun _ => 0) m

/-- Registers and memory stand in canonical form: equal contents are equal data. -/
def State.Canonical (s : State) : Prop := Tbl.wf regDefault s.regs = true ∧ Memory.wf s.mem = true

/-- The queues keep within their capacities: completions 64 (R446), applies that wait or are under way 4 (R65), biscuits to send 8
(R113) and received 16 (R116), fault events 32 and 4 (R391), demands of the supply 128 (R340), injected conversions 2 (R375). -/
structure State.Bounded (s : State) : Prop where
  completions : s.intc.cq.length ≤ 64
  applies : s.boot.waiting.length + s.boot.job.toList.length ≤ 4
  biscuitsOut : s.ring.txq.length ≤ 8
  biscuitsIn : s.ring.rxq.length ≤ 16
  faultsNormal : s.fcol.normal.length ≤ 32
  faultsPriority : s.fcol.prio.length ≤ 4
  demands : s.pmu.queue.length ≤ 128
  injected : s.hk.queue.length ≤ 2

/-- The invariant that every step keeps. -/
def State.Inv (s : State) : Prop := s.Canonical ∧ s.Bounded

end Sys2Proof.Machine
end

