-- ==== Sys2Proof/Certificates/Slice0/Obligations.lean ====
section
/-!
DEFINITION. Certificates/Slice0/Obligations.lean: the statements about the model that are to be proved.
-/

open Sys2Proof Sys2Proof.Machine

/-- A step runs the command at the front of the queue. For every command c and state s, a step with c at the front of the
queue is exec of c on the state with the queue's rest; a command that is offered to s runs on s itself. Follows
spec/INDEX.md, spec/opcode_table.json. -/
def Obligations.FrontCommandRuns : Prop :=
  (∀ (c : Instr) (rest : List Instr) (s : State), s.pending = c :: rest → step s = exec c { s with pending := rest }) ∧
  (∀ (c : Instr) (s : State), step (s.offer c) = exec c s)

/-- A step on an empty queue only lets a microsecond pass (the model's choice, log entry 7). On an empty queue the block
idles: everything stays as it is, and the model's own clock counts one microsecond. The spec names no such step; it is the
model's choice (log entry 7). Follows spec/INDEX.md. -/
def Obligations.EmptyQueueLetsTimePass : Prop :=
  ∀ s : State, s.pending = [] → step s = .next { s with now := s.now + 1 }

/-- Every step keeps the queues within their capacities and the state in canonical form. For every state with the invariant
(registers and memory in canonical form; completions at most 64, applies that wait or are under way 4, biscuits to send 8
and received 16, fault events 32 and 4, demands 128, injected conversions 2), whatever command stands at the front, the
next state has it. Follows R446, R65, R113, R116, R391, R340, R375. -/
def Obligations.StepKeepsInvariant : Prop :=
  ∀ s t : State, s.Inv → step s = .next t → t.Inv

/-- The invariant holds right after reset. The state right after a power-on reset has its queues within their capacities and
stands in canonical form. Follows R446, R65, R113, R116, R391, R340, R375. -/
def Obligations.ResetHasInvariant : Prop := State.reset.Inv

/-- Every command completes in every state. For every command and every state exec answers a next state: no command faults
and none is refused. Follows spec/opcode_table.json. -/
def Obligations.EveryCommandCompletes : Prop :=
  ∀ (c : Instr) (s : State), ∃ t, exec c s = .next t

/-- No command moves a fuse back, touches the queue or moves the clock. Whatever command runs in whatever state: of the
one-time-programmable memory only the minimum security version changes, and it never falls; the commands that wait and the
model's clock stay as they are. Follows R450, R459, R460. -/
def Obligations.FusesNeverFall : Prop :=
  ∀ (c : Instr) (s t : State), exec c s = .next t →
    t.otp = { s.otp with minSv := t.otp.minSv } ∧ s.otp.minSv ≤ t.otp.minSv ∧ t.pending = s.pending ∧ t.now = s.now

/-- Every register reads its Reset column right after reset. Right after a power-on reset every register of the tables holds
the word of its Reset column; so the identity, the reset cause, the clock status and the states of the ports and of the
ring are as their chapters give them. Follows R11, R31, R33. -/
def Obligations.ResetValues : Prop :=
  (∀ (a : Nat) (g : RegGroup), findReg a = some g → State.reset.reg a = g.rstWord a) ∧
  State.reset.reg A.SYS_IDENT = 0x1648B010 ∧ State.reset.reg A.SYS_RSTCAUSE = 1 ∧ State.reset.reg A.SYS_CLKSTAT = 0 ∧
  (∀ n : Fin 4, State.reset.pState n = pOff) ∧ State.reset.ringState = 0 ∧ State.reset.intc.cq = [] ∧
  (∀ n : Fin 129, State.reset.src n = .idle)

/-- A claim returns and claims the pending source with the highest priority. A read of INTC_CLAIM, and the CLAIM command,
return the number of the pending source with the highest priority, of several the lowest number; that source becomes
claimed and no other source changes. With no source pending they return 0xFF, count one empty claim and change nothing
else of the controller. Formalises R438: "A read of INTC_CLAIM, or the CLAIM command (Host and NVM two-wire buses),
returns the number of the PENDING source with the highest priority." -/
def Obligations.ClaimTakesHighestPriority : Prop :=
  (∀ (who : Writer) (s : State) (n : Nat), n < 129 → s.src n = .pending →
    (∀ m, m < 129 → s.src m = .pending → s.srcPrio m ≤ s.srcPrio n ∧ (s.srcPrio m = s.srcPrio n → n ≤ m)) →
    (s.busRead who A.INTC_CLAIM).1 = .ok ∧ (s.busRead who A.INTC_CLAIM).2.1 = BitVec.ofNat 32 n ∧
      (s.busRead who A.INTC_CLAIM).2.2.src n = .claimed ∧
      (∀ m, m ≠ n → (s.busRead who A.INTC_CLAIM).2.2.src m = s.src m) ∧ (s.busRead who A.INTC_CLAIM).2.2.regs = s.regs) ∧
  (∀ (who : Writer) (s : State), (∀ m, m < 129 → s.src m ≠ .pending) →
    s.busRead who A.INTC_CLAIM = (.ok, 0xFF, s.bump F.INTC_ERR_EMPTY_CLAIM)) ∧
  (∀ (e : ReadEnd) (s : State), s.hostUp = true → s.hostBusy = false → e = .noPec ∨ e = .withPec →
    ∃ t, exec (.claim e) s = .next t ∧
      t.hbus.out.head? = some ((s.busRead .host A.INTC_CLAIM).2.1.setWidth 8) ∧
      t.intc = (s.busRead .host A.INTC_CLAIM).2.2.intc ∧
      t.rd F.INTC_ERR_EMPTY_CLAIM = (s.busRead .host A.INTC_CLAIM).2.2.rd F.INTC_ERR_EMPTY_CLAIM)

/-- INTC_CNTs counts every rising edge of its source's level. A rise of the level of a source below 128 adds one to its
counter, whether the source is enabled or not and whatever its state; so does a completion that finds the level high. The
counter saturates at 255, and a read of it gives its value and clears it. Formalises R441: "INTC_CNTs counts the rising
edges of source s's level, whether or not the source is enabled, and whatever its state." -/
def Obligations.SourceCounters : Prop :=
  (∀ (n : Fin 129) (s : State), n.val < 128 → s.sys.dieHeld = false → s.sourceLevel n = true → s.rawLevel n = false →
    ∃ t, exec (.sourceLevelRise n []) s = .next t ∧ t.rd (F.INTC_CNTs_COUNT n) = min (s.rd (F.INTC_CNTs_COUNT n) + 1) 255) ∧
  (∀ (n : Byte) (e : WriteEnd) (s : State), n.toNat < 128 → s.hostUp = true → s.hostBusy = false →
    (e = .pec (s.writePec [0x31, n]) ∨ (e = .noPec ∧ s.on F.HBUS_CFG_PEC_REQ = false)) →
    s.src n.toNat = .claimed → s.sourceLevel n.toNat = true →
    ∃ t, exec (.complete n e) s = .next t ∧
      t.rd (F.INTC_CNTs_COUNT n.toNat) = min (s.rd (F.INTC_CNTs_COUNT n.toNat) + 1) 255) ∧
  (∀ (n : Nat) (who : Writer) (s : State), n < 128 →
    (s.busRead who (A.INTC_CNTs n)).1 = .ok ∧
    (s.busRead who (A.INTC_CNTs n)).2.1.toNat = s.rd (F.INTC_CNTs_COUNT n) ∧
    (s.busRead who (A.INTC_CNTs n)).2.2.rd (F.INTC_CNTs_COUNT n) = 0)

/-- Reserved bits read 0; free addresses of a block read 0 and ignore writes. Whatever the state, a bit that no field of its
register holds reads 0; an address inside a block that no register occupies reads 0, and neither a read nor a write of it
changes anything. Formalises R10: "Addresses inside a block that no register occupies read as 0x0000_0000 and ignore
writes." -/
def Obligations.ReservedAndFreeReadZero : Prop :=
  (∀ (s : State) (a i : Nat) (g : RegGroup), findReg a = some g → (∀ f ∈ g.fields, i < f.lo ∨ f.lo + f.w ≤ i) →
    (s.viewReg a).getLsbD i = false) ∧
  (∀ (s : State) (who : Writer) (a : Nat) (v : BitVec 32), 0x10000 ≤ a → a < 0x120000 → findReg a = none →
    s.islandStopped a = false → s.busRead who a = (.ok, 0, s) ∧ s.busWrite who a v = (.ok, s))

/-- A host window access that the access rules refuse reads 0, is discarded and is counted. The host reads the boot record,
the staging area and the placement record always and the rest of the windows with open debug access alone; it writes the
staging area always, with open debug access shared SRAM in ROM_DEFAULTS and DRYFIT_DONE and DRAM in ROM_DEFAULTS. Every
other access reads 0, stores nothing and adds one to SYS_XING_ERR.REFUSED. Formalises R29: "A window access that those
rules refuse reads as 0x0000_0000, is discarded if it is a write, and is counted in SYS_XING_ERR.REFUSED." -/
def Obligations.RefusedWindowAccess : Prop :=
  (∀ (s : State) (a : Nat), inSram a = true ∨ inDram a = true →
    ¬ ((0x207EE000 ≤ a ∧ a < 0x20800000) ∨ s.debugOpen = true) →
    s.busRead .host a = (.denied, 0, s.bump F.SYS_XING_ERR_REFUSED)) ∧
  (∀ (s : State) (a : Nat) (v : BitVec 32), inSram a = true ∨ inDram a = true →
    ¬ ((0x207EF000 ≤ a ∧ a < 0x207FF000) ∨ (s.debugOpen = true ∧ (s.boot.state = bootRomDefaults ∨
      (inSram a = true ∧ s.boot.state = bootDryfitDone)))) →
    s.busWrite .host a v = (.denied, s.bump F.SYS_XING_ERR_REFUSED)) ∧
  (∀ (s : State) (a : Nat), inSram a = true ∨ inDram a = true →
    (0x207EE000 ≤ a ∧ a < 0x20800000) ∨ s.debugOpen = true → s.busRead .host a = (.ok, s.memWord (a / 4 * 4), s)) ∧
  (∀ (s : State) (a : Nat) (v : BitVec 32), inSram a = true ∨ inDram a = true →
    (0x207EF000 ≤ a ∧ a < 0x207FF000) ∨ (s.debugOpen = true ∧ (s.boot.state = bootRomDefaults ∨
      (inSram a = true ∧ s.boot.state = bootDryfitDone))) →
    s.busWrite .host a v = (.ok, s.setMemWord (a / 4 * 4) v))

/-- A register write takes each field by its access type. For every register of the tables, every field and every word
written: RW and RWS fields take the bits written; an RWB field takes them before boot lock and stays after it; W1C bits
clear and W1S bits set where a 1 is written; RO, RC and WO fields stay. Reserved bits stay, and no other register changes
but the lock's own count and event. Follows R5, R9, R10. -/
def Obligations.AccessTypes : Prop :=
  ∀ (s : State) (a : Nat) (v : BitVec 32) (g : RegGroup) (f : FieldDesc), findReg a = some g → f ∈ g.fields →
    a ≠ A.SEC_LOCKSTAT → a ≠ A.SEC_EVENT →
    let old := getField (s.reg a) f.lo f.w
    let new := getField v f.lo f.w
    getField ((s.plainWrite a v).reg a) f.lo f.w =
      (match f.acc with
       | .rw | .rws => new
       | .rwb => if s.bootLocked then old else new
       | .w1c => getField (s.reg a &&& ~~~ v) f.lo f.w
       | .w1s => getField (s.reg a ||| v) f.lo f.w
       | .ro | .rc | .wo => old) ∧
    (∀ b, b ≠ a → b ≠ A.SEC_LOCKSTAT → b ≠ A.SEC_EVENT → (s.plainWrite a v).reg b = s.reg b)

/-- After boot lock no register write changes an RWB field. After boot lock a write of a register that holds an RWB field,
by whatever writer, leaves every RWB field as it was. The write is counted exactly where it would have changed one of
them. The other fields take it as they would from a write that carries the same values for them. Formalises R9: "A write
to an RWB field after boot lock leaves the field unchanged." -/
def Obligations.BootLockHoldsFields : Prop :=
  ∀ (s : State) (who : Writer) (a : Nat) (v : BitVec 32) (g : RegGroup), s.bootLocked = true → findReg a = some g →
    (∃ f ∈ g.fields, f.acc = .rwb) →
    (∀ f ∈ g.fields, f.acc = .rwb → getField ((s.writeReg who a v).reg a) f.lo f.w = getField (s.reg a) f.lo f.w) ∧
    ((∃ f ∈ g.fields, f.acc = .rwb ∧ getField v f.lo f.w ≠ getField (s.reg a) f.lo f.w) →
      (s.writeReg who a v).rd F.SEC_LOCKSTAT_IGNORED = min (s.rd F.SEC_LOCKSTAT_IGNORED + 1) 65535) ∧
    ((∀ f ∈ g.fields, f.acc = .rwb → getField v f.lo f.w = getField (s.reg a) f.lo f.w) →
      (s.writeReg who a v).rd F.SEC_LOCKSTAT_IGNORED = s.rd F.SEC_LOCKSTAT_IGNORED) ∧
    (∀ v' : BitVec 32, (∀ f ∈ g.fields, f.acc ≠ .rwb → getField v' f.lo f.w = getField v f.lo f.w) →
      ∀ f ∈ g.fields, f.acc ≠ .rwb →
        getField ((s.writeReg who a v').reg a) f.lo f.w = getField ((s.writeReg who a v).reg a) f.lo f.w)

/-- A word written to a memory window reads back, byte by byte, and nothing else changes. Firmware, which the access rules
let through, writes a word of shared SRAM or DRAM: its four bytes stand at four rising addresses, the least significant
first; the word reads back, and every other byte reads as before, the boot record and the placement record included.
Follows R2, R29. -/
def Obligations.WindowReadsBack : Prop :=
  ∀ (s : State) (a : Nat) (v : BitVec 32), inSram a = true ∨ inDram a = true → a % 4 = 0 →
    (s.busWrite .firmware a v).1 = .ok ∧
    (∀ i, i < 4 → ((s.busWrite .firmware a v).2).memByte (a + i) = (v >>> (8 * i)).setWidth 8) ∧
    (s.busWrite .firmware a v).2.busRead .firmware a = (.ok, v, (s.busWrite .firmware a v).2) ∧
    (∀ b, b < a ∨ a + 4 ≤ b → (s.busWrite .firmware a v).2.memByte b = s.memByte b)

/-- An event joins its queue with the lowest-numbered active rule that matches it. An event that arrives at a running
collector, names no unit that is fenced already and finds room joins one of the two queues at its end. The rule kept with
it is valid, matches it under its mask, and no lower-numbered rule does; where none is kept, no active rule matches. The
other queue, the rules and the registers stay. Follows R391, R392, R399. -/
def Obligations.LowestNumberedRuleApplies : Prop :=
  ∀ (s : State) (e : Evt) (roll : Bool), s.sys.dieHeld = false → e.jig = false → s.evtMasked e = false →
    s.fcol.normal.length < 32 → s.fcol.prio.length < 4 →
    let hit (k : Nat) : Prop := (s.rule k).valid = true ∧ e.id &&& (s.rule k).mask = (s.rule k).id &&& (s.rule k).mask
    ∃ (t : State) (q : QEvt), exec (.fcolEventArrive (some e) roll) s = .next t ∧ q.ev = e ∧
      ((t.fcol.normal = s.fcol.normal ++ [q] ∧ t.fcol.prio = s.fcol.prio) ∨
        (t.fcol.prio = s.fcol.prio ++ [q] ∧ t.fcol.normal = s.fcol.normal)) ∧
      (∀ k, q.rule = some k → k < 128 ∧ hit k ∧ ∀ j, j < k → ¬ hit j) ∧
      (q.rule = none → ∀ k, k < 128 → ¬ hit k) ∧ t.fcol.rules = s.fcol.rules ∧ t.regs = s.regs

/-- A biscuit that the host sends is 16 bytes long, carries its sender and a right CRC. With room in the transmit queue, an
allowed type and a nonzero HOP, SEND appends one biscuit of 16 bytes: the staged TYPE, SEQ and HOP, the ring position as
SRC, the staged DST and payload, and as its last byte the CRC-8 of the fifteen before it. Otherwise SEND queues nothing
and sets BTX_REFUSED. Follows R112, R113, R114, R116. -/
def Obligations.SentBiscuitsAreWellFormed : Prop :=
  ∀ s : State,
    let w := (List.range 4).flatMap (fun k => leBytes 4 (s.reg (A.TRING_BTXk k)).toNat)
    ((s.ring.txq.length < 8 ∧ (u8 w 0 = 3 ∨ u8 w 0 = 4 ∨ 128 ≤ u8 w 0) ∧ u16 w 2 ≠ 0) →
      ∃ t b, exec .biscuitSend s = .next t ∧ t.ring.txq = s.ring.txq ++ [(false, b)] ∧ b.length = 16 ∧
        b.take 4 = w.take 4 ∧ (b.drop 4).take 2 = leBytes 2 s.ringPos ∧ (b.drop 6).take 9 = (w.drop 6).take 9 ∧
        b[15]? = some (crc8 0 (b.take 15)) ∧ t.regs = s.regs) ∧
    (¬ (s.ring.txq.length < 8 ∧ (u8 w 0 = 3 ∨ u8 w 0 = 4 ∨ 128 ≤ u8 w 0) ∧ u16 w 2 ≠ 0) →
      exec .biscuitSend s = .next (s.ev A.TRING_EVENT 18))

/-- A failed attempt is counted, and until its lockout ends every attempt is refused. An attempt that does not match leaves
FAILS one higher and debug access as it was. From then on, for 2^(min(FAILS, 11) - 1) seconds, a password that the
lifecycle allows is not evaluated: the attempt is refused and counted, and debug access stays closed. At 32 failures
PERMANENT is set and every attempt is refused whatever the time. Follows R454, R455, R457, R458. -/
def Obligations.FailedAttemptsLockOut : Prop :=
  (∀ (s : State) (a : Attempt), s.sec.attempt = some a → s.attemptMatches a = false → s.rd F.SEC_ATTEMPT_FAILS < 32 →
    ∃ t, exec .attemptEvaluated s = .next t ∧ t.rd F.SEC_ATTEMPT_FAILS = s.rd F.SEC_ATTEMPT_FAILS + 1 ∧
      t.debugOpen = s.debugOpen ∧ t.sec.attempt = none ∧
      t.sec.lockUntil = s.now + 1000000 * 2 ^ (min (s.rd F.SEC_ATTEMPT_FAILS + 1) 11 - 1) ∧
      (s.rd F.SEC_ATTEMPT_FAILS = 31 → t.rd F.SEC_ATTEMPT_PERMANENT = 1)) ∧
  (∀ (s : State) (b : List Byte), s.sys.dieHeld = false → s.sec.attempt = none → s.debugOpen = false →
    s.otp.lifecycle = 1 → s.otp.pwEn = true → s.now < s.sec.lockUntil ∨ 32 ≤ s.rd F.SEC_ATTEMPT_FAILS →
    ∃ t, exec (.jtagUnlockMailbox (.unlockPw b)) s = .next t ∧ t.sec = s.sec ∧ t.debugOpen = false ∧
      t.rd F.SEC_ATTEMPT_FAILS = s.rd F.SEC_ATTEMPT_FAILS ∧
      t.rd F.SEC_ATTEMPT_REFUSED = min (s.rd F.SEC_ATTEMPT_REFUSED + 1) (2 ^ F.SEC_ATTEMPT_REFUSED.w - 1))

/-- Port commands START, ARM, DISARM, STOP and RESTART, by the port's state. Exact next states (so all else is unchanged).
START in OFF or HALTED records start frame k + 2, while STOPPING it is queued; ARM arms a port in OFF or HALTED; DISARM
takes an armed port to OFF with empty FIFOs; STOP in STARTING or RUNNING enters STOPPING and mutes every enabled slot, in
ARMED, FAULT_WAIT, RESTARTING and HALTED it takes the port to OFF (that ARM and STOP leave HALTED is the command table of
R79 and the model's choice against the state table, log entry 150); RESTART in STARTING or RUNNING enters RESTARTING with
a fault ramp; a command without effect in the port's state is counted and sets event bit 15. Follows R79, R80, R81, R95.
-/
def Obligations.PortCommands : Prop :=
  (∀ (n : Fin 4) (s : State), (s.pState n = pOff ∨ s.pState n = pHalted) → exec (.portStart n) s = .next (s.setPort n { s.port n with startAt := some ((s.rd F.PORT_TBFRAME_COUNT + 2) % 2 ^ 32) })) ∧
  (∀ (n : Fin 4) (s : State), s.pState n = pStopping → exec (.portStart n) s = .next ((s.setPort n { s.port n with queued := some true }).wr
    (F.PORTn_STAT_START_QUEUED n) 1)) ∧
  (∀ (n : Fin 4) (s : State), (s.pState n = pOff ∨ s.pState n = pHalted) → exec (.portArm n) s = .next (s.wr
    (F.PORTn_STAT_STATE n) pArmed)) ∧
  (∀ (n : Fin 4) (s : State), (s.pState n = pArmed ∨ s.pState n = pStarting ∨ s.pState n = pRunning ∨ s.pState n = pFaultWait
    ∨ s.pState n = pRestarting) → exec (.portArm n) s = .next ((s.bump (F.PORTn_CMDCNT_IGNORED n)).ev (A.PORTn_EVENT n) 15)) ∧
  (∀ (n : Fin 4) (s : State), s.pState n = pArmed → (s.port n).queued = none → exec (.portDisarm n) s = .next ((((s.wr
    (F.PORTn_STAT_STATE n) pOff).wr (F.PORTn_STAT_ALIGN_SUSPECT n) 0).setPort n { s.port n with queued := none, startAt := none,
                                                                                                rxFifo := [], txFifo := [],
                                                                                                restart := .none, faultRamp := false,
                                                                                                frameSeen := false, drained := 0,
                                                                                                txSw := [], rxShift := 0,
                                                                                                txShift := 0, sent := [] }).wr
    (F.PORTn_STAT_START_QUEUED n) 0)) ∧
  (∀ (n : Fin 4) (s : State), (s.pState n = pStarting ∨ s.pState n = pRunning) → exec (.portStop n) s = .next (s.portStopping
    n)) ∧
  (∀ (n : Fin 4) (s : State), (s.pState n = pArmed ∨ s.pState n = pFaultWait ∨ s.pState n = pRestarting ∨ s.pState n =
    pHalted) → exec (.portStop n) s = .next (s.portEnterOff n)) ∧
  (∀ (n : Fin 4) (s : State), (s.pState n = pStarting ∨ s.pState n = pRunning) → exec (.portRestart n) s = .next (((s.wr
    (F.PORTn_STAT_STATE n) pRestarting).portFaultRamp n).setPort n { ((s.wr (F.PORTn_STAT_STATE n) pRestarting).portFaultRamp n).port n with restart := .ramping,
                                                                                                                                             restartAuto := false }))

/-- Port configuration, maps, masks and the common start trigger. Exact next states. A PORTn_CFG write is taken only in OFF
and within R67 and R68, and is otherwise refused and counted; a transmit map word that touches no active slot is stored,
one that does is refused; a receive map word that changes no slot that is enabled or still carries data, and whose
contexts are free, is stored, and of the entries that change it unbinds the old and binds the new contexts; one that
changes such a slot is refused; a slot mask waits for the frame boundary, where it becomes active with MASK_FRAME and
event bit 3; the register trigger starts every armed port at frame k + 2. Follows R67, R68, R76, R78, R81, R82, R89. -/
def Obligations.PortConfiguration : Prop :=
  (∀ (n : Fin 4) (v : Word) (s : State), s.pState n = pOff → portCfgOk n v = true → exec (.portCfgWrite n v) s = .next
    ((s.setReg (A.PORTn_CFG n) (v &&& 0x00FEFD33)).portDivider n)) ∧
  (∀ (n : Fin 4) (v : Word) (s : State), (s.pState n ≠ pOff ∨ portCfgOk n v = false) → exec (.portCfgWrite n v) s = .next
    (s.bump (F.PORTn_CMDCNT_CFG_REFUSED n))) ∧
  (∀ (n k : Fin 4) (v : Word) (s : State), mapTouchesActive (s.reg (A.PORTn_TXMAPk n k)) v (s.rd (F.PORTn_SLOTMASK_ACT_TX n))
    k = false → exec (.portMapWrite n true k v) s = .next (s.setReg (A.PORTn_TXMAPk n k) v)) ∧
  (∀ (n k : Fin 4) (v : Word) (s : State), mapTouchesActive (s.reg (A.PORTn_RXMAPk n k)) v (s.rxFast n) k = false →
    s.rxDuplicate (A.PORTn_RXMAPk n k) v = false → exec (.portMapWrite n false k v) s = .next (((s.setReg (A.PORTn_RXMAPk n k)
    v).forEach (boundCtxs (((List.range 4).filter (fun j => decide (mapEntry (s.reg (A.PORTn_RXMAPk n k)) j ≠ mapEntry v
    j))).map (mapEntry (s.reg (A.PORTn_RXMAPk n k))))) (fun c t => t.ctxUnbind c)).forEach ((List.range 4).filter (fun j =>
    decide (mapEntry (s.reg (A.PORTn_RXMAPk n k)) j ≠ mapEntry v j))) (fun j t => if 128 ≤ mapEntry v j then t.ctxBind
    (mapEntry v j - 128) 1 (16 * n.val + (4 * k.val + j)) else t))) ∧
  (∀ (n : Fin 4) (tx : Bool) (k : Fin 4) (v : Word) (s : State), mapTouchesActive (s.reg (if tx then A.PORTn_TXMAPk n k else
    A.PORTn_RXMAPk n k)) v (if tx then s.rd (F.PORTn_SLOTMASK_ACT_TX n) else s.rxFast n) k = true → exec (.portMapWrite n tx k
    v) s = .next (s.bump (F.PORTn_CMDCNT_CFG_REFUSED n))) ∧
  (∀ (n : Fin 4) (v : Word) (late : Bool) (s : State), exec (.portSlotmaskWrite n v late) s = .next ((s.setReg
    (A.PORTn_SLOTMASK n) v).setPort n { s.port n with maskPending := true, maskDefer := late && decide (s.rd (F.PORTn_CFG_MODE n) ≠ 3) })) ∧
  (∀ (n : Fin 4) (s : State), (s.port n).maskPending = true → (s.port n).maskDefer = false → (s.pState n = pStarting ∨
    s.pState n = pStopping) → exec (.portMaskApply n) s = .next (((((s.setReg (A.PORTn_SLOTMASK_ACT n) (s.reg
    (A.PORTn_SLOTMASK n))).wr (F.PORTn_MASK_FRAME_VALUE n) (s.rd (F.PORTn_FRAMECNT_VALUE n) + 1)).ev (A.PORTn_EVENT n)
    3)).setPort n { s.port n with maskPending := false, maskDefer := false })) ∧
  (∀ (n : Fin 4) (s : State), (s.pState n = pOff ∨ s.pState n = pArmed) → exec (.portMaskApply n) s = .next (s)) ∧
  (∀ (s : State), s.rd F.PORT_GSTART_SRC = 0 → s.on F.TRING_CFG_START_TX = false → exec .portGstartFire s = .next ((s.wr
    F.PORT_GSTART_FRAME_S ((s.rd F.PORT_TBFRAME_COUNT + 2) % 2 ^ 32)).forAll 4 (fun n t => if t.pState n = pArmed then
    t.setPort n { t.port n with startAt := some ((s.rd F.PORT_TBFRAME_COUNT + 2) % 2 ^ 32) } else t))) ∧
  (∀ (s : State), s.sys.dieHeld = false → s.rd F.PORT_GSTART_SRC = 1 → s.on F.TRING_CFG_SYNC_TX = false → s.on
    F.DECIM_SYNC_PIN_EN = false → exec .syncPinEdge s = .next (s.localTrigger.traceSync))

/-- Ports start, reach RUNNING, stop, resume and restart. Exact next states. At start frame S the port enters STARTING with
empty FIFOs and frame count 0; a ready port in STARTING enters RUNNING, sets STARTED and switches its slots in; a slave
port without a frame start takes a clock fault; a stopping port whose mutes are complete and whose transmit FIFO is empty,
or that has waited 8 frames, enters OFF and sets STOPPED; after RESUME_FRAMES clean frames a port in FAULT_WAIT starts
afresh; after its ramp a muted restart captures again. Follows R79, R80, R81, R88, R92, R93, R95. -/
def Obligations.PortRunning : Prop :=
  (∀ (n : Fin 4) (f : Nat) (s : State), (s.port n).startAt = some f → (s.port n).maskPending = false → exec (.portStartFrame
    n) s = .next (((s.wr (F.PORTn_STAT_STATE n) pStarting).setReg (A.PORTn_FRAMECNT n) 0).setPort n { s.port n with startAt := none,
                                                                                                                    rxFifo := [],
                                                                                                                    txFifo := [],
                                                                                                                    prevFrame := [],
                                                                                                                    lastRead := [],
                                                                                                                    faultRamp := false,
                                                                                                                    frameSeen := false,
                                                                                                                    restart := .none,
                                                                                                                    glitches := [],
                                                                                                                    cleanRun := 0,
                                                                                                                    rxShift := 0,
                                                                                                                    txShift := 0,
                                                                                                                    txLast := [],
                                                                                                                    sent := [],
                                                                                                                    startPos := 0,
                                                                                                                    firstAt := none })) ∧
  (∀ (n : Fin 4) (s : State), s.pState n = pStarting → s.portReady n = true → exec (.portRunningReached n) s = .next
    ((((((s.wr (F.PORTn_STAT_STATE n) pRunning).ev (A.PORTn_EVENT n) 0).setPort n { s.port n with restart := .none, faultRamp := false }).portPlace
    n).portRxIn n).portTxIn n)) ∧
  (∀ (n : Fin 4) (s : State), s.pState n = pStarting → s.portMaster n = false → (s.port n).frameSeen = false → exec
    (.portStartTimeout n) s = .next (((s.portClockFault n).ev (A.PORTn_EVENT n) 4).bump (F.PORTn_ERRCNT_CLKLOSS n))) ∧
  (∀ (n : Fin 4) (s : State), s.pState n = pStopping → s.portDrained n = true → exec (.portStopDrainDone n) s = .next
    ((s.portEnterOff n).ev (A.PORTn_EVENT n) 1)) ∧
  (∀ (n : Fin 4) (s : State), s.pState n = pFaultWait → (s.portPol n).resumeFrames ≤ (s.port n).cleanRun → (s.portPol
    n).clockAction ≠ 1 → (s.portAuto n).2 = false → exec (.portResume n) s = .next ((((((s.portAuto n).1.wr
    (F.PORTn_STAT_STATE n) pStarting).setReg (A.PORTn_FRAMECNT n) 0).ev (A.PORTn_EVENT n) 2)).setPort n { ((((s.portAuto n).1.wr (F.PORTn_STAT_STATE n) pStarting).setReg (A.PORTn_FRAMECNT n) 0).ev (A.PORTn_EVENT n) 2).port n with rxFifo := [],
                                                                                                                                                                                                                                      txFifo := [],
                                                                                                                                                                                                                                      glitches := [],
                                                                                                                                                                                                                                      frameSeen := true,
                                                                                                                                                                                                                                      faultRamp := false,
                                                                                                                                                                                                                                      firstAt := none })) ∧
  (∀ (n : Fin 4) (s : State), s.pState n = pFaultWait → (s.portPol n).resumeFrames ≤ (s.port n).cleanRun → (s.portPol
    n).clockAction = 1 → exec (.portResume n) s = .next ((s.wr (F.PORTn_STAT_STATE n) pHalted).ev (A.PORTn_EVENT n) 7)) ∧
  (∀ (n : Fin 4) (s : State), s.pState n = pRestarting → (s.port n).restart = .ramping → exec (.portRestartCapture n) s =
    .next (s.setPort n { s.port n with rxFifo := [], txFifo := [], rxShift := 0, txShift := 0 } |>.setPort n { s.port n with rxFifo := [],
                                                                                                                             txFifo := [],
                                                                                                                             rxShift := 0,
                                                                                                                             txShift := 0,
                                                                                                                             restart := .capturing,
                                                                                                                             frameSeen := true }))

/-- Port frames, slips, clock faults, overruns and IEC blocks. Exact next states. A frame at a running port advances
FRAMECNT, counts the IEC flags, enters the measurement and the FIFOs; a foreign receive FIFO at 6 frames drops its newest,
at 2 repeats the last frame read, and each slip is counted; a slave port that loses its clock or leaves its rate waits in
FAULT_WAIT; an overrun or underrun outside a fault ramp is counted and flagged; IEC lock and channel status follow R72 to
R75. Follows R73, R74, R75, R84, R91, R92, R94. -/
def Obligations.PortFramesAndFaults : Prop :=
  (∀ (n : Fin 4) (f : PortFrame) (s : State), s.pState n = pRunning → s.isGlitch n f = false → exec (.portRxFrame n f) s =
    .next ((fun t : State => if t.pState n = pFaultWait then t else t.frameData n f false) (((s.bumpWrap
    (F.PORTn_FRAMECNT_VALUE n)).iecCounts n f).measure n f false))) ∧
  (∀ (n : Fin 4) (f : PortFrame) (s : State), s.pState n = pRunning → s.isGlitch n f = true → exec (.portRxFrame n f) s =
    .next ((fun t : State => if t.pState n = pFaultWait then t else t.frameData n f true) ((((s.bumpWrap
    (F.PORTn_FRAMECNT_VALUE n)).iecCounts n f).measure n f true).glitchFrame n))) ∧
  (∀ (n : Fin 4) (s : State), s.portForeign n = true → 6 ≤ (s.port n).rxFifo.length → exec (.portSlip n false) s = .next
    ((s.setPort n { s.port n with rxFifo := (s.port n).rxFifo.dropLast }).slipCount n false)) ∧
  (∀ (n : Fin 4) (s : State), s.portForeign n = true → (s.port n).rxFifo.length ≤ 2 → exec (.portSlip n false) s = .next
    ((s.setPort n { s.port n with rxFifo := (s.port n).lastRead :: (s.port n).rxFifo }).slipCount n true)) ∧
  (∀ (n : Fin 4) (s : State), s.portForeign n = true → 6 ≤ (s.port n).txFifo.length → exec (.portSlip n true) s = .next
    ((s.setPort n { s.port n with txFifo := (s.port n).txFifo.dropLast }).slipCount n false)) ∧
  (∀ (n : Fin 4) (s : State), s.portMaster n = false → s.portWatched n = true → n.val ≠ 3 → exec (.clkLoss n) s = .next
    ((((s.portClockFault n).ev (A.PORTn_EVENT n) 4).bump (F.PORTn_ERRCNT_CLKLOSS n)).wr (F.PORTn_STAT_CLK_PRESENT n) 0)) ∧
  (∀ (n : Fin 4) (s : State), s.portMaster n = false → s.portWatched n = false → n.val ≠ 3 → exec (.clkLoss n) s = .next (s.wr
    (F.PORTn_STAT_CLK_PRESENT n) 0)) ∧
  (∀ (n : Fin 4) (period : BitVec 24) (s : State), periodWithin period.toNat (faHz (s.rd (F.PORTn_CFG_FA n))) 1000 = false →
    (s.wr (F.PORTn_STAT_RATE_OK n) 0).portWatched n = true → exec (.rateFault n period) s = .next ((((s.wr
    (F.PORTn_STAT_RATE_OK n) 0).portClockFault n).ev (A.PORTn_EVENT n) 6).bump (F.PORTn_ERRCNT_CLKLOSS n))) ∧
  (∀ (n : Fin 4) (tx overrun : Bool) (s : State), (s.port n).faultRamp = false → s.rd (F.PORTn_CFG_MODE n) ≠ 1 → exec
    (.portOverrunUnderrun n tx overrun) s = .next (if overrun then (s.bump (F.PORTn_ERRCNT_OVERRUN n)).ev (A.PORTn_EVENT n) 8
    else (s.bump (F.PORTn_ERRCNT_UNDERRUN n)).ev (A.PORTn_EVENT n) 9)) ∧
  (∀ (s : State), s.rd (F.PORTn_CFG_MODE 3) = 3 → s.on F.PORT3_IEC_CFG_DIR = false → exec (.iecLock 192 true) s = .next (s.wr
    F.PORT3_IEC_STAT_LOCK 1)) ∧
  (∀ (csA csB : BitVec 192) (s : State), (s.port 3).csPrev = some csA → s.csBits (A.PORT3_CS_RXk 0) ≠ csA → exec (.iecBlockEnd
    csA csB) s = .next ((((((s.setPort 3 { s.port 3 with csPrev := some csA }).wrB F.PORT3_IEC_STAT_CS_AB_DIFF (csA !=
    csB)).forAll 6 (fun k t => t.setReg (A.PORT3_CS_RXk k) (csWord csA k))).wrB F.PORT3_IEC_STAT_PRO (csA.getLsbD 0)).wrB
    F.PORT3_IEC_STAT_NONAUDIO (csA.getLsbD 1 && !csA.getLsbD 0)).ev (A.PORTn_EVENT 3) 13)) ∧
  (∀ (s : State), exec .iecTxBlockStart s = .next (s.setPort 3 { s.port 3 with csTx := s.csBits (A.PORT3_CS_TXk 0) }))

/-- RING_FRAME_EMIT: what a master, a candidate and a break head send. Where the digital die runs, a master that is not in
OFF or HALTED sends a sealed header with POS and ACC 0, the ring length, its alignment and the ring index of the sample
its own timebase reaches d periods later, its own slots in the first pass, and right CRC-32 of both areas; the index joins
the 2d + 1 kept, the timebase goes on by one sample, the biscuits of the frame leave and a new frame of biscuit slots
begins. A candidate sends its 64-bit UID with ELECT, length 0 and the empty areas of the layout. A break head that is no
master sends BREAK without RUN, its position in RLEN, and empty areas. A device that is held or in standby sends nothing;
neither does a device in OFF or HALTED that is no candidate, nor one that is none of the three. Follows R100, R101, R103,
R104, R107, R108, R109, R113, R118. -/
def Obligations.RingEmission : Prop :=
  (∀ (s : State), s.ringUp = true → s.ring.candidate = false → s.ringMaster = true → s.ringState ≠ rOff → s.ringState ≠
    rHalted → (exec .ringFrameEmit s = .next ((fun t : State => { t with ring := { t.ring with phase := t.ring.phase + 1,
                                                                                               relay := t.ring.relay.filter (fun e => !reached s.masterJ e.1),
                                                                                               emitted := (s.masterJ :: t.ring.emitted).take (2 * s.rd F.TRING_CFG_ALIGN + 1) } })
    (State.slotsDue { s with ring := { s.ring with sent := some s.masterFrame, inserted := 0, sentBiscuits := s.ring.slots,
                                                   slots := [] } } s.ownerIndex))) ∧ s.masterFrame.header.j = BitVec.ofNat 32
    (32 * s.rd F.PORT_TBFRAME_COUNT + s.ring.phase + s.rd F.TRING_CFG_ALIGN) ∧ s.masterFrame.header.pos = 0 ∧
    s.masterFrame.header.acc = 0 ∧ s.masterFrame.header.rlen = BitVec.ofNat 16 (s.rd F.TRING_TOPO_RLEN) ∧
    s.masterFrame.header.align = BitVec.ofNat 8 (s.rd F.TRING_CFG_ALIGN) ∧ s.masterFrame.first = s.writeSlots [] ∧
    s.masterFrame.firstCrc = crc32 (wordBytes s.masterFrame.first) ∧ s.masterFrame.secondCrc = crc32 (wordBytes
    s.masterFrame.second) ∧ ringHdrOk s.masterFrame.header = true) ∧
  (∀ (s : State), s.ringUp = true → s.ring.candidate = true → ∃ t, exec .ringFrameEmit s = .next t ∧ (∃ fr, t.ring.sent = some
    fr ∧ ringHdrElect fr.header = true ∧ ringHdrOk fr.header = true ∧ fr.header.rlen = 0 ∧ fr.header.j = s.otp.uidLo ∧
    fr.first = List.replicate s.ringSlots 0 ∧ fr.second = List.replicate s.ringSlots 0) ∧ t = { s with ring := { s.ring with sent := t.ring.sent,
                                                                                                                             inserted := 0,
                                                                                                                             sentBiscuits := s.ring.slots,
                                                                                                                             slots := [] } }) ∧
  (∀ (s : State), s.ringUp = true → s.ring.candidate = false → s.ringMaster = false → s.ring.breakHead = true → s.ringState ≠
    rOff → s.ringState ≠ rHalted → ∃ t, exec .ringFrameEmit s = .next t ∧ (∃ fr, t.ring.sent = some fr ∧ fr.header.pos =
    BitVec.ofNat 16 s.ringPos ∧ fr.header.rlen = BitVec.ofNat 16 s.ringPos ∧ fr.header.ctrl = ringCtrl s.faCode true false
    false ∧ fr.first = List.replicate s.ringSlots 0 ∧ fr.second = List.replicate s.ringSlots 0 ∧ ringHdrOk fr.header = true) ∧
    t = { s with freeCount := s.freeCount + 2, ring := { s.ring with sent := t.ring.sent, inserted := 0, sentBiscuits := s.ring.slots,
                                                                     slots := [] } }) ∧
  (∀ (s : State), (s.ringUp = false ∨ (s.ring.candidate = false ∧ (s.ringState = rOff ∨ s.ringState = rHalted ∨ (s.ringMaster
    = false ∧ s.ring.breakHead = false)))) → exec .ringFrameEmit s = .next (s))

/-- RING_FRAME_RX: frames that a device did not emit. In PASS and every other state but OFF and HALTED. An election frame is
discarded by a master and by a device of role master, forwarded by a device that is no candidate; a candidate withdraws
before a lower UID and forwards from then on, counts its own frame, and starts its count afresh at any other. A member
takes a usable header; at a bad one it counts a CRC failure and its timebase goes on by one sample; in both cases it takes
the areas unless the frame tells a break, and forwards. A candidate withdraws at a normal frame. A master that receives a
normal frame it did not emit reports CONFLICT and halts; a BREAK frame degrades it instead, and a bad header is counted. A
device that is held, in OFF or in HALTED takes nothing. Follows R101, R104, R107, R108, R109, R117, R118, R121. -/
def Obligations.RingReception : Prop :=
  (∀ (f : RingFrame) (codeErrs delay : Nat) (s : State), s.ringUp = true → s.ringState ≠ rOff → s.ringState ≠ rHalted →
    ringHdrOk f.header = true → ringHdrElect f.header = true → (s.rd F.TRING_CFG_ROLE = 1 ∨ s.ringMaster = true) → exec
    (.ringFrameRx f codeErrs delay) s = .next (s.ringCodeErrs codeErrs)) ∧
  (∀ (f : RingFrame) (codeErrs delay : Nat) (s : State), s.ringUp = true → s.ringState ≠ rOff → s.ringState ≠ rHalted →
    ringHdrOk f.header = true → ringHdrElect f.header = true → s.rd F.TRING_CFG_ROLE ≠ 1 → s.ringMaster = false →
    s.ring.candidate = false → exec (.ringFrameRx f codeErrs delay) s = .next ((fun t : State => { t with ring := { t.ring with sent := some f,
                                                                                                                                inserted := 0,
                                                                                                                                sentBiscuits := t.ring.slots,
                                                                                                                                slots := [] } })
    (s.ringCodeErrs codeErrs))) ∧
  (∀ (f : RingFrame) (codeErrs delay : Nat) (s : State), s.ringUp = true → s.ringState ≠ rOff → s.ringState ≠ rHalted →
    ringHdrOk f.header = true → ringHdrElect f.header = true → s.rd F.TRING_CFG_ROLE ≠ 1 → s.ringMaster = false →
    s.ring.candidate = true → exec (.ringFrameRx f codeErrs delay) s = .next (if ofLe (leBytes 4 f.header.j.toNat ++ leBytes 2
    f.header.pos.toNat ++ leBytes 2 f.header.acc.toNat) < s.otp.uidLo.toNat + 2 ^ 32 * s.otp.uidHi.toNat then (s.ringCodeErrs
    codeErrs).withdraw else if ofLe (leBytes 4 f.header.j.toNat ++ leBytes 2 f.header.pos.toNat ++ leBytes 2
    f.header.acc.toNat) = s.otp.uidLo.toNat + 2 ^ 32 * s.otp.uidHi.toNat then { s.ringCodeErrs codeErrs with ring := { s.ring with returns := s.ring.returns + 1 } }
    else { s.ringCodeErrs codeErrs with ring := { s.ring with returns := 0 } })) ∧
  (∀ (f : RingFrame) (codeErrs delay : Nat) (s : State), s.ringUp = true → s.ringState ≠ rOff → s.ringState ≠ rHalted →
    ringHdrOk f.header = true → ringHdrElect f.header = false → s.ringMaster = false → s.ring.candidate = false → exec
    (.ringFrameRx f codeErrs delay) s = .next ((fun t : State => (if f.header.ctrl.getLsbD 3 then t else t.takeAreas f
    (t.ring.run && !t.ring.breakHead) (t.on F.TRING_STAT_SECOND_VALID)).forwardFrame f delay) ((fun t : State => { t with ring := { t.ring with cleanRun := if codeErrs = 0 ∧ areaOk f.first f.firstCrc = true ∧ areaOk f.second f.secondCrc = true then t.ring.cleanRun + 1 else 0 } })
    ((s.ringCodeErrs codeErrs).takeHeader f.header)))) ∧
  (∀ (f : RingFrame) (codeErrs delay : Nat) (s : State), s.ringUp = true → s.ringState ≠ rOff → s.ringState ≠ rHalted →
    ringHdrOk f.header = false → s.ringMaster = false → s.ring.candidate = false → exec (.ringFrameRx f codeErrs delay) s =
    .next ((fun t : State => (t.takeAreas f (t.ring.run && !t.ring.breakHead) (t.on F.TRING_STAT_SECOND_VALID)).forwardFrame f
    delay) ((fun t : State => { t with ring := { t.ring with cleanRun := 0 } }) ((s.ringCodeErrs codeErrs).ringCrcErr.ringTick
    ((s.ring.j + 1) % 2 ^ 32))))) ∧
  (∀ (f : RingFrame) (codeErrs delay : Nat) (s : State), s.ringUp = true → s.ringState ≠ rOff → s.ringState ≠ rHalted →
    ringHdrOk f.header = true → ringHdrElect f.header = false → f.header.ctrl.getLsbD 3 = false → s.ringMaster = false →
    s.ring.candidate = true → exec (.ringFrameRx f codeErrs delay) s = .next ((fun t : State => { t with ring := { t.ring with candidate := false,
                                                                                                                               returns := 0 } })
    ((s.ringCodeErrs codeErrs).ringGoto rLocking))) ∧
  (∀ (f : RingFrame) (codeErrs delay : Nat) (s : State), s.ringUp = true → s.ringState ≠ rOff → s.ringState ≠ rHalted →
    (ringHdrOk f.header && ringHdrElect f.header) = false → s.ringMaster = true → exec (.ringFrameRx f codeErrs delay) s =
    .next (if ringHdrOk f.header = false then (s.ringCodeErrs codeErrs).ringCrcErr else if f.header.ctrl.getLsbD 3 = true then
    (s.ringCodeErrs codeErrs).breakSeen f.header else if s.ring.emitted.contains f.header.j.toNat = true then s.ringCodeErrs
    codeErrs else ((s.ringCodeErrs codeErrs).ev A.TRING_EVENT 26).ringGoto rHalted)) ∧
  (∀ (f : RingFrame) (codeErrs delay : Nat) (s : State), (s.ringUp = false ∨ s.ringState = rOff ∨ s.ringState = rHalted) →
    exec (.ringFrameRx f codeErrs delay) s = .next (s))

/-- RING_FRAME_RETURN, RING_BREAK and RING_BREAK_RESUME: what a master, a member and a break head do. A normal frame of the
master's own that returns gives the round trip, LOCK and, until the ring has run, the ring length; RUN holds where the
round trip with 1 microsecond more fits d sample periods, the expected length is met and the timing source is locked, and
the ring enters RUNNING or leaves it by RUN; the first pass is relayed and taken. A bad header is counted, a normal frame
the master did not emit halts it with CONFLICT, a BREAK frame records the head's position, degrades it and loses its
slots. A break declared by a receiver is counted, flagged and unlocks it; a master records position 0, enters DEGRADED,
relays no more and loses its slots; another device becomes break head unless it stands in ELECT. After RESUME_FRAMES
frames a degraded master goes back to RUNNING with RESTORED, and a break head forwards again; before, nothing changes.
Follows R104, R105, R108, R109, R110, R117, R118, R119. -/
def Obligations.RingReturnsAndBreaks : Prop :=
  (∀ (f : RingFrame) (codeErrs rtt : Nat) (s : State), s.ringUp = true → s.ringMaster = true → s.ringState ≠ rOff →
    s.ringState ≠ rHalted → ringHdrOk f.header = true → s.ring.emitted.contains f.header.j.toNat = true →
    f.header.ctrl.getLsbD 3 = false → (exec (.ringFrameReturn f codeErrs rtt) s = .next ((((s.ringCodeErrs
    codeErrs).masterHeader f.header rtt).masterState).masterArea f rtt)) ∧ ((s.ringCodeErrs codeErrs).masterHeader f.header
    rtt).rd F.TRING_STAT_LOCK = 1 ∧ ((s.ringCodeErrs codeErrs).masterHeader f.header rtt).rd F.TRING_DELAY_RTT = min 65535 rtt
    ∧ (((s.ringCodeErrs codeErrs).masterHeader f.header rtt).ring.run = true → ringFits rtt ((s.ringCodeErrs codeErrs).rd
    F.TRING_CFG_ALIGN) (s.ringCodeErrs codeErrs).faCode = true) ∧ ((s.ringCodeErrs codeErrs).masterHeader f.header
    rtt).ring.cleanRun = s.ring.cleanRun + 1) ∧
  (∀ (f : RingFrame) (codeErrs rtt : Nat) (s : State), s.ringUp = true → s.ringMaster = true → s.ringState ≠ rOff →
    s.ringState ≠ rHalted → exec (.ringFrameReturn f codeErrs rtt) s = .next (if ringHdrOk f.header = false then
    (s.ringCodeErrs codeErrs).ringCrcErr else if f.header.ctrl.getLsbD 3 = true then (s.ringCodeErrs codeErrs).breakSeen
    f.header else if s.ring.emitted.contains f.header.j.toNat = false then ((s.ringCodeErrs codeErrs).ev A.TRING_EVENT
    26).ringGoto rHalted else (((s.ringCodeErrs codeErrs).masterHeader f.header rtt).masterState).masterArea f rtt)) ∧
  (∀ (noSignal : Bool) (codeErrs : Nat) (s : State), s.ringUp = true → s.ringMaster = true → s.ringState ≠ rOff → s.ringState
    ≠ rHalted → exec (.ringBreak noSignal codeErrs) s = .next (State.slotsLost ((fun t : State => { t with ring := { t.ring with relay := [] } })
    (((((fun t : State => { t with ring := { t.ring with cleanRun := 0 } }) ((((s.ringCodeErrs codeErrs).bump
    F.TRING_ERRCNT_BREAKS).ev A.TRING_EVENT 4).wr F.TRING_STAT_LOCK 0)).wr F.TRING_TOPO_BREAK_POS 0)).ringGoto rDegraded)))) ∧
  (∀ (noSignal : Bool) (codeErrs : Nat) (s : State), s.ringUp = true → s.ringMaster = false → s.ringState ≠ rOff → s.ringState
    ≠ rHalted → exec (.ringBreak noSignal codeErrs) s = .next ((fun t : State => if s.ringState = rElect then t else
    t.becomeHead) ((fun t : State => { t with ring := { t.ring with cleanRun := 0 } }) ((((s.ringCodeErrs codeErrs).bump
    F.TRING_ERRCNT_BREAKS).ev A.TRING_EVENT 4).wr F.TRING_STAT_LOCK 0)))) ∧
  (∀ (s : State), s.ringUp = true → s.ringResume ≤ s.ring.cleanRun → s.ringMaster = true → s.ringState = rDegraded → exec
    .ringBreakResume s = .next (((s.wr F.TRING_TOPO_BREAK_POS 0xFFFF).ringGoto rRunning).ev A.TRING_EVENT 5)) ∧
  (∀ (s : State), s.ringUp = true → s.ringResume ≤ s.ring.cleanRun → s.ringMaster = false → s.ring.breakHead = true →
    s.ringState = rDegraded → exec .ringBreakResume s = .next ((({ s with ring := { s.ring with breakHead := false } } :
    State).wr F.TRING_TOPO_BREAK_POS 0xFFFF).ringGoto rLocking)) ∧
  (∀ (s : State), s.ring.cleanRun < s.ringResume → exec .ringBreakResume s = .next (s))

/-- Ring election, START and STOP, configuration and maps. Exact next states. A device of role auto without a master becomes
a candidate; after 64 own election frames in a row it is master at position 0 and locks; an election without a master
after 100 ms sets event bit 27 and restarts; START brings a device in OFF, PASS or HALTED with a role to LOCKING, as
master at position 0 where it is the configured one, or to ELECT; STOP brings a running master to OFF and any other
running device to PASS, and leaves OFF and HALTED as they are; TRING_CFG is written in OFF, PASS and HALTED with an
alignment of 1 to 32 frames and refused else; a map word that names no foreign slot and no bound context waits for the
frame boundary. Follows R106, R107, R111, R120. -/
def Obligations.RingElectionAndControl : Prop :=
  (∀ (s : State), s.ringUp = true → s.rd F.TRING_CFG_ROLE = 3 → s.ringMaster = false → (s.ringState = rElect ∨ s.ringState =
    rLocking ∨ s.ringState = rRunning ∨ s.ringState = rDegraded) → exec .electCandidate s = .next ((fun t : State => { t with ring := { t.ring with candidate := true,
                                                                                                                                                    returns := 0,
                                                                                                                                                    breakHead := false } })
    (s.ringGoto rElect))) ∧
  (∀ (s : State), s.ring.candidate = true → 64 ≤ s.ring.returns → exec .elected s = .next ((fun t : State => { t with ring := { t.ring with candidate := false,
                                                                                                                                            returns := 0 } })
    ((((s.wr F.TRING_STAT_MASTER 1).wr F.TRING_STAT_POSITION 0).ringGoto rLocking).ev A.TRING_EVENT 28))) ∧
  (∀ (s : State), s.ringMaster = false → exec .electTimeout s = .next ({ s.ev A.TRING_EVENT 27 with ring := { s.ring with returns := 0 } })) ∧
  (∀ (s : State), (s.ringState = rOff ∨ s.ringState = rPass ∨ s.ringState = rHalted) → s.rd F.TRING_CFG_ROLE ≠ 0 → exec
    .ringStart s = .next ((fun t : State => ({ t with ring := { t.ring with emitted := [], relay := [], candidate := false,
                                                                            breakHead := false, run := false } } :
    State).ringGoto (if s.rd F.TRING_CFG_ROLE = 3 then rElect else rLocking)) (if s.rd F.TRING_CFG_ROLE = 1 then (s.wr
    F.TRING_STAT_MASTER 1).wr F.TRING_STAT_POSITION 0 else s.wr F.TRING_STAT_MASTER 0))) ∧
  (∀ (s : State), s.ringMaster = true → s.ringState ≠ rOff → s.ringState ≠ rHalted → exec .ringStop s = .next ((fun t : State
    => { t with ring := { t.ring with candidate := false, breakHead := false, run := false, relay := [] } }) ((s.wr
    F.TRING_STAT_MASTER 0).ringGoto rOff))) ∧
  (∀ (s : State), s.ringMaster = false → s.ringState ≠ rOff → s.ringState ≠ rHalted → exec .ringStop s = .next ((fun t : State
    => { t with ring := { t.ring with candidate := false, breakHead := false, run := false, relay := [] } }) (s.ringGoto
    rPass))) ∧
  (∀ (s : State), (s.ringState = rOff ∨ s.ringState = rHalted) → exec .ringStop s = .next (s)) ∧
  (∀ (v : Word) (s : State), (s.ringState = rOff ∨ s.ringState = rPass ∨ s.ringState = rHalted) → 1 ≤ getField v 8 6 →
    getField v 8 6 ≤ 32 → exec (.tringCfgWrite v) s = .next (s.setReg A.TRING_CFG (v &&& 0x00073F03))) ∧
  (∀ (v : Word) (s : State), (s.ringState = rElect ∨ s.ringState = rLocking ∨ s.ringState = rRunning ∨ s.ringState =
    rDegraded) → exec (.tringCfgWrite v) s = .next (s.bump F.TRING_ERRCNT_CFG_REFUSED)) ∧
  (∀ (tx : Bool) (k : Fin 16) (v : Word) (s : State), s.ringState ≠ rRunning → s.ringState ≠ rDegraded → (tx && (List.range
    4).any (fun j => decide (128 ≤ mapEntry v j) && !s.ownsSlot (4 * k.val + j))) = false → (!tx && s.rxDuplicate (if tx then
    A.TRING_TXMAPk k else A.TRING_RXMAPk k) v) = false → exec (.tringMapWrite tx k v) s = .next ({ s with ring := { s.ring with mapDue := s.ring.mapDue.filter (fun p => p.1 != (if tx then A.TRING_TXMAPk k else A.TRING_RXMAPk k)) ++ [((if tx then A.TRING_TXMAPk k else A.TRING_RXMAPk k), v)] } }))

/-- Biscuits: reception, insertion, START, SYNC, remote register access, host queues. A received biscuit with a bad check
byte is counted and its slot passes empty; one of the device's own that comes back leaves the link, counted as undelivered
unless it is a broadcast; one at its last hop is taken, in PASS counted as bad; one with hops left passes with one hop
less and a new check byte; a broadcast is consumed and passed on; the first admissible biscuit of the queue leaves in an
empty slot (event bit 16 at every insertion is the model's choice, log entry 157); a START in time triggers the armed
ports, a SYNC in time requests a decimator reset, late ones are counted; a refused remote access is answered with status
1; a received HOST biscuit joins the queue of 16 or is dropped and counted; SEND queues the staged biscuit with source and
check byte filled in; POP discards the head. Follows R112, R113, R114, R115, R116, R282, R411. -/
def Obligations.Biscuits : Prop :=
  (∀ (slot : Fin 8) (bytes : List Byte) (s : State), s.ringState ≠ rOff → s.ringState ≠ rHalted → s.ringUp = true → (slice
    bytes 0 16).all (fun x => x == 0) = false → crc8 0 ((slice bytes 0 16).take 15) ≠ (slice bytes 0 16).getD 15 0 → exec
    (.biscuitRx slot bytes) s = .next ((s.setBiscuitSlot slot []).bump F.TRING_BCNT_BAD)) ∧
  (∀ (slot : Fin 8) (bytes : List Byte) (s : State), s.ringState ≠ rOff → s.ringState ≠ rHalted → s.ringUp = true → s.busUp =
    true → crc8 0 ((slice bytes 0 16).take 15) = (slice bytes 0 16).getD 15 0 → u16 (slice bytes 0 16) 4 ≠ s.ringPos → u16
    (slice bytes 0 16) 2 = 0xFFFF → (slice bytes 0 16).all (fun x => x == 0) = false → exec (.biscuitRx slot bytes) s = .next
    (((s.setBiscuitSlot slot []).setBiscuitSlot slot (slice bytes 0 16)).biscuitConsume (slice bytes 0 16))) ∧
  (∀ (slot : Fin 8) (bytes : List Byte) (s : State), s.ringState ≠ rOff → s.ringState ≠ rHalted → s.ringUp = true → crc8 0
    ((slice bytes 0 16).take 15) = (slice bytes 0 16).getD 15 0 → (slice bytes 0 16).all (fun x => x == 0) = false → u16
    (slice bytes 0 16) 4 = s.ringPos → exec (.biscuitRx slot bytes) s = .next (if u16 (slice bytes 0 16) 2 = 0xFFFF then
    s.setBiscuitSlot slot [] else ((s.setBiscuitSlot slot []).bump F.TRING_BCNT_UNDELIVERED).ev A.TRING_EVENT 17)) ∧
  (∀ (slot : Fin 8) (bytes : List Byte) (s : State), s.ringState ≠ rOff → s.ringState ≠ rHalted → s.ringUp = true → crc8 0
    ((slice bytes 0 16).take 15) = (slice bytes 0 16).getD 15 0 → (slice bytes 0 16).all (fun x => x == 0) = false → u16
    (slice bytes 0 16) 4 ≠ s.ringPos → u16 (slice bytes 0 16) 2 ≠ 0xFFFF → u16 (slice bytes 0 16) 2 ≤ 1 → exec (.biscuitRx
    slot bytes) s = .next (if s.ringState = rPass then (s.setBiscuitSlot slot []).bump F.TRING_BCNT_BAD else (s.setBiscuitSlot
    slot []).biscuitHandle (slice bytes 0 16))) ∧
  (∀ (slot : Fin 8) (bytes : List Byte) (s : State), s.ringState ≠ rOff → s.ringState ≠ rHalted → s.ringUp = true → crc8 0
    ((slice bytes 0 16).take 15) = (slice bytes 0 16).getD 15 0 → (slice bytes 0 16).all (fun x => x == 0) = false → u16
    (slice bytes 0 16) 4 ≠ s.ringPos → u16 (slice bytes 0 16) 2 ≠ 0xFFFF → 2 ≤ u16 (slice bytes 0 16) 2 → exec (.biscuitRx
    slot bytes) s = .next ((s.setBiscuitSlot slot []).setBiscuitSlot slot (((slice bytes 0 16).take 2 ++ leBytes 2 (u16 (slice
    bytes 0 16) 2 - 1) ++ slice (slice bytes 0 16) 4 11) ++ [crc8 0 ((slice bytes 0 16).take 2 ++ leBytes 2 (u16 (slice bytes
    0 16) 2 - 1) ++ slice (slice bytes 0 16) 4 11)]))) ∧
  (∀ (slot : Fin 8) (b : List Byte) (rest : List (Bool × List Byte)) (s : State), s.ringUp = true → s.ringState ≠ rOff →
    s.ringState ≠ rHalted → s.ring.inserted < 2 → Tbl.get [] s.ring.slots slot.val = [] → (takeBiscuit (fun x => decide
    (slot.val ≠ 0) || decide (u8 x.2 0 = 1 ∨ u8 x.2 0 = 2)) s.ring.txq = some (b, rest)) → exec (.biscuitInsert slot) s =
    .next ((fun t : State => { t with ring := { t.ring with txq := rest, inserted := s.ring.inserted + 1 } })
    ((s.setBiscuitSlot slot b).ev A.TRING_EVENT 16))) ∧
  (∀ (frame : Word) (s : State), beyond (s.rd F.PORT_TBFRAME_COUNT) (frame.toNat + 2 ^ 32 - 2) = false → s.rd
    F.PORT_GSTART_SRC = 2 → exec (.startBiscuit frame) s = .next ((s.portTrigger frame.toNat).ev A.TRING_EVENT 21)) ∧
  (∀ (frame : Word) (s : State), beyond (s.rd F.PORT_TBFRAME_COUNT) (frame.toNat + 2 ^ 32 - 2) = true → exec (.startBiscuit
    frame) s = .next ((s.bump F.TRING_BCNT_LATE).ev A.TRING_EVENT 20)) ∧
  (∀ (j : Word) (s : State), beyond s.ownerIndex (j.toNat + 2 ^ 32 - 9) = false → exec (.syncBiscuit j) s = .next
    ((s.decimRequest j.toNat).ev A.TRING_EVENT 22)) ∧
  (∀ (j : Word) (s : State), beyond s.ownerIndex (j.toNat + 2 ^ 32 - 9) = true → exec (.syncBiscuit j) s = .next ((s.bump
    F.TRING_BCNT_LATE).ev A.TRING_EVENT 20)) ∧
  (∀ (src : BitVec 16) (addr v : Word) (s : State), s.busUp = true → s.ringAccessRefused true addr.toNat = true → exec (.regWr
    src addr v) s = .next (s.regRsp src.toNat addr.toNat v 1)) ∧
  (∀ (src : BitVec 16) (addr v : Word) (s : State), s.busUp = true → s.ringAccessRefused true addr.toNat = false → exec
    (.regWr src addr v) s = .next ((s.busWrite .ring addr.toNat v).2.regRsp src.toNat addr.toNat v (if (s.busWrite .ring
    addr.toNat v).1 = .ok then 0 else 2))) ∧
  (∀ (src : BitVec 16) (addr : Word) (s : State), s.busUp = true → s.ringAccessRefused false addr.toNat = true → exec (.regRd
    src addr) s = .next (s.regRsp src.toNat addr.toNat 0 1)) ∧
  (∀ (src : BitVec 16) (addr : Word) (s : State), s.busUp = true → s.ringAccessRefused false addr.toNat = false → exec (.regRd
    src addr) s = .next ((s.busRead .ring addr.toNat).2.2.regRsp src.toNat addr.toNat (s.busRead .ring addr.toNat).2.1 (if
    (s.busRead .ring addr.toNat).1 = .ok then 0 else 2))) ∧
  (∀ (bytes : List Byte) (s : State), s.ring.rxq.length < 16 → exec (.regRsp bytes) s = .next ({ s.ev A.TRING_EVENT 12 with ring := { s.ring with rxq := s.ring.rxq ++ [slice bytes 0 16] } })) ∧
  (∀ (bytes : List Byte) (s : State), s.ring.rxq.length < 16 → exec (.hostBiscuit bytes) s = .next ({ s.ev A.TRING_EVENT 12 with ring := { s.ring with rxq := s.ring.rxq ++ [slice bytes 0 16] } })) ∧
  (∀ (bytes : List Byte) (s : State), 16 ≤ s.ring.rxq.length → exec (.hostBiscuit bytes) s = .next ((s.bump
    F.TRING_BCNT_DROPPED).ev A.TRING_EVENT 13)) ∧
  (∀ (bytes : List Byte) (s : State), exec (.policyBiscuit bytes) s = .next ({ s with ring := { s.ring with policyIn := s.ring.policyIn ++ [slice bytes 0 16] } })) ∧
  (∀ (b : List Byte) (s : State), b = (List.range 4).flatMap (fun k => leBytes 4 (s.reg (A.TRING_BTXk k)).toNat) →
    s.ring.txq.length < 8 → (u8 b 0 = 3 ∨ u8 b 0 = 4 ∨ 128 ≤ u8 b 0) → u16 b 2 ≠ 0 → exec .biscuitSend s = .next (s.ringQueue
    false (slice b 0 4 ++ leBytes 2 s.ringPos ++ slice b 6 9 ++ [crc8 0 (slice b 0 4 ++ leBytes 2 s.ringPos ++ slice b 6
    9)]))) ∧
  (∀ (s : State), exec .biscuitPop s = .next ({ s with ring := { s.ring with rxq := s.ring.rxq.drop 1 } })) ∧
  (∀ (src : BitVec 16) (payload : List Byte) (s : State), exec (.faultBiscuit src payload) s = .next (s.faultBiscuit src.toNat
    payload))

/-- Stream contexts, zero crossings and generators. Exact next states. A context or transmit slot that waits switches at its
zero crossing, or ramps at the timeout with the port's event; an allowed context word sets the source, the ramp and the
mute and retargets the switch gain, a word that R130 refuses is counted; a level write waits for the frame boundary; a
generator word sets type and amplitude; a frequency of 1 Hz to 0.45 Fa is taken, another refused and counted. Follows R86,
R87, R130, R132, R133, R136. -/
def Obligations.ContextsAndGenerators : Prop :=
  (∀ (n : Fin 128) (s : State), exec (.zcSwitch (.ctx n)) s = .next (s.setCtx n { s.ctx n with sw := (s.ctx n).sw.cross })) ∧
  (∀ (p : Fin 4) (k : Fin 16) (s : State), exec (.zcSwitch (.portTx p k)) s = .next (s.setTxGain p k (s.txGain p k).cross)) ∧
  (∀ (n : Fin 128) (s : State), (s.ctx n).sw.waiting = true → s.rd (F.DSPX_CTXn_CFG_KIND n) ≠ 1 → exec (.zcTimeout (.ctx n)) s
    = .next (s.setCtx n { s.ctx n with sw := (s.ctx n).sw.expire (s.ctxZc n).2 })) ∧
  (∀ (p : Fin 4) (k : Fin 16) (s : State), (s.txGain p k).waiting = true → exec (.zcTimeout (.portTx p k)) s = .next
    ((s.setTxGain p k ((s.txGain p k).expire (2 ^ s.rd (F.PORTn_ZC_RAMP_LOG2 p)))).ev (A.PORTn_EVENT p) 12)) ∧
  (∀ (n : Fin 128) (v : Word) (s : State), s.ctxKindOk n (getField v 12 4) = true → 4 ≤ getField v 27 4 → getField v 27 4 ≤ 14
    → (getField v 12 4 = 1 ∨ getField v 12 4 = 2 ∨ getField v 12 4 = 5) → exec (.ctxCfgWrite n v) s = .next (((s.wr
    (F.DSPX_CTXn_CFG_RAMP_LOG2 n) (getField v 27 4)).wr (F.DSPX_CTXn_CFG_MUTE n) (getField v 1 1)).ctxRetarget n)) ∧
  (∀ (n : Fin 128) (v : Word) (s : State), s.ctxKindOk n (getField v 12 4) = true → 4 ≤ getField v 27 4 → getField v 27 4 ≤ 14
    → (getField v 12 4 = 0 ∨ getField v 12 4 = 3 ∨ getField v 12 4 = 4) → exec (.ctxCfgWrite n v) s = .next ((fun t : State =>
    (t.setCtx n { t.ctx n with srcOn := decide (getField v 12 4 ≠ 0), fault := false, faultDue := false }).ctxRetarget n)
    (((s.ctxBind n (getField v 12 4) (getField v 6 6)).wr (F.DSPX_CTXn_CFG_RAMP_LOG2 n) (getField v 27 4)).wr
    (F.DSPX_CTXn_CFG_MUTE n) (getField v 1 1)))) ∧
  (∀ (n : Fin 128) (v : Word) (s : State), (s.ctxKindOk n (getField v 12 4) = false ∨ getField v 27 4 < 4 ∨ 14 < getField v 27
    4) → exec (.ctxCfgWrite n v) s = .next (s.bump F.DSPX_CNT_CFG_REFUSED)) ∧
  (∀ (n : Fin 128) (v : Word) (s : State), exec (.ctxLevelWrite n v) s = .next ((s.wr (F.DSPX_CTXn_LEVEL_TARGET n)
    v.toNat).setCtx n { s.ctx n with levelDue := true })) ∧
  (∀ (g : Fin 16) (v : Word) (s : State), exec (.genCfgWrite g v) s = .next (s.setReg (A.DSPX_GENg_CFG g) (v &&& 0x0003FFFF))) ∧
  (∀ (g : Fin 16) (v : Word) (s : State), 65536 ≤ v.toNat → 20 * v.toNat ≤ 9 * s.fa * 65536 → exec (.genFreqWrite g v) s =
    .next (s.setReg (A.DSPX_GENg_FREQ g) v)) ∧
  (∀ (g : Fin 16) (v : Word) (s : State), (v.toNat < 65536 ∨ 9 * s.fa * 65536 < 20 * v.toNat) → exec (.genFreqWrite g v) s =
    .next (s.bump F.DSPX_CNT_CFG_REFUSED))

/-- Sound player commands, their end, underruns and the AVAS fallback. Exact next states. PLAY on a voice of the host with a
library sound starts it at sample 0 at rate 1.0; a play, stop-at-end or stop-now command on a voice that is not the host's
is counted and sets event bit 30; stop-at-end marks a busy voice; stop-now starts a fade of 64 samples; a voice of the
host that has ended falls silent, leaves its control contexts stale and sets event bit 28; an underrun leaves the late
samples of the voice at 0 and its control contexts stale, is counted and sets event bit 29; an AVAS synthesiser not in
fallback enters it and sets event bit 16. Follows R137, R138, R139, R142, R143. -/
def Obligations.SoundPlayer : Prop :=
  (∀ (voice : Fin 32) (sound : BitVec 16) (s : State), s.voiceHost voice = true → (s.sound sound.toNat).isSome = true → exec
    (.play voice sound) s = .next (s.setVoice voice { busy := true, sound := sound.toNat, pos := 0, rate := 2 ^ 27, fade := none,
                                                      atEnd := false, looped := false, late := 0 })) ∧
  (∀ (voice : Fin 32) (sound : BitVec 16) (s : State), (s.voiceHost voice = false ∨ (s.sound sound.toNat).isSome = false) →
    exec (.play voice sound) s = .next ((s.bump F.DSPX_PLAYERR_REFUSED).ev A.DSPX_EVENT 30)) ∧
  (∀ (voice : Fin 32) (s : State), s.voiceHost voice = true → (s.voice voice).busy = true → exec (.stopAtEnd voice) s = .next
    (s.setVoice voice { s.voice voice with atEnd := true })) ∧
  (∀ (voice : Fin 32) (s : State), s.voiceHost voice = true → (s.voice voice).busy = true → (s.voice voice).fade = none → exec
    (.stopNow voice) s = .next (s.setVoice voice { s.voice voice with fade := some 64 })) ∧
  (∀ (voice : Fin 32) (s : State), s.voiceHost voice = false → exec (.stopNow voice) s = .next ((s.bump
    F.DSPX_PLAYERR_REFUSED).ev A.DSPX_EVENT 30)) ∧
  (∀ (voice : Fin 32) (s : State), s.busUp = true → s.voiceEnded voice = true → voice.val < 20 → exec (.playDone voice) s =
    .next (((s.setVoice voice Voice.idle).forEach (((s.setVoice voice Voice.idle).voiceCtxs voice).filter (s.setVoice voice
    Voice.idle).ctxControl) (fun c t => t.ctxStale c)).ev A.DSPX_EVENT 28)) ∧
  (∀ (voice : Fin 32) (late : Nat) (s : State), s.busUp = true → (s.voice voice).busy = true → exec (.playUnderrun voice late)
    s = .next ((((s.setVoice voice { s.voice voice with late := (s.voice voice).late + late }).voiceStale voice).bump
    F.DSPX_PLAYERR_UNDERRUN).ev A.DSPX_EVENT 29)) ∧
  (∀ (inst : BitVec 16) (b : Block) (s : State), s.dsp.graph.block inst.toNat = some b → s.busUp = true → b.ty = 7 → (s.avas
    inst.toNat).fallback = false → exec (.avasFallback inst) s = .next ((s.setAvas inst.toNat { s.avas inst.toNat with fallback := true,
                                                                                                                       fresh := false,
                                                                                                                       moveLeft := 0 }).ev
    A.DSPX_EVENT 16))

/-- Frame boundaries, glue-up and concealment. While the DSP island runs. An F4 boundary inside the F32 period ends the F4
compute period, advances to the next F4 frame, starts the committed frame and releases the next; the eighth, like an F32
boundary, is also the F32 boundary; while the island stands still a boundary does nothing. A glue-up of a frame that is
neither committed, concealed nor doomed, and whose write-back check finds nothing, runs its blocks, commits the terminals'
outputs and writes the mirrors, the F32 one counts the frame; where the check fails the frame does not commit and each
failing word is a detection; a frame that is done or doomed does not commit. A frame that has not committed is concealed,
counted and flagged by event bit 1 (and bit 0 where it was late), an F4 frame repeats its last samples, an F32 frame
queues the last demands again. Follows R17, R128, R134, R146, R149, R160, R162, R163, R174. -/
def Obligations.GraphFrames : Prop :=
  (∀ (s : State), s.busUp = true → s.dsp.sub < 7 → exec (.dspFrameBoundary true) s = .next ((fun t : State => (((t.playClass
    true (4 * t.dsp.sub)).decimFrame true).release true).f4End) ((fun t : State => { t with dsp := { t.dsp with sub := t.dsp.sub + 1 } })
    ((s.sources (4 * s.dsp.sub) 4).endPeriod true)))) ∧
  (∀ (f4 : Bool) (s : State), s.busUp = true → (f4 = false ∨ s.dsp.sub = 7) → exec (.dspFrameBoundary f4) s = .next ((fun t :
    State => (((t.playClass true (4 * t.dsp.sub)).decimFrame true).release true).f32End.f4End) ((((fun t : State => { t with dsp := { t.dsp with sub := 0 } })
    (((s.sources (4 * s.dsp.sub) (if f4 then 4 else 4 * (8 - s.dsp.sub))).endPeriod true).f32Begin)).playClass false
    0).release false))) ∧
  (∀ (f4 : Bool) (s : State), s.busUp = false → exec (.dspFrameBoundary f4) s = .next (s)) ∧
  (∀ (cycles : List Nat) (found : List (BitVec 16 × Detection)) (input : FrameData) (s : State), s.busUp = true →
    s.dsp.f4.input = some input → s.dsp.f4.done = false → s.dsp.f4.doomed = false → found.any (fun x => detBad x.2) = false →
    ∃ t, exec (.glueUp true cycles found) s = .next t ∧ t.dsp.f4.done = true ∧ t.dsp.f4.committed = some (((s.runBlocks true
    input).1.termOuts 4 (s.runBlocks true input).2 (s.dsp.graph.termsOf 2 true)).2, (((s.runBlocks true input).1.termOuts 4
    (s.runBlocks true input).2 (s.dsp.graph.termsOf 2 true)).1.termOuts 4 (s.runBlocks true input).2 (s.dsp.graph.termsOf 1
    true)).2)) ∧
  (∀ (cycles : List Nat) (found : List (BitVec 16 × Detection)) (input : FrameData) (s : State), s.busUp = true →
    s.dsp.f32.input = some input → s.dsp.f32.done = false → s.dsp.f32.doomed = false → found.any (fun x => detBad x.2) = false
    → exec (.glueUp false cycles found) s = .next ((fun (env : Env) (spk out : State × FrameData) => (((((fun t : State => { t with dsp := { t.dsp with slowNext := env.foldl (fun (m : Tbl (List (List (BitVec 32)))) (e : Nat × List (List (BitVec 32))) => Tbl.set [] m e.1 e.2) [] } })
    ((out.1.setClass false { out.1.cls false with done := true, committed := some (spk.2, out.2) }).writeMirrors)).forEach
    ((List.range 4).zip cycles) (fun x u => u.coreLoadSeen x.1 x.2)).guardFrame).bumpWrap F.DSPX_FRAMECNT_VALUE).veneersDue)
    (s.runBlocks false input).2 ((s.runBlocks false input).1.termOuts 32 (s.runBlocks false input).2 (s.dsp.graph.termsOf 2
    false)) (((s.runBlocks false input).1.termOuts 32 (s.runBlocks false input).2 (s.dsp.graph.termsOf 2 false)).1.termOuts 32
    (s.runBlocks false input).2 (s.dsp.graph.termsOf 1 false)))) ∧
  (∀ (f4 : Bool) (cycles : List Nat) (found : List (BitVec 16 × Detection)) (s : State), s.busUp = true → (s.cls
    f4).input.isSome = true → (s.cls f4).done = false → (s.cls f4).doomed = false → found.any (fun x => detBad x.2) = true →
    exec (.glueUp f4 cycles found) s = .next (s.forEach found (fun x t => t.dspDetection x.1.toNat x.2))) ∧
  (∀ (f4 : Bool) (cycles : List Nat) (found : List (BitVec 16 × Detection)) (s : State), ((s.cls f4).done = true ∨ (s.cls
    f4).doomed = true) → exec (.glueUp f4 cycles found) s = .next (s)) ∧
  (∀ (late : Bool) (s : State), s.busUp = true → s.dsp.f4.input.isSome = true → s.dsp.f4.done = false → exec (.frameConceal
    true late) s = .next ((fun t : State => { t with dsp := { t.dsp with fastNow := t.dsp.fastNow.map (fun x => (x.1, x.2.map (fun xs => overlay32 xs (4 * s.dsp.sub) ((xs.drop (4 * ((s.dsp.sub + 7) % 8))).take 4)))) } })
    ((fun t : State => if late && !s.dsp.f4.doomed then t.ev A.DSPX_EVENT 0 else t) (((s.setClass true { s.dsp.f4 with done := true }).ev
    A.DSPX_EVENT 1).bump F.DSPX_CNT_CONCEALED)))) ∧
  (∀ (late : Bool) (s : State), s.busUp = true → s.dsp.f32.input.isSome = true → s.dsp.f32.done = false → exec (.frameConceal
    false late) s = .next (((fun t : State => if late && !s.dsp.f32.doomed then t.ev A.DSPX_EVENT 0 else t) (((s.setClass
    false { s.dsp.f32 with done := true }).ev A.DSPX_EVENT 1).bump F.DSPX_CNT_CONCEALED)).lookaheadRepeat))

/-- Detections, fences and placement. While the DSP island runs. What passes its check does nothing; a lane that fails it in
a block of the graph marks the block's frame, dooms it at a second detection, and raises code 1 of class 2 at the core
that runs the block. The placement computed waits for the next boundary, with the blocks it refuses due for a crossfade; a
graph whose P0 blocks cannot be placed raises code 4 of class 2. A core or region not yet fenced is fenced with its fault
ID, the placement runs anew and the record's sequence number advances. The placement that a migration waits for takes
effect once no crossfade is left, and waits otherwise. A region that moves has left the list of moves. A scrubbed word of
shared SRAM or DRAM that fails its check raises code 3 of class 3, and in FULL_RUNNING its region is fenced and moves to a
spare one; a word that passes does nothing. Follows R152, R159, R161, R164, R166, R167, R169, R170, R174, R178. -/
def Obligations.DetectionsFencesPlacement : Prop :=
  (∀ (inst : BitVec 16) (d : Detection) (s : State), detBad d = false → exec (.dspDetection inst d) s = .next (s)) ∧
  (∀ (inst : BitVec 16) (m : MacCheck) (b : Block) (s : State), s.busUp = true → macBad m = true → s.dsp.graph.block
    inst.toNat = some b → exec (.dspDetection inst (.residue m)) s = .next ((s.setClass (b.cls == 1) { s.cls (b.cls == 1) with detected := b.inst :: (s.cls (b.cls == 1)).detected,
                                                                                                                               doomed := (s.cls (b.cls == 1)).doomed || (s.cls (b.cls == 1)).detected.contains b.inst }).raise
    2 (s.runsOn inst.toNat) 1 0 false)) ∧
  (∀ (p : Placement) (s : State), s.busUp = true → s.computePlacement s.dsp.graph = some p → ∃ t, exec .placementRun s = .next
    t ∧ t.dsp.place.next = some p ∧ t = { s with dsp := { s.dsp with place := { s.dsp.place with next := some p, crossing := t.dsp.place.crossing,
                                                                                                 crossed := t.dsp.place.crossed } } }
    ∧ (∀ i, i ∈ t.dsp.place.crossing → i ∈ ({ s.dsp.place with next := some p } : PlaceSt).due)) ∧
  (∀ (s : State), s.busUp = true → s.computePlacement s.dsp.graph = none → exec .placementRun s = .next (s.raise 2 0 4 0
    true)) ∧
  (∀ (c : Fin 4) (id : BitVec 16) (s : State), s.busUp = true → s.dsp.place.cores.getLsbD c = false → ∃ t, exec (.coreFence c
    id) s = .next t ∧ t.dsp.place.cores = s.dsp.place.cores ||| BitVec.ofNat 4 (2 ^ c.val) ∧ t.dsp.place.migrating = true ∧
    t.dsp.place.seq = s.dsp.place.seq + 2 ∧ t.dsp.place.lastFence = id ∧ t.rd F.DSPX_STAT_FENCED = (s.dsp.place.cores |||
    BitVec.ofNat 4 (2 ^ c.val)).toNat ∧ t.evOn A.DSPX_EVENT 4 = true ∧ t.mem = s.mem) ∧
  (∀ (p : Placement) (s : State), s.busUp = true → s.dsp.place.next = some p → s.dsp.place.migrating = true → s.crossDone =
    true → exec .migrationDone s = .next ((fun t : State => { t with dsp := { t.dsp with place := { t.dsp.place with muted := t.dsp.place.muted &&& maskOf ((List.range 16).filter (fun o => decide ((Tbl.get OutSt.reset s.outs o).chans = []))) } } })
    ((s.takePlacement p).ev A.DSPX_EVENT 5))) ∧
  (∀ (s : State), s.busUp = true → s.dsp.place.migrating = true → s.crossDone = false → exec .migrationDone s = .next ({ s with dsp := { s.dsp with place := { s.dsp.place with late := true } } })) ∧
  (∀ (mi : Fin 6) (r : Fin 1024) (id : BitVec 16) (s : State), s.busUp = true → s.dsp.place.regions.contains (mi.val, r.val) =
    false → exec (.regionFence mi r id) s = .next (((({ s with dsp := { s.dsp with place := { s.dsp.place with regions := s.dsp.place.regions ++ [(mi.val, r.val)],
                                                                                                               migrating := true,
                                                                                                               late := false,
                                                                                                               next := none,
                                                                                                               lastFence := id } } }
    : State).ev A.DSPX_EVENT 4).placementRun).placeSeq)) ∧
  (∀ (mi : Fin 6) (r : Fin 1024) (s : State), s.busUp = true → s.dsp.place.moves.contains (mi.val, r.val) = true → exec
    (.dramRegionMove mi r) s = .next (({ s with dsp := { s.dsp with place := { s.dsp.place with moves := s.dsp.place.moves.filter (fun x => x != (mi.val, r.val)) } } }
    : State).placeSeq)) ∧
  (∀ (mi : Fin 6) (w : MemRead) (s : State), s.busUp = true → 4 ≤ mi.val → memBad mi w = true → s.boot.state = bootFullRunning
    → s.dsp.place.regions.contains (mi.val, memRegion mi w) = false → 0 < s.dsp.place.spare → ∃ t, exec (.scrubRepair mi w) s
    = .next t ∧ t.dsp.place.regions = s.dsp.place.regions ++ [(mi.val, memRegion mi w)] ∧ t.dsp.place.spare =
    s.dsp.place.spare - 1 ∧ t.dsp.place.moves = s.dsp.place.moves ++ [(mi.val, memRegion mi w)] ∧ t.dsp.place.lastFence =
    faultId 3 mi 3 ∧ t.dsp.place.now = s.dsp.place.now ∧ t.evOn A.DSPX_EVENT 4 = true ∧ t.mem = s.mem) ∧
  (∀ (mi : Fin 6) (w : MemRead) (s : State), memBad mi w = false → exec (.scrubRepair mi w) s = .next (s))

/-- Outputs move between OFF, MUTED and PLAYING. A request 0b11 is refused by event bit 9; a request during a check is
queued; a request of playing from MUTED starts the gain towards 1; muting from PLAYING starts it towards 0; a fast-off in
a switching state ramps the gain over 49152 control samples and elsewhere does nothing; its end turns the cells off with
REQ 0 and takes a queued request, and unbinds an output that the full map drops; a request to a stopped island is
terminated and counted; the common-mode ramp ends in MUTED; a zero crossing or its timeout (event bit 8) starts the
waiting ramp; the ramp ends in PLAYING or MUTED. Follows R26, R51, R191, R192, R193, R194, R200. -/
def Obligations.OutputMovements : Prop :=
  (∀ (o : Fin 16) (s : State), s.islandStopped (A.MOD_OUTo_CTRL o) = false → exec (.outputReqWrite o 3) s = .next (s.ev
    (A.MOD_OUTo_EVENT o) 9)) ∧
  (∀ (o : Fin 16) (v : BitVec 2) (s : State), s.islandStopped (A.MOD_OUTo_CTRL o) = true → exec (.outputReqWrite o v) s =
    .next (s.bump F.SYS_XING_ERR_STALLED)) ∧
  (∀ (o : Fin 16) (v : BitVec 2) (s : State), s.islandStopped (A.MOD_OUTo_CTRL o) = false → v.toNat ≠ 3 → s.fastOff o = true →
    exec (.outputReqWrite o v) s = .next (((s.wr (F.MOD_OUTo_CTRL_REQ o) v.toNat).setOut o { s.out o with queued := some v.toNat }).wrB
    (F.MOD_OUTo_STAT_QUEUED o) true)) ∧
  (∀ (o : Fin 16) (v : BitVec 2) (s : State), s.islandStopped (A.MOD_OUTo_CTRL o) = false → (v.toNat = 0 ∨ v.toNat = 1) →
    s.fastOff o = false → (s.wr (F.MOD_OUTo_CTRL_REQ o) v.toNat).oState o = oPlaying → exec (.outputReqWrite o v) s = .next
    ((s.wr (F.MOD_OUTo_CTRL_REQ o) v.toNat).gainTowards o false)) ∧
  (∀ (o : Fin 16) (v : BitVec 2) (s : State), s.islandStopped (A.MOD_OUTo_CTRL o) = false → v.toNat = 2 → s.fastOff o = false
    → s.oState o = oMuted → s.sweep o = none → exec (.outputReqWrite o v) s = .next ((s.wr (F.MOD_OUTo_CTRL_REQ o)
    2).gainTowards o true)) ∧
  (∀ (o : Fin 16) (s : State), s.islandStopped (A.MOD_OUTo_CTRL o) = false → oCmUp ≤ s.oState o → (s.oState o ≤ oMuted ∨
    s.oState o = oCmDown) → s.fastOff o = false → s.sweep o = none → exec (.fastoff o) s = .next (s.setOut o { s.out o with ramp := .fast 49152,
                                                                                                                            up := false })) ∧
  (∀ (o : Fin 16) (s : State), s.islandStopped (A.MOD_OUTo_CTRL o) = false → s.switching o = false → exec (.fastoff o) s =
    .next (s)) ∧
  (∀ (o : Fin 16) (s : State), (s.out o).dropDue = false → s.fastOff o = true → exec (.fastoffDone o) s = .next (((s.enterOff
    o).wr (F.MOD_OUTo_CTRL_REQ o) 0).takeQueued o)) ∧
  (∀ (o : Fin 16) (s : State), (s.out o).dropDue = true → exec (.fastoffDone o) s = .next (((s.setOut o { s.out o with dropDue := false }).fastoffDone
    o).bindPair (o / 2))) ∧
  (∀ (o : Fin 16) (s : State), s.fastOff o = false → s.oState o = oCmUp → exec (.cmRampDone o) s = .next (s.enterMuted o)) ∧
  (∀ (o : Fin 16) (s : State), s.fastOff o = false → s.oState o = oCmDown → exec (.cmRampDone o) s = .next ((fun t : State =>
    (t.setOut o { t.out o with post := true, cm := 0, rejoin := (t.out o).lost.isSome }).askCheck o (s.checkChans o) false)
    (s.outCellsOff o))) ∧
  (∀ (o : Fin 16) (s : State), (s.out o).ramp = .waiting → exec (.outputZeroCrossing o) s = .next (s.setOut o { s.out o with ramp := .running })) ∧
  (∀ (o : Fin 16) (s : State), (s.out o).ramp = .waiting → exec (.outputZcTimeout o) s = .next ((s.setOut o { s.out o with ramp := .running }).ev
    (A.MOD_OUTo_EVENT o) 8)) ∧
  (∀ (o : Fin 16) (s : State), (s.out o).ramp = .running → exec (.outputRampDone o) s = .next (if (s.out o).up then ((s.setOut
    o { s.out o with gain := outOne, ramp := .rest }).setOState o oPlaying).ev (A.MOD_OUTo_EVENT o) 12 else s.enterMuted o))

/-- Bridges: trips, retries, cells, shedding, limits, overtemperature. A current above TRIP_LIM times the good cells over
eight trips a switching bridge, one at or below it does not; a trip of a single output's bridge drives the demagnetising
state, counts and flags the trip and enters TRIPPED; the end of the demagnetising state of a survivor of a pair turns the
tripped bridge off; a retry that is due restarts the output and is recorded; a cell that desaturates is held off for good
and counted; a lower cell count held long enough is taken, as far as good cells remain; the active set rotates where fewer
cells are active than good; a trip limit is only ever lowered, a raise is counted; a bridge sensor above 160 C (reading
3584) for 10 microseconds trips its channel, one below 140 C (reading 3264) is cool again, between the two nothing
changes; an imbalance of a switching pair sets event bit 4. Follows R185, R186, R188, R190, R195, R197, R198, R466. -/
def Obligations.BridgesAndTrips : Prop :=
  (∀ (c : Fin 16) (legN : Bool) (current o : Nat) (s : State), s.tripLevel c legN < current → s.rd (F.MOD_CHc_STAT_BRIDGE c) =
    1 → s.outOf c = some o → (s.live o).length ≠ 2 → exec (.bridgeTrip c legN current) s = .next ((fun t : State => (t.setOut
    o { t.out o with gain := 0, ramp := .rest }).setOState o oTripped) (((fun t : State => t.setOut o { t.out o with demag := true })
    (((((s.bump (F.MOD_CHc_CNT_TRIPS c)).raise 7 c 1 0 false).forEach (s.live o) (fun d t => t.demagnetise d)).ev
    (A.MOD_OUTo_EVENT o) 0).traceTrip (s.out o).chans)).sweepAbort o))) ∧
  (∀ (c : Fin 16) (legN : Bool) (current : Nat) (s : State), (current ≤ s.rd (F.MOD_CHc_CFG_TRIP_LIM c) * s.goodCount c legN *
    2 ^ 22 ∨ s.rd (F.MOD_CHc_STAT_BRIDGE c) ≠ 1) → exec (.bridgeTrip c legN current) s = .next (s)) ∧
  (∀ (o : Fin 16) (s : State), (s.out o).demag = true → (s.out o).chans = [] → s.oState o ≠ oTripped → exec (.tripDemagEnd o)
    s = .next (s.setOut o { s.out o with demag := false })) ∧
  (∀ (o : Fin 16) (s : State), s.oState o = oTripped → (s.out o).demag = false → (s.out o).exhausted = false → s.want o ≠ 0 →
    s.retriesUsed o < s.retryMax o → (s.out o).chans.any (fun c => s.broken c || (s.bridge c).hot || s.on
    (F.MOD_CHc_STAT_FENCED c)) = false → exec (.tripRetry o) s = .next ((s.setOut o { s.out o with retries := s.recent (s.out o).retries 60000000 ++ [s.now] }).outStart
    o false)) ∧
  (∀ (c : Fin 16) (legN : Bool) (cell : Fin 8) (s : State), (s.goodCells c legN).testBit cell = true → let f := if legN then F.MOD_CHc_STAT_GOOD_N c else F.MOD_CHc_STAT_GOOD_P c;
    let t := ((s.setBit f.addr (f.lo + cell) false).bump (F.MOD_CHc_CNT_CELL_FAULTS c)).raise 7 c 2 0 false; let t := (match t.outOf c with
      | some o => t.ev (A.MOD_OUTo_EVENT o) 2 | none => t); let t := if t.goodCount c legN < t.rd (cellsField c legN) then t.wr (cellsField c legN) (t.goodCount c legN) else t; exec (.cellDesat c legN cell) s = .next (if t.broken c && !s.broken c then (t.raise 7 c 3 0 true).sixCells c else t)) ∧
  (∀ (c : Fin 16) (v : Nat) (legN : Bool) (s : State), (if legN then (s.bridge c).lowN else (s.bridge c).lowP) = some v → exec
    (.shedFall c legN) s = .next ((s.setBridge c (if legN then { s.bridge c with lowN := none } else { s.bridge c with lowP := none })).wr
    (cellsField c legN) (min v (s.goodCount c legN)))) ∧
  (∀ (c : Fin 16) (s : State), (s.rd (cellsField c false) < s.goodCount c false ∨ s.rd (cellsField c true) < s.goodCount c
    true) → exec (.cellRotate c) s = .next (s.setBridge c { s.bridge c with rot := ((s.bridge c).rot + 1) % 8 })) ∧
  (∀ (c : Fin 16) (v : BitVec 5) (s : State), s.islandStopped (A.MOD_CHc_CFG c) = false → max 8 v.toNat ≤ s.rd
    (F.MOD_CHc_CFG_TRIP_LIM c) → exec (.tripLimWrite c v) s = .next (s.wr (F.MOD_CHc_CFG_TRIP_LIM c) (max 8 v.toNat))) ∧
  (∀ (c : Fin 16) (v : BitVec 5) (s : State), s.islandStopped (A.MOD_CHc_CFG c) = false → s.rd (F.MOD_CHc_CFG_TRIP_LIM c) <
    max 8 v.toNat → exec (.tripLimWrite c v) s = .next ((s.bump F.GUARD_RAISECNT_COUNT).forEach (s.mayBindChannel c) (fun o t
    => t.ev (A.GUARD_OUTo_EVENT o) 11))) ∧
  (∀ (c : Fin 16) (reading us : Nat) (s : State), reading < 3264 → exec (.bridgeOvertemp c reading us) s = .next (s.setBridge
    c { s.bridge c with hot := false })) ∧
  (∀ (c : Fin 16) (reading us : Nat) (s : State), 3584 < reading → 10 ≤ us → exec (.bridgeOvertemp c reading us) s = .next
    ((s.setBridge c { s.bridge c with hot := true }).bridgeTrip c)) ∧
  (∀ (c : Fin 16) (reading us : Nat) (s : State), 3264 ≤ reading → (reading ≤ 3584 ∨ us < 10) → exec (.bridgeOvertemp c
    reading us) s = .next (s)) ∧
  (∀ (p : Fin 8) (s : State), (s.live (2 * p.val)).length = 2 → s.switching (2 * p.val) = true → exec (.imbalance p) s = .next
    (s.ev (A.MOD_OUTo_EVENT (2 * p.val)) 4)) ∧
  (∀ (s : State), s.busUp = true → s.on F.DIAG_STAT_BOOT_DONE = true → exec .outputBinding s = .next (s.bindAll))

/-- Control samples, coefficient banks, swaps and tables. While PLL A is locked a control sample runs references, slots,
trace and ramps; without it nothing moves. A write to a stopped island is terminated and counted. A write of the bank in
effect is refused, counted and flagged, the other bank takes it without its reserved bits. A fallback table and a
channel's configuration are written while the bound output is OFF or UNBOUND (or none is bound) and refused otherwise. A
selection asks for a swap of every group at the next boundary, or the one after it in the last two cycles; the boundary
performs the requests that are due. A refetch of a failing coefficient copy sets event bit 14 and raises class 4 code 3.
Follows R17, R202, R208, R210, R216, R217, R219, R224. -/
def Obligations.ControlSamples : Prop :=
  (∀ (faults : List (Fin 16 × LaneFault)) (s : State), s.on F.SYS_CLKSTAT_PLLA_LOCK = true → exec (.laneEvaluate faults) s =
    .next (s.controlSample faults)) ∧
  (∀ (faults : List (Fin 16 × LaneFault)) (s : State), s.on F.SYS_CLKSTAT_PLLA_LOCK = false → exec (.laneEvaluate faults) s =
    .next (s)) ∧
  (∀ (c : Fin 16) (b : Bool) (k : Fin 16) (v : Word) (s : State), s.islandStopped (A.LOOP_CHc_BANKb_Wk c b.toNat k) = false →
    s.bank c = b.toNat → exec (.bankWrite c b k v) s = .next ((s.bump F.LOOP_CMDCNT_WR_REFUSED).ev A.LOOP_EVENT 2)) ∧
  (∀ (c : Fin 16) (b : Bool) (k : Fin 16) (v : Word) (s : State), s.islandStopped (A.LOOP_CHc_BANKb_Wk c b.toNat k) = false →
    s.bank c ≠ b.toNat → exec (.bankWrite c b k v) s = .next (s.setReg (A.LOOP_CHc_BANKb_Wk c b.toNat k) (v &&& if k.val = 0
    then 0xFFFF000F else if 13 ≤ k.val then 0 else 0xFFFFFFFF))) ∧
  (∀ (c : Fin 16) (k : Fin 64) (slope : Bool) (v : Word) (s : State), s.islandStopped (A.LOOP_CHc_FBk c k) = false →
    s.channelIdle c = true → exec (.fbTableWrite c k slope v) s = .next (s.setReg (if slope then A.LOOP_CHc_FBk_SLOPE c k else
    A.LOOP_CHc_FBk c k) v)) ∧
  (∀ (c : Fin 16) (k : Fin 64) (slope : Bool) (v : Word) (s : State), s.islandStopped (A.LOOP_CHc_FBk c k) = false →
    s.channelIdle c = false → exec (.fbTableWrite c k slope v) s = .next ((s.bump F.LOOP_CMDCNT_WR_REFUSED).ev A.LOOP_EVENT
    2)) ∧
  (∀ (c : Fin 16) (v : Word) (s : State), s.islandStopped (A.LOOP_CHc_CFG c) = false → s.channelIdle c = true → exec
    (.loopChCfgWrite c v) s = .next (s.setReg (A.LOOP_CHc_CFG c) (v &&& 0xFFFF1F3F))) ∧
  (∀ (c : Fin 16) (v : Word) (s : State), s.islandStopped (A.LOOP_CHc_CFG c) = false → s.channelIdle c = false → exec
    (.loopChCfgWrite c v) s = .next (s.bump F.LOOP_CMDCNT_WR_REFUSED)) ∧
  (∀ (v : BitVec 4) (late : Bool) (s : State), s.islandStopped (A.LOOP_BANKSEL) = false → ∃ t, exec (.bankselWrite v late) s =
    .next t ∧ t.rd F.LOOP_BANKSEL_GROUP = v.toNat ∧ (∀ g : Fin 4, Tbl.get none t.loop.swaps g = some { bank := v.toNat / 2 ^ g.val % 2,
                                                                                                       late := late }) ∧
    t.outs = s.outs ∧ t.mem = s.mem ∧ t.ports = s.ports) ∧
  (∀ (c : Fin 16) (v : Word) (s : State), s.islandStopped (A.LOOP_CHc_CFG c) = true → exec (.loopChCfgWrite c v) s = .next
    (s.bump F.SYS_XING_ERR_STALLED)) ∧
  (∀ (s : State), (∀ g < 4, Tbl.get none s.loop.swaps g = none) → exec .bankSwap s = .next (s)) ∧
  (∀ (g : Fin 4) (b : Nat) (s : State), s.loop.swaps = [(g.val, some { bank := b, late := false })] → exec .bankSwap s = .next
    ({ s with loop := { s.loop with swaps := [] } }.swapGroup g b)) ∧
  (∀ (c : Fin 16) (s : State), exec (.coefRefetch c) s = .next ((s.ev A.LOOP_EVENT 14).raise 4 (c / 4) 3 0 false))

/-- RC_TRACKER_EDGE and RC_TRACKER_TIMEOUT: the period trackers of the repetitive controller. An edge of tracker 0 is a
period edge, one of tracker 2 while the ripple estimator is enabled (none else); tracker 1 divides its edges, every
(RCSYNC_DIV + 1)-th is one. For trackers 0 and 2: the first period edge stores its time and phase and sets PRESENT; the
second gives the first period, the distance in control samples; the next ones move period and phase by the tracking loop
and count edges within LOCK_TOL of the prediction; the sixteenth in a row within it locks the tracker and hands its period
to the channels in HOLD. Of a locked tracker the fourth edge in a row outside it unlocks it and its learning channels
enter HOLD; an edge before that only moves the loop, and channels whose period has left PTOL relearn. A time-out unlocks a
tracker and clears PRESENT; the channels that learn with it enter HOLD. Follows R228, R229, R237. -/
def Obligations.RcTrackers : Prop :=
  (∀ (k : Fin 3) (t : Nat) (s : State), k.val = 1 → (s.tracker 1).div < s.rd F.LOOP_RC_SRC_RCSYNC_DIV → exec (.rcTrackerEdge k
    t) s = .next (s.setTracker 1 { s.tracker 1 with div := (s.tracker 1).div + 1 })) ∧
  (∀ (k : Fin 3) (t : Nat) (s : State), k.val ≠ 1 → (s.tracker k).last = none → (k.val = 2 → s.on F.LOOP_RC_EST_EN = true) →
    exec (.rcTrackerEdge k t) s = .next ((fun u : State => (u.setBit A.LOOP_RC_TRKSTAT (4 + k) true).setTracker k { s.tracker k with div := 0,
                                                                                                                                     last := some t,
                                                                                                                                     phase := t * 2 ^ 14,
                                                                                                                                     hits := 0,
                                                                                                                                     misses := 0,
                                                                                                                                     locked := false })
    (s.setTracker k { s.tracker k with div := 0 }))) ∧
  (∀ (k : Fin 3) (t : Nat) (l : Nat) (s : State), k.val ≠ 1 → (s.tracker k).last = some l → (s.tracker k).hits = 0 →
    (s.tracker k).locked = false → (k.val = 2 → s.on F.LOOP_RC_EST_EN = true) → exec (.rcTrackerEdge k t) s = .next
    (((s.setTracker k { s.tracker k with div := 0 }).setBit A.LOOP_RC_TRKSTAT (4 + k) true).setTracker k { s.tracker k with div := 0,
                                                                                                                            last := some t,
                                                                                                                            period := roundN ((t - l) * 2 ^ 14) 40,
                                                                                                                            phase := t * 2 ^ 14,
                                                                                                                            hits := 1 })) ∧
  (∀ (k : Fin 3) (t : Nat) (l : Nat) (s : State), k.val ≠ 1 → (s.tracker k).last = some l → (s.tracker k).locked = false → 0 <
    (s.tracker k).hits → (k.val = 2 → s.on F.LOOP_RC_EST_EN = true) → exec (.rcTrackerEdge k t) s = .next ((fun (near : Bool)
    (x : Nat × Nat) (u : State) => if 16 ≤ (s.tracker k).hits ∧ near = true then (u.setTracker k { s.tracker k with div := 0,
                                                                                                                    last := some t,
                                                                                                                    period := x.1,
                                                                                                                    phase := x.2,
                                                                                                                    hits := (s.tracker k).hits + 1,
                                                                                                                    misses := 0,
                                                                                                                    locked := true }).rcFound
    k x.1 else u.setTracker k { s.tracker k with div := 0, last := some t, period := x.1, phase := x.2, hits := if near then (s.tracker k).hits + 1 else 1,
                                                 misses := if near then 0 else (s.tracker k).misses + 1 }) (decide ((((t * 2 ^
    14 : Nat) : Int) - ((s.tracker k).phase + (s.tracker k).period * 40 : Nat)).natAbs ≤ s.rd F.LOOP_RC_SRC_LOCK_TOL * 2 ^
    14)) (Config.trackLoop (s.rd F.LOOP_RC_SRC_TRK_BW) (s.tracker k).period ((s.tracker k).phase + (s.tracker k).period * 40)
    (((t * 2 ^ 14 : Nat) : Int) - ((s.tracker k).phase + (s.tracker k).period * 40 : Nat))) ((s.setTracker k { s.tracker k with div := 0 }).setBit
    A.LOOP_RC_TRKSTAT (4 + k) true))) ∧
  (∀ (k : Fin 3) (t : Nat) (l : Nat) (s : State), k.val ≠ 1 → (s.tracker k).last = some l → (s.tracker k).locked = true →
    (k.val = 2 → s.on F.LOOP_RC_EST_EN = true) → exec (.rcTrackerEdge k t) s = .next ((fun (near : Bool) (x : Nat × Nat) (u :
    State) => if near = false ∧ 4 ≤ (s.tracker k).misses + 1 then (u.setTracker k { s.tracker k with div := 0, last := none,
                                                                                                     period := x.1, phase := x.2,
                                                                                                     hits := 0, misses := 0,
                                                                                                     locked := false }).rcLost
    k else (u.setTracker k { s.tracker k with div := 0, last := some t, period := x.1, phase := x.2, hits := if near then (s.tracker k).hits + 1 else 1,
                                              misses := if near then 0 else (s.tracker k).misses + 1 }).rcDrift k x.1) (decide
    ((((t * 2 ^ 14 : Nat) : Int) - ((s.tracker k).phase + (s.tracker k).period * 40 : Nat)).natAbs ≤ s.rd
    F.LOOP_RC_SRC_LOCK_TOL * 2 ^ 14)) (Config.trackLoop (s.rd F.LOOP_RC_SRC_TRK_BW) (s.tracker k).period ((s.tracker k).phase
    + (s.tracker k).period * 40) (((t * 2 ^ 14 : Nat) : Int) - ((s.tracker k).phase + (s.tracker k).period * 40 : Nat)))
    ((s.setTracker k { s.tracker k with div := 0 }).setBit A.LOOP_RC_TRKSTAT (4 + k) true))) ∧
  (∀ (k : Fin 3) (t : Nat) (s : State), k.val = 2 → s.on F.LOOP_RC_EST_EN = false → exec (.rcTrackerEdge k t) s = .next (s)) ∧
  (∀ (k : Fin 3) (s : State), (s.tracker k).locked = false → exec (.rcTrackerTimeout k) s = .next ((s.setTracker k { s.tracker k with last := none,
                                                                                                                                      hits := 0,
                                                                                                                                      misses := 0,
                                                                                                                                      locked := false }).setBit
    A.LOOP_RC_TRKSTAT (4 + k) false)) ∧
  (∀ (k : Fin 3) (s : State), (s.tracker k).locked = true → exec (.rcTrackerTimeout k) s = .next (((s.setTracker k { s.tracker k with last := none,
                                                                                                                                      hits := 0,
                                                                                                                                      misses := 0,
                                                                                                                                      locked := false }).setBit
    A.LOOP_RC_TRKSTAT (4 + k) false).rcLost k))

/-- RC_PERIOD_END, RC_FADE_END, RC_CLEAR and RC_FREEZE: the states of a repetitive controller. A period end closes the bin,
writes the residual, moves the state where the channel runs under closed loop (and only there), takes the pending GAIN and
CONV and the tracked period, keeps in beta what the period ended short of a whole control sample, and shows BINS and
RANGE; WAIT enters LEARNING where the tracker is locked and the number of bins in range, and stays otherwise. RC_FADE_END
ends a fade whose factor has reached 0: it zeroes the table and enters LEARNING or WAIT, or keeps it and enters OFF where
EN = 0 asked for that; before the factor is 0, or in no fade, it changes nothing. CLEAR in OFF or WAIT zeroes the table,
elsewhere it fades towards LEARNING over four periods; FREEZE only writes its bit. A CLEAR or FREEZE of a stopped island
is terminated and counted. Follows R231, R233, R234, R235, R236, R238, R239. -/
def Obligations.RcPeriodsAndFades : Prop :=
  (∀ (c : Fin 16) (s : State), exec (.rcPeriodEnd c) s = .next ((fun (p past : Nat) (u : State) => (fun t : State => (t.setRc
    c { t.rc c with gain := t.reg (A.LOOP_RC_CHc_GAIN c), conv := t.reg (A.LOOP_RC_CHc_CONV c), since := past, step := none, p := p }).rcBins
    c p) (if u.rcLive c = true then u.rcPeriodState c p (s.tracker (s.rd (F.LOOP_RC_CHc_CFG_SRC c))).locked else u)) (if
    (s.tracker (s.rd (F.LOOP_RC_CHc_CFG_SRC c))).locked = true then (s.tracker (s.rd (F.LOOP_RC_CHc_CFG_SRC c))).period else
    (s.rc c).p) (if (s.rc c).p ≤ (s.rc c).since ∧ (s.rc c).since < (s.rc c).p + 2 ^ 14 then (s.rc c).since - (s.rc c).p else
    0) ((s.rcCloseBin c).rcResidual c))) ∧
  (∀ (c : Fin 16) (t u : State) (s : State), s.rcState c = rcWait → u = (s.rcCloseBin c).rcResidual c → u.rcLive c = true →
    u.rcState c = rcWait → (s.tracker (s.rd (F.LOOP_RC_CHc_CFG_SRC c))).locked = true → t = (if nbInRange (s.tracker (s.rd
    (F.LOOP_RC_CHc_CFG_SRC c))).period (u.binW c) = true then u.rcLearn c else u) → exec (.rcPeriodEnd c) s = .next ((t.setRc
    c { t.rc c with gain := t.reg (A.LOOP_RC_CHc_GAIN c), conv := t.reg (A.LOOP_RC_CHc_CONV c), since := (if (s.rc c).p ≤ (s.rc c).since ∧ (s.rc c).since < (s.rc c).p + 2 ^ 14 then (s.rc c).since - (s.rc c).p else 0),
                    step := none, p := (s.tracker (s.rd (F.LOOP_RC_CHc_CFG_SRC c))).period }).rcBins c (s.tracker (s.rd
    (F.LOOP_RC_CHc_CFG_SRC c))).period)) ∧
  (∀ (c : Fin 16) (s : State), s.rcState c = rcFade → (s.rc c).fadeLeft = 0 → (s.rc c).keep = false → (s.rc c).after =
    rcLearning → exec (.rcFadeEnd c) s = .next ((s.rcZero c).rcLearn c)) ∧
  (∀ (c : Fin 16) (s : State), s.rcState c = rcFade → (s.rc c).fadeLeft = 0 → (s.rc c).keep = true → (s.rc c).after = 0 → s.on
    (F.LOOP_RC_CHc_CFG_EN c) = false → exec (.rcFadeEnd c) s = .next (s.rcGoto c 0)) ∧
  (∀ (c : Fin 16) (s : State), s.rcState c = rcFade → (s.rc c).fadeLeft = 0 → (s.rc c).keep = false → (s.rc c).after = rcWait
    → exec (.rcFadeEnd c) s = .next ((s.rcZero c).rcGoto c rcWait)) ∧
  (∀ (c : Fin 16) (s : State), (s.rcState c ≠ rcFade ∨ (s.rc c).fadeLeft ≠ 0) → exec (.rcFadeEnd c) s = .next (s)) ∧
  (∀ (c : Fin 16) (s : State), s.islandStopped (A.LOOP_RC_CHc_CTRL c) = false → s.rcState c ≤ rcWait → exec (.rcClear c) s =
    .next (s.setRc c { s.rc c with table := [] })) ∧
  (∀ (c : Fin 16) (s : State), s.islandStopped (A.LOOP_RC_CHc_CTRL c) = false → rcWait < s.rcState c → s.rcState c ≠ rcFade →
    exec (.rcClear c) s = .next ((s.setRc c { s.rc c with fadeLeft := roundN (4 * (s.rc c).p) (2 ^ 14), fadeLen := roundN (4 * (s.rc c).p) (2 ^ 14),
                                                          after := rcLearning, keep := false }).rcGoto c rcFade)) ∧
  (∀ (c : Fin 16) (on : Bool) (s : State), s.islandStopped (A.LOOP_RC_CHc_CTRL c) = false → exec (.rcFreeze c on) s = .next
    (s.wrB (F.LOOP_RC_CHc_CTRL_FREEZE c) on)) ∧
  (∀ (c : Fin 16) (on : Bool) (s : State), s.islandStopped (A.LOOP_RC_CHc_CTRL c) = true → exec (.rcFreeze c on) s = .next
    (s.bump F.SYS_XING_ERR_STALLED))

/-- RC_CH_CFG_WRITE, RC_SRC_EST_WRITE and RC_TABLE_WRITE: configuration of the repetitive controller. While the loop island
runs. A configuration word is refused and counted while the channel is enabled if it changes more than EN, and with source
code 3; one of a disabled channel is taken whole, and one that enables a channel in OFF, not the upper one of a pair,
enters WAIT. LOOP_RC_SRC is refused and counted while a channel is enabled, with LOCK_TOL 0 and with TRK_BW code 3, and
taken else; LOOP_RC_EST is refused while an enabled channel uses tracker 2 and taken else; LOOP_RC_EST_BAND is taken with
FMIN of 40 Hz or more, FMAX of 1.6 Fa or less and FMIN below FMAX, and refused and counted else. A table word is taken
while the selected channel is disabled and refused and counted else. Follows R228, R230, R238, R239, R240. -/
def Obligations.RcConfiguration : Prop :=
  (∀ (c : Fin 16) (v : Word) (s : State), s.islandStopped (A.LOOP_RC_CHc_CFG c) = false → s.on (F.LOOP_RC_CHc_CFG_EN c) = true
    → (s.reg (A.LOOP_RC_CHc_CFG c) ^^^ (v &&& 0xFFFF3F07)) &&& 0xFFFFFFFE ≠ 0 → exec (.rcChCfgWrite c v) s = .next (s.bump
    F.LOOP_RC_CNT_WR_REFUSED)) ∧
  (∀ (c : Fin 16) (v : Word) (s : State), s.islandStopped (A.LOOP_RC_CHc_CFG c) = false → s.on (F.LOOP_RC_CHc_CFG_EN c) =
    false → getField (v &&& 0xFFFF3F07) 1 2 ≠ 3 → (v &&& 0xFFFF3F07).getLsbD 0 = false → exec (.rcChCfgWrite c v) s = .next
    (s.setReg (A.LOOP_RC_CHc_CFG c) (v &&& 0xFFFF3F07))) ∧
  (∀ (v : Word) (s : State), s.islandStopped (A.LOOP_RC_SRC) = false → s.rcUses (fun _ => true) = true → exec (.rcSrcEstWrite
    0 v) s = .next (s.bump F.LOOP_RC_CNT_WR_REFUSED)) ∧
  (∀ (v : Word) (s : State), s.islandStopped (A.LOOP_RC_SRC) = false → s.rcUses (fun _ => true) = false → getField v 16 8 ≠ 0
    → getField v 4 2 ≠ 3 → exec (.rcSrcEstWrite 0 v) s = .next (s.setReg A.LOOP_RC_SRC (v &&& 0x00FF0F31))) ∧
  (∀ (v : Word) (s : State), s.islandStopped (A.LOOP_RC_SRC) = false → s.rcUses (fun k => k == 2) = false → exec
    (.rcSrcEstWrite 1 v) s = .next (s.setReg A.LOOP_RC_EST (v &&& 0x8000001F))) ∧
  (∀ (c : Fin 16) (v : Word) (s : State), s.islandStopped (A.LOOP_RC_CHc_CFG c) = false → getField (v &&& 0xFFFF3F07) 1 2 = 3
    → exec (.rcChCfgWrite c v) s = .next (s.bump F.LOOP_RC_CNT_WR_REFUSED)) ∧
  (∀ (c : Fin 16) (v : Word) (u : State) (s : State), s.islandStopped (A.LOOP_RC_CHc_CFG c) = false → s.on
    (F.LOOP_RC_CHc_CFG_EN c) = false → getField (v &&& 0xFFFF3F07) 1 2 ≠ 3 → (v &&& 0xFFFF3F07).getLsbD 0 = true → u =
    s.setReg (A.LOOP_RC_CHc_CFG c) (v &&& 0xFFFF3F07) → u.rcUpper c = false → u.rcState c = 0 → exec (.rcChCfgWrite c v) s =
    .next (u.rcGoto c rcWait)) ∧
  (∀ (v : Word) (s : State), s.islandStopped (A.LOOP_RC_SRC) = false → (getField v 16 8 = 0 ∨ getField v 4 2 = 3) → exec
    (.rcSrcEstWrite 0 v) s = .next (s.bump F.LOOP_RC_CNT_WR_REFUSED)) ∧
  (∀ (v : Word) (s : State), s.islandStopped (A.LOOP_RC_SRC) = false → s.rcUses (fun k => k == 2) = true → exec
    (.rcSrcEstWrite 1 v) s = .next (s.bump F.LOOP_RC_CNT_WR_REFUSED)) ∧
  (∀ (v : Word) (s : State), s.islandStopped (A.LOOP_RC_SRC) = false → 40 ≤ getField v 0 16 → 10 * (8 * getField v 16 16) ≤ 16
    * s.fa → getField v 0 16 < 8 * getField v 16 16 → exec (.rcSrcEstWrite 2 v) s = .next (s.setReg A.LOOP_RC_EST_BAND v)) ∧
  (∀ (v : Word) (s : State), s.islandStopped (A.LOOP_RC_SRC) = false → (getField v 0 16 < 40 ∨ 16 * s.fa < 10 * (8 * getField
    v 16 16) ∨ 8 * getField v 16 16 ≤ getField v 0 16) → exec (.rcSrcEstWrite 2 v) s = .next (s.bump
    F.LOOP_RC_CNT_WR_REFUSED)) ∧
  (∀ (k : Fin 4096) (v : Word) (s : State), s.islandStopped (A.LOOP_RC_TBLk k) = false → s.on (F.LOOP_RC_CHc_CFG_EN (s.rd
    F.LOOP_RC_TBLSEL_CH)) = true → exec (.rcTableWrite k v) s = .next (s.bump F.LOOP_RC_CNT_WR_REFUSED)) ∧
  (∀ (k : Fin 4096) (v : Word) (s : State), s.islandStopped (A.LOOP_RC_TBLk k) = false → s.on (F.LOOP_RC_CHc_CFG_EN (s.rd
    F.LOOP_RC_TBLSEL_CH)) = false → exec (.rcTableWrite k v) s = .next (s.setRc (s.rd F.LOOP_RC_TBLSEL_CH) { s.rc (s.rd F.LOOP_RC_TBLSEL_CH) with table := Tbl.set 0 (s.rc (s.rd F.LOOP_RC_TBLSEL_CH)).table k v.toInt }))

/-- The four trace buffers: configure, arm, stop, force, read. A level or depth word is taken in IDLE, DONE and STOPPED and
refused and counted in the capturing states; arming a record that fits clears the record and enters FILLING, READY with
PRE 0, or RUN in free-run mode, one that does not fit is refused with its event bit; STOP ends a capture in STOPPED with
its length; a forced trigger counts as early in FILLING; a window word is read in DONE and STOPPED, refused, counted and
flagged elsewhere; a failing word reads as 0x8000_0000 and is counted. Follows R243, R244, R245, R246, R247. -/
def Obligations.TraceBuffers : Prop :=
  (∀ (b : Fin 4) (v : Word) (s : State), s.islandStopped (A.TRACE_CFGb b) = false → (s.tState b = tIdle ∨ s.tState b = tDone ∨
    s.tState b = tStopped) → exec (.traceCfgWrite b 2 v) s = .next (s.setReg (A.TRACE_LEVELb b) v)) ∧
  (∀ (b : Fin 4) (v : Word) (s : State), s.islandStopped (A.TRACE_CFGb b) = false → (s.tState b = tIdle ∨ s.tState b = tDone ∨
    s.tState b = tStopped) → exec (.traceCfgWrite b 3 v) s = .next (s.setReg (A.TRACE_DEPTHb b) (v &&& 0x3FFF3FFF))) ∧
  (∀ (b : Fin 4) (k : Fin 4) (v : Word) (s : State), s.islandStopped (A.TRACE_CFGb b) = false → (¬ (s.tState b = tIdle ∨
    s.tState b = tDone ∨ s.tState b = tStopped)) → exec (.traceCfgWrite b k v) s = .next (s.bump F.TRACE_ERR_CFG_REFUSED)) ∧
  (∀ (b : Fin 4) (s : State), s.islandStopped (A.TRACE_CTRLb b) = false → (s.tState b = tIdle ∨ s.tState b = tDone ∨ s.tState
    b = tStopped) → (s.on (F.TRACE_CFGb_MODE b) = true ∨ s.rd (F.TRACE_DEPTHb_PRE b) + 1 + s.rd (F.TRACE_DEPTHb_POST b) ≤
    s.tCapacity b) → exec (.traceArm b) s = .next (((s.setTbuf b TraceBuf.reset).setReg (A.TRACE_LENb b) 0).setReg
    (A.TRACE_STATb b) (BitVec.ofNat 32 (if s.on (F.TRACE_CFGb_MODE b) = true then tRun else if s.rd (F.TRACE_DEPTHb_PRE b) = 0
    then tReady else tFilling)))) ∧
  (∀ (b : Fin 4) (s : State), s.islandStopped (A.TRACE_CTRLb b) = false → s.on (F.TRACE_CFGb_MODE b) = false → s.tCapacity b <
    s.rd (F.TRACE_DEPTHb_PRE b) + 1 + s.rd (F.TRACE_DEPTHb_POST b) → exec (.traceArm b) s = .next ((s.ev A.TRACE_EVENT (4 * b
    + 3)).bump F.TRACE_ERR_CFG_REFUSED)) ∧
  (∀ (b : Fin 4) (s : State), s.islandStopped (A.TRACE_CTRLb b) = false → (s.tState b = tFilling ∨ s.tState b = tReady ∨
    s.tState b = tPost ∨ s.tState b = tRun) → exec (.traceStop b) s = .next (((s.wr (F.TRACE_LENb_SAMPLES b) (s.tbuf
    b).samples.length).wr (F.TRACE_LENb_WORDS b) ((s.tbuf b).samples.length * (s.rd (F.TRACE_CFGb_NCOUNT b) + 1))).wr
    (F.TRACE_STATb_STATE b) tStopped)) ∧
  (∀ (b : Fin 4) (s : State), s.islandStopped (A.TRACE_CTRLb b) = false → s.tState b = tFilling → exec (.traceForce b) s =
    .next (s.bump F.TRACE_ERR_EARLY_TRIG)) ∧
  (∀ (b : Fin 4) (s : State), s.islandStopped (A.TRACE_CTRLb b) = false → s.tState b = tReady → exec (.traceForce b) s = .next
    ((fun t : State => t.forAll 4 (fun d t => if t.rd (F.TRACE_CFGb_TRIG_SRC d) = 9 ∧ t.rd (F.TRACE_CFGb_CROSS_BUF d) = b then
    State.traceTrigger 4 [b] d t else t)) ((fun t : State => ((t.wr (F.TRACE_STATb_TRIG_INDEX b) (s.rd (F.TRACE_DEPTHb_PRE
    b))).setReg (A.TRACE_STAMPb b) (t.reg A.LOOP_CSCNT)).ev A.TRACE_EVENT (4 * b + 1)) (((s.setTbuf b { s.tbuf b with samples := (s.tbuf b).samples.drop ((s.tbuf b).samples.length - s.rd (F.TRACE_DEPTHb_PRE b)),
                                                                                                                      post := s.rd (F.TRACE_DEPTHb_POST b) + 1 }).wr
    (F.TRACE_STATb_STATE b) tPost).wr (F.TRACE_STATb_TRIG_VALID b) 1)))) ∧
  (∀ (w : Fin 8192) (bad : Bool) (s : State), s.islandStopped A.TRACE_WIN = false → (s.tState (s.rd F.TRACE_WIN_BUF) = tDone ∨
    s.tState (s.rd F.TRACE_WIN_BUF) = tStopped) → bad = false → exec (.traceWindowRead w bad) s = .next ({ s with hbus := { s.hbus with out := leBytes 4 ((s.tbuf (s.rd F.TRACE_WIN_BUF)).samples.flatten.getD (8192 * s.rd F.TRACE_WIN_HALF + w) 0).toNat } })) ∧
  (∀ (w : Fin 8192) (s : State), s.islandStopped A.TRACE_WIN = false → (s.tState (s.rd F.TRACE_WIN_BUF) = tDone ∨ s.tState
    (s.rd F.TRACE_WIN_BUF) = tStopped) → exec (.traceWindowRead w true) s = .next ((fun t : State => { t with hbus := { t.hbus with out := [0x00, 0x00, 0x00, 0x80] } })
    (s.bump F.TRACE_ERR_CRC))) ∧
  (∀ (w : Fin 8192) (bad : Bool) (s : State), s.islandStopped A.TRACE_WIN = false → (¬ (s.tState (s.rd F.TRACE_WIN_BUF) =
    tDone ∨ s.tState (s.rd F.TRACE_WIN_BUF) = tStopped)) → exec (.traceWindowRead w bad) s = .next ((fun t : State => { t with hbus := { t.hbus with out := [0x00, 0x00, 0x00, 0x00] } })
    ((s.bump F.TRACE_ERR_READ_REFUSED).ev A.TRACE_EVENT (4 * s.rd F.TRACE_WIN_BUF + 2))))

/-- Sense samples, slice faults, background correction and calibration. (Register writes of a running island.) A serving
input corrects a sample with its slice's shims and delivers it; an end code counts as overrange, peaks and delivers full
scale; a failed link check counts, flags, raises class 5 code 4 and delivers the previous word; a slice that does not
serve redelivers it. The fault of one slice of a two-slice input leaves it on the other; of the last one, failed. A window
end of an input that does not run, or under BG_FREEZE, does nothing; clearing the freeze empties the windows. A
calibration command starts allowed channels with their pair and counts refused ones; boot calibration starts all inputs
once firmware runs and PVDD is in window; results settle the inputs that calibrate. Follows R253, R256, R257, R258, R259,
R260, R261, R262, R263, R264. -/
def Obligations.SenseSamplesAndCalibration : Prop :=
  (∀ (k : Fin 32) (h : Bool) (raw : BitVec 16) (chop : Bool) (s : State), s.senseMode k = 2 → raw ≠ 0x8000#16 → raw ≠
    0x7FFF#16 → let y := (if chop then -1 else 1) * (16 * raw.toInt - s.ofs k h) * s.gainFactor k h; exec (.senseSample k h
    raw chop true) s = .next (((((s.peak (F.SENSE_INk_PEAK_CODE k) (y.natAbs / 2 ^ 24)).overCount k false).bgSample k h
    raw.toInt y).senseDeliver k (senseValue k y) y false))) ∧
  (∀ (k : Fin 32) (h : Bool) (raw : BitVec 16) (chop : Bool) (s : State), s.senseMode k = 2 → (raw = 0x8000#16 ∨ raw =
    0x7FFF#16) → let neg := decide ((if chop then -1 else 1) * raw.toInt < 0); exec (.senseSample k h raw chop true) s = .next
    ((((((s.bump (F.SENSE_INk_CNT_OVR k)).ev A.SENSE_EVENT 5).wr (F.SENSE_INk_PEAK_CODE k) 0x8000).overCount k true).bgSkip
    k).senseDeliver k (senseFull k neg) ((if neg then -1 else 1) * 32768 * 2 ^ 24) true)) ∧
  (∀ (k : Fin 32) (h : Bool) (raw : BitVec 16) (chop : Bool) (s : State), 2 ≤ s.senseMode k → s.senseMode k ≤ 4 → exec
    (.senseSample k h raw chop false) s = .next (((((s.bump (F.SENSE_INk_CNT_LINK k)).ev A.SENSE_EVENT 6).raise 5 (k % 16) 4 0
    false).bgSkip k).senseDeliver k (s.sin k).value (s.sin k).y false)) ∧
  (∀ (k : Fin 32) (raw : BitVec 16) (chop : Bool) (s : State), s.senseMode k = 3 → exec (.senseSample k true raw chop true) s
    = .next (s.senseDeliver k (s.sin k).value (s.sin k).y false)) ∧
  (∀ (k : Fin 32) (h : Bool) (raw : BitVec 16) (chop ok : Bool) (s : State), (s.senseMode k < 2 ∨ 4 < s.senseMode k) → exec
    (.senseSample k h raw chop ok) s = .next (s)) ∧
  (∀ (k : Fin 32) (s : State), s.senseMode k = 2 → (s.sin k).bad1 = false → exec (.sliceFault k true) s = .next ((((s.setSin k
    { s.sin k with bad1 := true }).ev A.SENSE_EVENT 3).raise 5 (k % 16) 1 0 false).setSenseMode k 3)) ∧
  (∀ (k : Fin 32) (s : State), s.senseMode k = 4 → (s.sin k).bad0 = false → exec (.sliceFault k false) s = .next (((((s.setSin
    k { s.sin k with bad0 := true }).ev A.SENSE_EVENT 3).raise 5 (k % 16) 1 0 false).setSenseMode k 5).raise 5 (k % 16) 2 0
    false)) ∧
  (∀ (k : Fin 32) (s : State), (s.on F.SENSE_CTRL_BG_FREEZE = true ∨ s.senseMode k < 2 ∨ 4 < s.senseMode k) → exec
    (.bgWindowEnd k) s = .next (s)) ∧
  (∀ (k : Fin 32) (s : State), s.on F.SENSE_CTRL_BG_FREEZE = false → s.senseMode k = 4 → (s.sin k).bg.n1 ≠ 0 → -32768 ≤ roundQ
    (16 * (s.sin k).bg.sum1) (s.sin k).bg.n1 → roundQ (16 * (s.sin k).bg.sum1) (s.sin k).bg.n1 ≤ 32767 → exec (.bgWindowEnd k)
    s = .next (((s.setSin k { s.sin k with bg := BgSt.empty }).wrI (F.SENSE_INk_OFS_SLICE1 k) (towards (s.ofs k true) (roundQ
    (16 * (s.sin k).bg.sum1) (s.sin k).bg.n1) 1)).driftUpdate k (s.farShims k))) ∧
  (∀ (on : Bool) (s : State), s.islandStopped A.SENSE_CTRL = false → (s.on F.SENSE_CTRL_BG_FREEZE = false ∨ on = true) → exec
    (.bgFreezeWrite on) s = .next (s.wrB F.SENSE_CTRL_BG_FREEZE on)) ∧
  (∀ (s : State), s.islandStopped A.SENSE_CTRL = false → s.on F.SENSE_CTRL_BG_FREEZE = true → exec (.bgFreezeWrite false) s =
    .next ((s.wrB F.SENSE_CTRL_BG_FREEZE false).forAll 32 (fun k t => t.setSin k { t.sin k with bg := BgSt.empty, prev := none }))) ∧
  (∀ (mask : BitVec 16) (s : State), s.islandStopped A.SENSE_CTRL = false → (∀ c < 16, s.outOf c = none) → exec (.senseCal
    mask) s = .next (s.senseCal mask)) ∧
  (∀ (mask : BitVec 16) (s : State), s.islandStopped A.SENSE_CTRL = false → mask = 0 → exec (.senseCal mask) s = .next (s)) ∧
  (∀ (s : State), s.boot.firmware = true → s.evOn A.PMU_RAILSTAT 7 = true → s.on F.SENSE_STAT_BOOTCAL_DONE = false → s.on
    F.SENSE_STAT_CAL_BUSY = false → exec .senseBootCalStart s = .next ((s.forAll 32 (fun k t => t.calInput k)).wr
    F.SENSE_STAT_CAL_BUSY 1)) ∧
  (∀ (rs : List CalResult) (s : State), exec (.senseCalDone rs) s = .next ((s.calResults rs).outputsKick))

/-- Decimation paths, ratio tracker, resets and threshold units. (Register writes of a running island.) Once the chain has
started an output instant forms one sample of every path; a path whose settling span has passed becomes valid with event
bit 16; a tracker tick moves RATIO and keeps the phase error, 4096 close samples lock and one of more than a quarter
sample unlocks; a reset that is due clears every path, settles it, shows its index and sets event bit 17, or is discarded
and counted; a threshold level is written unless LO would exceed HI; an enabled unit refuses a change of its
configuration; an auxiliary path write that clears EN and leaves COMP empties the path and shows it off. Follows R265,
R270, R272, R275, R276, R278, R279, R282, R283, R284, R285, R286. -/
def Obligations.DecimationAndThresholds : Prop :=
  (∀ (s : State), s.decim.started = true → exec .decimOutputSample s = .next (s.forAll 36 (fun k t => t.pathOutput k))) ∧
  (∀ (k : Fin 36) (s : State), s.rd (F.DECIM_PATHk_STAT_STATE k) = 1 → (s.path k).remain = 0 → exec (.decimSettled k) s =
    .next ((s.wr (F.DECIM_PATHk_STAT_STATE k) 2).ev A.DECIM_EVENT 16)) ∧
  (∀ (err : Int) (s : State), s.decim.started = true → s.rd F.DECIM_TRKSTAT_STATE = 1 → ∃ t, exec (.ratioTrackerTick err) s =
    .next t ∧ ∃ r : Nat × Int, r = Config.trackRatio (s.rd F.DECIM_TRK_BW) (s.rd F.DECIM_RATIO_VALUE) s.decim.loopAcc err ∧
    t.decim.loopAcc = r.2 ∧ t.decim.close ≤ 4096 ∧ (4096 ≤ t.decim.close → t.rd F.DECIM_TRKSTAT_STATE = 2 ∧ t.evOn
    A.DECIM_EVENT 19 = true)) ∧
  (∀ (err : Int) (r : Nat × Int) (s : State), s.decim.started = true → s.rd F.DECIM_TRKSTAT_STATE = 2 → 65536 < err.natAbs * 4
    → r = Config.trackRatio (s.rd F.DECIM_TRK_BW) (s.rd F.DECIM_RATIO_VALUE) s.decim.loopAcc err → exec (.ratioTrackerTick
    err) s = .next ((fun X : State => (({ X with decim := { X.decim with close := 0, loopAcc := r.2 } } : State).ev
    A.DECIM_EVENT 20).trackerAcquire X.decim.seed) (((s.setRatio r.1).peak F.DECIM_PHERR_PEAK err.natAbs).wrI
    F.DECIM_PHERR_NOW (clampInt (-32768) 32767 err)))) ∧
  (∀ (err : Int) (s : State), s.decim.started = false → exec (.ratioTrackerTick err) s = .next (s)) ∧
  (∀ (j : BitVec 32) (s : State), s.decim.resetAt = some j → s.decim.started = true → s.on F.SYS_BLKRST_DECIM = false → exec
    .decimReset s = .next ((({ s with decim := { s.decim with resetAt := none } }.decimClear.settleAll).setReg
    A.DECIM_SYNCSTAT j).ev A.DECIM_EVENT 17)) ∧
  (∀ (j : BitVec 32) (s : State), s.decim.resetAt = some j → s.decim.started = false → exec .decimReset s = .next ((({ s with decim := { s.decim with resetAt := none } }
    : State).bump F.DECIM_CNT_SYNC_DISCARDED).ev A.DECIM_EVENT 18)) ∧
  (∀ (u : Fin 16) (v : Word) (s : State), s.islandStopped (A.DECIM_THRu_CFG u) = false → s.rdI (F.DECIM_THRu_LO_LEVEL u) ≤
    v.toInt → exec (.thrCfgWrite u 1 v) s = .next (s.setReg (A.DECIM_THRu_HI u) v)) ∧
  (∀ (u : Fin 16) (v : Word) (s : State), s.islandStopped (A.DECIM_THRu_CFG u) = false → v.toInt < s.rdI
    (F.DECIM_THRu_LO_LEVEL u) → exec (.thrCfgWrite u 1 v) s = .next (s.bump F.DECIM_CNT_WR_REFUSED)) ∧
  (∀ (u : Fin 16) (v : Word) (s : State), s.islandStopped (A.DECIM_THRu_CFG u) = false → s.on (F.DECIM_THRu_CFG_EN u) = true →
    v &&& 0xEFFF333F &&& 0x7FFFFFFF ≠ s.reg (A.DECIM_THRu_CFG u) &&& 0x7FFFFFFF → exec (.thrCfgWrite u 0 v) s = .next (s.bump
    F.DECIM_CNT_WR_REFUSED)) ∧
  (∀ (k : Fin 4) (v : Word) (s : State), s.islandStopped (A.DECIM_PATHk_CFG (32 + k)) = false → getField v 16 4 = getField
    (s.reg (A.DECIM_PATHk_CFG (32 + k))) 16 4 → v.getLsbD 31 = false → exec (.auxPathCfgWrite k v) s = .next ((((s.setReg
    (A.DECIM_PATHk_CFG (32 + k)) (v &&& 0x800F001F)).pathSuppress (32 + k) 0).setPath (32 + k) PathSt.reset).pathRemain (32 +
    k) 0))

/-- Clamp ceilings, set switches, quick checks, sweeps, tracking. A ceiling is lowered, a raise is counted and flagged (the
current ceiling not below 10); the fallback set of an output that is due takes effect once; an energy sub-window ends. A
quick check or a sweep on an output in no state for it is refused with event bit 8 and counted; a waiting check of free
channels takes its slots while at most eight drive; the end of a check that does not run changes nothing; boot DC
diagnostics start and end once; a sweep point whose measurement is not complete changes nothing, one with a frame that is
not sound is measured again once, any other is added to the sweep while points remain; a paused sweep resumes, or ends;
the end of a tracking period evaluates the bands of an output that is tracked; standby findings act in standby. Follows
R290, R294, R306, R312, R314, R315, R318, R319, R321, R323, R324. -/
def Obligations.ProtectionAndDiagnostics : Prop :=
  (∀ (o : Fin 16) (clamp : Fin 4) (v : BitVec 16) (s : State), clamp.val ≠ 1 → v.toNat ≤ s.rd (ceilingField o clamp) → exec
    (.clampCeilingWrite o clamp v) s = .next (s.wr (ceilingField o clamp) v.toNat)) ∧
  (∀ (o : Fin 16) (clamp : Fin 4) (v : BitVec 16) (s : State), clamp.val ≠ 1 → s.rd (ceilingField o clamp) < v.toNat → exec
    (.clampCeilingWrite o clamp v) s = .next ((s.bump F.GUARD_RAISECNT_COUNT).ev (A.GUARD_OUTo_EVENT o) 11)) ∧
  (∀ (o : Fin 16) (v : BitVec 16) (s : State), max 10 (v.toNat % 256) ≤ s.rd (F.GUARD_OUTo_ICLAMP_A o) → exec
    (.clampCeilingWrite o 1 v) s = .next (s.wr (F.GUARD_OUTo_ICLAMP_A o) (max 10 (v.toNat % 256)))) ∧
  (∀ (o : Fin 16) (e : List (BitVec 8)) (s : State), s.guardEntry o = some e → (s.grd o).fallbackDue = true → u16 e 4 ≠ 0 →
    s.on (F.GUARD_OUTo_STAT_FALLBACK o) = false → exec (.setSwitched o) s = .next ((((s.setGrd o { s.grd o with fallbackDue := false }).takeSet
    o (u16 e 4)).wr (F.GUARD_OUTo_STAT_FALLBACK o) 1).ev (A.GUARD_OUTo_EVENT o) 9)) ∧
  (∀ (o : Fin 16) (s : State), (s.guardEntry o = none ∨ (s.grd o).fallbackDue = false) → exec (.setSwitched o) s = .next (s)) ∧
  (∀ (o : Fin 16) (s : State), exec (.energySubwindowEnd o) s = .next (s.energyEnd o)) ∧
  (∀ (mask : BitVec 16) (s : State), (∀ o < 16, ¬ (s.oState o = oOff ∧ (s.out o).chans ≠ [])) → exec (.quickDcCheck mask) s =
    .next (s.forEach (named mask) (fun o t => (t.ev (A.DIAG_OUTo_EVENT o) 8).bump F.DIAG_CNT_REFUSED))) ∧
  (∀ (o : Fin 16) (mask : BitVec 16) (s : State), mask = BitVec.ofNat 16 (2 ^ o.val) → s.oState o = oOff → (s.out o).chans ≠
    [] → exec (.quickDcCheck mask) s = .next ((fun t : State => (t.setOut o { t.out o with post := false }).askCheck o
    (t.checkChans o) true) (s.newJob 1 mask [o.val]))) ∧
  (∀ (mask : BitVec 16) (s : State), (∀ o < 16, (s.out o).chans = []) → exec (.acSweep mask) s = .next (s.forEach (named mask)
    (fun o t => (t.ev (A.DIAG_OUTo_EVENT o) 8).bump F.DIAG_CNT_REFUSED))) ∧
  (∀ (o : Fin 16) (mask : BitVec 16) (s : State), mask = BitVec.ofNat 16 (2 ^ o.val) → s.oState o = oMuted → (s.out o).chans ≠
    [] → s.sweep o = none → s.fastOff o = false → exec (.acSweep mask) s = .next ((s.newJob 2 mask [o.val]).setSweep o (some { pts := [],
                                                                                                                               frames := [],
                                                                                                                               again := false,
                                                                                                                               starting := false,
                                                                                                                               paused := false,
                                                                                                                               dryfit := false }))) ∧
  (∀ (mask : BitVec 16) (s : State), exec (.diagAbort mask) s = .next (s.forEach (named mask) (fun o t => if (t.sweep
    o).isSome then (t.sweepAbort o).outToward o else t))) ∧
  (∀ (q : QuickCheck) (s : State), s.diag.waiting.find? (fun q => q.chans.all (fun c => !s.calibrating c)) = some q →
    s.diag.running.foldl (fun n x => n + x.drives) 0 + q.drives ≤ 8 → exec .quickCheckStart s = .next ((({ s with diag := { s.diag with waiting := s.diag.waiting.filter (fun x => x.out != q.out),
                                                                                                                                        running := s.diag.running ++ [q] } }
    : State).forEach q.chans (fun c t => t.wr (F.MOD_CHc_STAT_BRIDGE c) 3)).diagStat)) ∧
  (∀ (o : Fin 16) (rs : List DcMeas) (s : State), s.diag.running.find? (fun q => q.out == o.val) = none → exec
    (.quickCheckDone o rs) s = .next (s)) ∧
  (∀ (o : Fin 16) (c : Nat) (rs : List DcMeas) (s : State), s.diag.running.find? (fun q => q.out == o.val) = some { out := o.val,
                                                                                                                    chans := [c],
                                                                                                                    drives := 1,
                                                                                                                    commanded := false }
    → measOf rs c = none → s.noSense c = false → exec (.quickCheckDone o rs) s = .next ((fun t : State => ((({ t with diag := { t.diag with running := t.diag.running.filter (fun x => x.out != o.val) } }
    : State).diagStat.ev (A.DIAG_OUTo_EVENT o) 0).ev (A.DIAG_OUTo_EVENT o) 1).checkEnded o false false) ((s.dcResult c 10
    0xFFFF 1).bridgeOff c))) ∧
  (∀ (s : State), s.boot.firmware = true → s.on F.SENSE_STAT_BOOTCAL_DONE = true → s.on F.DIAG_STAT_BOOT_DONE = false →
    s.diag.boot = false → exec .bootDcDiagStart s = .next (({ s with diag := { s.diag with boot := true } } :
    State).diagCfg.forAll 16 (fun c t => if t.on (F.MOD_CHc_STAT_FENCED c) then t else t.wr (F.MOD_CHc_STAT_BRIDGE c) 3))) ∧
  (∀ (rs : List DcMeas) (s : State), s.diag.boot = false → exec (.bootDcDiagDone rs) s = .next (s)) ∧
  (∀ (rs : List DcMeas) (s : State), s.diag.boot = true → exec (.bootDcDiagDone rs) s = .next ((fun t : State => (t.wr
    F.DIAG_STAT_BOOT_DONE 1).bindAll.bootMute) ((({ s with diag := { s.diag with boot := false, disagree := [] } } :
    State).forAll 8 (fun p u => u.joinFinding p rs)).forAll 16 (fun c u => if u.on (F.MOD_CHc_STAT_FENCED c) then u else
    ((u.dcWrite rs c (u.dcFrom rs c)).when ((u.dcFrom rs c).1 != 10) (fun v => v.setChecked c)).bridgeOff c)))) ∧
  (∀ (o : Fin 16) (w : Sweep) (s : State), s.sweep o = some w → w.starting = false → w.paused = false → sweepMeasure
    (sweepFreq s.diagGlobal w.pts.length) s.fa (s.filterCap (if w.dryfit = true then s.chanOutput o else o)) w.frames.reverse
    = none → exec (.sweepPointDone o) s = .next (s)) ∧
  (∀ (o : Fin 16) (w : Sweep) (s : State), s.sweep o = some w → w.starting = false → w.paused = false → (sweepMeasure
    (sweepFreq s.diagGlobal w.pts.length) s.fa (s.filterCap (if w.dryfit = true then s.chanOutput o else o))
    w.frames.reverse).map (fun x => x.2) = some false → w.again = false → exec (.sweepPointDone o) s = .next (s.setSweep o
    (some { w with frames := [], again := true }))) ∧
  (∀ (o : Fin 16) (w : Sweep) (x : SweepPt × Bool) (s : State), s.sweep o = some w → w.starting = false → w.paused = false →
    (sweepMeasure (sweepFreq s.diagGlobal w.pts.length) s.fa (s.filterCap (if w.dryfit = true then s.chanOutput o else o))
    w.frames.reverse) = some x → (x.2 = true ∨ w.again = true) → w.pts.length + 1 < u8 s.diagGlobal 10 → exec (.sweepPointDone
    o) s = .next (s.setSweep o (some { w with pts := w.pts ++ [x.1], frames := [], again := false }))) ∧
  (∀ (o : Fin 16) (w : Sweep) (s : State), s.sweep o = some w → w.paused = true → exec (.sweepResume o true) s = .next
    (s.setSweep o (some { w with paused := false }))) ∧
  (∀ (o : Fin 16) (w : Sweep) (s : State), s.sweep o = some w → w.paused = true → exec (.sweepResume o false) s = .next
    ((s.sweepAbort o).outToward o)) ∧
  (∀ (o : Fin 16) (s : State), s.tracks o = true → exec (.trackPeriodEnd o) s = .next (s.forAll 3 (fun b t => t.trackEnd o
    b))) ∧
  (∀ (o : Fin 16) (s : State), s.tracks o = false → exec (.trackPeriodEnd o) s = .next (s)) ∧
  (∀ (fs : List (Fin 16 × Fin 3)) (s : State), s.pmu.mode = .standby → u16 s.diagGlobal 2 ≠ 0 → exec (.stbyLineCheck fs) s =
    .next ({ s with diag := { s.diag with stby := (fs.filter (fun f => (u8 (s.diagOut f.1) 1).testBit 2)).foldl (fun w f => putField w (2 * f.1.val) 2 (f.2.val + 1)) 0 } }))

/-- Stage 1 and its straps, later stages, rails, discharges and window trips. Stage 1 starts when it is due and VSYS has
reached the start threshold, with the straps sampled: the first sampling takes the level of BOOTSEL from the resistance's
band, 0 outside every band; a stage-1 rail that reaches its window starts the next one; the timeout of a stage-1 rail
stops the rails, and locks out at the third attempt or waits to retry; the retry starts stage 1 again. A later stage
starts when the one before is complete; a rail it still waits for that times out is stopped, flagged, raised and given up.
The discharge of a rail ends, or is given up with a report. A rail control write that touches stage 1 is refused, a
microphone bias voltage is only changed while it is off and within 2.0 to 3.3 V, a short of a running one stops it.
Follows R36, R329, R330, R332, R333, R334, R336, R344, R345, R346. -/
def Obligations.RailsAndStages : Prop :=
  (∀ (vsys b h0 h1 : Nat) (k : ResetKind) (s : State), s.sys.rst = some (k, .stage1) → s.pmu.stage1 = false → s.pmu.retryWait
    = false → s.pmu.mode = .run → (s.sampleStraps b h0 h1).vsysStart ≤ vsys → exec (.stage1Start vsys b h0 h1) s = .next ((fun
    t : State => ({ t with pmu := { t.pmu with stage1 := true } } : State).railRequest 0) (s.sampleStraps b h0 h1))) ∧
  (∀ (vsys b h0 h1 : Nat) (s : State), vsys < (s.sampleStraps b h0 h1).vsysStart → exec (.stage1Start vsys b h0 h1) s = .next
    (s)) ∧
  (∀ (b h0 h1 : Nat) (s : State), s.boot.strapped = false → (s.sampleStraps b h0 h1).boot.bootsel = (if b < 2000 then 0 else
    if 5000 ≤ b ∧ b ≤ 20000 then 1 else if 30000 ≤ b ∧ b ≤ 150000 then 2 else if 300000 < b then 3 else 0)) ∧
  (∀ (s : State), s.pmu.soft.getLsbD 0 = true → s.pmu.stage1 = true → s.sys.pllAOn = false → exec (.railInWindow 0) s = .next
    ((((({ s with pmu := { s.pmu with soft := s.pmu.soft &&& ~~~ railMask 0 } } : State).setBit A.PMU_RAILSTAT 0 true).setBit
    A.PMU_SUPSTAT 0 false).setBit A.PMU_SUPSTAT 16 false).railRequest 2)) ∧
  (∀ (r : Fin 9) (s : State), r.val ≠ 7 → s.pmu.soft.getLsbD r = false → exec (.railInWindow r) s = .next (s)) ∧
  (∀ (r : Fin 9) (s : State), s.inStage1 = true → s.pmu.soft.getLsbD r = true → r.val < 5 → let t := s.forEach [1, 4, 3, 2, 0] (fun d t => t.railOff d);
    exec (.stage1RailTimeout r) s = .next (if 2 ≤ t.pmu.tries then { t with pmu := { t.pmu with stage1 := false, tries := t.pmu.tries + 1,
                                                                                                lastFail := r, again := 0,
                                                                                                mode := .lockout, lockedOut := true },
                                                                            sys := { t.sys with rst := none } } else { t with pmu := { t.pmu with stage1 := false,
                                                                                                                                                  tries := t.pmu.tries + 1,
                                                                                                                                                  lastFail := r,
                                                                                                                                                  again := 0,
                                                                                                                                                  retryWait := true } })) ∧
  (∀ (s : State), s.pmu.retryWait = true → exec .stage1Retry s = .next (({ s with pmu := { s.pmu with retryWait := false,
                                                                                                      stage1 := true } } :
    State).railRequest 0)) ∧
  (∀ (s : State), s.pmu.seqOn = true → s.pmu.opened = [] → s.pmu.mode = .run → exec .laterStageStart s = .next (s.stageStart)) ∧
  (∀ (r : Fin 9) (s : State), s.pmu.opened.contains r.val = true → exec (.stageTimeout r) s = .next (((((s.railOff r).setBit
    A.PMU_SEQSTAT (16 + r) true).ev A.PMU_EVENT 1).raise 0xA r 1 0 true).stageRail r)) ∧
  (∀ (r : Fin 9) (s : State), s.railDis r = true → exec (.railDischarged r) s = .next ((((s.setBit A.PMU_RAILSTAT (16 + r)
    false).railAgain r).downDone r).wakeLatched)) ∧
  (∀ (r : Fin 9) (s : State), s.railDis r = true → exec (.dischargeTimeout r) s = .next (((((s.ev A.PMU_EVENT 17).raise 0xA r
    7 0 true).railAgain r).downDone r).wakeLatched)) ∧
  (∀ (r : Fin 9) (above : Bool) (s : State), (r.val = 5 ∨ r.val = 6) → s.pmu.enabled.getLsbD r = true → s.pmu.soft.getLsbD r =
    false → let t := if s.hkInBand r then s.bump F.PMU_CNT2_SUP_DISAGREE else s; exec (.railWindowTrip r above) s = .next
    ((((((t.bump F.PMU_CNT2_RAIL_TRIPS).setBit A.PMU_SUPSTAT (if above then 16 + r.val else r.val) true).ev A.PMU_EVENT (if
    above then 13 else 12)).setBit A.PMU_RAILSTAT r false)).raise 0xA r 2 0 false)) ∧
  (∀ (r : Fin 9) (above : Bool) (s : State), (s.pmu.enabled.getLsbD r = false ∨ s.pmu.soft.getLsbD r = true) → exec
    (.railWindowTrip r above) s = .next (s)) ∧
  (∀ (v : Word) (s : State), (getField v 0 5 ≠ 0 ∨ s.sys.pllAOn = false) → exec (.railCtrlWrite v) s = .next (s.bump
    F.PMU_CNT_REFUSED)) ∧
  (∀ (v : Word) (s : State), (¬ (getField v 0 5 ≠ 0 ∨ s.sys.pllAOn = false)) → v.getLsbD 5 = false → v.getLsbD 6 = false →
    v.getLsbD 8 = true → s.evOn A.PMU_RAILCTRL 5 = false → s.evOn A.PMU_RAILCTRL 6 = false → s.on F.PMU_RAILCTRL_CHG_EN =
    false → s.holdState ≠ 3 → exec (.railCtrlWrite v) s = .next ((((s.setBit A.PMU_RAILCTRL 5 false).setBit A.PMU_RAILCTRL 6
    false).wrB F.PMU_RAILCTRL_CHG_EN true).chgStart)) ∧
  (∀ (v : Word) (s : State), getField v F.PMU_MICB_CFG_MICB0.lo 7 = s.rd F.PMU_MICB_CFG_MICB0 → getField v
    F.PMU_MICB_CFG_MICB1.lo 7 ≠ s.rd F.PMU_MICB_CFG_MICB1 → s.pmu.enabled.getLsbD 6 = true → exec (.micbCfgWrite v) s = .next
    (s.bump F.PMU_CNT_REFUSED)) ∧
  (∀ (v : Word) (s : State), getField v F.PMU_MICB_CFG_MICB0.lo 7 = s.rd F.PMU_MICB_CFG_MICB0 → getField v
    F.PMU_MICB_CFG_MICB1.lo 7 ≠ s.rd F.PMU_MICB_CFG_MICB1 → s.pmu.enabled.getLsbD 6 = false → 20 ≤ getField v
    F.PMU_MICB_CFG_MICB1.lo 7 → getField v F.PMU_MICB_CFG_MICB1.lo 7 ≤ 33 → exec (.micbCfgWrite v) s = .next ((s.wr
    F.PMU_MICB_CFG_MICB1 (getField v F.PMU_MICB_CFG_MICB1.lo 7)).hkMicb)) ∧
  (∀ (under : Bool) (s : State), s.pmu.enabled.getLsbD 6 = true → under = false → exec (.micbShort true under) s = .next
    ((((s.ev A.PMU_EVENT 14).setBit A.PMU_RAILCTRL 6 false).railOff 6).stageRail 6))

/-- The PVDD converter: demands, limits, protection and restart. A batch on its way joins the queue and its late demands are
active at once, a batch that does not fit is discarded and counted; demands become active and expire in order, V_T formed
again each time; the look-ahead timeout, once no batch has come for two periods, sets the static level with event bit 6
and does nothing before; a limit episode is counted and flagged; four, two or one phase run by the output current and the
thresholds; a phase above 1.5 × PH_ILIM in both of two periods stops it, flagged, with bit 11 and class 0xA code 4 when it
is the second in a second; a restart soft-starts from the present PVDD; an overvoltage, above 56 V or for 50 µs above the
limit over V_C, stops switching, and it clears inside that limit; 50 µs below 10 V is an undervoltage; PVDD in window for
long enough lets the outputs start; VBAT at the low threshold of its set or at 60 V sets its bit, 65 V stops and 62 V
resumes the converter. Follows R328, R337, R339, R340, R341, R342, R343, R344. -/
def Obligations.PvddConverterAndDemands : Prop :=
  (∀ (s : State), (s.pmu.enabled.getLsbD 7 = false ∨ s.pmu.follow = true) → exec .pvddSoftStartDone s = .next (s)) ∧
  (∀ (s : State), s.pvddRuns = true → s.pmu.follow = false → let t : State := { s with pmu := { s.pmu with follow := true,
                                                                                                           vcFrom := s.rd F.PMU_PVDD_STATIC_VOLTS,
                                                                                                           vcTime := s.now, vT := s.rd F.PMU_PVDD_STATIC_VOLTS,
                                                                                                           pvddOk := !s.pmu.pvddLost,
                                                                                                           soft := s.pmu.soft ||| railMask rPvdd } };
    exec .pvddSoftStartDone s = .next (t.railReady rPvdd).pvddTarget.outputsKick) ∧
  (∀ (late : Nat) (b : List Demand) (rest : List (List Demand)) (s : State), s.dsp.laSent = b :: rest → 128 <
    s.pmu.queue.length + b.length → exec (.laBatchArrive late) s = .next ((({ s with dsp := { s.dsp with laSent := rest } } :
    State).demandsLate b.length).pvddTarget)) ∧
  (∀ (late : Nat) (b : List Demand) (rest : List (List Demand)) (s : State), s.dsp.laSent = b :: rest → s.pmu.queue.length +
    b.length ≤ 128 → let t := ({ s with dsp := { s.dsp with laSent := rest } } : State).setDemands (s.pmu.queue ++ (b.take (min late b.length)).map (fun d => (d, true)) ++ (b.drop (min late b.length)).map (fun d => (d, false)));
    exec (.laBatchArrive late) s = .next ((({ t with pmu := { t.pmu with laStatic := false } } : State).demandsLate (min late
    b.length)).pvddTarget)) ∧
  (∀ (s : State), s.pmu.queue.all (fun d => d.2) = false → exec .demandActive s = .next ((s.setDemands (activateFirst
    s.pmu.queue)).pvddTarget)) ∧
  (∀ (s : State), s.pmu.queue ≠ [] → exec .demandExpired s = .next ((s.setDemands s.pmu.queue.tail).pvddTarget)) ∧
  (∀ (s : State), s.laSilent = true → exec .laTimeout s = .next (((({ s with pmu := { s.pmu with laStatic := true } } :
    State).ev A.PMU_EVENT 6).pvddTarget).scaleStatic)) ∧
  (∀ (s : State), s.laSilent = false → exec .laTimeout s = .next (s)) ∧
  (∀ (cause : BitVec 4) (power : BitVec 16) (s : State), s.pvddRuns = true → cause = 8 → exec (.pvddLimited cause power) s =
    .next (((((s.wr F.PMU_PVDD_STAT2_CAUSE 8).ev A.PMU_EVENT 4).bump F.PMU_CNT_PVDD_LIMITED).bump F.GOV_CNT_PVDD_EPISODES).ev
    A.GOV_EVENT 10)) ∧
  (∀ (cause : BitVec 4) (power : BitVec 16) (s : State), s.pvddRuns = true → cause = 2 → let t := ((((s.wr F.PMU_PVDD_STAT2_CAUSE 2).ev A.PMU_EVENT 4).bump F.PMU_CNT_PVDD_LIMITED).bump F.GOV_CNT_PVDD_EPISODES).ev A.GOV_EVENT 10;
    exec (.pvddLimited cause power) s = .next { t with gov := { t.gov with limitedAt := some power.toNat } }) ∧
  (∀ (power : BitVec 16) (s : State), exec (.pvddLimited 0 power) s = .next (s.wr F.PMU_PVDD_STAT2_CAUSE 0)) ∧
  (∀ (amps : Nat) (s : State), s.pvddRuns = true → s.on F.PMU_PVDD_CFG_SHED_EN = true → exec (.phaseShed amps) s = .next (s.wr
    F.PMU_PVDD_STAT2_PHASES (if s.rd F.PMU_PVDD_CFG_PH_SHED2 < amps then 4 else if s.rd F.PMU_PVDD_CFG_PH_SHED1 ≤ amps then 2
    else 1))) ∧
  (∀ (first second : Nat) (s : State), s.pvddRuns = true → 15 * s.rd F.PMU_ILIM_PH_ILIM < min first second → s.recent
    s.pmu.ocpTimes 1000000 = [] → exec (.pvddOcp first second) s = .next ((({ s with pmu := { s.pmu with ocp := true, pvddFail := false,
                                                                                                         follow := false,
                                                                                                         vcFrom := 0, vcTime := s.now,
                                                                                                         vT := 0, soft := s.pmu.soft &&& ~~~ railMask rPvdd,
                                                                                                         ocpTimes := [s.now] } }
    : State).ev A.PMU_EVENT 8).pvddStat.pvddOut)) ∧
  (∀ (first second : Nat) (s : State), s.pvddRuns = true → 15 * s.rd F.PMU_ILIM_PH_ILIM < min first second → s.recent
    s.pmu.ocpTimes 1000000 ≠ [] → exec (.pvddOcp first second) s = .next ((((({ s with pmu := { s.pmu with ocp := true,
                                                                                                           pvddFail := true,
                                                                                                           follow := false,
                                                                                                           vcFrom := 0, vcTime := s.now,
                                                                                                           vT := 0, soft := s.pmu.soft &&& ~~~ railMask rPvdd,
                                                                                                           ocpTimes := s.recent s.pmu.ocpTimes 1000000 ++ [s.now] } }
    : State).ev A.PMU_EVENT 8).pvddStat.pvddOut).ev A.PMU_EVENT 11).raise 0xA rPvdd 4 0 true)) ∧
  (∀ (first second : Nat) (s : State), min first second ≤ 15 * s.rd F.PMU_ILIM_PH_ILIM → exec (.pvddOcp first second) s =
    .next (s)) ∧
  (∀ (volts : BitVec 16) (s : State), s.pmu.ocp = true → s.pmu.pvddFail = false → s.pmu.enabled.getLsbD 7 = true → exec
    (.pvddOcpRestart volts) s = .next (s.pvddStart volts.toNat)) ∧
  (∀ (volts : BitVec 16) (us : Nat) (s : State), (56 * 1024 < volts.toNat ∨ 50 ≤ us ∧ s.overVc volts.toNat = true) →
    s.pmu.enabled.getLsbD 7 = true → s.pmu.ov = false → exec (.pvddOv volts us) s = .next (((({ s with pmu := { s.pmu with ov := true } }
    : State).pvddStat.ev A.PMU_EVENT 9).raise 0xA rPvdd 5 0 false).pvddOut)) ∧
  (∀ (volts : BitVec 16) (s : State), s.pmu.ov = true → 10 * volts.toNat ≤ 10 * s.vcNow + max (30 * 1024) s.vcNow → exec
    (.pvddOvCleared volts) s = .next (({ s with pmu := { s.pmu with ov := false } } : State).pvddStat)) ∧
  (∀ (volts : BitVec 16) (us : Nat) (s : State), volts.toNat < 10 * 1024 → 50 ≤ us → s.pmu.enabled.getLsbD 7 = true →
    s.pmu.follow = true → exec (.pvddUv volts us) s = .next ((s.ev A.PMU_EVENT 10).pvddOut)) ∧
  (∀ (s : State), s.pmu.pvddLost = true → s.pmu.follow = true → s.pvddRuns = true → exec .pvddWindowRestored s = .next ((((({ s with pmu := { s.pmu with pvddLost := false,
                                                                                                                                                         pvddOk := true } }
    : State).setBit A.PMU_RAILSTAT rPvdd true).setBit A.PMU_SUPSTAT rPvdd false).setBit A.PMU_SUPSTAT (16 + rPvdd)
    false).outputsKick)) ∧
  (∀ (s : State), s.on F.SYS_CLKSTAT_XTAL_OK = true → exec .pvddClockReturn s = .next (s.wr F.PMU_PVDD_STAT2_CLKFB 0)) ∧
  (∀ (mv : Nat) (s : State), mv = (if s.boot.bootsel % 2 = 0 then 9000 else 36000) → exec (.vbatThreshold mv false) s = .next
    (s.ev A.PMU_EVENT 28)) ∧
  (∀ (s : State), exec (.vbatThreshold 60000 true) s = .next (s.ev A.PMU_EVENT 29)) ∧
  (∀ (s : State), exec (.vbatThreshold 65000 true) s = .next (({ s with pmu := { s.pmu with vbatStop := true } } :
    State).pvddStat)) ∧
  (∀ (s : State), exec (.vbatThreshold 62000 false) s = .next (({ s with pmu := { s.pmu with vbatStop := false } } :
    State).pvddStat))

/-- The hold-up bank, standby entry and the wakes. A charging bank that is full becomes READY with event bit 23; a charger
fault stops it with bit 24 and class 0xA code 6; HOLDUP is entered from READY, or from CHARGING with HOLD 5 V above the
floor, and from no other, counted and flagged with the P0 rules on; it is left for CHARGING, SPENT, or not at all where it
does not stand. A standby request needs its key and an inactive WAKE pin; in HOLDUP it waits; standby is reached once
everything is down. The WAKE configuration is mirrored into AON, a pin change restarts the WAKE_OFF count, each wake
source acts where it is enabled, and a match of the host address holds SCL until it is released. Follows R346, R347, R348,
R349, R350, R351, R352, R417. -/
def Obligations.HoldupStandbyAndWake : Prop :=
  (∀ (s : State), s.holdState = 1 → exec .bankReady s = .next (((s.setHold 2).railReady rChg).ev A.PMU_EVENT 23)) ∧
  (∀ (s : State), (s.holdState = 1 ∨ s.holdState = 2) → exec .chgFault s = .next ((s.chgStop.ev A.PMU_EVENT 24).raise 0xA rChg
    6 0 true)) ∧
  (∀ (hold : Nat) (s : State), (s.holdState = 2 ∨ s.holdState = 1 ∧ s.rd F.PMU_HOLD_CFG_HU_FLOOR + 20 ≤ hold) → let t := ((s.setHold 3).ev A.PMU_EVENT 20).bump F.PMU_CNT_HU_ENTRIES;
    exec (.holdupEnter hold) s = .next ((((({ t with pmu := { t.pmu with huTime := t.now } } : State).forAll 16 (fun o u =>
    u.setGout o { u.gout o with hu := some ((u.gout o).hu.getD 0) })).wr F.PMU_HOLD_STAT_HU_ELAPSED 0).wr F.GOV_STATUS_HOLDUP
    1).ev A.GOV_EVENT 12)) ∧
  (∀ (hold : Nat) (s : State), s.holdState ≠ 2 → (s.holdState = 1 → hold < s.rd F.PMU_HOLD_CFG_HU_FLOOR + 20) → exec
    (.holdupEnter hold) s = .next (s)) ∧
  (∀ (s : State), s.holdState = 3 → exec .holdupExit s = .next (((s.holdupLeave 1).ev A.PMU_EVENT 21).holdupEnded)) ∧
  (∀ (s : State), s.holdState = 4 → exec .holdupExit s = .next (s.setHold 1)) ∧
  (∀ (s : State), s.holdState = 3 → exec .holdupSpent s = .next (((s.holdupLeave 4).ev A.PMU_EVENT 22).holdupEnded)) ∧
  (∀ (v : Word) (s : State), getField v 16 16 ≠ 0x5342 → exec (.stbyGo v) s = .next (s.bump F.PMU_CNT_REFUSED)) ∧
  (∀ (v : Word) (s : State), getField v 16 16 = 0x5342 → v.getLsbD 0 = true → s.pmu.wakePin = true → s.on F.PMU_WAKECFG_PIN_EN
    = true → exec (.stbyGo v) s = .next ((s.bump F.PMU_CNT_REFUSED).ev A.PMU_EVENT 2)) ∧
  (∀ (v : Word) (s : State), getField v 16 16 = 0x5342 → v.getLsbD 0 = true → s.pmu.wakePin = false → s.pmu.mode = .run →
    s.holdState ≠ 3 → exec (.stbyGo v) s = .next (s.standbyEnter)) ∧
  (∀ (v : Word) (s : State), getField v 16 16 = 0x5342 → v.getLsbD 0 = true → s.pmu.wakePin = false → s.pmu.mode = .run →
    s.holdState = 3 → exec (.stbyGo v) s = .next (({ s with pmu := { s.pmu with stbyDue := true } } : State).ev A.PMU_EVENT
    3)) ∧
  (∀ (s : State), s.on F.PMU_WAKECFG_WAKE_OFF = true → s.pmu.wakeCount = true → s.sys.dieHeld = false → exec .stbyAuto s =
    .next (s.standbyRequest)) ∧
  (∀ (s : State), s.pmu.mode = .entry → s.sys.dieHeld = true → s.pmu.down = [] → s.pmu.wakeDue = 0 → exec .stbyCurrentReached
    s = .next ({ s with pmu := { s.pmu with mode := .standby } })) ∧
  (∀ (v : Word) (s : State), (getField v 0 3 = 0 ∨ getField v 8 8 = 0) → exec (.wakecfgWrite v) s = .next (s.bump
    F.PMU_CNT_REFUSED)) ∧
  (∀ (v : Word) (s : State), getField v 0 3 ≠ 0 → getField v 8 8 ≠ 0 → ∃ t, exec (.wakecfgWrite v) s = .next t ∧ t.reg
    A.PMU_WAKECFG = v &&& 0x00FFFF07 ∧ t.pmu.wakeCfg = v &&& 0x00FFFF07 ∧ t.pmu.wakeCount = !s.pmu.wakePin ∧ t.outs = s.outs ∧
    t.gov = s.gov ∧ t.mem = s.mem ∧ (∀ a, a ≠ A.PMU_WAKECFG → t.reg a = s.reg a)) ∧
  (∀ (on : Bool) (s : State), exec (.wakePinChange on) s = .next ({ s with pmu := { s.pmu with wakePin := on, wakeCount := !on } })) ∧
  (∀ (s : State), s.pmu.wakeCfg.getLsbD 0 = true → exec .wakePinWake s = .next (({ s with pmu := { s.pmu with wakePin := true,
                                                                                                              wakeCount := false } }
    : State).wake 1)) ∧
  (∀ (s : State), s.pmu.wakeCfg.getLsbD 2 = true → exec .ringActivityWake s = .next (s.wake 4)) ∧
  (∀ (addr : BitVec 7) (s : State), s.pmu.wakeCfg.getLsbD 1 = true → s.pmu.mode = .standby → addr.toNat = s.hbus.matchAddr → let t := ({ s with pmu := { s.pmu with wakeSrc := 2 } } : State).resetTrigger .wake; exec (.hostMatchWake addr) s = .next { t with hbus := { t.hbus with sclHeld := true, matched := true } }) ∧
  (∀ (addr : BitVec 7) (s : State), addr.toNat ≠ s.hbus.matchAddr → exec (.hostMatchWake addr) s = .next (s)) ∧
  (∀ (s : State), exec .hostMatchRelease s = .next ({ s with hbus := { s.hbus with sclHeld := false } }))

/-- Energy evaluation, the energy limit, discharge and the power budget. With the bus up, both results valid and boot lock
set an evaluation writes the energies of the two stores, sends the caps to SUP and judges the sum; without lock it does
nothing. A limit within its bounds outside a discharge is written with APPLIED cleared, any other is refused, counted and
flagged. CRASH_N held for 10 µs starts a crash discharge of a running device and only latches CRASH while the die is held,
a shorter pulse does neither; the discharge command needs its key; step 3 stops PVDD and turns PDIS on, the end, unless
the stored energy is measured above 0.2 J, sets DISCHARGED with event bit 5, a failure sets bit 6 and raises class 0xB
code 2. The allocation writes P_AVAIL, the reserve report and one grant per bound output. Follows R354, R355, R356, R357,
R359, R361, R363, R364, R367. -/
def Obligations.EnergyGovernor : Prop :=
  (∀ (p h : Nat × HkEnt) (s : State), s.busUp = true → s.on F.SEC_LOCKSTAT_LOCKED = true → s.hkResult 2 = some p → s.hkResult
    3 = some h → let ep := s.storeEnergy (s.rd F.GOV_CAP_PVDD) p; let eh := s.storeEnergy (s.rd F.GOV_CAP_HOLD) h; let t := (s.wr F.GOV_ENERGY_PVDD (joules ep)).wr F.GOV_ENERGY_HOLD (joules eh);
    exec .govEvaluate s = .next ((t.sendCaps (t.pvddCapOf eh) t.bankCap (hkVolts h)).judgeEnergy (ep.1 * eh.2 + eh.1 * ep.2,
    ep.2 * eh.2))) ∧
  (∀ (s : State), s.on F.SEC_LOCKSTAT_LOCKED = false → exec .govEvaluate s = .next (s)) ∧
  (∀ (v : Word) (s : State), s.rd F.GOV_LIMIT_MAX_MIN ≤ getField v 0 16 → getField v 0 16 ≤ s.rd F.GOV_LIMIT_MAX_MAX → s.on
    F.GOV_STATUS_DISCHARGE = false → exec (.govLimitWrite v) s = .next ((s.wr F.GOV_LIMIT_JOULES (getField v 0 16)).wr
    F.GOV_STATUS_APPLIED 0)) ∧
  (∀ (v : Word) (s : State), (getField v 0 16 < s.rd F.GOV_LIMIT_MAX_MIN ∨ s.rd F.GOV_LIMIT_MAX_MAX < getField v 0 16 ∨ s.on
    F.GOV_STATUS_DISCHARGE = true) → exec (.govLimitWrite v) s = .next ((s.bump F.GOV_CNT_REFUSED).ev A.GOV_EVENT 1)) ∧
  (∀ (us : Nat) (s : State), 10 ≤ us → s.pmu.mode = .run → s.sys.dieHeld = false → exec (.crashN us) s = .next (({ s with pmu := { s.pmu with crashLow := true } }
    : State).discharge true)) ∧
  (∀ (us : Nat) (s : State), 10 ≤ us → s.pmu.mode = .run → s.sys.dieHeld = true → exec (.crashN us) s = .next ({ s with pmu := { s.pmu with crashLow := true,
                                                                                                                                            crash := true } })) ∧
  (∀ (us : Nat) (s : State), us < 10 → exec (.crashN us) s = .next ({ s with pmu := { s.pmu with crashLow := decide (us ≠ 0) } })) ∧
  (∀ (v : Word) (s : State), getField v 16 16 ≠ 0x4443 → exec (.govDischarge v) s = .next (s.bump F.GOV_CNT_REFUSED)) ∧
  (∀ (v : Word) (s : State), getField v 16 16 = 0x4443 → v.getLsbD 0 = true → exec (.govDischarge v) s = .next (s.discharge
    false)) ∧
  (∀ (s : State), s.on F.GOV_STATUS_DISCHARGE = true → s.gov.pdis = false → exec .dischargePvddStop s = .next ((fun t : State
    => { t with gov := { t.gov with pdis := true } }) s.pvddStop)) ∧
  (∀ (s : State), s.on F.GOV_STATUS_DISCHARGE = true → s.on F.GOV_STATUS_DISCHARGED = false → s.energySpent ≠ some false →
    exec .dischargeDone s = .next (((s.wr F.GOV_STATUS_DISCHARGED 1).ev A.GOV_EVENT 5).downStart)) ∧
  (∀ (s : State), s.energySpent = some false → exec .dischargeDone s = .next (s)) ∧
  (∀ (s : State), s.on F.GOV_STATUS_DISCHARGE = true → s.on F.GOV_STATUS_DISCHARGED = false → s.energySpent ≠ some true → exec
    .disFail s = .next (((s.ev A.GOV_EVENT 6).raise 0xB 0 2 0 true).downStart)) ∧
  (∀ (s : State), s.boot.firmware = false → exec .govAllocate s = .next (s)) ∧
  (∀ (s : State), s.boot.firmware = true → s.busUp = true → (∀ o < 16, (s.out o).chans = []) → ∃ t, exec .govAllocate s =
    .next t ∧ t.outs = s.outs ∧ t.mem = s.mem ∧ t.gov.shortOn = false ∧ t.gov.limitedAt = none)

/-- The housekeeping converter: conversions, requests, calibration, sequence. (Register writes while the converter's clock
runs.) At the end of a slot the injected entry that had it converts with event bit 8, else the present entry of the
sequence does and the sequence goes on, and the oldest queued request has the next slot; a stopped converter does nothing.
Triggers request their entries; a timer of period 0 does nothing. The reference sets REF_RDY with bit 4 and starts the
boot calibration once; a clock stop empties the queue, clears the accumulators and abandons a calibration. A calibration
is pending once, starts with no injected conversion queued or in progress, and ends with its shims where they lie in
range, or with CAL_FAIL. A due sequence is taken at a slot boundary with bit 12; a window of an entry is written unless it
backs a rail or is empty. Follows R373, R375, R376, R377, R379, R380, R381, R382, R383, R384. -/
def Obligations.HousekeepingConverter : Prop :=
  (∀ (x : BitVec 12) (s : State), s.hkRuns = false → exec (.hkConversion x) s = .next (s)) ∧
  (∀ (x : BitVec 12) (k : Nat) (s : State), s.hkRuns = true → s.hk.inj = some k → exec (.hkConversion x) s = .next
    ((s.hkInjected k x.toNat).hkAssign)) ∧
  (∀ (x : BitVec 12) (e : HkEnt) (s : State), s.hkRuns = true → s.hk.inj = none → s.hk.seq.ent s.hk.pos = some e →
    s.hk.seq.table = false → exec (.hkConversion x) s = .next ((s.hkConvert e x.toNat).hkNext.hkAssign)) ∧
  (∀ (k : Fin 8) (s : State), k.val ≠ 0 → k.val ≠ 7 → exec (.hkInjectTrigger k) s = .next (s.forEach (s.hkTriggered k) (fun j
    t => t.hkRequest j))) ∧
  (∀ (bits : BitVec 8) (s : State), s.islandStopped A.HKADC_CTRL = false → exec (.swTrig bits) s = .next (s.forEach
    ((s.hkTriggered 0).filter (fun k => bits.getLsbD (k - 32))) (fun k t => t.hkRequest k))) ∧
  (∀ (s : State), s.rd F.HKADC_TIMER_PERIOD = 0 → exec .hkTimer s = .next (s)) ∧
  (∀ (s : State), s.rd F.HKADC_TIMER_PERIOD ≠ 0 → exec .hkTimer s = .next (s.forEach (s.hkTriggered 7) (fun k t => t.hkRequest
    k))) ∧
  (∀ (s : State), s.hk.refOn = true → s.on F.HKADC_STAT_RUN = true → s.on F.HKADC_STAT_REF_RDY = false → s.hk.bootCal = true →
    s.hk.calAgain = false → exec .refReady s = .next ((s.wr F.HKADC_STAT_REF_RDY 1).ev A.HKADC_EVENT 4)) ∧
  (∀ (s : State), s.on F.HKADC_STAT_RUN = true → s.on F.SYS_CLKSTAT_XTAL_OK = false → s.on F.HKADC_STAT_CAL_BUSY = false → let t := ((((s.wr F.HKADC_STAT_RUN 0).wr F.HKADC_STAT_REF_RDY 0).setHkQueue []).ev A.HKADC_EVENT 14);
    exec .hkClockStop s = .next { t with hk := { t.hk with accs := [], inj := none, calAgain := s.hk.calAgain } }) ∧
  (∀ (s : State), s.islandStopped A.HKADC_CTRL = false → s.on F.HKADC_STAT_CAL_PENDING = false → exec .hkCal s = .next ((s.wr
    F.HKADC_STAT_CAL_PENDING 1).wr F.HKADC_CTRL_CAL 1)) ∧
  (∀ (s : State), s.on F.HKADC_STAT_CAL_PENDING = true → s.hkRuns = true → s.on F.HKADC_STAT_REF_RDY = true → s.hk.queue = []
    → s.hk.inj = none → exec .hkCalStart s = .next (s.wr F.HKADC_STAT_CAL_BUSY 1)) ∧
  (∀ (a b : BitVec 16) (s : State), s.on F.HKADC_STAT_CAL_BUSY = true → a.toInt.natAbs ≤ 512 → b.toInt.natAbs ≤ 1966 → let t := { s with hk := { s.hk with accs := [],
                                                                                                                                                           calTemp := (s.hkResult 32).map (fun (r : Nat × HkEnt) => (r.1 * 2 ^ r.2.shift, r.2.n)) } };
    exec (.hkCalDone a b) s = .next ((((((((t.wr F.HKADC_STAT_CAL_BUSY 0).wr F.HKADC_STAT_CAL_PENDING 0).wr F.HKADC_CTRL_CAL
    0).wr F.HKADC_SHIM_OFFSET a.toNat).wr F.HKADC_SHIM_GAIN b.toNat).wr F.HKADC_STAT_CAL_FAIL 0).ev A.HKADC_EVENT 0).bump
    F.HKADC_CNT2_CAL_COUNT)) ∧
  (∀ (a b : BitVec 16) (s : State), s.on F.HKADC_STAT_CAL_BUSY = true → (512 < a.toInt.natAbs ∨ 1966 < b.toInt.natAbs) → let t := { s with hk := { s.hk with accs := [],
                                                                                                                                                             calTemp := (s.hkResult 32).map (fun (r : Nat × HkEnt) => (r.1 * 2 ^ r.2.shift, r.2.n)) } };
    exec (.hkCalDone a b) s = .next ((((((t.wr F.HKADC_STAT_CAL_BUSY 0).wr F.HKADC_STAT_CAL_PENDING 0).wr F.HKADC_CTRL_CAL
    0).wr F.HKADC_STAT_CAL_FAIL 1).ev A.HKADC_EVENT 1).raise 0xC 0 1 0 true)) ∧
  (∀ (s : State), s.hk.seqDue = none → exec .hkSeqApply s = .next (s)) ∧
  (∀ (q : HkSeq) (s : State), s.hk.seqDue = some q → s.hk.queue = [] → s.hk.inj = none → s.hkRuns = true → let t := s.forAll 64 (fun k t => if (s.hk.seq.ent k).map (fun e => e.input) == (q.ent k).map (fun e => e.input) then t else (t.setReg (A.HKADC_ENTk_RES k) 0).setReg (A.HKADC_ENTk_MM k) (regDefault (A.HKADC_ENTk_MM k)));
    exec .hkSeqApply s = .next ((((({ t with hk := { t.hk with seq := q, seqDue := none, accs := [], pos := 0, settled := 0,
                                                               done := 0 } } : State).wrB F.HKADC_STAT_MODE q.table).wr
    F.HKADC_TIMER_PERIOD q.timer).hkMicb.ev A.HKADC_EVENT 12).bumpWrap F.HKADC_STAT_SEQ_GEN)) ∧
  (∀ (k : Fin 64) (v : Word) (s : State), s.islandStopped (A.HKADC_ENTk_WIN k) = false → getField v 16 16 < getField v 0 16 →
    exec (.hkWinWrite k v) s = .next ((s.bump F.HKADC_CNT2_WR_REFUSED).ev A.HKADC_EVENT 15)) ∧
  (∀ (k : Fin 64) (v : Word) (s : State), s.islandStopped (A.HKADC_ENTk_WIN k) = false → getField v 0 16 ≤ getField v 16 16 →
    s.hk.seq.ent k = none → ∃ t, exec (.hkWinWrite k v) s = .next t ∧ t.reg (A.HKADC_ENTk_WIN k) = v ∧ (∀ a, a ≠
    A.HKADC_ENTk_WIN k → t.reg a = s.reg a) ∧ t.pmu = s.pmu ∧ t.mem = s.mem)

/-- Fault events: arrival, classification, windows, fences, watchdog and jig. An event whose rule reacts by no safe entry
joins the normal queue; the 33rd is lost, counted and flagged; a masked one is counted. The oldest event on its way is
taken first. The priority queue is classified before the normal one; nothing happens on empty queues. A window advance
moves FCOL_TICK. A fence on its way reaches its channel, core or region. The configuration mismatch and the SAFE command
with its key enter safe state directly; safe state once entered stays. Only firmware commits, kicks and writes rules.
ALIVE toggles while it runs; a kick and the first commit restart the watchdog, which raises class 14 code 1 where the time
without a kick allows 500 000 cycles (9523 µs, log entry 188) and does nothing before; the jig is armed in an open device
and reports a missed detection. Follows R391, R392, R393, R394, R395, R397, R399, R406, R408, R410, R412. -/
def Obligations.FaultIntake : Prop :=
  (∀ (e : FaultEvt) (roll : Bool) (s : State), s.sys.dieHeld = false → e.jig = false → s.evtMasked e = true → exec
    (.fcolEventArrive (some e) roll) s = .next (s.bump F.FCOL_CNT_MASKED)) ∧
  (∀ (e : FaultEvt) (roll : Bool) (s : State), s.sys.dieHeld = false → e.jig = false → s.evtMasked e = false → ((s.reactBytes
    (s.ruleMatch e.id) e.id).1 % 8 ≠ 4 ∧ (s.reactBytes (s.ruleMatch e.id) e.id).2.1 % 8 ≠ 4 ∧ (s.reactBytes (s.ruleMatch e.id)
    e.id).2.2 % 8 ≠ 4) → s.fcol.normal.length < 32 → exec (.fcolEventArrive (some e) roll) s = .next ({ s with fcol := { s.fcol with normal := s.fcol.normal ++ [{ ev := e,
                                                                                                                                                                   rule := s.ruleMatch e.id,
                                                                                                                                                                   atRollover := roll && decide (s.rd F.FCOL_TICK_COUNT % s.evtWindow (s.ruleMatch e.id) = 0),
                                                                                                                                                                   contained := false }] } })) ∧
  (∀ (e : FaultEvt) (roll : Bool) (s : State), s.sys.dieHeld = false → e.jig = false → s.evtMasked e = false → ((s.reactBytes
    (s.ruleMatch e.id) e.id).1 % 8 ≠ 4 ∧ (s.reactBytes (s.ruleMatch e.id) e.id).2.1 % 8 ≠ 4 ∧ (s.reactBytes (s.ruleMatch e.id)
    e.id).2.2 % 8 ≠ 4) → 32 ≤ s.fcol.normal.length → exec (.fcolEventArrive (some e) roll) s = .next ((({ s with fcol := { s.fcol with overflowDue := true } }
    : State).bump F.FCOL_CNT_LOST).ev A.FCOL_EVENT 7)) ∧
  (∀ (e : FaultEvt) (rest : List FaultEvt) (roll : Bool) (s : State), s.fcol.inFlight = e :: rest → exec (.fcolEventArrive
    none roll) s = .next (({ s with fcol := { s.fcol with inFlight := rest } } : State).fcolArrive e roll)) ∧
  (∀ (q : QEvt) (rest : List QEvt) (s : State), s.fcol.prio = q :: rest → exec .fcolClassify s = .next (({ s with fcol := { s.fcol with prio := rest } }
    : State).fcolClassify q)) ∧
  (∀ (q : QEvt) (rest : List QEvt) (s : State), s.fcol.prio = [] → s.fcol.normal = q :: rest → s.fcol.overflowDue = false →
    exec .fcolClassify s = .next (({ s with fcol := { s.fcol with normal := rest, overflowDue := false } } :
    State).fcolClassify q)) ∧
  (∀ (n : Nat) (s : State), s.sys.dieHeld = false → ∃ t, exec (.fcolWindowRollover n) s = .next t ∧ t.rd F.FCOL_TICK_COUNT =
    (s.rd F.FCOL_TICK_COUNT + n) % 2 ^ 32 ∧ t.outs = s.outs ∧ t.mem = s.mem ∧ t.fcol.normal = s.fcol.normal ∧ t.fcol.prio =
    s.fcol.prio ∧ t.fcol.rules = s.fcol.rules) ∧
  (∀ (u : Unit') (rest : List Unit') (s : State), s.busUp = true → s.fcol.fenceDue = u :: rest → let t := { s with fcol := { s.fcol with fenceDue := rest } };
    exec .fenceApply s = .next (match u with
      | .channel c => t.channelFence c | .core c => t.coreFence c t.dsp.place.lastFence | .region i r => t.regionFence i r t.dsp.place.lastFence)) ∧
  (∀ (s : State), s.busUp = false → exec .fenceApply s = .next (s)) ∧
  (∀ (who : Writer) (v : Word) (s : State), v.getLsbD 0 = true → getField v 16 16 ≠ 0x5346 → exec (.fcolSafeCmd who v) s =
    .next (s.bump F.FCOL_CNT_REFUSED)) ∧
  (∀ (who : Writer) (v : Word) (s : State), v.getLsbD 0 = true → getField v 16 16 = 0x5346 → s.on F.FCOL_STAT_SAFE = false →
    exec (.fcolSafeCmd who v) s = .next ((s.enterSafe 2).faultLog { id := 0x0004, detail := if who = .firmware then 1 else 0,
                                                                    lasting := false, jig := false } 3 4 0 0)) ∧
  (∀ (who : Writer) (v : Word) (s : State), v.getLsbD 0 = true → getField v 16 16 = 0x5346 → s.on F.FCOL_STAT_SAFE = true →
    exec (.fcolSafeCmd who v) s = .next (s)) ∧
  (∀ (s : State), s.sys.dieHeld = false → s.on F.FCOL_STAT_SAFE = false → exec .fcolConfigMismatch s = .next ((s.enterSafe 1).faultLog { id := faultId 0 0 2, detail := 0, lasting := false, jig := false } 3 4 0 0)) ∧
  (∀ (who : Writer) (s : State), who ≠ .firmware → exec (.commit who) s = .next (s.bump F.FCOL_CNT_REFUSED)) ∧
  (∀ (s : State), ∃ t, exec (.commit .firmware) s = .next t ∧ t.fcol.rules = (List.range 128).foldl (fun r k => Tbl.set
    Rule.none r k (s.pendingRule k)) ([] : Tbl Rule) ∧ t.rd F.FCOL_STAT_RULES = (if bootFullRunning ≤ s.boot.state ∧
    s.boot.state ≠ bootEarlyOnly then 2 else 1)) ∧
  (∀ (s : State), s.rd F.FCOL_STAT_RULES = 0 → ∃ t, exec (.commit .firmware) s = .next t ∧ t.on F.FCOL_STAT_WDOG_RUN = true ∧
    t.fcol.wdogAt = s.now) ∧
  (∀ (who : Writer) (k : Fin 128) (j : Fin 3) (v : Word) (s : State), who ≠ .firmware → exec (.fcolRuleWrite who k j v) s =
    .next (s.bump F.FCOL_CNT_REFUSED)) ∧
  (∀ (k : Fin 128) (v : Word) (s : State), exec (.fcolRuleWrite .firmware k 0 v) s = .next (s.setReg (0xC1000 + 0x10 * k) v)) ∧
  (∀ (s : State), exec .clrFirst s = .next (s.setReg A.FCOL_FIRST 0)) ∧
  (∀ (s : State), s.on F.FCOL_STAT_ALIVE_RUN = true → exec .aliveToggle s = .next ({ s with fcol := { s.fcol with alive := !s.fcol.alive } })) ∧
  (∀ (s : State), exec (.kick .firmware) s = .next ({ s with fcol := { s.fcol with wdogAt := s.now } })) ∧
  (∀ (who : Writer) (s : State), who ≠ .firmware → exec (.kick who) s = .next (s.bump F.FCOL_CNT_REFUSED)) ∧
  (∀ (s : State), s.on F.FCOL_STAT_WDOG_RUN = true → wdogLeast ≤ s.now - s.fcol.wdogAt → exec .watchdogExpire s = .next (({ s with fcol := { s.fcol with wdogAt := s.now } }
    : State).fcolArrive { id := faultId 14 0 1, detail := 0, lasting := true, jig := false } false)) ∧
  (∀ (s : State), (s.on F.FCOL_STAT_WDOG_RUN = false ∨ s.now - s.fcol.wdogAt < wdogLeast) → exec .watchdogExpire s = .next
    (s)) ∧
  (∀ (who : Writer) (v : Word) (s : State), who = .firmware → getField v 0 8 ≤ 0x3A → v.getLsbD 31 = true → s.rd
    F.FCOL_JIGSTAT_STATE ≠ 1 → exec (.jigArm who v) s = .next (((s.wr F.FCOL_JIG_TARGET (getField v 0 8)).wrB F.FCOL_JIG_MODE
    (v.getLsbD 8)).wr F.FCOL_JIGSTAT_STATE 1)) ∧
  (∀ (who : Writer) (v : Word) (s : State), 0x3A < getField v 0 8 → exec (.jigArm who v) s = .next (s.bump
    F.FCOL_CNT_REFUSED)) ∧
  (∀ (s : State), s.rd F.FCOL_JIGSTAT_STATE = 1 → s.boot.state ≠ bootDryfitRunning → exec .jigMissed s = .next (((s.wr
    F.FCOL_JIGSTAT_STATE 3).ev A.FCOL_EVENT 6).fcolArrive { id := faultId 0 0 3, detail := BitVec.ofNat 32 (s.rd F.FCOL_JIG_TARGET),
                                                            lasting := true, jig := false } false)) ∧
  (∀ (s : State), s.rd F.FCOL_JIGSTAT_STATE = 1 → s.boot.state = bootDryfitRunning → exec .jigMissed s = .next ((((s.wr
    F.FCOL_JIGSTAT_STATE 3).ev A.FCOL_EVENT 6).dryfitEntry (faultId 0 0 3) 0 2 (leBytes 4 (s.rd
    F.FCOL_JIG_TARGET))).fcolArrive { id := faultId 0 0 3, detail := BitVec.ofNat 32 (s.rd F.FCOL_JIG_TARGET), lasting := true,
                                      jig := false } false))

/-- Host bus commands: reads, writes, blocks, claims, errors. A sound read gives its count and data with the PEC where it is
read and sets RESULT 0 (STATUS keeps RESULT); a write whose PEC is that of its bytes acknowledges and acts, any other PEC
is RESULT 1; a length error is RESULT 3, a start exception 6, a timeout 7, an unknown code 5, each counted and flagged;
before boot runs a command is RESULT 2; nothing is acknowledged while the interface does not run. Follows R410, R418,
R419, R420, R421, R422, R423, R424, R426, R427, R438, R447. -/
def Obligations.HostBusCommands : Prop :=
  (∀ (s : State), s.hostUp = true → exec (.ident .withPec) s = .next ((s.hostResult 0).hostBack (s.hostBytes [0x01] (counted
    s.identData) .withPec) true)) ∧
  (∀ (e : ReadEnd) (s : State), s.hostUp = false → exec (.ident e) s = .next (s.hostBack [] false)) ∧
  (∀ (s : State), s.hostUp = true → exec (.status .noPec) s = .next (s.hostBack (s.hostBytes [0x20] s.statusData .noPec)
    true)) ∧
  (∀ (v : Word) (p : Byte) (s : State), s.hostUp = true → s.hostBusy = false → v.toNat % 4 = 0 → p = s.writePec (0x10 ::
    leBytes 4 v.toNat) → exec (.setPtr v (.pec p)) s = .next ((((s.hostBack [] true).setReg A.HBUS_PTR v).hostResult 0))) ∧
  (∀ (v : Word) (p : Byte) (s : State), s.hostUp = true → s.hostBusy = false → v.toNat % 4 ≠ 0 → p = s.writePec (0x10 ::
    leBytes 4 v.toNat) → exec (.setPtr v (.pec p)) s = .next ((s.hostBack [] true).hostErr 3)) ∧
  (∀ (n : Byte) (s : State), s.hostUp = true → s.hostBusy = false → n ≠ 0 → n.toNat % 4 = 0 → let r := State.ptrRead (n.toNat / 4) s;
    exec (.readBlk n .noPec) s = .next ((if (if r.2.1 then 4 else 0) = 0 then r.2.2.hostResult 0 else r.2.2.hostErr (if r.2.1
    then 4 else 0)).hostBack (n :: r.1) true)) ∧
  (∀ (n : Byte) (e : ReadEnd) (s : State), s.hostUp = true → (n = 0 ∨ n.toNat % 4 ≠ 0) → exec (.readBlk n e) s = .next
    ((s.hostErr 3).hostBack [] false)) ∧
  (∀ (n : Byte) (b : List Byte) (p : Byte) (s : State), s.hostUp = true → s.hostBusy = false → n ≠ 0 → n.toNat % 4 = 0 → p =
    s.writePec (0x12 :: n :: b) → let r := State.ptrWrite b (n.toNat / 4) (s.hostBack [] true); exec (.writeBlk n b (.pec p))
    s = .next (if r.1 then r.2.hostErr 4 else r.2.hostResult 0)) ∧
  (∀ (n : Byte) (b : List Byte) (e : WriteEnd) (s : State), s.hostUp = true → s.hostBusy = true → exec (.writeBlk n b e) s =
    .next ((s.hostErr 2).hostBack [] false)) ∧
  (∀ (n : Nat) (s : State), s.hostUp = true → s.hostBusy = false → s.claimBest (s.srcsIn .pending) = some n → exec (.claim
    .noPec) s = .next ((((s.setSrc n .claimed).alertSettle).hostResult 0).hostBack [BitVec.ofNat 8 n] true)) ∧
  (∀ (s : State), s.hostUp = true → s.hostBusy = false → s.srcsIn .pending = [] → exec (.claim .noPec) s = .next (((s.bump
    F.INTC_ERR_EMPTY_CLAIM).hostResult 0).hostBack [0xFF] true)) ∧
  (∀ (n : Byte) (p : Byte) (s : State), s.hostUp = true → s.hostBusy = false → p = s.writePec ([0x31, n]) → exec (.complete n
    (.pec p)) s = .next (((s.hostBack [] true).intcComplete n.toNat).hostResult 0)) ∧
  (∀ (n : Byte) (p : Byte) (s : State), s.hostUp = true → s.hostBusy = false → p ≠ s.writePec ([0x31, n]) → exec (.complete n
    (.pec p)) s = .next ((s.hostErr 1).hostBack [] false)) ∧
  (∀ (s : State), s.hostUp = true → exec (.cqRead .withPec) s = .next ((({ s with intc := { s.intc with cq := s.intc.cq.drop 15 } }
    : State).hostResult 0).hostBack (s.hostBytes [0x38] (counted ((s.intc.cq.take 15).flatMap CqEntry.bytes)) .withPec) true)) ∧
  (∀ (q : BitVec 16) (s : State), s.hostUp = true → s.hostBusy = false → exec (.faultLog q .noPec) s = .next ((s.hostResult
    0).hostBack (counted (s.logFrom q.toNat)) true)) ∧
  (∀ (m : List Byte) (p : Byte) (s : State), s.hostUp = true → s.hostBusy = false → u8 m 0 = 0x52 → u8 m 1 = 0x57 → u8 m 2 ≤ 2
    → p = s.writePec (0x6F :: m) → exec (.warmReset m (.pec p)) s = .next (((s.hostBack [] true).hostResult 0).warmTrigger
    false (u8 m 2))) ∧
  (∀ (m : List Byte) (p : Byte) (s : State), s.hostUp = true → s.hostBusy = false → u8 m 0 ≠ 0x52 → p = s.writePec (0x6F :: m)
    → exec (.warmReset m (.pec p)) s = .next ((s.hostBack [] true).hostErr 8)) ∧
  (∀ (s : State), s.hostUp = true → exec .unknownCmd s = .next ((s.hostErr 5).hostBack [] false)) ∧
  (∀ (s : State), s.hostUp = true → exec .hbusStartException s = .next ((s.hostErr 6).hostBack [] false)) ∧
  (∀ (s : State), s.hostUp = true → exec .hbusTimeout s = .next ((s.hostErr 7).hostBack [] false))

/-- Address change, alerts, NVM operations, debug access, security version. A changed address takes effect on an idle bus
with event bit 7; an alert response gives the address, one that the line carries whole is won and releases ALERT_N, any
other is lost and counted; a challenge sets the nonce for 60 s; a lockout and a nonce end once their time has passed; a
response or password of the wrong length is RESULT 3, one during an evaluation is RESULT 2; a matching attempt opens
access, any other counts a failure and locks out; RELOCK needs its key and closes access; a security version is programmed
in order, or refused, counted and flagged; an NVM operation that the state forbids is error 0x21, a done one ends BUSY
with an error of its target (log entry 191). Follows R416, R429, R432, R433, R445, R451, R454, R455, R456, R457, R458,
R460. -/
def Obligations.DebugAccessAndNvm : Prop :=
  (∀ (s : State), s.hbus.addrPending = true → s.sys.dieHeld = false → let t := (s.wr F.HBUS_STAT_ADDR (s.rd F.HBUS_CFG_ADDR)).ev A.HBUS_EVENT 7;
    exec .addrChanged s = .next { t with hbus := { t.hbus with addrPending := false, cfgAddrUsed := true } }) ∧
  (∀ (line : Byte) (s : State), s.hostUp = true → s.alertLow = false → exec (.alertResponse line) s = .next (s.hostBack []
    false)) ∧
  (∀ (line : Byte) (s : State), s.hostUp = true → s.alertLow = true → BitVec.ofNat 8 (2 * s.rd F.HBUS_STAT_ADDR) &&& line =
    BitVec.ofNat 8 (2 * s.rd F.HBUS_STAT_ADDR) → let t := (s.hostBack [BitVec.ofNat 8 (2 * s.rd F.HBUS_STAT_ADDR)] true).ev A.HBUS_EVENT 12;
    exec (.alertResponse line) s = .next { t with hbus := { t.hbus with alertWon := true } }) ∧
  (∀ (line : Byte) (s : State), s.hostUp = true → s.alertLow = true → BitVec.ofNat 8 (2 * s.rd F.HBUS_STAT_ADDR) &&& line ≠
    BitVec.ofNat 8 (2 * s.rd F.HBUS_STAT_ADDR) → exec (.alertResponse line) s = .next (((s.hostBack [BitVec.ofNat 8 (2 * s.rd
    F.HBUS_STAT_ADDR)] true).bump F.HBUS_CNT2_ARA_LOST).ev A.HBUS_EVENT 13)) ∧
  (∀ (s : State), exec .alertReassert s = .next ({ s with hbus := { s.hbus with alertWon := false } })) ∧
  (∀ (n : List Byte) (s : State), s.hostUp = true → s.hostBusy = false → exec (.challenge n .noPec) s = .next (((s.challenge
    n).hostResult 0).hostBack (counted (slice n 0 16)) true)) ∧
  (∀ (n : Byte) (b : List Byte) (e : WriteEnd) (s : State), s.hostUp = true → s.hostBusy = false → n ≠ 16 → exec (.response n
    b e) s = .next ((s.hostErr 3).hostBack [] false)) ∧
  (∀ (b : List Byte) (p : Byte) (s : State), s.hostUp = true → s.hostBusy = false → s.sec.attempt.isSome = true → p =
    s.writePec (0x51 :: 16 :: b) → exec (.response 16 b (.pec p)) s = .next ((s.hostBack [] true).hostResult 2)) ∧
  (∀ (b : List Byte) (n : List Byte) (p : Byte) (s : State), s.hostUp = true → s.hostBusy = false → s.sec.attempt = none →
    s.sec.nonce = some n → s.now < s.sec.nonceUntil → s.methodOk false = true → s.debugOpen = false → s.lockedOut = false → p
    = s.writePec (0x51 :: 16 :: b) → let t := (s.hostBack [] true).setNonce none; exec (.response 16 b (.pec p)) s = .next { t with sec := { t.sec with attempt := some (.response (slice b 0 16) (some n)),
                                                                                                                                                        relocked := false } }) ∧
  (∀ (n : Byte) (b : List Byte) (e : WriteEnd) (s : State), s.hostUp = true → s.hostBusy = false → n ≠ 8 → exec (.unlockPw n b
    e) s = .next ((s.hostErr 3).hostBack [] false)) ∧
  (∀ (b : List Byte) (s : State), s.hostUp = true → s.hostBusy = false → s.on F.HBUS_CFG_PEC_REQ = false → s.sec.attempt =
    none → s.methodOk true = true → s.debugOpen = false → s.lockedOut = false → exec (.unlockPw 8 b .noPec) s = .next ((fun t
    : State => { t with sec := { t.sec with attempt := some (.password (slice b 0 8)), relocked := false } }) (s.hostBack []
    true))) ∧
  (∀ (a : Attempt) (s : State), s.sec.attempt = some a → s.attemptMatches a = true → s.sec.relocked = false → exec
    .attemptEvaluated s = .next ((({ s with sec := { s.sec with attempt := none, relocked := false } } : State).debugUnlock
    a.method).hostResult 0)) ∧
  (∀ (b : List Byte) (s : State), s.sec.attempt = some (.response b none) → exec .attemptEvaluated s = .next (({ s with sec := { s.sec with attempt := none,
                                                                                                                                            relocked := false } }
    : State).attemptFail.hostResult 8)) ∧
  (∀ (n : List Byte) (s : State), s.sys.dieHeld = false → exec (.jtagUnlockMailbox (.challenge n)) s = .next ((fun t : State
    => { t with sec := { t.sec with nonceUntil := t.now + 60000000 } }) (s.setNonce (some (slice n 0 16))))) ∧
  (∀ (b : List Byte) (s : State), s.sys.dieHeld = false → exec (.jtagUnlockMailbox (.unlockPw b)) s = .next (s.unlockPw b)) ∧
  (∀ (b : List Byte) (s : State), s.sys.dieHeld = false → exec (.jtagUnlockMailbox (.response b)) s = .next (s.response b)) ∧
  (∀ (s : State), s.now < s.sec.lockUntil → exec .lockoutEnd s = .next (s)) ∧
  (∀ (s : State), s.sec.lockUntil ≤ s.now → exec .lockoutEnd s = .next ({ s with sec := { s.sec with lockUntil := 0 } })) ∧
  (∀ (s : State), s.sec.nonceUntil ≤ s.now → exec .nonceExpire s = .next (s.setNonce none)) ∧
  (∀ (v : Word) (s : State), s.sys.dieHeld = false → s.otp.lifecycle ≠ 0 → getField v 16 16 ≠ 0x524C → exec (.relock v) s =
    .next (s.bump F.SEC_CNT_RELOCK_REFUSED)) ∧
  (∀ (v : Word) (s : State), s.sys.dieHeld = false → s.otp.lifecycle ≠ 0 → getField v 16 16 = 0x524C → v.getLsbD 0 = true →
    let t := (s.wr F.SEC_DBGSTAT_OPEN 0).ev A.SEC_EVENT 1; exec (.relock v) s = .next { t with sec := { t.sec with relocked := s.sec.attempt.isSome } }) ∧
  (∀ (v : Word) (s : State), s.sys.dieHeld = false → s.svOk v = true → let t := s.wr F.SEC_SECVER_BUSY 1; exec (.svRaise v) s
    = .next { t with sec := { t.sec with svValue := some (getField v 0 7) } }) ∧
  (∀ (v : Word) (s : State), s.sys.dieHeld = false → s.svOk v = false → exec (.svRaise v) s = .next ((s.bump
    F.SEC_CNT_SV_REFUSED).ev A.SEC_EVENT 13)) ∧
  (∀ (x : Nat) (s : State), s.sec.svValue = some x → let t := ((s.wr F.SEC_SECVER_BUSY 0).wr F.SEC_SECVER_MIN (max s.otp.minSv x)).ev A.SEC_EVENT 12;
    exec .svRaised s = .next { t with otp := { t.otp with minSv := max s.otp.minSv x }, sec := { t.sec with svValue := none } }) ∧
  (∀ (ee fast : Bool) (len : BitVec 9) (s : State), s.busUp = false → exec (.nvmRead ee fast len) s = .next (s)) ∧
  (∀ (ee fast : Bool) (len : BitVec 9) (s : State), s.busUp = true → s.on F.HBUS_NVM_STAT_BUSY = false → s.boot.state =
    bootRomDefaults → s.nvmCheck 0 ee (if ee then (s.reg A.HBUS_NVM_ADDR).toNat % 262144 else (s.reg A.HBUS_NVM_ADDR).toNat)
    len.toNat = 0 → ∃ t, exec (.nvmRead ee fast len) s = .next t ∧ t.on F.HBUS_NVM_STAT_BUSY = true ∧ t.hbus.nvm = some { op := 0,
                                                                                                                          eeprom := ee,
                                                                                                                          fast := fast,
                                                                                                                          addr := if ee then (s.reg A.HBUS_NVM_ADDR).toNat % 262144 else (s.reg A.HBUS_NVM_ADDR).toNat,
                                                                                                                          len := len.toNat,
                                                                                                                          data := [] }) ∧
  (∀ (ee fast : Bool) (len : BitVec 9) (s : State), s.busUp = true → s.on F.HBUS_NVM_STAT_BUSY = false → s.boot.state =
    bootRomDefaults → s.nvmCheck 1 ee (if ee then (s.reg A.HBUS_NVM_ADDR).toNat % 262144 else (s.reg A.HBUS_NVM_ADDR).toNat)
    len.toNat = 0 → ∃ t, exec (.nvmProgram ee fast len) s = .next t ∧ t.on F.HBUS_NVM_STAT_BUSY = true ∧ t.hbus.nvm = some { op := 1,
                                                                                                                             eeprom := ee,
                                                                                                                             fast := fast,
                                                                                                                             addr := if ee then (s.reg A.HBUS_NVM_ADDR).toNat % 262144 else (s.reg A.HBUS_NVM_ADDR).toNat,
                                                                                                                             len := len.toNat,
                                                                                                                             data := slice ((List.range 64).flatMap (fun k => leBytes 4 (s.reg (A.HBUS_NVM_DATAk k)).toNat)) 0 len.toNat }) ∧
  (∀ (ee fast : Bool) (len : BitVec 9) (s : State), s.busUp = true → s.on F.HBUS_NVM_STAT_BUSY = false → s.boot.state =
    bootRomDefaults → s.nvmCheck 2 ee (if ee then (s.reg A.HBUS_NVM_ADDR).toNat % 262144 else (s.reg A.HBUS_NVM_ADDR).toNat)
    len.toNat = 0 → ∃ t, exec (.nvmErase ee fast len) s = .next t ∧ t.on F.HBUS_NVM_STAT_BUSY = true ∧ t.hbus.nvm = some { op := 2,
                                                                                                                           eeprom := ee,
                                                                                                                           fast := fast,
                                                                                                                           addr := if ee then (s.reg A.HBUS_NVM_ADDR).toNat % 262144 else (s.reg A.HBUS_NVM_ADDR).toNat,
                                                                                                                           len := len.toNat,
                                                                                                                           data := [] }) ∧
  (∀ (ee fast : Bool) (len : BitVec 9) (s : State), s.busUp = true → s.boot.state ≠ bootRomDefaults → s.boot.state ≠
    bootDryfitDone → s.on F.HBUS_NVM_STAT_BUSY = false → exec (.nvmProgram ee fast len) s = .next ((s.plainWrite
    A.HBUS_NVM_CTRL (nvmWord 1 ee fast len)).nvmRefuse 0x21)) ∧
  (∀ (ee fast : Bool) (len : BitVec 9) (s : State), s.busUp = true → s.boot.state ≠ bootRomDefaults → s.boot.state ≠
    bootDryfitDone → s.on F.HBUS_NVM_STAT_BUSY = false → exec (.nvmErase ee fast len) s = .next ((s.plainWrite A.HBUS_NVM_CTRL
    (nvmWord 2 ee fast len)).nvmRefuse 0x21)) ∧
  (∀ (x : NvmOp) (d : List Byte) (s : State), s.hbus.nvm = some x → x.op ≠ 0 → exec (.nvmOpDone 0 d) s = .next (((({ s with hbus := { s.hbus with nvm := none },
                                                                                                                            boot := { s.boot with nackRetry := false } }
    : State).wr F.HBUS_NVM_STAT_BUSY 0).wr F.HBUS_NVM_STAT_ERR 0).ev A.HBUS_EVENT 8)) ∧
  (∀ (x : NvmOp) (err : Byte) (d : List Byte) (s : State), s.hbus.nvm = some x → x.op ≠ 0 → err ≠ 0 → nvmEnds x.eeprom err =
    true → exec (.nvmOpDone err d) s = .next ((((({ s with hbus := { s.hbus with nvm := none }, boot := { s.boot with nackRetry := false } }
    : State).wr F.HBUS_NVM_STAT_BUSY 0).wr F.HBUS_NVM_STAT_ERR err.toNat).bump F.HBUS_CNT2_NVM_FAIL).ev A.HBUS_EVENT 9)) ∧
  (∀ (x : NvmOp) (err : Byte) (d : List Byte) (s : State), s.hbus.nvm = some x → nvmEnds x.eeprom err = false → exec
    (.nvmOpDone err d) s = .next (s))

/-- Interrupt sources: edges, enables, moderation. A rise of a source whose line is high and whose sampled level was low is
sampled and counted, with others of the same cycle after it (log entry 193), and requests through the gate where it is
enabled; a rise without a change does nothing. A fall returns a held or pending source to idle. An enable write stores the
enables and requests the enabled high levels. The end of a moderation period with nothing held stops its timer. Follows
R436, R437, R441, R442, R443. -/
def Obligations.InterruptSources : Prop :=
  (∀ (n : Fin 129) (s : State), s.sys.dieHeld = false → s.sourceLevel n = true → s.rawLevel n = false → let t := (s.setRaw n true).countEdge n;
    exec (.sourceLevelRise n []) s = .next (if t.srcEn n then t.gate (s.modRunning (srcGroup n)) n else t)) ∧
  (∀ (n : Fin 129) (s : State), (s.sourceLevel n = false ∨ s.rawLevel n = true) → exec (.sourceLevelRise n []) s = .next (s)) ∧
  (∀ (n m : Fin 129) (s : State), s.sys.dieHeld = false → exec (.sourceLevelRise n [m]) s = .next ((s.levelRise (s.modRunning
    (srcGroup n)) n).levelRise (s.modRunning (srcGroup m)) m)) ∧
  (∀ (n : Fin 129) (s : State), s.sys.dieHeld = false → s.sourceLevel n = false → s.rawLevel n = true → exec (.sourceLevelFall
    n) s = .next (((s.setRaw n false).srcIdle n).alertSettle)) ∧
  (∀ (k : Fin 4) (v : Word) (s : State), s.sys.dieHeld = false → exec (.intcEnWrite k v) s = .next (((s.setReg (A.INTC_ENk k)
    v).forAll 32 (fun b t => t.enableChange (32 * k + b) (s.srcEn (32 * k + b)) (v.getLsbD b) (s.modRunning (srcGroup (32 * k
    + b))))).alertSettle)) ∧
  (∀ (g : Fin 16) (s : State), s.sys.dieHeld = false → s.modRunning g = true → s.srcsIn .held = [] → exec (.moderationExpiry
    g) s = .next (s.wr (F.INTC_MODg_RUNNING g) 0)) ∧
  (∀ (g : Fin 16) (s : State), s.modRunning g = false → exec (.moderationExpiry g) s = .next (s))

/-- Resets of the die, warm resets, block resets, bus accesses. Power-on and a brown-out (VSYS below VSYS_MIN for 10 µs, 25
µs where the bank carries, and no other VSYS) abort what is in progress, or are discarded where a wider or equal reset
runs; a write of SYS_RSTCTRL without its key is counted, with it starts a warm reset, whose ramp end resets the die and
starts the boot ROM. A block reset sets its bit and SYS_RSTCAUSE.BLK and resets its registers and its state; its end
clears the bit, restarts the decimation chain, or puts the link into PASS. A test access reset only resets the TAP, and
JTAG's IDCODE, 0xB16480A7 at reset, reads as before. A timed-out access and a crossing overflow are counted or raised; a
register write goes to the bus while it runs, by JTAG only with open debug access. Follows R5, R9, R26, R30, R31, R33,
R34, R109, R283, R327, R452. -/
def Obligations.ResetsAndBlockResets : Prop :=
  (∀ (s : State), s.sys.rst = none → exec .powerOnReset s = .next (s.dieReset .por)) ∧
  (∀ (c : BrownOut) (s : State), s.sys.rst = none → s.pmu.mode = .run → s.isBrownOut c = true → exec (.brownOut c) s = .next
    ((s.dieReset .bor).wr F.SYS_RSTCAUSE_BOR 1)) ∧
  (∀ (c : BrownOut) (p : ResetPhase) (s : State), s.sys.rst = some (.bor, p) → s.pmu.mode = .run → s.isBrownOut c = true →
    exec (.brownOut c) s = .next (s.wr F.SYS_RSTCAUSE_BOR 1)) ∧
  (∀ (c : BrownOut) (s : State), (s.pmu.mode = .standby ∨ s.pmu.mode = .lockout) → exec (.brownOut c) s = .next (s)) ∧
  (∀ (mv us hold : Nat) (s : State), (s.vsysMin ≤ mv ∨ us < (if s.bankCarries hold = true then 25 else 10)) → exec (.brownOut
    (.vsys mv us hold)) s = .next (s)) ∧
  (∀ (v : Word) (s : State), getField v 16 16 ≠ 0x5752 → exec (.sysRstctrlWarm v) s = .next (s.bump F.SYS_XING_ERR_KEY)) ∧
  (∀ (v : Word) (s : State), getField v 16 16 = 0x5752 → v.getLsbD 0 = true → s.sys.rst = none → s.sys.dieHeld = false → let t := s.wr F.SYS_RSTCAUSE_WARM_HOST 1;
    exec (.sysRstctrlWarm v) s = .next (({ t with sys := { t.sys with rst := some (.warm, .ramp), fromSafe := t.on F.FCOL_STAT_SAFE },
                                                  boot := { t.boot with reqMode := 0 } } : State).forAll 16 (fun o t =>
    t.fastoff o))) ∧
  (∀ (s : State), s.sys.rst = some (.warm, .ramp) → exec .warmResetRampEnd s = .next ((s.dieReset .warm).bootRom)) ∧
  (∀ (s : State), s.sys.rst = none → exec .warmResetRampEnd s = .next (s)) ∧
  (∀ (s : State), ∃ t, exec .testAccessReset s = .next t ∧ t = { s with sys := { s.sys with tapReset := true } } ∧
    t.jtagIdcode = s.jtagIdcode ∧ State.reset.jtagIdcode = 0xB16480A7) ∧
  (∀ (s : State), s.evOn A.SYS_BLKRST 7 = false → s.sys.rst = none → s.sys.dieHeld = false → let t := ((s.setBit A.SYS_BLKRST 7 true).wr F.SYS_RSTCAUSE_BLK 1).forAll 16 (fun o t => t.sweepAbort o);
    exec .blkrstDiag s = .next ((({ t with diag := { DiagSt.reset with waiting := t.diag.running ++ t.diag.waiting, jobs := t.diag.jobs,
                                                                       boot := t.diag.boot, stby := t.diag.stby } } :
    State).resetRegs (fun a => a / 0x10000 == 9)).diagStat)) ∧
  (∀ (s : State), s.evOn A.SYS_BLKRST 6 = false → s.sys.rst = none → s.sys.dieHeld = false → ∃ t, exec .blkrstTring s = .next
    t ∧ t.ring = RingSt.reset ∧ (∀ a, a / 0x10000 = 11 → t.reg a = regDefault a)) ∧
  (∀ (n : Fin 4) (s : State), s.evOn A.SYS_BLKRST (2 + n) = false → s.sys.rst = none → s.sys.dieHeld = false → ∃ t, exec
    (.blkrstPort n) s = .next t ∧ t.port n = PortSt.reset ∧ (∀ a, 0xA0000 + 0x1000 * n.val ≤ a → a < 0xA0000 + 0x1000 * (n.val
    + 1) → t.reg a = regDefault a)) ∧
  (∀ (s : State), s.evOn A.SYS_BLKRST 1 = false → s.sys.rst = none → s.sys.dieHeld = false → let t := (s.setBit A.SYS_BLKRST 1 true).wr F.SYS_RSTCAUSE_BLK 1;
    exec .blkrstTrace s = .next { t.resetRegs (fun a => a / 0x10000 == 16) with loop := { s.loop with trace := [] } }) ∧
  (∀ (s : State), s.evOn A.SYS_BLKRST 0 = false → s.sys.rst = none → s.sys.dieHeld = false → let t := (s.setBit A.SYS_BLKRST 0 true).wr F.SYS_RSTCAUSE_BLK 1;
    exec .blkrstDecim s = .next { t.resetRegs (fun a => a / 0x10000 == 5 && a != A.DECIM_CFG) with decim := { DecimSt.reset with seed := s.decim.seed } }) ∧
  (∀ (s : State), (s.evOn A.SYS_BLKRST 0 = true ∨ s.sys.rst.isSome = true ∨ s.sys.dieHeld = true) → exec .blkrstDecim s =
    .next (s)) ∧
  (∀ (b : Fin 8) (s : State), s.evOn A.SYS_BLKRST b = true → exec (.blockResetComplete b) s = .next ((fun t : State => if
    b.val = 0 then t.decimStart else if b.val = 6 then t.wr F.TRING_STAT_STATE rPass else t) (s.setBit A.SYS_BLKRST b false))) ∧
  (∀ (s : State), exec .benchAccessTimeout s = .next (s.bump F.SYS_XING_ERR_STALLED)) ∧
  (∀ (i : Fin 15) (s : State), exec (.crossingFifoEvent i) s = .next (s.raise 1 i 0x10 0 false)) ∧
  (∀ (who : Writer) (a : Nat) (v : Word) (s : State), s.busUp = true → (who ≠ .jtag ∨ s.debugOpen = true) → exec
    (.registerWrite who a v) s = .next ((s.busWrite who a v).2)) ∧
  (∀ (a : Nat) (v : Word) (s : State), s.debugOpen = false → exec (.registerWrite .jtag a v) s = .next (s))

/-- Reference windows, PLL locks, the timing source. A reference window that is not the second in a row of its kind only
counts; the second bad one clears XTAL_OK and raises class 1 code 1; the loss of a lock clears its bit and raises code 2
or 3, without PLL A the bridges go off; a lock sets it while the reference is within its window, and nothing happens
without it; the timing source locks with its period, keeps the owner's rate and switches a running owner's contexts in;
its loss mutes what the owner feeds and unlocks. Follows R17, R18, R19, R21, R22, R23, R276, R277, R337, R381. -/
def Obligations.ClocksAndTimingSource : Prop :=
  (∀ (n : Nat) (s : State), s.pmu.mode = .run → 88 ≤ n → n ≤ 104 → s.sys.xtalGood = 0 → exec (.xtalWindowEnd n) s = .next ({ s with sys := { s.sys with xtalGood := 1,
                                                                                                                                                        xtalBad := 0 } })) ∧
  (∀ (n : Nat) (s : State), s.pmu.mode = .run → (n < 88 ∨ 104 < n) → s.sys.xtalBad = 1 → s.on F.SYS_CLKSTAT_XTAL_OK = true →
    s.pvddRuns = false → exec (.xtalWindowEnd n) s = .next ((({ s with sys := { s.sys with xtalGood := 0, xtalBad := 2 } } :
    State).wr F.SYS_CLKSTAT_XTAL_OK 0).raise 1 0 1 0 false)) ∧
  (∀ (s : State), s.on F.SYS_CLKSTAT_PLLB_LOCK = true → exec (.pllLockLost true) s = .next ((s.wr F.SYS_CLKSTAT_PLLB_LOCK
    0).raise 1 0 3 0 false)) ∧
  (∀ (s : State), s.on F.SYS_CLKSTAT_PLLA_LOCK = true → exec (.pllLockLost false) s = .next (((s.wr F.SYS_CLKSTAT_PLLA_LOCK
    0).raise 1 0 2 0 false).outputsPllLost.spreadStat)) ∧
  (∀ (b : Bool) (s : State), (if b then s.sys.pllBOn else s.sys.pllAOn) = false → exec (.pllLockAcquired b) s = .next (s)) ∧
  (∀ (b : Bool) (s : State), s.on F.SYS_CLKSTAT_XTAL_OK = false → exec (.pllLockAcquired b) s = .next (s)) ∧
  (∀ (s : State), s.sys.pllBOn = true → s.on F.SYS_CLKSTAT_XTAL_OK = true → s.sys.dieHeld = false → exec (.pllLockAcquired
    true) s = .next (s.wr F.SYS_CLKSTAT_PLLB_LOCK 1)) ∧
  (∀ (p : BitVec 24) (s : State), s.on F.SYS_CLKSTAT_TSRC_LOCKED = true → exec (.tsrcLockGained p) s = .next (s)) ∧
  (∀ (p : BitVec 24) (s : State), s.on F.SYS_CLKSTAT_TSRC_LOCKED = false → let t := s.wr F.SYS_CLKSTAT_TSRC_LOCKED 1; let u : State := { t with sys := { t.sys with lastFa := some (BitVec.ofNat 2 t.faCode) } };
    let v := if s.rd F.SYS_TSRC_SRC = 5 then u else u.trackerAcquire p.toNat; exec (.tsrcLockGained p) s = .next ((if s.rd
    F.SYS_TSRC_SRC < 4 ∧ v.pState (s.rd F.SYS_TSRC_SRC) = pRunning then v.portRxIn (s.rd F.SYS_TSRC_SRC) else
    v).ringLockGained).refdlyFa) ∧
  (∀ (s : State), s.on F.SYS_CLKSTAT_TSRC_LOCKED = true → exec .tsrcLockLost s = .next ((s.forEach s.ownerCtxs (fun c t =>
    t.ctxFault c)).tsrcUnlock)) ∧
  (∀ (s : State), s.on F.SYS_CLKSTAT_TSRC_LOCKED = false → exec .tsrcLockLost s = .next (s))

/-- The boot ROM reads its sources. Discovery of a busy flash keeps its density; a discovery timeout fails the source with
code 0x0D, or the host's operation. A lost arbitration waits with event bit 11, retries, or times out with 0x0C; a stuck
bus starts recovery attempts with event bit 10, and a failed one is counted; a missing acknowledge is repeated once and
then fails. A bad first locator leaves the second to be read, two bad ones fail the source. Checks 1 to 6 fail the copy or
adopt it. BOOTCFG that fails a check fails the copy. A bad section is read again at most twice. Follows R38, R39, R41,
R42, R43, R44, R45, R47, R48, R53, R59, R481. -/
def Obligations.BootRomReads : Prop :=
  (∀ (o : Bool) (n : Nat) (s : State), s.flashBusy = true → exec (.xspiDiscoveryDone o n) s = .next ({ s with boot := { s.boot with xspiFound := true,
                                                                                                                                    flashSize := n,
                                                                                                                                    xspi8d := o && s.romReads } })) ∧
  (∀ (s : State), s.flashBusy = true → s.boot.xspiFound = false → s.hbus.nvm = none → exec .xspiDiscoveryTimeout s = .next
    (s.sourceFail 0x0D)) ∧
  (∀ (s : State), s.nvmActive = true → s.boot.arbWait = false → exec .nvmArbitrationLost s = .next (({ s with boot := { s.boot with arbWait := true } }
    : State).ev A.HBUS_EVENT 11)) ∧
  (∀ (s : State), s.boot.arbWait = true → exec .nvmArbitrationRetry s = .next ({ s with boot := { s.boot with arbWait := false } })) ∧
  (∀ (s : State), s.nvmActive = true → s.hbus.nvm = none → exec .nvmArbitrationTimeout s = .next (({ s with boot := { s.boot with arbWait := false,
                                                                                                                                  stuck := false,
                                                                                                                                  stuckTries := 0,
                                                                                                                                  nackRetry := false } }
    : State).bootSourceFail 0x0C)) ∧
  (∀ (freed : Bool) (s : State), s.nvmActive = true → s.boot.stuck = false → exec (.stuckBusDetected freed) s = .next ((({ s with boot := { s.boot with stuckTries := 0 } }
    : State).ev A.HBUS_EVENT 10).recovery freed)) ∧
  (∀ (s : State), s.boot.stuck = true → exec (.stuckBusRetry true) s = .next ({ s with boot := { s.boot with stuck := false,
                                                                                                             stuckTries := 0 } })) ∧
  (∀ (s : State), s.boot.stuck = true → s.boot.stuckTries < 3 → exec (.stuckBusRetry false) s = .next ({ s with boot := { s.boot with stuck := true,
                                                                                                                                      stuckTries := s.boot.stuckTries + 1 } })) ∧
  (∀ (s : State), s.nvmActive = true → s.boot.nackRetry = false → exec .eepromNack s = .next ({ s with boot := { s.boot with nackRetry := true } })) ∧
  (∀ (s : State), s.boot.nackRetry = true → s.nvmActive = true → s.hbus.nvm = none → s.lateReads = false → s.boot.loc = none →
    exec .eepromNackRetry s = .next (({ s with boot := { s.boot with nackRetry := false } } : State).sourceFail 0x10)) ∧
  (∀ (b : List Byte) (s : State), s.boot.state = bootRomRead → s.boot.plan ≠ [] → s.boot.loc = none → s.sourceReady = true →
    u32 b 0 ≠ 0x434F4C4D → exec (.locatorRead b) s = .next (if s.boot.locBad = 0 then { s with boot := { s.boot with locBad := 1,
                                                                                                                     nackRetry := false } }
    else s.sourceFail 1)) ∧
  (∀ (b : List Byte) (s : State), s.boot.state = bootRomRead → s.boot.plan = [(1, 0), (1, 1)] → s.boot.loc = none →
    s.sourceReady = true → u32 b 0 = 0x434F4C4D → u32 b 0x90 = (crc32 (slice b 0 0x90)).toNat → s.hbus.strap = 0 → u32 b 8 ≠
    absentCopy → u32 b 12 ≠ absentCopy → ∃ t, exec (.locatorRead b) s = .next t ∧ t.boot.loc = some (u32 b 8, u32 b 12, false)
    ∧ t.boot.plan = s.boot.plan ∧ t.boot.state = s.boot.state ∧ t.boot.attempts = s.boot.attempts ∧ t.hbus = s.hbus ∧ t.mem =
    s.mem) ∧
  (∀ (h d g : List Byte) (x : List (Nat × Nat × List Byte)) (s : State), s.boot.state = bootRomRead → s.boot.plan ≠ [] →
    s.boot.loc.isNone = false → s.sourceReady = true → (s.headerCheck h d g).2 ≠ 0 → exec (.imageHeaderChecked h d g x) s =
    .next (s.copyFail { last := (s.headerCheck h d g).1, err := (s.headerCheck h d g).2, ty := 0, inst := 0 })) ∧
  (∀ (h d g : List Byte) (x : List (Nat × Nat × List Byte)) (s : State), s.boot.state = bootRomRead → s.boot.plan ≠ [] →
    s.boot.loc.isNone = false → s.sourceReady = true → s.boot.mode ≠ 1 → (u16 h 14).testBit 0 = false → exec
    (.imageHeaderChecked h d g x) s = .next (if (s.headerCheck h d g).2 = 0 then s.adopt { source := (s.boot.plan.headD (0, 0)).1,
                                                                                           copy := (s.boot.plan.headD (0, 0)).2,
                                                                                           common := (s.boot.loc.map (fun l => l.2.2)).getD false,
                                                                                           flags := u16 h 14, secver := BitVec.ofNat 32 (u32 h 20),
                                                                                           configId := slice h 24 8, dir := parseDir (u16 h 12) d }
    else s.copyFail { last := (s.headerCheck h d g).1, err := (s.headerCheck h d g).2, ty := 0, inst := 0 })) ∧
  (∀ (c : BootChoice) (d : DirEntry) (b : List Byte) (s : State), s.boot.chosen = some c → s.boot.dir.find? (fun d => d.ty ==
    1) = some d → s.boot.state = bootEarlyLoading → s.boot.cfgApplied = false → s.bootLocked = true → exec (.bootcfgApplied b)
    s = .next (match integrityFail [(1, 0, b)] [d] with
      | some f => s.copyFail f | none => if s.bootcfgOk b = false then s.copyFail { last := 8, err := 14, ty := 1, inst := 0 } else (fun t : State => { t with boot := { t.boot with cfgApplied := true, nackRetry := false, secver := c.secver, configId := c.configId, actSource := c.source, actCopy := c.copy, actCommon := c.common } }) ((s.forEach (rwbPairs b) (fun p t => t.romWrite p)).wr F.SEC_SECVER_ACTIVE (min c.secver.toNat 0xFFFFFF)))) ∧
  (∀ (c : BootChoice) (d : DirEntry) (b : List Byte) (s : State), s.boot.chosen = some c → s.boot.dir.find? (fun d => d.ty ==
    1) = some d → s.boot.state = bootEarlyLoading → s.boot.cfgApplied = false → s.bootLocked = false → exec (.bootcfgApplied
    b) s = .next (match integrityFail [(1, 0, b)] [d] with
      | some f => s.copyFail f | none => if s.bootcfgOk b = false then s.copyFail { last := 8, err := 14, ty := 1, inst := 0 } else (fun t : State => { t with boot := { t.boot with cfgApplied := true, nackRetry := false, secver := c.secver, configId := c.configId, actSource := c.source, actCopy := c.copy, actCommon := c.common } }) (((s.forEach (rwbPairs b) (fun p t => t.romWrite p)).raiseDeadtime.bootStart (seqStages b)).wr F.SEC_SECVER_ACTIVE (min c.secver.toNat 0xFFFFFF)))) ∧
  (∀ (d : DirEntry) (ty i : Nat) (dram : Bool) (s : State), s.boot.dir.find? (fun d => d.ty == ty && d.inst == i) = some d →
    s.boot.state = bootEarlyLoading → s.boot.rereads.find? (fun x => x.1 == ty && x.2.1 == i) = none → exec (.sectionReread ty
    i dram) s = .next ({ s with boot := { s.boot with rereads := (ty, i, 1) :: s.boot.rereads.filter (fun x => !(x.1 == ty && x.2.1 == i)) } })) ∧
  (∀ (d : DirEntry) (ty i : Nat) (dram : Bool) (s : State), s.boot.dir.find? (fun d => d.ty == ty && d.inst == i) = some d →
    s.boot.state = bootEarlyLoading → s.boot.rereads.find? (fun x => x.1 == ty && x.2.1 == i) = some (ty, i, 2) → exec
    (.sectionReread ty i dram) s = .next (s.copyFail (if dram then { last := 9, err := 15, ty := ty, inst := i } else { last := 6,
                                                                                                                        err := 8,
                                                                                                                        ty := ty,
                                                                                                                        inst := i })))

/-- Early and full configuration, early-only, ROM defaults, dry-fit and veneers. Early sections that fail a check fail the
copy; the due early graph is placed once DC diagnostics are done and its outputs unmute; a failing late section leaves
EARLY_ONLY with a boot fault; no copy left means ROM defaults, locked, ALIVE stopped and a boot fault; the end of the
dry-fit run records the core loads, its completion sets DRYFIT_DONE and a completion entry. A veneer apply with the PEC of
its code is refused outside FULL_RUNNING and DRYFIT_DONE (reason 5) or while one is copied (reason 4), else it is copied;
a bad header is refused with reason 1. Follows R48, R49, R50, R51, R56, R57, R58, R62, R64, R65. -/
def Obligations.FirmwareStartsAndDryfit : Prop :=
  (∀ (f : BootFail) (x : List (Nat × Nat × List Byte)) (s : State), s.boot.state = bootEarlyLoading → s.boot.cfgApplied = true
    → integrityFail x (s.boot.dir.filter (fun d => d.early && d.ty != 1)) = some f → exec (.earlySectionsLoaded x) s = .next
    (s.copyFail f)) ∧
  (∀ (x : List (Nat × Nat × List Byte)) (s : State), s.boot.state = bootEarlyLoading → s.boot.cfgApplied = true → s.boot.mode
    ≠ 1 → integrityFail x (s.boot.dir.filter (fun d => d.early && d.ty != 1)) = none → exec (.earlySectionsLoaded x) s = .next
    (match s.earlyConfig x with
      | some f => s.copyFail f | none => let u := s.recordAttempt { last := 10, err := 0, ty := 0, inst := 0 }; let u : State := { u with spkSets := parseSets (sectionOf x 7 0), dsp := { u.dsp with sounds := parseSounds true (sectionOf x 9 0), graphDue := some (parseGraph (sectionOf x 5 0)) } }; let u := ((u.loadLoopbank (sectionOf x 8 0)).takePolicy ((policyOf (sectionOf x 6 0)).getD [])).stage1Fault; (({ u with boot := { u.boot with state := bootEarlyRunning, firmware := true, nackRetry := false } } : State).strapFaults.stbyReport).forEach (regInit (sectionOf x 2 0)) (fun r t => t.writeReg .firmware r.1 r.2))) ∧
  (∀ (g : Graph) (s : State), s.dsp.graphDue = some g → s.boot.firmware = true → s.on F.DIAG_STAT_BOOT_DONE = true →
    s.boot.mode ≠ 1 → exec .earlyGraphPlaced s = .next (((({ s with dsp := { s.dsp with graphDue := none } } :
    State).installGraph g 1).placeGraph).unmute g.outputs)) ∧
  (∀ (f : BootFail) (x : List (Nat × Nat × List Byte)) (s : State), s.lateReads = true → s.boot.dryfitRan = false →
    integrityFail x (s.boot.dir.filter (fun d => !d.early)) = some f → exec (.fullRunningTakeover x) s = .next (s.lateFail f)) ∧
  (∀ (x : List (Nat × Nat × List Byte)) (s : State), s.lateReads = true → s.boot.dryfitRan = false → s.boot.mode ≠ 1 →
    s.dsp.graphDue = none → integrityFail x (s.boot.dir.filter (fun d => !d.early)) = none → exec (.fullRunningTakeover x) s =
    .next (match s.fullConfig x s.dsp.sounds s.spkSets with
      | some f => s.lateFail f | none => let g := parseGraph (sectionOf x 5 1); let u := s.bt (fun b => { b with state := bootFullRunning, plan := [], nackRetry := false, tFull := s.now - s.boot.porTime }); let u : State := { u with dsp := { u.dsp with sounds := u.dsp.sounds ++ parseSounds false (sectionOf x 9 1) }, hbus := { u.hbus with booted := true } }; let u := ((u.takePolicy ((policyOf (sectionOf x 6 1)).getD [])).installGraph g 2).placeGraph; let u := (u.forEach (s.dsp.graph.outputs.filter (fun o => s.outClass o == 0 && !g.outputs.contains o)) (fun o t => t.rampOut o)).bindAll; ((u.takeVmap (sectionOf x 0xA 0)).applyRing).unmute g.outputs)) ∧
  (∀ (err ty i : Nat) (s : State), s.boot.state = bootEarlyRunning → s.boot.attempts = [] → exec (.earlyOnlyEntry err ty i) s
    = .next (({ s with boot := { s.boot with attempts := [], plan := [], state := bootEarlyOnly } } : State).bootFault err)) ∧
  (∀ (s : State), s.boot.state = bootRomRead → s.boot.plan = [] → s.boot.chosen = none → s.boot.mode ≠ 1 → let t := s.rwbDefaults.forEach [5, 6, 7, 8] (fun r t => t.railOff r);
    let t : State := { t with pmu := { t.pmu with stages := [], nextStage := 0, opened := [], seqOn := false }, hbus := { t.hbus with addrPending := false,
                                                                                                                                      cfgAddrUsed := false } };
    let t := t.wr F.HBUS_STAT_ADDR (0x40 + t.hbus.strap); let t : State := { t with boot := { t.boot with state := bootRomDefaults } };
    exec .romDefaultsEntry s = .next ((t.wr F.SEC_LOCKSTAT_LOCKED 1).aliveStop.bootFault ((s.boot.attempts.getLast?.map (fun a
    => a.err)).getD 0))) ∧
  (∀ (l : List Nat) (s : State), s.boot.state = bootDryfitRunning → s.rd F.DSPX_STAT_GRAPH = 3 → s.boot.dryfitRan = false →
    exec (.dryfitExecutionEnd l) s = .next ((fun t : State => { t with boot := { t.boot with dryfitRan := true } })
    (s.dryfitEntry 0 0 0 (2 :: 0 :: 0 :: 0 :: (List.range 4).flatMap (fun c => leBytes 2 (l.getD c 0)))))) ∧
  (∀ (s : State), s.boot.state = bootDryfitRunning → s.boot.dryfitRan = true → (∀ o < 16, s.sweep o = none) → (∀ n < 4, s.rd
    (F.PORTn_CFG_MODE n) = 0) → s.ringEntry = none → exec .dryfitDone s = .next ((fun t : State => t.complete 5 (leBytes 2
    t.boot.dryfit.length)) { s with boot := { s.boot with state := bootDryfitDone, plan := [] } })) ∧
  (∀ (p : Byte) (s : State), p = s.writePec [0x60] → s.hostUp = true → s.hostBusy = false → s.boot.state = bootFullRunning →
    s.boot.job = none → s.boot.waiting.length < 4 → let n := (s.memWord (stagingBase + 4)).toNat; let t := s.hostBack [] true;
    exec (.veneerApply (.pec p)) s = .next (({ t with boot := { t.boot with job := some { bytes := s.memBytes stagingBase (if 1 ≤ n ∧ n ≤ 4095 then 16 + 16 * n else 16) } } }
    : State).hostResult 0)) ∧
  (∀ (p : Byte) (s : State), p = s.writePec [0x60] → s.hostUp = true → s.hostBusy = false → s.boot.state ≠ bootFullRunning →
    s.boot.state ≠ bootDryfitDone → exec (.veneerApply (.pec p)) s = .next (((s.hostBack [] true).veneerRefused (s.memWord
    (stagingBase + 8)).toNat 0 5).hostResult 0)) ∧
  (∀ (j : VeneerJob) (s : State), s.boot.job = some j → u32 j.bytes 0 ≠ 0x524E4556 → exec .veneerValidated s = .next (({ s with boot := { s.boot with job := none } }
    : State).veneerRefused (u32 j.bytes 8) 0 1)) ∧
  (∀ (j : VeneerJob) (s : State), s.boot.job = some j → u32 j.bytes 0 = 0x524E4556 → 1 ≤ u32 j.bytes 4 → u32 j.bytes 4 ≤ 4095
    → j.bytes.length = 16 + 16 * u32 j.bytes 4 → u32 j.bytes 12 = (crc32 (j.bytes.drop 16)).toNat → s.boot.state =
    bootFullRunning → (s.checkRecords 0 (veneerRecs j.bytes) s.graphAhead).2.1 = 0 → exec .veneerValidated s = .next (({ s with boot := { s.boot with job := none,
                                                                                                                                                      waiting := s.boot.waiting ++ [{ seq := BitVec.ofNat 32 (u32 j.bytes 8),
                                                                                                                                                                                      recs := (s.checkRecords 0 (veneerRecs j.bytes) s.graphAhead).2.2 }] } }
    : State).complete 2 (leBytes 4 (u32 j.bytes 8))))
end

