-- ==== Sys2Proof/Laws/Tbl.lean ====
section
/-!
SUPPORT. Laws/Tbl.lean: what reading gives after a write of a sparse table, and that writes keep the canonical form.
-/

namespace Sys2Proof.Machine

-- one theorem after the other: the package as one text then needs fewer threads
set_option Elab.async false

variable {α : Type} {d : α} {t : Tbl α} {a b : Nat} {x : α}

theorem Tbl.get_put_self : Tbl.get d (Tbl.put a x t) a = x := by
  induction t with
  | nil => simp [Tbl.put, Tbl.get]
  | cons e t ih =>
    simp only [Tbl.put]
    split
    · simp [Tbl.get]
    · split
      · simp [Tbl.get]
      · rename_i h _; simp [Tbl.get, h, ih]

theorem Tbl.get_put_ne (h : b ≠ a) : Tbl.get d (Tbl.put a x t) b = Tbl.get d t b := by
  induction t with
  | nil => simp [Tbl.put, Tbl.get, h]
  | cons e t ih =>
    simp only [Tbl.put]
    split
    · rename_i e'; subst e'; simp [Tbl.get, h]
    · split
      · simp [Tbl.get, h]
      · simp [Tbl.get, ih]

theorem Tbl.get_del_self : Tbl.get d (Tbl.del a t) a = d := by
  induction t with
  | nil => rfl
  | cons e t ih =>
    simp only [Tbl.del]
    split
    · exact ih
    · rename_i h; simp [Tbl.get, Ne.symm h, ih]

theorem Tbl.get_del_ne (h : b ≠ a) : Tbl.get d (Tbl.del a t) b = Tbl.get d t b := by
  induction t with
  | nil => rfl
  | cons e t ih =>
    simp only [Tbl.del]
    split
    · rename_i e'; subst e'; simp [Tbl.get, h, ih]
    · simp [Tbl.get, ih]

variable [DecidableEq α]

/-- A written key reads as written. -/
@[simp] theorem Tbl.get_set_self : Tbl.get d (Tbl.set d t a x) a = x := by
  unfold Tbl.set
  split
  · rename_i h; rw [Tbl.get_del_self, h]
  · exact Tbl.get_put_self

/-- Every other key reads as before, whatever the value that an unlisted key reads as. -/
theorem Tbl.get_set_ne {d' : α} (h : b ≠ a) : Tbl.get d' (Tbl.set d t a x) b = Tbl.get d' t b := by
  unfold Tbl.set
  split
  · exact Tbl.get_del_ne h
  · exact Tbl.get_put_ne h

/-- Reading after a write, in one equation. -/
theorem Tbl.get_set : Tbl.get d (Tbl.set d t a x) b = if b = a then x else Tbl.get d t b := by
  split
  · rename_i h; subst h; exact Tbl.get_set_self
  · rename_i h; exact Tbl.get_set_ne h

/-- A key that is dropped reads as an unlisted one. -/
theorem Tbl.get_drop {p : Nat → Bool} : Tbl.get d (Tbl.drop p t) b = if p b then d else Tbl.get d t b := by
  induction t with
  | nil => simp [Tbl.drop, Tbl.get]
  | cons e t ih =>
    obtain ⟨k, v⟩ := e
    simp only [Tbl.drop]
    by_cases hk : p k
    · simp only [hk, if_true, ih, Tbl.get]
      by_cases hb : b = k
      · subst hb; simp [hk]
      · simp [hb]
    · by_cases hb : b = k
      · subst hb; simp [hk, Tbl.get]
      · simp [hk, Tbl.get, hb, ih]

/-! ### The canonical form -/

variable {f : Nat → α} {lo : Option Nat}

/-- A key above the bound of a table. -/
def Tbl.above : Option Nat → Nat → Prop
  | none, _ => True
  | some l, k => l < k

theorem Tbl.wfFrom_cons {k : Nat} {v : α} :
    Tbl.wfFrom f lo ((k, v) :: t) = true ↔ Tbl.above lo k ∧ v ≠ f k ∧ Tbl.wfFrom f (some k) t = true := by
  cases lo <;> simp [Tbl.wfFrom, Tbl.above, and_assoc]

theorem Tbl.wfFrom_mono {lo' : Option Nat} (h : ∀ k, Tbl.above lo k → Tbl.above lo' k) (w : Tbl.wfFrom f lo t = true) :
    Tbl.wfFrom f lo' t = true := by
  cases t with
  | nil => rfl
  | cons e t =>
    obtain ⟨k, v⟩ := e
    rw [Tbl.wfFrom_cons] at *
    exact ⟨h k w.1, w.2⟩

theorem Tbl.wfFrom_tail {k : Nat} {v : α} (w : Tbl.wfFrom f lo ((k, v) :: t) = true) : Tbl.wfFrom f lo t = true := by
  have w := Tbl.wfFrom_cons.mp w
  refine Tbl.wfFrom_mono (fun j hj => ?_) w.2.2
  cases lo with
  | none => trivial
  | some l => exact Nat.lt_trans w.1 hj

theorem Tbl.wfFrom_put (hx : x ≠ f a) : ∀ {t : Tbl α} {lo}, Tbl.above lo a → Tbl.wfFrom f lo t = true →
    Tbl.wfFrom f lo (Tbl.put a x t) = true
  | [], lo, ha, _ => by simpa [Tbl.put] using Tbl.wfFrom_cons.mpr ⟨ha, hx, rfl⟩
  | (k, v) :: t, lo, ha, w => by
    have w' := Tbl.wfFrom_cons.mp w
    simp only [Tbl.put]
    split
    · rename_i h; subst h; exact Tbl.wfFrom_cons.mpr ⟨ha, hx, w'.2.2⟩
    · split
      · rename_i h; exact Tbl.wfFrom_cons.mpr ⟨ha, hx, Tbl.wfFrom_cons.mpr ⟨h, w'.2⟩⟩
      · rename_i h1 h2
        exact Tbl.wfFrom_cons.mpr ⟨w'.1, w'.2.1, Tbl.wfFrom_put hx (show k < a by omega) w'.2.2⟩

theorem Tbl.wfFrom_del : ∀ {t : Tbl α} {lo}, Tbl.wfFrom f lo t = true → Tbl.wfFrom f lo (Tbl.del a t) = true
  | [], _, _ => rfl
  | (k, v) :: t, lo, w => by
    have w' := Tbl.wfFrom_cons.mp w
    simp only [Tbl.del]
    split
    · exact Tbl.wfFrom_del (Tbl.wfFrom_tail w)
    · exact Tbl.wfFrom_cons.mpr ⟨w'.1, w'.2.1, Tbl.wfFrom_del w'.2.2⟩

theorem Tbl.wfFrom_drop {p : Nat → Bool} : ∀ {t : Tbl α} {lo}, Tbl.wfFrom f lo t = true → Tbl.wfFrom f lo (Tbl.drop p t) = true
  | [], _, _ => rfl
  | (k, v) :: t, lo, w => by
    have w' := Tbl.wfFrom_cons.mp w
    simp only [Tbl.drop]
    split
    · exact Tbl.wfFrom_drop (Tbl.wfFrom_tail w)
    · exact Tbl.wfFrom_cons.mpr ⟨w'.1, w'.2.1, Tbl.wfFrom_drop w'.2.2⟩

/-- A write keeps the canonical form. -/
theorem Tbl.wf_set (w : Tbl.wf f t = true) : Tbl.wf f (Tbl.set (f a) t a x) = true := by
  unfold Tbl.set
  split
  · exact Tbl.wfFrom_del w
  · rename_i h; exact Tbl.wfFrom_put h trivial w

/-- Dropping entries keeps the canonical form. -/
theorem Tbl.wf_drop {p : Nat → Bool} (w : Tbl.wf f t = true) : Tbl.wf f (Tbl.drop p t) = true := Tbl.wfFrom_drop w

end Sys2Proof.Machine
end

