-- ==== Sys2Proof/Laws/State.lean ====
section
/-!
SUPPORT. Laws/State.lean: what the register operations leave as it was, one lemma per field of State, and what a register and a
field read as after a write.
-/

namespace Sys2Proof.Machine

-- one theorem after the other: the package as one text then needs fewer threads
set_option Elab.async false

variable (s : State)

/-! ### setReg -/

@[simp] theorem State.setReg_mem (a : Nat) (v : BitVec 32) : (s.setReg a v).mem = s.mem := rfl
@[simp] theorem State.setReg_now (a : Nat) (v : BitVec 32) : (s.setReg a v).now = s.now := rfl
@[simp] theorem State.setReg_freeCount (a : Nat) (v : BitVec 32) : (s.setReg a v).freeCount = s.freeCount := rfl
@[simp] theorem State.setReg_otp (a : Nat) (v : BitVec 32) : (s.setReg a v).otp = s.otp := rfl
@[simp] theorem State.setReg_sys (a : Nat) (v : BitVec 32) : (s.setReg a v).sys = s.sys := rfl
@[simp] theorem State.setReg_boot (a : Nat) (v : BitVec 32) : (s.setReg a v).boot = s.boot := rfl
@[simp] theorem State.setReg_ports (a : Nat) (v : BitVec 32) : (s.setReg a v).ports = s.ports := rfl
@[simp] theorem State.setReg_dsp (a : Nat) (v : BitVec 32) : (s.setReg a v).dsp = s.dsp := rfl
@[simp] theorem State.setReg_fcol (a : Nat) (v : BitVec 32) : (s.setReg a v).fcol = s.fcol := rfl
@[simp] theorem State.setReg_hbus (a : Nat) (v : BitVec 32) : (s.setReg a v).hbus = s.hbus := rfl
@[simp] theorem State.setReg_intc (a : Nat) (v : BitVec 32) : (s.setReg a v).intc = s.intc := rfl
@[simp] theorem State.setReg_sec (a : Nat) (v : BitVec 32) : (s.setReg a v).sec = s.sec := rfl
@[simp] theorem State.setReg_ring (a : Nat) (v : BitVec 32) : (s.setReg a v).ring = s.ring := rfl
@[simp] theorem State.setReg_outs (a : Nat) (v : BitVec 32) : (s.setReg a v).outs = s.outs := rfl
@[simp] theorem State.setReg_bridges (a : Nat) (v : BitVec 32) : (s.setReg a v).bridges = s.bridges := rfl
@[simp] theorem State.setReg_diag (a : Nat) (v : BitVec 32) : (s.setReg a v).diag = s.diag := rfl
@[simp] theorem State.setReg_sense (a : Nat) (v : BitVec 32) : (s.setReg a v).sense = s.sense := rfl
@[simp] theorem State.setReg_pmu (a : Nat) (v : BitVec 32) : (s.setReg a v).pmu = s.pmu := rfl
@[simp] theorem State.setReg_loop (a : Nat) (v : BitVec 32) : (s.setReg a v).loop = s.loop := rfl
@[simp] theorem State.setReg_decim (a : Nat) (v : BitVec 32) : (s.setReg a v).decim = s.decim := rfl
@[simp] theorem State.setReg_guard (a : Nat) (v : BitVec 32) : (s.setReg a v).guard = s.guard := rfl
@[simp] theorem State.setReg_spkSets (a : Nat) (v : BitVec 32) : (s.setReg a v).spkSets = s.spkSets := rfl
@[simp] theorem State.setReg_gov (a : Nat) (v : BitVec 32) : (s.setReg a v).gov = s.gov := rfl
@[simp] theorem State.setReg_hk (a : Nat) (v : BitVec 32) : (s.setReg a v).hk = s.hk := rfl
@[simp] theorem State.setReg_pending (a : Nat) (v : BitVec 32) : (s.setReg a v).pending = s.pending := rfl

/-! ### wr -/

@[simp] theorem State.wr_mem (f : Fld) (v : Nat) : (s.wr f v).mem = s.mem := rfl
@[simp] theorem State.wr_now (f : Fld) (v : Nat) : (s.wr f v).now = s.now := rfl
@[simp] theorem State.wr_freeCount (f : Fld) (v : Nat) : (s.wr f v).freeCount = s.freeCount := rfl
@[simp] theorem State.wr_otp (f : Fld) (v : Nat) : (s.wr f v).otp = s.otp := rfl
@[simp] theorem State.wr_sys (f : Fld) (v : Nat) : (s.wr f v).sys = s.sys := rfl
@[simp] theorem State.wr_boot (f : Fld) (v : Nat) : (s.wr f v).boot = s.boot := rfl
@[simp] theorem State.wr_ports (f : Fld) (v : Nat) : (s.wr f v).ports = s.ports := rfl
@[simp] theorem State.wr_dsp (f : Fld) (v : Nat) : (s.wr f v).dsp = s.dsp := rfl
@[simp] theorem State.wr_fcol (f : Fld) (v : Nat) : (s.wr f v).fcol = s.fcol := rfl
@[simp] theorem State.wr_hbus (f : Fld) (v : Nat) : (s.wr f v).hbus = s.hbus := rfl
@[simp] theorem State.wr_intc (f : Fld) (v : Nat) : (s.wr f v).intc = s.intc := rfl
@[simp] theorem State.wr_sec (f : Fld) (v : Nat) : (s.wr f v).sec = s.sec := rfl
@[simp] theorem State.wr_ring (f : Fld) (v : Nat) : (s.wr f v).ring = s.ring := rfl
@[simp] theorem State.wr_outs (f : Fld) (v : Nat) : (s.wr f v).outs = s.outs := rfl
@[simp] theorem State.wr_bridges (f : Fld) (v : Nat) : (s.wr f v).bridges = s.bridges := rfl
@[simp] theorem State.wr_diag (f : Fld) (v : Nat) : (s.wr f v).diag = s.diag := rfl
@[simp] theorem State.wr_sense (f : Fld) (v : Nat) : (s.wr f v).sense = s.sense := rfl
@[simp] theorem State.wr_pmu (f : Fld) (v : Nat) : (s.wr f v).pmu = s.pmu := rfl
@[simp] theorem State.wr_loop (f : Fld) (v : Nat) : (s.wr f v).loop = s.loop := rfl
@[simp] theorem State.wr_decim (f : Fld) (v : Nat) : (s.wr f v).decim = s.decim := rfl
@[simp] theorem State.wr_guard (f : Fld) (v : Nat) : (s.wr f v).guard = s.guard := rfl
@[simp] theorem State.wr_spkSets (f : Fld) (v : Nat) : (s.wr f v).spkSets = s.spkSets := rfl
@[simp] theorem State.wr_gov (f : Fld) (v : Nat) : (s.wr f v).gov = s.gov := rfl
@[simp] theorem State.wr_hk (f : Fld) (v : Nat) : (s.wr f v).hk = s.hk := rfl
@[simp] theorem State.wr_pending (f : Fld) (v : Nat) : (s.wr f v).pending = s.pending := rfl

/-! ### wrB -/

@[simp] theorem State.wrB_mem (f : Fld) (b : Bool) : (s.wrB f b).mem = s.mem := rfl
@[simp] theorem State.wrB_now (f : Fld) (b : Bool) : (s.wrB f b).now = s.now := rfl
@[simp] theorem State.wrB_freeCount (f : Fld) (b : Bool) : (s.wrB f b).freeCount = s.freeCount := rfl
@[simp] theorem State.wrB_otp (f : Fld) (b : Bool) : (s.wrB f b).otp = s.otp := rfl
@[simp] theorem State.wrB_sys (f : Fld) (b : Bool) : (s.wrB f b).sys = s.sys := rfl
@[simp] theorem State.wrB_boot (f : Fld) (b : Bool) : (s.wrB f b).boot = s.boot := rfl
@[simp] theorem State.wrB_ports (f : Fld) (b : Bool) : (s.wrB f b).ports = s.ports := rfl
@[simp] theorem State.wrB_dsp (f : Fld) (b : Bool) : (s.wrB f b).dsp = s.dsp := rfl
@[simp] theorem State.wrB_fcol (f : Fld) (b : Bool) : (s.wrB f b).fcol = s.fcol := rfl
@[simp] theorem State.wrB_hbus (f : Fld) (b : Bool) : (s.wrB f b).hbus = s.hbus := rfl
@[simp] theorem State.wrB_intc (f : Fld) (b : Bool) : (s.wrB f b).intc = s.intc := rfl
@[simp] theorem State.wrB_sec (f : Fld) (b : Bool) : (s.wrB f b).sec = s.sec := rfl
@[simp] theorem State.wrB_ring (f : Fld) (b : Bool) : (s.wrB f b).ring = s.ring := rfl
@[simp] theorem State.wrB_outs (f : Fld) (b : Bool) : (s.wrB f b).outs = s.outs := rfl
@[simp] theorem State.wrB_bridges (f : Fld) (b : Bool) : (s.wrB f b).bridges = s.bridges := rfl
@[simp] theorem State.wrB_diag (f : Fld) (b : Bool) : (s.wrB f b).diag = s.diag := rfl
@[simp] theorem State.wrB_sense (f : Fld) (b : Bool) : (s.wrB f b).sense = s.sense := rfl
@[simp] theorem State.wrB_pmu (f : Fld) (b : Bool) : (s.wrB f b).pmu = s.pmu := rfl
@[simp] theorem State.wrB_loop (f : Fld) (b : Bool) : (s.wrB f b).loop = s.loop := rfl
@[simp] theorem State.wrB_decim (f : Fld) (b : Bool) : (s.wrB f b).decim = s.decim := rfl
@[simp] theorem State.wrB_guard (f : Fld) (b : Bool) : (s.wrB f b).guard = s.guard := rfl
@[simp] theorem State.wrB_spkSets (f : Fld) (b : Bool) : (s.wrB f b).spkSets = s.spkSets := rfl
@[simp] theorem State.wrB_gov (f : Fld) (b : Bool) : (s.wrB f b).gov = s.gov := rfl
@[simp] theorem State.wrB_hk (f : Fld) (b : Bool) : (s.wrB f b).hk = s.hk := rfl
@[simp] theorem State.wrB_pending (f : Fld) (b : Bool) : (s.wrB f b).pending = s.pending := rfl

/-! ### wrI -/

@[simp] theorem State.wrI_mem (f : Fld) (v : Int) : (s.wrI f v).mem = s.mem := rfl
@[simp] theorem State.wrI_now (f : Fld) (v : Int) : (s.wrI f v).now = s.now := rfl
@[simp] theorem State.wrI_freeCount (f : Fld) (v : Int) : (s.wrI f v).freeCount = s.freeCount := rfl
@[simp] theorem State.wrI_otp (f : Fld) (v : Int) : (s.wrI f v).otp = s.otp := rfl
@[simp] theorem State.wrI_sys (f : Fld) (v : Int) : (s.wrI f v).sys = s.sys := rfl
@[simp] theorem State.wrI_boot (f : Fld) (v : Int) : (s.wrI f v).boot = s.boot := rfl
@[simp] theorem State.wrI_ports (f : Fld) (v : Int) : (s.wrI f v).ports = s.ports := rfl
@[simp] theorem State.wrI_dsp (f : Fld) (v : Int) : (s.wrI f v).dsp = s.dsp := rfl
@[simp] theorem State.wrI_fcol (f : Fld) (v : Int) : (s.wrI f v).fcol = s.fcol := rfl
@[simp] theorem State.wrI_hbus (f : Fld) (v : Int) : (s.wrI f v).hbus = s.hbus := rfl
@[simp] theorem State.wrI_intc (f : Fld) (v : Int) : (s.wrI f v).intc = s.intc := rfl
@[simp] theorem State.wrI_sec (f : Fld) (v : Int) : (s.wrI f v).sec = s.sec := rfl
@[simp] theorem State.wrI_ring (f : Fld) (v : Int) : (s.wrI f v).ring = s.ring := rfl
@[simp] theorem State.wrI_outs (f : Fld) (v : Int) : (s.wrI f v).outs = s.outs := rfl
@[simp] theorem State.wrI_bridges (f : Fld) (v : Int) : (s.wrI f v).bridges = s.bridges := rfl
@[simp] theorem State.wrI_diag (f : Fld) (v : Int) : (s.wrI f v).diag = s.diag := rfl
@[simp] theorem State.wrI_sense (f : Fld) (v : Int) : (s.wrI f v).sense = s.sense := rfl
@[simp] theorem State.wrI_pmu (f : Fld) (v : Int) : (s.wrI f v).pmu = s.pmu := rfl
@[simp] theorem State.wrI_loop (f : Fld) (v : Int) : (s.wrI f v).loop = s.loop := rfl
@[simp] theorem State.wrI_decim (f : Fld) (v : Int) : (s.wrI f v).decim = s.decim := rfl
@[simp] theorem State.wrI_guard (f : Fld) (v : Int) : (s.wrI f v).guard = s.guard := rfl
@[simp] theorem State.wrI_spkSets (f : Fld) (v : Int) : (s.wrI f v).spkSets = s.spkSets := rfl
@[simp] theorem State.wrI_gov (f : Fld) (v : Int) : (s.wrI f v).gov = s.gov := rfl
@[simp] theorem State.wrI_hk (f : Fld) (v : Int) : (s.wrI f v).hk = s.hk := rfl
@[simp] theorem State.wrI_pending (f : Fld) (v : Int) : (s.wrI f v).pending = s.pending := rfl

/-! ### ev -/

@[simp] theorem State.ev_mem (a b : Nat) : (s.ev a b).mem = s.mem := rfl
@[simp] theorem State.ev_now (a b : Nat) : (s.ev a b).now = s.now := rfl
@[simp] theorem State.ev_freeCount (a b : Nat) : (s.ev a b).freeCount = s.freeCount := rfl
@[simp] theorem State.ev_otp (a b : Nat) : (s.ev a b).otp = s.otp := rfl
@[simp] theorem State.ev_sys (a b : Nat) : (s.ev a b).sys = s.sys := rfl
@[simp] theorem State.ev_boot (a b : Nat) : (s.ev a b).boot = s.boot := rfl
@[simp] theorem State.ev_ports (a b : Nat) : (s.ev a b).ports = s.ports := rfl
@[simp] theorem State.ev_dsp (a b : Nat) : (s.ev a b).dsp = s.dsp := rfl
@[simp] theorem State.ev_fcol (a b : Nat) : (s.ev a b).fcol = s.fcol := rfl
@[simp] theorem State.ev_hbus (a b : Nat) : (s.ev a b).hbus = s.hbus := rfl
@[simp] theorem State.ev_intc (a b : Nat) : (s.ev a b).intc = s.intc := rfl
@[simp] theorem State.ev_sec (a b : Nat) : (s.ev a b).sec = s.sec := rfl
@[simp] theorem State.ev_ring (a b : Nat) : (s.ev a b).ring = s.ring := rfl
@[simp] theorem State.ev_outs (a b : Nat) : (s.ev a b).outs = s.outs := rfl
@[simp] theorem State.ev_bridges (a b : Nat) : (s.ev a b).bridges = s.bridges := rfl
@[simp] theorem State.ev_diag (a b : Nat) : (s.ev a b).diag = s.diag := rfl
@[simp] theorem State.ev_sense (a b : Nat) : (s.ev a b).sense = s.sense := rfl
@[simp] theorem State.ev_pmu (a b : Nat) : (s.ev a b).pmu = s.pmu := rfl
@[simp] theorem State.ev_loop (a b : Nat) : (s.ev a b).loop = s.loop := rfl
@[simp] theorem State.ev_decim (a b : Nat) : (s.ev a b).decim = s.decim := rfl
@[simp] theorem State.ev_guard (a b : Nat) : (s.ev a b).guard = s.guard := rfl
@[simp] theorem State.ev_spkSets (a b : Nat) : (s.ev a b).spkSets = s.spkSets := rfl
@[simp] theorem State.ev_gov (a b : Nat) : (s.ev a b).gov = s.gov := rfl
@[simp] theorem State.ev_hk (a b : Nat) : (s.ev a b).hk = s.hk := rfl
@[simp] theorem State.ev_pending (a b : Nat) : (s.ev a b).pending = s.pending := rfl

/-! ### setBit -/

@[simp] theorem State.setBit_mem (a b : Nat) (v : Bool) : (s.setBit a b v).mem = s.mem := rfl
@[simp] theorem State.setBit_now (a b : Nat) (v : Bool) : (s.setBit a b v).now = s.now := rfl
@[simp] theorem State.setBit_freeCount (a b : Nat) (v : Bool) : (s.setBit a b v).freeCount = s.freeCount := rfl
@[simp] theorem State.setBit_otp (a b : Nat) (v : Bool) : (s.setBit a b v).otp = s.otp := rfl
@[simp] theorem State.setBit_sys (a b : Nat) (v : Bool) : (s.setBit a b v).sys = s.sys := rfl
@[simp] theorem State.setBit_boot (a b : Nat) (v : Bool) : (s.setBit a b v).boot = s.boot := rfl
@[simp] theorem State.setBit_ports (a b : Nat) (v : Bool) : (s.setBit a b v).ports = s.ports := rfl
@[simp] theorem State.setBit_dsp (a b : Nat) (v : Bool) : (s.setBit a b v).dsp = s.dsp := rfl
@[simp] theorem State.setBit_fcol (a b : Nat) (v : Bool) : (s.setBit a b v).fcol = s.fcol := rfl
@[simp] theorem State.setBit_hbus (a b : Nat) (v : Bool) : (s.setBit a b v).hbus = s.hbus := rfl
@[simp] theorem State.setBit_intc (a b : Nat) (v : Bool) : (s.setBit a b v).intc = s.intc := rfl
@[simp] theorem State.setBit_sec (a b : Nat) (v : Bool) : (s.setBit a b v).sec = s.sec := rfl
@[simp] theorem State.setBit_ring (a b : Nat) (v : Bool) : (s.setBit a b v).ring = s.ring := rfl
@[simp] theorem State.setBit_outs (a b : Nat) (v : Bool) : (s.setBit a b v).outs = s.outs := rfl
@[simp] theorem State.setBit_bridges (a b : Nat) (v : Bool) : (s.setBit a b v).bridges = s.bridges := rfl
@[simp] theorem State.setBit_diag (a b : Nat) (v : Bool) : (s.setBit a b v).diag = s.diag := rfl
@[simp] theorem State.setBit_sense (a b : Nat) (v : Bool) : (s.setBit a b v).sense = s.sense := rfl
@[simp] theorem State.setBit_pmu (a b : Nat) (v : Bool) : (s.setBit a b v).pmu = s.pmu := rfl
@[simp] theorem State.setBit_loop (a b : Nat) (v : Bool) : (s.setBit a b v).loop = s.loop := rfl
@[simp] theorem State.setBit_decim (a b : Nat) (v : Bool) : (s.setBit a b v).decim = s.decim := rfl
@[simp] theorem State.setBit_guard (a b : Nat) (v : Bool) : (s.setBit a b v).guard = s.guard := rfl
@[simp] theorem State.setBit_spkSets (a b : Nat) (v : Bool) : (s.setBit a b v).spkSets = s.spkSets := rfl
@[simp] theorem State.setBit_gov (a b : Nat) (v : Bool) : (s.setBit a b v).gov = s.gov := rfl
@[simp] theorem State.setBit_hk (a b : Nat) (v : Bool) : (s.setBit a b v).hk = s.hk := rfl
@[simp] theorem State.setBit_pending (a b : Nat) (v : Bool) : (s.setBit a b v).pending = s.pending := rfl

/-! ### bumpWrap -/

@[simp] theorem State.bumpWrap_mem (f : Fld) : (s.bumpWrap f).mem = s.mem := rfl
@[simp] theorem State.bumpWrap_now (f : Fld) : (s.bumpWrap f).now = s.now := rfl
@[simp] theorem State.bumpWrap_freeCount (f : Fld) : (s.bumpWrap f).freeCount = s.freeCount := rfl
@[simp] theorem State.bumpWrap_otp (f : Fld) : (s.bumpWrap f).otp = s.otp := rfl
@[simp] theorem State.bumpWrap_sys (f : Fld) : (s.bumpWrap f).sys = s.sys := rfl
@[simp] theorem State.bumpWrap_boot (f : Fld) : (s.bumpWrap f).boot = s.boot := rfl
@[simp] theorem State.bumpWrap_ports (f : Fld) : (s.bumpWrap f).ports = s.ports := rfl
@[simp] theorem State.bumpWrap_dsp (f : Fld) : (s.bumpWrap f).dsp = s.dsp := rfl
@[simp] theorem State.bumpWrap_fcol (f : Fld) : (s.bumpWrap f).fcol = s.fcol := rfl
@[simp] theorem State.bumpWrap_hbus (f : Fld) : (s.bumpWrap f).hbus = s.hbus := rfl
@[simp] theorem State.bumpWrap_intc (f : Fld) : (s.bumpWrap f).intc = s.intc := rfl
@[simp] theorem State.bumpWrap_sec (f : Fld) : (s.bumpWrap f).sec = s.sec := rfl
@[simp] theorem State.bumpWrap_ring (f : Fld) : (s.bumpWrap f).ring = s.ring := rfl
@[simp] theorem State.bumpWrap_outs (f : Fld) : (s.bumpWrap f).outs = s.outs := rfl
@[simp] theorem State.bumpWrap_bridges (f : Fld) : (s.bumpWrap f).bridges = s.bridges := rfl
@[simp] theorem State.bumpWrap_diag (f : Fld) : (s.bumpWrap f).diag = s.diag := rfl
@[simp] theorem State.bumpWrap_sense (f : Fld) : (s.bumpWrap f).sense = s.sense := rfl
@[simp] theorem State.bumpWrap_pmu (f : Fld) : (s.bumpWrap f).pmu = s.pmu := rfl
@[simp] theorem State.bumpWrap_loop (f : Fld) : (s.bumpWrap f).loop = s.loop := rfl
@[simp] theorem State.bumpWrap_decim (f : Fld) : (s.bumpWrap f).decim = s.decim := rfl
@[simp] theorem State.bumpWrap_guard (f : Fld) : (s.bumpWrap f).guard = s.guard := rfl
@[simp] theorem State.bumpWrap_spkSets (f : Fld) : (s.bumpWrap f).spkSets = s.spkSets := rfl
@[simp] theorem State.bumpWrap_gov (f : Fld) : (s.bumpWrap f).gov = s.gov := rfl
@[simp] theorem State.bumpWrap_hk (f : Fld) : (s.bumpWrap f).hk = s.hk := rfl
@[simp] theorem State.bumpWrap_pending (f : Fld) : (s.bumpWrap f).pending = s.pending := rfl

/-! ### bump -/

@[simp] theorem State.bump_mem (f : Fld) : (s.bump f).mem = s.mem := by unfold State.bump; split <;> rfl
@[simp] theorem State.bump_now (f : Fld) : (s.bump f).now = s.now := by unfold State.bump; split <;> rfl
@[simp] theorem State.bump_freeCount (f : Fld) : (s.bump f).freeCount = s.freeCount := by unfold State.bump; split <;> rfl
@[simp] theorem State.bump_otp (f : Fld) : (s.bump f).otp = s.otp := by unfold State.bump; split <;> rfl
@[simp] theorem State.bump_sys (f : Fld) : (s.bump f).sys = s.sys := by unfold State.bump; split <;> rfl
@[simp] theorem State.bump_boot (f : Fld) : (s.bump f).boot = s.boot := by unfold State.bump; split <;> rfl
@[simp] theorem State.bump_ports (f : Fld) : (s.bump f).ports = s.ports := by unfold State.bump; split <;> rfl
@[simp] theorem State.bump_dsp (f : Fld) : (s.bump f).dsp = s.dsp := by unfold State.bump; split <;> rfl
@[simp] theorem State.bump_fcol (f : Fld) : (s.bump f).fcol = s.fcol := by unfold State.bump; split <;> rfl
@[simp] theorem State.bump_hbus (f : Fld) : (s.bump f).hbus = s.hbus := by unfold State.bump; split <;> rfl
@[simp] theorem State.bump_intc (f : Fld) : (s.bump f).intc = s.intc := by unfold State.bump; split <;> rfl
@[simp] theorem State.bump_sec (f : Fld) : (s.bump f).sec = s.sec := by unfold State.bump; split <;> rfl
@[simp] theorem State.bump_ring (f : Fld) : (s.bump f).ring = s.ring := by unfold State.bump; split <;> rfl
@[simp] theorem State.bump_outs (f : Fld) : (s.bump f).outs = s.outs := by unfold State.bump; split <;> rfl
@[simp] theorem State.bump_bridges (f : Fld) : (s.bump f).bridges = s.bridges := by unfold State.bump; split <;> rfl
@[simp] theorem State.bump_diag (f : Fld) : (s.bump f).diag = s.diag := by unfold State.bump; split <;> rfl
@[simp] theorem State.bump_sense (f : Fld) : (s.bump f).sense = s.sense := by unfold State.bump; split <;> rfl
@[simp] theorem State.bump_pmu (f : Fld) : (s.bump f).pmu = s.pmu := by unfold State.bump; split <;> rfl
@[simp] theorem State.bump_loop (f : Fld) : (s.bump f).loop = s.loop := by unfold State.bump; split <;> rfl
@[simp] theorem State.bump_decim (f : Fld) : (s.bump f).decim = s.decim := by unfold State.bump; split <;> rfl
@[simp] theorem State.bump_guard (f : Fld) : (s.bump f).guard = s.guard := by unfold State.bump; split <;> rfl
@[simp] theorem State.bump_spkSets (f : Fld) : (s.bump f).spkSets = s.spkSets := by unfold State.bump; split <;> rfl
@[simp] theorem State.bump_gov (f : Fld) : (s.bump f).gov = s.gov := by unfold State.bump; split <;> rfl
@[simp] theorem State.bump_hk (f : Fld) : (s.bump f).hk = s.hk := by unfold State.bump; split <;> rfl
@[simp] theorem State.bump_pending (f : Fld) : (s.bump f).pending = s.pending := by unfold State.bump; split <;> rfl

/-! ### peak -/

@[simp] theorem State.peak_mem (f : Fld) (v : Nat) : (s.peak f v).mem = s.mem := by unfold State.peak; split <;> rfl
@[simp] theorem State.peak_now (f : Fld) (v : Nat) : (s.peak f v).now = s.now := by unfold State.peak; split <;> rfl
@[simp] theorem State.peak_freeCount (f : Fld) (v : Nat) : (s.peak f v).freeCount = s.freeCount := by unfold State.peak; split <;> rfl
@[simp] theorem State.peak_otp (f : Fld) (v : Nat) : (s.peak f v).otp = s.otp := by unfold State.peak; split <;> rfl
@[simp] theorem State.peak_sys (f : Fld) (v : Nat) : (s.peak f v).sys = s.sys := by unfold State.peak; split <;> rfl
@[simp] theorem State.peak_boot (f : Fld) (v : Nat) : (s.peak f v).boot = s.boot := by unfold State.peak; split <;> rfl
@[simp] theorem State.peak_ports (f : Fld) (v : Nat) : (s.peak f v).ports = s.ports := by unfold State.peak; split <;> rfl
@[simp] theorem State.peak_dsp (f : Fld) (v : Nat) : (s.peak f v).dsp = s.dsp := by unfold State.peak; split <;> rfl
@[simp] theorem State.peak_fcol (f : Fld) (v : Nat) : (s.peak f v).fcol = s.fcol := by unfold State.peak; split <;> rfl
@[simp] theorem State.peak_hbus (f : Fld) (v : Nat) : (s.peak f v).hbus = s.hbus := by unfold State.peak; split <;> rfl
@[simp] theorem State.peak_intc (f : Fld) (v : Nat) : (s.peak f v).intc = s.intc := by unfold State.peak; split <;> rfl
@[simp] theorem State.peak_sec (f : Fld) (v : Nat) : (s.peak f v).sec = s.sec := by unfold State.peak; split <;> rfl
@[simp] theorem State.peak_ring (f : Fld) (v : Nat) : (s.peak f v).ring = s.ring := by unfold State.peak; split <;> rfl
@[simp] theorem State.peak_outs (f : Fld) (v : Nat) : (s.peak f v).outs = s.outs := by unfold State.peak; split <;> rfl
@[simp] theorem State.peak_bridges (f : Fld) (v : Nat) : (s.peak f v).bridges = s.bridges := by unfold State.peak; split <;> rfl
@[simp] theorem State.peak_diag (f : Fld) (v : Nat) : (s.peak f v).diag = s.diag := by unfold State.peak; split <;> rfl
@[simp] theorem State.peak_sense (f : Fld) (v : Nat) : (s.peak f v).sense = s.sense := by unfold State.peak; split <;> rfl
@[simp] theorem State.peak_pmu (f : Fld) (v : Nat) : (s.peak f v).pmu = s.pmu := by unfold State.peak; split <;> rfl
@[simp] theorem State.peak_loop (f : Fld) (v : Nat) : (s.peak f v).loop = s.loop := by unfold State.peak; split <;> rfl
@[simp] theorem State.peak_decim (f : Fld) (v : Nat) : (s.peak f v).decim = s.decim := by unfold State.peak; split <;> rfl
@[simp] theorem State.peak_guard (f : Fld) (v : Nat) : (s.peak f v).guard = s.guard := by unfold State.peak; split <;> rfl
@[simp] theorem State.peak_spkSets (f : Fld) (v : Nat) : (s.peak f v).spkSets = s.spkSets := by unfold State.peak; split <;> rfl
@[simp] theorem State.peak_gov (f : Fld) (v : Nat) : (s.peak f v).gov = s.gov := by unfold State.peak; split <;> rfl
@[simp] theorem State.peak_hk (f : Fld) (v : Nat) : (s.peak f v).hk = s.hk := by unfold State.peak; split <;> rfl
@[simp] theorem State.peak_pending (f : Fld) (v : Nat) : (s.peak f v).pending = s.pending := by unfold State.peak; split <;> rfl

/-! ### resetRegs -/

@[simp] theorem State.resetRegs_mem (p : Nat → Bool) : (s.resetRegs p).mem = s.mem := rfl
@[simp] theorem State.resetRegs_now (p : Nat → Bool) : (s.resetRegs p).now = s.now := rfl
@[simp] theorem State.resetRegs_freeCount (p : Nat → Bool) : (s.resetRegs p).freeCount = s.freeCount := rfl
@[simp] theorem State.resetRegs_otp (p : Nat → Bool) : (s.resetRegs p).otp = s.otp := rfl
@[simp] theorem State.resetRegs_sys (p : Nat → Bool) : (s.resetRegs p).sys = s.sys := rfl
@[simp] theorem State.resetRegs_boot (p : Nat → Bool) : (s.resetRegs p).boot = s.boot := rfl
@[simp] theorem State.resetRegs_ports (p : Nat → Bool) : (s.resetRegs p).ports = s.ports := rfl
@[simp] theorem State.resetRegs_dsp (p : Nat → Bool) : (s.resetRegs p).dsp = s.dsp := rfl
@[simp] theorem State.resetRegs_fcol (p : Nat → Bool) : (s.resetRegs p).fcol = s.fcol := rfl
@[simp] theorem State.resetRegs_hbus (p : Nat → Bool) : (s.resetRegs p).hbus = s.hbus := rfl
@[simp] theorem State.resetRegs_intc (p : Nat → Bool) : (s.resetRegs p).intc = s.intc := rfl
@[simp] theorem State.resetRegs_sec (p : Nat → Bool) : (s.resetRegs p).sec = s.sec := rfl
@[simp] theorem State.resetRegs_ring (p : Nat → Bool) : (s.resetRegs p).ring = s.ring := rfl
@[simp] theorem State.resetRegs_outs (p : Nat → Bool) : (s.resetRegs p).outs = s.outs := rfl
@[simp] theorem State.resetRegs_bridges (p : Nat → Bool) : (s.resetRegs p).bridges = s.bridges := rfl
@[simp] theorem State.resetRegs_diag (p : Nat → Bool) : (s.resetRegs p).diag = s.diag := rfl
@[simp] theorem State.resetRegs_sense (p : Nat → Bool) : (s.resetRegs p).sense = s.sense := rfl
@[simp] theorem State.resetRegs_pmu (p : Nat → Bool) : (s.resetRegs p).pmu = s.pmu := rfl
@[simp] theorem State.resetRegs_loop (p : Nat → Bool) : (s.resetRegs p).loop = s.loop := rfl
@[simp] theorem State.resetRegs_decim (p : Nat → Bool) : (s.resetRegs p).decim = s.decim := rfl
@[simp] theorem State.resetRegs_guard (p : Nat → Bool) : (s.resetRegs p).guard = s.guard := rfl
@[simp] theorem State.resetRegs_spkSets (p : Nat → Bool) : (s.resetRegs p).spkSets = s.spkSets := rfl
@[simp] theorem State.resetRegs_gov (p : Nat → Bool) : (s.resetRegs p).gov = s.gov := rfl
@[simp] theorem State.resetRegs_hk (p : Nat → Bool) : (s.resetRegs p).hk = s.hk := rfl
@[simp] theorem State.resetRegs_pending (p : Nat → Bool) : (s.resetRegs p).pending = s.pending := rfl

/-! ### Records of ports and contexts -/

@[simp] theorem State.setPort_regs (n : Nat) (p : PortSt) : (s.setPort n p).regs = s.regs := rfl
@[simp] theorem State.setPort_mem (n : Nat) (p : PortSt) : (s.setPort n p).mem = s.mem := rfl
@[simp] theorem State.setPort_now (n : Nat) (p : PortSt) : (s.setPort n p).now = s.now := rfl
@[simp] theorem State.setPort_freeCount (n : Nat) (p : PortSt) : (s.setPort n p).freeCount = s.freeCount := rfl
@[simp] theorem State.setPort_otp (n : Nat) (p : PortSt) : (s.setPort n p).otp = s.otp := rfl
@[simp] theorem State.setPort_sys (n : Nat) (p : PortSt) : (s.setPort n p).sys = s.sys := rfl
@[simp] theorem State.setPort_boot (n : Nat) (p : PortSt) : (s.setPort n p).boot = s.boot := rfl
@[simp] theorem State.setPort_dsp (n : Nat) (p : PortSt) : (s.setPort n p).dsp = s.dsp := rfl
@[simp] theorem State.setPort_fcol (n : Nat) (p : PortSt) : (s.setPort n p).fcol = s.fcol := rfl
@[simp] theorem State.setPort_hbus (n : Nat) (p : PortSt) : (s.setPort n p).hbus = s.hbus := rfl
@[simp] theorem State.setPort_intc (n : Nat) (p : PortSt) : (s.setPort n p).intc = s.intc := rfl
@[simp] theorem State.setPort_sec (n : Nat) (p : PortSt) : (s.setPort n p).sec = s.sec := rfl
@[simp] theorem State.setPort_ring (n : Nat) (p : PortSt) : (s.setPort n p).ring = s.ring := rfl
@[simp] theorem State.setPort_outs (n : Nat) (p : PortSt) : (s.setPort n p).outs = s.outs := rfl
@[simp] theorem State.setPort_bridges (n : Nat) (p : PortSt) : (s.setPort n p).bridges = s.bridges := rfl
@[simp] theorem State.setPort_diag (n : Nat) (p : PortSt) : (s.setPort n p).diag = s.diag := rfl
@[simp] theorem State.setPort_sense (n : Nat) (p : PortSt) : (s.setPort n p).sense = s.sense := rfl
@[simp] theorem State.setPort_pmu (n : Nat) (p : PortSt) : (s.setPort n p).pmu = s.pmu := rfl
@[simp] theorem State.setPort_loop (n : Nat) (p : PortSt) : (s.setPort n p).loop = s.loop := rfl
@[simp] theorem State.setPort_decim (n : Nat) (p : PortSt) : (s.setPort n p).decim = s.decim := rfl
@[simp] theorem State.setPort_guard (n : Nat) (p : PortSt) : (s.setPort n p).guard = s.guard := rfl
@[simp] theorem State.setPort_spkSets (n : Nat) (p : PortSt) : (s.setPort n p).spkSets = s.spkSets := rfl
@[simp] theorem State.setPort_gov (n : Nat) (p : PortSt) : (s.setPort n p).gov = s.gov := rfl
@[simp] theorem State.setPort_hk (n : Nat) (p : PortSt) : (s.setPort n p).hk = s.hk := rfl
@[simp] theorem State.setPort_pending (n : Nat) (p : PortSt) : (s.setPort n p).pending = s.pending := rfl

@[simp] theorem State.setCtx_regs (n : Nat) (c : CtxSt) : (s.setCtx n c).regs = s.regs := rfl
@[simp] theorem State.setCtx_mem (n : Nat) (c : CtxSt) : (s.setCtx n c).mem = s.mem := rfl
@[simp] theorem State.setCtx_now (n : Nat) (c : CtxSt) : (s.setCtx n c).now = s.now := rfl
@[simp] theorem State.setCtx_freeCount (n : Nat) (c : CtxSt) : (s.setCtx n c).freeCount = s.freeCount := rfl
@[simp] theorem State.setCtx_otp (n : Nat) (c : CtxSt) : (s.setCtx n c).otp = s.otp := rfl
@[simp] theorem State.setCtx_sys (n : Nat) (c : CtxSt) : (s.setCtx n c).sys = s.sys := rfl
@[simp] theorem State.setCtx_boot (n : Nat) (c : CtxSt) : (s.setCtx n c).boot = s.boot := rfl
@[simp] theorem State.setCtx_ports (n : Nat) (c : CtxSt) : (s.setCtx n c).ports = s.ports := rfl
@[simp] theorem State.setCtx_fcol (n : Nat) (c : CtxSt) : (s.setCtx n c).fcol = s.fcol := rfl
@[simp] theorem State.setCtx_hbus (n : Nat) (c : CtxSt) : (s.setCtx n c).hbus = s.hbus := rfl
@[simp] theorem State.setCtx_intc (n : Nat) (c : CtxSt) : (s.setCtx n c).intc = s.intc := rfl
@[simp] theorem State.setCtx_sec (n : Nat) (c : CtxSt) : (s.setCtx n c).sec = s.sec := rfl
@[simp] theorem State.setCtx_ring (n : Nat) (c : CtxSt) : (s.setCtx n c).ring = s.ring := rfl
@[simp] theorem State.setCtx_outs (n : Nat) (c : CtxSt) : (s.setCtx n c).outs = s.outs := rfl
@[simp] theorem State.setCtx_bridges (n : Nat) (c : CtxSt) : (s.setCtx n c).bridges = s.bridges := rfl
@[simp] theorem State.setCtx_diag (n : Nat) (c : CtxSt) : (s.setCtx n c).diag = s.diag := rfl
@[simp] theorem State.setCtx_sense (n : Nat) (c : CtxSt) : (s.setCtx n c).sense = s.sense := rfl
@[simp] theorem State.setCtx_pmu (n : Nat) (c : CtxSt) : (s.setCtx n c).pmu = s.pmu := rfl
@[simp] theorem State.setCtx_loop (n : Nat) (c : CtxSt) : (s.setCtx n c).loop = s.loop := rfl
@[simp] theorem State.setCtx_decim (n : Nat) (c : CtxSt) : (s.setCtx n c).decim = s.decim := rfl
@[simp] theorem State.setCtx_guard (n : Nat) (c : CtxSt) : (s.setCtx n c).guard = s.guard := rfl
@[simp] theorem State.setCtx_spkSets (n : Nat) (c : CtxSt) : (s.setCtx n c).spkSets = s.spkSets := rfl
@[simp] theorem State.setCtx_gov (n : Nat) (c : CtxSt) : (s.setCtx n c).gov = s.gov := rfl
@[simp] theorem State.setCtx_hk (n : Nat) (c : CtxSt) : (s.setCtx n c).hk = s.hk := rfl
@[simp] theorem State.setCtx_pending (n : Nat) (c : CtxSt) : (s.setCtx n c).pending = s.pending := rfl

@[simp] theorem State.port_setPort (n : Nat) (p : PortSt) : (s.setPort n p).port n = p := Tbl.get_set_self
theorem State.port_setPort_ne {m n : Nat} (h : m ≠ n) (p : PortSt) : (s.setPort n p).port m = s.port m := Tbl.get_set_ne h
@[simp] theorem State.ctx_setCtx (n : Nat) (c : CtxSt) : (s.setCtx n c).ctx n = c := Tbl.get_set_self
theorem State.ctx_setCtx_ne {m n : Nat} (h : m ≠ n) (c : CtxSt) : (s.setCtx n c).ctx m = s.ctx m := Tbl.get_set_ne h

/-! ### Registers -/

/-- A register that is written reads as written. -/
@[simp] theorem State.reg_setReg_self (a : Nat) (v : BitVec 32) : (s.setReg a v).reg a = v := Tbl.get_set_self

/-- Every other register reads as before. -/
theorem State.reg_setReg_ne {a b : Nat} (h : b ≠ a) (v : BitVec 32) : (s.setReg a v).reg b = s.reg b := Tbl.get_set_ne h

/-- A field write changes one register. -/
theorem State.reg_wr_ne {f : Fld} {a : Nat} (h : a ≠ f.addr) (v : Nat) : (s.wr f v).reg a = s.reg a := State.reg_setReg_ne s h _

@[simp] theorem State.reg_wr_self (f : Fld) (v : Nat) : (s.wr f v).reg f.addr = putField (s.reg f.addr) f.lo f.w v :=
  State.reg_setReg_self s _ _

theorem State.reg_bump_ne {f : Fld} {a : Nat} (h : a ≠ f.addr) : (s.bump f).reg a = s.reg a := by
  unfold State.bump; split <;> exact State.reg_wr_ne s h _

theorem State.reg_peak_ne {f : Fld} {a : Nat} (h : a ≠ f.addr) (v : Nat) : (s.peak f v).reg a = s.reg a := by
  unfold State.peak; split
  · exact State.reg_wr_ne s h _
  · rfl

/-- A bit of a word with a field replaced. -/
theorem putField_getLsbD (x : BitVec 32) (lo w v i : Nat) (hi : i < 32) :
    (putField x lo w v).getLsbD i = if lo ≤ i ∧ i < lo + w then v.testBit (i - lo) else x.getLsbD i := by
  have e : (2 ^ w - 1) * 2 ^ lo = (2 ^ w - 1) <<< lo := by rw [Nat.shiftLeft_eq]
  have e' : v % 2 ^ w * 2 ^ lo = (v % 2 ^ w) <<< lo := by rw [Nat.shiftLeft_eq]
  simp only [putField, fieldMask, e, e', BitVec.getLsbD_or, BitVec.getLsbD_and, BitVec.getLsbD_not, BitVec.getLsbD_ofNat, hi,
    Nat.testBit_shiftLeft, Nat.testBit_two_pow_sub_one, Nat.testBit_mod_two_pow, decide_true, Bool.true_and]
  by_cases h1 : lo ≤ i
  · by_cases h2 : i < lo + w
    · have h3 : i - lo < w := by omega
      simp [h1, h2, h3]
    · have h3 : ¬ i - lo < w := by omega
      simp [h1, h2, h3]
  · simp [h1]

/-- A bit of a field that is read. -/
theorem getField_testBit (x : BitVec 32) (lo w i : Nat) : (getField x lo w).testBit i = (decide (i < w) && x.getLsbD (lo + i)) := by
  simp only [getField, Nat.testBit_mod_two_pow, Nat.testBit_div_two_pow, BitVec.getLsbD, Nat.add_comm]

/-- A field that is written reads as the low bits written. -/
theorem getField_putField_self (x : BitVec 32) (lo w v : Nat) (h : lo + w ≤ 32) : getField (putField x lo w v) lo w = v % 2 ^ w := by
  apply Nat.eq_of_testBit_eq
  intro i
  rw [getField_testBit, Nat.testBit_mod_two_pow]
  by_cases hi : i < w
  · rw [putField_getLsbD _ _ _ _ _ (by omega)]
    have : lo ≤ lo + i ∧ lo + i < lo + w := by omega
    simp [hi, this]
  · simp [hi]

/-- A field apart from the one written reads as before. -/
theorem getField_putField_ne (x : BitVec 32) (lo w v lo' w' : Nat) (h : lo' + w' ≤ 32) (d : lo' + w' ≤ lo ∨ lo + w ≤ lo') :
    getField (putField x lo w v) lo' w' = getField x lo' w' := by
  apply Nat.eq_of_testBit_eq
  intro i
  rw [getField_testBit, getField_testBit]
  by_cases hi : i < w'
  · rw [putField_getLsbD _ _ _ _ _ (by omega), if_neg (by omega)]
  · simp [hi]

theorem getField_lt (x : BitVec 32) (lo w : Nat) : getField x lo w < 2 ^ w := Nat.mod_lt _ (Nat.two_pow_pos w)

/-- A field that is written reads as written, cut to its width. -/
theorem State.rd_wr_self (f : Fld) (v : Nat) (h : f.lo + f.w ≤ 32) : (s.wr f v).rd f = v % 2 ^ f.w := by
  simp only [State.rd, State.reg_wr_self]; exact getField_putField_self _ _ _ _ h

/-- A field of another register reads as before. -/
theorem State.rd_wr_ne {f g : Fld} (h : g.addr ≠ f.addr) (v : Nat) : (s.wr f v).rd g = s.rd g := by
  simp only [State.rd, State.reg_wr_ne s h]

/-- Another field of the same register reads as before. -/
theorem State.rd_wr_apart {f g : Fld} (h : g.addr = f.addr) (hg : g.lo + g.w ≤ 32) (d : g.lo + g.w ≤ f.lo ∨ f.lo + f.w ≤ g.lo)
    (v : Nat) : (s.wr f v).rd g = s.rd g := by
  simp only [State.rd, h, State.reg_wr_self]; exact getField_putField_ne _ _ _ _ _ _ hg d

/-- A counter that is bumped counts one, and saturates at its largest value (R7). -/
theorem State.rd_bump_self (f : Fld) (h : f.lo + f.w ≤ 32) : (s.bump f).rd f = min (s.rd f + 1) (2 ^ f.w - 1) := by
  have hp := Nat.two_pow_pos f.w
  unfold State.bump
  split
  · rw [State.rd_wr_self _ _ _ h, Nat.mod_eq_of_lt (by omega)]; omega
  · rw [State.rd_wr_self _ _ _ h, Nat.mod_eq_of_lt (by omega)]
    have : s.rd f < 2 ^ f.w := getField_lt _ _ _
    omega

theorem State.rd_bump_ne {f g : Fld} (h : g.addr ≠ f.addr) : (s.bump f).rd g = s.rd g := by
  simp only [State.rd, State.reg_bump_ne s h]

theorem State.rd_bump_apart {f g : Fld} (h : g.addr = f.addr) (hg : g.lo + g.w ≤ 32)
    (d : g.lo + g.w ≤ f.lo ∨ f.lo + f.w ≤ g.lo) : (s.bump f).rd g = s.rd g := by
  unfold State.bump; split <;> exact State.rd_wr_apart s h hg d _

/-- An event bit that is set reads 1. -/
theorem State.evOn_ev (a b : Nat) (h : b < 32) : (s.ev a b).evOn a b = true := by
  have e := State.rd_wr_self s ⟨a, b, 1⟩ 1 (by simp; omega)
  simp only [State.evOn, State.ev, e]; rfl

/-- A register that goes back to its reset value. -/
theorem State.reg_resetRegs (p : Nat → Bool) (a : Nat) : (s.resetRegs p).reg a = if p a then regDefault a else s.reg a :=
  Tbl.get_drop

end Sys2Proof.Machine
end

