-- ==== Sys2Proof/Laws/Access.lean ====
section
/-!
SUPPORT. Laws/Access.lean: what a register write does to each field, by its access type (R5, R9).
-/

namespace Sys2Proof.Machine

open Sys2Proof

-- one theorem after the other: the package as one text then needs fewer threads
set_option Elab.async false

/-- Two fields share no bit. -/
def FieldDesc.apart (f g : FieldDesc) : Bool := decide (f.lo + f.w ≤ g.lo) || decide (g.lo + g.w ≤ f.lo)

/-- The fields of a register lie inside its word, and no two share a bit. -/
def fieldsApart (l : List FieldDesc) : Bool := l.all (fun f => decide (f.lo + f.w ≤ 32)) && decide (l.Pairwise (fun f g => FieldDesc.apart f g = true))

theorem forall_mem_ite {P : RegGroup → Prop} {c : Prop} [Decidable c] {x y : List RegGroup} (h1 : ∀ g ∈ x, P g) (h2 : ∀ g ∈ y, P g) :
    ∀ g ∈ (if c then x else y), P g := by
  split
  · exact h1
  · exact h2

/-- In every register of the tables the fields share no bit (R1, R5). -/
theorem blockRegs_fieldsApart (a : Nat) : ∀ g ∈ blockRegs a, fieldsApart g.fields = true := by
  unfold blockRegs; dsimp only
  repeat' apply forall_mem_ite
  all_goals first | decide +kernel | simp

/-- A register that is found stands in the table of its block and holds the address. -/
theorem findReg_mem {a : Nat} {g : RegGroup} (h : findReg a = some g) : g ∈ blockRegs a ∧ g.hits a = true :=
  ⟨List.mem_of_find?_eq_some h, by simpa using List.find?_some h⟩

/-- What one field takes from a write of `v` (R5, R9). -/
def FieldDesc.take (locked : Bool) (v : BitVec 32) (w : BitVec 32) (f : FieldDesc) : BitVec 32 :=
    let x := getField v f.lo f.w
    match f.acc with
    | .rw | .rws => putField w f.lo f.w x
    | .rwb => if locked then w else putField w f.lo f.w x
    | .w1c => w &&& ~~~ (v &&& fieldMask f.lo f.w)
    | .w1s => w ||| (v &&& fieldMask f.lo f.w)
    | .ro | .rc | .wo => w

theorem RegGroup.written_eq (g : RegGroup) (l : Bool) (o v : BitVec 32) : g.written l o v = g.fields.foldl (FieldDesc.take l v) o := rfl

/-- A bit of the mask of a field. -/
theorem fieldMask_getLsbD (lo w i : Nat) (hi : i < 32) : (fieldMask lo w).getLsbD i = decide (lo ≤ i ∧ i < lo + w) := by
  have e : (2 ^ w - 1) * 2 ^ lo = (2 ^ w - 1) <<< lo := by rw [Nat.shiftLeft_eq]
  simp only [fieldMask, BitVec.getLsbD_ofNat, e, hi, decide_true, Bool.true_and, Nat.testBit_shiftLeft, Nat.testBit_two_pow_sub_one]
  by_cases h1 : lo ≤ i
  · by_cases h2 : i < lo + w
    · have : i - lo < w := by omega
      simp [h1, h2, this]
    · have : ¬ i - lo < w := by omega
      simp [h1, h2, this]
  · simp [h1]

/-- A field takes no bit outside it. -/
theorem FieldDesc.take_out (l : Bool) (v w : BitVec 32) (f : FieldDesc) (i : Nat) (hi : i < 32) (h : i < f.lo ∨ f.lo + f.w ≤ i) :
    (FieldDesc.take l v w f).getLsbD i = w.getLsbD i := by
  have hn : ¬ (f.lo ≤ i ∧ i < f.lo + f.w) := by omega
  unfold FieldDesc.take
  dsimp only
  repeat' split
  all_goals first | rfl | (rw [putField_getLsbD _ _ _ _ _ hi, if_neg hn]) | (have hm := fieldMask_getLsbD f.lo f.w i hi; simp only [BitVec.getLsbD_and, BitVec.getLsbD_or, BitVec.getLsbD_not, hm, hn, hi, decide_false, Bool.and_false, decide_true, Bool.not_false, Bool.and_true, Bool.or_false])

theorem foldl_take_out (l : Bool) (v : BitVec 32) (fs : List FieldDesc) (w : BitVec 32) (i : Nat) (hi : i < 32)
    (h : ∀ f ∈ fs, i < f.lo ∨ f.lo + f.w ≤ i) : (fs.foldl (FieldDesc.take l v) w).getLsbD i = w.getLsbD i := by
  induction fs generalizing w with
  | nil => rfl
  | cons f fs ih =>
    simp only [List.foldl_cons]
    rw [ih _ (fun g hg => h g (List.mem_cons_of_mem _ hg)), FieldDesc.take_out l v w f i hi (h f (by simp))]

/-- Words that agree on a field read the same there. -/
theorem getField_congr {x y : BitVec 32} {lo w : Nat} (h : ∀ i, lo ≤ i → i < lo + w → i < 32 → x.getLsbD i = y.getLsbD i) :
    getField x lo w = getField y lo w := by
  apply Nat.eq_of_testBit_eq
  intro i
  rw [getField_testBit, getField_testBit]
  by_cases hi : i < w
  · by_cases h2 : lo + i < 32
    · rw [h _ (by omega) (by omega) h2]
    · rw [BitVec.getLsbD_of_ge _ _ (by omega), BitVec.getLsbD_of_ge _ _ (by omega)]
  · simp [hi]

/-- A field of a register whose fields share no bit takes what its own access type says. -/
theorem foldl_take_field (l : Bool) (v : BitVec 32) (fs : List FieldDesc) (w : BitVec 32) (f : FieldDesc) (hf : f ∈ fs)
    (ok : fieldsApart fs = true) : getField (fs.foldl (FieldDesc.take l v) w) f.lo f.w = getField (FieldDesc.take l v w f) f.lo f.w := by
  induction fs generalizing w with
  | nil => cases hf
  | cons g fs ih =>
    simp only [fieldsApart, List.all_cons, Bool.and_eq_true, decide_eq_true_eq, List.pairwise_cons] at ok
    obtain ⟨⟨o1, o2⟩, o3, o4⟩ := ok
    have ok' : fieldsApart fs = true := by simp only [fieldsApart, Bool.and_eq_true, decide_eq_true_eq]; exact ⟨o2, o4⟩
    simp only [List.foldl_cons]
    rcases List.mem_cons.1 hf with rfl | hm
    · apply getField_congr
      intro i h1 h2 hi
      apply foldl_take_out _ _ _ _ _ hi
      intro g hg
      have := o3 g hg
      simp only [FieldDesc.apart, Bool.or_eq_true, decide_eq_true_eq] at this
      omega
    · rw [ih _ hm ok']
      apply getField_congr
      intro i h1 h2 hi
      have := o3 f hm
      simp only [FieldDesc.apart, Bool.or_eq_true, decide_eq_true_eq] at this
      have hw := FieldDesc.take_out l v w g i hi (by omega)
      generalize FieldDesc.take l v w g = w2 at hw ⊢
      unfold FieldDesc.take
      cases f.acc <;> dsimp only
      all_goals first
        | exact hw
        | (rw [putField_getLsbD _ _ _ _ _ hi, putField_getLsbD _ _ _ _ _ hi]; split <;> first | rfl | exact hw)
        | (split <;> first | exact hw | (rw [putField_getLsbD _ _ _ _ _ hi, putField_getLsbD _ _ _ _ _ hi]; split <;> first | rfl | exact hw))
        | (simp only [BitVec.getLsbD_and, BitVec.getLsbD_or]; rw [hw])

/-- An ignored RWB write touches the lock's count and event alone. -/
theorem State.rwbIgnored_reg (s : State) (g : RegGroup) (a b : Nat) (v : BitVec 32) (h1 : b ≠ A.SEC_LOCKSTAT) (h2 : b ≠ A.SEC_EVENT) :
    (s.rwbIgnored g a v).reg b = s.reg b := by
  unfold State.rwbIgnored
  split
  · unfold State.ev; rw [State.reg_wr_ne _ (by exact h2), State.reg_bump_ne _ (by exact h1)]
  · rfl

end Sys2Proof.Machine
end

