-- ==== Sys2Proof/Laws/Inv.lean ====
section
/-!
SUPPORT. Laws/Inv.lean: the shared operations keep the invariant of Safety.lean.
-/

namespace Sys2Proof.Machine

-- one theorem after the other: the package as one text then needs fewer threads
set_option Elab.async false

open Sys2Proof

variable {q : State}

variable {s : State}

/-- What every command leaves as it was: the queue, the time, the fixed part of OTP; the minimum security version only rises. -/
structure State.Kept (s q : State) : Prop where
  pending : s.pending = q.pending
  now : s.now = q.now
  otp : s.otp = { q.otp with minSv := s.otp.minSv }
  minSv : q.otp.minSv ≤ s.otp.minSv

/-- A state that comes from `q`: it keeps the invariant where `q` has it, and what every command leaves as it was. -/
def State.From (s q : State) : Prop := (q.Inv → s.Inv) ∧ s.Kept q

theorem State.From.refl : s.From s := ⟨id, rfl, rfl, rfl, Nat.le_refl _⟩

theorem State.Kept.of_eq {t : State} (h : s.Kept q) (h1 : t.pending = s.pending) (h2 : t.now = s.now) (h3 : t.otp = s.otp) :
    t.Kept q := by
  obtain ⟨a, b, c, d⟩ := h
  exact ⟨h1 ▸ a, h2 ▸ b, h3 ▸ c, h3 ▸ d⟩

theorem State.From.imp {t : State} (h : s.From q) (hi : s.Inv → t.Inv) (h1 : t.pending = s.pending := by first | rfl | simp)
    (h2 : t.now = s.now := by first | rfl | simp) (h3 : t.otp = s.otp := by first | rfl | simp) : t.From q :=
  ⟨fun hq => hi (h.1 hq), h.2.of_eq h1 h2 h3⟩

/-- An outcome whose next state, if it is one, comes from `q`. -/
def Keeps (q : State) : Host.Outcome State Fault Refusal → Prop
  | .next t => t.From q
  | _ => True

theorem Keeps.ite {c : Prop} [Decidable c] {a b : Host.Outcome State Fault Refusal} (ha : Keeps q a) (hb : Keeps q b) :
    Keeps q (if c then a else b) := by
  split
  · exact ha
  · exact hb

theorem Keeps.next {t : State} (h : t.From q) : Keeps q (.next t) := h

/-- A state whose registers, memory and bounded queues are those of `s`. -/
theorem State.From.of_eq {t : State} (h : s.From q) (h1 : t.regs = s.regs) (h2 : t.mem = s.mem) (h3 : t.intc.cq = s.intc.cq)
    (h4 : t.boot.waiting = s.boot.waiting) (h5 : t.boot.job = s.boot.job) (h6 : t.ring.txq = s.ring.txq)
    (h7 : t.ring.rxq = s.ring.rxq) (h8 : t.fcol.normal = s.fcol.normal) (h9 : t.fcol.prio = s.fcol.prio)
    (h10 : t.pmu.queue = s.pmu.queue) (h11 : t.hk.queue = s.hk.queue)
    (h12 : t.pending = s.pending := by first | rfl | simp) (h13 : t.now = s.now := by first | rfl | simp)
    (h14 : t.otp = s.otp := by first | rfl | simp) : t.From q := by
  refine ⟨fun hq => ?_, h.2.of_eq h12 h13 h14⟩
  obtain ⟨⟨c1, c2⟩, b⟩ := h.1 hq
  exact ⟨⟨h1 ▸ c1, h2 ▸ c2⟩, ⟨h3 ▸ b.completions, h4 ▸ h5 ▸ b.applies, h6 ▸ b.biscuitsOut, h7 ▸ b.biscuitsIn,
    h8 ▸ b.faultsNormal, h9 ▸ b.faultsPriority, h10 ▸ b.demands, h11 ▸ b.injected⟩⟩

/-- A state whose registers and memory are those of `s`, and whose bounded queues are no longer than those of `s`. -/
theorem State.From.of_le {t : State} (h : s.From q) (h1 : t.regs = s.regs) (h2 : t.mem = s.mem)
    (h3 : t.intc.cq.length ≤ s.intc.cq.length)
    (h4 : t.boot.waiting.length + t.boot.job.toList.length ≤ s.boot.waiting.length + s.boot.job.toList.length)
    (h6 : t.ring.txq.length ≤ s.ring.txq.length) (h7 : t.ring.rxq.length ≤ s.ring.rxq.length)
    (h8 : t.fcol.normal.length ≤ s.fcol.normal.length) (h9 : t.fcol.prio.length ≤ s.fcol.prio.length)
    (h10 : t.pmu.queue.length ≤ s.pmu.queue.length) (h11 : t.hk.queue.length ≤ s.hk.queue.length)
    (h12 : t.pending = s.pending := by first | rfl | simp) (h13 : t.now = s.now := by first | rfl | simp)
    (h14 : t.otp = s.otp := by first | rfl | simp) : t.From q := by
  refine ⟨fun hq => ?_, h.2.of_eq h12 h13 h14⟩
  obtain ⟨⟨c1, c2⟩, b⟩ := h.1 hq
  exact ⟨⟨h1 ▸ c1, h2 ▸ c2⟩, ⟨Nat.le_trans h3 b.1, Nat.le_trans h4 b.2, Nat.le_trans h6 b.3, Nat.le_trans h7 b.4, Nat.le_trans h8 b.5, Nat.le_trans h9 b.6, Nat.le_trans h10 b.7,
    Nat.le_trans h11 b.8⟩⟩

/-- A record update that leaves registers, memory and the bounded queues. -/
theorem State.mk_inv (h : s.From q) {now freeCount : Nat} {otp : Otp} {sys : SysSt} {boot : BootSt} {ports : Tbl PortSt} {dsp : DspSt}
    {fcol : FcolSt} {hbus : HbusSt} {intc : IntcSt} {sec : SecSt} {ring : RingSt} {outs : Tbl OutSt} {bridges : Tbl BridgeSt}
    {diag : DiagSt} {sense : Tbl SenseSt} {pmu : PmuSt} {loop : LoopSt} {decim : DecimSt} {guard : Tbl GuardSt}
    {spkSets : List (List (BitVec 32))} {gov : GovSt} {hk : HkSt} {pending : List Instr} (h3 : intc.cq = s.intc.cq)
    (h4 : boot.waiting = s.boot.waiting) (h5 : boot.job = s.boot.job) (h6 : ring.txq = s.ring.txq) (h7 : ring.rxq = s.ring.rxq)
    (h8 : fcol.normal = s.fcol.normal) (h9 : fcol.prio = s.fcol.prio) (h10 : pmu.queue = s.pmu.queue)
    (h11 : hk.queue = s.hk.queue) (h12 : pending = s.pending) (h13 : now = s.now) (h14 : otp = s.otp) :
    (State.mk s.regs s.mem now freeCount otp sys boot ports dsp fcol hbus intc sec ring outs bridges diag sense pmu loop decim
      guard spkSets gov hk pending).From q :=
  h.of_eq rfl rfl h3 h4 h5 h6 h7 h8 h9 h10 h11 h12 h13 h14

theorem State.ite_inv {c : Prop} [Decidable c] {a b : State} (ha : a.From q) (hb : b.From q) : (if c then a else b).From q := by
  split
  · exact ha
  · exact hb

theorem State.fst_ite_inv {α : Type} {c : Prop} [Decidable c] {a b : State × α} (ha : a.1.From q) (hb : b.1.From q) :
    (if c then a else b).1.From q := by
  split
  · exact ha
  · exact hb

theorem State.snd_ite_inv {α : Type} {c : Prop} [Decidable c] {a b : α × State} (ha : a.2.From q) (hb : b.2.From q) :
    (if c then a else b).2.From q := by
  split
  · exact ha
  · exact hb

theorem State.setReg_inv (h : s.From q) (a : Nat) (v : BitVec 32) : (s.setReg a v).From q := by
  refine ⟨fun hq => ?_, h.2.of_eq rfl rfl rfl⟩
  obtain ⟨⟨c1, c2⟩, b⟩ := h.1 hq
  exact ⟨⟨Tbl.wf_set c1, c2⟩, b.1, b.2, b.3, b.4, b.5, b.6, b.7, b.8⟩

theorem State.wr_inv (h : s.From q) (f : Fld) (v : Nat) : (s.wr f v).From q := State.setReg_inv h _ _

theorem State.wrB_inv (h : s.From q) (f : Fld) (b : Bool) : (s.wrB f b).From q := State.wr_inv h _ _

theorem State.wrI_inv (h : s.From q) (f : Fld) (v : Int) : (s.wrI f v).From q := State.wr_inv h _ _

theorem State.ev_inv (h : s.From q) (a b : Nat) : (s.ev a b).From q := State.wr_inv h _ _

theorem State.setBit_inv (h : s.From q) (a b : Nat) (v : Bool) : (s.setBit a b v).From q := State.wr_inv h _ _

theorem State.bump_inv (h : s.From q) (f : Fld) : (s.bump f).From q := by
  unfold State.bump; split <;> exact State.wr_inv h _ _

theorem State.bumpWrap_inv (h : s.From q) (f : Fld) : (s.bumpWrap f).From q := State.wr_inv h _ _

theorem State.peak_inv (h : s.From q) (f : Fld) (v : Nat) : (s.peak f v).From q := by
  unfold State.peak; split
  · exact State.wr_inv h _ _
  · exact h

theorem State.resetRegs_inv (h : s.From q) (p : Nat → Bool) : (s.resetRegs p).From q := by
  refine ⟨fun hq => ?_, h.2.of_eq rfl rfl rfl⟩
  obtain ⟨⟨c1, c2⟩, b⟩ := h.1 hq
  exact ⟨⟨Tbl.wf_drop c1, c2⟩, b.1, b.2, b.3, b.4, b.5, b.6, b.7, b.8⟩

theorem State.forEach_inv {α : Type} (h : s.From q) (l : List α) (f : α → State → State)
    (hf : ∀ x (t : State), t.From q → (f x t).From q) : (s.forEach l f).From q := by
  unfold State.forEach
  induction l generalizing s with
  | nil => exact h
  | cons x l ih => exact ih (hf x s h)

theorem State.forAll_inv (h : s.From q) (n : Nat) (f : Nat → State → State)
    (hf : ∀ i (t : State), t.From q → (f i t).From q) : (s.forAll n f).From q := State.forEach_inv h (List.range n) f hf

theorem State.foldl_inv {α : Type} (l : List α) (f : State → α → State) (h : s.From q)
    (hf : ∀ (t : State) x, t.From q → (f t x).From q) : (l.foldl f s).From q := by
  induction l generalizing s with
  | nil => exact h
  | cons x l ih => exact ih (hf s x h)

theorem State.foldl_fst_inv {α β : Type} (l : List α) (f : State × β → α → State × β) (p : State × β) (h : p.1.From q)
    (hf : ∀ (p : State × β) x, p.1.From q → (f p x).1.From q) : (l.foldl f p).1.From q := by
  induction l generalizing p with
  | nil => exact h
  | cons x l ih => exact ih _ (hf p x h)

theorem State.foldl_snd_inv {α β : Type} (l : List α) (f : β × State → α → β × State) (p : β × State) (h : p.2.From q)
    (hf : ∀ (p : β × State) x, p.2.From q → (f p x).2.From q) : (l.foldl f p).2.From q := by
  induction l generalizing p with
  | nil => exact h
  | cons x l ih => exact ih _ (hf p x h)

theorem State.when_inv (h : s.From q) (b : Bool) (f : State → State) (hf : ∀ t : State, t.From q → (f t).From q) : (s.when b f).From q := by
  unfold State.when; split
  · exact hf s h
  · exact h

theorem State.reach_inv (h : s.From q) (a : Nat) (f : State → State) (hf : ∀ t : State, t.From q → (f t).From q) :
    (s.reach a f).From q := by
  unfold State.reach; split
  · exact State.bump_inv h _
  · exact hf s h

/-- A completion keeps the queue within 64 entries (R446, R447); one that falls during a reset leaves it. -/
theorem State.complete_inv (h : s.From q) (ty : Nat) (data : List (BitVec 8)) : (s.complete ty data).From q := by
  unfold State.complete
  split
  · exact h.of_eq rfl rfl rfl rfl rfl rfl rfl rfl rfl rfl rfl
  · split
    · refine (State.bump_inv h F.INTC_CQSTAT_DROPPED).of_eq ?_ ?_ ?_ ?_ ?_ ?_ ?_ ?_ ?_ ?_ ?_ <;> simp
    · rename_i hc
      refine ⟨fun hq => ?_, (State.bumpWrap_inv h F.INTC_CQSTAT_NEXT_SEQ).2.of_eq rfl rfl rfl⟩
      obtain ⟨⟨c1, c2⟩, b⟩ := (State.bumpWrap_inv h F.INTC_CQSTAT_NEXT_SEQ).1 hq
      refine ⟨⟨c1, c2⟩, ?_, b.2, b.3, b.4, b.5, b.6, b.7, b.8⟩
      simp only [List.length_append, List.length_cons, List.length_nil]
      omega

theorem State.raiseEvt_inv (h : s.From q) (e : Evt) : (s.raiseEvt e).From q := by
  unfold State.raiseEvt; split
  · exact h
  · exact h.of_eq rfl rfl rfl rfl rfl rfl rfl rfl rfl rfl rfl

theorem State.raise_inv (h : s.From q) (cls inst code detail : Nat) (lasting : Bool) : (s.raise cls inst code detail lasting).From q :=
  State.raiseEvt_inv h _

theorem State.draw_inv (h : s.From q) (w : Nat) : (s.draw w).2.From q := h.of_eq rfl rfl rfl rfl rfl rfl rfl rfl rfl rfl rfl

theorem State.setPort_inv (h : s.From q) (n : Nat) (p : PortSt) : (s.setPort n p).From q :=
  h.of_eq rfl rfl rfl rfl rfl rfl rfl rfl rfl rfl rfl

theorem State.setCtx_inv (h : s.From q) (n : Nat) (c : CtxSt) : (s.setCtx n c).From q :=
  h.of_eq rfl rfl rfl rfl rfl rfl rfl rfl rfl rfl rfl

end Sys2Proof.Machine
end

