-- ==== Sys2Proof/Laws/InvOps.lean ====
section
/-!
SUPPORT. Laws/InvOps.lean: the operations of Machine/Ops.lean keep the invariant of Safety.lean.
-/

namespace Sys2Proof.Machine

-- one theorem after the other: the package as one text then needs fewer threads
set_option Elab.async false

open Sys2Proof

variable {q : State}

theorem State.trackerIdle_inv {s : State} (h : s.From q)  : (State.trackerIdle s).From q := by
  unfold State.trackerIdle
  repeat' first
    | with_reducible intro _
    | with_reducible assumption
    | with_reducible first | apply State.ite_inv | apply State.ev_inv | apply State.wr_inv
    | split
    | with_reducible apply State.mk_inv
    | with_reducible rfl
    | with_reducible exact Nat.le_refl _
    | (dsimp only; split)

theorem State.tsrcUnlock_inv {s : State} (h : s.From q)  : (State.tsrcUnlock s).From q := by
  unfold State.tsrcUnlock
  repeat' first
    | with_reducible intro _
    | with_reducible assumption
    | with_reducible first | apply State.ite_inv | apply State.trackerIdle_inv | apply State.wr_inv
    | split
    | with_reducible apply State.mk_inv
    | with_reducible rfl
    | with_reducible exact Nat.le_refl _
    | (dsimp only; split)

end Sys2Proof.Machine
end

