-- ==== Sys2Proof/Laws/InvGain.lean ====
section
/-!
SUPPORT. Laws/InvGain.lean: the operations of Machine/Gain.lean keep the invariant of Safety.lean.
-/

namespace Sys2Proof.Machine

-- one theorem after the other: the package as one text then needs fewer threads
set_option Elab.async false

open Sys2Proof

variable {q : State}

theorem State.ctxRetarget_inv {s : State} (h : s.From q) (n : Nat) : (State.ctxRetarget s n).From q := by
  unfold State.ctxRetarget
  repeat' first
    | with_reducible intro _
    | with_reducible assumption
    | with_reducible first | apply State.ite_inv | apply State.fst_ite_inv | apply State.snd_ite_inv | apply State.setCtx_inv
    | split
    | with_reducible apply State.mk_inv
    | with_reducible rfl
    | with_reducible exact Nat.le_refl _
    | (dsimp only; split)

theorem State.ctxStale_inv {s : State} (h : s.From q) (n : Nat) : (State.ctxStale s n).From q := by
  unfold State.ctxStale
  repeat' first
    | with_reducible intro _
    | with_reducible assumption
    | with_reducible first | apply State.ite_inv | apply State.ev_inv | apply State.wr_inv
    | split
    | with_reducible apply State.mk_inv
    | with_reducible rfl
    | with_reducible exact Nat.le_refl _
    | (dsimp only; split)

theorem State.ctxIn_inv {s : State} (h : s.From q) (n : Nat) : (State.ctxIn s n).From q := by
  unfold State.ctxIn
  repeat' first
    | with_reducible intro _
    | with_reducible assumption
    | with_reducible first | apply State.ite_inv | apply State.ctxRetarget_inv | apply State.setCtx_inv | apply State.wr_inv
    | split
    | with_reducible apply State.mk_inv
    | with_reducible rfl
    | with_reducible exact Nat.le_refl _
    | (dsimp only; split)

theorem State.ctxOut_inv {s : State} (h : s.From q) (n : Nat) : (State.ctxOut s n).From q := by
  unfold State.ctxOut
  repeat' first
    | with_reducible intro _
    | with_reducible assumption
    | with_reducible first | apply State.ite_inv | apply State.ctxRetarget_inv | apply State.ctxStale_inv | apply State.setCtx_inv
    | split
    | with_reducible apply State.mk_inv
    | with_reducible rfl
    | with_reducible exact Nat.le_refl _
    | (dsimp only; split)

theorem State.ctxFault_inv {s : State} (h : s.From q) (n : Nat) : (State.ctxFault s n).From q := by
  unfold State.ctxFault
  repeat' first
    | with_reducible intro _
    | with_reducible assumption
    | with_reducible first | apply State.ite_inv | apply State.ctxStale_inv | apply State.setCtx_inv
    | split
    | with_reducible apply State.mk_inv
    | with_reducible rfl
    | with_reducible exact Nat.le_refl _
    | (dsimp only; split)

theorem State.ctxFaultStart_inv {s : State} (h : s.From q) (n : Nat) : (State.ctxFaultStart s n).From q := by
  unfold State.ctxFaultStart
  repeat' first
    | with_reducible intro _
    | with_reducible assumption
    | with_reducible first | apply State.ite_inv | apply State.bump_inv | apply State.ev_inv | apply State.setCtx_inv
    | split
    | with_reducible apply State.mk_inv
    | with_reducible rfl
    | with_reducible exact Nat.le_refl _
    | (dsimp only; split)

theorem State.ctxLevelStart_inv {s : State} (h : s.From q) (n : Nat) : (State.ctxLevelStart s n).From q := by
  unfold State.ctxLevelStart
  repeat' first
    | with_reducible intro _
    | with_reducible assumption
    | with_reducible first | apply State.ite_inv | apply State.setCtx_inv
    | split
    | with_reducible apply State.mk_inv
    | with_reducible rfl
    | with_reducible exact Nat.le_refl _
    | (dsimp only; split)

theorem State.collect_inv {s : State} (h : s.From q) (n : Nat) (x w : BitVec 32) : (State.collect s n x w).From q := by
  unfold State.collect
  repeat' first
    | with_reducible intro _
    | with_reducible assumption
    | with_reducible first | apply State.ite_inv | apply State.setCtx_inv | apply State.wr_inv
    | split
    | with_reducible apply State.mk_inv
    | with_reducible rfl
    | with_reducible exact Nat.le_refl _
    | (dsimp only; split)

theorem State.collectWord_inv {s : State} (h : s.From q) (n : Nat) (w : BitVec 32) : (State.collectWord s n w).From q := by
  unfold State.collectWord
  repeat' first
    | with_reducible intro _
    | with_reducible assumption
    | with_reducible first | apply State.ite_inv | apply State.collect_inv
    | split
    | with_reducible apply State.mk_inv
    | with_reducible rfl
    | with_reducible exact Nat.le_refl _
    | (dsimp only; split)

theorem State.collectLate_inv {s : State} (h : s.From q) (n : Nat) (w : BitVec 32) : (State.collectLate s n w).From q := by
  unfold State.collectLate
  repeat' first
    | with_reducible intro _
    | with_reducible assumption
    | with_reducible first | apply State.ite_inv | apply State.collectWord_inv | apply State.ctxStale_inv
    | split
    | with_reducible apply State.mk_inv
    | with_reducible rfl
    | with_reducible exact Nat.le_refl _
    | (dsimp only; split)

end Sys2Proof.Machine
end

