-- ==== Sys2Proof/Laws/InvRingOps.lean ====
section
/-!
SUPPORT. Laws/InvRingOps.lean: the operations of Machine/RingOps.lean keep the invariant of Safety.lean.
-/

namespace Sys2Proof.Machine

-- one theorem after the other: the package as one text then needs fewer threads
set_option Elab.async false

open Sys2Proof

variable {q : State}

theorem State.ringQueue_inv {s : State} (h : s.From q) (ahead : Bool) (b : List (BitVec 8)) : (s.ringQueue ahead b).From q := by
  unfold State.ringQueue
  split
  · exact h
  · refine h.imp fun ⟨c, k⟩ => ?_
    refine ⟨c, k.1, k.2, ?_, k.4, k.5, k.6, k.7, k.8⟩
    have e := List.length_eq_countP_add_countP (fun x : Bool × List (BitVec 8) => x.1) (l := s.ring.txq)
    simp only [List.countP_eq_length_filter, Bool.not_eq_true, Bool.decide_eq_false] at e
    cases ahead <;> simp only [if_true, if_false, Bool.false_eq_true, List.length_append, List.length_cons, List.length_nil] <;> omega

end Sys2Proof.Machine
end

