-- ==== Sys2Proof/Laws/InvPorts.lean ====
section
/-!
SUPPORT. Laws/InvPorts.lean: the operations of Machine/Ports.lean keep the invariant of Safety.lean.
-/

namespace Sys2Proof.Machine

-- one theorem after the other: the package as one text then needs fewer threads
set_option Elab.async false

open Sys2Proof

variable {q : State}

theorem State.portDivider_inv {s : State} (h : s.From q) (n : Nat) : (State.portDivider s n).From q := by
  unfold State.portDivider
  repeat' first
    | with_reducible intro _
    | with_reducible assumption
    | with_reducible first | apply State.ite_inv | apply State.setReg_inv | apply State.wr_inv
    | split
    | with_reducible apply State.mk_inv
    | with_reducible rfl
    | with_reducible exact Nat.le_refl _
    | (dsimp only; split)

theorem State.portRxIn_inv {s : State} (h : s.From q) (n : Nat) : (State.portRxIn s n).From q := by
  unfold State.portRxIn
  repeat' first
    | with_reducible intro _
    | with_reducible assumption
    | with_reducible first | apply State.ite_inv | apply State.ctxIn_inv | apply State.forAll_inv
    | split
    | with_reducible apply State.mk_inv
    | with_reducible rfl
    | with_reducible exact Nat.le_refl _
    | (dsimp only; split)

theorem State.txRequest_inv {s : State} (h : s.From q) (n slot : Nat) (goal : Bool) : (State.txRequest s n slot goal).From q := by
  unfold State.txRequest
  repeat' first
    | with_reducible intro _
    | with_reducible assumption
    | with_reducible first | apply State.ite_inv | apply State.setPort_inv
    | split
    | with_reducible apply State.mk_inv
    | with_reducible rfl
    | with_reducible exact Nat.le_refl _
    | (dsimp only; split)

theorem State.portTxIn_inv {s : State} (h : s.From q) (n : Nat) : (State.portTxIn s n).From q := by
  unfold State.portTxIn
  repeat' first
    | with_reducible intro _
    | with_reducible assumption
    | with_reducible first | apply State.ite_inv | apply State.ctxIn_inv | apply State.forAll_inv | apply State.txRequest_inv
    | split
    | with_reducible apply State.mk_inv
    | with_reducible rfl
    | with_reducible exact Nat.le_refl _
    | (dsimp only; split)

theorem State.portFaultRamp_inv {s : State} (h : s.From q) (n : Nat) : (State.portFaultRamp s n).From q := by
  unfold State.portFaultRamp
  repeat' first
    | with_reducible intro _
    | with_reducible assumption
    | with_reducible first | apply State.ite_inv | apply State.ctxFault_inv | apply State.forEach_inv | apply State.setPort_inv
    | split
    | with_reducible apply State.mk_inv
    | with_reducible rfl
    | with_reducible exact Nat.le_refl _
    | (dsimp only; split)

theorem State.portFlush_inv {s : State} (h : s.From q) (n : Nat) : (State.portFlush s n).From q := by
  unfold State.portFlush
  repeat' first
    | with_reducible intro _
    | with_reducible assumption
    | with_reducible first | apply State.ite_inv | apply State.setPort_inv
    | split
    | with_reducible apply State.mk_inv
    | with_reducible rfl
    | with_reducible exact Nat.le_refl _
    | (dsimp only; split)

theorem State.portIgnored_inv {s : State} (h : s.From q) (n : Nat) : (State.portIgnored s n).From q := by
  unfold State.portIgnored
  repeat' first
    | with_reducible intro _
    | with_reducible assumption
    | with_reducible first | apply State.ite_inv | apply State.bump_inv | apply State.ev_inv
    | split
    | with_reducible apply State.mk_inv
    | with_reducible rfl
    | with_reducible exact Nat.le_refl _
    | (dsimp only; split)

theorem State.portStartAt_inv {s : State} (h : s.From q) (n f : Nat) : (State.portStartAt s n f).From q := by
  unfold State.portStartAt
  repeat' first
    | with_reducible intro _
    | with_reducible assumption
    | with_reducible first | apply State.ite_inv | apply State.setPort_inv
    | split
    | with_reducible apply State.mk_inv
    | with_reducible rfl
    | with_reducible exact Nat.le_refl _
    | (dsimp only; split)

theorem State.portEnterOff_inv {s : State} (h : s.From q) (n : Nat) : (State.portEnterOff s n).From q := by
  unfold State.portEnterOff
  repeat' first
    | with_reducible intro _
    | with_reducible assumption
    | with_reducible first | apply State.ite_inv | apply State.portStartAt_inv | apply State.setPort_inv | apply State.wr_inv
    | split
    | with_reducible apply State.mk_inv
    | with_reducible rfl
    | with_reducible exact Nat.le_refl _
    | (dsimp only; split)

theorem State.portQueue_inv {s : State} (h : s.From q) (n : Nat) (start : Bool) : (State.portQueue s n start).From q := by
  unfold State.portQueue
  repeat' first
    | with_reducible intro _
    | with_reducible assumption
    | with_reducible first | apply State.ite_inv | apply State.setPort_inv | apply State.wr_inv
    | split
    | with_reducible apply State.mk_inv
    | with_reducible rfl
    | with_reducible exact Nat.le_refl _
    | (dsimp only; split)

theorem State.portUnqueue_inv {s : State} (h : s.From q) (n : Nat) : (State.portUnqueue s n).From q := by
  unfold State.portUnqueue
  repeat' first
    | with_reducible intro _
    | with_reducible assumption
    | with_reducible first | apply State.ite_inv | apply State.setPort_inv | apply State.wr_inv
    | split
    | with_reducible apply State.mk_inv
    | with_reducible rfl
    | with_reducible exact Nat.le_refl _
    | (dsimp only; split)

theorem State.cmdStart_inv {s : State} (h : s.From q) (n : Nat) : (State.cmdStart s n).From q := by
  unfold State.cmdStart
  repeat' first
    | with_reducible intro _
    | with_reducible assumption
    | with_reducible first | apply State.ite_inv | apply State.portIgnored_inv | apply State.portQueue_inv | apply State.portStartAt_inv | apply State.wr_inv
    | split
    | with_reducible apply State.mk_inv
    | with_reducible rfl
    | with_reducible exact Nat.le_refl _
    | (dsimp only; split)

theorem State.cmdArm_inv {s : State} (h : s.From q) (n : Nat) : (State.cmdArm s n).From q := by
  unfold State.cmdArm
  repeat' first
    | with_reducible intro _
    | with_reducible assumption
    | with_reducible first | apply State.ite_inv | apply State.portIgnored_inv | apply State.portQueue_inv | apply State.wr_inv
    | split
    | with_reducible apply State.mk_inv
    | with_reducible rfl
    | with_reducible exact Nat.le_refl _
    | (dsimp only; split)

theorem State.cmdDisarm_inv {s : State} (h : s.From q) (n : Nat) : (State.cmdDisarm s n).From q := by
  unfold State.cmdDisarm
  repeat' first
    | with_reducible intro _
    | with_reducible assumption
    | with_reducible first | apply State.ite_inv | apply State.portEnterOff_inv | apply State.portIgnored_inv | apply State.portUnqueue_inv
    | split
    | with_reducible apply State.mk_inv
    | with_reducible rfl
    | with_reducible exact Nat.le_refl _
    | (dsimp only; split)

theorem State.portStopping_inv {s : State} (h : s.From q) (n : Nat) : (State.portStopping s n).From q := by
  unfold State.portStopping
  repeat' first
    | with_reducible intro _
    | with_reducible assumption
    | with_reducible first | apply State.ite_inv | apply State.ctxOut_inv | apply State.forAll_inv | apply State.setPort_inv | apply State.txRequest_inv | apply State.wr_inv
    | split
    | with_reducible apply State.mk_inv
    | with_reducible rfl
    | with_reducible exact Nat.le_refl _
    | (dsimp only; split)

theorem State.cmdStop_inv {s : State} (h : s.From q) (n : Nat) : (State.cmdStop s n).From q := by
  unfold State.cmdStop
  repeat' first
    | with_reducible intro _
    | with_reducible assumption
    | with_reducible first | apply State.ite_inv | apply State.portEnterOff_inv | apply State.portIgnored_inv | apply State.portStopping_inv | apply State.portUnqueue_inv
    | split
    | with_reducible apply State.mk_inv
    | with_reducible rfl
    | with_reducible exact Nat.le_refl _
    | (dsimp only; split)

theorem State.portMutedRestart_inv {s : State} (h : s.From q) (n : Nat) (auto : Bool) : (State.portMutedRestart s n auto).From q := by
  unfold State.portMutedRestart
  repeat' first
    | with_reducible intro _
    | with_reducible assumption
    | with_reducible first | apply State.ite_inv | apply State.portFaultRamp_inv | apply State.setPort_inv | apply State.wr_inv
    | split
    | with_reducible apply State.mk_inv
    | with_reducible rfl
    | with_reducible exact Nat.le_refl _
    | (dsimp only; split)

theorem State.cmdRestart_inv {s : State} (h : s.From q) (n : Nat) : (State.cmdRestart s n).From q := by
  unfold State.cmdRestart
  repeat' first
    | with_reducible intro _
    | with_reducible assumption
    | with_reducible first | apply State.ite_inv | apply State.portIgnored_inv | apply State.portMutedRestart_inv | apply State.portQueue_inv
    | split
    | with_reducible apply State.mk_inv
    | with_reducible rfl
    | with_reducible exact Nat.le_refl _
    | (dsimp only; split)

theorem State.portCtrlWrite_inv {s : State} (h : s.From q) (n : Nat) (v : BitVec 32) : (State.portCtrlWrite s n v).From q := by
  unfold State.portCtrlWrite
  repeat' first
    | with_reducible intro _
    | with_reducible assumption
    | with_reducible first | apply State.ite_inv | apply State.bump_inv | apply State.cmdArm_inv | apply State.cmdDisarm_inv | apply State.cmdRestart_inv | apply State.cmdStart_inv | apply State.cmdStop_inv
    | split
    | with_reducible apply State.mk_inv
    | with_reducible rfl
    | with_reducible exact Nat.le_refl _
    | (dsimp only; split)

theorem execPortStart_inv {s : State} (h : s.From q) (n : Fin 4) : Keeps q (execPortStart n s) := by
  unfold execPortStart
  repeat' first
    | with_reducible intro _
    | with_reducible assumption
    | with_reducible first | apply Keeps.next | apply Keeps.ite | apply State.ite_inv | apply State.cmdStart_inv
    | split
    | with_reducible apply State.mk_inv
    | with_reducible rfl
    | with_reducible exact Nat.le_refl _
    | (dsimp only; split)

theorem execPortArm_inv {s : State} (h : s.From q) (n : Fin 4) : Keeps q (execPortArm n s) := by
  unfold execPortArm
  repeat' first
    | with_reducible intro _
    | with_reducible assumption
    | with_reducible first | apply Keeps.next | apply Keeps.ite | apply State.ite_inv | apply State.cmdArm_inv
    | split
    | with_reducible apply State.mk_inv
    | with_reducible rfl
    | with_reducible exact Nat.le_refl _
    | (dsimp only; split)

theorem execPortDisarm_inv {s : State} (h : s.From q) (n : Fin 4) : Keeps q (execPortDisarm n s) := by
  unfold execPortDisarm
  repeat' first
    | with_reducible intro _
    | with_reducible assumption
    | with_reducible first | apply Keeps.next | apply Keeps.ite | apply State.ite_inv | apply State.cmdDisarm_inv
    | split
    | with_reducible apply State.mk_inv
    | with_reducible rfl
    | with_reducible exact Nat.le_refl _
    | (dsimp only; split)

theorem execPortStop_inv {s : State} (h : s.From q) (n : Fin 4) : Keeps q (execPortStop n s) := by
  unfold execPortStop
  repeat' first
    | with_reducible intro _
    | with_reducible assumption
    | with_reducible first | apply Keeps.next | apply Keeps.ite | apply State.ite_inv | apply State.cmdStop_inv
    | split
    | with_reducible apply State.mk_inv
    | with_reducible rfl
    | with_reducible exact Nat.le_refl _
    | (dsimp only; split)

theorem execPortRestart_inv {s : State} (h : s.From q) (n : Fin 4) : Keeps q (execPortRestart n s) := by
  unfold execPortRestart
  repeat' first
    | with_reducible intro _
    | with_reducible assumption
    | with_reducible first | apply Keeps.next | apply Keeps.ite | apply State.ite_inv | apply State.cmdRestart_inv
    | split
    | with_reducible apply State.mk_inv
    | with_reducible rfl
    | with_reducible exact Nat.le_refl _
    | (dsimp only; split)

theorem State.portRefused_inv {s : State} (h : s.From q) (n : Nat) : (State.portRefused s n).From q := by
  unfold State.portRefused
  repeat' first
    | with_reducible intro _
    | with_reducible assumption
    | with_reducible first | apply State.ite_inv | apply State.bump_inv
    | split
    | with_reducible apply State.mk_inv
    | with_reducible rfl
    | with_reducible exact Nat.le_refl _
    | (dsimp only; split)

theorem State.portCfgWrite_inv {s : State} (h : s.From q) (n : Nat) (v : BitVec 32) : (State.portCfgWrite s n v).From q := by
  unfold State.portCfgWrite
  repeat' first
    | with_reducible intro _
    | with_reducible assumption
    | with_reducible first | apply State.ite_inv | apply State.portDivider_inv | apply State.portRefused_inv | apply State.setReg_inv
    | split
    | with_reducible apply State.mk_inv
    | with_reducible rfl
    | with_reducible exact Nat.le_refl _
    | (dsimp only; split)

theorem execPortCfgWrite_inv {s : State} (h : s.From q) (n : Fin 4) (v : Word) : Keeps q (execPortCfgWrite n v s) := by
  unfold execPortCfgWrite
  repeat' first
    | with_reducible intro _
    | with_reducible assumption
    | with_reducible first | apply Keeps.next | apply Keeps.ite | apply State.ite_inv | apply State.portCfgWrite_inv
    | split
    | with_reducible apply State.mk_inv
    | with_reducible rfl
    | with_reducible exact Nat.le_refl _
    | (dsimp only; split)

theorem State.ctxBind_inv {s : State} (h : s.From q) (c kind index : Nat) : (State.ctxBind s c kind index).From q := by
  unfold State.ctxBind
  repeat' first
    | with_reducible intro _
    | with_reducible assumption
    | with_reducible first | apply State.ite_inv | apply State.wr_inv
    | split
    | with_reducible apply State.mk_inv
    | with_reducible rfl
    | with_reducible exact Nat.le_refl _
    | (dsimp only; split)

theorem State.ctxUnbind_inv {s : State} (h : s.From q) (c : Nat) : (State.ctxUnbind s c).From q := by
  unfold State.ctxUnbind
  repeat' first
    | with_reducible intro _
    | with_reducible assumption
    | with_reducible first | apply State.ite_inv | apply State.ctxBind_inv | apply State.ctxOut_inv
    | split
    | with_reducible apply State.mk_inv
    | with_reducible rfl
    | with_reducible exact Nat.le_refl _
    | (dsimp only; split)

theorem State.portMapWrite_inv {s : State} (h : s.From q) (n : Nat) (tx : Bool) (k : Nat) (v : BitVec 32) : (State.portMapWrite s n tx k v).From q := by
  unfold State.portMapWrite
  repeat' first
    | with_reducible intro _
    | with_reducible assumption
    | with_reducible first | apply State.ite_inv | apply State.ctxBind_inv | apply State.ctxUnbind_inv | apply State.forEach_inv | apply State.portRefused_inv | apply State.setReg_inv
    | split
    | with_reducible apply State.mk_inv
    | with_reducible rfl
    | with_reducible exact Nat.le_refl _
    | (dsimp only; split)

theorem execPortMapWrite_inv {s : State} (h : s.From q) (n : Fin 4) (tx : Bool) (k : Fin 4) (v : Word) : Keeps q (execPortMapWrite n tx k v s) := by
  unfold execPortMapWrite
  repeat' first
    | with_reducible intro _
    | with_reducible assumption
    | with_reducible first | apply Keeps.next | apply Keeps.ite | apply State.ite_inv | apply State.portMapWrite_inv
    | split
    | with_reducible apply State.mk_inv
    | with_reducible rfl
    | with_reducible exact Nat.le_refl _
    | (dsimp only; split)

theorem State.portSlotmask_inv {s : State} (h : s.From q) (n : Nat) (v : BitVec 32) (late : Bool) : (State.portSlotmask s n v late).From q := by
  unfold State.portSlotmask
  repeat' first
    | with_reducible intro _
    | with_reducible assumption
    | with_reducible first | apply State.ite_inv | apply State.setPort_inv | apply State.setReg_inv
    | split
    | with_reducible apply State.mk_inv
    | with_reducible rfl
    | with_reducible exact Nat.le_refl _
    | (dsimp only; split)

theorem execPortSlotmaskWrite_inv {s : State} (h : s.From q) (n : Fin 4) (v : Word) (late : Bool) : Keeps q (execPortSlotmaskWrite n v late s) := by
  unfold execPortSlotmaskWrite
  repeat' first
    | with_reducible intro _
    | with_reducible assumption
    | with_reducible first | apply Keeps.next | apply Keeps.ite | apply State.ite_inv | apply State.portSlotmask_inv
    | split
    | with_reducible apply State.mk_inv
    | with_reducible rfl
    | with_reducible exact Nat.le_refl _
    | (dsimp only; split)

theorem State.portMaskApply_inv {s : State} (h : s.From q) (n : Nat) : (State.portMaskApply s n).From q := by
  unfold State.portMaskApply
  repeat' first
    | with_reducible intro _
    | with_reducible assumption
    | with_reducible first | apply State.ite_inv | apply State.ctxIn_inv | apply State.ctxOut_inv | apply State.ev_inv | apply State.forAll_inv | apply State.setPort_inv | apply State.setReg_inv | apply State.txRequest_inv | apply State.wr_inv
    | split
    | with_reducible apply State.mk_inv
    | with_reducible rfl
    | with_reducible exact Nat.le_refl _
    | (dsimp only; split)

theorem execPortMaskApply_inv {s : State} (h : s.From q) (n : Fin 4) : Keeps q (execPortMaskApply n s) := by
  unfold execPortMaskApply
  repeat' first
    | with_reducible intro _
    | with_reducible assumption
    | with_reducible first | apply Keeps.next | apply Keeps.ite | apply State.ite_inv | apply State.portMaskApply_inv | apply State.setPort_inv
    | split
    | with_reducible apply State.mk_inv
    | with_reducible rfl
    | with_reducible exact Nat.le_refl _
    | (dsimp only; split)

theorem State.portTrigger_inv {s : State} (h : s.From q) (f : Nat) : (State.portTrigger s f).From q := by
  unfold State.portTrigger
  repeat' first
    | with_reducible intro _
    | with_reducible assumption
    | with_reducible first | apply State.ite_inv | apply State.forAll_inv | apply State.portStartAt_inv | apply State.wr_inv
    | split
    | with_reducible apply State.mk_inv
    | with_reducible rfl
    | with_reducible exact Nat.le_refl _
    | (dsimp only; split)

theorem State.localTrigger_inv {s : State} (h : s.From q)  : (State.localTrigger s).From q := by
  unfold State.localTrigger
  repeat' first
    | with_reducible intro _
    | with_reducible assumption
    | with_reducible first | apply State.ite_inv | apply State.portTrigger_inv | apply State.ringQueue_inv
    | split
    | with_reducible apply State.mk_inv
    | with_reducible rfl
    | with_reducible exact Nat.le_refl _
    | (dsimp only; split)

theorem State.gstartFire_inv {s : State} (h : s.From q)  : (State.gstartFire s).From q := by
  unfold State.gstartFire
  repeat' first
    | with_reducible intro _
    | with_reducible assumption
    | with_reducible first | apply State.ite_inv | apply State.localTrigger_inv
    | split
    | with_reducible apply State.mk_inv
    | with_reducible rfl
    | with_reducible exact Nat.le_refl _
    | (dsimp only; split)

theorem execPortGstartFire_inv {s : State} (h : s.From q)  : Keeps q (execPortGstartFire s) := by
  unfold execPortGstartFire
  repeat' first
    | with_reducible intro _
    | with_reducible assumption
    | with_reducible first | apply Keeps.next | apply Keeps.ite | apply State.ite_inv | apply State.gstartFire_inv
    | split
    | with_reducible apply State.mk_inv
    | with_reducible rfl
    | with_reducible exact Nat.le_refl _
    | (dsimp only; split)

theorem execPortStartFrame_inv {s : State} (h : s.From q) (n : Fin 4) : Keeps q (execPortStartFrame n s) := by
  unfold execPortStartFrame
  repeat' first
    | with_reducible intro _
    | with_reducible assumption
    | with_reducible first | apply Keeps.next | apply Keeps.ite | apply State.ite_inv | apply State.portMaskApply_inv | apply State.setPort_inv | apply State.setReg_inv | apply State.wr_inv
    | split
    | with_reducible apply State.mk_inv
    | with_reducible rfl
    | with_reducible exact Nat.le_refl _
    | (dsimp only; split)

theorem State.portPlace_inv {s : State} (h : s.From q) (n : Nat) : (State.portPlace s n).From q := by
  unfold State.portPlace
  repeat' first
    | with_reducible intro _
    | with_reducible assumption
    | with_reducible first | apply State.ite_inv | apply State.forAll_inv | apply State.setCtx_inv
    | split
    | with_reducible apply State.mk_inv
    | with_reducible rfl
    | with_reducible exact Nat.le_refl _
    | (dsimp only; split)

theorem execPortRunningReached_inv {s : State} (h : s.From q) (n : Fin 4) : Keeps q (execPortRunningReached n s) := by
  unfold execPortRunningReached
  repeat' first
    | with_reducible intro _
    | with_reducible assumption
    | with_reducible first | apply Keeps.next | apply Keeps.ite | apply State.ite_inv | apply State.ev_inv | apply State.portPlace_inv | apply State.portRxIn_inv | apply State.portTxIn_inv | apply State.setPort_inv | apply State.wr_inv
    | split
    | with_reducible apply State.mk_inv
    | with_reducible rfl
    | with_reducible exact Nat.le_refl _
    | (dsimp only; split)

theorem State.portClockFault_inv {s : State} (h : s.From q) (n : Nat) : (State.portClockFault s n).From q := by
  unfold State.portClockFault
  repeat' first
    | with_reducible intro _
    | with_reducible assumption
    | with_reducible first | apply State.ite_inv | apply State.portFaultRamp_inv | apply State.portFlush_inv | apply State.setPort_inv | apply State.tsrcUnlock_inv | apply State.wr_inv
    | split
    | with_reducible apply State.mk_inv
    | with_reducible rfl
    | with_reducible exact Nat.le_refl _
    | (dsimp only; split)

theorem execPortStartTimeout_inv {s : State} (h : s.From q) (n : Fin 4) : Keeps q (execPortStartTimeout n s) := by
  unfold execPortStartTimeout
  repeat' first
    | with_reducible intro _
    | with_reducible assumption
    | with_reducible first | apply Keeps.next | apply Keeps.ite | apply State.ite_inv | apply State.bump_inv | apply State.ev_inv | apply State.portClockFault_inv
    | split
    | with_reducible apply State.mk_inv
    | with_reducible rfl
    | with_reducible exact Nat.le_refl _
    | (dsimp only; split)

theorem State.setTxGain_inv {s : State} (h : s.From q) (n slot : Nat) (w : Sw) : (State.setTxGain s n slot w).From q := by
  unfold State.setTxGain
  repeat' first
    | with_reducible intro _
    | with_reducible assumption
    | with_reducible first | apply State.ite_inv | apply State.setPort_inv
    | split
    | with_reducible apply State.mk_inv
    | with_reducible rfl
    | with_reducible exact Nat.le_refl _
    | (dsimp only; split)

theorem execPortStopDrainDone_inv {s : State} (h : s.From q) (n : Fin 4) : Keeps q (execPortStopDrainDone n s) := by
  unfold execPortStopDrainDone
  repeat' first
    | with_reducible intro _
    | with_reducible assumption
    | with_reducible first | apply Keeps.next | apply Keeps.ite | apply State.ite_inv | apply State.ev_inv | apply State.portEnterOff_inv
    | split
    | with_reducible apply State.mk_inv
    | with_reducible rfl
    | with_reducible exact Nat.le_refl _
    | (dsimp only; split)

theorem State.slipCount_inv {s : State} (h : s.From q) (n : Nat) (isRepeat : Bool) : (State.slipCount s n isRepeat).From q := by
  unfold State.slipCount
  repeat' first
    | with_reducible intro _
    | with_reducible assumption
    | with_reducible first | apply State.ite_inv | apply State.bump_inv | apply State.ev_inv | apply State.forEach_inv
    | split
    | with_reducible apply State.mk_inv
    | with_reducible rfl
    | with_reducible exact Nat.le_refl _
    | (dsimp only; split)

theorem State.portAuto_inv {s : State} (h : s.From q) (n : Nat) : (State.portAuto s n).1.From q := by
  unfold State.portAuto
  repeat' first
    | with_reducible intro _
    | with_reducible assumption
    | with_reducible first | apply State.ite_inv | apply State.fst_ite_inv | apply State.bump_inv | apply State.setPort_inv
    | split
    | with_reducible apply State.mk_inv
    | with_reducible rfl
    | with_reducible exact Nat.le_refl _
    | (dsimp only; split)

theorem State.portHalt_inv {s : State} (h : s.From q) (n : Nat) : (State.portHalt s n).From q := by
  unfold State.portHalt
  repeat' first
    | with_reducible intro _
    | with_reducible assumption
    | with_reducible first | apply State.ite_inv | apply State.ev_inv | apply State.wr_inv
    | split
    | with_reducible apply State.mk_inv
    | with_reducible rfl
    | with_reducible exact Nat.le_refl _
    | (dsimp only; split)

theorem State.alignEvent_inv {s : State} (h : s.From q) (n : Nat) : (State.alignEvent s n).From q := by
  unfold State.alignEvent
  repeat' first
    | with_reducible intro _
    | with_reducible assumption
    | with_reducible first | apply State.ite_inv | apply State.fst_ite_inv | apply State.snd_ite_inv | apply State.ev_inv | apply State.portAuto_inv | apply State.portFaultRamp_inv | apply State.portFlush_inv | apply State.portHalt_inv | apply State.portMutedRestart_inv | apply State.wr_inv
    | split
    | with_reducible apply State.mk_inv
    | with_reducible rfl
    | with_reducible exact Nat.le_refl _
    | (dsimp only; split)

theorem State.slotShifted_inv {s : State} (h : s.From q) (n : Nat) (tx : Bool) : (State.slotShifted s n tx).From q := by
  unfold State.slotShifted
  repeat' first
    | with_reducible intro _
    | with_reducible assumption
    | with_reducible first | apply State.ite_inv | apply State.fst_ite_inv | apply State.snd_ite_inv | apply State.draw_inv | apply State.setPort_inv
    | split
    | with_reducible apply State.mk_inv
    | with_reducible rfl
    | with_reducible exact Nat.le_refl _
    | (dsimp only; split)

theorem State.portXrun_inv {s : State} (h : s.From q) (n : Nat) (tx overrun : Bool) : (State.portXrun s n tx overrun).From q := by
  unfold State.portXrun
  repeat' first
    | with_reducible intro _
    | with_reducible assumption
    | with_reducible first | apply State.ite_inv | apply State.alignEvent_inv | apply State.bump_inv | apply State.ev_inv | apply State.slotShifted_inv
    | split
    | with_reducible apply State.mk_inv
    | with_reducible rfl
    | with_reducible exact Nat.le_refl _
    | (dsimp only; split)

theorem execPortOverrunUnderrun_inv {s : State} (h : s.From q) (n : Fin 4) (tx : Bool) (overrun : Bool) : Keeps q (execPortOverrunUnderrun n tx overrun s) := by
  unfold execPortOverrunUnderrun
  repeat' first
    | with_reducible intro _
    | with_reducible assumption
    | with_reducible first | apply Keeps.next | apply Keeps.ite | apply State.ite_inv | apply State.portXrun_inv
    | split
    | with_reducible apply State.mk_inv
    | with_reducible rfl
    | with_reducible exact Nat.le_refl _
    | (dsimp only; split)

theorem execPortSlip_inv {s : State} (h : s.From q) (n : Fin 4) (tx : Bool) : Keeps q (execPortSlip n tx s) := by
  unfold execPortSlip
  repeat' first
    | with_reducible intro _
    | with_reducible assumption
    | with_reducible first | apply Keeps.next | apply Keeps.ite | apply State.ite_inv | apply State.setPort_inv | apply State.slipCount_inv
    | split
    | with_reducible apply State.mk_inv
    | with_reducible rfl
    | with_reducible exact Nat.le_refl _
    | (dsimp only; split)

theorem State.clkLoss_inv {s : State} (h : s.From q) (n : Nat) : (State.clkLoss s n).From q := by
  unfold State.clkLoss
  repeat' first
    | with_reducible intro _
    | with_reducible assumption
    | with_reducible first | apply State.ite_inv | apply State.bump_inv | apply State.ev_inv | apply State.portClockFault_inv | apply State.wr_inv
    | split
    | with_reducible apply State.mk_inv
    | with_reducible rfl
    | with_reducible exact Nat.le_refl _
    | (dsimp only; split)

theorem execClkLoss_inv {s : State} (h : s.From q) (n : Fin 4) : Keeps q (execClkLoss n s) := by
  unfold execClkLoss
  repeat' first
    | with_reducible intro _
    | with_reducible assumption
    | with_reducible first | apply Keeps.next | apply Keeps.ite | apply State.ite_inv | apply State.clkLoss_inv | apply State.wr_inv
    | split
    | with_reducible apply State.mk_inv
    | with_reducible rfl
    | with_reducible exact Nat.le_refl _
    | (dsimp only; split)

theorem execRateFault_inv {s : State} (h : s.From q) (n : Fin 4) (period : BitVec 24) : Keeps q (execRateFault n period s) := by
  unfold execRateFault
  repeat' first
    | with_reducible intro _
    | with_reducible assumption
    | with_reducible first | apply Keeps.next | apply Keeps.ite | apply State.ite_inv | apply State.bump_inv | apply State.ev_inv | apply State.portClockFault_inv | apply State.wr_inv
    | split
    | with_reducible apply State.mk_inv
    | with_reducible rfl
    | with_reducible exact Nat.le_refl _
    | (dsimp only; split)

theorem execPortResume_inv {s : State} (h : s.From q) (n : Fin 4) : Keeps q (execPortResume n s) := by
  unfold execPortResume
  repeat' first
    | with_reducible intro _
    | with_reducible assumption
    | with_reducible first | apply Keeps.next | apply Keeps.ite | apply State.ite_inv | apply State.fst_ite_inv | apply State.snd_ite_inv | apply State.ev_inv | apply State.portAuto_inv | apply State.portHalt_inv | apply State.setPort_inv | apply State.setReg_inv | apply State.wr_inv
    | split
    | with_reducible apply State.mk_inv
    | with_reducible rfl
    | with_reducible exact Nat.le_refl _
    | (dsimp only; split)

theorem execPortRestartCapture_inv {s : State} (h : s.From q) (n : Fin 4) : Keeps q (execPortRestartCapture n s) := by
  unfold execPortRestartCapture
  repeat' first
    | with_reducible intro _
    | with_reducible assumption
    | with_reducible first | apply Keeps.next | apply Keeps.ite | apply State.ite_inv | apply State.portFlush_inv | apply State.setPort_inv
    | split
    | with_reducible apply State.mk_inv
    | with_reducible rfl
    | with_reducible exact Nat.le_refl _
    | (dsimp only; split)

theorem State.deliver_inv {s : State} (h : s.From q) (n : Nat) (late : Bool) (fr : List (BitVec 32)) : (State.deliver s n late fr).From q := by
  unfold State.deliver
  repeat' first
    | with_reducible intro _
    | with_reducible assumption
    | with_reducible first | apply State.ite_inv | apply State.collectLate_inv | apply State.collectWord_inv | apply State.forAll_inv
    | split
    | with_reducible apply State.mk_inv
    | with_reducible rfl
    | with_reducible exact Nat.le_refl _
    | (dsimp only; split)

theorem State.rxRead_inv {s : State} (h : s.From q) (n : Nat) : (State.rxRead s n).From q := by
  unfold State.rxRead
  repeat' first
    | with_reducible intro _
    | with_reducible assumption
    | with_reducible first | apply State.ite_inv | apply State.deliver_inv | apply State.portXrun_inv | apply State.setPort_inv | apply State.slipCount_inv
    | split
    | with_reducible apply State.mk_inv
    | with_reducible rfl
    | with_reducible exact Nat.le_refl _
    | (dsimp only; split)

theorem State.rxWrite_inv {s : State} (h : s.From q) (n : Nat) (fr : List (BitVec 32)) : (State.rxWrite s n fr).From q := by
  unfold State.rxWrite
  repeat' first
    | with_reducible intro _
    | with_reducible assumption
    | with_reducible first | apply State.ite_inv | apply State.portXrun_inv | apply State.setPort_inv | apply State.slipCount_inv
    | split
    | with_reducible apply State.mk_inv
    | with_reducible rfl
    | with_reducible exact Nat.le_refl _
    | (dsimp only; split)

theorem State.txWrite_inv {s : State} (h : s.From q) (n : Nat) : (State.txWrite s n).From q := by
  unfold State.txWrite
  repeat' first
    | with_reducible intro _
    | with_reducible assumption
    | with_reducible first | apply State.ite_inv | apply State.portXrun_inv | apply State.setPort_inv | apply State.slipCount_inv
    | split
    | with_reducible apply State.mk_inv
    | with_reducible rfl
    | with_reducible exact Nat.le_refl _
    | (dsimp only; split)

theorem State.putFrame_inv {s : State} (h : s.From q) (n : Nat) (fr : List (BitVec 32)) : (State.putFrame s n fr).From q := by
  unfold State.putFrame
  repeat' first
    | with_reducible intro _
    | with_reducible assumption
    | with_reducible first | apply State.ite_inv | apply State.forAll_inv | apply State.setPort_inv | apply State.setTxGain_inv
    | split
    | with_reducible apply State.mk_inv
    | with_reducible rfl
    | with_reducible exact Nat.le_refl _
    | (dsimp only; split)

theorem State.txSend_inv {s : State} (h : s.From q) (n : Nat) (draining : Bool) : (State.txSend s n draining).From q := by
  unfold State.txSend
  repeat' first
    | with_reducible intro _
    | with_reducible assumption
    | with_reducible first | apply State.ite_inv | apply State.portXrun_inv | apply State.putFrame_inv | apply State.setPort_inv | apply State.slipCount_inv
    | split
    | with_reducible apply State.mk_inv
    | with_reducible rfl
    | with_reducible exact Nat.le_refl _
    | (dsimp only; split)

theorem State.iecCounts_inv {s : State} (h : s.From q) (n : Nat) (f : PortFrame) : (State.iecCounts s n f).From q := by
  unfold State.iecCounts
  repeat' first
    | with_reducible intro _
    | with_reducible assumption
    | with_reducible first | apply State.ite_inv | apply State.bump_inv | apply State.ev_inv | apply State.when_inv
    | split
    | with_reducible apply State.mk_inv
    | with_reducible rfl
    | with_reducible exact Nat.le_refl _
    | (dsimp only; split)

theorem State.measure_inv {s : State} (h : s.From q) (n : Nat) (f : PortFrame) (glitch : Bool) : (State.measure s n f glitch).From q := by
  unfold State.measure
  repeat' first
    | with_reducible intro _
    | with_reducible assumption
    | with_reducible first | apply State.ite_inv | apply State.setPort_inv | apply State.wr_inv | apply State.wrB_inv
    | split
    | with_reducible apply State.mk_inv
    | with_reducible rfl
    | with_reducible exact Nat.le_refl _
    | (dsimp only; split)

theorem State.glitchFrame_inv {s : State} (h : s.From q) (n : Nat) : (State.glitchFrame s n).From q := by
  unfold State.glitchFrame
  repeat' first
    | with_reducible intro _
    | with_reducible assumption
    | with_reducible first | apply State.ite_inv | apply State.bump_inv | apply State.ev_inv | apply State.portClockFault_inv | apply State.setPort_inv
    | split
    | with_reducible apply State.mk_inv
    | with_reducible rfl
    | with_reducible exact Nat.le_refl _
    | (dsimp only; split)

theorem State.dspPeriod_inv {s : State} (h : s.From q) (n : Nat) (muted : Bool) : (State.dspPeriod s n muted).From q := by
  unfold State.dspPeriod
  repeat' first
    | with_reducible intro _
    | with_reducible assumption
    | with_reducible first | apply State.ite_inv | apply State.rxRead_inv | apply State.txWrite_inv
    | split
    | with_reducible apply State.mk_inv
    | with_reducible rfl
    | with_reducible exact Nat.le_refl _
    | (dsimp only; split)

theorem State.frameData_inv {s : State} (h : s.From q) (n : Nat) (f : PortFrame) (glitch : Bool) : (State.frameData s n f glitch).From q := by
  unfold State.frameData
  repeat' first
    | with_reducible intro _
    | with_reducible assumption
    | with_reducible first | apply State.ite_inv | apply State.dspPeriod_inv | apply State.forAll_inv | apply State.rxWrite_inv | apply State.setPort_inv | apply State.txSend_inv | apply State.txWrite_inv
    | split
    | with_reducible apply State.mk_inv
    | with_reducible rfl
    | with_reducible exact Nat.le_refl _
    | (dsimp only; split)

theorem execPortRxFrame_inv {s : State} (h : s.From q) (n : Fin 4) (f : PortFrame) : Keeps q (execPortRxFrame n f s) := by
  unfold execPortRxFrame
  repeat' first
    | with_reducible intro _
    | with_reducible assumption
    | with_reducible first | apply Keeps.next | apply Keeps.ite | apply State.ite_inv | apply State.bumpWrap_inv | apply State.frameData_inv | apply State.glitchFrame_inv | apply State.iecCounts_inv | apply State.measure_inv
    | split
    | with_reducible apply State.mk_inv
    | with_reducible rfl
    | with_reducible exact Nat.le_refl _
    | (dsimp only; split)

theorem execIecLock_inv {s : State} (h : s.From q) (sinceB : Nat) (parityOk : Bool) : Keeps q (execIecLock sinceB parityOk s) := by
  unfold execIecLock
  repeat' first
    | with_reducible intro _
    | with_reducible assumption
    | with_reducible first | apply Keeps.next | apply Keeps.ite | apply State.ite_inv | apply State.wr_inv
    | split
    | with_reducible apply State.mk_inv
    | with_reducible rfl
    | with_reducible exact Nat.le_refl _
    | (dsimp only; split)

theorem execIecBlockEnd_inv {s : State} (h : s.From q) (csA csB : BitVec 192) : Keeps q (execIecBlockEnd csA csB s) := by
  unfold execIecBlockEnd
  repeat' first
    | with_reducible intro _
    | with_reducible assumption
    | with_reducible first | apply Keeps.next | apply Keeps.ite | apply State.ite_inv | apply State.ev_inv | apply State.forAll_inv | apply State.setPort_inv | apply State.setReg_inv | apply State.wrB_inv
    | split
    | with_reducible apply State.mk_inv
    | with_reducible rfl
    | with_reducible exact Nat.le_refl _
    | (dsimp only; split)

theorem execIecTxBlockStart_inv {s : State} (h : s.From q)  : Keeps q (execIecTxBlockStart s) := by
  unfold execIecTxBlockStart
  repeat' first
    | with_reducible intro _
    | with_reducible assumption
    | with_reducible first | apply Keeps.next | apply Keeps.ite | apply State.ite_inv | apply State.setPort_inv
    | split
    | with_reducible apply State.mk_inv
    | with_reducible rfl
    | with_reducible exact Nat.le_refl _
    | (dsimp only; split)

end Sys2Proof.Machine
end

