-- ==== Sys2Proof/Laws/InvRing.lean ====
section
/-!
SUPPORT. Laws/InvRing.lean: the operations of Machine/Ring.lean keep the invariant of Safety.lean.
-/

namespace Sys2Proof.Machine

-- one theorem after the other: the package as one text then needs fewer threads
set_option Elab.async false

open Sys2Proof

variable {q : State}

theorem State.ringGoto_inv {s : State} (h : s.From q) (st : Nat) : (State.ringGoto s st).From q := by
  unfold State.ringGoto
  repeat' first
    | with_reducible intro _
    | with_reducible assumption
    | with_reducible first | apply State.ite_inv | apply State.ctxFault_inv | apply State.ev_inv | apply State.forEach_inv | apply State.wr_inv
    | split
    | with_reducible apply State.mk_inv
    | with_reducible rfl
    | with_reducible exact Nat.le_refl _
    | (dsimp only; split)

theorem State.ringCodeErrs_inv {s : State} (h : s.From q) (n : Nat) : (State.ringCodeErrs s n).From q := by
  unfold State.ringCodeErrs
  repeat' first
    | with_reducible intro _
    | with_reducible assumption
    | with_reducible first | apply State.ite_inv | apply State.ev_inv | apply State.wr_inv
    | split
    | with_reducible apply State.mk_inv
    | with_reducible rfl
    | with_reducible exact Nat.le_refl _
    | (dsimp only; split)

theorem State.ringCrcErr_inv {s : State} (h : s.From q)  : (State.ringCrcErr s).From q := by
  unfold State.ringCrcErr
  repeat' first
    | with_reducible intro _
    | with_reducible assumption
    | with_reducible first | apply State.ite_inv | apply State.bump_inv | apply State.ev_inv
    | split
    | with_reducible apply State.mk_inv
    | with_reducible rfl
    | with_reducible exact Nat.le_refl _
    | (dsimp only; split)

theorem State.slotLost_inv {s : State} (h : s.From q) (slot : Nat) : (State.slotLost s slot).From q := by
  unfold State.slotLost
  repeat' first
    | with_reducible intro _
    | with_reducible assumption
    | with_reducible first | apply State.ite_inv | apply State.ctxFault_inv | apply State.ev_inv
    | split
    | with_reducible apply State.mk_inv
    | with_reducible rfl
    | with_reducible exact Nat.le_refl _
    | (dsimp only; split)

theorem State.slotsLost_inv {s : State} (h : s.From q)  : (State.slotsLost s).From q := by
  unfold State.slotsLost
  repeat' first
    | with_reducible intro _
    | with_reducible assumption
    | with_reducible first | apply State.ite_inv | apply State.forAll_inv | apply State.slotLost_inv
    | split
    | with_reducible apply State.mk_inv
    | with_reducible rfl
    | with_reducible exact Nat.le_refl _
    | (dsimp only; split)

theorem State.slotBack_inv {s : State} (h : s.From q) (slot : Nat) : (State.slotBack s slot).From q := by
  unfold State.slotBack
  repeat' first
    | with_reducible intro _
    | with_reducible assumption
    | with_reducible first | apply State.ite_inv | apply State.setCtx_inv | apply State.wr_inv
    | split
    | with_reducible apply State.mk_inv
    | with_reducible rfl
    | with_reducible exact Nat.le_refl _
    | (dsimp only; split)

theorem State.slotDeliver_inv {s : State} (h : s.From q) (slot : Nat) (w : Option (BitVec 32)) : (State.slotDeliver s slot w).From q := by
  unfold State.slotDeliver
  repeat' first
    | with_reducible intro _
    | with_reducible assumption
    | with_reducible first | apply State.ite_inv | apply State.collectWord_inv | apply State.ctxIn_inv | apply State.slotBack_inv | apply State.slotLost_inv
    | split
    | with_reducible apply State.mk_inv
    | with_reducible rfl
    | with_reducible exact Nat.le_refl _
    | (dsimp only; split)

theorem State.slotsDue_inv {s : State} (h : s.From q) (m : Nat) : (State.slotsDue s m).From q := by
  unfold State.slotsDue
  repeat' first
    | with_reducible intro _
    | with_reducible assumption
    | with_reducible first | apply State.ite_inv | apply State.fst_ite_inv | apply State.snd_ite_inv | apply State.forEach_inv | apply State.slotDeliver_inv
    | split
    | with_reducible apply State.mk_inv
    | with_reducible rfl
    | with_reducible exact Nat.le_refl _
    | (dsimp only; split)

theorem State.queueSlots_inv {s : State} (h : s.From q) (j d lag : Nat) (first second : List (BitVec 32)) (firstIn secondIn : Bool) : (State.queueSlots s j d lag first second firstIn secondIn).From q := by
  unfold State.queueSlots
  repeat' first
    | with_reducible intro _
    | with_reducible assumption
    | with_reducible first | apply State.ite_inv
    | split
    | with_reducible apply State.mk_inv
    | with_reducible rfl
    | with_reducible exact Nat.le_refl _
    | (dsimp only; split)

theorem State.takeAreas_inv {s : State} (h : s.From q) (f : RingFrame) (usable : Bool) (secondValid : Bool) : (State.takeAreas s f usable secondValid).From q := by
  unfold State.takeAreas
  repeat' first
    | with_reducible intro _
    | with_reducible assumption
    | with_reducible first | apply State.ite_inv | apply State.queueSlots_inv | apply State.ringCrcErr_inv
    | split
    | with_reducible apply State.mk_inv
    | with_reducible rfl
    | with_reducible exact Nat.le_refl _
    | (dsimp only; split)

theorem State.frameOut_inv {s : State} (h : s.From q) (f : RingFrame) : (State.frameOut s f).From q := by
  unfold State.frameOut
  repeat' first
    | with_reducible intro _
    | with_reducible assumption
    | with_reducible first | apply State.ite_inv
    | split
    | with_reducible apply State.mk_inv
    | with_reducible rfl
    | with_reducible exact Nat.le_refl _
    | (dsimp only; split)

theorem State.breakEmit_inv {s : State} (h : s.From q)  : (State.breakEmit s).From q := by
  unfold State.breakEmit
  repeat' first
    | with_reducible intro _
    | with_reducible assumption
    | with_reducible first | apply State.ite_inv | apply State.fst_ite_inv | apply State.snd_ite_inv | apply State.draw_inv | apply State.frameOut_inv
    | split
    | with_reducible apply State.mk_inv
    | with_reducible rfl
    | with_reducible exact Nat.le_refl _
    | (dsimp only; split)

theorem State.masterEmit_inv {s : State} (h : s.From q)  : (State.masterEmit s).From q := by
  unfold State.masterEmit
  repeat' first
    | with_reducible intro _
    | with_reducible assumption
    | with_reducible first | apply State.ite_inv | apply State.fst_ite_inv | apply State.frameOut_inv | apply State.slotsDue_inv
    | split
    | with_reducible apply State.mk_inv
    | with_reducible rfl
    | with_reducible exact Nat.le_refl _
    | (dsimp only; split)

theorem execRingFrameEmit_inv {s : State} (h : s.From q)  : Keeps q (execRingFrameEmit s) := by
  unfold execRingFrameEmit
  repeat' first
    | with_reducible intro _
    | with_reducible assumption
    | with_reducible first | apply Keeps.next | apply Keeps.ite | apply State.ite_inv | apply State.breakEmit_inv | apply State.frameOut_inv | apply State.masterEmit_inv
    | split
    | with_reducible apply State.mk_inv
    | with_reducible rfl
    | with_reducible exact Nat.le_refl _
    | (dsimp only; split)

theorem State.withdraw_inv {s : State} (h : s.From q)  : (State.withdraw s).From q := by
  unfold State.withdraw
  repeat' first
    | with_reducible intro _
    | with_reducible assumption
    | with_reducible first | apply State.ite_inv | apply State.ringGoto_inv
    | split
    | with_reducible apply State.mk_inv
    | with_reducible rfl
    | with_reducible exact Nat.le_refl _
    | (dsimp only; split)

theorem State.electionFrame_inv {s : State} (h : s.From q) (f : RingFrame) : (State.electionFrame s f).From q := by
  unfold State.electionFrame
  repeat' first
    | with_reducible intro _
    | with_reducible assumption
    | with_reducible first | apply State.ite_inv | apply State.frameOut_inv | apply State.withdraw_inv
    | split
    | with_reducible apply State.mk_inv
    | with_reducible rfl
    | with_reducible exact Nat.le_refl _
    | (dsimp only; split)

theorem State.forwardFrame_inv {s : State} (h : s.From q) (f : RingFrame) (delay : Nat) : (State.forwardFrame s f delay).From q := by
  unfold State.forwardFrame
  repeat' first
    | with_reducible intro _
    | with_reducible assumption
    | with_reducible first | apply State.ite_inv | apply State.frameOut_inv
    | split
    | with_reducible apply State.mk_inv
    | with_reducible rfl
    | with_reducible exact Nat.le_refl _
    | (dsimp only; split)

theorem State.ringTick_inv {s : State} (h : s.From q) (j : Nat) : (State.ringTick s j).From q := by
  unfold State.ringTick
  repeat' first
    | with_reducible intro _
    | with_reducible assumption
    | with_reducible first | apply State.ite_inv | apply State.slotsDue_inv | apply State.wr_inv
    | split
    | with_reducible apply State.mk_inv
    | with_reducible rfl
    | with_reducible exact Nat.le_refl _
    | (dsimp only; split)

theorem State.breakSeen_inv {s : State} (h : s.From q) (h : RingHeader) : (State.breakSeen s h).From q := by
  unfold State.breakSeen
  repeat' first
    | with_reducible intro _
    | with_reducible assumption
    | with_reducible first | apply State.ite_inv | apply State.ringGoto_inv | apply State.slotsLost_inv | apply State.tsrcUnlock_inv | apply State.wr_inv
    | split
    | with_reducible apply State.mk_inv
    | with_reducible rfl
    | with_reducible exact Nat.le_refl _
    | (dsimp only; split)

theorem State.headerState_inv {s : State} (h : s.From q) (h : RingHeader) : (State.headerState s h).From q := by
  unfold State.headerState
  repeat' first
    | with_reducible intro _
    | with_reducible assumption
    | with_reducible first | apply State.ite_inv | apply State.ev_inv | apply State.ringGoto_inv | apply State.wr_inv
    | split
    | with_reducible apply State.mk_inv
    | with_reducible rfl
    | with_reducible exact Nat.le_refl _
    | (dsimp only; split)

theorem State.takeHeader_inv {s : State} (h : s.From q) (h : RingHeader) : (State.takeHeader s h).From q := by
  unfold State.takeHeader
  repeat' first
    | with_reducible intro _
    | with_reducible assumption
    | with_reducible first | apply State.ite_inv | apply State.breakSeen_inv | apply State.headerState_inv | apply State.ringTick_inv | apply State.wr_inv | apply State.wrB_inv
    | split
    | with_reducible apply State.mk_inv
    | with_reducible rfl
    | with_reducible exact Nat.le_refl _
    | (dsimp only; split)

theorem State.memberFrame_inv {s : State} (h : s.From q) (f : RingFrame) (codeErrs delay : Nat) : (State.memberFrame s f codeErrs delay).From q := by
  unfold State.memberFrame
  repeat' first
    | with_reducible intro _
    | with_reducible assumption
    | with_reducible first | apply State.ite_inv | apply State.forwardFrame_inv | apply State.ringCrcErr_inv | apply State.ringTick_inv | apply State.takeAreas_inv | apply State.takeHeader_inv
    | split
    | with_reducible apply State.mk_inv
    | with_reducible rfl
    | with_reducible exact Nat.le_refl _
    | (dsimp only; split)

theorem State.ringConflict_inv {s : State} (h : s.From q)  : (State.ringConflict s).From q := by
  unfold State.ringConflict
  repeat' first
    | with_reducible intro _
    | with_reducible assumption
    | with_reducible first | apply State.ite_inv | apply State.ev_inv | apply State.ringGoto_inv
    | split
    | with_reducible apply State.mk_inv
    | with_reducible rfl
    | with_reducible exact Nat.le_refl _
    | (dsimp only; split)

theorem execRingFrameRx_inv {s : State} (h : s.From q) (f : RingFrame) (codeErrs delay : Nat) : Keeps q (execRingFrameRx f codeErrs delay s) := by
  unfold execRingFrameRx
  repeat' first
    | with_reducible intro _
    | with_reducible assumption
    | with_reducible first | apply Keeps.next | apply Keeps.ite | apply State.ite_inv | apply State.breakSeen_inv | apply State.electionFrame_inv | apply State.memberFrame_inv | apply State.ringCodeErrs_inv | apply State.ringConflict_inv | apply State.ringCrcErr_inv | apply State.withdraw_inv
    | split
    | with_reducible apply State.mk_inv
    | with_reducible rfl
    | with_reducible exact Nat.le_refl _
    | (dsimp only; split)

theorem State.masterHeader_inv {s : State} (h : s.From q) (h : RingHeader) (rtt : Nat) : (State.masterHeader s h rtt).From q := by
  unfold State.masterHeader
  repeat' first
    | with_reducible intro _
    | with_reducible assumption
    | with_reducible first | apply State.ite_inv | apply State.ev_inv | apply State.wr_inv
    | split
    | with_reducible apply State.mk_inv
    | with_reducible rfl
    | with_reducible exact Nat.le_refl _
    | (dsimp only; split)

theorem State.masterState_inv {s : State} (h : s.From q)  : (State.masterState s).From q := by
  unfold State.masterState
  repeat' first
    | with_reducible intro _
    | with_reducible assumption
    | with_reducible first | apply State.ite_inv | apply State.ringGoto_inv
    | split
    | with_reducible apply State.mk_inv
    | with_reducible rfl
    | with_reducible exact Nat.le_refl _
    | (dsimp only; split)

theorem State.masterArea_inv {s : State} (h : s.From q) (f : RingFrame) (rtt : Nat) : (State.masterArea s f rtt).From q := by
  unfold State.masterArea
  repeat' first
    | with_reducible intro _
    | with_reducible assumption
    | with_reducible first | apply State.ite_inv | apply State.fst_ite_inv | apply State.queueSlots_inv | apply State.ringCrcErr_inv
    | split
    | with_reducible apply State.mk_inv
    | with_reducible rfl
    | with_reducible exact Nat.le_refl _
    | (dsimp only; split)

theorem execRingFrameReturn_inv {s : State} (h : s.From q) (f : RingFrame) (codeErrs rtt : Nat) : Keeps q (execRingFrameReturn f codeErrs rtt s) := by
  unfold execRingFrameReturn
  repeat' first
    | with_reducible intro _
    | with_reducible assumption
    | with_reducible first | apply Keeps.next | apply Keeps.ite | apply State.ite_inv | apply State.breakSeen_inv | apply State.masterArea_inv | apply State.masterHeader_inv | apply State.masterState_inv | apply State.ringCodeErrs_inv | apply State.ringConflict_inv | apply State.ringCrcErr_inv
    | split
    | with_reducible apply State.mk_inv
    | with_reducible rfl
    | with_reducible exact Nat.le_refl _
    | (dsimp only; split)

theorem State.breakDeclared_inv {s : State} (h : s.From q) (codeErrs : Nat) : (State.breakDeclared s codeErrs).From q := by
  unfold State.breakDeclared
  repeat' first
    | with_reducible intro _
    | with_reducible assumption
    | with_reducible first | apply State.ite_inv | apply State.bump_inv | apply State.ev_inv | apply State.ringCodeErrs_inv | apply State.wr_inv
    | split
    | with_reducible apply State.mk_inv
    | with_reducible rfl
    | with_reducible exact Nat.le_refl _
    | (dsimp only; split)

theorem State.becomeHead_inv {s : State} (h : s.From q)  : (State.becomeHead s).From q := by
  unfold State.becomeHead
  repeat' first
    | with_reducible intro _
    | with_reducible assumption
    | with_reducible first | apply State.ite_inv | apply State.ringGoto_inv | apply State.slotsLost_inv | apply State.tsrcUnlock_inv | apply State.wr_inv
    | split
    | with_reducible apply State.mk_inv
    | with_reducible rfl
    | with_reducible exact Nat.le_refl _
    | (dsimp only; split)

theorem execRingBreak_inv {s : State} (h : s.From q) (_noSignal : Bool) (codeErrs : Nat) : Keeps q (execRingBreak _noSignal codeErrs s) := by
  unfold execRingBreak
  repeat' first
    | with_reducible intro _
    | with_reducible assumption
    | with_reducible first | apply Keeps.next | apply Keeps.ite | apply State.ite_inv | apply State.becomeHead_inv | apply State.breakDeclared_inv | apply State.ringGoto_inv | apply State.slotsLost_inv | apply State.wr_inv
    | split
    | with_reducible apply State.mk_inv
    | with_reducible rfl
    | with_reducible exact Nat.le_refl _
    | (dsimp only; split)

theorem State.masterRestored_inv {s : State} (h : s.From q)  : (State.masterRestored s).From q := by
  unfold State.masterRestored
  repeat' first
    | with_reducible intro _
    | with_reducible assumption
    | with_reducible first | apply State.ite_inv | apply State.ev_inv | apply State.ringGoto_inv | apply State.wr_inv
    | split
    | with_reducible apply State.mk_inv
    | with_reducible rfl
    | with_reducible exact Nat.le_refl _
    | (dsimp only; split)

theorem State.headResumes_inv {s : State} (h : s.From q)  : (State.headResumes s).From q := by
  unfold State.headResumes
  repeat' first
    | with_reducible intro _
    | with_reducible assumption
    | with_reducible first | apply State.ite_inv | apply State.ringGoto_inv | apply State.wr_inv
    | split
    | with_reducible apply State.mk_inv
    | with_reducible rfl
    | with_reducible exact Nat.le_refl _
    | (dsimp only; split)

theorem execRingBreakResume_inv {s : State} (h : s.From q)  : Keeps q (execRingBreakResume s) := by
  unfold execRingBreakResume
  repeat' first
    | with_reducible intro _
    | with_reducible assumption
    | with_reducible first | apply Keeps.next | apply Keeps.ite | apply State.ite_inv | apply State.headResumes_inv | apply State.masterRestored_inv
    | split
    | with_reducible apply State.mk_inv
    | with_reducible rfl
    | with_reducible exact Nat.le_refl _
    | (dsimp only; split)

theorem State.ringLockGained_inv {s : State} (h : s.From q)  : (State.ringLockGained s).From q := by
  unfold State.ringLockGained
  repeat' first
    | with_reducible intro _
    | with_reducible assumption
    | with_reducible first | apply State.ite_inv | apply State.ringGoto_inv
    | split
    | with_reducible apply State.mk_inv
    | with_reducible rfl
    | with_reducible exact Nat.le_refl _
    | (dsimp only; split)

theorem execElectCandidate_inv {s : State} (h : s.From q)  : Keeps q (execElectCandidate s) := by
  unfold execElectCandidate
  repeat' first
    | with_reducible intro _
    | with_reducible assumption
    | with_reducible first | apply Keeps.next | apply Keeps.ite | apply State.ite_inv | apply State.ringGoto_inv
    | split
    | with_reducible apply State.mk_inv
    | with_reducible rfl
    | with_reducible exact Nat.le_refl _
    | (dsimp only; split)

theorem execElected_inv {s : State} (h : s.From q)  : Keeps q (execElected s) := by
  unfold execElected
  repeat' first
    | with_reducible intro _
    | with_reducible assumption
    | with_reducible first | apply Keeps.next | apply Keeps.ite | apply State.ite_inv | apply State.ev_inv | apply State.ringGoto_inv | apply State.wr_inv
    | split
    | with_reducible apply State.mk_inv
    | with_reducible rfl
    | with_reducible exact Nat.le_refl _
    | (dsimp only; split)

theorem execElectTimeout_inv {s : State} (h : s.From q)  : Keeps q (execElectTimeout s) := by
  unfold execElectTimeout
  repeat' first
    | with_reducible intro _
    | with_reducible assumption
    | with_reducible first | apply Keeps.next | apply Keeps.ite | apply State.ite_inv | apply State.ev_inv
    | split
    | with_reducible apply State.mk_inv
    | with_reducible rfl
    | with_reducible exact Nat.le_refl _
    | (dsimp only; split)

theorem State.ringStart_inv {s : State} (h : s.From q)  : (State.ringStart s).From q := by
  unfold State.ringStart
  repeat' first
    | with_reducible intro _
    | with_reducible assumption
    | with_reducible first | apply State.ite_inv | apply State.ringGoto_inv | apply State.wr_inv | apply State.wrB_inv
    | split
    | with_reducible apply State.mk_inv
    | with_reducible rfl
    | with_reducible exact Nat.le_refl _
    | (dsimp only; split)

theorem State.ringDrop_inv {s : State} (h : s.From q)  : (State.ringDrop s).From q := by
  unfold State.ringDrop
  repeat' first
    | with_reducible intro _
    | with_reducible assumption
    | with_reducible first | apply State.ite_inv
    | split
    | with_reducible apply State.mk_inv
    | with_reducible rfl
    | with_reducible exact Nat.le_refl _
    | (dsimp only; split)

theorem State.ringStop_inv {s : State} (h : s.From q)  : (State.ringStop s).From q := by
  unfold State.ringStop
  repeat' first
    | with_reducible intro _
    | with_reducible assumption
    | with_reducible first | apply State.ite_inv | apply State.ringDrop_inv | apply State.ringGoto_inv | apply State.wr_inv
    | split
    | with_reducible apply State.mk_inv
    | with_reducible rfl
    | with_reducible exact Nat.le_refl _
    | (dsimp only; split)

theorem execRingStart_inv {s : State} (h : s.From q)  : Keeps q (execRingStart s) := by
  unfold execRingStart
  repeat' first
    | with_reducible intro _
    | with_reducible assumption
    | with_reducible first | apply Keeps.next | apply Keeps.ite | apply State.ite_inv | apply State.ringStart_inv
    | split
    | with_reducible apply State.mk_inv
    | with_reducible rfl
    | with_reducible exact Nat.le_refl _
    | (dsimp only; split)

theorem execRingStop_inv {s : State} (h : s.From q)  : Keeps q (execRingStop s) := by
  unfold execRingStop
  repeat' first
    | with_reducible intro _
    | with_reducible assumption
    | with_reducible first | apply Keeps.next | apply Keeps.ite | apply State.ite_inv | apply State.ringStop_inv
    | split
    | with_reducible apply State.mk_inv
    | with_reducible rfl
    | with_reducible exact Nat.le_refl _
    | (dsimp only; split)

theorem State.ringRefused_inv {s : State} (h : s.From q)  : (State.ringRefused s).From q := by
  unfold State.ringRefused
  repeat' first
    | with_reducible intro _
    | with_reducible assumption
    | with_reducible first | apply State.ite_inv | apply State.bump_inv
    | split
    | with_reducible apply State.mk_inv
    | with_reducible rfl
    | with_reducible exact Nat.le_refl _
    | (dsimp only; split)

theorem State.tringCfgWrite_inv {s : State} (h : s.From q) (v : BitVec 32) : (State.tringCfgWrite s v).From q := by
  unfold State.tringCfgWrite
  repeat' first
    | with_reducible intro _
    | with_reducible assumption
    | with_reducible first | apply State.ite_inv | apply State.ringRefused_inv | apply State.setReg_inv
    | split
    | with_reducible apply State.mk_inv
    | with_reducible rfl
    | with_reducible exact Nat.le_refl _
    | (dsimp only; split)

theorem execTringCfgWrite_inv {s : State} (h : s.From q) (v : Word) : Keeps q (execTringCfgWrite v s) := by
  unfold execTringCfgWrite
  repeat' first
    | with_reducible intro _
    | with_reducible assumption
    | with_reducible first | apply Keeps.next | apply Keeps.ite | apply State.ite_inv | apply State.tringCfgWrite_inv
    | split
    | with_reducible apply State.mk_inv
    | with_reducible rfl
    | with_reducible exact Nat.le_refl _
    | (dsimp only; split)

theorem State.tringMapWrite_inv {s : State} (h : s.From q) (tx : Bool) (k : Nat) (v : BitVec 32) : (State.tringMapWrite s tx k v).From q := by
  unfold State.tringMapWrite
  repeat' first
    | with_reducible intro _
    | with_reducible assumption
    | with_reducible first | apply State.ite_inv | apply State.fst_ite_inv | apply State.ringRefused_inv
    | split
    | with_reducible apply State.mk_inv
    | with_reducible rfl
    | with_reducible exact Nat.le_refl _
    | (dsimp only; split)

theorem execTringMapWrite_inv {s : State} (h : s.From q) (tx : Bool) (k : Fin 16) (v : Word) : Keeps q (execTringMapWrite tx k v s) := by
  unfold execTringMapWrite
  repeat' first
    | with_reducible intro _
    | with_reducible assumption
    | with_reducible first | apply Keeps.next | apply Keeps.ite | apply State.ite_inv | apply State.tringMapWrite_inv
    | split
    | with_reducible apply State.mk_inv
    | with_reducible rfl
    | with_reducible exact Nat.le_refl _
    | (dsimp only; split)

theorem State.ringMapApply_inv {s : State} (h : s.From q)  : (State.ringMapApply s).From q := by
  unfold State.ringMapApply
  repeat' first
    | with_reducible intro _
    | with_reducible assumption
    | with_reducible first | apply State.ite_inv | apply State.fst_ite_inv | apply State.snd_ite_inv | apply State.ctxBind_inv | apply State.ctxUnbind_inv | apply State.forAll_inv | apply State.forEach_inv | apply State.setReg_inv
    | split
    | with_reducible apply State.mk_inv
    | with_reducible rfl
    | with_reducible exact Nat.le_refl _
    | (dsimp only; split)

end Sys2Proof.Machine
end

