-- ==== Sys2Proof/Laws/InvDsp.lean ====
section
/-!
SUPPORT. Laws/InvDsp.lean: the operations of Machine/Dsp.lean keep the invariant of Safety.lean.
-/

namespace Sys2Proof.Machine

-- one theorem after the other: the package as one text then needs fewer threads
set_option Elab.async false

open Sys2Proof

variable {q : State}

theorem State.dspRefused_inv {s : State} (h : s.From q)  : (State.dspRefused s).From q := by
  unfold State.dspRefused
  repeat' first
    | with_reducible intro _
    | with_reducible assumption
    | with_reducible first | apply State.ite_inv | apply State.bump_inv
    | split
    | with_reducible apply State.mk_inv
    | with_reducible rfl
    | with_reducible exact Nat.le_refl _
    | (dsimp only; split)

theorem State.ctxCfgWrite_inv {s : State} (h : s.From q) (n : Nat) (v : BitVec 32) : (State.ctxCfgWrite s n v).From q := by
  unfold State.ctxCfgWrite
  repeat' first
    | with_reducible intro _
    | with_reducible assumption
    | with_reducible first | apply State.ite_inv | apply State.ctxBind_inv | apply State.ctxRetarget_inv | apply State.dspRefused_inv | apply State.setCtx_inv | apply State.wr_inv
    | split
    | with_reducible apply State.mk_inv
    | with_reducible rfl
    | with_reducible exact Nat.le_refl _
    | (dsimp only; split)

theorem execCtxCfgWrite_inv {s : State} (h : s.From q) (n : Fin 128) (v : Word) : Keeps q (execCtxCfgWrite n v s) := by
  unfold execCtxCfgWrite
  repeat' first
    | with_reducible intro _
    | with_reducible assumption
    | with_reducible first | apply Keeps.next | apply Keeps.ite | apply State.ite_inv | apply State.ctxCfgWrite_inv
    | split
    | with_reducible apply State.mk_inv
    | with_reducible rfl
    | with_reducible exact Nat.le_refl _
    | (dsimp only; split)

theorem State.ctxLevelWrite_inv {s : State} (h : s.From q) (n : Nat) (v : BitVec 32) : (State.ctxLevelWrite s n v).From q := by
  unfold State.ctxLevelWrite
  repeat' first
    | with_reducible intro _
    | with_reducible assumption
    | with_reducible first | apply State.ite_inv | apply State.setCtx_inv | apply State.wr_inv
    | split
    | with_reducible apply State.mk_inv
    | with_reducible rfl
    | with_reducible exact Nat.le_refl _
    | (dsimp only; split)

theorem execCtxLevelWrite_inv {s : State} (h : s.From q) (n : Fin 128) (v : Word) : Keeps q (execCtxLevelWrite n v s) := by
  unfold execCtxLevelWrite
  repeat' first
    | with_reducible intro _
    | with_reducible assumption
    | with_reducible first | apply Keeps.next | apply Keeps.ite | apply State.ite_inv | apply State.ctxLevelWrite_inv
    | split
    | with_reducible apply State.mk_inv
    | with_reducible rfl
    | with_reducible exact Nat.le_refl _
    | (dsimp only; split)

theorem State.setGen_inv {s : State} (h : s.From q) (g : Nat) (x : GenSt) : (State.setGen s g x).From q := by
  unfold State.setGen
  repeat' first
    | with_reducible intro _
    | with_reducible assumption
    | with_reducible first | apply State.ite_inv
    | split
    | with_reducible apply State.mk_inv
    | with_reducible rfl
    | with_reducible exact Nat.le_refl _
    | (dsimp only; split)

theorem State.genCfgWrite_inv {s : State} (h : s.From q) (g : Nat) (v : BitVec 32) : (State.genCfgWrite s g v).From q := by
  unfold State.genCfgWrite
  repeat' first
    | with_reducible intro _
    | with_reducible assumption
    | with_reducible first | apply State.ite_inv | apply State.setReg_inv
    | split
    | with_reducible apply State.mk_inv
    | with_reducible rfl
    | with_reducible exact Nat.le_refl _
    | (dsimp only; split)

theorem execGenCfgWrite_inv {s : State} (h : s.From q) (g : Fin 16) (v : Word) : Keeps q (execGenCfgWrite g v s) := by
  unfold execGenCfgWrite
  repeat' first
    | with_reducible intro _
    | with_reducible assumption
    | with_reducible first | apply Keeps.next | apply Keeps.ite | apply State.ite_inv | apply State.genCfgWrite_inv
    | split
    | with_reducible apply State.mk_inv
    | with_reducible rfl
    | with_reducible exact Nat.le_refl _
    | (dsimp only; split)

theorem State.genFreqWrite_inv {s : State} (h : s.From q) (g : Nat) (v : BitVec 32) : (State.genFreqWrite s g v).From q := by
  unfold State.genFreqWrite
  repeat' first
    | with_reducible intro _
    | with_reducible assumption
    | with_reducible first | apply State.ite_inv | apply State.dspRefused_inv | apply State.setReg_inv
    | split
    | with_reducible apply State.mk_inv
    | with_reducible rfl
    | with_reducible exact Nat.le_refl _
    | (dsimp only; split)

theorem execGenFreqWrite_inv {s : State} (h : s.From q) (g : Fin 16) (v : Word) : Keeps q (execGenFreqWrite g v s) := by
  unfold execGenFreqWrite
  repeat' first
    | with_reducible intro _
    | with_reducible assumption
    | with_reducible first | apply Keeps.next | apply Keeps.ite | apply State.ite_inv | apply State.genFreqWrite_inv
    | split
    | with_reducible apply State.mk_inv
    | with_reducible rfl
    | with_reducible exact Nat.le_refl _
    | (dsimp only; split)

theorem State.genBoundary_inv {s : State} (h : s.From q) (g : Nat) : (State.genBoundary s g).From q := by
  unfold State.genBoundary
  repeat' first
    | with_reducible intro _
    | with_reducible assumption
    | with_reducible first | apply State.ite_inv | apply State.setGen_inv
    | split
    | with_reducible apply State.mk_inv
    | with_reducible rfl
    | with_reducible exact Nat.le_refl _
    | (dsimp only; split)

theorem State.setVoice_inv {s : State} (h : s.From q) (v : Nat) (x : Voice) : (State.setVoice s v x).From q := by
  unfold State.setVoice
  repeat' first
    | with_reducible intro _
    | with_reducible assumption
    | with_reducible first | apply State.ite_inv | apply State.setBit_inv
    | split
    | with_reducible apply State.mk_inv
    | with_reducible rfl
    | with_reducible exact Nat.le_refl _
    | (dsimp only; split)

theorem State.playRefused_inv {s : State} (h : s.From q)  : (State.playRefused s).From q := by
  unfold State.playRefused
  repeat' first
    | with_reducible intro _
    | with_reducible assumption
    | with_reducible first | apply State.ite_inv | apply State.bump_inv | apply State.ev_inv
    | split
    | with_reducible apply State.mk_inv
    | with_reducible rfl
    | with_reducible exact Nat.le_refl _
    | (dsimp only; split)

theorem State.play_inv {s : State} (h : s.From q) (v id : Nat) : (State.play s v id).From q := by
  unfold State.play
  repeat' first
    | with_reducible intro _
    | with_reducible assumption
    | with_reducible first | apply State.ite_inv | apply State.playRefused_inv | apply State.setVoice_inv
    | split
    | with_reducible apply State.mk_inv
    | with_reducible rfl
    | with_reducible exact Nat.le_refl _
    | (dsimp only; split)

theorem State.stopAtEnd_inv {s : State} (h : s.From q) (v : Nat) : (State.stopAtEnd s v).From q := by
  unfold State.stopAtEnd
  repeat' first
    | with_reducible intro _
    | with_reducible assumption
    | with_reducible first | apply State.ite_inv | apply State.playRefused_inv | apply State.setVoice_inv
    | split
    | with_reducible apply State.mk_inv
    | with_reducible rfl
    | with_reducible exact Nat.le_refl _
    | (dsimp only; split)

theorem State.stopNow_inv {s : State} (h : s.From q) (v : Nat) : (State.stopNow s v).From q := by
  unfold State.stopNow
  repeat' first
    | with_reducible intro _
    | with_reducible assumption
    | with_reducible first | apply State.ite_inv | apply State.playRefused_inv | apply State.setVoice_inv
    | split
    | with_reducible apply State.mk_inv
    | with_reducible rfl
    | with_reducible exact Nat.le_refl _
    | (dsimp only; split)

theorem State.playCmd_inv {s : State} (h : s.From q) (v : BitVec 32) : (State.playCmd s v).From q := by
  unfold State.playCmd
  repeat' first
    | with_reducible intro _
    | with_reducible assumption
    | with_reducible first | apply State.ite_inv | apply State.play_inv | apply State.stopAtEnd_inv | apply State.stopNow_inv
    | split
    | with_reducible apply State.mk_inv
    | with_reducible rfl
    | with_reducible exact Nat.le_refl _
    | (dsimp only; split)

theorem execPlay_inv {s : State} (h : s.From q) (voice : Fin 32) (sound : BitVec 16) : Keeps q (execPlay voice sound s) := by
  unfold execPlay
  repeat' first
    | with_reducible intro _
    | with_reducible assumption
    | with_reducible first | apply Keeps.next | apply Keeps.ite | apply State.ite_inv | apply State.play_inv
    | split
    | with_reducible apply State.mk_inv
    | with_reducible rfl
    | with_reducible exact Nat.le_refl _
    | (dsimp only; split)

theorem execStopAtEnd_inv {s : State} (h : s.From q) (voice : Fin 32) : Keeps q (execStopAtEnd voice s) := by
  unfold execStopAtEnd
  repeat' first
    | with_reducible intro _
    | with_reducible assumption
    | with_reducible first | apply Keeps.next | apply Keeps.ite | apply State.ite_inv | apply State.stopAtEnd_inv
    | split
    | with_reducible apply State.mk_inv
    | with_reducible rfl
    | with_reducible exact Nat.le_refl _
    | (dsimp only; split)

theorem execStopNow_inv {s : State} (h : s.From q) (voice : Fin 32) : Keeps q (execStopNow voice s) := by
  unfold execStopNow
  repeat' first
    | with_reducible intro _
    | with_reducible assumption
    | with_reducible first | apply Keeps.next | apply Keeps.ite | apply State.ite_inv | apply State.stopNow_inv
    | split
    | with_reducible apply State.mk_inv
    | with_reducible rfl
    | with_reducible exact Nat.le_refl _
    | (dsimp only; split)

theorem State.voiceStale_inv {s : State} (h : s.From q) (v : Nat) : (State.voiceStale s v).From q := by
  unfold State.voiceStale
  repeat' first
    | with_reducible intro _
    | with_reducible assumption
    | with_reducible first | apply State.ite_inv | apply State.ctxStale_inv | apply State.forEach_inv
    | split
    | with_reducible apply State.mk_inv
    | with_reducible rfl
    | with_reducible exact Nat.le_refl _
    | (dsimp only; split)

theorem execPlayDone_inv {s : State} (h : s.From q) (voice : Fin 32) : Keeps q (execPlayDone voice s) := by
  unfold execPlayDone
  repeat' first
    | with_reducible intro _
    | with_reducible assumption
    | with_reducible first | apply Keeps.next | apply Keeps.ite | apply State.ite_inv | apply State.ev_inv | apply State.setVoice_inv | apply State.voiceStale_inv
    | split
    | with_reducible apply State.mk_inv
    | with_reducible rfl
    | with_reducible exact Nat.le_refl _
    | (dsimp only; split)

theorem execPlayUnderrun_inv {s : State} (h : s.From q) (voice : Fin 32) (late : Nat) : Keeps q (execPlayUnderrun voice late s) := by
  unfold execPlayUnderrun
  repeat' first
    | with_reducible intro _
    | with_reducible assumption
    | with_reducible first | apply Keeps.next | apply Keeps.ite | apply State.ite_inv | apply State.bump_inv | apply State.ev_inv | apply State.setVoice_inv | apply State.voiceStale_inv
    | split
    | with_reducible apply State.mk_inv
    | with_reducible rfl
    | with_reducible exact Nat.le_refl _
    | (dsimp only; split)

theorem State.ctxTakeValue_inv {s : State} (h : s.From q) (n : Nat) : (State.ctxTakeValue s n).From q := by
  unfold State.ctxTakeValue
  repeat' first
    | with_reducible intro _
    | with_reducible assumption
    | with_reducible first | apply State.ite_inv | apply State.setCtx_inv
    | split
    | with_reducible apply State.mk_inv
    | with_reducible rfl
    | with_reducible exact Nat.le_refl _
    | (dsimp only; split)

end Sys2Proof.Machine
end

