-- ==== Sys2Proof/Laws/InvPlacement.lean ====
section
/-!
SUPPORT. Laws/InvPlacement.lean: the operations of Machine/Placement.lean keep the invariant of Safety.lean.
-/

namespace Sys2Proof.Machine

-- one theorem after the other: the package as one text then needs fewer threads
set_option Elab.async false

open Sys2Proof

variable {q : State}

theorem State.placeSeq_inv {s : State} (h : s.From q)  : (State.placeSeq s).From q := by
  unfold State.placeSeq
  repeat' first
    | with_reducible intro _
    | with_reducible assumption
    | with_reducible first | apply State.ite_inv
    | split
    | with_reducible apply State.mk_inv
    | with_reducible rfl
    | with_reducible exact Nat.le_refl _
    | (dsimp only; split)

theorem State.bindTerminal_inv {s : State} (h : s.From q) (k : Nat) (t : Terminal) : (State.bindTerminal s k t).From q := by
  unfold State.bindTerminal
  repeat' first
    | with_reducible intro _
    | with_reducible assumption
    | with_reducible first | apply State.ite_inv | apply State.ctxBind_inv | apply State.ctxRetarget_inv | apply State.setCtx_inv | apply State.wr_inv | apply State.wrB_inv
    | split
    | with_reducible apply State.mk_inv
    | with_reducible rfl
    | with_reducible exact Nat.le_refl _
    | (dsimp only; split)

theorem State.unbindTerminal_inv {s : State} (h : s.From q) (c : Nat) : (State.unbindTerminal s c).From q := by
  unfold State.unbindTerminal
  repeat' first
    | with_reducible intro _
    | with_reducible assumption
    | with_reducible first | apply State.ite_inv | apply State.ctxBind_inv | apply State.wr_inv
    | split
    | with_reducible apply State.mk_inv
    | with_reducible rfl
    | with_reducible exact Nat.le_refl _
    | (dsimp only; split)

theorem State.installGraph_inv {s : State} (h : s.From q) (g : Graph) (code : Nat) : (State.installGraph s g code).From q := by
  unfold State.installGraph
  repeat' first
    | with_reducible intro _
    | with_reducible assumption
    | with_reducible first | apply State.ite_inv | apply State.fst_ite_inv | apply State.snd_ite_inv | apply State.bindTerminal_inv | apply State.forEach_inv | apply State.setReg_inv | apply State.unbindTerminal_inv | apply State.wr_inv
    | split
    | with_reducible apply State.mk_inv
    | with_reducible rfl
    | with_reducible exact Nat.le_refl _
    | (dsimp only; split)

theorem State.takePlacement_inv {s : State} (h : s.From q) (p : Placement) : (State.takePlacement s p).From q := by
  unfold State.takePlacement
  repeat' first
    | with_reducible intro _
    | with_reducible assumption
    | with_reducible first | apply State.ite_inv | apply State.ev_inv | apply State.placeSeq_inv | apply State.wr_inv
    | split
    | with_reducible apply State.mk_inv
    | with_reducible rfl
    | with_reducible exact Nat.le_refl _
    | (dsimp only; split)

theorem State.p0Unplaceable_inv {s : State} (h : s.From q)  : (State.p0Unplaceable s).From q := by
  unfold State.p0Unplaceable
  repeat' first
    | with_reducible intro _
    | with_reducible assumption
    | with_reducible first | apply State.ite_inv | apply State.raise_inv
    | split
    | with_reducible apply State.mk_inv
    | with_reducible rfl
    | with_reducible exact Nat.le_refl _
    | (dsimp only; split)

theorem State.placementRun_inv {s : State} (h : s.From q)  : (State.placementRun s).From q := by
  unfold State.placementRun
  repeat' first
    | with_reducible intro _
    | with_reducible assumption
    | with_reducible first | apply State.ite_inv | apply State.p0Unplaceable_inv
    | split
    | with_reducible apply State.mk_inv
    | with_reducible rfl
    | with_reducible exact Nat.le_refl _
    | (dsimp only; split)

theorem execPlacementRun_inv {s : State} (h : s.From q)  : Keeps q (execPlacementRun s) := by
  unfold execPlacementRun
  repeat' first
    | with_reducible intro _
    | with_reducible assumption
    | with_reducible first | apply Keeps.next | apply Keeps.ite | apply State.ite_inv | apply State.placementRun_inv | apply State.when_inv
    | split
    | with_reducible apply State.mk_inv
    | with_reducible rfl
    | with_reducible exact Nat.le_refl _
    | (dsimp only; split)

theorem State.coresLost_inv {s : State} (h : s.From q) (cs : List Nat) : (State.coresLost s cs).From q := by
  unfold State.coresLost
  repeat' first
    | with_reducible intro _
    | with_reducible assumption
    | with_reducible first | apply State.ite_inv | apply State.fst_ite_inv
    | split
    | with_reducible apply State.mk_inv
    | with_reducible rfl
    | with_reducible exact Nat.le_refl _
    | (dsimp only; split)

theorem State.partnerRuns_inv {s : State} (h : s.From q) (c d : Nat) : (State.partnerRuns s c d).From q := by
  unfold State.partnerRuns
  repeat' first
    | with_reducible intro _
    | with_reducible assumption
    | with_reducible first | apply State.ite_inv | apply State.foldl_inv | apply State.foldl_fst_inv | apply State.foldl_snd_inv | apply State.fst_ite_inv
    | split
    | with_reducible apply State.mk_inv
    | with_reducible rfl
    | with_reducible exact Nat.le_refl _
    | (dsimp only; split)

theorem State.coreFence_inv {s : State} (h : s.From q) (c : Nat) (id : BitVec 16) : (State.coreFence s c id).From q := by
  unfold State.coreFence
  repeat' first
    | with_reducible intro _
    | with_reducible assumption
    | with_reducible first | apply State.ite_inv | apply State.fst_ite_inv | apply State.snd_ite_inv | apply State.coresLost_inv | apply State.ev_inv | apply State.partnerRuns_inv | apply State.placeSeq_inv | apply State.placementRun_inv | apply State.wr_inv
    | split
    | with_reducible apply State.mk_inv
    | with_reducible rfl
    | with_reducible exact Nat.le_refl _
    | (dsimp only; split)

theorem execCoreFence_inv {s : State} (h : s.From q) (c : Fin 4) (id : BitVec 16) : Keeps q (execCoreFence c id s) := by
  unfold execCoreFence
  repeat' first
    | with_reducible intro _
    | with_reducible assumption
    | with_reducible first | apply Keeps.next | apply Keeps.ite | apply State.ite_inv | apply State.coreFence_inv | apply State.when_inv
    | split
    | with_reducible apply State.mk_inv
    | with_reducible rfl
    | with_reducible exact Nat.le_refl _
    | (dsimp only; split)

theorem State.migrate_inv {s : State} (h : s.From q)  : (State.migrate s).From q := by
  unfold State.migrate
  repeat' first
    | with_reducible intro _
    | with_reducible assumption
    | with_reducible first | apply State.ite_inv | apply State.ev_inv | apply State.takePlacement_inv
    | split
    | with_reducible apply State.mk_inv
    | with_reducible rfl
    | with_reducible exact Nat.le_refl _
    | (dsimp only; split)

theorem State.migrationDone_inv {s : State} (h : s.From q)  : (State.migrationDone s).From q := by
  unfold State.migrationDone
  repeat' first
    | with_reducible intro _
    | with_reducible assumption
    | with_reducible first | apply State.ite_inv | apply State.migrate_inv
    | split
    | with_reducible apply State.mk_inv
    | with_reducible rfl
    | with_reducible exact Nat.le_refl _
    | (dsimp only; split)

theorem execMigrationDone_inv {s : State} (h : s.From q)  : Keeps q (execMigrationDone s) := by
  unfold execMigrationDone
  repeat' first
    | with_reducible intro _
    | with_reducible assumption
    | with_reducible first | apply Keeps.next | apply Keeps.ite | apply State.ite_inv | apply State.migrationDone_inv | apply State.when_inv
    | split
    | with_reducible apply State.mk_inv
    | with_reducible rfl
    | with_reducible exact Nat.le_refl _
    | (dsimp only; split)

theorem State.regionFence_inv {s : State} (h : s.From q) (mi r : Nat) (id : BitVec 16) : (State.regionFence s mi r id).From q := by
  unfold State.regionFence
  repeat' first
    | with_reducible intro _
    | with_reducible assumption
    | with_reducible first | apply State.ite_inv | apply State.ev_inv | apply State.placeSeq_inv | apply State.placementRun_inv
    | split
    | with_reducible apply State.mk_inv
    | with_reducible rfl
    | with_reducible exact Nat.le_refl _
    | (dsimp only; split)

theorem execRegionFence_inv {s : State} (h : s.From q) (mi : Fin 6) (r : Fin 1024) (id : BitVec 16) : Keeps q (execRegionFence mi r id s) := by
  unfold execRegionFence
  repeat' first
    | with_reducible intro _
    | with_reducible assumption
    | with_reducible first | apply Keeps.next | apply Keeps.ite | apply State.ite_inv | apply State.regionFence_inv | apply State.when_inv
    | split
    | with_reducible apply State.mk_inv
    | with_reducible rfl
    | with_reducible exact Nat.le_refl _
    | (dsimp only; split)

theorem State.memFence_inv {s : State} (h : s.From q) (mi r : Nat) (id : BitVec 16) : (State.memFence s mi r id).From q := by
  unfold State.memFence
  repeat' first
    | with_reducible intro _
    | with_reducible assumption
    | with_reducible first | apply State.ite_inv | apply State.ev_inv | apply State.placeSeq_inv | apply State.raise_inv
    | split
    | with_reducible apply State.mk_inv
    | with_reducible rfl
    | with_reducible exact Nat.le_refl _
    | (dsimp only; split)

theorem State.regionMove_inv {s : State} (h : s.From q) (mi r : Nat) : (State.regionMove s mi r).From q := by
  unfold State.regionMove
  repeat' first
    | with_reducible intro _
    | with_reducible assumption
    | with_reducible first | apply State.ite_inv | apply State.placeSeq_inv
    | split
    | with_reducible apply State.mk_inv
    | with_reducible rfl
    | with_reducible exact Nat.le_refl _
    | (dsimp only; split)

theorem execDramRegionMove_inv {s : State} (h : s.From q) (mi : Fin 6) (r : Fin 1024) : Keeps q (execDramRegionMove mi r s) := by
  unfold execDramRegionMove
  repeat' first
    | with_reducible intro _
    | with_reducible assumption
    | with_reducible first | apply Keeps.next | apply Keeps.ite | apply State.ite_inv | apply State.regionMove_inv | apply State.when_inv
    | split
    | with_reducible apply State.mk_inv
    | with_reducible rfl
    | with_reducible exact Nat.le_refl _
    | (dsimp only; split)

theorem State.scrub_inv {s : State} (h : s.From q) (mi : Nat) (w : MemRead) : (State.scrub s mi w).From q := by
  unfold State.scrub
  repeat' first
    | with_reducible intro _
    | with_reducible assumption
    | with_reducible first | apply State.ite_inv | apply State.memFence_inv | apply State.raise_inv
    | split
    | with_reducible apply State.mk_inv
    | with_reducible rfl
    | with_reducible exact Nat.le_refl _
    | (dsimp only; split)

theorem execScrubRepair_inv {s : State} (h : s.From q) (mi : Fin 6) (w : MemRead) : Keeps q (execScrubRepair mi w s) := by
  unfold execScrubRepair
  repeat' first
    | with_reducible intro _
    | with_reducible assumption
    | with_reducible first | apply Keeps.next | apply Keeps.ite | apply State.ite_inv | apply State.scrub_inv | apply State.when_inv
    | split
    | with_reducible apply State.mk_inv
    | with_reducible rfl
    | with_reducible exact Nat.le_refl _
    | (dsimp only; split)

theorem State.setClass_inv {s : State} (h : s.From q) (f4 : Bool) (c : ClassSt) : (State.setClass s f4 c).From q := by
  unfold State.setClass
  repeat' first
    | with_reducible intro _
    | with_reducible assumption
    | with_reducible first | apply State.ite_inv
    | split
    | with_reducible apply State.mk_inv
    | with_reducible rfl
    | with_reducible exact Nat.le_refl _
    | (dsimp only; split)

theorem State.setBlockState_inv {s : State} (h : s.From q) (inst : Nat) (x : List (BitVec 32)) : (State.setBlockState s inst x).From q := by
  unfold State.setBlockState
  repeat' first
    | with_reducible intro _
    | with_reducible assumption
    | with_reducible first | apply State.ite_inv
    | split
    | with_reducible apply State.mk_inv
    | with_reducible rfl
    | with_reducible exact Nat.le_refl _
    | (dsimp only; split)

theorem State.zeroBlock_inv {s : State} (h : s.From q) (b : Block) : (State.zeroBlock s b).From q := by
  unfold State.zeroBlock
  repeat' first
    | with_reducible intro _
    | with_reducible assumption
    | with_reducible first | apply State.ite_inv | apply State.fst_ite_inv | apply State.setBlockState_inv | apply State.setReg_inv
    | split
    | with_reducible apply State.mk_inv
    | with_reducible rfl
    | with_reducible exact Nat.le_refl _
    | (dsimp only; split)

theorem State.blockDetected_inv {s : State} (h : s.From q) (b : Block) (d : Detection) : (State.blockDetected s b d).From q := by
  unfold State.blockDetected
  repeat' first
    | with_reducible intro _
    | with_reducible assumption
    | with_reducible first | apply State.ite_inv | apply State.fst_ite_inv | apply State.setBlockState_inv | apply State.setClass_inv | apply State.zeroBlock_inv
    | split
    | with_reducible apply State.mk_inv
    | with_reducible rfl
    | with_reducible exact Nat.le_refl _
    | (dsimp only; split)

theorem State.dspDetection_inv {s : State} (h : s.From q) (inst : Nat) (d : Detection) : (State.dspDetection s inst d).From q := by
  unfold State.dspDetection
  repeat' first
    | with_reducible intro _
    | with_reducible assumption
    | with_reducible first | apply State.ite_inv | apply State.blockDetected_inv | apply State.memFence_inv | apply State.raise_inv
    | split
    | with_reducible apply State.mk_inv
    | with_reducible rfl
    | with_reducible exact Nat.le_refl _
    | (dsimp only; split)

theorem execDspDetection_inv {s : State} (h : s.From q) (inst : BitVec 16) (d : Detection) : Keeps q (execDspDetection inst d s) := by
  unfold execDspDetection
  repeat' first
    | with_reducible intro _
    | with_reducible assumption
    | with_reducible first | apply Keeps.next | apply Keeps.ite | apply State.ite_inv | apply State.dspDetection_inv | apply State.when_inv
    | split
    | with_reducible apply State.mk_inv
    | with_reducible rfl
    | with_reducible exact Nat.le_refl _
    | (dsimp only; split)

end Sys2Proof.Machine
end

