-- ==== Sys2Proof/Laws/InvTrace.lean ====
section
/-!
SUPPORT. Laws/InvTrace.lean: the operations of Machine/Trace.lean keep the invariant of Safety.lean.
-/

namespace Sys2Proof.Machine

-- one theorem after the other: the package as one text then needs fewer threads
set_option Elab.async false

open Sys2Proof

variable {q : State}

theorem State.setTbuf_inv {s : State} (h : s.From q) (b : Nat) (x : TraceBuf) : (State.setTbuf s b x).From q := by
  unfold State.setTbuf
  repeat' first
    | with_reducible intro _
    | with_reducible assumption
    | with_reducible first | apply State.ite_inv
    | split
    | with_reducible apply State.mk_inv
    | with_reducible rfl
    | with_reducible exact Nat.le_refl _
    | (dsimp only; split)

theorem State.traceRefused_inv {s : State} (h : s.From q)  : (State.traceRefused s).From q := by
  unfold State.traceRefused
  repeat' first
    | with_reducible intro _
    | with_reducible assumption
    | with_reducible first | apply State.ite_inv | apply State.bump_inv
    | split
    | with_reducible apply State.mk_inv
    | with_reducible rfl
    | with_reducible exact Nat.le_refl _
    | (dsimp only; split)

theorem State.traceCfgWrite_inv {s : State} (h : s.From q) (b k : Nat) (v : BitVec 32) : (State.traceCfgWrite s b k v).From q := by
  unfold State.traceCfgWrite
  repeat' first
    | with_reducible intro _
    | with_reducible assumption
    | with_reducible first | apply State.ite_inv | apply State.setReg_inv | apply State.traceRefused_inv
    | split
    | with_reducible apply State.mk_inv
    | with_reducible rfl
    | with_reducible exact Nat.le_refl _
    | (dsimp only; split)

theorem execTraceCfgWrite_inv {s : State} (h : s.From q) (b : Fin 4) (k : Fin 4) (v : Word) : Keeps q (execTraceCfgWrite b k v s) := by
  unfold execTraceCfgWrite
  repeat' first
    | with_reducible intro _
    | with_reducible assumption
    | with_reducible first | apply Keeps.next | apply Keeps.ite | apply State.ite_inv | apply State.reach_inv | apply State.traceCfgWrite_inv
    | split
    | with_reducible apply State.mk_inv
    | with_reducible rfl
    | with_reducible exact Nat.le_refl _
    | (dsimp only; split)

theorem State.traceArm_inv {s : State} (h : s.From q) (b : Nat) : (State.traceArm s b).From q := by
  unfold State.traceArm
  repeat' first
    | with_reducible intro _
    | with_reducible assumption
    | with_reducible first | apply State.ite_inv | apply State.ev_inv | apply State.setReg_inv | apply State.setTbuf_inv | apply State.traceRefused_inv
    | split
    | with_reducible apply State.mk_inv
    | with_reducible rfl
    | with_reducible exact Nat.le_refl _
    | (dsimp only; split)

theorem execTraceArm_inv {s : State} (h : s.From q) (b : Fin 4) : Keeps q (execTraceArm b s) := by
  unfold execTraceArm
  repeat' first
    | with_reducible intro _
    | with_reducible assumption
    | with_reducible first | apply Keeps.next | apply Keeps.ite | apply State.ite_inv | apply State.reach_inv | apply State.traceArm_inv
    | split
    | with_reducible apply State.mk_inv
    | with_reducible rfl
    | with_reducible exact Nat.le_refl _
    | (dsimp only; split)

theorem State.traceEnd_inv {s : State} (h : s.From q) (b st : Nat) : (State.traceEnd s b st).From q := by
  unfold State.traceEnd
  repeat' first
    | with_reducible intro _
    | with_reducible assumption
    | with_reducible first | apply State.ite_inv | apply State.wr_inv
    | split
    | with_reducible apply State.mk_inv
    | with_reducible rfl
    | with_reducible exact Nat.le_refl _
    | (dsimp only; split)

theorem State.traceStop_inv {s : State} (h : s.From q) (b : Nat) : (State.traceStop s b).From q := by
  unfold State.traceStop
  repeat' first
    | with_reducible intro _
    | with_reducible assumption
    | with_reducible first | apply State.ite_inv | apply State.traceEnd_inv
    | split
    | with_reducible apply State.mk_inv
    | with_reducible rfl
    | with_reducible exact Nat.le_refl _
    | (dsimp only; split)

theorem execTraceStop_inv {s : State} (h : s.From q) (b : Fin 4) : Keeps q (execTraceStop b s) := by
  unfold execTraceStop
  repeat' first
    | with_reducible intro _
    | with_reducible assumption
    | with_reducible first | apply Keeps.next | apply Keeps.ite | apply State.ite_inv | apply State.reach_inv | apply State.traceStop_inv
    | split
    | with_reducible apply State.mk_inv
    | with_reducible rfl
    | with_reducible exact Nat.le_refl _
    | (dsimp only; split)

theorem State.traceTrigger_inv (k : Nat) (seen : List Nat) (b : Nat) {s : State} (h : s.From q) : (State.traceTrigger k seen b s).From q := by
  induction k generalizing seen b s with
  | zero => exact h
  | succ k ih =>
    unfold State.traceTrigger
    repeat' first
      | with_reducible intro _
      | with_reducible assumption
      | with_reducible first | apply State.bump_inv | apply State.forAll_inv | apply ih | apply State.ev_inv | apply State.setReg_inv | apply State.wr_inv | apply State.setTbuf_inv | apply State.ite_inv
      | split
      | with_reducible apply State.mk_inv
      | with_reducible rfl

theorem State.trigger_inv {s : State} (h : s.From q) (b : Nat) : (State.trigger s b).From q := by
  unfold State.trigger
  repeat' first
    | with_reducible intro _
    | with_reducible assumption
    | with_reducible first | apply State.ite_inv | apply State.traceTrigger_inv
    | split
    | with_reducible apply State.mk_inv
    | with_reducible rfl
    | with_reducible exact Nat.le_refl _
    | (dsimp only; split)

theorem execTraceForce_inv {s : State} (h : s.From q) (b : Fin 4) : Keeps q (execTraceForce b s) := by
  unfold execTraceForce
  repeat' first
    | with_reducible intro _
    | with_reducible assumption
    | with_reducible first | apply Keeps.next | apply Keeps.ite | apply State.ite_inv | apply State.reach_inv | apply State.trigger_inv
    | split
    | with_reducible apply State.mk_inv
    | with_reducible rfl
    | with_reducible exact Nat.le_refl _
    | (dsimp only; split)

theorem State.traceCtrl_inv {s : State} (h : s.From q) (b : Nat) (v : BitVec 32) : (State.traceCtrl s b v).From q := by
  unfold State.traceCtrl
  repeat' first
    | with_reducible intro _
    | with_reducible assumption
    | with_reducible first | apply State.ite_inv | apply State.traceArm_inv | apply State.traceStop_inv | apply State.trigger_inv | apply State.when_inv
    | split
    | with_reducible apply State.mk_inv
    | with_reducible rfl
    | with_reducible exact Nat.le_refl _
    | (dsimp only; split)

theorem State.traceChannel_inv {s : State} (h : s.From q) (c code : Nat) : (State.traceChannel s c code).From q := by
  unfold State.traceChannel
  repeat' first
    | with_reducible intro _
    | with_reducible assumption
    | with_reducible first | apply State.ite_inv | apply State.forAll_inv | apply State.trigger_inv
    | split
    | with_reducible apply State.mk_inv
    | with_reducible rfl
    | with_reducible exact Nat.le_refl _
    | (dsimp only; split)

theorem State.traceTrip_inv {s : State} (h : s.From q) (chans : List Nat) : (State.traceTrip s chans).From q := by
  unfold State.traceTrip
  repeat' first
    | with_reducible intro _
    | with_reducible assumption
    | with_reducible first | apply State.ite_inv | apply State.forEach_inv | apply State.traceChannel_inv
    | split
    | with_reducible apply State.mk_inv
    | with_reducible rfl
    | with_reducible exact Nat.le_refl _
    | (dsimp only; split)

theorem State.traceSync_inv {s : State} (h : s.From q)  : (State.traceSync s).From q := by
  unfold State.traceSync
  repeat' first
    | with_reducible intro _
    | with_reducible assumption
    | with_reducible first | apply State.ite_inv | apply State.forAll_inv | apply State.trigger_inv
    | split
    | with_reducible apply State.mk_inv
    | with_reducible rfl
    | with_reducible exact Nat.le_refl _
    | (dsimp only; split)

theorem State.traceCapture_inv {s : State} (h : s.From q) (b : Nat) (x : List (BitVec 32)) : (State.traceCapture s b x).From q := by
  unfold State.traceCapture
  repeat' first
    | with_reducible intro _
    | with_reducible assumption
    | with_reducible first | apply State.ite_inv | apply State.ev_inv | apply State.setTbuf_inv | apply State.traceEnd_inv | apply State.wr_inv
    | split
    | with_reducible apply State.mk_inv
    | with_reducible rfl
    | with_reducible exact Nat.le_refl _
    | (dsimp only; split)

theorem State.traceRead_inv {s : State} (h : s.From q) (w : Nat) (bad : Bool) : (State.traceRead s w bad).1.From q := by
  unfold State.traceRead
  repeat' first
    | with_reducible intro _
    | with_reducible assumption
    | with_reducible first | apply State.ite_inv | apply State.fst_ite_inv | apply State.bump_inv | apply State.ev_inv
    | split
    | with_reducible apply State.mk_inv
    | with_reducible rfl
    | with_reducible exact Nat.le_refl _
    | (dsimp only; split)

theorem execTraceWindowRead_inv {s : State} (h : s.From q) (w : Fin 8192) (bad : Bool) : Keeps q (execTraceWindowRead w bad s) := by
  unfold execTraceWindowRead
  repeat' first
    | with_reducible intro _
    | with_reducible assumption
    | with_reducible first | apply Keeps.next | apply Keeps.ite | apply State.ite_inv | apply State.fst_ite_inv | apply State.snd_ite_inv | apply State.bump_inv | apply State.traceRead_inv
    | split
    | with_reducible apply State.mk_inv
    | with_reducible rfl
    | with_reducible exact Nat.le_refl _
    | (dsimp only; split)

end Sys2Proof.Machine
end

