-- ==== Sys2Proof/Laws/InvRc.lean ====
section
/-!
SUPPORT. Laws/InvRc.lean: the operations of Machine/Rc.lean keep the invariant of Safety.lean.
-/

namespace Sys2Proof.Machine

-- one theorem after the other: the package as one text then needs fewer threads
set_option Elab.async false

open Sys2Proof

variable {q : State}

theorem State.setTracker_inv {s : State} (h : s.From q) (k : Nat) (x : Tracker) : (State.setTracker s k x).From q := by
  unfold State.setTracker
  repeat' first
    | with_reducible intro _
    | with_reducible assumption
    | with_reducible first | apply State.ite_inv | apply State.setBit_inv | apply State.wr_inv
    | split
    | with_reducible apply State.mk_inv
    | with_reducible rfl
    | with_reducible exact Nat.le_refl _
    | (dsimp only; split)

theorem State.setRc_inv {s : State} (h : s.From q) (c : Nat) (x : RcCh) : (State.setRc s c x).From q := by
  unfold State.setRc
  repeat' first
    | with_reducible intro _
    | with_reducible assumption
    | with_reducible first | apply State.ite_inv
    | split
    | with_reducible apply State.mk_inv
    | with_reducible rfl
    | with_reducible exact Nat.le_refl _
    | (dsimp only; split)

theorem State.rcGoto_inv {s : State} (h : s.From q) (c st : Nat) : (State.rcGoto s c st).From q := by
  unfold State.rcGoto
  repeat' first
    | with_reducible intro _
    | with_reducible assumption
    | with_reducible first | apply State.ite_inv | apply State.traceChannel_inv | apply State.wr_inv
    | split
    | with_reducible apply State.mk_inv
    | with_reducible rfl
    | with_reducible exact Nat.le_refl _
    | (dsimp only; split)

theorem State.rcRefused_inv {s : State} (h : s.From q)  : (State.rcRefused s).From q := by
  unfold State.rcRefused
  repeat' first
    | with_reducible intro _
    | with_reducible assumption
    | with_reducible first | apply State.ite_inv | apply State.bump_inv
    | split
    | with_reducible apply State.mk_inv
    | with_reducible rfl
    | with_reducible exact Nat.le_refl _
    | (dsimp only; split)

theorem State.rcBins_inv {s : State} (h : s.From q) (c p : Nat) : (State.rcBins s c p).From q := by
  unfold State.rcBins
  repeat' first
    | with_reducible intro _
    | with_reducible assumption
    | with_reducible first | apply State.ite_inv | apply State.wr_inv | apply State.wrB_inv
    | split
    | with_reducible apply State.mk_inv
    | with_reducible rfl
    | with_reducible exact Nat.le_refl _
    | (dsimp only; split)

theorem State.rcEnterFade_inv {s : State} (h : s.From q) (c after : Nat) (keep : Bool) : (State.rcEnterFade s c after keep).From q := by
  unfold State.rcEnterFade
  repeat' first
    | with_reducible intro _
    | with_reducible assumption
    | with_reducible first | apply State.ite_inv | apply State.rcGoto_inv | apply State.setRc_inv
    | split
    | with_reducible apply State.mk_inv
    | with_reducible rfl
    | with_reducible exact Nat.le_refl _
    | (dsimp only; split)

theorem State.rcLearn_inv {s : State} (h : s.From q) (c : Nat) : (State.rcLearn s c).From q := by
  unfold State.rcLearn
  repeat' first
    | with_reducible intro _
    | with_reducible assumption
    | with_reducible first | apply State.ite_inv | apply State.rcGoto_inv | apply State.setRc_inv
    | split
    | with_reducible apply State.mk_inv
    | with_reducible rfl
    | with_reducible exact Nat.le_refl _
    | (dsimp only; split)

theorem State.rcRelearn_inv {s : State} (h : s.From q) (c : Nat) : (State.rcRelearn s c).From q := by
  unfold State.rcRelearn
  repeat' first
    | with_reducible intro _
    | with_reducible assumption
    | with_reducible first | apply State.ite_inv | apply State.bump_inv | apply State.ev_inv | apply State.rcEnterFade_inv
    | split
    | with_reducible apply State.mk_inv
    | with_reducible rfl
    | with_reducible exact Nat.le_refl _
    | (dsimp only; split)

theorem State.rcZero_inv {s : State} (h : s.From q) (c : Nat) : (State.rcZero s c).From q := by
  unfold State.rcZero
  repeat' first
    | with_reducible intro _
    | with_reducible assumption
    | with_reducible first | apply State.ite_inv | apply State.setRc_inv
    | split
    | with_reducible apply State.mk_inv
    | with_reducible rfl
    | with_reducible exact Nat.le_refl _
    | (dsimp only; split)

theorem State.rcToHold_inv {s : State} (h : s.From q) (c : Nat) : (State.rcToHold s c).From q := by
  unfold State.rcToHold
  repeat' first
    | with_reducible intro _
    | with_reducible assumption
    | with_reducible first | apply State.ite_inv | apply State.bump_inv | apply State.ev_inv | apply State.rcGoto_inv | apply State.setRc_inv
    | split
    | with_reducible apply State.mk_inv
    | with_reducible rfl
    | with_reducible exact Nat.le_refl _
    | (dsimp only; split)

theorem State.rcLost_inv {s : State} (h : s.From q) (k : Nat) : (State.rcLost s k).From q := by
  unfold State.rcLost
  repeat' first
    | with_reducible intro _
    | with_reducible assumption
    | with_reducible first | apply State.ite_inv | apply State.forEach_inv | apply State.rcToHold_inv
    | split
    | with_reducible apply State.mk_inv
    | with_reducible rfl
    | with_reducible exact Nat.le_refl _
    | (dsimp only; split)

theorem State.rcFound_inv {s : State} (h : s.From q) (k p : Nat) : (State.rcFound s k p).From q := by
  unfold State.rcFound
  repeat' first
    | with_reducible intro _
    | with_reducible assumption
    | with_reducible first | apply State.ite_inv | apply State.forEach_inv | apply State.rcGoto_inv | apply State.rcRelearn_inv | apply State.setRc_inv
    | split
    | with_reducible apply State.mk_inv
    | with_reducible rfl
    | with_reducible exact Nat.le_refl _
    | (dsimp only; split)

theorem State.rcDrift_inv {s : State} (h : s.From q) (k p : Nat) : (State.rcDrift s k p).From q := by
  unfold State.rcDrift
  repeat' first
    | with_reducible intro _
    | with_reducible assumption
    | with_reducible first | apply State.ite_inv | apply State.forEach_inv | apply State.rcRelearn_inv
    | split
    | with_reducible apply State.mk_inv
    | with_reducible rfl
    | with_reducible exact Nat.le_refl _
    | (dsimp only; split)

theorem State.trackEdge_inv {s : State} (h : s.From q) (k t : Nat) : (State.trackEdge s k t).From q := by
  unfold State.trackEdge
  repeat' first
    | with_reducible intro _
    | with_reducible assumption
    | with_reducible first | apply State.ite_inv | apply State.rcDrift_inv | apply State.rcFound_inv | apply State.rcLost_inv | apply State.setBit_inv | apply State.setTracker_inv
    | split
    | with_reducible apply State.mk_inv
    | with_reducible rfl
    | with_reducible exact Nat.le_refl _
    | (dsimp only; split)

theorem execRcTrackerEdge_inv {s : State} (h : s.From q) (k : Fin 3) (t : Nat) : Keeps q (execRcTrackerEdge k t s) := by
  unfold execRcTrackerEdge
  repeat' first
    | with_reducible intro _
    | with_reducible assumption
    | with_reducible first | apply Keeps.next | apply Keeps.ite | apply State.ite_inv | apply State.setTracker_inv | apply State.trackEdge_inv
    | split
    | with_reducible apply State.mk_inv
    | with_reducible rfl
    | with_reducible exact Nat.le_refl _
    | (dsimp only; split)

theorem execRcTrackerTimeout_inv {s : State} (h : s.From q) (k : Fin 3) : Keeps q (execRcTrackerTimeout k s) := by
  unfold execRcTrackerTimeout
  repeat' first
    | with_reducible intro _
    | with_reducible assumption
    | with_reducible first | apply Keeps.next | apply Keeps.ite | apply State.ite_inv | apply State.rcLost_inv | apply State.setBit_inv | apply State.setTracker_inv
    | split
    | with_reducible apply State.mk_inv
    | with_reducible rfl
    | with_reducible exact Nat.le_refl _
    | (dsimp only; split)

theorem State.binUpdate_inv {s : State} (h : s.From q) (c : Nat) : (State.binUpdate s c).From q := by
  unfold State.binUpdate
  repeat' first
    | with_reducible intro _
    | with_reducible assumption
    | with_reducible first | apply State.ite_inv | apply State.setRc_inv
    | split
    | with_reducible apply State.mk_inv
    | with_reducible rfl
    | with_reducible exact Nat.le_refl _
    | (dsimp only; split)

theorem State.rcCloseBin_inv {s : State} (h : s.From q) (c : Nat) : (State.rcCloseBin s c).From q := by
  unfold State.rcCloseBin
  repeat' first
    | with_reducible intro _
    | with_reducible assumption
    | with_reducible first | apply State.ite_inv | apply State.binUpdate_inv | apply State.setRc_inv
    | split
    | with_reducible apply State.mk_inv
    | with_reducible rfl
    | with_reducible exact Nat.le_refl _
    | (dsimp only; split)

theorem State.rcResidual_inv {s : State} (h : s.From q) (c : Nat) : (State.rcResidual s c).From q := by
  unfold State.rcResidual
  repeat' first
    | with_reducible intro _
    | with_reducible assumption
    | with_reducible first | apply State.ite_inv | apply State.setRc_inv | apply State.wr_inv
    | split
    | with_reducible apply State.mk_inv
    | with_reducible rfl
    | with_reducible exact Nat.le_refl _
    | (dsimp only; split)

theorem State.rcPeriodState_inv {s : State} (h : s.From q) (c p : Nat) (locked : Bool) : (State.rcPeriodState s c p locked).From q := by
  unfold State.rcPeriodState
  repeat' first
    | with_reducible intro _
    | with_reducible assumption
    | with_reducible first | apply State.ite_inv | apply State.ev_inv | apply State.rcEnterFade_inv | apply State.rcGoto_inv | apply State.rcLearn_inv | apply State.rcRelearn_inv | apply State.rcToHold_inv | apply State.setRc_inv
    | split
    | with_reducible apply State.mk_inv
    | with_reducible rfl
    | with_reducible exact Nat.le_refl _
    | (dsimp only; split)

theorem State.rcPeriodEnd_inv {s : State} (h : s.From q) (c : Nat) : (State.rcPeriodEnd s c).From q := by
  unfold State.rcPeriodEnd
  repeat' first
    | with_reducible intro _
    | with_reducible assumption
    | with_reducible first | apply State.ite_inv | apply State.rcBins_inv | apply State.rcCloseBin_inv | apply State.rcPeriodState_inv | apply State.rcResidual_inv | apply State.setRc_inv
    | split
    | with_reducible apply State.mk_inv
    | with_reducible rfl
    | with_reducible exact Nat.le_refl _
    | (dsimp only; split)

theorem execRcPeriodEnd_inv {s : State} (h : s.From q) (c : Fin 16) : Keeps q (execRcPeriodEnd c s) := by
  unfold execRcPeriodEnd
  repeat' first
    | with_reducible intro _
    | with_reducible assumption
    | with_reducible first | apply Keeps.next | apply Keeps.ite | apply State.ite_inv | apply State.rcPeriodEnd_inv
    | split
    | with_reducible apply State.mk_inv
    | with_reducible rfl
    | with_reducible exact Nat.le_refl _
    | (dsimp only; split)

theorem State.rcFadeEnd_inv {s : State} (h : s.From q) (c : Nat) : (State.rcFadeEnd s c).From q := by
  unfold State.rcFadeEnd
  repeat' first
    | with_reducible intro _
    | with_reducible assumption
    | with_reducible first | apply State.ite_inv | apply State.rcGoto_inv | apply State.rcLearn_inv | apply State.rcZero_inv | apply State.setRc_inv
    | split
    | with_reducible apply State.mk_inv
    | with_reducible rfl
    | with_reducible exact Nat.le_refl _
    | (dsimp only; split)

theorem execRcFadeEnd_inv {s : State} (h : s.From q) (c : Fin 16) : Keeps q (execRcFadeEnd c s) := by
  unfold execRcFadeEnd
  repeat' first
    | with_reducible intro _
    | with_reducible assumption
    | with_reducible first | apply Keeps.next | apply Keeps.ite | apply State.ite_inv | apply State.rcFadeEnd_inv
    | split
    | with_reducible apply State.mk_inv
    | with_reducible rfl
    | with_reducible exact Nat.le_refl _
    | (dsimp only; split)

theorem State.rcClear_inv {s : State} (h : s.From q) (c : Nat) : (State.rcClear s c).From q := by
  unfold State.rcClear
  repeat' first
    | with_reducible intro _
    | with_reducible assumption
    | with_reducible first | apply State.ite_inv | apply State.rcEnterFade_inv | apply State.rcZero_inv
    | split
    | with_reducible apply State.mk_inv
    | with_reducible rfl
    | with_reducible exact Nat.le_refl _
    | (dsimp only; split)

theorem execRcClear_inv {s : State} (h : s.From q) (c : Fin 16) : Keeps q (execRcClear c s) := by
  unfold execRcClear
  repeat' first
    | with_reducible intro _
    | with_reducible assumption
    | with_reducible first | apply Keeps.next | apply Keeps.ite | apply State.ite_inv | apply State.rcClear_inv | apply State.reach_inv
    | split
    | with_reducible apply State.mk_inv
    | with_reducible rfl
    | with_reducible exact Nat.le_refl _
    | (dsimp only; split)

theorem execRcFreeze_inv {s : State} (h : s.From q) (c : Fin 16) (on : Bool) : Keeps q (execRcFreeze c on s) := by
  unfold execRcFreeze
  repeat' first
    | with_reducible intro _
    | with_reducible assumption
    | with_reducible first | apply Keeps.next | apply Keeps.ite | apply State.ite_inv | apply State.reach_inv | apply State.wrB_inv
    | split
    | with_reducible apply State.mk_inv
    | with_reducible rfl
    | with_reducible exact Nat.le_refl _
    | (dsimp only; split)

theorem State.rcBound_inv {s : State} (h : s.From q) (c : Nat) : (State.rcBound s c).From q := by
  unfold State.rcBound
  repeat' first
    | with_reducible intro _
    | with_reducible assumption
    | with_reducible first | apply State.ite_inv | apply State.rcGoto_inv
    | split
    | with_reducible apply State.mk_inv
    | with_reducible rfl
    | with_reducible exact Nat.le_refl _
    | (dsimp only; split)

theorem State.rcCfgWrite_inv {s : State} (h : s.From q) (c : Nat) (v : BitVec 32) : (State.rcCfgWrite s c v).From q := by
  unfold State.rcCfgWrite
  repeat' first
    | with_reducible intro _
    | with_reducible assumption
    | with_reducible first | apply State.ite_inv | apply State.rcEnterFade_inv | apply State.rcGoto_inv | apply State.rcRefused_inv | apply State.setReg_inv
    | split
    | with_reducible apply State.mk_inv
    | with_reducible rfl
    | with_reducible exact Nat.le_refl _
    | (dsimp only; split)

theorem execRcChCfgWrite_inv {s : State} (h : s.From q) (c : Fin 16) (v : Word) : Keeps q (execRcChCfgWrite c v s) := by
  unfold execRcChCfgWrite
  repeat' first
    | with_reducible intro _
    | with_reducible assumption
    | with_reducible first | apply Keeps.next | apply Keeps.ite | apply State.ite_inv | apply State.rcCfgWrite_inv | apply State.reach_inv
    | split
    | with_reducible apply State.mk_inv
    | with_reducible rfl
    | with_reducible exact Nat.le_refl _
    | (dsimp only; split)

theorem State.rcSrcWrite_inv {s : State} (h : s.From q) (r : Nat) (v : BitVec 32) : (State.rcSrcWrite s r v).From q := by
  unfold State.rcSrcWrite
  repeat' first
    | with_reducible intro _
    | with_reducible assumption
    | with_reducible first | apply State.ite_inv | apply State.rcRefused_inv | apply State.setReg_inv
    | split
    | with_reducible apply State.mk_inv
    | with_reducible rfl
    | with_reducible exact Nat.le_refl _
    | (dsimp only; split)

theorem execRcSrcEstWrite_inv {s : State} (h : s.From q) (r : Fin 3) (v : Word) : Keeps q (execRcSrcEstWrite r v s) := by
  unfold execRcSrcEstWrite
  repeat' first
    | with_reducible intro _
    | with_reducible assumption
    | with_reducible first | apply Keeps.next | apply Keeps.ite | apply State.ite_inv | apply State.rcSrcWrite_inv | apply State.reach_inv
    | split
    | with_reducible apply State.mk_inv
    | with_reducible rfl
    | with_reducible exact Nat.le_refl _
    | (dsimp only; split)

theorem State.rcTableWrite_inv {s : State} (h : s.From q) (k : Nat) (v : BitVec 32) : (State.rcTableWrite s k v).From q := by
  unfold State.rcTableWrite
  repeat' first
    | with_reducible intro _
    | with_reducible assumption
    | with_reducible first | apply State.ite_inv | apply State.rcRefused_inv | apply State.setRc_inv
    | split
    | with_reducible apply State.mk_inv
    | with_reducible rfl
    | with_reducible exact Nat.le_refl _
    | (dsimp only; split)

theorem execRcTableWrite_inv {s : State} (h : s.From q) (k : Fin 4096) (v : Word) : Keeps q (execRcTableWrite k v s) := by
  unfold execRcTableWrite
  repeat' first
    | with_reducible intro _
    | with_reducible assumption
    | with_reducible first | apply Keeps.next | apply Keeps.ite | apply State.ite_inv | apply State.rcTableWrite_inv | apply State.reach_inv
    | split
    | with_reducible apply State.mk_inv
    | with_reducible rfl
    | with_reducible exact Nat.le_refl _
    | (dsimp only; split)

theorem State.rcGainWrite_inv {s : State} (h : s.From q) (c : Nat) (v : BitVec 32) : (State.rcGainWrite s c v).From q := by
  unfold State.rcGainWrite
  repeat' first
    | with_reducible intro _
    | with_reducible assumption
    | with_reducible first | apply State.ite_inv | apply State.rcRefused_inv | apply State.setReg_inv
    | split
    | with_reducible apply State.mk_inv
    | with_reducible rfl
    | with_reducible exact Nat.le_refl _
    | (dsimp only; split)

theorem State.rcConvWrite_inv {s : State} (h : s.From q) (c : Nat) (v : BitVec 32) : (State.rcConvWrite s c v).From q := by
  unfold State.rcConvWrite
  repeat' first
    | with_reducible intro _
    | with_reducible assumption
    | with_reducible first | apply State.ite_inv | apply State.rcRefused_inv | apply State.setReg_inv
    | split
    | with_reducible apply State.mk_inv
    | with_reducible rfl
    | with_reducible exact Nat.le_refl _
    | (dsimp only; split)

theorem State.rcFence_inv {s : State} (h : s.From q) (c : Nat) : (State.rcFence s c).From q := by
  unfold State.rcFence
  repeat' first
    | with_reducible intro _
    | with_reducible assumption
    | with_reducible first | apply State.ite_inv | apply State.rcGoto_inv | apply State.rcZero_inv
    | split
    | with_reducible apply State.mk_inv
    | with_reducible rfl
    | with_reducible exact Nat.le_refl _
    | (dsimp only; split)

end Sys2Proof.Machine
end

