-- ==== Sys2Proof/Laws/InvDecim.lean ====
section
/-!
SUPPORT. Laws/InvDecim.lean: the operations of Machine/Decim.lean keep the invariant of Safety.lean.
-/

namespace Sys2Proof.Machine

-- one theorem after the other: the package as one text then needs fewer threads
set_option Elab.async false

open Sys2Proof

variable {q : State}

theorem State.setPath_inv {s : State} (h : s.From q) (k : Nat) (p : PathSt) : (State.setPath s k p).From q := by
  unfold State.setPath
  repeat' first
    | with_reducible intro _
    | with_reducible assumption
    | with_reducible first | apply State.ite_inv
    | split
    | with_reducible apply State.mk_inv
    | with_reducible rfl
    | with_reducible exact Nat.le_refl _
    | (dsimp only; split)

theorem State.setThr_inv {s : State} (h : s.From q) (u : Nat) (x : ThrSt) : (State.setThr s u x).From q := by
  unfold State.setThr
  repeat' first
    | with_reducible intro _
    | with_reducible assumption
    | with_reducible first | apply State.ite_inv
    | split
    | with_reducible apply State.mk_inv
    | with_reducible rfl
    | with_reducible exact Nat.le_refl _
    | (dsimp only; split)

theorem State.pathSuppress_inv {s : State} (h : s.From q) (k st : Nat) : (State.pathSuppress s k st).From q := by
  unfold State.pathSuppress
  repeat' first
    | with_reducible intro _
    | with_reducible assumption
    | with_reducible first | apply State.ite_inv | apply State.forEach_inv | apply State.setThr_inv | apply State.wr_inv
    | split
    | with_reducible apply State.mk_inv
    | with_reducible rfl
    | with_reducible exact Nat.le_refl _
    | (dsimp only; split)

theorem State.pathRemain_inv {s : State} (h : s.From q) (k n : Nat) : (State.pathRemain s k n).From q := by
  unfold State.pathRemain
  repeat' first
    | with_reducible intro _
    | with_reducible assumption
    | with_reducible first | apply State.ite_inv | apply State.setPath_inv | apply State.wr_inv
    | split
    | with_reducible apply State.mk_inv
    | with_reducible rfl
    | with_reducible exact Nat.le_refl _
    | (dsimp only; split)

theorem State.pathSettle_inv {s : State} (h : s.From q) (k : Nat) : (State.pathSettle s k).From q := by
  unfold State.pathSettle
  repeat' first
    | with_reducible intro _
    | with_reducible assumption
    | with_reducible first | apply State.ite_inv | apply State.bump_inv | apply State.pathRemain_inv | apply State.pathSuppress_inv
    | split
    | with_reducible apply State.mk_inv
    | with_reducible rfl
    | with_reducible exact Nat.le_refl _
    | (dsimp only; split)

theorem State.settleAll_inv {s : State} (h : s.From q)  : (State.settleAll s).From q := by
  unfold State.settleAll
  repeat' first
    | with_reducible intro _
    | with_reducible assumption
    | with_reducible first | apply State.ite_inv | apply State.forAll_inv | apply State.pathSettle_inv
    | split
    | with_reducible apply State.mk_inv
    | with_reducible rfl
    | with_reducible exact Nat.le_refl _
    | (dsimp only; split)

theorem State.pathSettled_inv {s : State} (h : s.From q) (k : Nat) : (State.pathSettled s k).From q := by
  unfold State.pathSettled
  repeat' first
    | with_reducible intro _
    | with_reducible assumption
    | with_reducible first | apply State.ite_inv | apply State.ev_inv | apply State.wr_inv
    | split
    | with_reducible apply State.mk_inv
    | with_reducible rfl
    | with_reducible exact Nat.le_refl _
    | (dsimp only; split)

theorem execDecimSettled_inv {s : State} (h : s.From q) (k : Fin 36) : Keeps q (execDecimSettled k s) := by
  unfold execDecimSettled
  repeat' first
    | with_reducible intro _
    | with_reducible assumption
    | with_reducible first | apply Keeps.next | apply Keeps.ite | apply State.ite_inv | apply State.pathSettled_inv
    | split
    | with_reducible apply State.mk_inv
    | with_reducible rfl
    | with_reducible exact Nat.le_refl _
    | (dsimp only; split)

theorem State.decimMode_inv {s : State} (h : s.From q) (i old : Nat) : (State.decimMode s i old).From q := by
  unfold State.decimMode
  repeat' first
    | with_reducible intro _
    | with_reducible assumption
    | with_reducible first | apply State.ite_inv | apply State.forAll_inv | apply State.pathRemain_inv | apply State.pathSettle_inv | apply State.pathSuppress_inv
    | split
    | with_reducible apply State.mk_inv
    | with_reducible rfl
    | with_reducible exact Nat.le_refl _
    | (dsimp only; split)

theorem State.decimIn_inv {s : State} (h : s.From q) (i : Nat) (y : Int) (exceeds : Bool) : (State.decimIn s i y exceeds).From q := by
  unfold State.decimIn
  repeat' first
    | with_reducible intro _
    | with_reducible assumption
    | with_reducible first | apply State.ite_inv | apply State.forAll_inv | apply State.setPath_inv
    | split
    | with_reducible apply State.mk_inv
    | with_reducible rfl
    | with_reducible exact Nat.le_refl _
    | (dsimp only; split)

theorem State.thrEvaluate_inv {s : State} (h : s.From q) (u : Nat) (x : Int) (w : ThrSt) : (State.thrEvaluate s u x w).From q := by
  unfold State.thrEvaluate
  repeat' first
    | with_reducible intro _
    | with_reducible assumption
    | with_reducible first | apply State.ite_inv | apply State.bump_inv | apply State.ev_inv | apply State.raise_inv | apply State.when_inv | apply State.wr_inv
    | split
    | with_reducible apply State.mk_inv
    | with_reducible rfl
    | with_reducible exact Nat.le_refl _
    | (dsimp only; split)

theorem State.thrSample_inv {s : State} (h : s.From q) (u : Nat) (x : Int) : (State.thrSample s u x).From q := by
  unfold State.thrSample
  repeat' first
    | with_reducible intro _
    | with_reducible assumption
    | with_reducible first | apply State.ite_inv | apply State.peak_inv | apply State.setThr_inv | apply State.thrEvaluate_inv
    | split
    | with_reducible apply State.mk_inv
    | with_reducible rfl
    | with_reducible exact Nat.le_refl _
    | (dsimp only; split)

theorem State.thrWrite_inv {s : State} (h : s.From q) (u r : Nat) (v : BitVec 32) : (State.thrWrite s u r v).From q := by
  unfold State.thrWrite
  repeat' first
    | with_reducible intro _
    | with_reducible assumption
    | with_reducible first | apply State.ite_inv | apply State.bump_inv | apply State.setReg_inv | apply State.setThr_inv | apply State.wr_inv
    | split
    | with_reducible apply State.mk_inv
    | with_reducible rfl
    | with_reducible exact Nat.le_refl _
    | (dsimp only; split)

theorem execThrCfgWrite_inv {s : State} (h : s.From q) (u : Fin 16) (r : Fin 3) (v : Word) : Keeps q (execThrCfgWrite u r v s) := by
  unfold execThrCfgWrite
  repeat' first
    | with_reducible intro _
    | with_reducible assumption
    | with_reducible first | apply Keeps.next | apply Keeps.ite | apply State.ite_inv | apply State.reach_inv | apply State.thrWrite_inv
    | split
    | with_reducible apply State.mk_inv
    | with_reducible rfl
    | with_reducible exact Nat.le_refl _
    | (dsimp only; split)

theorem State.pathOutput_inv {s : State} (h : s.From q) (k : Nat) : (State.pathOutput s k).From q := by
  unfold State.pathOutput
  repeat' first
    | with_reducible intro _
    | with_reducible assumption
    | with_reducible first | apply State.ite_inv | apply State.bump_inv | apply State.ev_inv | apply State.forEach_inv | apply State.pathRemain_inv | apply State.pathSettled_inv | apply State.setPath_inv | apply State.thrSample_inv | apply State.wrB_inv | apply State.wrI_inv
    | split
    | with_reducible apply State.mk_inv
    | with_reducible rfl
    | with_reducible exact Nat.le_refl _
    | (dsimp only; split)

theorem execDecimOutputSample_inv {s : State} (h : s.From q)  : Keeps q (execDecimOutputSample s) := by
  unfold execDecimOutputSample
  repeat' first
    | with_reducible intro _
    | with_reducible assumption
    | with_reducible first | apply Keeps.next | apply Keeps.ite | apply State.ite_inv | apply State.forAll_inv | apply State.pathOutput_inv
    | split
    | with_reducible apply State.mk_inv
    | with_reducible rfl
    | with_reducible exact Nat.le_refl _
    | (dsimp only; split)

theorem State.decimFrame_inv {s : State} (h : s.From q) (f4 : Bool) : (State.decimFrame s f4).From q := by
  unfold State.decimFrame
  repeat' first
    | with_reducible intro _
    | with_reducible assumption
    | with_reducible first | apply State.ite_inv | apply State.forAll_inv | apply State.setPath_inv
    | split
    | with_reducible apply State.mk_inv
    | with_reducible rfl
    | with_reducible exact Nat.le_refl _
    | (dsimp only; split)

theorem State.setRatio_inv {s : State} (h : s.From q) (r : Nat) : (State.setRatio s r).From q := by
  unfold State.setRatio
  repeat' first
    | with_reducible intro _
    | with_reducible assumption
    | with_reducible first | apply State.ite_inv | apply State.wr_inv
    | split
    | with_reducible apply State.mk_inv
    | with_reducible rfl
    | with_reducible exact Nat.le_refl _
    | (dsimp only; split)

theorem State.trackerAcquire_inv {s : State} (h : s.From q) (period : Nat) : (State.trackerAcquire s period).From q := by
  unfold State.trackerAcquire
  repeat' first
    | with_reducible intro _
    | with_reducible assumption
    | with_reducible first | apply State.ite_inv | apply State.forAll_inv | apply State.setPath_inv | apply State.setRatio_inv | apply State.settleAll_inv | apply State.trackerIdle_inv | apply State.wr_inv
    | split
    | with_reducible apply State.mk_inv
    | with_reducible rfl
    | with_reducible exact Nat.le_refl _
    | (dsimp only; split)

theorem execRatioTrackerTick_inv {s : State} (h : s.From q) (err : Int) : Keeps q (execRatioTrackerTick err s) := by
  unfold execRatioTrackerTick
  repeat' first
    | with_reducible intro _
    | with_reducible assumption
    | with_reducible first | apply Keeps.next | apply Keeps.ite | apply State.ite_inv | apply State.fst_ite_inv | apply State.snd_ite_inv | apply State.ev_inv | apply State.peak_inv | apply State.setRatio_inv | apply State.trackerAcquire_inv | apply State.wr_inv | apply State.wrI_inv
    | split
    | with_reducible apply State.mk_inv
    | with_reducible rfl
    | with_reducible exact Nat.le_refl _
    | (dsimp only; split)

theorem State.decimClear_inv {s : State} (h : s.From q)  : (State.decimClear s).From q := by
  unfold State.decimClear
  repeat' first
    | with_reducible intro _
    | with_reducible assumption
    | with_reducible first | apply State.ite_inv | apply State.forAll_inv | apply State.setPath_inv
    | split
    | with_reducible apply State.mk_inv
    | with_reducible rfl
    | with_reducible exact Nat.le_refl _
    | (dsimp only; split)

theorem State.decimStart_inv {s : State} (h : s.From q)  : (State.decimStart s).From q := by
  unfold State.decimStart
  repeat' first
    | with_reducible intro _
    | with_reducible assumption
    | with_reducible first | apply State.ite_inv | apply State.forAll_inv | apply State.settleAll_inv | apply State.trackerAcquire_inv | apply State.trackerIdle_inv | apply State.wr_inv
    | split
    | with_reducible apply State.mk_inv
    | with_reducible rfl
    | with_reducible exact Nat.le_refl _
    | (dsimp only; split)

theorem State.decimRequest_inv {s : State} (h : s.From q) (j : Nat) : (State.decimRequest s j).From q := by
  unfold State.decimRequest
  repeat' first
    | with_reducible intro _
    | with_reducible assumption
    | with_reducible first | apply State.ite_inv
    | split
    | with_reducible apply State.mk_inv
    | with_reducible rfl
    | with_reducible exact Nat.le_refl _
    | (dsimp only; split)

theorem execDecimReset_inv {s : State} (h : s.From q)  : Keeps q (execDecimReset s) := by
  unfold execDecimReset
  repeat' first
    | with_reducible intro _
    | with_reducible assumption
    | with_reducible first | apply Keeps.next | apply Keeps.ite | apply State.ite_inv | apply State.bump_inv | apply State.decimClear_inv | apply State.ev_inv | apply State.setReg_inv | apply State.settleAll_inv
    | split
    | with_reducible apply State.mk_inv
    | with_reducible rfl
    | with_reducible exact Nat.le_refl _
    | (dsimp only; split)

theorem State.auxPathWrite_inv {s : State} (h : s.From q) (k : Nat) (v : BitVec 32) : (State.auxPathWrite s k v).From q := by
  unfold State.auxPathWrite
  repeat' first
    | with_reducible intro _
    | with_reducible assumption
    | with_reducible first | apply State.ite_inv | apply State.bump_inv | apply State.pathRemain_inv | apply State.pathSettle_inv | apply State.pathSuppress_inv | apply State.setPath_inv | apply State.setReg_inv
    | split
    | with_reducible apply State.mk_inv
    | with_reducible rfl
    | with_reducible exact Nat.le_refl _
    | (dsimp only; split)

theorem execAuxPathCfgWrite_inv {s : State} (h : s.From q) (k : Fin 4) (v : Word) : Keeps q (execAuxPathCfgWrite k v s) := by
  unfold execAuxPathCfgWrite
  repeat' first
    | with_reducible intro _
    | with_reducible assumption
    | with_reducible first | apply Keeps.next | apply Keeps.ite | apply State.ite_inv | apply State.auxPathWrite_inv | apply State.reach_inv
    | split
    | with_reducible apply State.mk_inv
    | with_reducible rfl
    | with_reducible exact Nat.le_refl _
    | (dsimp only; split)

end Sys2Proof.Machine
end

