-- ==== Sys2Proof/Laws/InvSense.lean ====
section
/-!
SUPPORT. Laws/InvSense.lean: the operations of Machine/Sense.lean keep the invariant of Safety.lean.
-/

namespace Sys2Proof.Machine

-- one theorem after the other: the package as one text then needs fewer threads
set_option Elab.async false

open Sys2Proof

variable {q : State}

theorem State.setSin_inv {s : State} (h : s.From q) (k : Nat) (x : SenseSt) : (State.setSin s k x).From q := by
  unfold State.setSin
  repeat' first
    | with_reducible intro _
    | with_reducible assumption
    | with_reducible first | apply State.ite_inv
    | split
    | with_reducible apply State.mk_inv
    | with_reducible rfl
    | with_reducible exact Nat.le_refl _
    | (dsimp only; split)

theorem State.setSenseMode_inv {s : State} (h : s.From q) (k m : Nat) : (State.setSenseMode s k m).From q := by
  unfold State.setSenseMode
  repeat' first
    | with_reducible intro _
    | with_reducible assumption
    | with_reducible first | apply State.ite_inv | apply State.decimMode_inv | apply State.wr_inv
    | split
    | with_reducible apply State.mk_inv
    | with_reducible rfl
    | with_reducible exact Nat.le_refl _
    | (dsimp only; split)

theorem State.senseDeliver_inv {s : State} (h : s.From q) (k : Nat) (value y : Int) (exceeds : Bool) : (State.senseDeliver s k value y exceeds).From q := by
  unfold State.senseDeliver
  repeat' first
    | with_reducible intro _
    | with_reducible assumption
    | with_reducible first | apply State.ite_inv | apply State.decimIn_inv | apply State.setSin_inv
    | split
    | with_reducible apply State.mk_inv
    | with_reducible rfl
    | with_reducible exact Nat.le_refl _
    | (dsimp only; split)

theorem State.sliceFault_inv {s : State} (h : s.From q) (k : Nat) (h : Bool) : (State.sliceFault s k h).From q := by
  unfold State.sliceFault
  repeat' first
    | with_reducible intro _
    | with_reducible assumption
    | with_reducible first | apply State.ite_inv | apply State.ev_inv | apply State.raise_inv | apply State.setSenseMode_inv | apply State.setSin_inv
    | split
    | with_reducible apply State.mk_inv
    | with_reducible rfl
    | with_reducible exact Nat.le_refl _
    | (dsimp only; split)

theorem execSliceFault_inv {s : State} (h : s.From q) (k : Fin 32) (slice : Bool) : Keeps q (execSliceFault k slice s) := by
  unfold execSliceFault
  repeat' first
    | with_reducible intro _
    | with_reducible assumption
    | with_reducible first | apply Keeps.next | apply Keeps.ite | apply State.ite_inv | apply State.sliceFault_inv
    | split
    | with_reducible apply State.mk_inv
    | with_reducible rfl
    | with_reducible exact Nat.le_refl _
    | (dsimp only; split)

theorem State.overCount_inv {s : State} (h : s.From q) (k : Nat) (exceeds : Bool) : (State.overCount s k exceeds).From q := by
  unfold State.overCount
  repeat' first
    | with_reducible intro _
    | with_reducible assumption
    | with_reducible first | apply State.ite_inv | apply State.raise_inv | apply State.setSin_inv | apply State.wr_inv
    | split
    | with_reducible apply State.mk_inv
    | with_reducible rfl
    | with_reducible exact Nat.le_refl _
    | (dsimp only; split)

theorem State.bgSample_inv {s : State} (h : s.From q) (k : Nat) (h : Bool) (raw y : Int) : (State.bgSample s k h raw y).From q := by
  unfold State.bgSample
  repeat' first
    | with_reducible intro _
    | with_reducible assumption
    | with_reducible first | apply State.ite_inv | apply State.setSin_inv
    | split
    | with_reducible apply State.mk_inv
    | with_reducible rfl
    | with_reducible exact Nat.le_refl _
    | (dsimp only; split)

theorem State.bgSkip_inv {s : State} (h : s.From q) (k : Nat) : (State.bgSkip s k).From q := by
  unfold State.bgSkip
  repeat' first
    | with_reducible intro _
    | with_reducible assumption
    | with_reducible first | apply State.ite_inv | apply State.setSin_inv
    | split
    | with_reducible apply State.mk_inv
    | with_reducible rfl
    | with_reducible exact Nat.le_refl _
    | (dsimp only; split)

theorem State.senseSample_inv {s : State} (h : s.From q) (k : Nat) (h : Bool) (raw : BitVec 16) (chop linkOk : Bool) : (State.senseSample s k h raw chop linkOk).From q := by
  unfold State.senseSample
  repeat' first
    | with_reducible intro _
    | with_reducible assumption
    | with_reducible first | apply State.ite_inv | apply State.bgSample_inv | apply State.bgSkip_inv | apply State.bump_inv | apply State.ev_inv | apply State.overCount_inv | apply State.peak_inv | apply State.raise_inv | apply State.senseDeliver_inv | apply State.wr_inv
    | split
    | with_reducible apply State.mk_inv
    | with_reducible rfl
    | with_reducible exact Nat.le_refl _
    | (dsimp only; split)

theorem execSenseSample_inv {s : State} (h : s.From q) (k : Fin 32) (slice : Bool) (raw : BitVec 16) (chop linkOk : Bool) : Keeps q (execSenseSample k slice raw chop linkOk s) := by
  unfold execSenseSample
  repeat' first
    | with_reducible intro _
    | with_reducible assumption
    | with_reducible first | apply Keeps.next | apply Keeps.ite | apply State.ite_inv | apply State.senseSample_inv
    | split
    | with_reducible apply State.mk_inv
    | with_reducible rfl
    | with_reducible exact Nat.le_refl _
    | (dsimp only; split)

theorem State.driftUpdate_inv {s : State} (h : s.From q) (k : Nat) (before : List Bool) : (State.driftUpdate s k before).From q := by
  unfold State.driftUpdate
  repeat' first
    | with_reducible intro _
    | with_reducible assumption
    | with_reducible first | apply State.ite_inv | apply State.ev_inv | apply State.wr_inv
    | split
    | with_reducible apply State.mk_inv
    | with_reducible rfl
    | with_reducible exact Nat.le_refl _
    | (dsimp only; split)

theorem State.bgOffset_inv {s : State} (h : s.From q) (k : Nat) (h : Bool) (n : Nat) (sum : Int) : (State.bgOffset s k h n sum).From q := by
  unfold State.bgOffset
  repeat' first
    | with_reducible intro _
    | with_reducible assumption
    | with_reducible first | apply State.ite_inv | apply State.sliceFault_inv | apply State.wrI_inv
    | split
    | with_reducible apply State.mk_inv
    | with_reducible rfl
    | with_reducible exact Nat.le_refl _
    | (dsimp only; split)

theorem State.bgGain_inv {s : State} (h : s.From q) (k : Nat) (b : BgSt) : (State.bgGain s k b).From q := by
  unfold State.bgGain
  repeat' first
    | with_reducible intro _
    | with_reducible assumption
    | with_reducible first | apply State.ite_inv | apply State.sliceFault_inv | apply State.wrI_inv
    | split
    | with_reducible apply State.mk_inv
    | with_reducible rfl
    | with_reducible exact Nat.le_refl _
    | (dsimp only; split)

theorem State.bgSkew_inv {s : State} (h : s.From q) (k : Nat) (b : BgSt) : (State.bgSkew s k b).From q := by
  unfold State.bgSkew
  repeat' first
    | with_reducible intro _
    | with_reducible assumption
    | with_reducible first | apply State.ite_inv | apply State.sliceFault_inv | apply State.wrI_inv
    | split
    | with_reducible apply State.mk_inv
    | with_reducible rfl
    | with_reducible exact Nat.le_refl _
    | (dsimp only; split)

theorem State.bgEnd_inv {s : State} (h : s.From q) (k : Nat) : (State.bgEnd s k).From q := by
  unfold State.bgEnd
  repeat' first
    | with_reducible intro _
    | with_reducible assumption
    | with_reducible first | apply State.ite_inv | apply State.bgGain_inv | apply State.bgOffset_inv | apply State.bgSkew_inv | apply State.driftUpdate_inv | apply State.setSin_inv
    | split
    | with_reducible apply State.mk_inv
    | with_reducible rfl
    | with_reducible exact Nat.le_refl _
    | (dsimp only; split)

theorem execBgWindowEnd_inv {s : State} (h : s.From q) (k : Fin 32) : Keeps q (execBgWindowEnd k s) := by
  unfold execBgWindowEnd
  repeat' first
    | with_reducible intro _
    | with_reducible assumption
    | with_reducible first | apply Keeps.next | apply Keeps.ite | apply State.ite_inv | apply State.bgEnd_inv
    | split
    | with_reducible apply State.mk_inv
    | with_reducible rfl
    | with_reducible exact Nat.le_refl _
    | (dsimp only; split)

theorem State.bgFreeze_inv {s : State} (h : s.From q) (on : Bool) : (State.bgFreeze s on).From q := by
  unfold State.bgFreeze
  repeat' first
    | with_reducible intro _
    | with_reducible assumption
    | with_reducible first | apply State.ite_inv | apply State.forAll_inv | apply State.setSin_inv | apply State.wrB_inv
    | split
    | with_reducible apply State.mk_inv
    | with_reducible rfl
    | with_reducible exact Nat.le_refl _
    | (dsimp only; split)

theorem execBgFreezeWrite_inv {s : State} (h : s.From q) (on : Bool) : Keeps q (execBgFreezeWrite on s) := by
  unfold execBgFreezeWrite
  repeat' first
    | with_reducible intro _
    | with_reducible assumption
    | with_reducible first | apply Keeps.next | apply Keeps.ite | apply State.ite_inv | apply State.bgFreeze_inv | apply State.reach_inv
    | split
    | with_reducible apply State.mk_inv
    | with_reducible rfl
    | with_reducible exact Nat.le_refl _
    | (dsimp only; split)

theorem State.calInput_inv {s : State} (h : s.From q) (k : Nat) : (State.calInput s k).From q := by
  unfold State.calInput
  repeat' first
    | with_reducible intro _
    | with_reducible assumption
    | with_reducible first | apply State.ite_inv | apply State.setSenseMode_inv | apply State.setSin_inv
    | split
    | with_reducible apply State.mk_inv
    | with_reducible rfl
    | with_reducible exact Nat.le_refl _
    | (dsimp only; split)

theorem State.calChannel_inv {s : State} (h : s.From q) (c : Nat) : (State.calChannel s c).From q := by
  unfold State.calChannel
  repeat' first
    | with_reducible intro _
    | with_reducible assumption
    | with_reducible first | apply State.ite_inv | apply State.calInput_inv | apply State.setBit_inv | apply State.wr_inv
    | split
    | with_reducible apply State.mk_inv
    | with_reducible rfl
    | with_reducible exact Nat.le_refl _
    | (dsimp only; split)

theorem State.senseCal_inv {s : State} (h : s.From q) (mask : BitVec 16) : (State.senseCal s mask).From q := by
  unfold State.senseCal
  repeat' first
    | with_reducible intro _
    | with_reducible assumption
    | with_reducible first | apply State.ite_inv | apply State.bump_inv | apply State.calChannel_inv | apply State.ev_inv | apply State.forAll_inv | apply State.forEach_inv
    | split
    | with_reducible apply State.mk_inv
    | with_reducible rfl
    | with_reducible exact Nat.le_refl _
    | (dsimp only; split)

theorem execSenseBootCalStart_inv {s : State} (h : s.From q)  : Keeps q (execSenseBootCalStart s) := by
  unfold execSenseBootCalStart
  repeat' first
    | with_reducible intro _
    | with_reducible assumption
    | with_reducible first | apply Keeps.next | apply Keeps.ite | apply State.ite_inv | apply State.calInput_inv | apply State.forAll_inv | apply State.wr_inv
    | split
    | with_reducible apply State.mk_inv
    | with_reducible rfl
    | with_reducible exact Nat.le_refl _
    | (dsimp only; split)

theorem State.calSettle_inv {s : State} (h : s.From q)  : (State.calSettle s).From q := by
  unfold State.calSettle
  repeat' first
    | with_reducible intro _
    | with_reducible assumption
    | with_reducible first | apply State.ite_inv | apply State.forAll_inv | apply State.setBit_inv | apply State.wrB_inv
    | split
    | with_reducible apply State.mk_inv
    | with_reducible rfl
    | with_reducible exact Nat.le_refl _
    | (dsimp only; split)

theorem State.calAbandon_inv {s : State} (h : s.From q) (c : Nat) : (State.calAbandon s c).From q := by
  unfold State.calAbandon
  repeat' first
    | with_reducible intro _
    | with_reducible assumption
    | with_reducible first | apply State.ite_inv | apply State.calSettle_inv | apply State.setSenseMode_inv
    | split
    | with_reducible apply State.mk_inv
    | with_reducible rfl
    | with_reducible exact Nat.le_refl _
    | (dsimp only; split)

theorem State.calResult_inv {s : State} (h : s.From q) (boot : Bool) (r : CalResult) : (State.calResult s boot r).From q := by
  unfold State.calResult
  repeat' first
    | with_reducible intro _
    | with_reducible assumption
    | with_reducible first | apply State.ite_inv | apply State.driftUpdate_inv | apply State.ev_inv | apply State.raise_inv | apply State.setSenseMode_inv | apply State.setSin_inv | apply State.wrI_inv
    | split
    | with_reducible apply State.mk_inv
    | with_reducible rfl
    | with_reducible exact Nat.le_refl _
    | (dsimp only; split)

theorem State.calResults_inv {s : State} (h : s.From q) (rs : List CalResult) : (State.calResults s rs).From q := by
  unfold State.calResults
  repeat' first
    | with_reducible intro _
    | with_reducible assumption
    | with_reducible first | apply State.ite_inv | apply State.calResult_inv | apply State.calSettle_inv | apply State.forEach_inv | apply State.wr_inv
    | split
    | with_reducible apply State.mk_inv
    | with_reducible rfl
    | with_reducible exact Nat.le_refl _
    | (dsimp only; split)

end Sys2Proof.Machine
end

