-- ==== Sys2Proof/Laws/InvLoopCfg.lean ====
section
/-!
SUPPORT. Laws/InvLoopCfg.lean: the operations of Machine/LoopCfg.lean keep the invariant of Safety.lean.
-/

namespace Sys2Proof.Machine

-- one theorem after the other: the package as one text then needs fewer threads
set_option Elab.async false

open Sys2Proof

variable {q : State}

theorem State.setLch_inv {s : State} (h : s.From q) (c : Nat) (x : LoopCh) : (State.setLch s c x).From q := by
  unfold State.setLch
  repeat' first
    | with_reducible intro _
    | with_reducible assumption
    | with_reducible first | apply State.ite_inv
    | split
    | with_reducible apply State.mk_inv
    | with_reducible rfl
    | with_reducible exact Nat.le_refl _
    | (dsimp only; split)

theorem State.setOut_inv {s : State} (h : s.From q) (o : Nat) (x : OutSt) : (State.setOut s o x).From q := by
  unfold State.setOut
  repeat' first
    | with_reducible intro _
    | with_reducible assumption
    | with_reducible first | apply State.ite_inv
    | split
    | with_reducible apply State.mk_inv
    | with_reducible rfl
    | with_reducible exact Nat.le_refl _
    | (dsimp only; split)

theorem State.setBank_inv {s : State} (h : s.From q) (c b : Nat) : (State.setBank s c b).From q := by
  unfold State.setBank
  repeat' first
    | with_reducible intro _
    | with_reducible assumption
    | with_reducible first | apply State.ite_inv | apply State.setBit_inv | apply State.wr_inv
    | split
    | with_reducible apply State.mk_inv
    | with_reducible rfl
    | with_reducible exact Nat.le_refl _
    | (dsimp only; split)

theorem State.refdlyFa_inv {s : State} (h : s.From q)  : (State.refdlyFa s).From q := by
  unfold State.refdlyFa
  repeat' first
    | with_reducible intro _
    | with_reducible assumption
    | with_reducible first | apply State.ite_inv | apply State.forAll_inv | apply State.wr_inv
    | split
    | with_reducible apply State.mk_inv
    | with_reducible rfl
    | with_reducible exact Nat.le_refl _
    | (dsimp only; split)

theorem State.loopBind_inv {s : State} (h : s.From q) (c : Nat) : (State.loopBind s c).From q := by
  unfold State.loopBind
  repeat' first
    | with_reducible intro _
    | with_reducible assumption
    | with_reducible first | apply State.ite_inv | apply State.setBank_inv | apply State.setLch_inv | apply State.wr_inv
    | split
    | with_reducible apply State.mk_inv
    | with_reducible rfl
    | with_reducible exact Nat.le_refl _
    | (dsimp only; split)

theorem State.loopDegrade_inv {s : State} (h : s.From q) (survivor : Nat) : (State.loopDegrade s survivor).From q := by
  unfold State.loopDegrade
  repeat' first
    | with_reducible intro _
    | with_reducible assumption
    | with_reducible first | apply State.ite_inv | apply State.setBank_inv | apply State.setLch_inv | apply State.wr_inv
    | split
    | with_reducible apply State.mk_inv
    | with_reducible rfl
    | with_reducible exact Nat.le_refl _
    | (dsimp only; split)

theorem State.loopRefused_inv {s : State} (h : s.From q)  : (State.loopRefused s).From q := by
  unfold State.loopRefused
  repeat' first
    | with_reducible intro _
    | with_reducible assumption
    | with_reducible first | apply State.ite_inv | apply State.bump_inv | apply State.ev_inv
    | split
    | with_reducible apply State.mk_inv
    | with_reducible rfl
    | with_reducible exact Nat.le_refl _
    | (dsimp only; split)

theorem State.setBankWord_inv {s : State} (h : s.From q) (c b k : Nat) (v : BitVec 32) : (State.setBankWord s c b k v).From q := by
  unfold State.setBankWord
  repeat' first
    | with_reducible intro _
    | with_reducible assumption
    | with_reducible first | apply State.ite_inv | apply State.setReg_inv
    | split
    | with_reducible apply State.mk_inv
    | with_reducible rfl
    | with_reducible exact Nat.le_refl _
    | (dsimp only; split)

theorem State.bankWrite_inv {s : State} (h : s.From q) (c b k : Nat) (v : BitVec 32) : (State.bankWrite s c b k v).From q := by
  unfold State.bankWrite
  repeat' first
    | with_reducible intro _
    | with_reducible assumption
    | with_reducible first | apply State.ite_inv | apply State.loopRefused_inv | apply State.setBankWord_inv
    | split
    | with_reducible apply State.mk_inv
    | with_reducible rfl
    | with_reducible exact Nat.le_refl _
    | (dsimp only; split)

theorem execBankWrite_inv {s : State} (h : s.From q) (c : Fin 16) (b : Bool) (k : Fin 16) (v : Word) : Keeps q (execBankWrite c b k v s) := by
  unfold execBankWrite
  repeat' first
    | with_reducible intro _
    | with_reducible assumption
    | with_reducible first | apply Keeps.next | apply Keeps.ite | apply State.ite_inv | apply State.bankWrite_inv | apply State.reach_inv
    | split
    | with_reducible apply State.mk_inv
    | with_reducible rfl
    | with_reducible exact Nat.le_refl _
    | (dsimp only; split)

theorem State.fbWrite_inv {s : State} (h : s.From q) (c k : Nat) (slope : Bool) (v : BitVec 32) : (State.fbWrite s c k slope v).From q := by
  unfold State.fbWrite
  repeat' first
    | with_reducible intro _
    | with_reducible assumption
    | with_reducible first | apply State.ite_inv | apply State.loopRefused_inv | apply State.setReg_inv
    | split
    | with_reducible apply State.mk_inv
    | with_reducible rfl
    | with_reducible exact Nat.le_refl _
    | (dsimp only; split)

theorem execFbTableWrite_inv {s : State} (h : s.From q) (c : Fin 16) (k : Fin 64) (slope : Bool) (v : Word) : Keeps q (execFbTableWrite c k slope v s) := by
  unfold execFbTableWrite
  repeat' first
    | with_reducible intro _
    | with_reducible assumption
    | with_reducible first | apply Keeps.next | apply Keeps.ite | apply State.ite_inv | apply State.fbWrite_inv | apply State.reach_inv
    | split
    | with_reducible apply State.mk_inv
    | with_reducible rfl
    | with_reducible exact Nat.le_refl _
    | (dsimp only; split)

theorem State.loopCfgWrite_inv {s : State} (h : s.From q) (c : Nat) (v : BitVec 32) : (State.loopCfgWrite s c v).From q := by
  unfold State.loopCfgWrite
  repeat' first
    | with_reducible intro _
    | with_reducible assumption
    | with_reducible first | apply State.ite_inv | apply State.bump_inv | apply State.setReg_inv
    | split
    | with_reducible apply State.mk_inv
    | with_reducible rfl
    | with_reducible exact Nat.le_refl _
    | (dsimp only; split)

theorem execLoopChCfgWrite_inv {s : State} (h : s.From q) (c : Fin 16) (v : Word) : Keeps q (execLoopChCfgWrite c v s) := by
  unfold execLoopChCfgWrite
  repeat' first
    | with_reducible intro _
    | with_reducible assumption
    | with_reducible first | apply Keeps.next | apply Keeps.ite | apply State.ite_inv | apply State.loopCfgWrite_inv | apply State.reach_inv
    | split
    | with_reducible apply State.mk_inv
    | with_reducible rfl
    | with_reducible exact Nat.le_refl _
    | (dsimp only; split)

theorem State.bankselWrite_inv {s : State} (h : s.From q) (v : Nat) (late : Bool) : (State.bankselWrite s v late).From q := by
  unfold State.bankselWrite
  repeat' first
    | with_reducible intro _
    | with_reducible assumption
    | with_reducible first | apply State.ite_inv | apply State.foldl_inv | apply State.foldl_fst_inv | apply State.foldl_snd_inv | apply State.wr_inv
    | split
    | with_reducible apply State.mk_inv
    | with_reducible rfl
    | with_reducible exact Nat.le_refl _
    | (dsimp only; split)

theorem execBankselWrite_inv {s : State} (h : s.From q) (v : BitVec 4) (late : Bool) : Keeps q (execBankselWrite v late s) := by
  unfold execBankselWrite
  repeat' first
    | with_reducible intro _
    | with_reducible assumption
    | with_reducible first | apply Keeps.next | apply Keeps.ite | apply State.ite_inv | apply State.bankselWrite_inv | apply State.reach_inv
    | split
    | with_reducible apply State.mk_inv
    | with_reducible rfl
    | with_reducible exact Nat.le_refl _
    | (dsimp only; split)

theorem State.swapGroup_inv {s : State} (h : s.From q) (g b : Nat) : (State.swapGroup s g b).From q := by
  unfold State.swapGroup
  repeat' first
    | with_reducible intro _
    | with_reducible assumption
    | with_reducible first | apply State.ite_inv | apply State.bump_inv | apply State.ev_inv | apply State.forEach_inv | apply State.setBank_inv | apply State.setReg_inv
    | split
    | with_reducible apply State.mk_inv
    | with_reducible rfl
    | with_reducible exact Nat.le_refl _
    | (dsimp only; split)

theorem execBankSwap_inv {s : State} (h : s.From q)  : Keeps q (execBankSwap s) := by
  unfold execBankSwap
  repeat' first
    | with_reducible intro _
    | with_reducible assumption
    | with_reducible first | apply Keeps.next | apply Keeps.ite | apply State.ite_inv | apply State.forAll_inv | apply State.swapGroup_inv
    | split
    | with_reducible apply State.mk_inv
    | with_reducible rfl
    | with_reducible exact Nat.le_refl _
    | (dsimp only; split)

theorem execCoefRefetch_inv {s : State} (h : s.From q) (c : Fin 16) : Keeps q (execCoefRefetch c s) := by
  unfold execCoefRefetch
  repeat' first
    | with_reducible intro _
    | with_reducible assumption
    | with_reducible first | apply Keeps.next | apply Keeps.ite | apply State.ite_inv | apply State.ev_inv | apply State.raise_inv
    | split
    | with_reducible apply State.mk_inv
    | with_reducible rfl
    | with_reducible exact Nat.le_refl _
    | (dsimp only; split)

theorem State.loadLoopbank_inv {s : State} (h : s.From q) (b : List (BitVec 8)) : (State.loadLoopbank s b).From q := by
  unfold State.loadLoopbank
  repeat' first
    | with_reducible intro _
    | with_reducible assumption
    | with_reducible first | apply State.ite_inv | apply State.forAll_inv | apply State.setBank_inv | apply State.setBankWord_inv | apply State.setReg_inv
    | split
    | with_reducible apply State.mk_inv
    | with_reducible rfl
    | with_reducible exact Nat.le_refl _
    | (dsimp only; split)

end Sys2Proof.Machine
end

