-- ==== Sys2Proof/Laws/InvOutputs.lean ====
section
/-!
SUPPORT. Laws/InvOutputs.lean: the operations of Machine/Outputs.lean keep the invariant of Safety.lean.
-/

namespace Sys2Proof.Machine

-- one theorem after the other: the package as one text then needs fewer threads
set_option Elab.async false

open Sys2Proof

variable {q : State}

theorem State.setOState_inv {s : State} (h : s.From q) (o st : Nat) : (State.setOState s o st).From q := by
  unfold State.setOState
  repeat' first
    | with_reducible intro _
    | with_reducible assumption
    | with_reducible first | apply State.ite_inv | apply State.wr_inv
    | split
    | with_reducible apply State.mk_inv
    | with_reducible rfl
    | with_reducible exact Nat.le_refl _
    | (dsimp only; split)

theorem State.tripLimWrite_inv {s : State} (h : s.From q) (c v : Nat) : (State.tripLimWrite s c v).From q := by
  unfold State.tripLimWrite
  repeat' first
    | with_reducible intro _
    | with_reducible assumption
    | with_reducible first | apply State.ite_inv | apply State.bump_inv | apply State.ev_inv | apply State.forEach_inv | apply State.wr_inv
    | split
    | with_reducible apply State.mk_inv
    | with_reducible rfl
    | with_reducible exact Nat.le_refl _
    | (dsimp only; split)

theorem execTripLimWrite_inv {s : State} (h : s.From q) (c : Fin 16) (v : BitVec 5) : Keeps q (execTripLimWrite c v s) := by
  unfold execTripLimWrite
  repeat' first
    | with_reducible intro _
    | with_reducible assumption
    | with_reducible first | apply Keeps.next | apply Keeps.ite | apply State.ite_inv | apply State.reach_inv | apply State.tripLimWrite_inv
    | split
    | with_reducible apply State.mk_inv
    | with_reducible rfl
    | with_reducible exact Nat.le_refl _
    | (dsimp only; split)

theorem State.applyOutMap_inv {s : State} (h : s.From q)  : (State.applyOutMap s).From q := by
  unfold State.applyOutMap
  repeat' first
    | with_reducible intro _
    | with_reducible assumption
    | with_reducible first | apply State.ite_inv | apply State.forAll_inv | apply State.forEach_inv | apply State.tripLimWrite_inv | apply State.wr_inv
    | split
    | with_reducible apply State.mk_inv
    | with_reducible rfl
    | with_reducible exact Nat.le_refl _
    | (dsimp only; split)

theorem State.setBridge_inv {s : State} (h : s.From q) (c : Nat) (x : BridgeSt) : (State.setBridge s c x).From q := by
  unfold State.setBridge
  repeat' first
    | with_reducible intro _
    | with_reducible assumption
    | with_reducible first | apply State.ite_inv
    | split
    | with_reducible apply State.mk_inv
    | with_reducible rfl
    | with_reducible exact Nat.le_refl _
    | (dsimp only; split)

theorem State.bridgeOn_inv {s : State} (h : s.From q) (c : Nat) : (State.bridgeOn s c).From q := by
  unfold State.bridgeOn
  repeat' first
    | with_reducible intro _
    | with_reducible assumption
    | with_reducible first | apply State.ite_inv | apply State.setBridge_inv | apply State.wr_inv
    | split
    | with_reducible apply State.mk_inv
    | with_reducible rfl
    | with_reducible exact Nat.le_refl _
    | (dsimp only; split)

theorem State.bridgeOff_inv {s : State} (h : s.From q) (c : Nat) : (State.bridgeOff s c).From q := by
  unfold State.bridgeOff
  repeat' first
    | with_reducible intro _
    | with_reducible assumption
    | with_reducible first | apply State.ite_inv | apply State.wr_inv
    | split
    | with_reducible apply State.mk_inv
    | with_reducible rfl
    | with_reducible exact Nat.le_refl _
    | (dsimp only; split)

theorem State.shedLeg_inv {s : State} (h : s.From q) (c : Nat) (legN : Bool) (i : Nat) : (State.shedLeg s c legN i).From q := by
  unfold State.shedLeg
  repeat' first
    | with_reducible intro _
    | with_reducible assumption
    | with_reducible first | apply State.ite_inv | apply State.setBridge_inv | apply State.wr_inv
    | split
    | with_reducible apply State.mk_inv
    | with_reducible rfl
    | with_reducible exact Nat.le_refl _
    | (dsimp only; split)

theorem execShedFall_inv {s : State} (h : s.From q) (c : Fin 16) (legN : Bool) : Keeps q (execShedFall c legN s) := by
  unfold execShedFall
  repeat' first
    | with_reducible intro _
    | with_reducible assumption
    | with_reducible first | apply Keeps.next | apply Keeps.ite | apply State.ite_inv | apply State.setBridge_inv | apply State.wr_inv
    | split
    | with_reducible apply State.mk_inv
    | with_reducible rfl
    | with_reducible exact Nat.le_refl _
    | (dsimp only; split)

theorem execCellRotate_inv {s : State} (h : s.From q) (c : Fin 16) : Keeps q (execCellRotate c s) := by
  unfold execCellRotate
  repeat' first
    | with_reducible intro _
    | with_reducible assumption
    | with_reducible first | apply Keeps.next | apply Keeps.ite | apply State.ite_inv | apply State.setBridge_inv
    | split
    | with_reducible apply State.mk_inv
    | with_reducible rfl
    | with_reducible exact Nat.le_refl _
    | (dsimp only; split)

theorem State.diagStat_inv {s : State} (h : s.From q)  : (State.diagStat s).From q := by
  unfold State.diagStat
  repeat' first
    | with_reducible intro _
    | with_reducible assumption
    | with_reducible first | apply State.ite_inv | apply State.foldl_inv | apply State.foldl_fst_inv | apply State.foldl_snd_inv | apply State.wr_inv
    | split
    | with_reducible apply State.mk_inv
    | with_reducible rfl
    | with_reducible exact Nat.le_refl _
    | (dsimp only; split)

theorem State.jobDone_inv {s : State} (h : s.From q) (op o code : Nat) : (State.jobDone s op o code).From q := by
  unfold State.jobDone
  repeat' first
    | with_reducible intro _
    | with_reducible assumption
    | with_reducible first | apply State.ite_inv | apply State.complete_inv
    | split
    | with_reducible apply State.mk_inv
    | with_reducible rfl
    | with_reducible exact Nat.le_refl _
    | (dsimp only; split)

theorem State.dcResult_inv {s : State} (h : s.From q) (c code r conf : Nat) : (State.dcResult s c code r conf).From q := by
  unfold State.dcResult
  repeat' first
    | with_reducible intro _
    | with_reducible assumption
    | with_reducible first | apply State.ite_inv | apply State.raise_inv | apply State.wr_inv
    | split
    | with_reducible apply State.mk_inv
    | with_reducible rfl
    | with_reducible exact Nat.le_refl _
    | (dsimp only; split)

theorem State.askCheck_inv {s : State} (h : s.From q) (o : Nat) (chans : List Nat) (commanded : Bool) : (State.askCheck s o chans commanded).From q := by
  unfold State.askCheck
  repeat' first
    | with_reducible intro _
    | with_reducible assumption
    | with_reducible first | apply State.ite_inv | apply State.diagStat_inv | apply State.setOState_inv
    | split
    | with_reducible apply State.mk_inv
    | with_reducible rfl
    | with_reducible exact Nat.le_refl _
    | (dsimp only; split)

theorem State.checkAbort_inv {s : State} (h : s.From q) (o : Nat) : (State.checkAbort s o).From q := by
  unfold State.checkAbort
  repeat' first
    | with_reducible intro _
    | with_reducible assumption
    | with_reducible first | apply State.ite_inv | apply State.bridgeOff_inv | apply State.bump_inv | apply State.dcResult_inv | apply State.diagStat_inv | apply State.forEach_inv | apply State.jobDone_inv
    | split
    | with_reducible apply State.mk_inv
    | with_reducible rfl
    | with_reducible exact Nat.le_refl _
    | (dsimp only; split)

theorem State.setSweep_inv {s : State} (h : s.From q) (o : Nat) (x : Option Sweep) : (State.setSweep s o x).From q := by
  unfold State.setSweep
  repeat' first
    | with_reducible intro _
    | with_reducible assumption
    | with_reducible first | apply State.ite_inv | apply State.diagStat_inv
    | split
    | with_reducible apply State.mk_inv
    | with_reducible rfl
    | with_reducible exact Nat.le_refl _
    | (dsimp only; split)

theorem State.sweepAbort_inv {s : State} (h : s.From q) (o : Nat) : (State.sweepAbort s o).From q := by
  unfold State.sweepAbort
  repeat' first
    | with_reducible intro _
    | with_reducible assumption
    | with_reducible first | apply State.ite_inv | apply State.bump_inv | apply State.ev_inv | apply State.jobDone_inv | apply State.setSweep_inv | apply State.wr_inv
    | split
    | with_reducible apply State.mk_inv
    | with_reducible rfl
    | with_reducible exact Nat.le_refl _
    | (dsimp only; split)

theorem State.sweepFade_inv {s : State} (h : s.From q) (o : Nat) : (State.sweepFade s o).From q := by
  unfold State.sweepFade
  repeat' first
    | with_reducible intro _
    | with_reducible assumption
    | with_reducible first | apply State.ite_inv | apply State.setOut_inv | apply State.sweepAbort_inv
    | split
    | with_reducible apply State.mk_inv
    | with_reducible rfl
    | with_reducible exact Nat.le_refl _
    | (dsimp only; split)

theorem State.enqueue_inv {s : State} (h : s.From q) (o : Nat) (v : Option Nat) : (State.enqueue s o v).From q := by
  unfold State.enqueue
  repeat' first
    | with_reducible intro _
    | with_reducible assumption
    | with_reducible first | apply State.ite_inv | apply State.setOut_inv | apply State.wrB_inv
    | split
    | with_reducible apply State.mk_inv
    | with_reducible rfl
    | with_reducible exact Nat.le_refl _
    | (dsimp only; split)

theorem State.outCellsOff_inv {s : State} (h : s.From q) (o : Nat) : (State.outCellsOff s o).From q := by
  unfold State.outCellsOff
  repeat' first
    | with_reducible intro _
    | with_reducible assumption
    | with_reducible first | apply State.ite_inv | apply State.bridgeOff_inv | apply State.forEach_inv
    | split
    | with_reducible apply State.mk_inv
    | with_reducible rfl
    | with_reducible exact Nat.le_refl _
    | (dsimp only; split)

theorem State.enterCmUp_inv {s : State} (h : s.From q) (o : Nat) : (State.enterCmUp s o).From q := by
  unfold State.enterCmUp
  repeat' first
    | with_reducible intro _
    | with_reducible assumption
    | with_reducible first | apply State.ite_inv | apply State.bridgeOn_inv | apply State.forEach_inv | apply State.setBit_inv | apply State.setOState_inv | apply State.setOut_inv | apply State.wr_inv
    | split
    | with_reducible apply State.mk_inv
    | with_reducible rfl
    | with_reducible exact Nat.le_refl _
    | (dsimp only; split)

theorem State.outStart_inv {s : State} (h : s.From q) (o : Nat) (fresh : Bool) : (State.outStart s o fresh).From q := by
  unfold State.outStart
  repeat' first
    | with_reducible intro _
    | with_reducible assumption
    | with_reducible first | apply State.ite_inv | apply State.askCheck_inv | apply State.enterCmUp_inv | apply State.setOut_inv
    | split
    | with_reducible apply State.mk_inv
    | with_reducible rfl
    | with_reducible exact Nat.le_refl _
    | (dsimp only; split)

theorem State.enterOff_inv {s : State} (h : s.From q) (o : Nat) : (State.enterOff s o).From q := by
  unfold State.enterOff
  repeat' first
    | with_reducible intro _
    | with_reducible assumption
    | with_reducible first | apply State.ite_inv | apply State.ev_inv | apply State.forEach_inv | apply State.outCellsOff_inv | apply State.rcFence_inv | apply State.setOState_inv | apply State.setOut_inv | apply State.wr_inv
    | split
    | with_reducible apply State.mk_inv
    | with_reducible rfl
    | with_reducible exact Nat.le_refl _
    | (dsimp only; split)

theorem State.stampEarly_inv {s : State} (h : s.From q)  : (State.stampEarly s).From q := by
  unfold State.stampEarly
  repeat' first
    | with_reducible intro _
    | with_reducible assumption
    | with_reducible first | apply State.ite_inv
    | split
    | with_reducible apply State.mk_inv
    | with_reducible rfl
    | with_reducible exact Nat.le_refl _
    | (dsimp only; split)

theorem State.gainTowards_inv {s : State} (h : s.From q) (o : Nat) (up : Bool) : (State.gainTowards s o up).From q := by
  unfold State.gainTowards
  repeat' first
    | with_reducible intro _
    | with_reducible assumption
    | with_reducible first | apply State.ite_inv | apply State.setOState_inv | apply State.setOut_inv | apply State.stampEarly_inv
    | split
    | with_reducible apply State.mk_inv
    | with_reducible rfl
    | with_reducible exact Nat.le_refl _
    | (dsimp only; split)

theorem State.outToward_inv {s : State} (h : s.From q) (o : Nat) : (State.outToward s o).From q := by
  unfold State.outToward
  repeat' first
    | with_reducible intro _
    | with_reducible assumption
    | with_reducible first | apply State.ite_inv | apply State.gainTowards_inv | apply State.outStart_inv | apply State.setOState_inv | apply State.setOut_inv
    | split
    | with_reducible apply State.mk_inv
    | with_reducible rfl
    | with_reducible exact Nat.le_refl _
    | (dsimp only; split)

theorem State.enterMuted_inv {s : State} (h : s.From q) (o : Nat) : (State.enterMuted s o).From q := by
  unfold State.enterMuted
  repeat' first
    | with_reducible intro _
    | with_reducible assumption
    | with_reducible first | apply State.ite_inv | apply State.outToward_inv | apply State.setOState_inv | apply State.setOut_inv | apply State.setSweep_inv
    | split
    | with_reducible apply State.mk_inv
    | with_reducible rfl
    | with_reducible exact Nat.le_refl _
    | (dsimp only; split)

theorem State.enterPlaying_inv {s : State} (h : s.From q) (o : Nat) : (State.enterPlaying s o).From q := by
  unfold State.enterPlaying
  repeat' first
    | with_reducible intro _
    | with_reducible assumption
    | with_reducible first | apply State.ite_inv | apply State.ev_inv | apply State.setOState_inv | apply State.setOut_inv
    | split
    | with_reducible apply State.mk_inv
    | with_reducible rfl
    | with_reducible exact Nat.le_refl _
    | (dsimp only; split)

theorem State.retryCheck_inv {s : State} (h : s.From q) (o : Nat) : (State.retryCheck s o).From q := by
  unfold State.retryCheck
  repeat' first
    | with_reducible intro _
    | with_reducible assumption
    | with_reducible first | apply State.ite_inv | apply State.ev_inv | apply State.raise_inv | apply State.setOut_inv
    | split
    | with_reducible apply State.mk_inv
    | with_reducible rfl
    | with_reducible exact Nat.le_refl _
    | (dsimp only; split)

theorem State.outReq_inv {s : State} (h : s.From q) (o v : Nat) : (State.outReq s o v).From q := by
  unfold State.outReq
  repeat' first
    | with_reducible intro _
    | with_reducible assumption
    | with_reducible first | apply State.ite_inv | apply State.enqueue_inv | apply State.enterMuted_inv | apply State.enterOff_inv | apply State.enterPlaying_inv | apply State.ev_inv | apply State.gainTowards_inv | apply State.outToward_inv | apply State.retryCheck_inv | apply State.setOState_inv | apply State.setOut_inv | apply State.sweepFade_inv | apply State.wr_inv
    | split
    | with_reducible apply State.mk_inv
    | with_reducible rfl
    | with_reducible exact Nat.le_refl _
    | (dsimp only; split)

theorem execOutputReqWrite_inv {s : State} (h : s.From q) (o : Fin 16) (v : BitVec 2) : Keeps q (execOutputReqWrite o v s) := by
  unfold execOutputReqWrite
  repeat' first
    | with_reducible intro _
    | with_reducible assumption
    | with_reducible first | apply Keeps.next | apply Keeps.ite | apply State.ite_inv | apply State.outReq_inv | apply State.reach_inv
    | split
    | with_reducible apply State.mk_inv
    | with_reducible rfl
    | with_reducible exact Nat.le_refl _
    | (dsimp only; split)

theorem State.fastoff_inv {s : State} (h : s.From q) (o : Nat) : (State.fastoff s o).From q := by
  unfold State.fastoff
  repeat' first
    | with_reducible intro _
    | with_reducible assumption
    | with_reducible first | apply State.ite_inv | apply State.setOState_inv | apply State.setOut_inv | apply State.sweepAbort_inv
    | split
    | with_reducible apply State.mk_inv
    | with_reducible rfl
    | with_reducible exact Nat.le_refl _
    | (dsimp only; split)

theorem execFastoff_inv {s : State} (h : s.From q) (o : Fin 16) : Keeps q (execFastoff o s) := by
  unfold execFastoff
  repeat' first
    | with_reducible intro _
    | with_reducible assumption
    | with_reducible first | apply Keeps.next | apply Keeps.ite | apply State.ite_inv | apply State.fastoff_inv | apply State.reach_inv
    | split
    | with_reducible apply State.mk_inv
    | with_reducible rfl
    | with_reducible exact Nat.le_refl _
    | (dsimp only; split)

theorem State.outCtrlWrite_inv {s : State} (h : s.From q) (o : Nat) (v : BitVec 32) : (State.outCtrlWrite s o v).From q := by
  unfold State.outCtrlWrite
  repeat' first
    | with_reducible intro _
    | with_reducible assumption
    | with_reducible first | apply State.ite_inv | apply State.fastoff_inv | apply State.outReq_inv
    | split
    | with_reducible apply State.mk_inv
    | with_reducible rfl
    | with_reducible exact Nat.le_refl _
    | (dsimp only; split)

theorem State.takeQueued_inv {s : State} (h : s.From q) (o : Nat) : (State.takeQueued s o).From q := by
  unfold State.takeQueued
  repeat' first
    | with_reducible intro _
    | with_reducible assumption
    | with_reducible first | apply State.ite_inv | apply State.enqueue_inv | apply State.outToward_inv | apply State.wr_inv
    | split
    | with_reducible apply State.mk_inv
    | with_reducible rfl
    | with_reducible exact Nat.le_refl _
    | (dsimp only; split)

theorem State.fastoffDone_inv {s : State} (h : s.From q) (o : Nat) : (State.fastoffDone s o).From q := by
  unfold State.fastoffDone
  repeat' first
    | with_reducible intro _
    | with_reducible assumption
    | with_reducible first | apply State.ite_inv | apply State.enterOff_inv | apply State.takeQueued_inv | apply State.wr_inv
    | split
    | with_reducible apply State.mk_inv
    | with_reducible rfl
    | with_reducible exact Nat.le_refl _
    | (dsimp only; split)

theorem execCmRampDone_inv {s : State} (h : s.From q) (o : Fin 16) : Keeps q (execCmRampDone o s) := by
  unfold execCmRampDone
  repeat' first
    | with_reducible intro _
    | with_reducible assumption
    | with_reducible first | apply Keeps.next | apply Keeps.ite | apply State.ite_inv | apply State.askCheck_inv | apply State.enterMuted_inv | apply State.outCellsOff_inv | apply State.setOut_inv
    | split
    | with_reducible apply State.mk_inv
    | with_reducible rfl
    | with_reducible exact Nat.le_refl _
    | (dsimp only; split)

theorem execOutputZeroCrossing_inv {s : State} (h : s.From q) (o : Fin 16) : Keeps q (execOutputZeroCrossing o s) := by
  unfold execOutputZeroCrossing
  repeat' first
    | with_reducible intro _
    | with_reducible assumption
    | with_reducible first | apply Keeps.next | apply Keeps.ite | apply State.ite_inv | apply State.setOut_inv
    | split
    | with_reducible apply State.mk_inv
    | with_reducible rfl
    | with_reducible exact Nat.le_refl _
    | (dsimp only; split)

theorem execOutputZcTimeout_inv {s : State} (h : s.From q) (o : Fin 16) : Keeps q (execOutputZcTimeout o s) := by
  unfold execOutputZcTimeout
  repeat' first
    | with_reducible intro _
    | with_reducible assumption
    | with_reducible first | apply Keeps.next | apply Keeps.ite | apply State.ite_inv | apply State.ev_inv | apply State.setOut_inv
    | split
    | with_reducible apply State.mk_inv
    | with_reducible rfl
    | with_reducible exact Nat.le_refl _
    | (dsimp only; split)

theorem execOutputRampDone_inv {s : State} (h : s.From q) (o : Fin 16) : Keeps q (execOutputRampDone o s) := by
  unfold execOutputRampDone
  repeat' first
    | with_reducible intro _
    | with_reducible assumption
    | with_reducible first | apply Keeps.next | apply Keeps.ite | apply State.ite_inv | apply State.enterMuted_inv | apply State.enterPlaying_inv
    | split
    | with_reducible apply State.mk_inv
    | with_reducible rfl
    | with_reducible exact Nat.le_refl _
    | (dsimp only; split)

theorem State.pairNone_inv {s : State} (h : s.From q) (o : Nat) : (State.pairNone s o).From q := by
  unfold State.pairNone
  repeat' first
    | with_reducible intro _
    | with_reducible assumption
    | with_reducible first | apply State.ite_inv | apply State.setBit_inv
    | split
    | with_reducible apply State.mk_inv
    | with_reducible rfl
    | with_reducible exact Nat.le_refl _
    | (dsimp only; split)

theorem State.outUnbound_inv {s : State} (h : s.From q) (o : Nat) : (State.outUnbound s o).From q := by
  unfold State.outUnbound
  repeat' first
    | with_reducible intro _
    | with_reducible assumption
    | with_reducible first | apply State.ite_inv | apply State.checkAbort_inv | apply State.ev_inv | apply State.outCellsOff_inv | apply State.pairNone_inv | apply State.placeSeq_inv | apply State.setOState_inv | apply State.setOut_inv | apply State.sweepAbort_inv | apply State.wr_inv
    | split
    | with_reducible apply State.mk_inv
    | with_reducible rfl
    | with_reducible exact Nat.le_refl _
    | (dsimp only; split)

theorem State.degrade_inv {s : State} (h : s.From q) (o c : Nat) : (State.degrade s o c).From q := by
  unfold State.degrade
  repeat' first
    | with_reducible intro _
    | with_reducible assumption
    | with_reducible first | apply State.ite_inv | apply State.ev_inv | apply State.loopDegrade_inv | apply State.outUnbound_inv | apply State.raise_inv | apply State.setBit_inv | apply State.setOut_inv | apply State.wr_inv
    | split
    | with_reducible apply State.mk_inv
    | with_reducible rfl
    | with_reducible exact Nat.le_refl _
    | (dsimp only; split)

theorem State.demagnetise_inv {s : State} (h : s.From q) (c : Nat) : (State.demagnetise s c).From q := by
  unfold State.demagnetise
  repeat' first
    | with_reducible intro _
    | with_reducible assumption
    | with_reducible first | apply State.ite_inv | apply State.wr_inv
    | split
    | with_reducible apply State.mk_inv
    | with_reducible rfl
    | with_reducible exact Nat.le_refl _
    | (dsimp only; split)

theorem State.bridgeTrip_inv {s : State} (h : s.From q) (c : Nat) : (State.bridgeTrip s c).From q := by
  unfold State.bridgeTrip
  repeat' first
    | with_reducible intro _
    | with_reducible assumption
    | with_reducible first | apply State.ite_inv | apply State.bridgeOff_inv | apply State.bump_inv | apply State.degrade_inv | apply State.demagnetise_inv | apply State.ev_inv | apply State.forEach_inv | apply State.outToward_inv | apply State.raise_inv | apply State.setOState_inv | apply State.setOut_inv | apply State.sweepAbort_inv | apply State.traceTrip_inv
    | split
    | with_reducible apply State.mk_inv
    | with_reducible rfl
    | with_reducible exact Nat.le_refl _
    | (dsimp only; split)

theorem execBridgeTrip_inv {s : State} (h : s.From q) (c : Fin 16) (legN : Bool) (current : Nat) : Keeps q (execBridgeTrip c legN current s) := by
  unfold execBridgeTrip
  repeat' first
    | with_reducible intro _
    | with_reducible assumption
    | with_reducible first | apply Keeps.next | apply Keeps.ite | apply State.ite_inv | apply State.bridgeTrip_inv
    | split
    | with_reducible apply State.mk_inv
    | with_reducible rfl
    | with_reducible exact Nat.le_refl _
    | (dsimp only; split)

theorem State.demagEnd_inv {s : State} (h : s.From q) (o : Nat) : (State.demagEnd s o).From q := by
  unfold State.demagEnd
  repeat' first
    | with_reducible intro _
    | with_reducible assumption
    | with_reducible first | apply State.ite_inv | apply State.bridgeOff_inv | apply State.enqueue_inv | apply State.enterOff_inv | apply State.forEach_inv | apply State.outToward_inv | apply State.outUnbound_inv | apply State.retryCheck_inv | apply State.setOut_inv | apply State.wr_inv
    | split
    | with_reducible apply State.mk_inv
    | with_reducible rfl
    | with_reducible exact Nat.le_refl _
    | (dsimp only; split)

theorem execTripDemagEnd_inv {s : State} (h : s.From q) (o : Fin 16) : Keeps q (execTripDemagEnd o s) := by
  unfold execTripDemagEnd
  repeat' first
    | with_reducible intro _
    | with_reducible assumption
    | with_reducible first | apply Keeps.next | apply Keeps.ite | apply State.ite_inv | apply State.demagEnd_inv
    | split
    | with_reducible apply State.mk_inv
    | with_reducible rfl
    | with_reducible exact Nat.le_refl _
    | (dsimp only; split)

theorem execTripRetry_inv {s : State} (h : s.From q) (o : Fin 16) : Keeps q (execTripRetry o s) := by
  unfold execTripRetry
  repeat' first
    | with_reducible intro _
    | with_reducible assumption
    | with_reducible first | apply Keeps.next | apply Keeps.ite | apply State.ite_inv | apply State.outStart_inv | apply State.setOut_inv
    | split
    | with_reducible apply State.mk_inv
    | with_reducible rfl
    | with_reducible exact Nat.le_refl _
    | (dsimp only; split)

theorem State.sixCells_inv {s : State} (h : s.From q) (c : Nat) : (State.sixCells s c).From q := by
  unfold State.sixCells
  repeat' first
    | with_reducible intro _
    | with_reducible assumption
    | with_reducible first | apply State.ite_inv | apply State.bridgeTrip_inv | apply State.checkAbort_inv | apply State.degrade_inv | apply State.enqueue_inv | apply State.enterOff_inv | apply State.outToward_inv
    | split
    | with_reducible apply State.mk_inv
    | with_reducible rfl
    | with_reducible exact Nat.le_refl _
    | (dsimp only; split)

theorem execCellDesat_inv {s : State} (h : s.From q) (c : Fin 16) (legN : Bool) (cell : Fin 8) : Keeps q (execCellDesat c legN cell s) := by
  unfold execCellDesat
  repeat' first
    | with_reducible intro _
    | with_reducible assumption
    | with_reducible first | apply Keeps.next | apply Keeps.ite | apply State.ite_inv | apply State.bump_inv | apply State.ev_inv | apply State.raise_inv | apply State.setBit_inv | apply State.sixCells_inv | apply State.wr_inv
    | split
    | with_reducible apply State.mk_inv
    | with_reducible rfl
    | with_reducible exact Nat.le_refl _
    | (dsimp only; split)

theorem execBridgeOvertemp_inv {s : State} (h : s.From q) (c : Fin 16) (reading us : Nat) : Keeps q (execBridgeOvertemp c reading us s) := by
  unfold execBridgeOvertemp
  repeat' first
    | with_reducible intro _
    | with_reducible assumption
    | with_reducible first | apply Keeps.next | apply Keeps.ite | apply State.ite_inv | apply State.bridgeTrip_inv | apply State.setBridge_inv
    | split
    | with_reducible apply State.mk_inv
    | with_reducible rfl
    | with_reducible exact Nat.le_refl _
    | (dsimp only; split)

theorem execImbalance_inv {s : State} (h : s.From q) (p : Fin 8) : Keeps q (execImbalance p s) := by
  unfold execImbalance
  repeat' first
    | with_reducible intro _
    | with_reducible assumption
    | with_reducible first | apply Keeps.next | apply Keeps.ite | apply State.ite_inv | apply State.ev_inv
    | split
    | with_reducible apply State.mk_inv
    | with_reducible rfl
    | with_reducible exact Nat.le_refl _
    | (dsimp only; split)

theorem State.channelFence_inv {s : State} (h : s.From q) (c : Nat) : (State.channelFence s c).From q := by
  unfold State.channelFence
  repeat' first
    | with_reducible intro _
    | with_reducible assumption
    | with_reducible first | apply State.ite_inv | apply State.bridgeOff_inv | apply State.calAbandon_inv | apply State.checkAbort_inv | apply State.degrade_inv | apply State.enterOff_inv | apply State.ev_inv | apply State.outToward_inv | apply State.outUnbound_inv | apply State.rcFence_inv | apply State.sweepAbort_inv | apply State.wr_inv
    | split
    | with_reducible apply State.mk_inv
    | with_reducible rfl
    | with_reducible exact Nat.le_refl _
    | (dsimp only; split)

theorem State.outputsSafe_inv {s : State} (h : s.From q)  : (State.outputsSafe s).From q := by
  unfold State.outputsSafe
  repeat' first
    | with_reducible intro _
    | with_reducible assumption
    | with_reducible first | apply State.ite_inv | apply State.bridgeOff_inv | apply State.calAbandon_inv | apply State.checkAbort_inv | apply State.forAll_inv | apply State.setOState_inv | apply State.setOut_inv | apply State.sweepAbort_inv | apply State.wr_inv
    | split
    | with_reducible apply State.mk_inv
    | with_reducible rfl
    | with_reducible exact Nat.le_refl _
    | (dsimp only; split)

theorem State.outputsOff_inv {s : State} (h : s.From q)  : (State.outputsOff s).From q := by
  unfold State.outputsOff
  repeat' first
    | with_reducible intro _
    | with_reducible assumption
    | with_reducible first | apply State.ite_inv | apply State.checkAbort_inv | apply State.enqueue_inv | apply State.enterOff_inv | apply State.forAll_inv | apply State.outCellsOff_inv | apply State.setOut_inv | apply State.sweepAbort_inv
    | split
    | with_reducible apply State.mk_inv
    | with_reducible rfl
    | with_reducible exact Nat.le_refl _
    | (dsimp only; split)

theorem State.outputsPllLost_inv {s : State} (h : s.From q)  : (State.outputsPllLost s).From q := by
  unfold State.outputsPllLost
  repeat' first
    | with_reducible intro _
    | with_reducible assumption
    | with_reducible first | apply State.ite_inv | apply State.calAbandon_inv | apply State.forAll_inv | apply State.outputsOff_inv
    | split
    | with_reducible apply State.mk_inv
    | with_reducible rfl
    | with_reducible exact Nat.le_refl _
    | (dsimp only; split)

theorem State.outputsKick_inv {s : State} (h : s.From q)  : (State.outputsKick s).From q := by
  unfold State.outputsKick
  repeat' first
    | with_reducible intro _
    | with_reducible assumption
    | with_reducible first | apply State.ite_inv | apply State.forAll_inv | apply State.outStart_inv | apply State.outToward_inv
    | split
    | with_reducible apply State.mk_inv
    | with_reducible rfl
    | with_reducible exact Nat.le_refl _
    | (dsimp only; split)

theorem State.neverBound_inv {s : State} (h : s.From q) (o : Nat) : (State.neverBound s o).From q := by
  unfold State.neverBound
  repeat' first
    | with_reducible intro _
    | with_reducible assumption
    | with_reducible first | apply State.ite_inv | apply State.ev_inv | apply State.placeSeq_inv | apply State.setOState_inv
    | split
    | with_reducible apply State.mk_inv
    | with_reducible rfl
    | with_reducible exact Nat.le_refl _
    | (dsimp only; split)

theorem State.bindTo_inv {s : State} (h : s.From q) (o : Nat) (chans : List Nat) : (State.bindTo s o chans).From q := by
  unfold State.bindTo
  repeat' first
    | with_reducible intro _
    | with_reducible assumption
    | with_reducible first | apply State.ite_inv | apply State.forEach_inv | apply State.loopBind_inv | apply State.neverBound_inv | apply State.outUnbound_inv | apply State.rcBound_inv | apply State.setBit_inv | apply State.setOState_inv | apply State.setOut_inv | apply State.wrB_inv
    | split
    | with_reducible apply State.mk_inv
    | with_reducible rfl
    | with_reducible exact Nat.le_refl _
    | (dsimp only; split)

theorem State.dovetailFault_inv {s : State} (h : s.From q) (o : Nat) : (State.dovetailFault s o).From q := by
  unfold State.dovetailFault
  repeat' first
    | with_reducible intro _
    | with_reducible assumption
    | with_reducible first | apply State.ite_inv | apply State.ev_inv
    | split
    | with_reducible apply State.mk_inv
    | with_reducible rfl
    | with_reducible exact Nat.le_refl _
    | (dsimp only; split)

theorem State.bindPair_inv {s : State} (h : s.From q) (p : Nat) : (State.bindPair s p).From q := by
  unfold State.bindPair
  repeat' first
    | with_reducible intro _
    | with_reducible assumption
    | with_reducible first | apply State.ite_inv | apply State.bindTo_inv | apply State.dovetailFault_inv | apply State.ev_inv | apply State.setBit_inv
    | split
    | with_reducible apply State.mk_inv
    | with_reducible rfl
    | with_reducible exact Nat.le_refl _
    | (dsimp only; split)

theorem execFastoffDone_inv {s : State} (h : s.From q) (o : Fin 16) : Keeps q (execFastoffDone o s) := by
  unfold execFastoffDone
  repeat' first
    | with_reducible intro _
    | with_reducible assumption
    | with_reducible first | apply Keeps.next | apply Keeps.ite | apply State.ite_inv | apply State.bindPair_inv | apply State.fastoffDone_inv | apply State.setOut_inv
    | split
    | with_reducible apply State.mk_inv
    | with_reducible rfl
    | with_reducible exact Nat.le_refl _
    | (dsimp only; split)

theorem State.bindAll_inv {s : State} (h : s.From q)  : (State.bindAll s).From q := by
  unfold State.bindAll
  repeat' first
    | with_reducible intro _
    | with_reducible assumption
    | with_reducible first | apply State.ite_inv | apply State.bindPair_inv | apply State.forAll_inv | apply State.placeSeq_inv
    | split
    | with_reducible apply State.mk_inv
    | with_reducible rfl
    | with_reducible exact Nat.le_refl _
    | (dsimp only; split)

theorem execOutputBinding_inv {s : State} (h : s.From q)  : Keeps q (execOutputBinding s) := by
  unfold execOutputBinding
  repeat' first
    | with_reducible intro _
    | with_reducible assumption
    | with_reducible first | apply Keeps.next | apply Keeps.ite | apply State.ite_inv | apply State.bindAll_inv
    | split
    | with_reducible apply State.mk_inv
    | with_reducible rfl
    | with_reducible exact Nat.le_refl _
    | (dsimp only; split)

end Sys2Proof.Machine
end

