-- ==== Sys2Proof/Laws/InvDiag.lean ====
section
/-!
SUPPORT. Laws/InvDiag.lean: the operations of Machine/Diag.lean keep the invariant of Safety.lean.
-/

namespace Sys2Proof.Machine

-- one theorem after the other: the package as one text then needs fewer threads
set_option Elab.async false

open Sys2Proof

variable {q : State}

theorem State.diagCfg_inv {s : State} (h : s.From q)  : (State.diagCfg s).From q := by
  unfold State.diagCfg
  repeat' first
    | with_reducible intro _
    | with_reducible assumption
    | with_reducible first | apply State.ite_inv | apply State.wr_inv
    | split
    | with_reducible apply State.mk_inv
    | with_reducible rfl
    | with_reducible exact Nat.le_refl _
    | (dsimp only; split)

theorem State.pinFlags_inv {s : State} (h : s.From q) (m : DcMeas) : (State.pinFlags s m).From q := by
  unfold State.pinFlags
  repeat' first
    | with_reducible intro _
    | with_reducible assumption
    | with_reducible first | apply State.ite_inv | apply State.wrB_inv
    | split
    | with_reducible apply State.mk_inv
    | with_reducible rfl
    | with_reducible exact Nat.le_refl _
    | (dsimp only; split)

theorem State.setChecked_inv {s : State} (h : s.From q) (c : Nat) : (State.setChecked s c).From q := by
  unfold State.setChecked
  repeat' first
    | with_reducible intro _
    | with_reducible assumption
    | with_reducible first | apply State.ite_inv
    | split
    | with_reducible apply State.mk_inv
    | with_reducible rfl
    | with_reducible exact Nat.le_refl _
    | (dsimp only; split)

theorem State.dcWrite_inv {s : State} (h : s.From q) (rs : List DcMeas) (c : Nat) (x : Nat × Nat × Nat) : (State.dcWrite s rs c x).From q := by
  unfold State.dcWrite
  repeat' first
    | with_reducible intro _
    | with_reducible assumption
    | with_reducible first | apply State.ite_inv | apply State.fst_ite_inv | apply State.snd_ite_inv | apply State.dcResult_inv | apply State.pinFlags_inv
    | split
    | with_reducible apply State.mk_inv
    | with_reducible rfl
    | with_reducible exact Nat.le_refl _
    | (dsimp only; split)

theorem State.checkEnded_inv {s : State} (h : s.From q) (o : Nat) (commanded pass : Bool) : (State.checkEnded s o commanded pass).From q := by
  unfold State.checkEnded
  repeat' first
    | with_reducible intro _
    | with_reducible assumption
    | with_reducible first | apply State.ite_inv | apply State.enqueue_inv | apply State.enterCmUp_inv | apply State.enterOff_inv | apply State.setOut_inv | apply State.takeQueued_inv | apply State.wr_inv
    | split
    | with_reducible apply State.mk_inv
    | with_reducible rfl
    | with_reducible exact Nat.le_refl _
    | (dsimp only; split)

theorem execQuickCheckStart_inv {s : State} (h : s.From q)  : Keeps q (execQuickCheckStart s) := by
  unfold execQuickCheckStart
  repeat' first
    | with_reducible intro _
    | with_reducible assumption
    | with_reducible first | apply Keeps.next | apply Keeps.ite | apply State.ite_inv | apply State.foldl_inv | apply State.foldl_fst_inv | apply State.foldl_snd_inv | apply State.diagStat_inv | apply State.forEach_inv | apply State.wr_inv
    | split
    | with_reducible apply State.mk_inv
    | with_reducible rfl
    | with_reducible exact Nat.le_refl _
    | (dsimp only; split)

theorem State.quickDone_inv {s : State} (h : s.From q) (o : Nat) (rs : List DcMeas) : (State.quickDone s o rs).From q := by
  unfold State.quickDone
  repeat' first
    | with_reducible intro _
    | with_reducible assumption
    | with_reducible first | apply State.ite_inv | apply State.foldl_inv | apply State.foldl_fst_inv | apply State.foldl_snd_inv | apply State.fst_ite_inv | apply State.snd_ite_inv | apply State.bridgeOff_inv | apply State.checkEnded_inv | apply State.dcWrite_inv | apply State.diagStat_inv | apply State.ev_inv | apply State.forEach_inv | apply State.jobDone_inv | apply State.setChecked_inv | apply State.when_inv
    | split
    | with_reducible apply State.mk_inv
    | with_reducible rfl
    | with_reducible exact Nat.le_refl _
    | (dsimp only; split)

theorem execQuickCheckDone_inv {s : State} (h : s.From q) (o : Fin 16) (results : List DcMeas) : Keeps q (execQuickCheckDone o results s) := by
  unfold execQuickCheckDone
  repeat' first
    | with_reducible intro _
    | with_reducible assumption
    | with_reducible first | apply Keeps.next | apply Keeps.ite | apply State.ite_inv | apply State.quickDone_inv
    | split
    | with_reducible apply State.mk_inv
    | with_reducible rfl
    | with_reducible exact Nat.le_refl _
    | (dsimp only; split)

theorem State.diagRefused_inv {s : State} (h : s.From q) (o : Nat) : (State.diagRefused s o).From q := by
  unfold State.diagRefused
  repeat' first
    | with_reducible intro _
    | with_reducible assumption
    | with_reducible first | apply State.ite_inv | apply State.bump_inv | apply State.ev_inv
    | split
    | with_reducible apply State.mk_inv
    | with_reducible rfl
    | with_reducible exact Nat.le_refl _
    | (dsimp only; split)

theorem State.newJob_inv {s : State} (h : s.From q) (op : Nat) (mask : BitVec 16) (go : List Nat) : (State.newJob s op mask go).From q := by
  unfold State.newJob
  repeat' first
    | with_reducible intro _
    | with_reducible assumption
    | with_reducible first | apply State.ite_inv
    | split
    | with_reducible apply State.mk_inv
    | with_reducible rfl
    | with_reducible exact Nat.le_refl _
    | (dsimp only; split)

theorem State.cmdQuick_inv {s : State} (h : s.From q) (mask : BitVec 16) : (State.cmdQuick s mask).From q := by
  unfold State.cmdQuick
  repeat' first
    | with_reducible intro _
    | with_reducible assumption
    | with_reducible first | apply State.ite_inv | apply State.askCheck_inv | apply State.diagRefused_inv | apply State.forEach_inv | apply State.newJob_inv | apply State.setOut_inv
    | split
    | with_reducible apply State.mk_inv
    | with_reducible rfl
    | with_reducible exact Nat.le_refl _
    | (dsimp only; split)

theorem execQuickDcCheck_inv {s : State} (h : s.From q) (mask : BitVec 16) : Keeps q (execQuickDcCheck mask s) := by
  unfold execQuickDcCheck
  repeat' first
    | with_reducible intro _
    | with_reducible assumption
    | with_reducible first | apply Keeps.next | apply Keeps.ite | apply State.ite_inv | apply State.cmdQuick_inv
    | split
    | with_reducible apply State.mk_inv
    | with_reducible rfl
    | with_reducible exact Nat.le_refl _
    | (dsimp only; split)

theorem State.cmdSweep_inv {s : State} (h : s.From q) (mask : BitVec 16) : (State.cmdSweep s mask).From q := by
  unfold State.cmdSweep
  repeat' first
    | with_reducible intro _
    | with_reducible assumption
    | with_reducible first | apply State.ite_inv | apply State.diagRefused_inv | apply State.forEach_inv | apply State.newJob_inv | apply State.outToward_inv | apply State.setSweep_inv
    | split
    | with_reducible apply State.mk_inv
    | with_reducible rfl
    | with_reducible exact Nat.le_refl _
    | (dsimp only; split)

theorem execAcSweep_inv {s : State} (h : s.From q) (mask : BitVec 16) : Keeps q (execAcSweep mask s) := by
  unfold execAcSweep
  repeat' first
    | with_reducible intro _
    | with_reducible assumption
    | with_reducible first | apply Keeps.next | apply Keeps.ite | apply State.ite_inv | apply State.cmdSweep_inv
    | split
    | with_reducible apply State.mk_inv
    | with_reducible rfl
    | with_reducible exact Nat.le_refl _
    | (dsimp only; split)

theorem State.sweepStop_inv {s : State} (h : s.From q) (o : Nat) : (State.sweepStop s o).From q := by
  unfold State.sweepStop
  repeat' first
    | with_reducible intro _
    | with_reducible assumption
    | with_reducible first | apply State.ite_inv | apply State.outToward_inv | apply State.sweepAbort_inv
    | split
    | with_reducible apply State.mk_inv
    | with_reducible rfl
    | with_reducible exact Nat.le_refl _
    | (dsimp only; split)

theorem State.cmdAbort_inv {s : State} (h : s.From q) (mask : BitVec 16) : (State.cmdAbort s mask).From q := by
  unfold State.cmdAbort
  repeat' first
    | with_reducible intro _
    | with_reducible assumption
    | with_reducible first | apply State.ite_inv | apply State.forEach_inv | apply State.sweepStop_inv
    | split
    | with_reducible apply State.mk_inv
    | with_reducible rfl
    | with_reducible exact Nat.le_refl _
    | (dsimp only; split)

theorem execDiagAbort_inv {s : State} (h : s.From q) (mask : BitVec 16) : Keeps q (execDiagAbort mask s) := by
  unfold execDiagAbort
  repeat' first
    | with_reducible intro _
    | with_reducible assumption
    | with_reducible first | apply Keeps.next | apply Keeps.ite | apply State.ite_inv | apply State.cmdAbort_inv
    | split
    | with_reducible apply State.mk_inv
    | with_reducible rfl
    | with_reducible exact Nat.le_refl _
    | (dsimp only; split)

theorem State.diagCmd_inv {s : State} (h : s.From q) (v : BitVec 32) : (State.diagCmd s v).From q := by
  unfold State.diagCmd
  repeat' first
    | with_reducible intro _
    | with_reducible assumption
    | with_reducible first | apply State.ite_inv | apply State.cmdAbort_inv | apply State.cmdQuick_inv | apply State.cmdSweep_inv
    | split
    | with_reducible apply State.mk_inv
    | with_reducible rfl
    | with_reducible exact Nat.le_refl _
    | (dsimp only; split)

theorem State.setBand_inv {s : State} (h : s.From q) (o b : Nat) (x : TrackBand) : (State.setBand s o b x).From q := by
  unfold State.setBand
  repeat' first
    | with_reducible intro _
    | with_reducible assumption
    | with_reducible first | apply State.ite_inv
    | split
    | with_reducible apply State.mk_inv
    | with_reducible rfl
    | with_reducible exact Nat.le_refl _
    | (dsimp only; split)

theorem State.acWrite_inv {s : State} (h : s.From q) (o : Nat) (e : List (BitVec 8)) (pts : List SweepPt) : (State.acWrite s o e pts).From q := by
  unfold State.acWrite
  repeat' first
    | with_reducible intro _
    | with_reducible assumption
    | with_reducible first | apply State.ite_inv | apply State.foldl_inv | apply State.foldl_fst_inv | apply State.foldl_snd_inv | apply State.snd_ite_inv | apply State.ev_inv | apply State.forAll_inv | apply State.raise_inv | apply State.setBand_inv | apply State.wr_inv
    | split
    | with_reducible apply State.mk_inv
    | with_reducible rfl
    | with_reducible exact Nat.le_refl _
    | (dsimp only; split)

theorem State.dryfitSweep_inv {s : State} (h : s.From q) (lo : Nat) : (State.dryfitSweep s lo).From q := by
  unfold State.dryfitSweep
  repeat' first
    | with_reducible intro _
    | with_reducible assumption
    | with_reducible first | apply State.ite_inv | apply State.bridgeOn_inv | apply State.setSweep_inv
    | split
    | with_reducible apply State.mk_inv
    | with_reducible rfl
    | with_reducible exact Nat.le_refl _
    | (dsimp only; split)

theorem State.dryfitEntry_inv {s : State} (h : s.From q) (id : BitVec 16) (err sev : Nat) (detail : List (BitVec 8)) : (State.dryfitEntry s id err sev detail).From q := by
  unfold State.dryfitEntry
  repeat' first
    | with_reducible intro _
    | with_reducible assumption
    | with_reducible first | apply State.ite_inv
    | split
    | with_reducible apply State.mk_inv
    | with_reducible rfl
    | with_reducible exact Nat.le_refl _
    | (dsimp only; split)

theorem State.sweepPoint_inv {s : State} (h : s.From q) (o : Nat) : (State.sweepPoint s o).From q := by
  unfold State.sweepPoint
  repeat' first
    | with_reducible intro _
    | with_reducible assumption
    | with_reducible first | apply State.ite_inv | apply State.acWrite_inv | apply State.bridgeOff_inv | apply State.dryfitEntry_inv | apply State.dryfitSweep_inv | apply State.jobDone_inv | apply State.outToward_inv | apply State.setSweep_inv
    | split
    | with_reducible apply State.mk_inv
    | with_reducible rfl
    | with_reducible exact Nat.le_refl _
    | (dsimp only; split)

theorem execSweepPointDone_inv {s : State} (h : s.From q) (o : Fin 16) : Keeps q (execSweepPointDone o s) := by
  unfold execSweepPointDone
  repeat' first
    | with_reducible intro _
    | with_reducible assumption
    | with_reducible first | apply Keeps.next | apply Keeps.ite | apply State.ite_inv | apply State.sweepPoint_inv
    | split
    | with_reducible apply State.mk_inv
    | with_reducible rfl
    | with_reducible exact Nat.le_refl _
    | (dsimp only; split)

theorem State.sweepPause_inv {s : State} (h : s.From q) (o : Nat) : (State.sweepPause s o).From q := by
  unfold State.sweepPause
  repeat' first
    | with_reducible intro _
    | with_reducible assumption
    | with_reducible first | apply State.ite_inv | apply State.setSweep_inv
    | split
    | with_reducible apply State.mk_inv
    | with_reducible rfl
    | with_reducible exact Nat.le_refl _
    | (dsimp only; split)

theorem execSweepResume_inv {s : State} (h : s.From q) (o : Fin 16) (granted : Bool) : Keeps q (execSweepResume o granted s) := by
  unfold execSweepResume
  repeat' first
    | with_reducible intro _
    | with_reducible assumption
    | with_reducible first | apply Keeps.next | apply Keeps.ite | apply State.ite_inv | apply State.setSweep_inv | apply State.sweepStop_inv
    | split
    | with_reducible apply State.mk_inv
    | with_reducible rfl
    | with_reducible exact Nat.le_refl _
    | (dsimp only; split)

theorem execBootDcDiagStart_inv {s : State} (h : s.From q)  : Keeps q (execBootDcDiagStart s) := by
  unfold execBootDcDiagStart
  repeat' first
    | with_reducible intro _
    | with_reducible assumption
    | with_reducible first | apply Keeps.next | apply Keeps.ite | apply State.ite_inv | apply State.diagCfg_inv | apply State.forAll_inv | apply State.wr_inv
    | split
    | with_reducible apply State.mk_inv
    | with_reducible rfl
    | with_reducible exact Nat.le_refl _
    | (dsimp only; split)

theorem State.joinFinding_inv {s : State} (h : s.From q) (p : Nat) (rs : List DcMeas) : (State.joinFinding s p rs).From q := by
  unfold State.joinFinding
  repeat' first
    | with_reducible intro _
    | with_reducible assumption
    | with_reducible first | apply State.ite_inv | apply State.setBit_inv
    | split
    | with_reducible apply State.mk_inv
    | with_reducible rfl
    | with_reducible exact Nat.le_refl _
    | (dsimp only; split)

theorem State.bootMute_inv {s : State} (h : s.From q)  : (State.bootMute s).From q := by
  unfold State.bootMute
  repeat' first
    | with_reducible intro _
    | with_reducible assumption
    | with_reducible first | apply State.ite_inv | apply State.dryfitSweep_inv | apply State.forAll_inv | apply State.outToward_inv | apply State.wr_inv
    | split
    | with_reducible apply State.mk_inv
    | with_reducible rfl
    | with_reducible exact Nat.le_refl _
    | (dsimp only; split)

theorem execBootDcDiagDone_inv {s : State} (h : s.From q) (results : List DcMeas) : Keeps q (execBootDcDiagDone results s) := by
  unfold execBootDcDiagDone
  repeat' first
    | with_reducible intro _
    | with_reducible assumption
    | with_reducible first | apply Keeps.next | apply Keeps.ite | apply State.ite_inv | apply State.fst_ite_inv | apply State.bindAll_inv | apply State.bootMute_inv | apply State.bridgeOff_inv | apply State.dcWrite_inv | apply State.forAll_inv | apply State.joinFinding_inv | apply State.setChecked_inv | apply State.when_inv | apply State.wr_inv
    | split
    | with_reducible apply State.mk_inv
    | with_reducible rfl
    | with_reducible exact Nat.le_refl _
    | (dsimp only; split)

theorem State.trackBand_inv {s : State} (h : s.From q) (o b z : Nat) : (State.trackBand s o b z).From q := by
  unfold State.trackBand
  repeat' first
    | with_reducible intro _
    | with_reducible assumption
    | with_reducible first | apply State.ite_inv | apply State.ev_inv | apply State.raise_inv | apply State.setBand_inv | apply State.setBit_inv | apply State.wrI_inv
    | split
    | with_reducible apply State.mk_inv
    | with_reducible rfl
    | with_reducible exact Nat.le_refl _
    | (dsimp only; split)

theorem State.trackEnd_inv {s : State} (h : s.From q) (o b : Nat) : (State.trackEnd s o b).From q := by
  unfold State.trackEnd
  repeat' first
    | with_reducible intro _
    | with_reducible assumption
    | with_reducible first | apply State.ite_inv | apply State.setBand_inv | apply State.trackBand_inv
    | split
    | with_reducible apply State.mk_inv
    | with_reducible rfl
    | with_reducible exact Nat.le_refl _
    | (dsimp only; split)

theorem execTrackPeriodEnd_inv {s : State} (h : s.From q) (o : Fin 16) : Keeps q (execTrackPeriodEnd o s) := by
  unfold execTrackPeriodEnd
  repeat' first
    | with_reducible intro _
    | with_reducible assumption
    | with_reducible first | apply Keeps.next | apply Keeps.ite | apply State.ite_inv | apply State.forAll_inv | apply State.trackEnd_inv
    | split
    | with_reducible apply State.mk_inv
    | with_reducible rfl
    | with_reducible exact Nat.le_refl _
    | (dsimp only; split)

theorem State.stbyReport_inv {s : State} (h : s.From q)  : (State.stbyReport s).From q := by
  unfold State.stbyReport
  repeat' first
    | with_reducible intro _
    | with_reducible assumption
    | with_reducible first | apply State.ite_inv | apply State.ev_inv | apply State.forAll_inv | apply State.raise_inv | apply State.setReg_inv
    | split
    | with_reducible apply State.mk_inv
    | with_reducible rfl
    | with_reducible exact Nat.le_refl _
    | (dsimp only; split)

theorem State.senseCalCmd_inv {s : State} (h : s.From q) (mask : BitVec 16) : (State.senseCalCmd s mask).From q := by
  unfold State.senseCalCmd
  repeat' first
    | with_reducible intro _
    | with_reducible assumption
    | with_reducible first | apply State.ite_inv | apply State.forEach_inv | apply State.senseCal_inv | apply State.sweepStop_inv
    | split
    | with_reducible apply State.mk_inv
    | with_reducible rfl
    | with_reducible exact Nat.le_refl _
    | (dsimp only; split)

theorem execSenseCal_inv {s : State} (h : s.From q) (mask : BitVec 16) : Keeps q (execSenseCal mask s) := by
  unfold execSenseCal
  repeat' first
    | with_reducible intro _
    | with_reducible assumption
    | with_reducible first | apply Keeps.next | apply Keeps.ite | apply State.ite_inv | apply State.reach_inv | apply State.senseCalCmd_inv
    | split
    | with_reducible apply State.mk_inv
    | with_reducible rfl
    | with_reducible exact Nat.le_refl _
    | (dsimp only; split)

theorem State.senseCtrlWrite_inv {s : State} (h : s.From q) (v : BitVec 32) : (State.senseCtrlWrite s v).From q := by
  unfold State.senseCtrlWrite
  repeat' first
    | with_reducible intro _
    | with_reducible assumption
    | with_reducible first | apply State.ite_inv | apply State.bgFreeze_inv | apply State.senseCalCmd_inv
    | split
    | with_reducible apply State.mk_inv
    | with_reducible rfl
    | with_reducible exact Nat.le_refl _
    | (dsimp only; split)

theorem execSenseCalDone_inv {s : State} (h : s.From q) (results : List CalResult) : Keeps q (execSenseCalDone results s) := by
  unfold execSenseCalDone
  repeat' first
    | with_reducible intro _
    | with_reducible assumption
    | with_reducible first | apply Keeps.next | apply Keeps.ite | apply State.ite_inv | apply State.calResults_inv | apply State.outputsKick_inv
    | split
    | with_reducible apply State.mk_inv
    | with_reducible rfl
    | with_reducible exact Nat.le_refl _
    | (dsimp only; split)

end Sys2Proof.Machine
end

