-- ==== Sys2Proof/Laws/InvGuard.lean ====
section
/-!
SUPPORT. Laws/InvGuard.lean: the operations of Machine/Guard.lean keep the invariant of Safety.lean.
-/

namespace Sys2Proof.Machine

-- one theorem after the other: the package as one text then needs fewer threads
set_option Elab.async false

open Sys2Proof

variable {q : State}

theorem State.setGrd_inv {s : State} (h : s.From q) (o : Nat) (x : GuardSt) : (State.setGrd s o x).From q := by
  unfold State.setGrd
  repeat' first
    | with_reducible intro _
    | with_reducible assumption
    | with_reducible first | apply State.ite_inv
    | split
    | with_reducible apply State.mk_inv
    | with_reducible rfl
    | with_reducible exact Nat.le_refl _
    | (dsimp only; split)

theorem State.clampWrite_inv {s : State} (h : s.From q) (o clamp v : Nat) : (State.clampWrite s o clamp v).From q := by
  unfold State.clampWrite
  repeat' first
    | with_reducible intro _
    | with_reducible assumption
    | with_reducible first | apply State.ite_inv | apply State.bump_inv | apply State.ev_inv | apply State.wr_inv
    | split
    | with_reducible apply State.mk_inv
    | with_reducible rfl
    | with_reducible exact Nat.le_refl _
    | (dsimp only; split)

theorem execClampCeilingWrite_inv {s : State} (h : s.From q) (o : Fin 16) (clamp : Fin 4) (v : BitVec 16) : Keeps q (execClampCeilingWrite o clamp v s) := by
  unfold execClampCeilingWrite
  repeat' first
    | with_reducible intro _
    | with_reducible assumption
    | with_reducible first | apply Keeps.next | apply Keeps.ite | apply State.ite_inv | apply State.clampWrite_inv
    | split
    | with_reducible apply State.mk_inv
    | with_reducible rfl
    | with_reducible exact Nat.le_refl _
    | (dsimp only; split)

theorem State.takeSet_inv {s : State} (h : s.From q) (o id : Nat) : (State.takeSet s o id).From q := by
  unfold State.takeSet
  repeat' first
    | with_reducible intro _
    | with_reducible assumption
    | with_reducible first | apply State.ite_inv | apply State.wr_inv
    | split
    | with_reducible apply State.mk_inv
    | with_reducible rfl
    | with_reducible exact Nat.le_refl _
    | (dsimp only; split)

theorem State.applyGuard_inv {s : State} (h : s.From q)  : (State.applyGuard s).From q := by
  unfold State.applyGuard
  repeat' first
    | with_reducible intro _
    | with_reducible assumption
    | with_reducible first | apply State.ite_inv | apply State.clampWrite_inv | apply State.forAll_inv | apply State.takeSet_inv
    | split
    | with_reducible apply State.mk_inv
    | with_reducible rfl
    | with_reducible exact Nat.le_refl _
    | (dsimp only; split)

theorem execSetSwitched_inv {s : State} (h : s.From q) (o : Fin 16) : Keeps q (execSetSwitched o s) := by
  unfold execSetSwitched
  repeat' first
    | with_reducible intro _
    | with_reducible assumption
    | with_reducible first | apply Keeps.next | apply Keeps.ite | apply State.ite_inv | apply State.ev_inv | apply State.setGrd_inv | apply State.takeSet_inv | apply State.wr_inv
    | split
    | with_reducible apply State.mk_inv
    | with_reducible rfl
    | with_reducible exact Nat.le_refl _
    | (dsimp only; split)

theorem State.disagree_inv {s : State} (h : s.From q) (o : Nat) : (State.disagree s o).From q := by
  unfold State.disagree
  repeat' first
    | with_reducible intro _
    | with_reducible assumption
    | with_reducible first | apply State.ite_inv | apply State.bump_inv | apply State.ev_inv | apply State.raise_inv | apply State.setGrd_inv
    | split
    | with_reducible apply State.mk_inv
    | with_reducible rfl
    | with_reducible exact Nat.le_refl _
    | (dsimp only; split)

theorem State.clampEpisode_inv {s : State} (h : s.From q) (o k : Nat) : (State.clampEpisode s o k).From q := by
  unfold State.clampEpisode
  repeat' first
    | with_reducible intro _
    | with_reducible assumption
    | with_reducible first | apply State.ite_inv | apply State.bump_inv | apply State.ev_inv | apply State.raise_inv
    | split
    | with_reducible apply State.mk_inv
    | with_reducible rfl
    | with_reducible exact Nat.le_refl _
    | (dsimp only; split)

theorem State.clampStage_inv {s : State} (h : s.From q) (o : Nat) (r v : Int) (is : List Int) : (State.clampStage s o r v is).2.From q := by
  unfold State.clampStage
  repeat' first
    | with_reducible intro _
    | with_reducible assumption
    | with_reducible first | apply State.ite_inv | apply State.foldl_inv | apply State.foldl_fst_inv | apply State.foldl_snd_inv | apply State.fst_ite_inv | apply State.snd_ite_inv | apply State.clampEpisode_inv | apply State.disagree_inv | apply State.peak_inv | apply State.setGrd_inv | apply State.when_inv | apply State.wr_inv | apply State.wrB_inv
    | split
    | with_reducible apply State.mk_inv
    | with_reducible rfl
    | with_reducible exact Nat.le_refl _
    | (dsimp only; split)

theorem State.energyEnd_inv {s : State} (h : s.From q) (o : Nat) : (State.energyEnd s o).From q := by
  unfold State.energyEnd
  repeat' first
    | with_reducible intro _
    | with_reducible assumption
    | with_reducible first | apply State.ite_inv | apply State.foldl_inv | apply State.foldl_fst_inv | apply State.foldl_snd_inv | apply State.clampEpisode_inv | apply State.disagree_inv | apply State.setGrd_inv | apply State.when_inv | apply State.wr_inv | apply State.wrB_inv
    | split
    | with_reducible apply State.mk_inv
    | with_reducible rfl
    | with_reducible exact Nat.le_refl _
    | (dsimp only; split)

theorem execEnergySubwindowEnd_inv {s : State} (h : s.From q) (o : Fin 16) : Keeps q (execEnergySubwindowEnd o s) := by
  unfold execEnergySubwindowEnd
  repeat' first
    | with_reducible intro _
    | with_reducible assumption
    | with_reducible first | apply Keeps.next | apply Keeps.ite | apply State.ite_inv | apply State.energyEnd_inv
    | split
    | with_reducible apply State.mk_inv
    | with_reducible rfl
    | with_reducible exact Nat.le_refl _
    | (dsimp only; split)

theorem State.setGout_inv {s : State} (h : s.From q) (o : Nat) (x : GovOut) : (State.setGout s o x).From q := by
  unfold State.setGout
  repeat' first
    | with_reducible intro _
    | with_reducible assumption
    | with_reducible first | apply State.ite_inv
    | split
    | with_reducible apply State.mk_inv
    | with_reducible rfl
    | with_reducible exact Nat.le_refl _
    | (dsimp only; split)

theorem State.pilotMeasure_inv {s : State} (h : s.From q) (o : Nat) (e : List (BitVec 8)) : (State.pilotMeasure s o e).From q := by
  unfold State.pilotMeasure
  repeat' first
    | with_reducible intro _
    | with_reducible assumption
    | with_reducible first | apply State.ite_inv | apply State.disagree_inv | apply State.ev_inv | apply State.raise_inv | apply State.setGrd_inv | apply State.when_inv | apply State.wr_inv | apply State.wrI_inv
    | split
    | with_reducible apply State.mk_inv
    | with_reducible rfl
    | with_reducible exact Nat.le_refl _
    | (dsimp only; split)

theorem State.pilotStale_inv {s : State} (h : s.From q) (o : Nat) (e : List (BitVec 8)) : (State.pilotStale s o e).From q := by
  unfold State.pilotStale
  repeat' first
    | with_reducible intro _
    | with_reducible assumption
    | with_reducible first | apply State.ite_inv | apply State.ev_inv | apply State.wr_inv
    | split
    | with_reducible apply State.mk_inv
    | with_reducible rfl
    | with_reducible exact Nat.le_refl _
    | (dsimp only; split)

theorem State.thermReduce_inv {s : State} (h : s.From q) (o : Nat) : (State.thermReduce s o).From q := by
  unfold State.thermReduce
  repeat' first
    | with_reducible intro _
    | with_reducible assumption
    | with_reducible first | apply State.ite_inv | apply State.ev_inv | apply State.raise_inv | apply State.setGrd_inv | apply State.when_inv
    | split
    | with_reducible apply State.mk_inv
    | with_reducible rfl
    | with_reducible exact Nat.le_refl _
    | (dsimp only; split)

theorem State.thermFrame_inv {s : State} (h : s.From q) (o : Nat) (e : List (BitVec 8)) : (State.thermFrame s o e).From q := by
  unfold State.thermFrame
  repeat' first
    | with_reducible intro _
    | with_reducible assumption
    | with_reducible first | apply State.ite_inv | apply State.fst_ite_inv | apply State.snd_ite_inv | apply State.pilotMeasure_inv | apply State.pilotStale_inv | apply State.setGrd_inv | apply State.thermReduce_inv | apply State.when_inv | apply State.wr_inv | apply State.wrI_inv
    | split
    | with_reducible apply State.mk_inv
    | with_reducible rfl
    | with_reducible exact Nat.le_refl _
    | (dsimp only; split)

theorem State.modelsStop_inv {s : State} (h : s.From q) (o : Nat) : (State.modelsStop s o).From q := by
  unfold State.modelsStop
  repeat' first
    | with_reducible intro _
    | with_reducible assumption
    | with_reducible first | apply State.ite_inv | apply State.ev_inv | apply State.raise_inv | apply State.setGrd_inv | apply State.wr_inv
    | split
    | with_reducible apply State.mk_inv
    | with_reducible rfl
    | with_reducible exact Nat.le_refl _
    | (dsimp only; split)

theorem State.guardFrame_inv {s : State} (h : s.From q)  : (State.guardFrame s).From q := by
  unfold State.guardFrame
  repeat' first
    | with_reducible intro _
    | with_reducible assumption
    | with_reducible first | apply State.ite_inv | apply State.forEach_inv | apply State.modelsStop_inv | apply State.setGrd_inv | apply State.thermFrame_inv | apply State.wr_inv | apply State.wrB_inv
    | split
    | with_reducible apply State.mk_inv
    | with_reducible rfl
    | with_reducible exact Nat.le_refl _
    | (dsimp only; split)

theorem State.diagFrame_inv {s : State} (h : s.From q) : (State.diagFrame s).From q := by
  unfold State.diagFrame
  repeat' first
    | with_reducible intro _
    | with_reducible assumption
    | with_reducible first | apply State.ite_inv | apply State.forAll_inv | apply State.setSweep_inv | apply State.setBand_inv
    | split
    | with_reducible apply State.mk_inv
    | with_reducible rfl
    | with_reducible exact Nat.le_refl _
    | (dsimp only; split)

theorem State.guardBoundary_inv {s : State} (h : s.From q)  : (State.guardBoundary s).From q := by
  unfold State.guardBoundary
  repeat' first
    | with_reducible intro _
    | with_reducible assumption
    | with_reducible first | apply State.ite_inv | apply State.forEach_inv | apply State.setGrd_inv
    | split
    | with_reducible apply State.mk_inv
    | with_reducible rfl
    | with_reducible exact Nat.le_refl _
    | (dsimp only; split)

theorem State.excursionDone_inv {s : State} (h : s.From q) (o : Nat) (st : List (BitVec 32)) : (State.excursionDone s o st).From q := by
  unfold State.excursionDone
  repeat' first
    | with_reducible intro _
    | with_reducible assumption
    | with_reducible first | apply State.ite_inv | apply State.ev_inv | apply State.peak_inv | apply State.setGrd_inv | apply State.when_inv
    | split
    | with_reducible apply State.mk_inv
    | with_reducible rfl
    | with_reducible exact Nat.le_refl _
    | (dsimp only; split)

end Sys2Proof.Machine
end

