-- ==== Sys2Proof/Laws/InvModulator.lean ====
section
/-!
SUPPORT. Laws/InvModulator.lean: the operations of Machine/Modulator.lean keep the invariant of Safety.lean.
-/

namespace Sys2Proof.Machine

-- one theorem after the other: the package as one text then needs fewer threads
set_option Elab.async false

open Sys2Proof

variable {q : State}

theorem State.modStep_inv {s : State} (h : s.From q) (c : Nat) : (State.modStep s c).From q := by
  unfold State.modStep
  repeat' first
    | with_reducible intro _
    | with_reducible assumption
    | with_reducible first | apply State.ite_inv | apply State.fst_ite_inv | apply State.snd_ite_inv | apply State.bump_inv | apply State.ev_inv | apply State.setBridge_inv | apply State.setLch_inv
    | split
    | with_reducible apply State.mk_inv
    | with_reducible rfl
    | with_reducible exact Nat.le_refl _
    | (dsimp only; split)

theorem State.modulators_inv {s : State} (h : s.From q)  : (State.modulators s).From q := by
  unfold State.modulators
  repeat' first
    | with_reducible intro _
    | with_reducible assumption
    | with_reducible first | apply State.ite_inv | apply State.forAll_inv | apply State.modStep_inv
    | split
    | with_reducible apply State.mk_inv
    | with_reducible rfl
    | with_reducible exact Nat.le_refl _
    | (dsimp only; split)

end Sys2Proof.Machine
end

