-- ==== Sys2Proof/Laws/InvLane.lean ====
section
/-!
SUPPORT. Laws/InvLane.lean: the operations of Machine/Lane.lean keep the invariant of Safety.lean.
-/

namespace Sys2Proof.Machine

-- one theorem after the other: the package as one text then needs fewer threads
set_option Elab.async false

open Sys2Proof

variable {q : State}

theorem State.rcSample_inv {s : State} (h : s.From q) (c : Nat) (e : Int) (counts : Bool) : (State.rcSample s c e counts).From q := by
  unfold State.rcSample
  repeat' first
    | with_reducible intro _
    | with_reducible assumption
    | with_reducible first | apply State.ite_inv | apply State.binUpdate_inv | apply State.setRc_inv
    | split
    | with_reducible apply State.mk_inv
    | with_reducible rfl
    | with_reducible exact Nat.le_refl _
    | (dsimp only; split)

theorem State.nodesSet_inv {s : State} (h : s.From q) (c m : Nat) (counted : Bool) : (State.nodesSet s c m counted).From q := by
  unfold State.nodesSet
  repeat' first
    | with_reducible intro _
    | with_reducible assumption
    | with_reducible first | apply State.ite_inv | apply State.bump_inv | apply State.ev_inv | apply State.traceChannel_inv | apply State.wr_inv
    | split
    | with_reducible apply State.mk_inv
    | with_reducible rfl
    | with_reducible exact Nat.le_refl _
    | (dsimp only; split)

theorem State.laneFaults_inv {s : State} (h : s.From q) (c : Nat) (fs : List LaneFault) : (State.laneFaults s c fs).From q := by
  unfold State.laneFaults
  repeat' first
    | with_reducible intro _
    | with_reducible assumption
    | with_reducible first | apply State.ite_inv | apply State.bump_inv | apply State.clampStage_inv | apply State.ev_inv | apply State.forEach_inv | apply State.raise_inv | apply State.setRc_inv | apply State.traceChannel_inv
    | split
    | with_reducible apply State.mk_inv
    | with_reducible rfl
    | with_reducible exact Nat.le_refl _
    | (dsimp only; split)

theorem State.pathNext_inv {s : State} (h : s.From q) (c : Nat) (v : LaneEval) : (State.pathNext s c v).From q := by
  unfold State.pathNext
  repeat' first
    | with_reducible intro _
    | with_reducible assumption
    | with_reducible first | apply State.ite_inv | apply State.bump_inv | apply State.ev_inv | apply State.raise_inv | apply State.setLch_inv | apply State.traceChannel_inv
    | split
    | with_reducible apply State.mk_inv
    | with_reducible rfl
    | with_reducible exact Nat.le_refl _
    | (dsimp only; split)

theorem State.slotIdle_inv {s : State} (h : s.From q) (c : Nat) : (State.slotIdle s c).From q := by
  unfold State.slotIdle
  repeat' first
    | with_reducible intro _
    | with_reducible assumption
    | with_reducible first | apply State.ite_inv | apply State.setLch_inv | apply State.wr_inv
    | split
    | with_reducible apply State.mk_inv
    | with_reducible rfl
    | with_reducible exact Nat.le_refl _
    | (dsimp only; split)

theorem State.slotWait_inv {s : State} (h : s.From q) (c : Nat) : (State.slotWait s c).From q := by
  unfold State.slotWait
  repeat' first
    | with_reducible intro _
    | with_reducible assumption
    | with_reducible first | apply State.ite_inv | apply State.setLch_inv | apply State.wr_inv
    | split
    | with_reducible apply State.mk_inv
    | with_reducible rfl
    | with_reducible exact Nat.le_refl _
    | (dsimp only; split)

theorem State.issue_inv {s : State} (h : s.From q) (c : Nat) (u : Int) : (State.issue s c u).From q := by
  unfold State.issue
  repeat' first
    | with_reducible intro _
    | with_reducible assumption
    | with_reducible first | apply State.ite_inv | apply State.fst_ite_inv | apply State.setLch_inv
    | split
    | with_reducible apply State.mk_inv
    | with_reducible rfl
    | with_reducible exact Nat.le_refl _
    | (dsimp only; split)

theorem State.slotMain_inv {s : State} (h : s.From q) (c o : Nat) (r : Int) (ref : Bool) (held : Option Bool) : (State.slotMain s c o r ref held).From q := by
  unfold State.slotMain
  repeat' first
    | with_reducible intro _
    | with_reducible assumption
    | with_reducible first | apply State.ite_inv | apply State.issue_inv | apply State.nodesSet_inv | apply State.pathNext_inv | apply State.peak_inv | apply State.rcSample_inv | apply State.setLch_inv | apply State.wr_inv
    | split
    | with_reducible apply State.mk_inv
    | with_reducible rfl
    | with_reducible exact Nat.le_refl _
    | (dsimp only; split)

theorem State.slotUpper_inv {s : State} (h : s.From q) (c : Nat) (held : Bool) : (State.slotUpper s c held).From q := by
  unfold State.slotUpper
  repeat' first
    | with_reducible intro _
    | with_reducible assumption
    | with_reducible first | apply State.ite_inv | apply State.fst_ite_inv | apply State.snd_ite_inv | apply State.nodesSet_inv | apply State.setLch_inv | apply State.wr_inv | apply State.wrI_inv
    | split
    | with_reducible apply State.mk_inv
    | with_reducible rfl
    | with_reducible exact Nat.le_refl _
    | (dsimp only; split)

theorem State.envelope_inv {s : State} (h : s.From q) (c : Nat) : (State.envelope s c).From q := by
  unfold State.envelope
  repeat' first
    | with_reducible intro _
    | with_reducible assumption
    | with_reducible first | apply State.ite_inv | apply State.foldl_inv | apply State.foldl_fst_inv | apply State.foldl_snd_inv | apply State.setBridge_inv | apply State.shedLeg_inv
    | split
    | with_reducible apply State.mk_inv
    | with_reducible rfl
    | with_reducible exact Nat.le_refl _
    | (dsimp only; split)

theorem State.slot_inv {s : State} (h : s.From q) (c : Nat) (r : Int) (ref : Bool) (fs : List LaneFault) : (State.slot s c r ref fs).From q := by
  unfold State.slot
  repeat' first
    | with_reducible intro _
    | with_reducible assumption
    | with_reducible first | apply State.ite_inv | apply State.envelope_inv | apply State.laneFaults_inv | apply State.slotIdle_inv | apply State.slotMain_inv | apply State.slotUpper_inv | apply State.slotWait_inv
    | split
    | with_reducible apply State.mk_inv
    | with_reducible rfl
    | with_reducible exact Nat.le_refl _
    | (dsimp only; split)

theorem State.outputReference_inv {s : State} (h : s.From q) (o : Nat) : (State.outputReference s o).2.From q := by
  unfold State.outputReference
  repeat' first
    | with_reducible intro _
    | with_reducible assumption
    | with_reducible first | apply State.ite_inv | apply State.fst_ite_inv | apply State.snd_ite_inv | apply State.clampStage_inv | apply State.peak_inv | apply State.setGout_inv
    | split
    | with_reducible apply State.mk_inv
    | with_reducible rfl
    | with_reducible exact Nat.le_refl _
    | (dsimp only; split)

theorem State.traceStep_inv {s : State} (h : s.From q) (b : Nat) : (State.traceStep s b).From q := by
  unfold State.traceStep
  repeat' first
    | with_reducible intro _
    | with_reducible assumption
    | with_reducible first | apply State.ite_inv | apply State.setTbuf_inv | apply State.trigger_inv
    | split
    | with_reducible apply State.mk_inv
    | with_reducible rfl
    | with_reducible exact Nat.le_refl _
    | (dsimp only; split)

theorem State.traceTake_inv {s : State} (h : s.From q) (b : Nat) : (State.traceTake s b).From q := by
  unfold State.traceTake
  repeat' first
    | with_reducible intro _
    | with_reducible assumption
    | with_reducible first | apply State.ite_inv | apply State.traceCapture_inv
    | split
    | with_reducible apply State.mk_inv
    | with_reducible rfl
    | with_reducible exact Nat.le_refl _
    | (dsimp only; split)

theorem State.rampStep_inv {s : State} (h : s.From q) (o : Nat) : (State.rampStep s o).From q := by
  unfold State.rampStep
  repeat' first
    | with_reducible intro _
    | with_reducible assumption
    | with_reducible first | apply State.ite_inv | apply State.setOut_inv
    | split
    | with_reducible apply State.mk_inv
    | with_reducible rfl
    | with_reducible exact Nat.le_refl _
    | (dsimp only; split)

theorem State.controlSample_inv {s : State} (h : s.From q) (faults : List (Fin 16 × LaneFault)) : (State.controlSample s faults).From q := by
  unfold State.controlSample
  repeat' first
    | with_reducible intro _
    | with_reducible assumption
    | with_reducible first | apply State.ite_inv | apply State.foldl_inv | apply State.foldl_fst_inv | apply State.foldl_snd_inv | apply State.fst_ite_inv | apply State.snd_ite_inv | apply State.bumpWrap_inv | apply State.ev_inv | apply State.forAll_inv | apply State.modulators_inv | apply State.outputReference_inv | apply State.rampStep_inv | apply State.setGout_inv | apply State.slot_inv | apply State.traceStep_inv | apply State.traceTake_inv
    | split
    | with_reducible apply State.mk_inv
    | with_reducible rfl
    | with_reducible exact Nat.le_refl _
    | (dsimp only; split)

theorem execLaneEvaluate_inv {s : State} (h : s.From q) (faults : List (Fin 16 × LaneFault)) : Keeps q (execLaneEvaluate faults s) := by
  unfold execLaneEvaluate
  repeat' first
    | with_reducible intro _
    | with_reducible assumption
    | with_reducible first | apply Keeps.next | apply Keeps.ite | apply State.ite_inv | apply State.controlSample_inv
    | split
    | with_reducible apply State.mk_inv
    | with_reducible rfl
    | with_reducible exact Nat.le_refl _
    | (dsimp only; split)

end Sys2Proof.Machine
end

