-- ==== Sys2Proof/Laws/InvSupply.lean ====
section
/-!
SUPPORT. Laws/InvSupply.lean: the operations of Machine/Supply.lean keep the invariant of Safety.lean.
-/

namespace Sys2Proof.Machine

-- one theorem after the other: the package as one text then needs fewer threads
set_option Elab.async false

open Sys2Proof

variable {q : State}

theorem State.pvddStat_inv {s : State} (h : s.From q)  : (State.pvddStat s).From q := by
  unfold State.pvddStat
  repeat' first
    | with_reducible intro _
    | with_reducible assumption
    | with_reducible first | apply State.ite_inv | apply State.wr_inv | apply State.wrB_inv
    | split
    | with_reducible apply State.mk_inv
    | with_reducible rfl
    | with_reducible exact Nat.le_refl _
    | (dsimp only; split)

theorem State.setVT_inv {s : State} (h : s.From q) (v : Nat) : (State.setVT s v).From q := by
  unfold State.setVT
  repeat' first
    | with_reducible intro _
    | with_reducible assumption
    | with_reducible first | apply State.ite_inv
    | split
    | with_reducible apply State.mk_inv
    | with_reducible rfl
    | with_reducible exact Nat.le_refl _
    | (dsimp only; split)

theorem State.pvddTarget_inv {s : State} (h : s.From q)  : (State.pvddTarget s).From q := by
  unfold State.pvddTarget
  repeat' first
    | with_reducible intro _
    | with_reducible assumption
    | with_reducible first | apply State.ite_inv | apply State.setVT_inv
    | split
    | with_reducible apply State.mk_inv
    | with_reducible rfl
    | with_reducible exact Nat.le_refl _
    | (dsimp only; split)

theorem State.pvddStart_inv {s : State} (h : s.From q) (volts : Nat) : (State.pvddStart s volts).From q := by
  unfold State.pvddStart
  repeat' first
    | with_reducible intro _
    | with_reducible assumption
    | with_reducible first | apply State.ite_inv | apply State.ev_inv | apply State.pvddStat_inv | apply State.wr_inv
    | split
    | with_reducible apply State.mk_inv
    | with_reducible rfl
    | with_reducible exact Nat.le_refl _
    | (dsimp only; split)

theorem State.pvddOut_inv {s : State} (h : s.From q)  : (State.pvddOut s).From q := by
  unfold State.pvddOut
  repeat' first
    | with_reducible intro _
    | with_reducible assumption
    | with_reducible first | apply State.ite_inv | apply State.outputsOff_inv | apply State.setBit_inv
    | split
    | with_reducible apply State.mk_inv
    | with_reducible rfl
    | with_reducible exact Nat.le_refl _
    | (dsimp only; split)

theorem State.pvddStop_inv {s : State} (h : s.From q)  : (State.pvddStop s).From q := by
  unfold State.pvddStop
  repeat' first
    | with_reducible intro _
    | with_reducible assumption
    | with_reducible first | apply State.ite_inv | apply State.pvddOut_inv | apply State.pvddStat_inv | apply State.wr_inv
    | split
    | with_reducible apply State.mk_inv
    | with_reducible rfl
    | with_reducible exact Nat.le_refl _
    | (dsimp only; split)

theorem State.setHold_inv {s : State} (h : s.From q) (st : Nat) : (State.setHold s st).From q := by
  unfold State.setHold
  repeat' first
    | with_reducible intro _
    | with_reducible assumption
    | with_reducible first | apply State.ite_inv | apply State.wr_inv
    | split
    | with_reducible apply State.mk_inv
    | with_reducible rfl
    | with_reducible exact Nat.le_refl _
    | (dsimp only; split)

theorem State.chgStart_inv {s : State} (h : s.From q)  : (State.chgStart s).From q := by
  unfold State.chgStart
  repeat' first
    | with_reducible intro _
    | with_reducible assumption
    | with_reducible first | apply State.ite_inv | apply State.setHold_inv | apply State.wr_inv
    | split
    | with_reducible apply State.mk_inv
    | with_reducible rfl
    | with_reducible exact Nat.le_refl _
    | (dsimp only; split)

theorem State.chgStop_inv {s : State} (h : s.From q)  : (State.chgStop s).From q := by
  unfold State.chgStop
  repeat' first
    | with_reducible intro _
    | with_reducible assumption
    | with_reducible first | apply State.ite_inv | apply State.setBit_inv | apply State.setHold_inv
    | split
    | with_reducible apply State.mk_inv
    | with_reducible rfl
    | with_reducible exact Nat.le_refl _
    | (dsimp only; split)

theorem State.holdupLeave_inv {s : State} (h : s.From q) (st : Nat) : (State.holdupLeave s st).From q := by
  unfold State.holdupLeave
  repeat' first
    | with_reducible intro _
    | with_reducible assumption
    | with_reducible first | apply State.ite_inv | apply State.setHold_inv | apply State.wr_inv
    | split
    | with_reducible apply State.mk_inv
    | with_reducible rfl
    | with_reducible exact Nat.le_refl _
    | (dsimp only; split)

theorem State.railOn_inv {s : State} (h : s.From q) (r : Nat) : (State.railOn s r).From q := by
  unfold State.railOn
  repeat' first
    | with_reducible intro _
    | with_reducible assumption
    | with_reducible first | apply State.ite_inv | apply State.chgStart_inv | apply State.pvddStart_inv
    | split
    | with_reducible apply State.mk_inv
    | with_reducible rfl
    | with_reducible exact Nat.le_refl _
    | (dsimp only; split)

theorem State.railOff_inv {s : State} (h : s.From q) (r : Nat) : (State.railOff s r).From q := by
  unfold State.railOff
  repeat' first
    | with_reducible intro _
    | with_reducible assumption
    | with_reducible first | apply State.ite_inv | apply State.chgStop_inv | apply State.pvddStop_inv | apply State.setBit_inv
    | split
    | with_reducible apply State.mk_inv
    | with_reducible rfl
    | with_reducible exact Nat.le_refl _
    | (dsimp only; split)

theorem State.railRequest_inv {s : State} (h : s.From q) (r : Nat) : (State.railRequest s r).From q := by
  unfold State.railRequest
  repeat' first
    | with_reducible intro _
    | with_reducible assumption
    | with_reducible first | apply State.ite_inv | apply State.ev_inv | apply State.railOn_inv
    | split
    | with_reducible apply State.mk_inv
    | with_reducible rfl
    | with_reducible exact Nat.le_refl _
    | (dsimp only; split)

theorem State.railDisable_inv {s : State} (h : s.From q) (r : Nat) : (State.railDisable s r).From q := by
  unfold State.railDisable
  repeat' first
    | with_reducible intro _
    | with_reducible assumption
    | with_reducible first | apply State.ite_inv | apply State.railOff_inv
    | split
    | with_reducible apply State.mk_inv
    | with_reducible rfl
    | with_reducible exact Nat.le_refl _
    | (dsimp only; split)

theorem State.railDown_inv {s : State} (h : s.From q) (r : Nat) : (State.railDown s r).From q := by
  unfold State.railDown
  repeat' first
    | with_reducible intro _
    | with_reducible assumption
    | with_reducible first | apply State.ite_inv | apply State.railOff_inv | apply State.setBit_inv
    | split
    | with_reducible apply State.mk_inv
    | with_reducible rfl
    | with_reducible exact Nat.le_refl _
    | (dsimp only; split)

theorem State.downGo_inv (l : List (List Nat)) {s : State} (h : s.From q) : (State.downGo l s).From q := by
  induction l generalizing s with
  | nil => exact h.of_eq rfl rfl rfl rfl rfl rfl rfl rfl rfl rfl rfl
  | cons g rest ih =>
    unfold State.downGo
    repeat' first
      | with_reducible intro _
      | with_reducible assumption
      | with_reducible first | apply ih | apply State.forEach_inv | apply State.railDown_inv | apply State.ite_inv
      | split
      | with_reducible apply State.mk_inv
      | with_reducible rfl

theorem State.downStart_inv {s : State} (h : s.From q)  : (State.downStart s).From q := by
  unfold State.downStart
  repeat' first
    | with_reducible intro _
    | with_reducible assumption
    | with_reducible first | apply State.ite_inv | apply State.downGo_inv
    | split
    | with_reducible apply State.mk_inv
    | with_reducible rfl
    | with_reducible exact Nat.le_refl _
    | (dsimp only; split)

theorem State.downDone_inv {s : State} (h : s.From q) (r : Nat) : (State.downDone s r).From q := by
  unfold State.downDone
  repeat' first
    | with_reducible intro _
    | with_reducible assumption
    | with_reducible first | apply State.ite_inv | apply State.downGo_inv
    | split
    | with_reducible apply State.mk_inv
    | with_reducible rfl
    | with_reducible exact Nat.le_refl _
    | (dsimp only; split)

theorem State.dischargeStart_inv {s : State} (h : s.From q) (crash : Bool) : (State.dischargeStart s crash).From q := by
  unfold State.dischargeStart
  repeat' first
    | with_reducible intro _
    | with_reducible assumption
    | with_reducible first | apply State.ite_inv | apply State.chgStop_inv | apply State.ev_inv | apply State.fastoff_inv | apply State.forAll_inv | apply State.holdupLeave_inv | apply State.raise_inv | apply State.wr_inv
    | split
    | with_reducible apply State.mk_inv
    | with_reducible rfl
    | with_reducible exact Nat.le_refl _
    | (dsimp only; split)

theorem State.dischargePvdd_inv {s : State} (h : s.From q)  : (State.dischargePvdd s).From q := by
  unfold State.dischargePvdd
  repeat' first
    | with_reducible intro _
    | with_reducible assumption
    | with_reducible first | apply State.ite_inv | apply State.pvddStop_inv
    | split
    | with_reducible apply State.mk_inv
    | with_reducible rfl
    | with_reducible exact Nat.le_refl _
    | (dsimp only; split)

theorem State.standbyEnter_inv {s : State} (h : s.From q)  : (State.standbyEnter s).From q := by
  unfold State.standbyEnter
  repeat' first
    | with_reducible intro _
    | with_reducible assumption
    | with_reducible first | apply State.ite_inv | apply State.dischargeStart_inv | apply State.downStart_inv | apply State.fastoff_inv | apply State.forAll_inv | apply State.wr_inv
    | split
    | with_reducible apply State.mk_inv
    | with_reducible rfl
    | with_reducible exact Nat.le_refl _
    | (dsimp only; split)

theorem State.holdupEnded_inv {s : State} (h : s.From q)  : (State.holdupEnded s).From q := by
  unfold State.holdupEnded
  repeat' first
    | with_reducible intro _
    | with_reducible assumption
    | with_reducible first | apply State.ite_inv | apply State.chgStop_inv | apply State.standbyEnter_inv
    | split
    | with_reducible apply State.mk_inv
    | with_reducible rfl
    | with_reducible exact Nat.le_refl _
    | (dsimp only; split)

theorem State.discharge_inv {s : State} (h : s.From q) (crash : Bool) : (State.discharge s crash).From q := by
  unfold State.discharge
  repeat' first
    | with_reducible intro _
    | with_reducible assumption
    | with_reducible first | apply State.ite_inv | apply State.dischargeStart_inv | apply State.standbyEnter_inv
    | split
    | with_reducible apply State.mk_inv
    | with_reducible rfl
    | with_reducible exact Nat.le_refl _
    | (dsimp only; split)

theorem State.standbyRequest_inv {s : State} (h : s.From q)  : (State.standbyRequest s).From q := by
  unfold State.standbyRequest
  repeat' first
    | with_reducible intro _
    | with_reducible assumption
    | with_reducible first | apply State.ite_inv | apply State.ev_inv | apply State.standbyEnter_inv
    | split
    | with_reducible apply State.mk_inv
    | with_reducible rfl
    | with_reducible exact Nat.le_refl _
    | (dsimp only; split)

theorem State.hkMicb_inv {s : State} (h : s.From q)  : (State.hkMicb s).From q := by
  unfold State.hkMicb
  repeat' first
    | with_reducible intro _
    | with_reducible assumption
    | with_reducible first | apply State.ite_inv
    | split
    | with_reducible apply State.mk_inv
    | with_reducible rfl
    | with_reducible exact Nat.le_refl _
    | (dsimp only; split)

end Sys2Proof.Machine
end

