-- ==== Sys2Proof/Laws/InvReset.lean ====
section
/-!
SUPPORT. Laws/InvReset.lean: the operations of Machine/Reset.lean keep the invariant of Safety.lean.
-/

namespace Sys2Proof.Machine

-- one theorem after the other: the package as one text then needs fewer threads
set_option Elab.async false

open Sys2Proof

variable {q : State}

theorem State.svAfterReset_inv {s : State} (h : s.From q) : s.svAfterReset.2.From q := by
  unfold State.svAfterReset
  split
  · exact h
  · exact State.draw_inv h 1

/-- The security version after a reset is not below the one before it (R460). -/
theorem State.svAfterReset_le (s : State) : s.otp.minSv ≤ s.svAfterReset.1 := by
  unfold State.svAfterReset
  split
  · exact Nat.le_refl _
  · dsimp only; split
    · exact Nat.le_max_left _ _
    · exact Nat.le_refl _

theorem State.svAfterReset_otp (s : State) : s.svAfterReset.2.otp = s.otp := by
  unfold State.svAfterReset
  split <;> rfl

theorem State.dieKeep_inv {s : State} (h : s.From q) (k : ResetKind) (sv : Nat) (hv : s.otp.minSv ≤ sv) :
    (s.dieKeep k sv).From q := by
  obtain ⟨hp, hn, ho, hm⟩ := h.2
  refine ⟨fun hq => ?_, ⟨hp, hn, ?_, Nat.le_trans hm hv⟩⟩
  · obtain ⟨⟨c1, c2⟩, b⟩ := h.1 hq
    unfold State.dieKeep
    have z (n : Nat) : (0 : Nat) ≤ n := Nat.zero_le n
    refine ⟨⟨?_, ?_⟩, ?_⟩
    · cases k <;> first | exact rfl | exact Tbl.wf_drop c1
    · cases k <;> first | exact rfl | exact c2
    · cases k
      · exact ⟨z _, z _, z _, z _, z _, z _, z _, z _⟩
      · exact ⟨z _, z _, z _, z _, z _, z _, z _, z _⟩
      · exact ⟨z _, z _, z _, z _, z _, z _, z _, z _⟩
      · exact ⟨z _, z _, z _, z _, z _, z _, z _, b.8⟩
  · show { s.otp with minSv := sv } = { q.otp with minSv := sv }
    rw [ho]

theorem State.dieReset_inv {s : State} (h : s.From q) (k : ResetKind) : (s.dieReset k).From q := by
  have h2 := State.svAfterReset_inv h
  have hv : s.svAfterReset.2.otp.minSv ≤ s.svAfterReset.1 := State.svAfterReset_otp s ▸ State.svAfterReset_le s
  unfold State.dieReset
  generalize s.svAfterReset = r at *
  obtain ⟨sv, s⟩ := r
  dsimp only at *
  have h3 := State.dieKeep_inv h2 k sv hv
  generalize s.dieKeep k sv = u at *
  repeat' first
    | with_reducible intro _
    | with_reducible assumption
    | with_reducible first | apply State.ite_inv | apply State.setReg_inv | apply State.wr_inv | apply State.wrB_inv | apply State.forAll_inv | apply State.setHold_inv
    | with_reducible apply State.mk_inv
    | with_reducible rfl
    | split

theorem State.bootRom_inv {s : State} (h : s.From q)  : (State.bootRom s).From q := by
  unfold State.bootRom
  repeat' first
    | with_reducible intro _
    | with_reducible assumption
    | with_reducible first | apply State.ite_inv | apply State.fst_ite_inv | apply State.snd_ite_inv | apply State.complete_inv | apply State.ev_inv | apply State.forEach_inv | apply State.setReg_inv | apply State.when_inv | apply State.wr_inv | apply State.wrB_inv
    | split
    | with_reducible apply State.mk_inv
    | with_reducible rfl
    | with_reducible exact Nat.le_refl _
    | (dsimp only; split)

theorem State.resetTrigger_inv {s : State} (h : s.From q) (k : ResetKind) : (s.resetTrigger k).From q := by
  unfold State.resetTrigger
  repeat' first
    | with_reducible intro _
    | with_reducible assumption
    | with_reducible first | apply State.ite_inv | apply State.wr_inv | apply State.dieReset_inv
    | split

theorem State.warmTrigger_inv {s : State} (h : s.From q) (fcol : Bool) (mode : Nat) : (State.warmTrigger s fcol mode).From q := by
  unfold State.warmTrigger
  repeat' first
    | with_reducible intro _
    | with_reducible assumption
    | with_reducible first | apply State.ite_inv | apply State.fastoff_inv | apply State.forAll_inv | apply State.wr_inv
    | split
    | with_reducible apply State.mk_inv
    | with_reducible rfl
    | with_reducible exact Nat.le_refl _
    | (dsimp only; split)

theorem State.warmAbandon_inv {s : State} (h : s.From q)  : (State.warmAbandon s).From q := by
  unfold State.warmAbandon
  repeat' first
    | with_reducible intro _
    | with_reducible assumption
    | with_reducible first | apply State.ite_inv
    | split
    | with_reducible apply State.mk_inv
    | with_reducible rfl
    | with_reducible exact Nat.le_refl _
    | (dsimp only; split)

theorem execPowerOnReset_inv {s : State} (h : s.From q)  : Keeps q (execPowerOnReset s) := by
  unfold execPowerOnReset
  repeat' first
    | with_reducible intro _
    | with_reducible assumption
    | with_reducible first | apply Keeps.next | apply Keeps.ite | apply State.ite_inv | apply State.resetTrigger_inv
    | split
    | with_reducible apply State.mk_inv
    | with_reducible rfl
    | with_reducible exact Nat.le_refl _
    | (dsimp only; split)

theorem execBrownOut_inv {s : State} (h : s.From q) (c : BrownOut) : Keeps q (execBrownOut c s) := by
  unfold execBrownOut
  repeat' first
    | with_reducible intro _
    | with_reducible assumption
    | with_reducible first | apply Keeps.next | apply Keeps.ite | apply State.ite_inv | apply State.resetTrigger_inv
    | split
    | with_reducible apply State.mk_inv
    | with_reducible rfl
    | with_reducible exact Nat.le_refl _
    | (dsimp only; split)

theorem State.rstctrlWrite_inv {s : State} (h : s.From q) (v : BitVec 32) : (State.rstctrlWrite s v).From q := by
  unfold State.rstctrlWrite
  repeat' first
    | with_reducible intro _
    | with_reducible assumption
    | with_reducible first | apply State.ite_inv | apply State.bump_inv | apply State.warmTrigger_inv
    | split
    | with_reducible apply State.mk_inv
    | with_reducible rfl
    | with_reducible exact Nat.le_refl _
    | (dsimp only; split)

theorem execSysRstctrlWarm_inv {s : State} (h : s.From q) (v : Word) : Keeps q (execSysRstctrlWarm v s) := by
  unfold execSysRstctrlWarm
  repeat' first
    | with_reducible intro _
    | with_reducible assumption
    | with_reducible first | apply Keeps.next | apply Keeps.ite | apply State.ite_inv | apply State.rstctrlWrite_inv
    | split
    | with_reducible apply State.mk_inv
    | with_reducible rfl
    | with_reducible exact Nat.le_refl _
    | (dsimp only; split)

theorem execWarmResetRampEnd_inv {s : State} (h : s.From q)  : Keeps q (execWarmResetRampEnd s) := by
  unfold execWarmResetRampEnd
  repeat' first
    | with_reducible intro _
    | with_reducible assumption
    | with_reducible first | apply Keeps.next | apply Keeps.ite | apply State.ite_inv | apply State.bootRom_inv | apply State.dieReset_inv
    | split
    | with_reducible apply State.mk_inv
    | with_reducible rfl
    | with_reducible exact Nat.le_refl _
    | (dsimp only; split)

theorem execTestAccessReset_inv {s : State} (h : s.From q)  : Keeps q (execTestAccessReset s) := by
  unfold execTestAccessReset
  repeat' first
    | with_reducible intro _
    | with_reducible assumption
    | with_reducible first | apply Keeps.next | apply Keeps.ite | apply State.ite_inv
    | split
    | with_reducible apply State.mk_inv
    | with_reducible rfl
    | with_reducible exact Nat.le_refl _
    | (dsimp only; split)

theorem State.blockStart_inv {s : State} (h : s.From q) (bit : Nat) (f : State → State) (hf : ∀ t : State, t.From q → (f t).From q) : (State.blockStart s bit f).From q := by
  unfold State.blockStart
  repeat' first
    | with_reducible intro _
    | with_reducible assumption
    | with_reducible first | apply hf | apply State.ite_inv | apply State.setBit_inv | apply State.wr_inv
    | split
    | with_reducible apply State.mk_inv
    | with_reducible rfl
    | with_reducible exact Nat.le_refl _
    | (dsimp only; split)

theorem State.blockDiag_inv {s : State} (h : s.From q)  : (State.blockDiag s).From q := by
  unfold State.blockDiag
  repeat' first
    | with_reducible intro _
    | with_reducible assumption
    | with_reducible first | apply State.ite_inv | apply State.blockStart_inv | apply State.diagStat_inv | apply State.forAll_inv | apply State.resetRegs_inv | apply State.sweepAbort_inv
    | split
    | with_reducible apply State.mk_inv
    | with_reducible rfl
    | with_reducible exact Nat.le_refl _
    | (dsimp only; split)

theorem execBlkrstDiag_inv {s : State} (h : s.From q)  : Keeps q (execBlkrstDiag s) := by
  unfold execBlkrstDiag
  repeat' first
    | with_reducible intro _
    | with_reducible assumption
    | with_reducible first | apply Keeps.next | apply Keeps.ite | apply State.ite_inv | apply State.blockDiag_inv
    | split
    | with_reducible apply State.mk_inv
    | with_reducible rfl
    | with_reducible exact Nat.le_refl _
    | (dsimp only; split)

theorem State.blockTring_inv {s : State} (h : s.From q) : s.blockTring.From q := by
  unfold State.blockTring
  refine State.blockStart_inv h 6 _ (fun t ht => ?_)
  refine State.From.of_le (s := State.resetRegs _ _) (State.resetRegs_inv ?_ _) rfl rfl (Nat.le_refl _) (Nat.le_refl _)
    (Nat.zero_le _) (Nat.zero_le _) (Nat.le_refl _) (Nat.le_refl _) (Nat.le_refl _) (Nat.le_refl _)
  repeat' first
    | with_reducible intro _
    | with_reducible assumption
    | with_reducible first | apply State.forEach_inv | apply State.ctxBind_inv | apply State.ctxFault_inv | apply State.ctxUnbind_inv | apply State.ite_inv
    | split
    | with_reducible apply State.mk_inv
    | with_reducible rfl
    | with_reducible exact Nat.le_refl _

theorem execBlkrstTring_inv {s : State} (h : s.From q)  : Keeps q (execBlkrstTring s) := by
  unfold execBlkrstTring
  repeat' first
    | with_reducible intro _
    | with_reducible assumption
    | with_reducible first | apply Keeps.next | apply Keeps.ite | apply State.ite_inv | apply State.blockTring_inv
    | split
    | with_reducible apply State.mk_inv
    | with_reducible rfl
    | with_reducible exact Nat.le_refl _
    | (dsimp only; split)

theorem State.blockPort_inv {s : State} (h : s.From q) (n : Nat) : (State.blockPort s n).From q := by
  unfold State.blockPort
  repeat' first
    | with_reducible intro _
    | with_reducible assumption
    | with_reducible first | apply State.ite_inv | apply State.blockStart_inv | apply State.ctxBind_inv | apply State.ctxFault_inv | apply State.forEach_inv | apply State.resetRegs_inv | apply State.setPort_inv
    | split
    | with_reducible apply State.mk_inv
    | with_reducible rfl
    | with_reducible exact Nat.le_refl _
    | (dsimp only; split)

theorem execBlkrstPort_inv {s : State} (h : s.From q) (n : Fin 4) : Keeps q (execBlkrstPort n s) := by
  unfold execBlkrstPort
  repeat' first
    | with_reducible intro _
    | with_reducible assumption
    | with_reducible first | apply Keeps.next | apply Keeps.ite | apply State.ite_inv | apply State.blockPort_inv
    | split
    | with_reducible apply State.mk_inv
    | with_reducible rfl
    | with_reducible exact Nat.le_refl _
    | (dsimp only; split)

theorem State.blockTrace_inv {s : State} (h : s.From q)  : (State.blockTrace s).From q := by
  unfold State.blockTrace
  repeat' first
    | with_reducible intro _
    | with_reducible assumption
    | with_reducible first | apply State.ite_inv | apply State.blockStart_inv | apply State.resetRegs_inv
    | split
    | with_reducible apply State.mk_inv
    | with_reducible rfl
    | with_reducible exact Nat.le_refl _
    | (dsimp only; split)

theorem execBlkrstTrace_inv {s : State} (h : s.From q)  : Keeps q (execBlkrstTrace s) := by
  unfold execBlkrstTrace
  repeat' first
    | with_reducible intro _
    | with_reducible assumption
    | with_reducible first | apply Keeps.next | apply Keeps.ite | apply State.ite_inv | apply State.blockTrace_inv
    | split
    | with_reducible apply State.mk_inv
    | with_reducible rfl
    | with_reducible exact Nat.le_refl _
    | (dsimp only; split)

theorem State.blockDecim_inv {s : State} (h : s.From q)  : (State.blockDecim s).From q := by
  unfold State.blockDecim
  repeat' first
    | with_reducible intro _
    | with_reducible assumption
    | with_reducible first | apply State.ite_inv | apply State.blockStart_inv | apply State.resetRegs_inv
    | split
    | with_reducible apply State.mk_inv
    | with_reducible rfl
    | with_reducible exact Nat.le_refl _
    | (dsimp only; split)

theorem execBlkrstDecim_inv {s : State} (h : s.From q)  : Keeps q (execBlkrstDecim s) := by
  unfold execBlkrstDecim
  repeat' first
    | with_reducible intro _
    | with_reducible assumption
    | with_reducible first | apply Keeps.next | apply Keeps.ite | apply State.ite_inv | apply State.blockDecim_inv
    | split
    | with_reducible apply State.mk_inv
    | with_reducible rfl
    | with_reducible exact Nat.le_refl _
    | (dsimp only; split)

theorem State.blkrstWrite_inv {s : State} (h : s.From q) (v : BitVec 32) : (State.blkrstWrite s v).From q := by
  unfold State.blkrstWrite
  repeat' first
    | with_reducible intro _
    | with_reducible assumption
    | with_reducible first | apply State.ite_inv | apply State.blockDecim_inv | apply State.blockDiag_inv | apply State.blockPort_inv | apply State.blockTrace_inv | apply State.blockTring_inv | apply State.forAll_inv
    | split
    | with_reducible apply State.mk_inv
    | with_reducible rfl
    | with_reducible exact Nat.le_refl _
    | (dsimp only; split)

theorem execBlockResetComplete_inv {s : State} (h : s.From q) (bit : Fin 8) : Keeps q (execBlockResetComplete bit s) := by
  unfold execBlockResetComplete
  repeat' first
    | with_reducible intro _
    | with_reducible assumption
    | with_reducible first | apply Keeps.next | apply Keeps.ite | apply State.ite_inv | apply State.decimStart_inv | apply State.setBit_inv | apply State.wr_inv
    | split
    | with_reducible apply State.mk_inv
    | with_reducible rfl
    | with_reducible exact Nat.le_refl _
    | (dsimp only; split)

theorem State.stage1Check_inv {s : State} (h : s.From q)  : (State.stage1Check s).From q := by
  unfold State.stage1Check
  repeat' first
    | with_reducible intro _
    | with_reducible assumption
    | with_reducible first | apply State.ite_inv | apply State.wr_inv
    | split
    | with_reducible apply State.mk_inv
    | with_reducible rfl
    | with_reducible exact Nat.le_refl _
    | (dsimp only; split)

theorem execXtalWindowEnd_inv {s : State} (h : s.From q) (edges : Nat) : Keeps q (execXtalWindowEnd edges s) := by
  unfold execXtalWindowEnd
  repeat' first
    | with_reducible intro _
    | with_reducible assumption
    | with_reducible first | apply Keeps.next | apply Keeps.ite | apply State.ite_inv | apply State.ev_inv | apply State.raise_inv | apply State.stage1Check_inv | apply State.wr_inv
    | split
    | with_reducible apply State.mk_inv
    | with_reducible rfl
    | with_reducible exact Nat.le_refl _
    | (dsimp only; split)

theorem State.spreadStat_inv {s : State} (h : s.From q)  : (State.spreadStat s).From q := by
  unfold State.spreadStat
  repeat' first
    | with_reducible intro _
    | with_reducible assumption
    | with_reducible first | apply State.ite_inv | apply State.wrB_inv
    | split
    | with_reducible apply State.mk_inv
    | with_reducible rfl
    | with_reducible exact Nat.le_refl _
    | (dsimp only; split)

theorem execPllLockLost_inv {s : State} (h : s.From q) (pllB : Bool) : Keeps q (execPllLockLost pllB s) := by
  unfold execPllLockLost
  repeat' first
    | with_reducible intro _
    | with_reducible assumption
    | with_reducible first | apply Keeps.next | apply Keeps.ite | apply State.ite_inv | apply State.outputsPllLost_inv | apply State.raise_inv | apply State.spreadStat_inv | apply State.wr_inv
    | split
    | with_reducible apply State.mk_inv
    | with_reducible rfl
    | with_reducible exact Nat.le_refl _
    | (dsimp only; split)

theorem execPllLockAcquired_inv {s : State} (h : s.From q) (pllB : Bool) : Keeps q (execPllLockAcquired pllB s) := by
  unfold execPllLockAcquired
  repeat' first
    | with_reducible intro _
    | with_reducible assumption
    | with_reducible first | apply Keeps.next | apply Keeps.ite | apply State.ite_inv | apply State.bootRom_inv | apply State.outputsKick_inv | apply State.spreadStat_inv | apply State.wr_inv
    | split
    | with_reducible apply State.mk_inv
    | with_reducible rfl
    | with_reducible exact Nat.le_refl _
    | (dsimp only; split)

theorem execTsrcLockGained_inv {s : State} (h : s.From q) (period : BitVec 24) : Keeps q (execTsrcLockGained period s) := by
  unfold execTsrcLockGained
  repeat' first
    | with_reducible intro _
    | with_reducible assumption
    | with_reducible first | apply Keeps.next | apply Keeps.ite | apply State.ite_inv | apply State.portRxIn_inv | apply State.refdlyFa_inv | apply State.ringLockGained_inv | apply State.trackerAcquire_inv | apply State.wr_inv
    | split
    | with_reducible apply State.mk_inv
    | with_reducible rfl
    | with_reducible exact Nat.le_refl _
    | (dsimp only; split)

theorem execTsrcLockLost_inv {s : State} (h : s.From q)  : Keeps q (execTsrcLockLost s) := by
  unfold execTsrcLockLost
  repeat' first
    | with_reducible intro _
    | with_reducible assumption
    | with_reducible first | apply Keeps.next | apply Keeps.ite | apply State.ite_inv | apply State.ctxFault_inv | apply State.forEach_inv | apply State.tsrcUnlock_inv
    | split
    | with_reducible apply State.mk_inv
    | with_reducible rfl
    | with_reducible exact Nat.le_refl _
    | (dsimp only; split)

theorem execBenchAccessTimeout_inv {s : State} (h : s.From q)  : Keeps q (execBenchAccessTimeout s) := by
  unfold execBenchAccessTimeout
  repeat' first
    | with_reducible intro _
    | with_reducible assumption
    | with_reducible first | apply Keeps.next | apply Keeps.ite | apply State.ite_inv | apply State.bump_inv
    | split
    | with_reducible apply State.mk_inv
    | with_reducible rfl
    | with_reducible exact Nat.le_refl _
    | (dsimp only; split)

theorem execCrossingFifoEvent_inv {s : State} (h : s.From q) (island : Fin 15) : Keeps q (execCrossingFifoEvent island s) := by
  unfold execCrossingFifoEvent
  repeat' first
    | with_reducible intro _
    | with_reducible assumption
    | with_reducible first | apply Keeps.next | apply Keeps.ite | apply State.ite_inv | apply State.raise_inv
    | split
    | with_reducible apply State.mk_inv
    | with_reducible rfl
    | with_reducible exact Nat.le_refl _
    | (dsimp only; split)

end Sys2Proof.Machine
end

