-- ==== Sys2Proof/Laws/InvPmu.lean ====
section
/-!
SUPPORT. Laws/InvPmu.lean: the operations of Machine/Pmu.lean keep the invariant of Safety.lean.
-/

namespace Sys2Proof.Machine

-- one theorem after the other: the package as one text then needs fewer threads
set_option Elab.async false

open Sys2Proof

variable {q : State}

theorem State.sampleStraps_inv {s : State} (h : s.From q) (bootsel hbAddr0 hbAddr1 : Nat) : (State.sampleStraps s bootsel hbAddr0 hbAddr1).From q := by
  unfold State.sampleStraps
  repeat' first
    | with_reducible intro _
    | with_reducible assumption
    | with_reducible first | apply State.ite_inv
    | split
    | with_reducible apply State.mk_inv
    | with_reducible rfl
    | with_reducible exact Nat.le_refl _
    | (dsimp only; split)

theorem execStage1Start_inv {s : State} (h : s.From q) (vsys bootsel hbAddr0 hbAddr1 : Nat) : Keeps q (execStage1Start vsys bootsel hbAddr0 hbAddr1 s) := by
  unfold execStage1Start
  repeat' first
    | with_reducible intro _
    | with_reducible assumption
    | with_reducible first | apply Keeps.next | apply Keeps.ite | apply State.ite_inv | apply State.railRequest_inv | apply State.sampleStraps_inv
    | split
    | with_reducible apply State.mk_inv
    | with_reducible rfl
    | with_reducible exact Nat.le_refl _
    | (dsimp only; split)

theorem State.stageCheck_inv {s : State} (h : s.From q)  : (State.stageCheck s).From q := by
  unfold State.stageCheck
  repeat' first
    | with_reducible intro _
    | with_reducible assumption
    | with_reducible first | apply State.ite_inv | apply State.ev_inv | apply State.wr_inv
    | split
    | with_reducible apply State.mk_inv
    | with_reducible rfl
    | with_reducible exact Nat.le_refl _
    | (dsimp only; split)

theorem State.stageRail_inv {s : State} (h : s.From q) (r : Nat) : (State.stageRail s r).From q := by
  unfold State.stageRail
  repeat' first
    | with_reducible intro _
    | with_reducible assumption
    | with_reducible first | apply State.ite_inv | apply State.stageCheck_inv
    | split
    | with_reducible apply State.mk_inv
    | with_reducible rfl
    | with_reducible exact Nat.le_refl _
    | (dsimp only; split)

theorem State.railReady_inv {s : State} (h : s.From q) (r : Nat) : (State.railReady s r).From q := by
  unfold State.railReady
  repeat' first
    | with_reducible intro _
    | with_reducible assumption
    | with_reducible first | apply State.ite_inv | apply State.railRequest_inv | apply State.setBit_inv | apply State.stage1Check_inv | apply State.stageRail_inv
    | split
    | with_reducible apply State.mk_inv
    | with_reducible rfl
    | with_reducible exact Nat.le_refl _
    | (dsimp only; split)

theorem State.pvddReady_inv {s : State} (h : s.From q)  : (State.pvddReady s).From q := by
  unfold State.pvddReady
  repeat' first
    | with_reducible intro _
    | with_reducible assumption
    | with_reducible first | apply State.ite_inv | apply State.outputsKick_inv | apply State.pvddTarget_inv | apply State.railReady_inv
    | split
    | with_reducible apply State.mk_inv
    | with_reducible rfl
    | with_reducible exact Nat.le_refl _
    | (dsimp only; split)

theorem execRailInWindow_inv {s : State} (h : s.From q) (rail : Fin 9) : Keeps q (execRailInWindow rail s) := by
  unfold execRailInWindow
  repeat' first
    | with_reducible intro _
    | with_reducible assumption
    | with_reducible first | apply Keeps.next | apply Keeps.ite | apply State.ite_inv | apply State.pvddReady_inv | apply State.railReady_inv
    | split
    | with_reducible apply State.mk_inv
    | with_reducible rfl
    | with_reducible exact Nat.le_refl _
    | (dsimp only; split)

theorem execPvddSoftStartDone_inv {s : State} (h : s.From q)  : Keeps q (execPvddSoftStartDone s) := by
  unfold execPvddSoftStartDone
  repeat' first
    | with_reducible intro _
    | with_reducible assumption
    | with_reducible first | apply Keeps.next | apply Keeps.ite | apply State.ite_inv | apply State.pvddReady_inv
    | split
    | with_reducible apply State.mk_inv
    | with_reducible rfl
    | with_reducible exact Nat.le_refl _
    | (dsimp only; split)

theorem execStage1RailTimeout_inv {s : State} (h : s.From q) (rail : Fin 9) : Keeps q (execStage1RailTimeout rail s) := by
  unfold execStage1RailTimeout
  repeat' first
    | with_reducible intro _
    | with_reducible assumption
    | with_reducible first | apply Keeps.next | apply Keeps.ite | apply State.ite_inv | apply State.forEach_inv | apply State.railOff_inv
    | split
    | with_reducible apply State.mk_inv
    | with_reducible rfl
    | with_reducible exact Nat.le_refl _
    | (dsimp only; split)

theorem execStage1Retry_inv {s : State} (h : s.From q)  : Keeps q (execStage1Retry s) := by
  unfold execStage1Retry
  repeat' first
    | with_reducible intro _
    | with_reducible assumption
    | with_reducible first | apply Keeps.next | apply Keeps.ite | apply State.ite_inv | apply State.railRequest_inv
    | split
    | with_reducible apply State.mk_inv
    | with_reducible rfl
    | with_reducible exact Nat.le_refl _
    | (dsimp only; split)

theorem State.stageStart_inv {s : State} (h : s.From q)  : (State.stageStart s).From q := by
  unfold State.stageStart
  repeat' first
    | with_reducible intro _
    | with_reducible assumption
    | with_reducible first | apply State.ite_inv | apply State.forEach_inv | apply State.railRequest_inv | apply State.setBit_inv | apply State.stageCheck_inv
    | split
    | with_reducible apply State.mk_inv
    | with_reducible rfl
    | with_reducible exact Nat.le_refl _
    | (dsimp only; split)

theorem execLaterStageStart_inv {s : State} (h : s.From q)  : Keeps q (execLaterStageStart s) := by
  unfold execLaterStageStart
  repeat' first
    | with_reducible intro _
    | with_reducible assumption
    | with_reducible first | apply Keeps.next | apply Keeps.ite | apply State.ite_inv | apply State.stageStart_inv
    | split
    | with_reducible apply State.mk_inv
    | with_reducible rfl
    | with_reducible exact Nat.le_refl _
    | (dsimp only; split)

theorem execStageTimeout_inv {s : State} (h : s.From q) (rail : Fin 9) : Keeps q (execStageTimeout rail s) := by
  unfold execStageTimeout
  repeat' first
    | with_reducible intro _
    | with_reducible assumption
    | with_reducible first | apply Keeps.next | apply Keeps.ite | apply State.ite_inv | apply State.ev_inv | apply State.railOff_inv | apply State.raise_inv | apply State.setBit_inv | apply State.stageRail_inv
    | split
    | with_reducible apply State.mk_inv
    | with_reducible rfl
    | with_reducible exact Nat.le_refl _
    | (dsimp only; split)

theorem State.wakeReset_inv {s : State} (h : s.From q) (src : Nat) : (State.wakeReset s src).From q := by
  unfold State.wakeReset
  repeat' first
    | with_reducible intro _
    | with_reducible assumption
    | with_reducible first | apply State.ite_inv | apply State.resetTrigger_inv
    | split
    | with_reducible apply State.mk_inv
    | with_reducible rfl
    | with_reducible exact Nat.le_refl _
    | (dsimp only; split)

theorem State.wake_inv {s : State} (h : s.From q) (src : Nat) : (State.wake s src).From q := by
  unfold State.wake
  repeat' first
    | with_reducible intro _
    | with_reducible assumption
    | with_reducible first | apply State.ite_inv | apply State.wakeReset_inv
    | split
    | with_reducible apply State.mk_inv
    | with_reducible rfl
    | with_reducible exact Nat.le_refl _
    | (dsimp only; split)

theorem State.wakeLatched_inv {s : State} (h : s.From q)  : (State.wakeLatched s).From q := by
  unfold State.wakeLatched
  repeat' first
    | with_reducible intro _
    | with_reducible assumption
    | with_reducible first | apply State.ite_inv | apply State.wakeReset_inv
    | split
    | with_reducible apply State.mk_inv
    | with_reducible rfl
    | with_reducible exact Nat.le_refl _
    | (dsimp only; split)

theorem State.railAgain_inv {s : State} (h : s.From q) (r : Nat) : (State.railAgain s r).From q := by
  unfold State.railAgain
  repeat' first
    | with_reducible intro _
    | with_reducible assumption
    | with_reducible first | apply State.ite_inv | apply State.railOn_inv | apply State.setBit_inv
    | split
    | with_reducible apply State.mk_inv
    | with_reducible rfl
    | with_reducible exact Nat.le_refl _
    | (dsimp only; split)

theorem execRailDischarged_inv {s : State} (h : s.From q) (rail : Fin 9) : Keeps q (execRailDischarged rail s) := by
  unfold execRailDischarged
  repeat' first
    | with_reducible intro _
    | with_reducible assumption
    | with_reducible first | apply Keeps.next | apply Keeps.ite | apply State.ite_inv | apply State.downDone_inv | apply State.railAgain_inv | apply State.setBit_inv | apply State.wakeLatched_inv
    | split
    | with_reducible apply State.mk_inv
    | with_reducible rfl
    | with_reducible exact Nat.le_refl _
    | (dsimp only; split)

theorem execDischargeTimeout_inv {s : State} (h : s.From q) (rail : Fin 9) : Keeps q (execDischargeTimeout rail s) := by
  unfold execDischargeTimeout
  repeat' first
    | with_reducible intro _
    | with_reducible assumption
    | with_reducible first | apply Keeps.next | apply Keeps.ite | apply State.ite_inv | apply State.downDone_inv | apply State.ev_inv | apply State.railAgain_inv | apply State.raise_inv | apply State.wakeLatched_inv
    | split
    | with_reducible apply State.mk_inv
    | with_reducible rfl
    | with_reducible exact Nat.le_refl _
    | (dsimp only; split)

theorem State.pvddOv_inv {s : State} (h : s.From q)  : (State.pvddOv s).From q := by
  unfold State.pvddOv
  repeat' first
    | with_reducible intro _
    | with_reducible assumption
    | with_reducible first | apply State.ite_inv | apply State.ev_inv | apply State.pvddOut_inv | apply State.pvddStat_inv | apply State.raise_inv
    | split
    | with_reducible apply State.mk_inv
    | with_reducible rfl
    | with_reducible exact Nat.le_refl _
    | (dsimp only; split)

theorem State.pvddUv_inv {s : State} (h : s.From q)  : (State.pvddUv s).From q := by
  unfold State.pvddUv
  repeat' first
    | with_reducible intro _
    | with_reducible assumption
    | with_reducible first | apply State.ite_inv | apply State.ev_inv | apply State.pvddOut_inv
    | split
    | with_reducible apply State.mk_inv
    | with_reducible rfl
    | with_reducible exact Nat.le_refl _
    | (dsimp only; split)

theorem execRailWindowTrip_inv {s : State} (h : s.From q) (rail : Fin 9) (exceeds : Bool) : Keeps q (execRailWindowTrip rail exceeds s) := by
  unfold execRailWindowTrip
  repeat' first
    | with_reducible intro _
    | with_reducible assumption
    | with_reducible first | apply Keeps.next | apply Keeps.ite | apply State.ite_inv | apply State.bump_inv | apply State.ev_inv | apply State.pvddOv_inv | apply State.pvddUv_inv | apply State.raise_inv | apply State.resetTrigger_inv | apply State.setBit_inv
    | split
    | with_reducible apply State.mk_inv
    | with_reducible rfl
    | with_reducible exact Nat.le_refl _
    | (dsimp only; split)

theorem State.railctrlWrite_inv {s : State} (h : s.From q) (v : BitVec 32) : (State.railctrlWrite s v).From q := by
  unfold State.railctrlWrite
  repeat' first
    | with_reducible intro _
    | with_reducible assumption
    | with_reducible first | apply State.ite_inv | apply State.bump_inv | apply State.chgStart_inv | apply State.chgStop_inv | apply State.forEach_inv | apply State.railDisable_inv | apply State.railRequest_inv | apply State.setBit_inv | apply State.wrB_inv
    | split
    | with_reducible apply State.mk_inv
    | with_reducible rfl
    | with_reducible exact Nat.le_refl _
    | (dsimp only; split)

theorem execRailCtrlWrite_inv {s : State} (h : s.From q) (v : Word) : Keeps q (execRailCtrlWrite v s) := by
  unfold execRailCtrlWrite
  repeat' first
    | with_reducible intro _
    | with_reducible assumption
    | with_reducible first | apply Keeps.next | apply Keeps.ite | apply State.ite_inv | apply State.railctrlWrite_inv
    | split
    | with_reducible apply State.mk_inv
    | with_reducible rfl
    | with_reducible exact Nat.le_refl _
    | (dsimp only; split)

theorem State.micbCfgWrite_inv {s : State} (h : s.From q) (v : BitVec 32) : (State.micbCfgWrite s v).From q := by
  unfold State.micbCfgWrite
  repeat' first
    | with_reducible intro _
    | with_reducible assumption
    | with_reducible first | apply State.ite_inv | apply State.bump_inv | apply State.hkMicb_inv | apply State.wr_inv
    | split
    | with_reducible apply State.mk_inv
    | with_reducible rfl
    | with_reducible exact Nat.le_refl _
    | (dsimp only; split)

theorem execMicbCfgWrite_inv {s : State} (h : s.From q) (v : Word) : Keeps q (execMicbCfgWrite v s) := by
  unfold execMicbCfgWrite
  repeat' first
    | with_reducible intro _
    | with_reducible assumption
    | with_reducible first | apply Keeps.next | apply Keeps.ite | apply State.ite_inv | apply State.micbCfgWrite_inv
    | split
    | with_reducible apply State.mk_inv
    | with_reducible rfl
    | with_reducible exact Nat.le_refl _
    | (dsimp only; split)

theorem execMicbShort_inv {s : State} (h : s.From q) (micb1 under : Bool) : Keeps q (execMicbShort micb1 under s) := by
  unfold execMicbShort
  repeat' first
    | with_reducible intro _
    | with_reducible assumption
    | with_reducible first | apply Keeps.next | apply Keeps.ite | apply State.ite_inv | apply State.ev_inv | apply State.railOff_inv | apply State.setBit_inv | apply State.stageRail_inv
    | split
    | with_reducible apply State.mk_inv
    | with_reducible rfl
    | with_reducible exact Nat.le_refl _
    | (dsimp only; split)

theorem State.setDemands_inv {s : State} (h : s.From q) (l : List (Demand × Bool)) (hl : s.Inv → l.length ≤ 128) :
    (s.setDemands l).From q := by
  refine State.wr_inv ?_ _ _
  exact h.imp fun i => ⟨i.1, i.2.1, i.2.2, i.2.3, i.2.4, i.2.5, i.2.6, hl i, i.2.8⟩

theorem State.demandsLate_inv {s : State} (h : s.From q) (n : Nat) : (State.demandsLate s n).From q := by
  unfold State.demandsLate
  repeat' first
    | with_reducible intro _
    | with_reducible assumption
    | with_reducible first | apply State.ite_inv | apply State.bump_inv | apply State.ev_inv | apply State.forAll_inv
    | split
    | with_reducible apply State.mk_inv
    | with_reducible rfl
    | with_reducible exact Nat.le_refl _
    | (dsimp only; split)

theorem execLaBatchArrive_inv {s : State} (h : s.From q) (late : Nat) : Keeps q (execLaBatchArrive late s) := by
  unfold execLaBatchArrive
  split
  · exact h
  · have h' : State.From { s with dsp := { s.dsp with laSent := ‹List (List Demand)› } } q :=
      h.of_eq rfl rfl rfl rfl rfl rfl rfl rfl rfl rfl rfl
    dsimp only
    split
    · exact State.pvddTarget_inv (State.demandsLate_inv h' _)
    · rename_i hq
      refine State.pvddTarget_inv (State.demandsLate_inv ?_ _)
      refine State.From.of_eq (State.setDemands_inv h' _ fun _ => ?_) rfl rfl rfl rfl rfl rfl rfl rfl rfl rfl rfl
      simp only [List.length_append, List.length_map, List.length_take, List.length_drop]
      omega

theorem activateFirst_length (q : List (Demand × Bool)) : (activateFirst q).length = q.length := by
  induction q with
  | nil => rfl
  | cons x t ih =>
    obtain ⟨d, a⟩ := x
    unfold activateFirst
    split <;> simp [ih]

theorem execDemandActive_inv {s : State} (h : s.From q) : Keeps q (execDemandActive s) := by
  refine Keeps.next ?_
  split
  · exact h
  · exact State.pvddTarget_inv (State.setDemands_inv h _ (fun i => by rw [activateFirst_length]; exact i.2.demands))

theorem execDemandExpired_inv {s : State} (h : s.From q) : Keeps q (execDemandExpired s) := by
  refine Keeps.next ?_
  split
  · exact h
  · exact State.pvddTarget_inv (State.setDemands_inv h _ (fun i => by have := i.2.demands; simp only [List.length_tail]; omega))

theorem State.scaleStatic_inv {s : State} (h : s.From q)  : (State.scaleStatic s).From q := by
  unfold State.scaleStatic
  repeat' first
    | with_reducible intro _
    | with_reducible assumption
    | with_reducible first | apply State.ite_inv | apply State.ev_inv | apply State.wr_inv
    | split
    | with_reducible apply State.mk_inv
    | with_reducible rfl
    | with_reducible exact Nat.le_refl _
    | (dsimp only; split)

theorem execLaTimeout_inv {s : State} (h : s.From q)  : Keeps q (execLaTimeout s) := by
  unfold execLaTimeout
  repeat' first
    | with_reducible intro _
    | with_reducible assumption
    | with_reducible first | apply Keeps.next | apply Keeps.ite | apply State.ite_inv | apply State.ev_inv | apply State.pvddTarget_inv | apply State.scaleStatic_inv
    | split
    | with_reducible apply State.mk_inv
    | with_reducible rfl
    | with_reducible exact Nat.le_refl _
    | (dsimp only; split)

theorem execPvddLimited_inv {s : State} (h : s.From q) (cause : BitVec 4) (power : BitVec 16) : Keeps q (execPvddLimited cause power s) := by
  unfold execPvddLimited
  repeat' first
    | with_reducible intro _
    | with_reducible assumption
    | with_reducible first | apply Keeps.next | apply Keeps.ite | apply State.ite_inv | apply State.bump_inv | apply State.ev_inv | apply State.wr_inv
    | split
    | with_reducible apply State.mk_inv
    | with_reducible rfl
    | with_reducible exact Nat.le_refl _
    | (dsimp only; split)

theorem execPhaseShed_inv {s : State} (h : s.From q) (amps : Nat) : Keeps q (execPhaseShed amps s) := by
  unfold execPhaseShed
  repeat' first
    | with_reducible intro _
    | with_reducible assumption
    | with_reducible first | apply Keeps.next | apply Keeps.ite | apply State.ite_inv | apply State.wr_inv
    | split
    | with_reducible apply State.mk_inv
    | with_reducible rfl
    | with_reducible exact Nat.le_refl _
    | (dsimp only; split)

theorem execPvddOcp_inv {s : State} (h : s.From q) (first second : Nat) : Keeps q (execPvddOcp first second s) := by
  unfold execPvddOcp
  repeat' first
    | with_reducible intro _
    | with_reducible assumption
    | with_reducible first | apply Keeps.next | apply Keeps.ite | apply State.ite_inv | apply State.ev_inv | apply State.pvddOut_inv | apply State.pvddStat_inv | apply State.raise_inv
    | split
    | with_reducible apply State.mk_inv
    | with_reducible rfl
    | with_reducible exact Nat.le_refl _
    | (dsimp only; split)

theorem execPvddOcpRestart_inv {s : State} (h : s.From q) (volts : BitVec 16) : Keeps q (execPvddOcpRestart volts s) := by
  unfold execPvddOcpRestart
  repeat' first
    | with_reducible intro _
    | with_reducible assumption
    | with_reducible first | apply Keeps.next | apply Keeps.ite | apply State.ite_inv | apply State.pvddStart_inv
    | split
    | with_reducible apply State.mk_inv
    | with_reducible rfl
    | with_reducible exact Nat.le_refl _
    | (dsimp only; split)

theorem execPvddOv_inv {s : State} (h : s.From q) (volts : BitVec 16) (us : Nat) : Keeps q (execPvddOv volts us s) := by
  unfold execPvddOv
  repeat' first
    | with_reducible intro _
    | with_reducible assumption
    | with_reducible first | apply Keeps.next | apply Keeps.ite | apply State.ite_inv | apply State.pvddOv_inv | apply State.when_inv
    | split
    | with_reducible apply State.mk_inv
    | with_reducible rfl
    | with_reducible exact Nat.le_refl _
    | (dsimp only; split)

theorem execPvddOvCleared_inv {s : State} (h : s.From q) (volts : BitVec 16) : Keeps q (execPvddOvCleared volts s) := by
  unfold execPvddOvCleared
  repeat' first
    | with_reducible intro _
    | with_reducible assumption
    | with_reducible first | apply Keeps.next | apply Keeps.ite | apply State.ite_inv | apply State.pvddStat_inv
    | split
    | with_reducible apply State.mk_inv
    | with_reducible rfl
    | with_reducible exact Nat.le_refl _
    | (dsimp only; split)

theorem execPvddUv_inv {s : State} (h : s.From q) (volts : BitVec 16) (us : Nat) : Keeps q (execPvddUv volts us s) := by
  unfold execPvddUv
  repeat' first
    | with_reducible intro _
    | with_reducible assumption
    | with_reducible first | apply Keeps.next | apply Keeps.ite | apply State.ite_inv | apply State.pvddUv_inv | apply State.when_inv
    | split
    | with_reducible apply State.mk_inv
    | with_reducible rfl
    | with_reducible exact Nat.le_refl _
    | (dsimp only; split)

theorem execPvddWindowRestored_inv {s : State} (h : s.From q)  : Keeps q (execPvddWindowRestored s) := by
  unfold execPvddWindowRestored
  repeat' first
    | with_reducible intro _
    | with_reducible assumption
    | with_reducible first | apply Keeps.next | apply Keeps.ite | apply State.ite_inv | apply State.outputsKick_inv | apply State.setBit_inv
    | split
    | with_reducible apply State.mk_inv
    | with_reducible rfl
    | with_reducible exact Nat.le_refl _
    | (dsimp only; split)

theorem execPvddClockReturn_inv {s : State} (h : s.From q)  : Keeps q (execPvddClockReturn s) := by
  unfold execPvddClockReturn
  repeat' first
    | with_reducible intro _
    | with_reducible assumption
    | with_reducible first | apply Keeps.next | apply Keeps.ite | apply State.ite_inv | apply State.wr_inv
    | split
    | with_reducible apply State.mk_inv
    | with_reducible rfl
    | with_reducible exact Nat.le_refl _
    | (dsimp only; split)

theorem execVbatThreshold_inv {s : State} (h : s.From q) (mv : Nat) (rising : Bool) : Keeps q (execVbatThreshold mv rising s) := by
  unfold execVbatThreshold
  repeat' first
    | with_reducible intro _
    | with_reducible assumption
    | with_reducible first | apply Keeps.next | apply Keeps.ite | apply State.ite_inv | apply State.ev_inv | apply State.pvddStat_inv
    | split
    | with_reducible apply State.mk_inv
    | with_reducible rfl
    | with_reducible exact Nat.le_refl _
    | (dsimp only; split)

theorem execBankReady_inv {s : State} (h : s.From q)  : Keeps q (execBankReady s) := by
  unfold execBankReady
  repeat' first
    | with_reducible intro _
    | with_reducible assumption
    | with_reducible first | apply Keeps.next | apply Keeps.ite | apply State.ite_inv | apply State.ev_inv | apply State.railReady_inv | apply State.setHold_inv
    | split
    | with_reducible apply State.mk_inv
    | with_reducible rfl
    | with_reducible exact Nat.le_refl _
    | (dsimp only; split)

theorem execChgFault_inv {s : State} (h : s.From q)  : Keeps q (execChgFault s) := by
  unfold execChgFault
  repeat' first
    | with_reducible intro _
    | with_reducible assumption
    | with_reducible first | apply Keeps.next | apply Keeps.ite | apply State.ite_inv | apply State.chgStop_inv | apply State.ev_inv | apply State.raise_inv
    | split
    | with_reducible apply State.mk_inv
    | with_reducible rfl
    | with_reducible exact Nat.le_refl _
    | (dsimp only; split)

theorem execHoldupEnter_inv {s : State} (h : s.From q) (hold : Nat) : Keeps q (execHoldupEnter hold s) := by
  unfold execHoldupEnter
  repeat' first
    | with_reducible intro _
    | with_reducible assumption
    | with_reducible first | apply Keeps.next | apply Keeps.ite | apply State.ite_inv | apply State.bump_inv | apply State.ev_inv | apply State.forAll_inv | apply State.setGout_inv | apply State.setHold_inv | apply State.wr_inv
    | split
    | with_reducible apply State.mk_inv
    | with_reducible rfl
    | with_reducible exact Nat.le_refl _
    | (dsimp only; split)

theorem execHoldupExit_inv {s : State} (h : s.From q)  : Keeps q (execHoldupExit s) := by
  unfold execHoldupExit
  repeat' first
    | with_reducible intro _
    | with_reducible assumption
    | with_reducible first | apply Keeps.next | apply Keeps.ite | apply State.ite_inv | apply State.ev_inv | apply State.holdupEnded_inv | apply State.holdupLeave_inv | apply State.setHold_inv
    | split
    | with_reducible apply State.mk_inv
    | with_reducible rfl
    | with_reducible exact Nat.le_refl _
    | (dsimp only; split)

theorem execHoldupSpent_inv {s : State} (h : s.From q)  : Keeps q (execHoldupSpent s) := by
  unfold execHoldupSpent
  repeat' first
    | with_reducible intro _
    | with_reducible assumption
    | with_reducible first | apply Keeps.next | apply Keeps.ite | apply State.ite_inv | apply State.ev_inv | apply State.holdupEnded_inv | apply State.holdupLeave_inv
    | split
    | with_reducible apply State.mk_inv
    | with_reducible rfl
    | with_reducible exact Nat.le_refl _
    | (dsimp only; split)

theorem State.stbyctrlWrite_inv {s : State} (h : s.From q) (v : BitVec 32) : (State.stbyctrlWrite s v).From q := by
  unfold State.stbyctrlWrite
  repeat' first
    | with_reducible intro _
    | with_reducible assumption
    | with_reducible first | apply State.ite_inv | apply State.bump_inv | apply State.ev_inv | apply State.standbyRequest_inv
    | split
    | with_reducible apply State.mk_inv
    | with_reducible rfl
    | with_reducible exact Nat.le_refl _
    | (dsimp only; split)

theorem execStbyGo_inv {s : State} (h : s.From q) (v : Word) : Keeps q (execStbyGo v s) := by
  unfold execStbyGo
  repeat' first
    | with_reducible intro _
    | with_reducible assumption
    | with_reducible first | apply Keeps.next | apply Keeps.ite | apply State.ite_inv | apply State.stbyctrlWrite_inv
    | split
    | with_reducible apply State.mk_inv
    | with_reducible rfl
    | with_reducible exact Nat.le_refl _
    | (dsimp only; split)

theorem execStbyAuto_inv {s : State} (h : s.From q)  : Keeps q (execStbyAuto s) := by
  unfold execStbyAuto
  repeat' first
    | with_reducible intro _
    | with_reducible assumption
    | with_reducible first | apply Keeps.next | apply Keeps.ite | apply State.ite_inv | apply State.standbyRequest_inv
    | split
    | with_reducible apply State.mk_inv
    | with_reducible rfl
    | with_reducible exact Nat.le_refl _
    | (dsimp only; split)

theorem execStbyCurrentReached_inv {s : State} (h : s.From q)  : Keeps q (execStbyCurrentReached s) := by
  unfold execStbyCurrentReached
  repeat' first
    | with_reducible intro _
    | with_reducible assumption
    | with_reducible first | apply Keeps.next | apply Keeps.ite | apply State.ite_inv | apply State.wakeLatched_inv
    | split
    | with_reducible apply State.mk_inv
    | with_reducible rfl
    | with_reducible exact Nat.le_refl _
    | (dsimp only; split)

theorem State.wakecfgWrite_inv {s : State} (h : s.From q) (v : BitVec 32) : (s.wakecfgWrite v).From q := by
  unfold State.wakecfgWrite
  split
  · exact State.bump_inv h _
  · exact (State.setReg_inv h A.PMU_WAKECFG (v &&& 0x00FFFF07)).of_eq rfl rfl rfl rfl rfl rfl rfl rfl rfl rfl rfl

theorem execWakecfgWrite_inv {s : State} (h : s.From q) (v : Word) : Keeps q (execWakecfgWrite v s) := by
  unfold execWakecfgWrite
  repeat' first
    | with_reducible intro _
    | with_reducible assumption
    | with_reducible first | apply Keeps.next | apply Keeps.ite | apply State.ite_inv | apply State.wakecfgWrite_inv
    | split
    | with_reducible apply State.mk_inv
    | with_reducible rfl
    | with_reducible exact Nat.le_refl _
    | (dsimp only; split)

theorem execWakePinChange_inv {s : State} (h : s.From q) (active : Bool) : Keeps q (execWakePinChange active s) := by
  unfold execWakePinChange
  repeat' first
    | with_reducible intro _
    | with_reducible assumption
    | with_reducible first | apply Keeps.next | apply Keeps.ite | apply State.ite_inv
    | split
    | with_reducible apply State.mk_inv
    | with_reducible rfl
    | with_reducible exact Nat.le_refl _
    | (dsimp only; split)

theorem execWakePinWake_inv {s : State} (h : s.From q)  : Keeps q (execWakePinWake s) := by
  unfold execWakePinWake
  repeat' first
    | with_reducible intro _
    | with_reducible assumption
    | with_reducible first | apply Keeps.next | apply Keeps.ite | apply State.ite_inv | apply State.wake_inv
    | split
    | with_reducible apply State.mk_inv
    | with_reducible rfl
    | with_reducible exact Nat.le_refl _
    | (dsimp only; split)

theorem execRingActivityWake_inv {s : State} (h : s.From q)  : Keeps q (execRingActivityWake s) := by
  unfold execRingActivityWake
  repeat' first
    | with_reducible intro _
    | with_reducible assumption
    | with_reducible first | apply Keeps.next | apply Keeps.ite | apply State.ite_inv | apply State.wake_inv
    | split
    | with_reducible apply State.mk_inv
    | with_reducible rfl
    | with_reducible exact Nat.le_refl _
    | (dsimp only; split)

theorem execHostMatchWake_inv {s : State} (h : s.From q) (addr : BitVec 7) : Keeps q (execHostMatchWake addr s) := by
  unfold execHostMatchWake
  repeat' first
    | with_reducible intro _
    | with_reducible assumption
    | with_reducible first | apply Keeps.next | apply Keeps.ite | apply State.ite_inv | apply State.wake_inv
    | split
    | with_reducible apply State.mk_inv
    | with_reducible rfl
    | with_reducible exact Nat.le_refl _
    | (dsimp only; split)

theorem execHostMatchRelease_inv {s : State} (h : s.From q)  : Keeps q (execHostMatchRelease s) := by
  unfold execHostMatchRelease
  repeat' first
    | with_reducible intro _
    | with_reducible assumption
    | with_reducible first | apply Keeps.next | apply Keeps.ite | apply State.ite_inv
    | split
    | with_reducible apply State.mk_inv
    | with_reducible rfl
    | with_reducible exact Nat.le_refl _
    | (dsimp only; split)

theorem execStbyLineCheck_inv {s : State} (h : s.From q) (findings : List (Fin 16 × Fin 3)) : Keeps q (execStbyLineCheck findings s) := by
  unfold execStbyLineCheck
  repeat' first
    | with_reducible intro _
    | with_reducible assumption
    | with_reducible first | apply Keeps.next | apply Keeps.ite | apply State.ite_inv | apply State.foldl_inv | apply State.foldl_fst_inv | apply State.foldl_snd_inv | apply State.fst_ite_inv | apply State.snd_ite_inv
    | split
    | with_reducible apply State.mk_inv
    | with_reducible rfl
    | with_reducible exact Nat.le_refl _
    | (dsimp only; split)

end Sys2Proof.Machine
end

