-- ==== Sys2Proof/Laws/InvGov.lean ====
section
/-!
SUPPORT. Laws/InvGov.lean: the operations of Machine/Gov.lean keep the invariant of Safety.lean.
-/

namespace Sys2Proof.Machine

-- one theorem after the other: the package as one text then needs fewer threads
set_option Elab.async false

open Sys2Proof

variable {q : State}

theorem State.sendCaps_inv {s : State} (h : s.From q) (vp vh hold : Nat) : (State.sendCaps s vp vh hold).From q := by
  unfold State.sendCaps
  repeat' first
    | with_reducible intro _
    | with_reducible assumption
    | with_reducible first | apply State.ite_inv | apply State.pvddTarget_inv | apply State.setHold_inv | apply State.wr_inv
    | split
    | with_reducible apply State.mk_inv
    | with_reducible rfl
    | with_reducible exact Nat.le_refl _
    | (dsimp only; split)

theorem State.judgeEnergy_inv {s : State} (h : s.From q) (e : Nat × Nat) : (State.judgeEnergy s e).From q := by
  unfold State.judgeEnergy
  repeat' first
    | with_reducible intro _
    | with_reducible assumption
    | with_reducible first | apply State.ite_inv | apply State.fst_ite_inv | apply State.snd_ite_inv | apply State.bump_inv | apply State.ev_inv | apply State.raise_inv | apply State.wr_inv
    | split
    | with_reducible apply State.mk_inv
    | with_reducible rfl
    | with_reducible exact Nat.le_refl _
    | (dsimp only; split)

theorem execGovEvaluate_inv {s : State} (h : s.From q)  : Keeps q (execGovEvaluate s) := by
  unfold execGovEvaluate
  repeat' first
    | with_reducible intro _
    | with_reducible assumption
    | with_reducible first | apply Keeps.next | apply Keeps.ite | apply State.ite_inv | apply State.fst_ite_inv | apply State.snd_ite_inv | apply State.judgeEnergy_inv | apply State.sendCaps_inv | apply State.wr_inv
    | split
    | with_reducible apply State.mk_inv
    | with_reducible rfl
    | with_reducible exact Nat.le_refl _
    | (dsimp only; split)

theorem State.govLimitWrite_inv {s : State} (h : s.From q) (v : Nat) : (State.govLimitWrite s v).From q := by
  unfold State.govLimitWrite
  repeat' first
    | with_reducible intro _
    | with_reducible assumption
    | with_reducible first | apply State.ite_inv | apply State.bump_inv | apply State.ev_inv | apply State.wr_inv
    | split
    | with_reducible apply State.mk_inv
    | with_reducible rfl
    | with_reducible exact Nat.le_refl _
    | (dsimp only; split)

theorem execGovLimitWrite_inv {s : State} (h : s.From q) (v : Word) : Keeps q (execGovLimitWrite v s) := by
  unfold execGovLimitWrite
  repeat' first
    | with_reducible intro _
    | with_reducible assumption
    | with_reducible first | apply Keeps.next | apply Keeps.ite | apply State.ite_inv | apply State.govLimitWrite_inv
    | split
    | with_reducible apply State.mk_inv
    | with_reducible rfl
    | with_reducible exact Nat.le_refl _
    | (dsimp only; split)

theorem execCrashN_inv {s : State} (h : s.From q) (lowUs : Nat) : Keeps q (execCrashN lowUs s) := by
  unfold execCrashN
  repeat' first
    | with_reducible intro _
    | with_reducible assumption
    | with_reducible first | apply Keeps.next | apply Keeps.ite | apply State.ite_inv | apply State.discharge_inv
    | split
    | with_reducible apply State.mk_inv
    | with_reducible rfl
    | with_reducible exact Nat.le_refl _
    | (dsimp only; split)

theorem State.govCtrlWrite_inv {s : State} (h : s.From q) (v : BitVec 32) : (State.govCtrlWrite s v).From q := by
  unfold State.govCtrlWrite
  repeat' first
    | with_reducible intro _
    | with_reducible assumption
    | with_reducible first | apply State.ite_inv | apply State.bump_inv | apply State.discharge_inv
    | split
    | with_reducible apply State.mk_inv
    | with_reducible rfl
    | with_reducible exact Nat.le_refl _
    | (dsimp only; split)

theorem execGovDischarge_inv {s : State} (h : s.From q) (v : Word) : Keeps q (execGovDischarge v s) := by
  unfold execGovDischarge
  repeat' first
    | with_reducible intro _
    | with_reducible assumption
    | with_reducible first | apply Keeps.next | apply Keeps.ite | apply State.ite_inv | apply State.govCtrlWrite_inv
    | split
    | with_reducible apply State.mk_inv
    | with_reducible rfl
    | with_reducible exact Nat.le_refl _
    | (dsimp only; split)

theorem execDischargePvddStop_inv {s : State} (h : s.From q)  : Keeps q (execDischargePvddStop s) := by
  unfold execDischargePvddStop
  repeat' first
    | with_reducible intro _
    | with_reducible assumption
    | with_reducible first | apply Keeps.next | apply Keeps.ite | apply State.ite_inv | apply State.dischargePvdd_inv
    | split
    | with_reducible apply State.mk_inv
    | with_reducible rfl
    | with_reducible exact Nat.le_refl _
    | (dsimp only; split)

theorem execDischargeDone_inv {s : State} (h : s.From q)  : Keeps q (execDischargeDone s) := by
  unfold execDischargeDone
  repeat' first
    | with_reducible intro _
    | with_reducible assumption
    | with_reducible first | apply Keeps.next | apply Keeps.ite | apply State.ite_inv | apply State.downStart_inv | apply State.ev_inv | apply State.wr_inv
    | split
    | with_reducible apply State.mk_inv
    | with_reducible rfl
    | with_reducible exact Nat.le_refl _
    | (dsimp only; split)

theorem execDisFail_inv {s : State} (h : s.From q)  : Keeps q (execDisFail s) := by
  unfold execDisFail
  repeat' first
    | with_reducible intro _
    | with_reducible assumption
    | with_reducible first | apply Keeps.next | apply Keeps.ite | apply State.ite_inv | apply State.downStart_inv | apply State.ev_inv | apply State.raise_inv
    | split
    | with_reducible apply State.mk_inv
    | with_reducible rfl
    | with_reducible exact Nat.le_refl _
    | (dsimp only; split)

theorem State.chargerDraw_inv {s : State} (h : s.From q)  : (State.chargerDraw s).2.From q := by
  unfold State.chargerDraw
  repeat' first
    | with_reducible intro _
    | with_reducible assumption
    | with_reducible first | apply State.ite_inv | apply State.snd_ite_inv | apply State.draw_inv
    | split
    | with_reducible apply State.mk_inv
    | with_reducible rfl
    | with_reducible exact Nat.le_refl _
    | (dsimp only; split)

theorem State.hkMeas_inv {s : State} (h : s.From q) (input : Nat) : (State.hkMeas s input).2.From q := by
  unfold State.hkMeas
  repeat' first
    | with_reducible intro _
    | with_reducible assumption
    | with_reducible first | apply State.ite_inv | apply State.fst_ite_inv | apply State.snd_ite_inv | apply State.draw_inv
    | split
    | with_reducible apply State.mk_inv
    | with_reducible rfl
    | with_reducible exact Nat.le_refl _
    | (dsimp only; split)

theorem State.powerIn_inv {s : State} (h : s.From q)  : (State.powerIn s).2.From q := by
  unfold State.powerIn
  repeat' first
    | with_reducible intro _
    | with_reducible assumption
    | with_reducible first | apply State.ite_inv | apply State.fst_ite_inv | apply State.snd_ite_inv | apply State.chargerDraw_inv | apply State.hkMeas_inv
    | split
    | with_reducible apply State.mk_inv
    | with_reducible rfl
    | with_reducible exact Nat.le_refl _
    | (dsimp only; split)

theorem State.bridgeTemps_inv (l : List Nat) {s : State} (h : s.From q) : (s.bridgeTemps l).2.From q := by
  induction l generalizing s with
  | nil => exact h
  | cons c cs ih => exact ih (State.hkMeas_inv h _)

theorem State.dissipate_inv {s : State} (h : s.From q) : s.dissipate.From q := by
  have h1 := State.hkMeas_inv (State.hkMeas_inv (State.hkMeas_inv (State.hkMeas_inv (State.hkMeas_inv h 6) 14) 7) 15) 2
  unfold State.dissipate
  extract_lets v3 i3 v4 i4 pv core temps p before moved
  have h2 : temps.2.From q := State.bridgeTemps_inv _ h1
  clear_value temps moved
  exact h2.of_eq rfl rfl rfl rfl rfl rfl rfl rfl rfl rfl rfl

theorem State.govReport_inv {s : State} (h : s.From q) (b : GovBudget) (i : GovItem) : (State.govReport s b i).From q := by
  unfold State.govReport
  repeat' first
    | with_reducible intro _
    | with_reducible assumption
    | with_reducible first | apply State.ite_inv | apply State.bump_inv | apply State.ev_inv | apply State.peak_inv | apply State.setGout_inv | apply State.sweepPause_inv | apply State.wr_inv | apply State.wrB_inv
    | split
    | with_reducible apply State.mk_inv
    | with_reducible rfl
    | with_reducible exact Nat.le_refl _
    | (dsimp only; split)

theorem execGovAllocate_inv {s : State} (h : s.From q)  : Keeps q (execGovAllocate s) := by
  unfold execGovAllocate
  repeat' first
    | with_reducible intro _
    | with_reducible assumption
    | with_reducible first | apply Keeps.next | apply Keeps.ite | apply State.ite_inv | apply State.foldl_inv | apply State.foldl_fst_inv | apply State.foldl_snd_inv | apply State.bump_inv | apply State.dissipate_inv | apply State.ev_inv | apply State.forEach_inv | apply State.govReport_inv | apply State.powerIn_inv | apply State.raise_inv | apply State.wr_inv
    | split
    | with_reducible apply State.mk_inv
    | with_reducible rfl
    | with_reducible exact Nat.le_refl _
    | (dsimp only; split)

end Sys2Proof.Machine
end

