-- ==== Sys2Proof/Laws/InvHk.lean ====
section
/-!
SUPPORT. Laws/InvHk.lean: the operations of Machine/Hk.lean keep the invariant of Safety.lean.
-/

namespace Sys2Proof.Machine

-- one theorem after the other: the package as one text then needs fewer threads
set_option Elab.async false

open Sys2Proof

variable {q : State}

theorem State.setHkAcc_inv {s : State} (h : s.From q) (k : Nat) (a : HkAcc) : (State.setHkAcc s k a).From q := by
  unfold State.setHkAcc
  repeat' first
    | with_reducible intro _
    | with_reducible assumption
    | with_reducible first | apply State.ite_inv
    | split
    | with_reducible apply State.mk_inv
    | with_reducible rfl
    | with_reducible exact Nat.le_refl _
    | (dsimp only; split)

theorem State.railResult_inv {s : State} (h : s.From q) (r : Nat) (e : HkEnt) (v : Nat) : (State.railResult s r e v).From q := by
  unfold State.railResult
  repeat' first
    | with_reducible intro _
    | with_reducible assumption
    | with_reducible first | apply State.ite_inv | apply State.fst_ite_inv | apply State.snd_ite_inv | apply State.bump_inv | apply State.ev_inv | apply State.raise_inv
    | split
    | with_reducible apply State.mk_inv
    | with_reducible rfl
    | with_reducible exact Nat.le_refl _
    | (dsimp only; split)

theorem State.hkCal_inv {s : State} (h : s.From q)  : (State.hkCal s).From q := by
  unfold State.hkCal
  repeat' first
    | with_reducible intro _
    | with_reducible assumption
    | with_reducible first | apply State.ite_inv | apply State.wr_inv
    | split
    | with_reducible apply State.mk_inv
    | with_reducible rfl
    | with_reducible exact Nat.le_refl _
    | (dsimp only; split)

theorem State.hkForm_inv {s : State} (h : s.From q) (e : HkEnt) (sum : Nat) : (State.hkForm s e sum).From q := by
  unfold State.hkForm
  repeat' first
    | with_reducible intro _
    | with_reducible assumption
    | with_reducible first | apply State.ite_inv | apply State.bump_inv | apply State.ev_inv | apply State.hkCal_inv | apply State.railResult_inv | apply State.raise_inv | apply State.setBit_inv | apply State.slot_inv | apply State.wr_inv | apply State.wrB_inv
    | split
    | with_reducible apply State.mk_inv
    | with_reducible rfl
    | with_reducible exact Nat.le_refl _
    | (dsimp only; split)

theorem State.hkTake_inv {s : State} (h : s.From q) (e : HkEnt) (x : Nat) : (State.hkTake s e x).From q := by
  unfold State.hkTake
  repeat' first
    | with_reducible intro _
    | with_reducible assumption
    | with_reducible first | apply State.ite_inv | apply State.hkForm_inv | apply State.peak_inv | apply State.setHkAcc_inv | apply State.slot_inv | apply State.wr_inv
    | split
    | with_reducible apply State.mk_inv
    | with_reducible rfl
    | with_reducible exact Nat.le_refl _
    | (dsimp only; split)

theorem State.hkConvert_inv {s : State} (h : s.From q) (e : HkEnt) (x : Nat) : (State.hkConvert s e x).From q := by
  unfold State.hkConvert
  repeat' first
    | with_reducible intro _
    | with_reducible assumption
    | with_reducible first | apply State.ite_inv | apply State.bump_inv | apply State.ev_inv | apply State.hkTake_inv
    | split
    | with_reducible apply State.mk_inv
    | with_reducible rfl
    | with_reducible exact Nat.le_refl _
    | (dsimp only; split)

theorem State.setHkQueue_inv {s : State} (h : s.From q) (l : List Nat) (hl : s.Inv → l.length ≤ 2) : (s.setHkQueue l).From q := by
  refine State.wr_inv ?_ _ _
  exact h.imp fun i => ⟨i.1, i.2.1, i.2.2, i.2.3, i.2.4, i.2.5, i.2.6, i.2.7, hl i⟩

theorem State.hkNext_inv {s : State} (h : s.From q)  : (State.hkNext s).From q := by
  unfold State.hkNext
  repeat' first
    | with_reducible intro _
    | with_reducible assumption
    | with_reducible first | apply State.ite_inv
    | split
    | with_reducible apply State.mk_inv
    | with_reducible rfl
    | with_reducible exact Nat.le_refl _
    | (dsimp only; split)

theorem State.hkSlot_inv {s : State} (h : s.From q) (x : Nat) : (State.hkSlot s x).From q := by
  unfold State.hkSlot
  repeat' first
    | with_reducible intro _
    | with_reducible assumption
    | with_reducible first | apply State.ite_inv | apply State.hkConvert_inv | apply State.hkNext_inv
    | split
    | with_reducible apply State.mk_inv
    | with_reducible rfl
    | with_reducible exact Nat.le_refl _
    | (dsimp only; split)

theorem State.hkInjected_inv {s : State} (h : s.From q) (k x : Nat) : (State.hkInjected s k x).From q := by
  unfold State.hkInjected
  repeat' first
    | with_reducible intro _
    | with_reducible assumption
    | with_reducible first | apply State.ite_inv | apply State.ev_inv | apply State.hkConvert_inv
    | split
    | with_reducible apply State.mk_inv
    | with_reducible rfl
    | with_reducible exact Nat.le_refl _
    | (dsimp only; split)

theorem State.hkAssign_inv {s : State} (h : s.From q) : (State.hkAssign s).From q := by
  unfold State.hkAssign
  split
  · rename_i k rest hk
    have h1 : ({ s with hk := { s.hk with inj := some k } } : State).From q := State.mk_inv h rfl rfl rfl rfl rfl rfl rfl rfl rfl rfl rfl rfl
    refine State.setHkQueue_inv h1 rest (fun i => ?_)
    have h2 := i.2.injected
    simp only [hk, List.length_cons] at h2
    omega
  · exact State.mk_inv h rfl rfl rfl rfl rfl rfl rfl rfl rfl rfl rfl rfl

theorem execHkConversion_inv {s : State} (h : s.From q) (x : BitVec 12) : Keeps q (execHkConversion x s) := by
  refine Keeps.next (State.ite_inv h (State.hkAssign_inv ?_))
  split
  · exact State.hkInjected_inv h _ _
  · exact State.hkSlot_inv h _

theorem State.hkRequest_inv {s : State} (h : s.From q) (k : Nat) : (s.hkRequest k).From q := by
  unfold State.hkRequest
  split
  · exact h
  · split
    · exact State.ev_inv (State.bump_inv h _) _ _
    · split
      · exact State.ev_inv (State.bump_inv h _) _ _
      · exact State.setHkQueue_inv h _ (by simp only [List.length_append, List.length_cons, List.length_nil]; omega)

theorem execHkInjectTrigger_inv {s : State} (h : s.From q) (trig : Fin 8) : Keeps q (execHkInjectTrigger trig s) := by
  unfold execHkInjectTrigger
  repeat' first
    | with_reducible intro _
    | with_reducible assumption
    | with_reducible first | apply Keeps.next | apply Keeps.ite | apply State.ite_inv | apply State.forEach_inv | apply State.hkRequest_inv
    | split
    | with_reducible apply State.mk_inv
    | with_reducible rfl
    | with_reducible exact Nat.le_refl _
    | (dsimp only; split)

theorem State.hkSwTrig_inv {s : State} (h : s.From q) (bits : BitVec 8) : (State.hkSwTrig s bits).From q := by
  unfold State.hkSwTrig
  repeat' first
    | with_reducible intro _
    | with_reducible assumption
    | with_reducible first | apply State.ite_inv | apply State.forEach_inv | apply State.hkRequest_inv
    | split
    | with_reducible apply State.mk_inv
    | with_reducible rfl
    | with_reducible exact Nat.le_refl _
    | (dsimp only; split)

theorem execSwTrig_inv {s : State} (h : s.From q) (bits : BitVec 8) : Keeps q (execSwTrig bits s) := by
  unfold execSwTrig
  repeat' first
    | with_reducible intro _
    | with_reducible assumption
    | with_reducible first | apply Keeps.next | apply Keeps.ite | apply State.ite_inv | apply State.hkSwTrig_inv | apply State.reach_inv
    | split
    | with_reducible apply State.mk_inv
    | with_reducible rfl
    | with_reducible exact Nat.le_refl _
    | (dsimp only; split)

theorem execHkTimer_inv {s : State} (h : s.From q)  : Keeps q (execHkTimer s) := by
  unfold execHkTimer
  repeat' first
    | with_reducible intro _
    | with_reducible assumption
    | with_reducible first | apply Keeps.next | apply Keeps.ite | apply State.ite_inv | apply State.forEach_inv | apply State.hkRequest_inv
    | split
    | with_reducible apply State.mk_inv
    | with_reducible rfl
    | with_reducible exact Nat.le_refl _
    | (dsimp only; split)

theorem execRefReady_inv {s : State} (h : s.From q)  : Keeps q (execRefReady s) := by
  unfold execRefReady
  repeat' first
    | with_reducible intro _
    | with_reducible assumption
    | with_reducible first | apply Keeps.next | apply Keeps.ite | apply State.ite_inv | apply State.ev_inv | apply State.hkCal_inv | apply State.wr_inv
    | split
    | with_reducible apply State.mk_inv
    | with_reducible rfl
    | with_reducible exact Nat.le_refl _
    | (dsimp only; split)

theorem execHkClockStop_inv {s : State} (h : s.From q) : Keeps q (execHkClockStop s) := by
  refine Keeps.next ?_
  have h' (t : State) (ht : t.From q) : (t.setHkQueue []).From q := State.setHkQueue_inv ht [] (fun _ => Nat.zero_le _)
  repeat' first
    | with_reducible intro _
    | with_reducible assumption
    | with_reducible first | apply State.wr_inv | apply State.ev_inv | apply h' | apply State.ite_inv
    | split
    | with_reducible apply State.mk_inv
    | with_reducible rfl
    | with_reducible exact Nat.le_refl _

theorem execHkCal_inv {s : State} (h : s.From q)  : Keeps q (execHkCal s) := by
  unfold execHkCal
  repeat' first
    | with_reducible intro _
    | with_reducible assumption
    | with_reducible first | apply Keeps.next | apply Keeps.ite | apply State.ite_inv | apply State.hkCal_inv | apply State.reach_inv
    | split
    | with_reducible apply State.mk_inv
    | with_reducible rfl
    | with_reducible exact Nat.le_refl _
    | (dsimp only; split)

theorem execHkCalStart_inv {s : State} (h : s.From q)  : Keeps q (execHkCalStart s) := by
  unfold execHkCalStart
  repeat' first
    | with_reducible intro _
    | with_reducible assumption
    | with_reducible first | apply Keeps.next | apply Keeps.ite | apply State.ite_inv | apply State.wr_inv
    | split
    | with_reducible apply State.mk_inv
    | with_reducible rfl
    | with_reducible exact Nat.le_refl _
    | (dsimp only; split)

theorem execHkCalDone_inv {s : State} (h : s.From q) (offset gain : BitVec 16) : Keeps q (execHkCalDone offset gain s) := by
  unfold execHkCalDone
  repeat' first
    | with_reducible intro _
    | with_reducible assumption
    | with_reducible first | apply Keeps.next | apply Keeps.ite | apply State.ite_inv | apply State.fst_ite_inv | apply State.snd_ite_inv | apply State.bump_inv | apply State.ev_inv | apply State.raise_inv | apply State.wr_inv
    | split
    | with_reducible apply State.mk_inv
    | with_reducible rfl
    | with_reducible exact Nat.le_refl _
    | (dsimp only; split)

theorem State.hkLoad_inv {s : State} (h : s.From q)  : (State.hkLoad s).From q := by
  unfold State.hkLoad
  repeat' first
    | with_reducible intro _
    | with_reducible assumption
    | with_reducible first | apply State.ite_inv
    | split
    | with_reducible apply State.mk_inv
    | with_reducible rfl
    | with_reducible exact Nat.le_refl _
    | (dsimp only; split)

theorem execHkSeqApply_inv {s : State} (h : s.From q)  : Keeps q (execHkSeqApply s) := by
  unfold execHkSeqApply
  repeat' first
    | with_reducible intro _
    | with_reducible assumption
    | with_reducible first | apply Keeps.next | apply Keeps.ite | apply State.ite_inv | apply State.bumpWrap_inv | apply State.ev_inv | apply State.forAll_inv | apply State.hkMicb_inv | apply State.setReg_inv | apply State.wr_inv | apply State.wrB_inv
    | split
    | with_reducible apply State.mk_inv
    | with_reducible rfl
    | with_reducible exact Nat.le_refl _
    | (dsimp only; split)

theorem State.hkWinWrite_inv {s : State} (h : s.From q) (k : Nat) (v : BitVec 32) : (s.hkWinWrite k v).From q := by
  unfold State.hkWinWrite
  dsimp only
  repeat' split
  all_goals first | exact State.ev_inv (State.bump_inv h _) _ _ | exact (State.setReg_inv h (A.HKADC_ENTk_WIN k) v).of_eq rfl rfl rfl rfl rfl rfl rfl rfl rfl rfl rfl

theorem execHkWinWrite_inv {s : State} (h : s.From q) (k : Fin 64) (v : Word) : Keeps q (execHkWinWrite k v s) := by
  unfold execHkWinWrite
  repeat' first
    | with_reducible intro _
    | with_reducible assumption
    | with_reducible first | apply Keeps.next | apply Keeps.ite | apply State.ite_inv | apply State.hkWinWrite_inv | apply State.reach_inv
    | split
    | with_reducible apply State.mk_inv
    | with_reducible rfl
    | with_reducible exact Nat.le_refl _
    | (dsimp only; split)

theorem State.hkCtrlWrite_inv {s : State} (h : s.From q) (v : BitVec 32) : (State.hkCtrlWrite s v).From q := by
  unfold State.hkCtrlWrite
  repeat' first
    | with_reducible intro _
    | with_reducible assumption
    | with_reducible first | apply State.ite_inv | apply State.hkCal_inv | apply State.hkSwTrig_inv
    | split
    | with_reducible apply State.mk_inv
    | with_reducible rfl
    | with_reducible exact Nat.le_refl _
    | (dsimp only; split)

end Sys2Proof.Machine
end

