-- ==== Sys2Proof/Laws/InvFcol.lean ====
section
/-!
SUPPORT. Laws/InvFcol.lean: the operations of Machine/Fcol.lean keep the invariant of Safety.lean.
-/

namespace Sys2Proof.Machine

-- one theorem after the other: the package as one text then needs fewer threads
set_option Elab.async false

open Sys2Proof

variable {q : State}

theorem State.faultLog_inv {s : State} (h : s.From q) (e : Evt) (cls react count flags : Nat) : (State.faultLog s e cls react count flags).From q := by
  unfold State.faultLog
  repeat' first
    | with_reducible intro _
    | with_reducible assumption
    | with_reducible first | apply State.ite_inv | apply State.bumpWrap_inv | apply State.complete_inv | apply State.ev_inv | apply State.forAll_inv | apply State.forEach_inv | apply State.setBit_inv | apply State.setReg_inv | apply State.slot_inv | apply State.wr_inv
    | split
    | with_reducible apply State.mk_inv
    | with_reducible rfl
    | with_reducible exact Nat.le_refl _
    | (dsimp only; split)

theorem State.aliveStop_inv {s : State} (h : s.From q)  : (State.aliveStop s).From q := by
  unfold State.aliveStop
  repeat' first
    | with_reducible intro _
    | with_reducible assumption
    | with_reducible first | apply State.ite_inv | apply State.ev_inv | apply State.wr_inv
    | split
    | with_reducible apply State.mk_inv
    | with_reducible rfl
    | with_reducible exact Nat.le_refl _
    | (dsimp only; split)

theorem State.enterSafe_inv {s : State} (h : s.From q) (cause : Nat) : (State.enterSafe s cause).From q := by
  unfold State.enterSafe
  repeat' first
    | with_reducible intro _
    | with_reducible assumption
    | with_reducible first | apply State.ite_inv | apply State.aliveStop_inv | apply State.discharge_inv | apply State.dischargePvdd_inv | apply State.ev_inv | apply State.outputsSafe_inv | apply State.pvddStop_inv | apply State.warmAbandon_inv | apply State.wr_inv
    | split
    | with_reducible apply State.mk_inv
    | with_reducible rfl
    | with_reducible exact Nat.le_refl _
    | (dsimp only; split)

theorem State.safeDirect_inv {s : State} (h : s.From q) (cause : Nat) (e : Evt) : (State.safeDirect s cause e).From q := by
  unfold State.safeDirect
  repeat' first
    | with_reducible intro _
    | with_reducible assumption
    | with_reducible first | apply State.ite_inv | apply State.enterSafe_inv | apply State.faultLog_inv
    | split
    | with_reducible apply State.mk_inv
    | with_reducible rfl
    | with_reducible exact Nat.le_refl _
    | (dsimp only; split)

theorem State.ruleWrite_inv {s : State} (h : s.From q) (who : Writer) (k j : Nat) (v : BitVec 32) : (State.ruleWrite s who k j v).From q := by
  unfold State.ruleWrite
  repeat' first
    | with_reducible intro _
    | with_reducible assumption
    | with_reducible first | apply State.ite_inv | apply State.bump_inv | apply State.setReg_inv
    | split
    | with_reducible apply State.mk_inv
    | with_reducible rfl
    | with_reducible exact Nat.le_refl _
    | (dsimp only; split)

theorem execFcolRuleWrite_inv {s : State} (h : s.From q) (who : Writer) (k : Fin 128) (j : Fin 3) (v : Word) : Keeps q (execFcolRuleWrite who k j v s) := by
  unfold execFcolRuleWrite
  repeat' first
    | with_reducible intro _
    | with_reducible assumption
    | with_reducible first | apply Keeps.next | apply Keeps.ite | apply State.ite_inv | apply State.ruleWrite_inv
    | split
    | with_reducible apply State.mk_inv
    | with_reducible rfl
    | with_reducible exact Nat.le_refl _
    | (dsimp only; split)

theorem State.ruleLoad_inv {s : State} (h : s.From q)  : (State.ruleLoad s).From q := by
  unfold State.ruleLoad
  repeat' first
    | with_reducible intro _
    | with_reducible assumption
    | with_reducible first | apply State.ite_inv | apply State.forAll_inv | apply State.wr_inv | apply State.wrB_inv
    | split
    | with_reducible apply State.mk_inv
    | with_reducible rfl
    | with_reducible exact Nat.le_refl _
    | (dsimp only; split)

theorem State.fcolCommit_inv {s : State} (h : s.From q)  : (State.fcolCommit s).From q := by
  unfold State.fcolCommit
  repeat' first
    | with_reducible intro _
    | with_reducible assumption
    | with_reducible first | apply State.ite_inv | apply State.foldl_inv | apply State.foldl_fst_inv | apply State.foldl_snd_inv | apply State.fst_ite_inv | apply State.wr_inv
    | split
    | with_reducible apply State.mk_inv
    | with_reducible rfl
    | with_reducible exact Nat.le_refl _
    | (dsimp only; split)

theorem execCommit_inv {s : State} (h : s.From q) (who : Writer) : Keeps q (execCommit who s) := by
  unfold execCommit
  repeat' first
    | with_reducible intro _
    | with_reducible assumption
    | with_reducible first | apply Keeps.next | apply Keeps.ite | apply State.ite_inv | apply State.bump_inv | apply State.fcolCommit_inv
    | split
    | with_reducible apply State.mk_inv
    | with_reducible rfl
    | with_reducible exact Nat.le_refl _
    | (dsimp only; split)

theorem State.fcolQueue_inv {s : State} (h : s.From q) (e : Evt) (a c : Bool) : (s.fcolQueue e a c).From q := by
  unfold State.fcolQueue
  dsimp only
  split
  · split
    · exact State.safeDirect_inv h _ _
    · refine h.imp fun ⟨d, b⟩ => ?_
      refine ⟨d, b.1, b.2, b.3, b.4, b.5, ?_, b.7, b.8⟩
      simp only [List.length_append, List.length_cons, List.length_nil]; omega
  · split
    · refine State.ev_inv (State.bump_inv ?_ _) _ _
      repeat' first
        | with_reducible intro _
        | with_reducible assumption
        | with_reducible first | apply State.ev_inv | apply State.ite_inv
        | split
        | with_reducible apply State.mk_inv
        | with_reducible rfl
        | with_reducible exact Nat.le_refl _
    · refine h.imp fun ⟨d, b⟩ => ?_
      refine ⟨d, b.1, b.2, b.3, b.4, ?_, b.6, b.7, b.8⟩
      simp only [List.length_append, List.length_cons, List.length_nil]; omega

theorem State.jigDetect_inv {s : State} (h : s.From q) (e : Evt) (roll : Bool) : (State.jigDetect s e roll).From q := by
  unfold State.jigDetect
  repeat' first
    | with_reducible intro _
    | with_reducible assumption
    | with_reducible first | apply State.ite_inv | apply State.bump_inv | apply State.ev_inv | apply State.fcolQueue_inv | apply State.safeDirect_inv | apply State.wr_inv
    | split
    | with_reducible apply State.mk_inv
    | with_reducible rfl
    | with_reducible exact Nat.le_refl _
    | (dsimp only; split)

theorem State.fcolArrive_inv {s : State} (h : s.From q) (e : Evt) (roll : Bool) : (State.fcolArrive s e roll).From q := by
  unfold State.fcolArrive
  repeat' first
    | with_reducible intro _
    | with_reducible assumption
    | with_reducible first | apply State.ite_inv | apply State.bump_inv | apply State.fcolQueue_inv | apply State.jigDetect_inv
    | split
    | with_reducible apply State.mk_inv
    | with_reducible rfl
    | with_reducible exact Nat.le_refl _
    | (dsimp only; split)

theorem execFcolEventArrive_inv {s : State} (h : s.From q) (ev : Option FaultEvt) (atRollover : Bool) : Keeps q (execFcolEventArrive ev atRollover s) := by
  unfold execFcolEventArrive
  repeat' first
    | with_reducible intro _
    | with_reducible assumption
    | with_reducible first | apply Keeps.next | apply Keeps.ite | apply State.ite_inv | apply State.ev_inv | apply State.fcolArrive_inv
    | split
    | with_reducible apply State.mk_inv
    | with_reducible rfl
    | with_reducible exact Nat.le_refl _
    | (dsimp only; split)

theorem State.rstcntStat_inv {s : State} (h : s.From q)  : (State.rstcntStat s).From q := by
  unfold State.rstcntStat
  repeat' first
    | with_reducible intro _
    | with_reducible assumption
    | with_reducible first | apply State.ite_inv | apply State.wr_inv
    | split
    | with_reducible apply State.mk_inv
    | with_reducible rfl
    | with_reducible exact Nat.le_refl _
    | (dsimp only; split)

theorem State.fcolReset_inv {s : State} (h : s.From q)  : (State.fcolReset s).From q := by
  unfold State.fcolReset
  repeat' first
    | with_reducible intro _
    | with_reducible assumption
    | with_reducible first | apply State.ite_inv | apply State.bump_inv | apply State.rstcntStat_inv | apply State.warmTrigger_inv
    | split
    | with_reducible apply State.mk_inv
    | with_reducible rfl
    | with_reducible exact Nat.le_refl _
    | (dsimp only; split)

theorem State.fcolFence_inv {s : State} (h : s.From q) (us : List Unit') (id : BitVec 16) : (State.fcolFence s us id).From q := by
  unfold State.fcolFence
  repeat' first
    | with_reducible intro _
    | with_reducible assumption
    | with_reducible first | apply State.ite_inv | apply State.channelFence_inv | apply State.ev_inv | apply State.forEach_inv | apply State.placeSeq_inv
    | split
    | with_reducible apply State.mk_inv
    | with_reducible rfl
    | with_reducible exact Nat.le_refl _
    | (dsimp only; split)

theorem State.faultBroadcast_inv {s : State} (h : s.From q) (e : Evt) (cls react : Nat) : (State.faultBroadcast s e cls react).From q := by
  unfold State.faultBroadcast
  repeat' first
    | with_reducible intro _
    | with_reducible assumption
    | with_reducible first | apply State.ite_inv | apply State.ringQueue_inv
    | split
    | with_reducible apply State.mk_inv
    | with_reducible rfl
    | with_reducible exact Nat.le_refl _
    | (dsimp only; split)

theorem State.fcolReread_inv {s : State} (h : s.From q) (e : Evt) : (State.fcolReread s e).From q := by
  unfold State.fcolReread
  repeat' first
    | with_reducible intro _
    | with_reducible assumption
    | with_reducible first | apply State.ite_inv
    | split
    | with_reducible apply State.mk_inv
    | with_reducible rfl
    | with_reducible exact Nat.le_refl _
    | (dsimp only; split)

theorem State.rereadPeriod_inv {s : State} (h : s.From q)  : (State.rereadPeriod s).From q := by
  unfold State.rereadPeriod
  repeat' first
    | with_reducible intro _
    | with_reducible assumption
    | with_reducible first | apply State.ite_inv | apply State.fst_ite_inv | apply State.snd_ite_inv
    | split
    | with_reducible apply State.mk_inv
    | with_reducible rfl
    | with_reducible exact Nat.le_refl _
    | (dsimp only; split)

theorem State.fcolReact_inv {s : State} (h : s.From q) (e : Evt) (cls n : Nat) (byte : Nat) (dflt logged : Bool) : (State.fcolReact s e cls n byte dflt logged).From q := by
  unfold State.fcolReact
  repeat' first
    | with_reducible intro _
    | with_reducible assumption
    | with_reducible first | apply State.ite_inv | apply State.aliveStop_inv | apply State.enterSafe_inv | apply State.faultBroadcast_inv | apply State.faultLog_inv | apply State.fcolFence_inv | apply State.fcolReread_inv | apply State.fcolReset_inv
    | split
    | with_reducible apply State.mk_inv
    | with_reducible rfl
    | with_reducible exact Nat.le_refl _
    | (dsimp only; split)

theorem State.setEvtCounter_inv {s : State} (h : s.From q) (k : Option Nat) (key : Nat) (c : Counter) : (State.setEvtCounter s k key c).From q := by
  unfold State.setEvtCounter
  repeat' first
    | with_reducible intro _
    | with_reducible assumption
    | with_reducible first | apply State.ite_inv
    | split
    | with_reducible apply State.mk_inv
    | with_reducible rfl
    | with_reducible exact Nat.le_refl _
    | (dsimp only; split)

theorem State.fcolClassify_inv {s : State} (h : s.From q) (qx : QEvt) : (State.fcolClassify s qx).From q := by
  unfold State.fcolClassify
  repeat' first
    | with_reducible intro _
    | with_reducible assumption
    | with_reducible first | apply State.ite_inv | apply State.fst_ite_inv | apply State.snd_ite_inv | apply State.bump_inv | apply State.ev_inv | apply State.faultLog_inv | apply State.fcolReact_inv | apply State.setEvtCounter_inv
    | split
    | with_reducible apply State.mk_inv
    | with_reducible rfl
    | with_reducible exact Nat.le_refl _
    | (dsimp only; split)

theorem execFcolClassify_inv {s : State} (h : s.From q) : Keeps q (execFcolClassify s) := by
  refine Keeps.next ?_
  split
  · rename_i e rest _ hp
    refine State.fcolClassify_inv ?_ _
    refine h.of_le rfl rfl (Nat.le_refl _) (Nat.le_refl _) (Nat.le_refl _) (Nat.le_refl _) (Nat.le_refl _) ?_ (Nat.le_refl _)
      (Nat.le_refl _)
    rw [hp]; exact Nat.le_succ _
  · rename_i e rest _ hp
    have h' : State.From { s with fcol := { s.fcol with normal := rest, overflowDue := false } } q := by
      refine h.of_le rfl rfl (Nat.le_refl _) (Nat.le_refl _) (Nat.le_refl _) (Nat.le_refl _) ?_ (Nat.le_refl _) (Nat.le_refl _)
        (Nat.le_refl _)
      rw [hp]; exact Nat.le_succ _
    repeat' first
      | with_reducible intro _
      | with_reducible assumption
      | with_reducible first | apply State.fcolClassify_inv | apply State.fcolQueue_inv | apply State.ite_inv
      | split
      | with_reducible apply State.mk_inv
      | with_reducible rfl
      | with_reducible exact Nat.le_refl _
  · exact h

theorem execFcolWindowRollover_inv {s : State} (h : s.From q) (ticks : Nat) : Keeps q (execFcolWindowRollover ticks s) := by
  unfold execFcolWindowRollover
  repeat' first
    | with_reducible intro _
    | with_reducible assumption
    | with_reducible first | apply Keeps.next | apply Keeps.ite | apply State.ite_inv | apply State.fst_ite_inv | apply State.snd_ite_inv | apply State.wr_inv
    | split
    | with_reducible apply State.mk_inv
    | with_reducible rfl
    | with_reducible exact Nat.le_refl _
    | (dsimp only; split)

theorem execFenceApply_inv {s : State} (h : s.From q)  : Keeps q (execFenceApply s) := by
  unfold execFenceApply
  repeat' first
    | with_reducible intro _
    | with_reducible assumption
    | with_reducible first | apply Keeps.next | apply Keeps.ite | apply State.ite_inv | apply State.channelFence_inv | apply State.coreFence_inv | apply State.regionFence_inv
    | split
    | with_reducible apply State.mk_inv
    | with_reducible rfl
    | with_reducible exact Nat.le_refl _
    | (dsimp only; split)

theorem State.clrFirst_inv {s : State} (h : s.From q)  : (State.clrFirst s).From q := by
  unfold State.clrFirst
  repeat' first
    | with_reducible intro _
    | with_reducible assumption
    | with_reducible first | apply State.ite_inv | apply State.setReg_inv
    | split
    | with_reducible apply State.mk_inv
    | with_reducible rfl
    | with_reducible exact Nat.le_refl _
    | (dsimp only; split)

theorem State.fcolSafe_inv {s : State} (h : s.From q) (who : Writer) (v : BitVec 32) : (State.fcolSafe s who v).From q := by
  unfold State.fcolSafe
  repeat' first
    | with_reducible intro _
    | with_reducible assumption
    | with_reducible first | apply State.ite_inv | apply State.bump_inv | apply State.safeDirect_inv
    | split
    | with_reducible apply State.mk_inv
    | with_reducible rfl
    | with_reducible exact Nat.le_refl _
    | (dsimp only; split)

theorem State.fcolCtrlWrite_inv {s : State} (h : s.From q) (who : Writer) (v : BitVec 32) : (State.fcolCtrlWrite s who v).From q := by
  unfold State.fcolCtrlWrite
  repeat' first
    | with_reducible intro _
    | with_reducible assumption
    | with_reducible first | apply State.ite_inv | apply State.bump_inv | apply State.clrFirst_inv | apply State.fcolCommit_inv | apply State.fcolSafe_inv
    | split
    | with_reducible apply State.mk_inv
    | with_reducible rfl
    | with_reducible exact Nat.le_refl _
    | (dsimp only; split)

theorem execFcolSafeCmd_inv {s : State} (h : s.From q) (who : Writer) (v : Word) : Keeps q (execFcolSafeCmd who v s) := by
  unfold execFcolSafeCmd
  repeat' first
    | with_reducible intro _
    | with_reducible assumption
    | with_reducible first | apply Keeps.next | apply Keeps.ite | apply State.ite_inv | apply State.fcolSafe_inv
    | split
    | with_reducible apply State.mk_inv
    | with_reducible rfl
    | with_reducible exact Nat.le_refl _
    | (dsimp only; split)

theorem execClrFirst_inv {s : State} (h : s.From q)  : Keeps q (execClrFirst s) := by
  unfold execClrFirst
  repeat' first
    | with_reducible intro _
    | with_reducible assumption
    | with_reducible first | apply Keeps.next | apply Keeps.ite | apply State.ite_inv | apply State.clrFirst_inv
    | split
    | with_reducible apply State.mk_inv
    | with_reducible rfl
    | with_reducible exact Nat.le_refl _
    | (dsimp only; split)

theorem execFcolConfigMismatch_inv {s : State} (h : s.From q)  : Keeps q (execFcolConfigMismatch s) := by
  unfold execFcolConfigMismatch
  repeat' first
    | with_reducible intro _
    | with_reducible assumption
    | with_reducible first | apply Keeps.next | apply Keeps.ite | apply State.ite_inv | apply State.safeDirect_inv
    | split
    | with_reducible apply State.mk_inv
    | with_reducible rfl
    | with_reducible exact Nat.le_refl _
    | (dsimp only; split)

theorem execAliveToggle_inv {s : State} (h : s.From q)  : Keeps q (execAliveToggle s) := by
  unfold execAliveToggle
  repeat' first
    | with_reducible intro _
    | with_reducible assumption
    | with_reducible first | apply Keeps.next | apply Keeps.ite | apply State.ite_inv
    | split
    | with_reducible apply State.mk_inv
    | with_reducible rfl
    | with_reducible exact Nat.le_refl _
    | (dsimp only; split)

theorem State.wdogWrite_inv {s : State} (h : s.From q) (who : Writer) : (State.wdogWrite s who).From q := by
  unfold State.wdogWrite
  repeat' first
    | with_reducible intro _
    | with_reducible assumption
    | with_reducible first | apply State.ite_inv | apply State.bump_inv
    | split
    | with_reducible apply State.mk_inv
    | with_reducible rfl
    | with_reducible exact Nat.le_refl _
    | (dsimp only; split)

theorem execKick_inv {s : State} (h : s.From q) (who : Writer) : Keeps q (execKick who s) := by
  unfold execKick
  repeat' first
    | with_reducible intro _
    | with_reducible assumption
    | with_reducible first | apply Keeps.next | apply Keeps.ite | apply State.ite_inv | apply State.wdogWrite_inv
    | split
    | with_reducible apply State.mk_inv
    | with_reducible rfl
    | with_reducible exact Nat.le_refl _
    | (dsimp only; split)

theorem execWatchdogExpire_inv {s : State} (h : s.From q)  : Keeps q (execWatchdogExpire s) := by
  unfold execWatchdogExpire
  repeat' first
    | with_reducible intro _
    | with_reducible assumption
    | with_reducible first | apply Keeps.next | apply Keeps.ite | apply State.ite_inv | apply State.fcolArrive_inv
    | split
    | with_reducible apply State.mk_inv
    | with_reducible rfl
    | with_reducible exact Nat.le_refl _
    | (dsimp only; split)

theorem State.jigWrite_inv {s : State} (h : s.From q) (who : Writer) (v : BitVec 32) : (State.jigWrite s who v).From q := by
  unfold State.jigWrite
  repeat' first
    | with_reducible intro _
    | with_reducible assumption
    | with_reducible first | apply State.ite_inv | apply State.bump_inv | apply State.wr_inv | apply State.wrB_inv
    | split
    | with_reducible apply State.mk_inv
    | with_reducible rfl
    | with_reducible exact Nat.le_refl _
    | (dsimp only; split)

theorem execJigArm_inv {s : State} (h : s.From q) (who : Writer) (v : Word) : Keeps q (execJigArm who v s) := by
  unfold execJigArm
  repeat' first
    | with_reducible intro _
    | with_reducible assumption
    | with_reducible first | apply Keeps.next | apply Keeps.ite | apply State.ite_inv | apply State.jigWrite_inv
    | split
    | with_reducible apply State.mk_inv
    | with_reducible rfl
    | with_reducible exact Nat.le_refl _
    | (dsimp only; split)

theorem execJigMissed_inv {s : State} (h : s.From q)  : Keeps q (execJigMissed s) := by
  unfold execJigMissed
  repeat' first
    | with_reducible intro _
    | with_reducible assumption
    | with_reducible first | apply Keeps.next | apply Keeps.ite | apply State.ite_inv | apply State.dryfitEntry_inv | apply State.ev_inv | apply State.fcolArrive_inv | apply State.when_inv | apply State.wr_inv
    | split
    | with_reducible apply State.mk_inv
    | with_reducible rfl
    | with_reducible exact Nat.le_refl _
    | (dsimp only; split)

theorem State.faultBiscuit_inv {s : State} (h : s.From q) (src : Nat) (payload : List (BitVec 8)) : (State.faultBiscuit s src payload).From q := by
  unfold State.faultBiscuit
  repeat' first
    | with_reducible intro _
    | with_reducible assumption
    | with_reducible first | apply State.ite_inv | apply State.raise_inv
    | split
    | with_reducible apply State.mk_inv
    | with_reducible rfl
    | with_reducible exact Nat.le_refl _
    | (dsimp only; split)

theorem execFaultBiscuit_inv {s : State} (h : s.From q) (src : BitVec 16) (payload : List Byte) : Keeps q (execFaultBiscuit src payload s) := by
  unfold execFaultBiscuit
  repeat' first
    | with_reducible intro _
    | with_reducible assumption
    | with_reducible first | apply Keeps.next | apply Keeps.ite | apply State.ite_inv | apply State.faultBiscuit_inv
    | split
    | with_reducible apply State.mk_inv
    | with_reducible rfl
    | with_reducible exact Nat.le_refl _
    | (dsimp only; split)

end Sys2Proof.Machine
end

