-- ==== Sys2Proof/Laws/InvIntc.lean ====
section
/-!
SUPPORT. Laws/InvIntc.lean: the operations of Machine/Intc.lean keep the invariant of Safety.lean.
-/

namespace Sys2Proof.Machine

-- one theorem after the other: the package as one text then needs fewer threads
set_option Elab.async false

open Sys2Proof

variable {q : State}

theorem State.setRaw_inv {s : State} (h : s.From q) (n : Nat) (b : Bool) : (State.setRaw s n b).From q := by
  unfold State.setRaw
  repeat' first
    | with_reducible intro _
    | with_reducible assumption
    | with_reducible first | apply State.ite_inv | apply State.setBit_inv
    | split
    | with_reducible apply State.mk_inv
    | with_reducible rfl
    | with_reducible exact Nat.le_refl _
    | (dsimp only; split)

theorem State.setSrc_inv {s : State} (h : s.From q) (n : Nat) (x : SrcState) : (State.setSrc s n x).From q := by
  unfold State.setSrc
  repeat' first
    | with_reducible intro _
    | with_reducible assumption
    | with_reducible first | apply State.ite_inv
    | split
    | with_reducible apply State.mk_inv
    | with_reducible rfl
    | with_reducible exact Nat.le_refl _
    | (dsimp only; split)

theorem State.alertSettle_inv {s : State} (h : s.From q)  : (State.alertSettle s).From q := by
  unfold State.alertSettle
  repeat' first
    | with_reducible intro _
    | with_reducible assumption
    | with_reducible first | apply State.ite_inv
    | split
    | with_reducible apply State.mk_inv
    | with_reducible rfl
    | with_reducible exact Nat.le_refl _
    | (dsimp only; split)

theorem State.gate_inv {s : State} (h : s.From q) (running : Bool) (n : Nat) : (State.gate s running n).From q := by
  unfold State.gate
  repeat' first
    | with_reducible intro _
    | with_reducible assumption
    | with_reducible first | apply State.ite_inv | apply State.setSrc_inv | apply State.wr_inv
    | split
    | with_reducible apply State.mk_inv
    | with_reducible rfl
    | with_reducible exact Nat.le_refl _
    | (dsimp only; split)

theorem State.countEdge_inv {s : State} (h : s.From q) (n : Nat) : (State.countEdge s n).From q := by
  unfold State.countEdge
  repeat' first
    | with_reducible intro _
    | with_reducible assumption
    | with_reducible first | apply State.ite_inv | apply State.bump_inv
    | split
    | with_reducible apply State.mk_inv
    | with_reducible rfl
    | with_reducible exact Nat.le_refl _
    | (dsimp only; split)

theorem State.srcIdle_inv {s : State} (h : s.From q) (n : Nat) : (State.srcIdle s n).From q := by
  unfold State.srcIdle
  repeat' first
    | with_reducible intro _
    | with_reducible assumption
    | with_reducible first | apply State.ite_inv | apply State.setSrc_inv
    | split
    | with_reducible apply State.mk_inv
    | with_reducible rfl
    | with_reducible exact Nat.le_refl _
    | (dsimp only; split)

theorem State.levelRise_inv {s : State} (h : s.From q) (running : Bool) (n : Nat) : (State.levelRise s running n).From q := by
  unfold State.levelRise
  repeat' first
    | with_reducible intro _
    | with_reducible assumption
    | with_reducible first | apply State.ite_inv | apply State.countEdge_inv | apply State.gate_inv | apply State.setRaw_inv
    | split
    | with_reducible apply State.mk_inv
    | with_reducible rfl
    | with_reducible exact Nat.le_refl _
    | (dsimp only; split)

theorem execSourceLevelRise_inv {s : State} (h : s.From q) (n : Fin 129) (more : List (Fin 129)) : Keeps q (execSourceLevelRise n more s) := by
  unfold execSourceLevelRise
  repeat' first
    | with_reducible intro _
    | with_reducible assumption
    | with_reducible first | apply Keeps.next | apply Keeps.ite | apply State.ite_inv | apply State.forEach_inv | apply State.levelRise_inv
    | split
    | with_reducible apply State.mk_inv
    | with_reducible rfl
    | with_reducible exact Nat.le_refl _
    | (dsimp only; split)

theorem execSourceLevelFall_inv {s : State} (h : s.From q) (n : Fin 129) : Keeps q (execSourceLevelFall n s) := by
  unfold execSourceLevelFall
  repeat' first
    | with_reducible intro _
    | with_reducible assumption
    | with_reducible first | apply Keeps.next | apply Keeps.ite | apply State.ite_inv | apply State.alertSettle_inv | apply State.setRaw_inv | apply State.srcIdle_inv
    | split
    | with_reducible apply State.mk_inv
    | with_reducible rfl
    | with_reducible exact Nat.le_refl _
    | (dsimp only; split)

theorem State.enableChange_inv {s : State} (h : s.From q) (n : Nat) (was now running : Bool) : (State.enableChange s n was now running).From q := by
  unfold State.enableChange
  repeat' first
    | with_reducible intro _
    | with_reducible assumption
    | with_reducible first | apply State.ite_inv | apply State.gate_inv | apply State.srcIdle_inv
    | split
    | with_reducible apply State.mk_inv
    | with_reducible rfl
    | with_reducible exact Nat.le_refl _
    | (dsimp only; split)

theorem State.intcEnWrite_inv {s : State} (h : s.From q) (k : Nat) (v : Word) : (State.intcEnWrite s k v).From q := by
  unfold State.intcEnWrite
  repeat' first
    | with_reducible intro _
    | with_reducible assumption
    | with_reducible first | apply State.ite_inv | apply State.alertSettle_inv | apply State.enableChange_inv | apply State.forAll_inv | apply State.setReg_inv
    | split
    | with_reducible apply State.mk_inv
    | with_reducible rfl
    | with_reducible exact Nat.le_refl _
    | (dsimp only; split)

theorem State.intcCqCfgWrite_inv {s : State} (h : s.From q) (v : Word) : (State.intcCqCfgWrite s v).From q := by
  unfold State.intcCqCfgWrite
  repeat' first
    | with_reducible intro _
    | with_reducible assumption
    | with_reducible first | apply State.ite_inv | apply State.alertSettle_inv | apply State.enableChange_inv | apply State.setReg_inv
    | split
    | with_reducible apply State.mk_inv
    | with_reducible rfl
    | with_reducible exact Nat.le_refl _
    | (dsimp only; split)

theorem execIntcEnWrite_inv {s : State} (h : s.From q) (k : Fin 4) (v : Word) : Keeps q (execIntcEnWrite k v s) := by
  unfold execIntcEnWrite
  repeat' first
    | with_reducible intro _
    | with_reducible assumption
    | with_reducible first | apply Keeps.next | apply Keeps.ite | apply State.ite_inv | apply State.intcEnWrite_inv
    | split
    | with_reducible apply State.mk_inv
    | with_reducible rfl
    | with_reducible exact Nat.le_refl _
    | (dsimp only; split)

theorem execModerationExpiry_inv {s : State} (h : s.From q) (g : Fin 16) : Keeps q (execModerationExpiry g s) := by
  unfold execModerationExpiry
  repeat' first
    | with_reducible intro _
    | with_reducible assumption
    | with_reducible first | apply Keeps.next | apply Keeps.ite | apply State.ite_inv | apply State.forEach_inv | apply State.setRaw_inv | apply State.setSrc_inv | apply State.wr_inv
    | split
    | with_reducible apply State.mk_inv
    | with_reducible rfl
    | with_reducible exact Nat.le_refl _
    | (dsimp only; split)

theorem State.intcClaim_inv {s : State} (h : s.From q)  : (State.intcClaim s).2.From q := by
  unfold State.intcClaim
  repeat' first
    | with_reducible intro _
    | with_reducible assumption
    | with_reducible first | apply State.ite_inv | apply State.snd_ite_inv | apply State.alertSettle_inv | apply State.bump_inv | apply State.setSrc_inv
    | split
    | with_reducible apply State.mk_inv
    | with_reducible rfl
    | with_reducible exact Nat.le_refl _
    | (dsimp only; split)

theorem State.intcComplete_inv {s : State} (h : s.From q) (n : Nat) : (State.intcComplete s n).From q := by
  unfold State.intcComplete
  repeat' first
    | with_reducible intro _
    | with_reducible assumption
    | with_reducible first | apply State.ite_inv | apply State.bump_inv | apply State.countEdge_inv | apply State.gate_inv | apply State.setRaw_inv | apply State.setSrc_inv
    | split
    | with_reducible apply State.mk_inv
    | with_reducible rfl
    | with_reducible exact Nat.le_refl _
    | (dsimp only; split)

theorem State.polSourceLoad_inv {s : State} (h : s.From q)  : (State.polSourceLoad s).From q := by
  unfold State.polSourceLoad
  repeat' first
    | with_reducible intro _
    | with_reducible assumption
    | with_reducible first | apply State.ite_inv
    | split
    | with_reducible apply State.mk_inv
    | with_reducible rfl
    | with_reducible exact Nat.le_refl _
    | (dsimp only; split)

end Sys2Proof.Machine
end

