-- ==== Sys2Proof/Laws/InvSec.lean ====
section
/-!
SUPPORT. Laws/InvSec.lean: the operations of Machine/Sec.lean keep the invariant of Safety.lean.
-/

namespace Sys2Proof.Machine

-- one theorem after the other: the package as one text then needs fewer threads
set_option Elab.async false

open Sys2Proof

variable {q : State}

theorem State.hostResult_inv {s : State} (h : s.From q) (code : Nat) : (State.hostResult s code).From q := by
  unfold State.hostResult
  repeat' first
    | with_reducible intro _
    | with_reducible assumption
    | with_reducible first | apply State.ite_inv | apply State.bumpWrap_inv | apply State.wr_inv
    | split
    | with_reducible apply State.mk_inv
    | with_reducible rfl
    | with_reducible exact Nat.le_refl _
    | (dsimp only; split)

theorem State.hostErr_inv {s : State} (h : s.From q) (code : Nat) : (State.hostErr s code).From q := by
  unfold State.hostErr
  repeat' first
    | with_reducible intro _
    | with_reducible assumption
    | with_reducible first | apply State.ite_inv | apply State.bump_inv | apply State.ev_inv | apply State.hostResult_inv
    | split
    | with_reducible apply State.mk_inv
    | with_reducible rfl
    | with_reducible exact Nat.le_refl _
    | (dsimp only; split)

theorem State.setNonce_inv {s : State} (h : s.From q) (n : Option (List (BitVec 8))) : (State.setNonce s n).From q := by
  unfold State.setNonce
  repeat' first
    | with_reducible intro _
    | with_reducible assumption
    | with_reducible first | apply State.ite_inv | apply State.wrB_inv
    | split
    | with_reducible apply State.mk_inv
    | with_reducible rfl
    | with_reducible exact Nat.le_refl _
    | (dsimp only; split)

theorem State.challenge_inv {s : State} (h : s.From q) (nonce : List (BitVec 8)) : (State.challenge s nonce).From q := by
  unfold State.challenge
  repeat' first
    | with_reducible intro _
    | with_reducible assumption
    | with_reducible first | apply State.ite_inv | apply State.setNonce_inv
    | split
    | with_reducible apply State.mk_inv
    | with_reducible rfl
    | with_reducible exact Nat.le_refl _
    | (dsimp only; split)

theorem State.attemptGo_inv {s : State} (h : s.From q) (password : Bool) (a : Attempt) (valid : Bool) : (State.attemptGo s password a valid).From q := by
  unfold State.attemptGo
  repeat' first
    | with_reducible intro _
    | with_reducible assumption
    | with_reducible first | apply State.ite_inv | apply State.bump_inv | apply State.ev_inv | apply State.hostResult_inv
    | split
    | with_reducible apply State.mk_inv
    | with_reducible rfl
    | with_reducible exact Nat.le_refl _
    | (dsimp only; split)

theorem State.unlockPw_inv {s : State} (h : s.From q) (bytes : List (BitVec 8)) : (State.unlockPw s bytes).From q := by
  unfold State.unlockPw
  repeat' first
    | with_reducible intro _
    | with_reducible assumption
    | with_reducible first | apply State.ite_inv | apply State.attemptGo_inv | apply State.hostResult_inv
    | split
    | with_reducible apply State.mk_inv
    | with_reducible rfl
    | with_reducible exact Nat.le_refl _
    | (dsimp only; split)

theorem State.response_inv {s : State} (h : s.From q) (bytes : List (BitVec 8)) : (State.response s bytes).From q := by
  unfold State.response
  repeat' first
    | with_reducible intro _
    | with_reducible assumption
    | with_reducible first | apply State.ite_inv | apply State.attemptGo_inv | apply State.hostResult_inv | apply State.setNonce_inv
    | split
    | with_reducible apply State.mk_inv
    | with_reducible rfl
    | with_reducible exact Nat.le_refl _
    | (dsimp only; split)

theorem State.attemptFail_inv {s : State} (h : s.From q)  : (State.attemptFail s).From q := by
  unfold State.attemptFail
  repeat' first
    | with_reducible intro _
    | with_reducible assumption
    | with_reducible first | apply State.ite_inv | apply State.ev_inv | apply State.wr_inv
    | split
    | with_reducible apply State.mk_inv
    | with_reducible rfl
    | with_reducible exact Nat.le_refl _
    | (dsimp only; split)

theorem State.debugUnlock_inv {s : State} (h : s.From q) (method : Nat) : (State.debugUnlock s method).From q := by
  unfold State.debugUnlock
  repeat' first
    | with_reducible intro _
    | with_reducible assumption
    | with_reducible first | apply State.ite_inv | apply State.ev_inv | apply State.wr_inv
    | split
    | with_reducible apply State.mk_inv
    | with_reducible rfl
    | with_reducible exact Nat.le_refl _
    | (dsimp only; split)

theorem execAttemptEvaluated_inv {s : State} (h : s.From q)  : Keeps q (execAttemptEvaluated s) := by
  unfold execAttemptEvaluated
  repeat' first
    | with_reducible intro _
    | with_reducible assumption
    | with_reducible first | apply Keeps.next | apply Keeps.ite | apply State.ite_inv | apply State.attemptFail_inv | apply State.debugUnlock_inv | apply State.hostResult_inv
    | split
    | with_reducible apply State.mk_inv
    | with_reducible rfl
    | with_reducible exact Nat.le_refl _
    | (dsimp only; split)

theorem execJtagUnlockMailbox_inv {s : State} (h : s.From q) (m : Mailbox) : Keeps q (execJtagUnlockMailbox m s) := by
  unfold execJtagUnlockMailbox
  repeat' first
    | with_reducible intro _
    | with_reducible assumption
    | with_reducible first | apply Keeps.next | apply Keeps.ite | apply State.ite_inv | apply State.challenge_inv | apply State.response_inv | apply State.unlockPw_inv
    | split
    | with_reducible apply State.mk_inv
    | with_reducible rfl
    | with_reducible exact Nat.le_refl _
    | (dsimp only; split)

theorem execLockoutEnd_inv {s : State} (h : s.From q)  : Keeps q (execLockoutEnd s) := by
  unfold execLockoutEnd
  repeat' first
    | with_reducible intro _
    | with_reducible assumption
    | with_reducible first | apply Keeps.next | apply Keeps.ite | apply State.ite_inv
    | split
    | with_reducible apply State.mk_inv
    | with_reducible rfl
    | with_reducible exact Nat.le_refl _
    | (dsimp only; split)

theorem execNonceExpire_inv {s : State} (h : s.From q)  : Keeps q (execNonceExpire s) := by
  unfold execNonceExpire
  repeat' first
    | with_reducible intro _
    | with_reducible assumption
    | with_reducible first | apply Keeps.next | apply Keeps.ite | apply State.ite_inv | apply State.setNonce_inv
    | split
    | with_reducible apply State.mk_inv
    | with_reducible rfl
    | with_reducible exact Nat.le_refl _
    | (dsimp only; split)

theorem State.relock_inv {s : State} (h : s.From q) (v : Word) : (State.relock s v).From q := by
  unfold State.relock
  repeat' first
    | with_reducible intro _
    | with_reducible assumption
    | with_reducible first | apply State.ite_inv | apply State.bump_inv | apply State.ev_inv | apply State.wr_inv
    | split
    | with_reducible apply State.mk_inv
    | with_reducible rfl
    | with_reducible exact Nat.le_refl _
    | (dsimp only; split)

theorem execRelock_inv {s : State} (h : s.From q) (v : Word) : Keeps q (execRelock v s) := by
  unfold execRelock
  repeat' first
    | with_reducible intro _
    | with_reducible assumption
    | with_reducible first | apply Keeps.next | apply Keeps.ite | apply State.ite_inv | apply State.relock_inv
    | split
    | with_reducible apply State.mk_inv
    | with_reducible rfl
    | with_reducible exact Nat.le_refl _
    | (dsimp only; split)

theorem State.svWrite_inv {s : State} (h : s.From q) (v : Word) : (State.svWrite s v).From q := by
  unfold State.svWrite
  repeat' first
    | with_reducible intro _
    | with_reducible assumption
    | with_reducible first | apply State.ite_inv | apply State.bump_inv | apply State.ev_inv | apply State.wr_inv
    | split
    | with_reducible apply State.mk_inv
    | with_reducible rfl
    | with_reducible exact Nat.le_refl _
    | (dsimp only; split)

theorem execSvRaise_inv {s : State} (h : s.From q) (v : Word) : Keeps q (execSvRaise v s) := by
  unfold execSvRaise
  repeat' first
    | with_reducible intro _
    | with_reducible assumption
    | with_reducible first | apply Keeps.next | apply Keeps.ite | apply State.ite_inv | apply State.svWrite_inv
    | split
    | with_reducible apply State.mk_inv
    | with_reducible rfl
    | with_reducible exact Nat.le_refl _
    | (dsimp only; split)

/-- The minimum security version rises alone in OTP (R460). -/
theorem State.minSv_inv {s : State} (h : s.From q) (m : Nat) (hm : s.otp.minSv ≤ m) (x : SecSt) :
    State.From { s with otp := { s.otp with minSv := m }, sec := x } q := by
  obtain ⟨hp, hn, ho, hv⟩ := h.2
  refine ⟨fun hq => have ⟨c, b⟩ := h.1 hq; ⟨c, b.1, b.2, b.3, b.4, b.5, b.6, b.7, b.8⟩, ⟨hp, hn, ?_, Nat.le_trans hv hm⟩⟩
  show { s.otp with minSv := m } = { q.otp with minSv := m }
  rw [ho]

theorem execSvRaised_inv {s : State} (h : s.From q) : Keeps q (execSvRaised s) := by
  unfold execSvRaised
  split
  · exact h
  · exact State.minSv_inv (State.ev_inv (State.wr_inv (State.wr_inv h _ _) _ _) _ _) _ (Nat.le_max_left _ _) _

end Sys2Proof.Machine
end

