-- ==== Sys2Proof/Laws/InvBus.lean ====
section
/-!
SUPPORT. Laws/InvBus.lean: the operations of Machine/Bus.lean keep the invariant of Safety.lean.
-/

namespace Sys2Proof.Machine

-- one theorem after the other: the package as one text then needs fewer threads
set_option Elab.async false

open Sys2Proof

variable {q : State}

theorem State.biscuitSend_inv {s : State} (h : s.From q)  : (State.biscuitSend s).From q := by
  unfold State.biscuitSend
  repeat' first
    | with_reducible intro _
    | with_reducible assumption
    | with_reducible first | apply State.ite_inv | apply State.ev_inv | apply State.ringQueue_inv
    | split
    | with_reducible apply State.mk_inv
    | with_reducible rfl
    | with_reducible exact Nat.le_refl _
    | (dsimp only; split)

theorem State.biscuitPop_inv {s : State} (h : s.From q) : s.biscuitPop.From q := by
  refine h.of_le rfl rfl (Nat.le_refl _) (Nat.le_refl _) (Nat.le_refl _) ?_ (Nat.le_refl _) (Nat.le_refl _) (Nat.le_refl _)
    (Nat.le_refl _)
  simp only [State.biscuitPop, List.length_drop]; omega

theorem execBiscuitSend_inv {s : State} (h : s.From q)  : Keeps q (execBiscuitSend s) := by
  unfold execBiscuitSend
  repeat' first
    | with_reducible intro _
    | with_reducible assumption
    | with_reducible first | apply Keeps.next | apply Keeps.ite | apply State.ite_inv | apply State.biscuitSend_inv
    | split
    | with_reducible apply State.mk_inv
    | with_reducible rfl
    | with_reducible exact Nat.le_refl _
    | (dsimp only; split)

theorem execBiscuitPop_inv {s : State} (h : s.From q)  : Keeps q (execBiscuitPop s) := by
  unfold execBiscuitPop
  repeat' first
    | with_reducible intro _
    | with_reducible assumption
    | with_reducible first | apply Keeps.next | apply Keeps.ite | apply State.ite_inv | apply State.biscuitPop_inv
    | split
    | with_reducible apply State.mk_inv
    | with_reducible rfl
    | with_reducible exact Nat.le_refl _
    | (dsimp only; split)

theorem State.setMemByte_inv {s : State} (h : s.From q) (a : Nat) (x : BitVec 8) : (s.setMemByte a x).From q := by
  unfold State.setMemByte
  split
  · exact h.of_eq rfl rfl rfl rfl rfl rfl rfl rfl rfl rfl rfl
  · refine ⟨fun hq => ?_, h.2.of_eq rfl rfl rfl⟩
    obtain ⟨⟨c1, c2⟩, b⟩ := h.1 hq
    exact ⟨⟨c1, Tbl.wf_set (f := fun _ => 0) c2⟩, b.1, b.2, b.3, b.4, b.5, b.6, b.7, b.8⟩

theorem State.setMemWord_inv {s : State} (h : s.From q) (a : Nat) (v : BitVec 32) : (State.setMemWord s a v).From q := by
  unfold State.setMemWord
  repeat' first
    | with_reducible intro _
    | with_reducible assumption
    | with_reducible first | apply State.ite_inv | apply State.forAll_inv | apply State.setMemByte_inv
    | split
    | with_reducible apply State.mk_inv
    | with_reducible rfl
    | with_reducible exact Nat.le_refl _
    | (dsimp only; split)

theorem State.rwbIgnored_inv {s : State} (h : s.From q) (g : RegGroup) (a : Nat) (v : BitVec 32) : (State.rwbIgnored s g a v).From q := by
  unfold State.rwbIgnored
  repeat' first
    | with_reducible intro _
    | with_reducible assumption
    | with_reducible first | apply State.ite_inv | apply State.bump_inv | apply State.ev_inv
    | split
    | with_reducible apply State.mk_inv
    | with_reducible rfl
    | with_reducible exact Nat.le_refl _
    | (dsimp only; split)

theorem State.plainWrite_inv {s : State} (h : s.From q) (a : Nat) (v : BitVec 32) : (State.plainWrite s a v).From q := by
  unfold State.plainWrite
  repeat' first
    | with_reducible intro _
    | with_reducible assumption
    | with_reducible first | apply State.ite_inv | apply State.rwbIgnored_inv | apply State.setReg_inv
    | split
    | with_reducible apply State.mk_inv
    | with_reducible rfl
    | with_reducible exact Nat.le_refl _
    | (dsimp only; split)

theorem State.plainIf_inv {s : State} (h : s.From q) (ok : Bool) (a : Nat) (v : BitVec 32) : (State.plainIf s ok a v).From q := by
  unfold State.plainIf
  repeat' first
    | with_reducible intro _
    | with_reducible assumption
    | with_reducible first | apply State.ite_inv | apply State.plainWrite_inv
    | split
    | with_reducible apply State.mk_inv
    | with_reducible rfl
    | with_reducible exact Nat.le_refl _
    | (dsimp only; split)

theorem State.writeSys_inv {s : State} (h : s.From q) (a : Nat) (v : BitVec 32) : (State.writeSys s a v).From q := by
  unfold State.writeSys
  repeat' first
    | with_reducible intro _
    | with_reducible assumption
    | with_reducible first | apply State.ite_inv | apply State.blkrstWrite_inv | apply State.plainWrite_inv | apply State.rstctrlWrite_inv
    | split
    | with_reducible apply State.mk_inv
    | with_reducible rfl
    | with_reducible exact Nat.le_refl _
    | (dsimp only; split)

theorem State.writePmu_inv {s : State} (h : s.From q) (a : Nat) (v : BitVec 32) : (State.writePmu s a v).From q := by
  unfold State.writePmu
  repeat' first
    | with_reducible intro _
    | with_reducible assumption
    | with_reducible first | apply State.ite_inv | apply State.govCtrlWrite_inv | apply State.govLimitWrite_inv | apply State.micbCfgWrite_inv | apply State.plainWrite_inv | apply State.railctrlWrite_inv | apply State.stbyctrlWrite_inv | apply State.wakecfgWrite_inv
    | split
    | with_reducible apply State.mk_inv
    | with_reducible rfl
    | with_reducible exact Nat.le_refl _
    | (dsimp only; split)

theorem State.writeHk_inv {s : State} (h : s.From q) (a : Nat) (v : BitVec 32) : (State.writeHk s a v).From q := by
  unfold State.writeHk
  repeat' first
    | with_reducible intro _
    | with_reducible assumption
    | with_reducible first | apply State.ite_inv | apply State.hkCtrlWrite_inv | apply State.hkWinWrite_inv | apply State.plainWrite_inv
    | split
    | with_reducible apply State.mk_inv
    | with_reducible rfl
    | with_reducible exact Nat.le_refl _
    | (dsimp only; split)

theorem State.writeSense_inv {s : State} (h : s.From q) (a : Nat) (v : BitVec 32) : (State.writeSense s a v).From q := by
  unfold State.writeSense
  repeat' first
    | with_reducible intro _
    | with_reducible assumption
    | with_reducible first | apply State.ite_inv | apply State.plainIf_inv | apply State.plainWrite_inv | apply State.senseCtrlWrite_inv
    | split
    | with_reducible apply State.mk_inv
    | with_reducible rfl
    | with_reducible exact Nat.le_refl _
    | (dsimp only; split)

theorem State.writeDecim_inv {s : State} (h : s.From q) (a : Nat) (v : BitVec 32) : (State.writeDecim s a v).From q := by
  unfold State.writeDecim
  repeat' first
    | with_reducible intro _
    | with_reducible assumption
    | with_reducible first | apply State.ite_inv | apply State.auxPathWrite_inv | apply State.plainIf_inv | apply State.plainWrite_inv | apply State.thrWrite_inv
    | split
    | with_reducible apply State.mk_inv
    | with_reducible rfl
    | with_reducible exact Nat.le_refl _
    | (dsimp only; split)

theorem State.writeLoop_inv {s : State} (h : s.From q) (a : Nat) (v : BitVec 32) : (State.writeLoop s a v).From q := by
  unfold State.writeLoop
  repeat' first
    | with_reducible intro _
    | with_reducible assumption
    | with_reducible first | apply State.ite_inv | apply State.bankWrite_inv | apply State.bankselWrite_inv | apply State.fbWrite_inv | apply State.loopCfgWrite_inv | apply State.plainWrite_inv | apply State.rcCfgWrite_inv | apply State.rcClear_inv | apply State.rcConvWrite_inv | apply State.rcGainWrite_inv | apply State.rcSrcWrite_inv | apply State.rcTableWrite_inv
    | split
    | with_reducible apply State.mk_inv
    | with_reducible rfl
    | with_reducible exact Nat.le_refl _
    | (dsimp only; split)

theorem State.writeMod_inv {s : State} (h : s.From q) (who : Writer) (a : Nat) (v : BitVec 32) : (State.writeMod s who a v).From q := by
  unfold State.writeMod
  repeat' first
    | with_reducible intro _
    | with_reducible assumption
    | with_reducible first | apply State.ite_inv | apply State.outCtrlWrite_inv | apply State.plainIf_inv | apply State.plainWrite_inv | apply State.tripLimWrite_inv | apply State.wr_inv
    | split
    | with_reducible apply State.mk_inv
    | with_reducible rfl
    | with_reducible exact Nat.le_refl _
    | (dsimp only; split)

theorem State.writeGuard_inv {s : State} (h : s.From q) (a : Nat) (v : BitVec 32) : (State.writeGuard s a v).From q := by
  unfold State.writeGuard
  repeat' first
    | with_reducible intro _
    | with_reducible assumption
    | with_reducible first | apply State.ite_inv | apply State.clampWrite_inv | apply State.plainWrite_inv
    | split
    | with_reducible apply State.mk_inv
    | with_reducible rfl
    | with_reducible exact Nat.le_refl _
    | (dsimp only; split)

theorem State.writePort_inv {s : State} (h : s.From q) (a : Nat) (v : BitVec 32) : (State.writePort s a v).From q := by
  unfold State.writePort
  repeat' first
    | with_reducible intro _
    | with_reducible assumption
    | with_reducible first | apply State.ite_inv | apply State.gstartFire_inv | apply State.plainWrite_inv | apply State.portCfgWrite_inv | apply State.portCtrlWrite_inv | apply State.portDivider_inv | apply State.portMapWrite_inv | apply State.portRefused_inv | apply State.portSlotmask_inv | apply State.wr_inv
    | split
    | with_reducible apply State.mk_inv
    | with_reducible rfl
    | with_reducible exact Nat.le_refl _
    | (dsimp only; split)

theorem State.writeTring_inv {s : State} (h : s.From q) (a : Nat) (v : BitVec 32) : (State.writeTring s a v).From q := by
  unfold State.writeTring
  repeat' first
    | with_reducible intro _
    | with_reducible assumption
    | with_reducible first | apply State.ite_inv | apply State.biscuitPop_inv | apply State.biscuitSend_inv | apply State.plainWrite_inv | apply State.ringStart_inv | apply State.ringStop_inv | apply State.tringCfgWrite_inv | apply State.tringMapWrite_inv
    | split
    | with_reducible apply State.mk_inv
    | with_reducible rfl
    | with_reducible exact Nat.le_refl _
    | (dsimp only; split)

theorem State.writeFcol_inv {s : State} (h : s.From q) (who : Writer) (a : Nat) (v : BitVec 32) : (State.writeFcol s who a v).From q := by
  unfold State.writeFcol
  repeat' first
    | with_reducible intro _
    | with_reducible assumption
    | with_reducible first | apply State.ite_inv | apply State.fcolCtrlWrite_inv | apply State.jigWrite_inv | apply State.plainWrite_inv | apply State.ruleWrite_inv | apply State.wdogWrite_inv
    | split
    | with_reducible apply State.mk_inv
    | with_reducible rfl
    | with_reducible exact Nat.le_refl _
    | (dsimp only; split)

theorem State.writeIntc_inv {s : State} (h : s.From q) (a : Nat) (v : BitVec 32) : (State.writeIntc s a v).From q := by
  unfold State.writeIntc
  repeat' first
    | with_reducible intro _
    | with_reducible assumption
    | with_reducible first | apply State.ite_inv | apply State.alertSettle_inv | apply State.intcComplete_inv | apply State.intcCqCfgWrite_inv | apply State.intcEnWrite_inv | apply State.plainWrite_inv
    | split
    | with_reducible apply State.mk_inv
    | with_reducible rfl
    | with_reducible exact Nat.le_refl _
    | (dsimp only; split)

theorem State.writeDspx_inv {s : State} (h : s.From q) (a : Nat) (v : BitVec 32) : (State.writeDspx s a v).From q := by
  unfold State.writeDspx
  repeat' first
    | with_reducible intro _
    | with_reducible assumption
    | with_reducible first | apply State.ite_inv | apply State.ctxCfgWrite_inv | apply State.ctxLevelWrite_inv | apply State.dspRefused_inv | apply State.genCfgWrite_inv | apply State.genFreqWrite_inv | apply State.plainWrite_inv | apply State.playCmd_inv
    | split
    | with_reducible apply State.mk_inv
    | with_reducible rfl
    | with_reducible exact Nat.le_refl _
    | (dsimp only; split)

theorem State.writeTrace_inv {s : State} (h : s.From q) (a : Nat) (v : BitVec 32) : (State.writeTrace s a v).From q := by
  unfold State.writeTrace
  repeat' first
    | with_reducible intro _
    | with_reducible assumption
    | with_reducible first | apply State.ite_inv | apply State.plainWrite_inv | apply State.traceCfgWrite_inv | apply State.traceCtrl_inv
    | split
    | with_reducible apply State.mk_inv
    | with_reducible rfl
    | with_reducible exact Nat.le_refl _
    | (dsimp only; split)

theorem State.nvmRefuse_inv {s : State} (h : s.From q) (code : Nat) : (State.nvmRefuse s code).From q := by
  unfold State.nvmRefuse
  repeat' first
    | with_reducible intro _
    | with_reducible assumption
    | with_reducible first | apply State.ite_inv | apply State.bump_inv | apply State.ev_inv | apply State.wr_inv
    | split
    | with_reducible apply State.mk_inv
    | with_reducible rfl
    | with_reducible exact Nat.le_refl _
    | (dsimp only; split)

theorem State.nvmCtrlWrite_inv {s : State} (h : s.From q) (v : BitVec 32) : (State.nvmCtrlWrite s v).From q := by
  unfold State.nvmCtrlWrite
  repeat' first
    | with_reducible intro _
    | with_reducible assumption
    | with_reducible first | apply State.ite_inv | apply State.nvmRefuse_inv | apply State.plainWrite_inv | apply State.wr_inv
    | split
    | with_reducible apply State.mk_inv
    | with_reducible rfl
    | with_reducible exact Nat.le_refl _
    | (dsimp only; split)

theorem State.writeHbus_inv {s : State} (h : s.From q) (a : Nat) (v : BitVec 32) : (State.writeHbus s a v).From q := by
  unfold State.writeHbus
  repeat' first
    | with_reducible intro _
    | with_reducible assumption
    | with_reducible first | apply State.ite_inv | apply State.nvmCtrlWrite_inv | apply State.plainWrite_inv
    | split
    | with_reducible apply State.mk_inv
    | with_reducible rfl
    | with_reducible exact Nat.le_refl _
    | (dsimp only; split)

theorem State.writeSec_inv {s : State} (h : s.From q) (a : Nat) (v : BitVec 32) : (State.writeSec s a v).From q := by
  unfold State.writeSec
  repeat' first
    | with_reducible intro _
    | with_reducible assumption
    | with_reducible first | apply State.ite_inv | apply State.plainWrite_inv | apply State.relock_inv | apply State.svWrite_inv
    | split
    | with_reducible apply State.mk_inv
    | with_reducible rfl
    | with_reducible exact Nat.le_refl _
    | (dsimp only; split)

theorem State.writeReg_inv {s : State} (h : s.From q) (who : Writer) (a : Nat) (v : BitVec 32) : (State.writeReg s who a v).From q := by
  unfold State.writeReg
  repeat' first
    | with_reducible intro _
    | with_reducible assumption
    | with_reducible first | apply State.ite_inv | apply State.diagCmd_inv | apply State.plainWrite_inv | apply State.writeDecim_inv | apply State.writeDspx_inv | apply State.writeFcol_inv | apply State.writeGuard_inv | apply State.writeHbus_inv | apply State.writeHk_inv | apply State.writeIntc_inv | apply State.writeLoop_inv | apply State.writeMod_inv | apply State.writePmu_inv | apply State.writePort_inv | apply State.writeSec_inv | apply State.writeSense_inv | apply State.writeSys_inv | apply State.writeTrace_inv | apply State.writeTring_inv
    | split
    | with_reducible apply State.mk_inv
    | with_reducible rfl
    | with_reducible exact Nat.le_refl _
    | (dsimp only; split)

theorem State.readReg_inv {s : State} (h : s.From q) (a : Nat) : (State.readReg s a).2.From q := by
  unfold State.readReg
  repeat' first
    | with_reducible intro _
    | with_reducible assumption
    | with_reducible first | apply State.ite_inv | apply State.foldl_inv | apply State.foldl_fst_inv | apply State.foldl_snd_inv | apply State.fst_ite_inv | apply State.snd_ite_inv | apply State.intcClaim_inv | apply State.setReg_inv | apply State.traceRead_inv
    | split
    | with_reducible apply State.mk_inv
    | with_reducible rfl
    | with_reducible exact Nat.le_refl _
    | (dsimp only; split)

theorem State.busCount_inv {s : State} (h : s.From q) (e : BusEnd) : (s.busCount e).From q := by
  cases e
  · exact h
  · exact State.bump_inv h _
  · exact State.bump_inv h _
  · exact State.bump_inv h _

theorem State.busWrite_inv {s : State} (h : s.From q) (who : Writer) (a : Nat) (v : BitVec 32) : (State.busWrite s who a v).2.From q := by
  unfold State.busWrite
  repeat' first
    | with_reducible intro _
    | with_reducible assumption
    | with_reducible first | apply State.ite_inv | apply State.snd_ite_inv | apply State.busCount_inv | apply State.setMemWord_inv | apply State.writeReg_inv
    | split
    | with_reducible apply State.mk_inv
    | with_reducible rfl
    | with_reducible exact Nat.le_refl _
    | (dsimp only; split)

theorem State.busRead_inv {s : State} (h : s.From q) (who : Writer) (a : Nat) : (s.busRead who a).2.2.From q := by
  unfold State.busRead
  dsimp only
  split
  · split
    · exact State.readReg_inv h _
    · exact h
  · exact State.busCount_inv h _

theorem execRegisterWrite_inv {s : State} (h : s.From q) (who : Writer) (addr : Nat) (v : Word) : Keeps q (execRegisterWrite who addr v s) := by
  unfold execRegisterWrite
  repeat' first
    | with_reducible intro _
    | with_reducible assumption
    | with_reducible first | apply Keeps.next | apply Keeps.ite | apply State.ite_inv | apply State.snd_ite_inv | apply State.busWrite_inv
    | split
    | with_reducible apply State.mk_inv
    | with_reducible rfl
    | with_reducible exact Nat.le_refl _
    | (dsimp only; split)

end Sys2Proof.Machine
end

