-- ==== Sys2Proof/Laws/InvHbus.lean ====
section
/-!
SUPPORT. Laws/InvHbus.lean: the operations of Machine/Hbus.lean keep the invariant of Safety.lean.
-/

namespace Sys2Proof.Machine

-- one theorem after the other: the package as one text then needs fewer threads
set_option Elab.async false

open Sys2Proof

variable {q : State}

theorem State.hostBack_inv {s : State} (h : s.From q) (out : List (BitVec 8)) (acked : Bool) : (State.hostBack s out acked).From q := by
  unfold State.hostBack
  repeat' first
    | with_reducible intro _
    | with_reducible assumption
    | with_reducible first | apply State.ite_inv
    | split
    | with_reducible apply State.mk_inv
    | with_reducible rfl
    | with_reducible exact Nat.le_refl _
    | (dsimp only; split)

theorem State.hostFail_inv {s : State} (h : s.From q) (code : Nat) : (State.hostFail s code).From q := by
  unfold State.hostFail
  repeat' first
    | with_reducible intro _
    | with_reducible assumption
    | with_reducible first | apply State.ite_inv | apply State.hostBack_inv | apply State.hostErr_inv
    | split
    | with_reducible apply State.mk_inv
    | with_reducible rfl
    | with_reducible exact Nat.le_refl _
    | (dsimp only; split)

theorem State.hostWrite_inv {s : State} (h : s.From q) (wr : List (BitVec 8)) (e : WriteEnd) (act : State → State) (hact : ∀ t : State, t.From q → (act t).From q) : (State.hostWrite s wr e act).From q := by
  unfold State.hostWrite
  repeat' first
    | with_reducible intro _
    | with_reducible assumption
    | with_reducible first | apply hact | apply State.ite_inv | apply State.hostBack_inv | apply State.hostFail_inv | apply State.wr_inv
    | split
    | with_reducible apply State.mk_inv
    | with_reducible rfl
    | with_reducible exact Nat.le_refl _
    | (dsimp only; split)

theorem State.hostRead_inv {s : State} (h : s.From q) (e : ReadEnd) (wr data : List (BitVec 8)) {t : State} (ht : t.From q)
    (result : Nat) : (s.hostRead e wr data t result).From q := by
  unfold State.hostRead
  repeat' first
    | with_reducible intro _
    | with_reducible assumption
    | with_reducible first | apply State.hostFail_inv | apply State.hostBack_inv | apply State.hostErr_inv | apply State.hostResult_inv | apply State.ite_inv
    | split
    | with_reducible apply State.mk_inv
    | with_reducible rfl
    | with_reducible exact Nat.le_refl _

theorem State.hostCmd_inv {s : State} (h : s.From q) (f : State → State) (hf : ∀ t : State, t.From q → (f t).From q) :
    Keeps q (s.hostCmd f) := by
  refine Keeps.next ?_
  repeat' first
    | with_reducible intro _
    | with_reducible assumption
    | with_reducible first | apply State.hostBack_inv | apply State.hostFail_inv | apply hf | apply State.ite_inv
    | split
    | with_reducible apply State.mk_inv
    | with_reducible rfl
    | with_reducible exact Nat.le_refl _

theorem State.hostAlways_inv {s : State} (h : s.From q) (f : State → State) (hf : ∀ t : State, t.From q → (f t).From q) :
    Keeps q (s.hostAlways f) := by
  refine Keeps.next ?_
  repeat' first
    | with_reducible intro _
    | with_reducible assumption
    | with_reducible first | apply State.hostBack_inv | apply hf | apply State.ite_inv
    | split
    | with_reducible apply State.mk_inv
    | with_reducible rfl
    | with_reducible exact Nat.le_refl _

theorem execIdent_inv {s : State} (h : s.From q) (e : ReadEnd) : Keeps q (execIdent e s) := by
  unfold execIdent
  repeat' first
    | with_reducible intro _
    | with_reducible assumption
    | with_reducible first | apply Keeps.next | apply Keeps.ite | apply State.ite_inv | apply State.hostAlways_inv | apply State.hostRead_inv
    | split
    | with_reducible apply State.mk_inv
    | with_reducible rfl
    | with_reducible exact Nat.le_refl _
    | (dsimp only; split)

theorem execStatus_inv {s : State} (h : s.From q) (e : ReadEnd) : Keeps q (execStatus e s) := by
  unfold execStatus
  repeat' first
    | with_reducible intro _
    | with_reducible assumption
    | with_reducible first | apply Keeps.next | apply Keeps.ite | apply State.ite_inv | apply State.hostAlways_inv | apply State.hostBack_inv | apply State.hostRead_inv
    | split
    | with_reducible apply State.mk_inv
    | with_reducible rfl
    | with_reducible exact Nat.le_refl _
    | (dsimp only; split)

theorem execSetPtr_inv {s : State} (h : s.From q) (v : Word) (e : WriteEnd) : Keeps q (execSetPtr v e s) := by
  unfold execSetPtr
  repeat' first
    | with_reducible intro _
    | with_reducible assumption
    | with_reducible first | apply Keeps.next | apply Keeps.ite | apply State.ite_inv | apply State.hostAlways_inv | apply State.hostErr_inv | apply State.hostFail_inv | apply State.hostResult_inv | apply State.hostWrite_inv | apply State.setReg_inv
    | split
    | with_reducible apply State.mk_inv
    | with_reducible rfl
    | with_reducible exact Nat.le_refl _
    | (dsimp only; split)

theorem State.ptrNext_inv {s : State} (h : s.From q)  : (State.ptrNext s).From q := by
  unfold State.ptrNext
  repeat' first
    | with_reducible intro _
    | with_reducible assumption
    | with_reducible first | apply State.ite_inv | apply State.setReg_inv
    | split
    | with_reducible apply State.mk_inv
    | with_reducible rfl
    | with_reducible exact Nat.le_refl _
    | (dsimp only; split)

theorem State.ptrRead_inv (n : Nat) {s : State} (h : s.From q) : (State.ptrRead n s).2.2.From q := by
  induction n generalizing s with
  | zero => exact h
  | succ n ih => exact ih (State.ptrNext_inv (State.busRead_inv h _ _))

theorem State.ptrWrite_inv (b : List (BitVec 8)) (n : Nat) {s : State} (h : s.From q) : (State.ptrWrite b n s).2.From q := by
  induction n generalizing b s with
  | zero => cases b <;> exact h
  | succ n ih => cases b <;> exact ih _ (State.ptrNext_inv (State.busWrite_inv h _ _ _))

theorem execReadBlk_inv {s : State} (h : s.From q) (n : Byte) (e : ReadEnd) : Keeps q (execReadBlk n e s) := by
  unfold execReadBlk
  repeat' first
    | with_reducible intro _
    | with_reducible assumption
    | with_reducible first | apply Keeps.next | apply Keeps.ite | apply State.ite_inv | apply State.fst_ite_inv | apply State.snd_ite_inv | apply State.hostAlways_inv | apply State.hostFail_inv | apply State.hostRead_inv | apply State.ptrRead_inv
    | split
    | with_reducible apply State.mk_inv
    | with_reducible rfl
    | with_reducible exact Nat.le_refl _
    | (dsimp only; split)

theorem execWriteBlk_inv {s : State} (h : s.From q) (n : Byte) (bytes : List Byte) (e : WriteEnd) : Keeps q (execWriteBlk n bytes e s) := by
  unfold execWriteBlk
  repeat' first
    | with_reducible intro _
    | with_reducible assumption
    | with_reducible first | apply Keeps.next | apply Keeps.ite | apply State.ite_inv | apply State.fst_ite_inv | apply State.snd_ite_inv | apply State.hostCmd_inv | apply State.hostErr_inv | apply State.hostFail_inv | apply State.hostResult_inv | apply State.hostWrite_inv | apply State.ptrWrite_inv
    | split
    | with_reducible apply State.mk_inv
    | with_reducible rfl
    | with_reducible exact Nat.le_refl _
    | (dsimp only; split)

theorem execClaim_inv {s : State} (h : s.From q) (e : ReadEnd) : Keeps q (execClaim e s) := by
  unfold execClaim
  repeat' first
    | with_reducible intro _
    | with_reducible assumption
    | with_reducible first | apply Keeps.next | apply Keeps.ite | apply State.ite_inv | apply State.fst_ite_inv | apply State.snd_ite_inv | apply State.hostCmd_inv | apply State.hostRead_inv | apply State.intcClaim_inv
    | split
    | with_reducible apply State.mk_inv
    | with_reducible rfl
    | with_reducible exact Nat.le_refl _
    | (dsimp only; split)

theorem execComplete_inv {s : State} (h : s.From q) (n : Byte) (e : WriteEnd) : Keeps q (execComplete n e s) := by
  unfold execComplete
  repeat' first
    | with_reducible intro _
    | with_reducible assumption
    | with_reducible first | apply Keeps.next | apply Keeps.ite | apply State.ite_inv | apply State.hostCmd_inv | apply State.hostResult_inv | apply State.hostWrite_inv | apply State.intcComplete_inv
    | split
    | with_reducible apply State.mk_inv
    | with_reducible rfl
    | with_reducible exact Nat.le_refl _
    | (dsimp only; split)

theorem execCqRead_inv {s : State} (h : s.From q) (e : ReadEnd) : Keeps q (execCqRead e s) := by
  refine State.hostAlways_inv h _ (fun t ht => ?_)
  refine State.hostRead_inv ht _ _ _ (State.ite_inv ?_ ht) _
  refine ht.of_le rfl rfl ?_ (Nat.le_refl _) (Nat.le_refl _) (Nat.le_refl _) (Nat.le_refl _) (Nat.le_refl _) (Nat.le_refl _)
    (Nat.le_refl _)
  simp only [List.length_drop]; omega

theorem execFaultLog_inv {s : State} (h : s.From q) (seq : BitVec 16) (e : ReadEnd) : Keeps q (execFaultLog seq e s) := by
  unfold execFaultLog
  repeat' first
    | with_reducible intro _
    | with_reducible assumption
    | with_reducible first | apply Keeps.next | apply Keeps.ite | apply State.ite_inv | apply State.hostCmd_inv | apply State.hostRead_inv
    | split
    | with_reducible apply State.mk_inv
    | with_reducible rfl
    | with_reducible exact Nat.le_refl _
    | (dsimp only; split)

theorem execChallenge_inv {s : State} (h : s.From q) (nonce : List Byte) (e : ReadEnd) : Keeps q (execChallenge nonce e s) := by
  unfold execChallenge
  repeat' first
    | with_reducible intro _
    | with_reducible assumption
    | with_reducible first | apply Keeps.next | apply Keeps.ite | apply State.ite_inv | apply State.challenge_inv | apply State.hostCmd_inv | apply State.hostRead_inv
    | split
    | with_reducible apply State.mk_inv
    | with_reducible rfl
    | with_reducible exact Nat.le_refl _
    | (dsimp only; split)

theorem execResponse_inv {s : State} (h : s.From q) (n : Byte) (bytes : List Byte) (e : WriteEnd) : Keeps q (execResponse n bytes e s) := by
  unfold execResponse
  repeat' first
    | with_reducible intro _
    | with_reducible assumption
    | with_reducible first | apply Keeps.next | apply Keeps.ite | apply State.ite_inv | apply State.hostCmd_inv | apply State.hostFail_inv | apply State.hostWrite_inv | apply State.response_inv
    | split
    | with_reducible apply State.mk_inv
    | with_reducible rfl
    | with_reducible exact Nat.le_refl _
    | (dsimp only; split)

theorem execUnlockPw_inv {s : State} (h : s.From q) (n : Byte) (bytes : List Byte) (e : WriteEnd) : Keeps q (execUnlockPw n bytes e s) := by
  unfold execUnlockPw
  repeat' first
    | with_reducible intro _
    | with_reducible assumption
    | with_reducible first | apply Keeps.next | apply Keeps.ite | apply State.ite_inv | apply State.hostCmd_inv | apply State.hostFail_inv | apply State.hostWrite_inv | apply State.unlockPw_inv
    | split
    | with_reducible apply State.mk_inv
    | with_reducible rfl
    | with_reducible exact Nat.le_refl _
    | (dsimp only; split)

theorem execWarmReset_inv {s : State} (h : s.From q) (mode : List Byte) (e : WriteEnd) : Keeps q (execWarmReset mode e s) := by
  unfold execWarmReset
  repeat' first
    | with_reducible intro _
    | with_reducible assumption
    | with_reducible first | apply Keeps.next | apply Keeps.ite | apply State.ite_inv | apply State.hostCmd_inv | apply State.hostErr_inv | apply State.hostResult_inv | apply State.hostWrite_inv | apply State.warmTrigger_inv
    | split
    | with_reducible apply State.mk_inv
    | with_reducible rfl
    | with_reducible exact Nat.le_refl _
    | (dsimp only; split)

theorem execUnknownCmd_inv {s : State} (h : s.From q)  : Keeps q (execUnknownCmd s) := by
  unfold execUnknownCmd
  repeat' first
    | with_reducible intro _
    | with_reducible assumption
    | with_reducible first | apply Keeps.next | apply Keeps.ite | apply State.ite_inv | apply State.hostAlways_inv | apply State.hostFail_inv
    | split
    | with_reducible apply State.mk_inv
    | with_reducible rfl
    | with_reducible exact Nat.le_refl _
    | (dsimp only; split)

theorem execHbusStartException_inv {s : State} (h : s.From q)  : Keeps q (execHbusStartException s) := by
  unfold execHbusStartException
  repeat' first
    | with_reducible intro _
    | with_reducible assumption
    | with_reducible first | apply Keeps.next | apply Keeps.ite | apply State.ite_inv | apply State.hostAlways_inv | apply State.hostFail_inv
    | split
    | with_reducible apply State.mk_inv
    | with_reducible rfl
    | with_reducible exact Nat.le_refl _
    | (dsimp only; split)

theorem execHbusTimeout_inv {s : State} (h : s.From q)  : Keeps q (execHbusTimeout s) := by
  unfold execHbusTimeout
  repeat' first
    | with_reducible intro _
    | with_reducible assumption
    | with_reducible first | apply Keeps.next | apply Keeps.ite | apply State.ite_inv | apply State.hostAlways_inv | apply State.hostFail_inv
    | split
    | with_reducible apply State.mk_inv
    | with_reducible rfl
    | with_reducible exact Nat.le_refl _
    | (dsimp only; split)

theorem execAddrChanged_inv {s : State} (h : s.From q)  : Keeps q (execAddrChanged s) := by
  unfold execAddrChanged
  repeat' first
    | with_reducible intro _
    | with_reducible assumption
    | with_reducible first | apply Keeps.next | apply Keeps.ite | apply State.ite_inv | apply State.ev_inv | apply State.wr_inv
    | split
    | with_reducible apply State.mk_inv
    | with_reducible rfl
    | with_reducible exact Nat.le_refl _
    | (dsimp only; split)

theorem execAlertResponse_inv {s : State} (h : s.From q) (line : Byte) : Keeps q (execAlertResponse line s) := by
  unfold execAlertResponse
  repeat' first
    | with_reducible intro _
    | with_reducible assumption
    | with_reducible first | apply Keeps.next | apply Keeps.ite | apply State.ite_inv | apply State.bump_inv | apply State.ev_inv | apply State.hostBack_inv
    | split
    | with_reducible apply State.mk_inv
    | with_reducible rfl
    | with_reducible exact Nat.le_refl _
    | (dsimp only; split)

theorem execAlertReassert_inv {s : State} (h : s.From q)  : Keeps q (execAlertReassert s) := by
  unfold execAlertReassert
  repeat' first
    | with_reducible intro _
    | with_reducible assumption
    | with_reducible first | apply Keeps.next | apply Keeps.ite | apply State.ite_inv
    | split
    | with_reducible apply State.mk_inv
    | with_reducible rfl
    | with_reducible exact Nat.le_refl _
    | (dsimp only; split)

theorem State.nvmGo_inv {s : State} (h : s.From q) (op : Nat) (eeprom fast : Bool) (len : BitVec 9) : (State.nvmGo s op eeprom fast len).From q := by
  unfold State.nvmGo
  repeat' first
    | with_reducible intro _
    | with_reducible assumption
    | with_reducible first | apply State.ite_inv | apply State.nvmCtrlWrite_inv
    | split
    | with_reducible apply State.mk_inv
    | with_reducible rfl
    | with_reducible exact Nat.le_refl _
    | (dsimp only; split)

theorem execNvmRead_inv {s : State} (h : s.From q) (eeprom fast : Bool) (len : BitVec 9) : Keeps q (execNvmRead eeprom fast len s) := by
  unfold execNvmRead
  repeat' first
    | with_reducible intro _
    | with_reducible assumption
    | with_reducible first | apply Keeps.next | apply Keeps.ite | apply State.ite_inv | apply State.nvmGo_inv
    | split
    | with_reducible apply State.mk_inv
    | with_reducible rfl
    | with_reducible exact Nat.le_refl _
    | (dsimp only; split)

theorem execNvmProgram_inv {s : State} (h : s.From q) (eeprom fast : Bool) (len : BitVec 9) : Keeps q (execNvmProgram eeprom fast len s) := by
  unfold execNvmProgram
  repeat' first
    | with_reducible intro _
    | with_reducible assumption
    | with_reducible first | apply Keeps.next | apply Keeps.ite | apply State.ite_inv | apply State.nvmGo_inv
    | split
    | with_reducible apply State.mk_inv
    | with_reducible rfl
    | with_reducible exact Nat.le_refl _
    | (dsimp only; split)

theorem execNvmErase_inv {s : State} (h : s.From q) (eeprom fast : Bool) (len : BitVec 9) : Keeps q (execNvmErase eeprom fast len s) := by
  unfold execNvmErase
  repeat' first
    | with_reducible intro _
    | with_reducible assumption
    | with_reducible first | apply Keeps.next | apply Keeps.ite | apply State.ite_inv | apply State.nvmGo_inv
    | split
    | with_reducible apply State.mk_inv
    | with_reducible rfl
    | with_reducible exact Nat.le_refl _
    | (dsimp only; split)

theorem State.nvmData_inv {s : State} (h : s.From q) (n : Nat) (data : List (BitVec 8)) : (State.nvmData s n data).From q := by
  unfold State.nvmData
  repeat' first
    | with_reducible intro _
    | with_reducible assumption
    | with_reducible first | apply State.ite_inv | apply State.forAll_inv | apply State.setReg_inv
    | split
    | with_reducible apply State.mk_inv
    | with_reducible rfl
    | with_reducible exact Nat.le_refl _
    | (dsimp only; split)

theorem execNvmOpDone_inv {s : State} (h : s.From q) (err : Byte) (data : List Byte) : Keeps q (execNvmOpDone err data s) := by
  unfold execNvmOpDone
  repeat' first
    | with_reducible intro _
    | with_reducible assumption
    | with_reducible first | apply Keeps.next | apply Keeps.ite | apply State.ite_inv | apply State.bump_inv | apply State.ev_inv | apply State.nvmData_inv | apply State.wr_inv
    | split
    | with_reducible apply State.mk_inv
    | with_reducible rfl
    | with_reducible exact Nat.le_refl _
    | (dsimp only; split)

end Sys2Proof.Machine
end

