-- ==== Sys2Proof/Laws/InvBiscuits.lean ====
section
/-!
SUPPORT. Laws/InvBiscuits.lean: the operations of Machine/Biscuits.lean keep the invariant of Safety.lean.
-/

namespace Sys2Proof.Machine

-- one theorem after the other: the package as one text then needs fewer threads
set_option Elab.async false

open Sys2Proof

variable {q : State}

theorem State.setBiscuitSlot_inv {s : State} (h : s.From q) (slot : Nat) (b : List (BitVec 8)) : (State.setBiscuitSlot s slot b).From q := by
  unfold State.setBiscuitSlot
  repeat' first
    | with_reducible intro _
    | with_reducible assumption
    | with_reducible first | apply State.ite_inv | apply State.slot_inv
    | split
    | with_reducible apply State.mk_inv
    | with_reducible rfl
    | with_reducible exact Nat.le_refl _
    | (dsimp only; split)

theorem State.biscuitBad_inv {s : State} (h : s.From q)  : (State.biscuitBad s).From q := by
  unfold State.biscuitBad
  repeat' first
    | with_reducible intro _
    | with_reducible assumption
    | with_reducible first | apply State.ite_inv | apply State.bump_inv
    | split
    | with_reducible apply State.mk_inv
    | with_reducible rfl
    | with_reducible exact Nat.le_refl _
    | (dsimp only; split)

theorem State.biscuitLate_inv {s : State} (h : s.From q)  : (State.biscuitLate s).From q := by
  unfold State.biscuitLate
  repeat' first
    | with_reducible intro _
    | with_reducible assumption
    | with_reducible first | apply State.ite_inv | apply State.bump_inv | apply State.ev_inv
    | split
    | with_reducible apply State.mk_inv
    | with_reducible rfl
    | with_reducible exact Nat.le_refl _
    | (dsimp only; split)

theorem State.startBiscuit_inv {s : State} (h : s.From q) (f : Nat) : (State.startBiscuit s f).From q := by
  unfold State.startBiscuit
  repeat' first
    | with_reducible intro _
    | with_reducible assumption
    | with_reducible first | apply State.ite_inv | apply State.biscuitLate_inv | apply State.ev_inv | apply State.portTrigger_inv
    | split
    | with_reducible apply State.mk_inv
    | with_reducible rfl
    | with_reducible exact Nat.le_refl _
    | (dsimp only; split)

theorem State.syncBiscuit_inv {s : State} (h : s.From q) (j : Nat) : (State.syncBiscuit s j).From q := by
  unfold State.syncBiscuit
  repeat' first
    | with_reducible intro _
    | with_reducible assumption
    | with_reducible first | apply State.ite_inv | apply State.biscuitLate_inv | apply State.decimRequest_inv | apply State.ev_inv
    | split
    | with_reducible apply State.mk_inv
    | with_reducible rfl
    | with_reducible exact Nat.le_refl _
    | (dsimp only; split)

theorem execStartBiscuit_inv {s : State} (h : s.From q) (frame : Word) : Keeps q (execStartBiscuit frame s) := by
  unfold execStartBiscuit
  repeat' first
    | with_reducible intro _
    | with_reducible assumption
    | with_reducible first | apply Keeps.next | apply Keeps.ite | apply State.ite_inv | apply State.startBiscuit_inv
    | split
    | with_reducible apply State.mk_inv
    | with_reducible rfl
    | with_reducible exact Nat.le_refl _
    | (dsimp only; split)

theorem execSyncBiscuit_inv {s : State} (h : s.From q) (j : Word) : Keeps q (execSyncBiscuit j s) := by
  unfold execSyncBiscuit
  repeat' first
    | with_reducible intro _
    | with_reducible assumption
    | with_reducible first | apply Keeps.next | apply Keeps.ite | apply State.ite_inv | apply State.syncBiscuit_inv
    | split
    | with_reducible apply State.mk_inv
    | with_reducible rfl
    | with_reducible exact Nat.le_refl _
    | (dsimp only; split)

theorem State.regRsp_inv {s : State} (h : s.From q) (src addr : Nat) (v : BitVec 32) (status : Nat) : (State.regRsp s src addr v status).From q := by
  unfold State.regRsp
  repeat' first
    | with_reducible intro _
    | with_reducible assumption
    | with_reducible first | apply State.ite_inv | apply State.ringQueue_inv
    | split
    | with_reducible apply State.mk_inv
    | with_reducible rfl
    | with_reducible exact Nat.le_refl _
    | (dsimp only; split)

theorem State.regWr_inv {s : State} (h : s.From q) (src addr : Nat) (v : BitVec 32) : (State.regWr s src addr v).From q := by
  unfold State.regWr
  repeat' first
    | with_reducible intro _
    | with_reducible assumption
    | with_reducible first | apply State.ite_inv | apply State.fst_ite_inv | apply State.snd_ite_inv | apply State.busWrite_inv | apply State.regRsp_inv
    | split
    | with_reducible apply State.mk_inv
    | with_reducible rfl
    | with_reducible exact Nat.le_refl _
    | (dsimp only; split)

theorem State.regRd_inv {s : State} (h : s.From q) (src addr : Nat) : (State.regRd s src addr).From q := by
  unfold State.regRd
  repeat' first
    | with_reducible intro _
    | with_reducible assumption
    | with_reducible first | apply State.ite_inv | apply State.fst_ite_inv | apply State.snd_ite_inv | apply State.busRead_inv | apply State.regRsp_inv
    | split
    | with_reducible apply State.mk_inv
    | with_reducible rfl
    | with_reducible exact Nat.le_refl _
    | (dsimp only; split)

theorem execRegWr_inv {s : State} (h : s.From q) (src : BitVec 16) (addr : Word) (v : Word) : Keeps q (execRegWr src addr v s) := by
  unfold execRegWr
  repeat' first
    | with_reducible intro _
    | with_reducible assumption
    | with_reducible first | apply Keeps.next | apply Keeps.ite | apply State.ite_inv | apply State.regWr_inv
    | split
    | with_reducible apply State.mk_inv
    | with_reducible rfl
    | with_reducible exact Nat.le_refl _
    | (dsimp only; split)

theorem execRegRd_inv {s : State} (h : s.From q) (src : BitVec 16) (addr : Word) : Keeps q (execRegRd src addr s) := by
  unfold execRegRd
  repeat' first
    | with_reducible intro _
    | with_reducible assumption
    | with_reducible first | apply Keeps.next | apply Keeps.ite | apply State.ite_inv | apply State.regRd_inv
    | split
    | with_reducible apply State.mk_inv
    | with_reducible rfl
    | with_reducible exact Nat.le_refl _
    | (dsimp only; split)

theorem State.biscuitTake_inv {s : State} (h : s.From q) (b : List (BitVec 8)) : (s.biscuitTake b).From q := by
  unfold State.biscuitTake
  split
  · exact State.ev_inv (State.bump_inv h _) _ _
  · refine (State.ev_inv h A.TRING_EVENT 12).imp fun ⟨d, k⟩ => ?_
    refine ⟨d, k.1, k.2, k.3, ?_, k.5, k.6, k.7, k.8⟩
    simp only [List.length_append, List.length_cons, List.length_nil]; omega

theorem execRegRsp_inv {s : State} (h : s.From q) (bytes : List Byte) : Keeps q (execRegRsp bytes s) := by
  unfold execRegRsp
  repeat' first
    | with_reducible intro _
    | with_reducible assumption
    | with_reducible first | apply Keeps.next | apply Keeps.ite | apply State.ite_inv | apply State.biscuitTake_inv
    | split
    | with_reducible apply State.mk_inv
    | with_reducible rfl
    | with_reducible exact Nat.le_refl _
    | (dsimp only; split)

theorem execHostBiscuit_inv {s : State} (h : s.From q) (bytes : List Byte) : Keeps q (execHostBiscuit bytes s) := by
  unfold execHostBiscuit
  repeat' first
    | with_reducible intro _
    | with_reducible assumption
    | with_reducible first | apply Keeps.next | apply Keeps.ite | apply State.ite_inv | apply State.biscuitTake_inv
    | split
    | with_reducible apply State.mk_inv
    | with_reducible rfl
    | with_reducible exact Nat.le_refl _
    | (dsimp only; split)

theorem State.policyBiscuit_inv {s : State} (h : s.From q) (b : List (BitVec 8)) : (State.policyBiscuit s b).From q := by
  unfold State.policyBiscuit
  repeat' first
    | with_reducible intro _
    | with_reducible assumption
    | with_reducible first | apply State.ite_inv
    | split
    | with_reducible apply State.mk_inv
    | with_reducible rfl
    | with_reducible exact Nat.le_refl _
    | (dsimp only; split)

theorem execPolicyBiscuit_inv {s : State} (h : s.From q) (bytes : List Byte) : Keeps q (execPolicyBiscuit bytes s) := by
  unfold execPolicyBiscuit
  repeat' first
    | with_reducible intro _
    | with_reducible assumption
    | with_reducible first | apply Keeps.next | apply Keeps.ite | apply State.ite_inv | apply State.policyBiscuit_inv
    | split
    | with_reducible apply State.mk_inv
    | with_reducible rfl
    | with_reducible exact Nat.le_refl _
    | (dsimp only; split)

theorem State.biscuitConsume_inv {s : State} (h : s.From q) (b : List (BitVec 8)) : (State.biscuitConsume s b).From q := by
  unfold State.biscuitConsume
  repeat' first
    | with_reducible intro _
    | with_reducible assumption
    | with_reducible first | apply State.ite_inv | apply State.biscuitBad_inv | apply State.biscuitTake_inv | apply State.faultBiscuit_inv | apply State.policyBiscuit_inv | apply State.regRd_inv | apply State.regWr_inv | apply State.startBiscuit_inv | apply State.syncBiscuit_inv
    | split
    | with_reducible apply State.mk_inv
    | with_reducible rfl
    | with_reducible exact Nat.le_refl _
    | (dsimp only; split)

theorem State.biscuitHandle_inv {s : State} (h : s.From q) (b : List (BitVec 8)) : (State.biscuitHandle s b).From q := by
  unfold State.biscuitHandle
  repeat' first
    | with_reducible intro _
    | with_reducible assumption
    | with_reducible first | apply State.ite_inv | apply State.biscuitConsume_inv
    | split
    | with_reducible apply State.mk_inv
    | with_reducible rfl
    | with_reducible exact Nat.le_refl _
    | (dsimp only; split)

theorem execBiscuitRx_inv {s : State} (h : s.From q) (slot : Fin 8) (bytes : List Byte) : Keeps q (execBiscuitRx slot bytes s) := by
  unfold execBiscuitRx
  repeat' first
    | with_reducible intro _
    | with_reducible assumption
    | with_reducible first | apply Keeps.next | apply Keeps.ite | apply State.ite_inv | apply State.biscuitBad_inv | apply State.biscuitHandle_inv | apply State.bump_inv | apply State.ev_inv | apply State.setBiscuitSlot_inv | apply State.slot_inv
    | split
    | with_reducible apply State.mk_inv
    | with_reducible rfl
    | with_reducible exact Nat.le_refl _
    | (dsimp only; split)

theorem takeBiscuit_length (p : Bool × List (BitVec 8) → Bool) : ∀ (l : List (Bool × List (BitVec 8))) {b rest},
    takeBiscuit p l = some (b, rest) → rest.length ≤ l.length
  | [], _, _, h => by simp [takeBiscuit] at h
  | x :: l, b, rest, h => by
    unfold takeBiscuit at h
    split at h
    · simp only [Option.some.injEq, Prod.mk.injEq] at h; rw [← h.2]; exact Nat.le_succ _
    · split at h
      · rename_i c r hr
        simp only [Option.some.injEq, Prod.mk.injEq] at h
        have := takeBiscuit_length p l hr
        rw [← h.2]; exact Nat.succ_le_succ this
      · exact absurd h (by simp)

theorem execBiscuitInsert_inv {s : State} (h : s.From q) (slot : Fin 8) : Keeps q (execBiscuitInsert slot s) := by
  refine Keeps.next ?_
  split
  · exact h
  · split
    · exact h
    · rename_i b rest hb
      refine State.From.of_le (State.ev_inv (State.setBiscuitSlot_inv h slot.val b) A.TRING_EVENT 16) rfl rfl (Nat.le_refl _)
        (Nat.le_refl _) ?_ (Nat.le_refl _) (Nat.le_refl _) (Nat.le_refl _) (Nat.le_refl _) (Nat.le_refl _)
      exact takeBiscuit_length _ _ hb

theorem execSyncPinEdge_inv {s : State} (h : s.From q)  : Keeps q (execSyncPinEdge s) := by
  unfold execSyncPinEdge
  repeat' first
    | with_reducible intro _
    | with_reducible assumption
    | with_reducible first | apply Keeps.next | apply Keeps.ite | apply State.ite_inv | apply State.decimRequest_inv | apply State.localTrigger_inv | apply State.ringQueue_inv | apply State.traceSync_inv
    | split
    | with_reducible apply State.mk_inv
    | with_reducible rfl
    | with_reducible exact Nat.le_refl _
    | (dsimp only; split)

end Sys2Proof.Machine
end

