-- ==== Sys2Proof/Laws/InvBootCheck.lean ====
section
/-!
SUPPORT. Laws/InvBootCheck.lean: the operations of Machine/BootCheck.lean keep the invariant of Safety.lean.
-/

namespace Sys2Proof.Machine

-- one theorem after the other: the package as one text then needs fewer threads
set_option Elab.async false

open Sys2Proof

variable {q : State}

theorem State.applyRwb_inv {s : State} (h : s.From q) (p : Nat × BitVec 32) : (State.applyRwb s p).From q := by
  unfold State.applyRwb
  repeat' first
    | with_reducible intro _
    | with_reducible assumption
    | with_reducible first | apply State.ite_inv | apply State.fst_ite_inv | apply State.snd_ite_inv | apply State.setReg_inv
    | split
    | with_reducible apply State.mk_inv
    | with_reducible rfl
    | with_reducible exact Nat.le_refl _
    | (dsimp only; split)

theorem State.raiseDeadtime_inv {s : State} (h : s.From q)  : (State.raiseDeadtime s).From q := by
  unfold State.raiseDeadtime
  repeat' first
    | with_reducible intro _
    | with_reducible assumption
    | with_reducible first | apply State.ite_inv | apply State.forAll_inv | apply State.wr_inv
    | split
    | with_reducible apply State.mk_inv
    | with_reducible rfl
    | with_reducible exact Nat.le_refl _
    | (dsimp only; split)

theorem State.withBootcfg_inv {s : State} (h : s.From q) (b : List (BitVec 8)) : (State.withBootcfg s b).From q := by
  unfold State.withBootcfg
  repeat' first
    | with_reducible intro _
    | with_reducible assumption
    | with_reducible first | apply State.ite_inv | apply State.applyRwb_inv | apply State.forEach_inv | apply State.raiseDeadtime_inv
    | split
    | with_reducible apply State.mk_inv
    | with_reducible rfl
    | with_reducible exact Nat.le_refl _
    | (dsimp only; split)

theorem State.atCfgFa_inv {s : State} (h : s.From q)  : (State.atCfgFa s).From q := by
  unfold State.atCfgFa
  repeat' first
    | with_reducible intro _
    | with_reducible assumption
    | with_reducible first | apply State.ite_inv
    | split
    | with_reducible apply State.mk_inv
    | with_reducible rfl
    | with_reducible exact Nat.le_refl _
    | (dsimp only; split)

theorem State.withPorts_inv {s : State} (h : s.From q) (b : List (BitVec 8)) : (State.withPorts s b).From q := by
  unfold State.withPorts
  repeat' first
    | with_reducible intro _
    | with_reducible assumption
    | with_reducible first | apply State.ite_inv | apply State.atCfgFa_inv | apply State.forAll_inv | apply State.setReg_inv
    | split
    | with_reducible apply State.mk_inv
    | with_reducible rfl
    | with_reducible exact Nat.le_refl _
    | (dsimp only; split)

end Sys2Proof.Machine
end

