-- ==== Sys2Proof/Laws/InvBoot.lean ====
section
/-!
SUPPORT. Laws/InvBoot.lean: the operations of Machine/Boot.lean keep the invariant of Safety.lean.
-/

namespace Sys2Proof.Machine

-- one theorem after the other: the package as one text then needs fewer threads
set_option Elab.async false

open Sys2Proof

variable {q : State}

theorem State.bt_inv {s : State} (h : s.From q) (f : BootSt → BootSt)
    (hf : ∀ b : BootSt, (f b).waiting.length + (f b).job.toList.length ≤ b.waiting.length + b.job.toList.length) :
    (s.bt f).From q :=
  h.of_le rfl rfl (Nat.le_refl _) (hf _) (Nat.le_refl _) (Nat.le_refl _) (Nat.le_refl _) (Nat.le_refl _) (Nat.le_refl _)
    (Nat.le_refl _)

theorem State.recordAttempt_inv {s : State} (h : s.From q) (f : BootFail) : (State.recordAttempt s f).From q := by
  unfold State.recordAttempt
  repeat' first
    | with_reducible intro _
    | with_reducible assumption
    | with_reducible first | apply State.ite_inv | apply State.bt_inv
    | split
    | with_reducible apply State.mk_inv
    | with_reducible rfl
    | with_reducible exact Nat.le_refl _
    | (dsimp only; split)

theorem State.adopt_inv {s : State} (h : s.From q) (c : BootChoice) : (State.adopt s c).From q := by
  unfold State.adopt
  repeat' first
    | with_reducible intro _
    | with_reducible assumption
    | with_reducible first | apply State.ite_inv | apply State.bt_inv
    | split
    | with_reducible apply State.mk_inv
    | with_reducible rfl
    | with_reducible exact Nat.le_refl _
    | (dsimp only; split)

theorem State.planTo_inv {s : State} (h : s.From q) (rest : List (Nat × Nat)) : (State.planTo s rest).From q := by
  unfold State.planTo
  repeat' first
    | with_reducible intro _
    | with_reducible assumption
    | with_reducible first | apply State.ite_inv | apply State.fst_ite_inv | apply State.adopt_inv | apply State.bt_inv
    | split
    | with_reducible apply State.mk_inv
    | with_reducible rfl
    | with_reducible exact Nat.le_refl _
    | (dsimp only; split)

theorem State.copyFail_inv {s : State} (h : s.From q) (f : BootFail) : (State.copyFail s f).From q := by
  unfold State.copyFail
  repeat' first
    | with_reducible intro _
    | with_reducible assumption
    | with_reducible first | apply State.ite_inv | apply State.bt_inv | apply State.planTo_inv | apply State.recordAttempt_inv
    | split
    | with_reducible apply State.mk_inv
    | with_reducible rfl
    | with_reducible exact Nat.le_refl _
    | exact Nat.le_refl _
    | (dsimp only; split)

theorem State.sourceFail_inv {s : State} (h : s.From q) (err : Nat) : (State.sourceFail s err).From q := by
  unfold State.sourceFail
  repeat' first
    | with_reducible intro _
    | with_reducible assumption
    | with_reducible first | apply State.ite_inv | apply State.fst_ite_inv | apply State.bt_inv | apply State.planTo_inv | apply State.recordAttempt_inv
    | split
    | with_reducible apply State.mk_inv
    | with_reducible rfl
    | with_reducible exact Nat.le_refl _
    | exact Nat.le_refl _
    | (dsimp only; split)

theorem State.bootFault_inv {s : State} (h : s.From q) (err : Nat) : (State.bootFault s err).From q := by
  unfold State.bootFault
  repeat' first
    | with_reducible intro _
    | with_reducible assumption
    | with_reducible first | apply State.ite_inv | apply State.raise_inv
    | split
    | with_reducible apply State.mk_inv
    | with_reducible rfl
    | with_reducible exact Nat.le_refl _
    | (dsimp only; split)

theorem State.refusal_inv {s : State} (h : s.From q) (a : BootAttempt) : (State.refusal s a).From q := by
  unfold State.refusal
  repeat' first
    | with_reducible intro _
    | with_reducible assumption
    | with_reducible first | apply State.ite_inv | apply State.dryfitEntry_inv
    | split
    | with_reducible apply State.mk_inv
    | with_reducible rfl
    | with_reducible exact Nat.le_refl _
    | (dsimp only; split)

theorem State.lateFail_inv {s : State} (h : s.From q) (f : BootFail) : (State.lateFail s f).From q := by
  unfold State.lateFail
  repeat' first
    | with_reducible intro _
    | with_reducible assumption
    | with_reducible first | apply State.ite_inv | apply State.bootFault_inv | apply State.bt_inv | apply State.forEach_inv | apply State.refusal_inv
    | split
    | with_reducible apply State.mk_inv
    | with_reducible rfl
    | with_reducible exact Nat.le_refl _
    | (dsimp only; split)

theorem State.bootSourceFail_inv {s : State} (h : s.From q) (err : Nat) : (State.bootSourceFail s err).From q := by
  unfold State.bootSourceFail
  repeat' first
    | with_reducible intro _
    | with_reducible assumption
    | with_reducible first | apply State.ite_inv | apply State.lateFail_inv | apply State.sourceFail_inv
    | split
    | with_reducible apply State.mk_inv
    | with_reducible rfl
    | with_reducible exact Nat.le_refl _
    | (dsimp only; split)

theorem execXspiDiscoveryDone_inv {s : State} (h : s.From q) (octal : Bool) (size : Nat) : Keeps q (execXspiDiscoveryDone octal size s) := by
  unfold execXspiDiscoveryDone
  repeat' first
    | with_reducible intro _
    | with_reducible assumption
    | with_reducible first | apply Keeps.next | apply Keeps.ite | apply State.ite_inv | apply State.bt_inv
    | split
    | with_reducible apply State.mk_inv
    | with_reducible rfl
    | with_reducible exact Nat.le_refl _
    | (dsimp only; split)

theorem State.nvmFail_inv {s : State} (h : s.From q) (err : Nat) : (State.nvmFail s err).From q := by
  unfold State.nvmFail
  repeat' first
    | with_reducible intro _
    | with_reducible assumption
    | with_reducible first | apply State.ite_inv | apply State.bump_inv | apply State.ev_inv | apply State.wr_inv
    | split
    | with_reducible apply State.mk_inv
    | with_reducible rfl
    | with_reducible exact Nat.le_refl _
    | (dsimp only; split)

theorem execXspiDiscoveryTimeout_inv {s : State} (h : s.From q)  : Keeps q (execXspiDiscoveryTimeout s) := by
  unfold execXspiDiscoveryTimeout
  repeat' first
    | with_reducible intro _
    | with_reducible assumption
    | with_reducible first | apply Keeps.next | apply Keeps.ite | apply State.ite_inv | apply State.nvmFail_inv | apply State.sourceFail_inv
    | split
    | with_reducible apply State.mk_inv
    | with_reducible rfl
    | with_reducible exact Nat.le_refl _
    | (dsimp only; split)

theorem State.nvmSourceFail_inv {s : State} (h : s.From q) (err opErr : Nat) : (State.nvmSourceFail s err opErr).From q := by
  unfold State.nvmSourceFail
  repeat' first
    | with_reducible intro _
    | with_reducible assumption
    | with_reducible first | apply State.ite_inv | apply State.bootSourceFail_inv | apply State.bt_inv | apply State.nvmFail_inv
    | split
    | with_reducible apply State.mk_inv
    | with_reducible rfl
    | with_reducible exact Nat.le_refl _
    | (dsimp only; split)

theorem execNvmArbitrationLost_inv {s : State} (h : s.From q)  : Keeps q (execNvmArbitrationLost s) := by
  unfold execNvmArbitrationLost
  repeat' first
    | with_reducible intro _
    | with_reducible assumption
    | with_reducible first | apply Keeps.next | apply Keeps.ite | apply State.ite_inv | apply State.bt_inv | apply State.ev_inv
    | split
    | with_reducible apply State.mk_inv
    | with_reducible rfl
    | with_reducible exact Nat.le_refl _
    | (dsimp only; split)

theorem execNvmArbitrationRetry_inv {s : State} (h : s.From q)  : Keeps q (execNvmArbitrationRetry s) := by
  unfold execNvmArbitrationRetry
  repeat' first
    | with_reducible intro _
    | with_reducible assumption
    | with_reducible first | apply Keeps.next | apply Keeps.ite | apply State.ite_inv | apply State.bt_inv
    | split
    | with_reducible apply State.mk_inv
    | with_reducible rfl
    | with_reducible exact Nat.le_refl _
    | (dsimp only; split)

theorem execNvmArbitrationTimeout_inv {s : State} (h : s.From q)  : Keeps q (execNvmArbitrationTimeout s) := by
  unfold execNvmArbitrationTimeout
  repeat' first
    | with_reducible intro _
    | with_reducible assumption
    | with_reducible first | apply Keeps.next | apply Keeps.ite | apply State.ite_inv | apply State.nvmSourceFail_inv
    | split
    | with_reducible apply State.mk_inv
    | with_reducible rfl
    | with_reducible exact Nat.le_refl _
    | (dsimp only; split)

theorem State.recovery_inv {s : State} (h : s.From q) (freed : Bool) : (State.recovery s freed).From q := by
  unfold State.recovery
  repeat' first
    | with_reducible intro _
    | with_reducible assumption
    | with_reducible first | apply State.ite_inv | apply State.bt_inv | apply State.nvmSourceFail_inv
    | split
    | with_reducible apply State.mk_inv
    | with_reducible rfl
    | with_reducible exact Nat.le_refl _
    | (dsimp only; split)

theorem execStuckBusDetected_inv {s : State} (h : s.From q) (freed : Bool) : Keeps q (execStuckBusDetected freed s) := by
  unfold execStuckBusDetected
  repeat' first
    | with_reducible intro _
    | with_reducible assumption
    | with_reducible first | apply Keeps.next | apply Keeps.ite | apply State.ite_inv | apply State.bt_inv | apply State.ev_inv | apply State.recovery_inv
    | split
    | with_reducible apply State.mk_inv
    | with_reducible rfl
    | with_reducible exact Nat.le_refl _
    | (dsimp only; split)

theorem execStuckBusRetry_inv {s : State} (h : s.From q) (freed : Bool) : Keeps q (execStuckBusRetry freed s) := by
  unfold execStuckBusRetry
  repeat' first
    | with_reducible intro _
    | with_reducible assumption
    | with_reducible first | apply Keeps.next | apply Keeps.ite | apply State.ite_inv | apply State.recovery_inv
    | split
    | with_reducible apply State.mk_inv
    | with_reducible rfl
    | with_reducible exact Nat.le_refl _
    | (dsimp only; split)

theorem execEepromNack_inv {s : State} (h : s.From q)  : Keeps q (execEepromNack s) := by
  unfold execEepromNack
  repeat' first
    | with_reducible intro _
    | with_reducible assumption
    | with_reducible first | apply Keeps.next | apply Keeps.ite | apply State.ite_inv | apply State.bt_inv
    | split
    | with_reducible apply State.mk_inv
    | with_reducible rfl
    | with_reducible exact Nat.le_refl _
    | (dsimp only; split)

theorem execEepromNackRetry_inv {s : State} (h : s.From q)  : Keeps q (execEepromNackRetry s) := by
  unfold execEepromNackRetry
  repeat' first
    | with_reducible intro _
    | with_reducible assumption
    | with_reducible first | apply Keeps.next | apply Keeps.ite | apply State.ite_inv | apply State.bt_inv | apply State.copyFail_inv | apply State.lateFail_inv | apply State.nvmFail_inv | apply State.sourceFail_inv
    | split
    | with_reducible apply State.mk_inv
    | with_reducible rfl
    | with_reducible exact Nat.le_refl _
    | (dsimp only; split)

theorem execLocatorRead_inv {s : State} (h : s.From q) (bytes : List Byte) : Keeps q (execLocatorRead bytes s) := by
  unfold execLocatorRead
  repeat' first
    | with_reducible intro _
    | with_reducible assumption
    | with_reducible first | apply Keeps.next | apply Keeps.ite | apply State.ite_inv | apply State.fst_ite_inv | apply State.snd_ite_inv | apply State.bt_inv | apply State.sourceFail_inv
    | split
    | with_reducible apply State.mk_inv
    | with_reducible rfl
    | with_reducible exact Nat.le_refl _
    | (dsimp only; split)

theorem execImageHeaderChecked_inv {s : State} (h : s.From q) (header directory signature : List Byte) (sections : List (Nat × Nat × List Byte)) : Keeps q (execImageHeaderChecked header directory signature sections s) := by
  unfold execImageHeaderChecked
  repeat' first
    | with_reducible intro _
    | with_reducible assumption
    | with_reducible first | apply Keeps.next | apply Keeps.ite | apply State.ite_inv | apply State.fst_ite_inv | apply State.snd_ite_inv | apply State.adopt_inv | apply State.bt_inv | apply State.copyFail_inv | apply State.planTo_inv | apply State.recordAttempt_inv
    | split
    | with_reducible apply State.mk_inv
    | with_reducible rfl
    | with_reducible exact Nat.le_refl _
    | (dsimp only; split)

theorem State.romWrite_inv {s : State} (h : s.From q) (p : Nat × BitVec 32) : (State.romWrite s p).From q := by
  unfold State.romWrite
  repeat' first
    | with_reducible intro _
    | with_reducible assumption
    | with_reducible first | apply State.ite_inv | apply State.fst_ite_inv | apply State.snd_ite_inv | apply State.applyRwb_inv | apply State.plainWrite_inv
    | split
    | with_reducible apply State.mk_inv
    | with_reducible rfl
    | with_reducible exact Nat.le_refl _
    | (dsimp only; split)

theorem State.bootStart_inv {s : State} (h : s.From q) (stages : List SeqStage) : (State.bootStart s stages).From q := by
  unfold State.bootStart
  repeat' first
    | with_reducible intro _
    | with_reducible assumption
    | with_reducible first | apply State.ite_inv | apply State.decimStart_inv | apply State.spreadStat_inv | apply State.wr_inv
    | split
    | with_reducible apply State.mk_inv
    | with_reducible rfl
    | with_reducible exact Nat.le_refl _
    | (dsimp only; split)

theorem execBootcfgApplied_inv {s : State} (h : s.From q) (bytes : List Byte) : Keeps q (execBootcfgApplied bytes s) := by
  unfold execBootcfgApplied
  repeat' first
    | with_reducible intro _
    | with_reducible assumption
    | with_reducible first | apply Keeps.next | apply Keeps.ite | apply State.ite_inv | apply State.bootStart_inv | apply State.bt_inv | apply State.copyFail_inv | apply State.forEach_inv | apply State.raiseDeadtime_inv | apply State.romWrite_inv | apply State.wr_inv
    | split
    | with_reducible apply State.mk_inv
    | with_reducible rfl
    | with_reducible exact Nat.le_refl _
    | (dsimp only; split)

theorem execSectionReread_inv {s : State} (h : s.From q) (ty inst : Nat) (dram : Bool) : Keeps q (execSectionReread ty inst dram s) := by
  unfold execSectionReread
  repeat' first
    | with_reducible intro _
    | with_reducible assumption
    | with_reducible first | apply Keeps.next | apply Keeps.ite | apply State.ite_inv | apply State.fst_ite_inv | apply State.snd_ite_inv | apply State.bt_inv | apply State.copyFail_inv | apply State.lateFail_inv
    | split
    | with_reducible apply State.mk_inv
    | with_reducible rfl
    | with_reducible exact Nat.le_refl _
    | (dsimp only; split)

theorem State.takePolicy_inv {s : State} (h : s.From q) (ts : List PolTable) : (State.takePolicy s ts).From q := by
  unfold State.takePolicy
  repeat' first
    | with_reducible intro _
    | with_reducible assumption
    | with_reducible first | apply State.ite_inv | apply State.applyGuard_inv | apply State.applyOutMap_inv | apply State.bt_inv | apply State.diagCfg_inv | apply State.fcolCommit_inv | apply State.hkLoad_inv | apply State.polSourceLoad_inv | apply State.ruleLoad_inv | apply State.wr_inv
    | split
    | with_reducible apply State.mk_inv
    | with_reducible rfl
    | with_reducible exact Nat.le_refl _
    | (dsimp only; split)

theorem State.strapFaults_inv {s : State} (h : s.From q)  : (State.strapFaults s).From q := by
  unfold State.strapFaults
  repeat' first
    | with_reducible intro _
    | with_reducible assumption
    | with_reducible first | apply State.ite_inv | apply State.raise_inv | apply State.when_inv
    | split
    | with_reducible apply State.mk_inv
    | with_reducible rfl
    | with_reducible exact Nat.le_refl _
    | (dsimp only; split)

theorem State.stage1Fault_inv {s : State} (h : s.From q)  : (State.stage1Fault s).From q := by
  unfold State.stage1Fault
  repeat' first
    | with_reducible intro _
    | with_reducible assumption
    | with_reducible first | apply State.ite_inv | apply State.raise_inv | apply State.when_inv
    | split
    | with_reducible apply State.mk_inv
    | with_reducible rfl
    | with_reducible exact Nat.le_refl _
    | (dsimp only; split)

theorem State.unknownTables_inv {s : State} (h : s.From q) (ts : List PolTable) : (State.unknownTables s ts).From q := by
  unfold State.unknownTables
  repeat' first
    | with_reducible intro _
    | with_reducible assumption
    | with_reducible first | apply State.ite_inv | apply State.dryfitEntry_inv | apply State.forEach_inv
    | split
    | with_reducible apply State.mk_inv
    | with_reducible rfl
    | with_reducible exact Nat.le_refl _
    | (dsimp only; split)

theorem execEarlySectionsLoaded_inv {s : State} (h : s.From q) (sections : List (Nat × Nat × List Byte)) : Keeps q (execEarlySectionsLoaded sections s) := by
  unfold execEarlySectionsLoaded
  repeat' first
    | with_reducible intro _
    | with_reducible assumption
    | with_reducible first | apply Keeps.next | apply Keeps.ite | apply State.ite_inv | apply State.fst_ite_inv | apply State.snd_ite_inv | apply State.bt_inv | apply State.copyFail_inv | apply State.forEach_inv | apply State.loadLoopbank_inv | apply State.recordAttempt_inv | apply State.refusal_inv | apply State.stage1Fault_inv | apply State.stbyReport_inv | apply State.strapFaults_inv | apply State.takePolicy_inv | apply State.unknownTables_inv | apply State.writeReg_inv
    | split
    | with_reducible apply State.mk_inv
    | with_reducible rfl
    | with_reducible exact Nat.le_refl _
    | (dsimp only; split)

theorem State.placeGraph_inv {s : State} (h : s.From q)  : (State.placeGraph s).From q := by
  unfold State.placeGraph
  repeat' first
    | with_reducible intro _
    | with_reducible assumption
    | with_reducible first | apply State.ite_inv | apply State.p0Unplaceable_inv | apply State.takePlacement_inv
    | split
    | with_reducible apply State.mk_inv
    | with_reducible rfl
    | with_reducible exact Nat.le_refl _
    | (dsimp only; split)

theorem State.unmute_inv {s : State} (h : s.From q) (os : List Nat) : (State.unmute s os).From q := by
  unfold State.unmute
  repeat' first
    | with_reducible intro _
    | with_reducible assumption
    | with_reducible first | apply State.ite_inv | apply State.forEach_inv | apply State.outReq_inv
    | split
    | with_reducible apply State.mk_inv
    | with_reducible rfl
    | with_reducible exact Nat.le_refl _
    | (dsimp only; split)

theorem execEarlyGraphPlaced_inv {s : State} (h : s.From q)  : Keeps q (execEarlyGraphPlaced s) := by
  unfold execEarlyGraphPlaced
  repeat' first
    | with_reducible intro _
    | with_reducible assumption
    | with_reducible first | apply Keeps.next | apply Keeps.ite | apply State.ite_inv | apply State.installGraph_inv | apply State.placeGraph_inv | apply State.unmute_inv
    | split
    | with_reducible apply State.mk_inv
    | with_reducible rfl
    | with_reducible exact Nat.le_refl _
    | (dsimp only; split)

theorem State.rampOut_inv {s : State} (h : s.From q) (o : Nat) : (State.rampOut s o).From q := by
  unfold State.rampOut
  repeat' first
    | with_reducible intro _
    | with_reducible assumption
    | with_reducible first | apply State.ite_inv | apply State.setOState_inv | apply State.setOut_inv
    | split
    | with_reducible apply State.mk_inv
    | with_reducible rfl
    | with_reducible exact Nat.le_refl _
    | (dsimp only; split)

theorem State.applyRing_inv {s : State} (h : s.From q)  : (State.applyRing s).From q := by
  unfold State.applyRing
  repeat' first
    | with_reducible intro _
    | with_reducible assumption
    | with_reducible first | apply State.ite_inv | apply State.ringGoto_inv | apply State.ringStart_inv | apply State.tringCfgWrite_inv
    | split
    | with_reducible apply State.mk_inv
    | with_reducible rfl
    | with_reducible exact Nat.le_refl _
    | (dsimp only; split)

theorem State.takeVmap_inv {s : State} (h : s.From q) (b : List (BitVec 8)) : (State.takeVmap s b).From q := by
  unfold State.takeVmap
  repeat' first
    | with_reducible intro _
    | with_reducible assumption
    | with_reducible first | apply State.ite_inv | apply State.bt_inv
    | split
    | with_reducible apply State.mk_inv
    | with_reducible rfl
    | with_reducible exact Nat.le_refl _
    | (dsimp only; split)

theorem State.raiseWarnings_inv {s : State} (h : s.From q) (early full : List PolTable) : (State.raiseWarnings s early full).From q := by
  unfold State.raiseWarnings
  repeat' first
    | with_reducible intro _
    | with_reducible assumption
    | with_reducible first | apply State.ite_inv | apply State.dryfitEntry_inv | apply State.forEach_inv
    | split
    | with_reducible apply State.mk_inv
    | with_reducible rfl
    | with_reducible exact Nat.le_refl _
    | (dsimp only; split)

theorem execFullRunningTakeover_inv {s : State} (h : s.From q) (sections : List (Nat × Nat × List Byte)) : Keeps q (execFullRunningTakeover sections s) := by
  unfold execFullRunningTakeover
  repeat' first
    | with_reducible intro _
    | with_reducible assumption
    | with_reducible first | apply Keeps.next | apply Keeps.ite | apply State.ite_inv | apply State.applyRing_inv | apply State.bindAll_inv | apply State.bt_inv | apply State.cmdStart_inv | apply State.dryfitEntry_inv | apply State.forAll_inv | apply State.forEach_inv | apply State.installGraph_inv | apply State.lateFail_inv | apply State.placeGraph_inv | apply State.raiseWarnings_inv | apply State.rampOut_inv | apply State.takePolicy_inv | apply State.takeVmap_inv | apply State.unknownTables_inv | apply State.unmute_inv
    | split
    | with_reducible apply State.mk_inv
    | with_reducible rfl
    | with_reducible exact Nat.le_refl _
    | (dsimp only; split)

theorem execEarlyOnlyEntry_inv {s : State} (h : s.From q) (err ty inst : Nat) : Keeps q (execEarlyOnlyEntry err ty inst s) := by
  unfold execEarlyOnlyEntry
  repeat' first
    | with_reducible intro _
    | with_reducible assumption
    | with_reducible first | apply Keeps.next | apply Keeps.ite | apply State.ite_inv | apply State.lateFail_inv
    | split
    | with_reducible apply State.mk_inv
    | with_reducible rfl
    | with_reducible exact Nat.le_refl _
    | (dsimp only; split)

theorem State.rwbDefaults_inv {s : State} (h : s.From q)  : (State.rwbDefaults s).From q := by
  unfold State.rwbDefaults
  repeat' first
    | with_reducible intro _
    | with_reducible assumption
    | with_reducible first | apply State.ite_inv | apply State.fst_ite_inv | apply State.forEach_inv | apply State.setReg_inv
    | split
    | with_reducible apply State.mk_inv
    | with_reducible rfl
    | with_reducible exact Nat.le_refl _
    | (dsimp only; split)

theorem execRomDefaultsEntry_inv {s : State} (h : s.From q)  : Keeps q (execRomDefaultsEntry s) := by
  unfold execRomDefaultsEntry
  repeat' first
    | with_reducible intro _
    | with_reducible assumption
    | with_reducible first | apply Keeps.next | apply Keeps.ite | apply State.ite_inv | apply State.aliveStop_inv | apply State.bootFault_inv | apply State.bt_inv | apply State.forEach_inv | apply State.railOff_inv | apply State.refusal_inv | apply State.rwbDefaults_inv | apply State.wr_inv
    | split
    | with_reducible apply State.mk_inv
    | with_reducible rfl
    | with_reducible exact Nat.le_refl _
    | (dsimp only; split)

theorem execDryfitExecutionEnd_inv {s : State} (h : s.From q) (loads : List Nat) : Keeps q (execDryfitExecutionEnd loads s) := by
  unfold execDryfitExecutionEnd
  repeat' first
    | with_reducible intro _
    | with_reducible assumption
    | with_reducible first | apply Keeps.next | apply Keeps.ite | apply State.ite_inv | apply State.bt_inv | apply State.dryfitEntry_inv
    | split
    | with_reducible apply State.mk_inv
    | with_reducible rfl
    | with_reducible exact Nat.le_refl _
    | (dsimp only; split)

theorem execDryfitDone_inv {s : State} (h : s.From q)  : Keeps q (execDryfitDone s) := by
  unfold execDryfitDone
  repeat' first
    | with_reducible intro _
    | with_reducible assumption
    | with_reducible first | apply Keeps.next | apply Keeps.ite | apply State.ite_inv | apply State.bt_inv | apply State.complete_inv | apply State.dryfitEntry_inv | apply State.forAll_inv
    | split
    | with_reducible apply State.mk_inv
    | with_reducible rfl
    | with_reducible exact Nat.le_refl _
    | (dsimp only; split)

end Sys2Proof.Machine
end

