-- ==== Sys2Proof/Laws/InvVeneer.lean ====
section
/-!
SUPPORT. Laws/InvVeneer.lean: the operations of Machine/Veneer.lean keep the invariant of Safety.lean.
-/

namespace Sys2Proof.Machine

-- one theorem after the other: the package as one text then needs fewer threads
set_option Elab.async false

open Sys2Proof

variable {q : State}

theorem State.veneerRefused_inv {s : State} (h : s.From q) (seq idx reason : Nat) : (State.veneerRefused s seq idx reason).From q := by
  unfold State.veneerRefused
  repeat' first
    | with_reducible intro _
    | with_reducible assumption
    | with_reducible first | apply State.ite_inv | apply State.complete_inv
    | split
    | with_reducible apply State.mk_inv
    | with_reducible rfl
    | with_reducible exact Nat.le_refl _
    | (dsimp only; split)

theorem State.veneerApply_inv {s : State} (h : s.From q) : s.veneerApply.From q := by
  unfold State.veneerApply
  dsimp only
  split
  · exact State.veneerRefused_inv h _ _ _
  · split
    · exact State.veneerRefused_inv h _ _ _
    · rename_i hn
      refine h.imp fun ⟨c, b⟩ => ?_
      refine ⟨c, b.1, ?_, b.3, b.4, b.5, b.6, b.7, b.8⟩
      simp only [State.bt, Option.toList, List.length_nil, List.length_cons]
      simp only [not_or, Nat.not_le] at hn
      omega

theorem execVeneerApply_inv {s : State} (h : s.From q) (e : WriteEnd) : Keeps q (execVeneerApply e s) := by
  unfold execVeneerApply
  repeat' first
    | with_reducible intro _
    | with_reducible assumption
    | with_reducible first | apply Keeps.next | apply Keeps.ite | apply State.ite_inv | apply State.hostCmd_inv | apply State.hostResult_inv | apply State.hostWrite_inv | apply State.veneerApply_inv
    | split
    | with_reducible apply State.mk_inv
    | with_reducible rfl
    | with_reducible exact Nat.le_refl _
    | (dsimp only; split)

theorem execVeneerValidated_inv {s : State} (h : s.From q) : Keeps q (execVeneerValidated s) := by
  refine Keeps.next ?_
  split
  · exact h
  · rename_i j hj
    have h1 : (s.bt (fun b => { b with job := none })).From q :=
      h.of_le rfl rfl (Nat.le_refl _) (by simp only [State.bt, Option.toList, List.length_nil]; omega) (Nat.le_refl _) (Nat.le_refl _)
        (Nat.le_refl _) (Nat.le_refl _) (Nat.le_refl _) (Nat.le_refl _)
    dsimp only
    split
    · exact State.veneerRefused_inv h1 _ _ _
    · split
      · exact State.veneerRefused_inv h1 _ _ _
      · refine State.complete_inv (State.ite_inv h1 ?_) _ _
        refine h.imp fun ⟨c, b⟩ => ?_
        have hb := b.applies
        rw [hj] at hb
        have hb : s.boot.waiting.length + 1 ≤ 4 := hb
        refine ⟨c, b.1, ?_, b.3, b.4, b.5, b.6, b.7, b.8⟩
        simp only [State.bt, Option.toList, List.length_nil, List.length_append, List.length_cons]
        omega

theorem State.setParam_inv {s : State} (h : s.From q) (target v mask : BitVec 32) : (s.setParam target v mask).From q := by
  unfold State.setParam
  dsimp only
  split
  · exact h
  · exact h.of_eq rfl rfl rfl rfl rfl rfl rfl rfl rfl rfl rfl

theorem State.setPolWord_inv {s : State} (h : s.From q) (target v mask : BitVec 32) : (s.setPolWord target v mask).From q := by
  have h' (f : List PolTable → List PolTable) : (s.bt (fun b => { b with policy := f b.policy })).From q := State.bt_inv h _ (fun _ => Nat.le_refl _)
  unfold State.setPolWord
  extract_lets a id k change t
  have ht : t.From q := h' (fun p => p.map change)
  clear_value t
  repeat' first
    | with_reducible assumption
    | with_reducible first | apply State.ite_inv | apply State.fcolCommit_inv | apply State.ruleLoad_inv | apply State.wr_inv | apply State.applyOutMap_inv | apply State.diagCfg_inv | apply State.applyGuard_inv | apply State.polSourceLoad_inv | apply State.hkLoad_inv

theorem State.veneerRecord_inv {s : State} (h : s.From q) (r : VeneerRec) (mask : BitVec 32) : (State.veneerRecord s r mask).From q := by
  unfold State.veneerRecord
  repeat' first
    | with_reducible intro _
    | with_reducible assumption
    | with_reducible first | apply State.ite_inv | apply State.snd_ite_inv | apply State.busWrite_inv | apply State.setParam_inv | apply State.setPolWord_inv
    | split
    | with_reducible apply State.mk_inv
    | with_reducible rfl
    | with_reducible exact Nat.le_refl _
    | (dsimp only; split)

theorem State.veneersDue_inv {s : State} (h : s.From q) : s.veneersDue.From q := by
  unfold State.veneersDue
  refine State.bt_inv (State.forEach_inv h _ _ fun w t ht => State.forEach_inv ht _ _ fun r u hu => State.veneerRecord_inv hu _ _) _ ?_
  intro b
  simp only [List.length_nil]; omega

end Sys2Proof.Machine
end

