-- ==== Sys2Proof/Laws/InvDspFrame.lean ====
section
/-!
SUPPORT. Laws/InvDspFrame.lean: the operations of Machine/DspFrame.lean keep the invariant of Safety.lean.
-/

namespace Sys2Proof.Machine

-- one theorem after the other: the package as one text then needs fewer threads
set_option Elab.async false

open Sys2Proof

variable {q : State}

theorem execZcSwitch_inv {s : State} (h : s.From q) (t : ZcTarget) : Keeps q (execZcSwitch t s) := by
  unfold execZcSwitch
  repeat' first
    | with_reducible intro _
    | with_reducible assumption
    | with_reducible first | apply Keeps.next | apply Keeps.ite | apply State.ite_inv | apply State.setCtx_inv | apply State.setTxGain_inv
    | split
    | with_reducible apply State.mk_inv
    | with_reducible rfl
    | with_reducible exact Nat.le_refl _
    | (dsimp only; split)

theorem execZcTimeout_inv {s : State} (h : s.From q) (t : ZcTarget) : Keeps q (execZcTimeout t s) := by
  unfold execZcTimeout
  repeat' first
    | with_reducible intro _
    | with_reducible assumption
    | with_reducible first | apply Keeps.next | apply Keeps.ite | apply State.ite_inv | apply State.snd_ite_inv | apply State.ev_inv | apply State.setCtx_inv | apply State.setTxGain_inv
    | split
    | with_reducible apply State.mk_inv
    | with_reducible rfl
    | with_reducible exact Nat.le_refl _
    | (dsimp only; split)

theorem State.collectAll_inv {s : State} (h : s.From q) (cs : List Nat) (x : BitVec 32) : (State.collectAll s cs x).From q := by
  unfold State.collectAll
  repeat' first
    | with_reducible intro _
    | with_reducible assumption
    | with_reducible first | apply State.ite_inv | apply State.collect_inv | apply State.forEach_inv
    | split
    | with_reducible apply State.mk_inv
    | with_reducible rfl
    | with_reducible exact Nat.le_refl _
    | (dsimp only; split)

theorem State.sources_inv {s : State} (h : s.From q) (i0 n : Nat) : (State.sources s i0 n).From q := by
  unfold State.sources
  repeat' first
    | with_reducible intro _
    | with_reducible assumption
    | with_reducible first | apply State.ite_inv | apply State.fst_ite_inv | apply State.snd_ite_inv | apply State.collectAll_inv | apply State.forAll_inv | apply State.setGen_inv | apply State.setVoice_inv
    | split
    | with_reducible apply State.mk_inv
    | with_reducible rfl
    | with_reducible exact Nat.le_refl _
    | (dsimp only; split)

theorem State.releaseCtx_inv {s : State} (h : s.From q) (n c : Nat) : (State.releaseCtx s n c).1.From q := by
  unfold State.releaseCtx
  repeat' first
    | with_reducible intro _
    | with_reducible assumption
    | with_reducible first | apply State.ite_inv | apply State.fst_ite_inv | apply State.collectWord_inv | apply State.ctxTakeValue_inv | apply State.forAll_inv | apply State.setCtx_inv
    | split
    | with_reducible apply State.mk_inv
    | with_reducible rfl
    | with_reducible exact Nat.le_refl _
    | (dsimp only; split)

theorem State.release_inv {s : State} (h : s.From q) (f4 : Bool) : (State.release s f4).From q := by
  unfold State.release
  repeat' first
    | with_reducible intro _
    | with_reducible assumption
    | with_reducible first | apply State.ite_inv | apply State.foldl_inv | apply State.foldl_fst_inv | apply State.foldl_snd_inv | apply State.fst_ite_inv | apply State.snd_ite_inv | apply State.releaseCtx_inv | apply State.setClass_inv
    | split
    | with_reducible apply State.mk_inv
    | with_reducible rfl
    | with_reducible exact Nat.le_refl _
    | (dsimp only; split)

theorem State.playCtx_inv {s : State} (h : s.From q) (c : Nat) (l : List (BitVec 32)) : (s.playCtx c l).1.From q := by
  induction l generalizing s with
  | nil => exact h
  | cons x l ih => exact ih (State.setCtx_inv h _ _)

theorem State.playSpk_inv {s : State} (h : s.From q) (o i0 : Nat) (xs : List (BitVec 32)) : (State.playSpk s o i0 xs).1.From q := by
  unfold State.playSpk
  repeat' first
    | with_reducible intro _
    | with_reducible assumption
    | with_reducible first | apply State.ite_inv | apply State.fst_ite_inv
    | split
    | with_reducible apply State.mk_inv
    | with_reducible rfl
    | with_reducible exact Nat.le_refl _
    | (dsimp only; split)

theorem State.playClass_inv {s : State} (h : s.From q) (f4 : Bool) (i0 : Nat) : (State.playClass s f4 i0).From q := by
  unfold State.playClass
  repeat' first
    | with_reducible intro _
    | with_reducible assumption
    | with_reducible first | apply State.ite_inv | apply State.fst_ite_inv | apply State.snd_ite_inv | apply State.forEach_inv | apply State.playCtx_inv | apply State.playSpk_inv
    | split
    | with_reducible apply State.mk_inv
    | with_reducible rfl
    | with_reducible exact Nat.le_refl _
    | (dsimp only; split)

theorem State.lookaheadFrame_inv {s : State} (h : s.From q) (b : Block) (ins : List (List (BitVec 32))) : (State.lookaheadFrame s b ins).From q := by
  unfold State.lookaheadFrame
  repeat' first
    | with_reducible intro _
    | with_reducible assumption
    | with_reducible first | apply State.ite_inv | apply State.foldl_inv | apply State.foldl_fst_inv | apply State.foldl_snd_inv
    | split
    | with_reducible apply State.mk_inv
    | with_reducible rfl
    | with_reducible exact Nat.le_refl _
    | (dsimp only; split)

theorem State.lookaheadRepeat_inv {s : State} (h : s.From q)  : (State.lookaheadRepeat s).From q := by
  unfold State.lookaheadRepeat
  repeat' first
    | with_reducible intro _
    | with_reducible assumption
    | with_reducible first | apply State.ite_inv | apply State.foldl_inv | apply State.foldl_fst_inv | apply State.foldl_snd_inv
    | split
    | with_reducible apply State.mk_inv
    | with_reducible rfl
    | with_reducible exact Nat.le_refl _
    | (dsimp only; split)

theorem State.laSend_inv {s : State} (h : s.From q)  : (State.laSend s).From q := by
  unfold State.laSend
  repeat' first
    | with_reducible intro _
    | with_reducible assumption
    | with_reducible first | apply State.ite_inv | apply State.foldl_inv | apply State.foldl_fst_inv | apply State.foldl_snd_inv | apply State.ev_inv | apply State.peak_inv | apply State.wr_inv
    | split
    | with_reducible apply State.mk_inv
    | with_reducible rfl
    | with_reducible exact Nat.le_refl _
    | (dsimp only; split)

theorem State.conceal_inv {s : State} (h : s.From q) (f4 late : Bool) : (State.conceal s f4 late).From q := by
  unfold State.conceal
  repeat' first
    | with_reducible intro _
    | with_reducible assumption
    | with_reducible first | apply State.ite_inv | apply State.bump_inv | apply State.ev_inv | apply State.lookaheadRepeat_inv | apply State.setClass_inv
    | split
    | with_reducible apply State.mk_inv
    | with_reducible rfl
    | with_reducible exact Nat.le_refl _
    | (dsimp only; split)

theorem execFrameConceal_inv {s : State} (h : s.From q) (f4 late : Bool) : Keeps q (execFrameConceal f4 late s) := by
  unfold execFrameConceal
  repeat' first
    | with_reducible intro _
    | with_reducible assumption
    | with_reducible first | apply Keeps.next | apply Keeps.ite | apply State.ite_inv | apply State.conceal_inv
    | split
    | with_reducible apply State.mk_inv
    | with_reducible rfl
    | with_reducible exact Nat.le_refl _
    | (dsimp only; split)

theorem State.voiceRun_inv {s : State} (h : s.From q) (v n : Nat) : (s.voiceRun v n).1.From q := by
  induction n generalizing s with
  | zero => exact h
  | succ n ih => exact ih (State.ite_inv (State.setVoice_inv h _ _) h)

theorem State.voicesRun_inv {s : State} (h : s.From q) (n : Nat) (l : List Nat) : (s.voicesRun n l).1.From q := by
  induction l generalizing s with
  | nil => exact h
  | cons v l ih => exact ih (State.voiceRun_inv h _ _)

theorem State.setAvas_inv {s : State} (h : s.From q) (inst : Nat) (x : AvasSt) : (State.setAvas s inst x).From q := by
  unfold State.setAvas
  repeat' first
    | with_reducible intro _
    | with_reducible assumption
    | with_reducible first | apply State.ite_inv
    | split
    | with_reducible apply State.mk_inv
    | with_reducible rfl
    | with_reducible exact Nat.le_refl _
    | (dsimp only; split)

theorem State.avasFallback_inv {s : State} (h : s.From q) (inst : Nat) : (State.avasFallback s inst).From q := by
  unfold State.avasFallback
  repeat' first
    | with_reducible intro _
    | with_reducible assumption
    | with_reducible first | apply State.ite_inv | apply State.ev_inv | apply State.setAvas_inv
    | split
    | with_reducible apply State.mk_inv
    | with_reducible rfl
    | with_reducible exact Nat.le_refl _
    | (dsimp only; split)

theorem execAvasFallback_inv {s : State} (h : s.From q) (inst : BitVec 16) : Keeps q (execAvasFallback inst s) := by
  unfold execAvasFallback
  repeat' first
    | with_reducible intro _
    | with_reducible assumption
    | with_reducible first | apply Keeps.next | apply Keeps.ite | apply State.ite_inv | apply State.avasFallback_inv
    | split
    | with_reducible apply State.mk_inv
    | with_reducible rfl
    | with_reducible exact Nat.le_refl _
    | (dsimp only; split)

theorem State.avasSpeed_inv {s : State} (h : s.From q) (b : Block) : (State.avasSpeed s b).From q := by
  unfold State.avasSpeed
  repeat' first
    | with_reducible intro _
    | with_reducible assumption
    | with_reducible first | apply State.ite_inv | apply State.fst_ite_inv | apply State.snd_ite_inv | apply State.avasFallback_inv | apply State.ev_inv | apply State.setAvas_inv
    | split
    | with_reducible apply State.mk_inv
    | with_reducible rfl
    | with_reducible exact Nat.le_refl _
    | (dsimp only; split)

theorem State.avasFrame_inv {s : State} (h : s.From q) (b : Block) : (State.avasFrame s b).1.From q := by
  unfold State.avasFrame
  repeat' first
    | with_reducible intro _
    | with_reducible assumption
    | with_reducible first | apply State.ite_inv | apply State.fst_ite_inv | apply State.snd_ite_inv | apply State.avasSpeed_inv | apply State.forAll_inv | apply State.setAvas_inv | apply State.setVoice_inv | apply State.voicesRun_inv
    | split
    | with_reducible apply State.mk_inv
    | with_reducible rfl
    | with_reducible exact Nat.le_refl _
    | (dsimp only; split)

theorem State.setChime_inv {s : State} (h : s.From q) (inst : Nat) (x : ChimeSt) : (State.setChime s inst x).From q := by
  unfold State.setChime
  repeat' first
    | with_reducible intro _
    | with_reducible assumption
    | with_reducible first | apply State.ite_inv
    | split
    | with_reducible apply State.mk_inv
    | with_reducible rfl
    | with_reducible exact Nat.le_refl _
    | (dsimp only; split)

theorem State.chimeRepeat_inv {s : State} (h : s.From q) (b : Block) (v i : Nat) : (State.chimeRepeat s b v i).From q := by
  unfold State.chimeRepeat
  repeat' first
    | with_reducible intro _
    | with_reducible assumption
    | with_reducible first | apply State.ite_inv | apply State.setChime_inv | apply State.setVoice_inv
    | split
    | with_reducible apply State.mk_inv
    | with_reducible rfl
    | with_reducible exact Nat.le_refl _
    | (dsimp only; split)

theorem State.chimeStart_inv {s : State} (h : s.From q) (b : Block) (v : Nat) : (State.chimeStart s b v).From q := by
  unfold State.chimeStart
  repeat' first
    | with_reducible intro _
    | with_reducible assumption
    | with_reducible first | apply State.ite_inv | apply State.chimeRepeat_inv | apply State.ev_inv
    | split
    | with_reducible apply State.mk_inv
    | with_reducible rfl
    | with_reducible exact Nat.le_refl _
    | (dsimp only; split)

theorem State.chimeStop_inv {s : State} (h : s.From q) (b : Block) : (State.chimeStop s b).From q := by
  unfold State.chimeStop
  repeat' first
    | with_reducible intro _
    | with_reducible assumption
    | with_reducible first | apply State.ite_inv | apply State.ev_inv | apply State.setChime_inv
    | split
    | with_reducible apply State.mk_inv
    | with_reducible rfl
    | with_reducible exact Nat.le_refl _
    | (dsimp only; split)

theorem State.chimePlaying_inv {s : State} (h : s.From q) (b : Block) (v i : Nat) : (State.chimePlaying s b v i).From q := by
  unfold State.chimePlaying
  repeat' first
    | with_reducible intro _
    | with_reducible assumption
    | with_reducible first | apply State.ite_inv | apply State.chimeRepeat_inv | apply State.chimeStart_inv | apply State.chimeStop_inv | apply State.ev_inv | apply State.setChime_inv | apply State.setVoice_inv
    | split
    | with_reducible apply State.mk_inv
    | with_reducible rfl
    | with_reducible exact Nat.le_refl _
    | (dsimp only; split)

theorem State.chimeFrame_inv {s : State} (h : s.From q) (b : Block) : (State.chimeFrame s b).1.From q := by
  unfold State.chimeFrame
  repeat' first
    | with_reducible intro _
    | with_reducible assumption
    | with_reducible first | apply State.ite_inv | apply State.fst_ite_inv | apply State.snd_ite_inv | apply State.chimePlaying_inv | apply State.chimeStart_inv | apply State.setChime_inv | apply State.voicesRun_inv
    | split
    | with_reducible apply State.mk_inv
    | with_reducible rfl
    | with_reducible exact Nat.le_refl _
    | (dsimp only; split)

theorem State.blockOut_inv {s : State} (h : s.From q) (b : Block) (ins : List (List (BitVec 32))) : (State.blockOut s b ins).1.From q := by
  unfold State.blockOut
  repeat' first
    | with_reducible intro _
    | with_reducible assumption
    | with_reducible first | apply State.ite_inv | apply State.fst_ite_inv | apply State.snd_ite_inv | apply State.avasFrame_inv | apply State.chimeFrame_inv | apply State.excursionDone_inv | apply State.lookaheadFrame_inv
    | split
    | with_reducible apply State.mk_inv
    | with_reducible rfl
    | with_reducible exact Nat.le_refl _
    | (dsimp only; split)

theorem State.runBlock_inv {s : State} (h : s.From q) (input : FrameData) (env : Env) (b : Block) : (State.runBlock s input env b).1.From q := by
  unfold State.runBlock
  repeat' first
    | with_reducible intro _
    | with_reducible assumption
    | with_reducible first | apply State.ite_inv | apply State.fst_ite_inv | apply State.snd_ite_inv | apply State.blockOut_inv | apply State.bump_inv | apply State.ev_inv
    | split
    | with_reducible apply State.mk_inv
    | with_reducible rfl
    | with_reducible exact Nat.le_refl _
    | (dsimp only; split)

theorem State.runBlocks_inv {s : State} (h : s.From q) (f4 : Bool) (input : FrameData) : (State.runBlocks s f4 input).1.From q := by
  unfold State.runBlocks
  repeat' first
    | with_reducible intro _
    | with_reducible assumption
    | with_reducible first | apply State.ite_inv | apply State.foldl_inv | apply State.foldl_fst_inv | apply State.foldl_snd_inv | apply State.fst_ite_inv | apply State.snd_ite_inv | apply State.runBlock_inv
    | split
    | with_reducible apply State.mk_inv
    | with_reducible rfl
    | with_reducible exact Nat.le_refl _
    | (dsimp only; split)

theorem State.termOut_inv {s : State} (h : s.From q) (n : Nat) (env : Env) (t : Terminal) : (State.termOut s n env t).1.From q := by
  unfold State.termOut
  repeat' first
    | with_reducible intro _
    | with_reducible assumption
    | with_reducible first | apply State.ite_inv | apply State.fst_ite_inv | apply State.bump_inv | apply State.ev_inv | apply State.forAll_inv
    | split
    | with_reducible apply State.mk_inv
    | with_reducible rfl
    | with_reducible exact Nat.le_refl _
    | (dsimp only; split)

theorem State.termOuts_inv {s : State} (h : s.From q) (n : Nat) (env : Env) (ts : List Terminal) : (State.termOuts s n env ts).1.From q := by
  unfold State.termOuts
  repeat' first
    | with_reducible intro _
    | with_reducible assumption
    | with_reducible first | apply State.ite_inv | apply State.foldl_inv | apply State.foldl_fst_inv | apply State.foldl_snd_inv | apply State.fst_ite_inv | apply State.snd_ite_inv | apply State.termOut_inv
    | split
    | with_reducible apply State.mk_inv
    | with_reducible rfl
    | with_reducible exact Nat.le_refl _
    | (dsimp only; split)

theorem State.coreLoadSeen_inv {s : State} (h : s.From q) (c cycles : Nat) : (State.coreLoadSeen s c cycles).From q := by
  unfold State.coreLoadSeen
  repeat' first
    | with_reducible intro _
    | with_reducible assumption
    | with_reducible first | apply State.ite_inv | apply State.ev_inv | apply State.peak_inv | apply State.wr_inv
    | split
    | with_reducible apply State.mk_inv
    | with_reducible rfl
    | with_reducible exact Nat.le_refl _
    | (dsimp only; split)

theorem State.writeMirrors_inv {s : State} (h : s.From q)  : (State.writeMirrors s).From q := by
  unfold State.writeMirrors
  repeat' first
    | with_reducible intro _
    | with_reducible assumption
    | with_reducible first | apply State.ite_inv
    | split
    | with_reducible apply State.mk_inv
    | with_reducible rfl
    | with_reducible exact Nat.le_refl _
    | (dsimp only; split)

theorem State.glueUp_inv {s : State} (h : s.From q) (f4 : Bool) (cycles : List Nat) (found : List (BitVec 16 × Detection)) : (State.glueUp s f4 cycles found).From q := by
  unfold State.glueUp
  repeat' first
    | with_reducible intro _
    | with_reducible assumption
    | with_reducible first | apply State.ite_inv | apply State.foldl_inv | apply State.foldl_fst_inv | apply State.foldl_snd_inv | apply State.fst_ite_inv | apply State.snd_ite_inv | apply State.bumpWrap_inv | apply State.coreLoadSeen_inv | apply State.dspDetection_inv | apply State.forEach_inv | apply State.guardFrame_inv | apply State.runBlocks_inv | apply State.setClass_inv | apply State.termOuts_inv | apply State.veneersDue_inv | apply State.writeMirrors_inv
    | split
    | with_reducible apply State.mk_inv
    | with_reducible rfl
    | with_reducible exact Nat.le_refl _
    | (dsimp only; split)

theorem execGlueUp_inv {s : State} (h : s.From q) (f4 : Bool) (cycles : List Nat) (found : List (BitVec 16 × Detection)) : Keeps q (execGlueUp f4 cycles found s) := by
  unfold execGlueUp
  repeat' first
    | with_reducible intro _
    | with_reducible assumption
    | with_reducible first | apply Keeps.next | apply Keeps.ite | apply State.ite_inv | apply State.glueUp_inv | apply State.when_inv
    | split
    | with_reducible apply State.mk_inv
    | with_reducible rfl
    | with_reducible exact Nat.le_refl _
    | (dsimp only; split)

theorem State.endPeriod_inv {s : State} (h : s.From q) (f4 : Bool) : (State.endPeriod s f4).From q := by
  unfold State.endPeriod
  repeat' first
    | with_reducible intro _
    | with_reducible assumption
    | with_reducible first | apply State.ite_inv | apply State.conceal_inv
    | split
    | with_reducible apply State.mk_inv
    | with_reducible rfl
    | with_reducible exact Nat.le_refl _
    | (dsimp only; split)

theorem State.crossfades_inv {s : State} (h : s.From q)  : (State.crossfades s).From q := by
  unfold State.crossfades
  repeat' first
    | with_reducible intro _
    | with_reducible assumption
    | with_reducible first | apply State.ite_inv
    | split
    | with_reducible apply State.mk_inv
    | with_reducible rfl
    | with_reducible exact Nat.le_refl _
    | (dsimp only; split)

theorem State.placeDue_inv {s : State} (h : s.From q)  : (State.placeDue s).From q := by
  unfold State.placeDue
  repeat' first
    | with_reducible intro _
    | with_reducible assumption
    | with_reducible first | apply State.ite_inv | apply State.migrate_inv | apply State.takePlacement_inv
    | split
    | with_reducible apply State.mk_inv
    | with_reducible rfl
    | with_reducible exact Nat.le_refl _
    | (dsimp only; split)

theorem State.nextPlaying_inv {s : State} (h : s.From q)  : (State.nextPlaying s).From q := by
  unfold State.nextPlaying
  repeat' first
    | with_reducible intro _
    | with_reducible assumption
    | with_reducible first | apply State.ite_inv | apply State.fst_ite_inv | apply State.snd_ite_inv
    | split
    | with_reducible apply State.mk_inv
    | with_reducible rfl
    | with_reducible exact Nat.le_refl _
    | (dsimp only; split)

theorem State.f32Begin_inv {s : State} (h : s.From q)  : (State.f32Begin s).From q := by
  unfold State.f32Begin
  repeat' first
    | with_reducible intro _
    | with_reducible assumption
    | with_reducible first | apply State.ite_inv | apply State.bumpWrap_inv | apply State.crossfades_inv | apply State.ctxLevelStart_inv | apply State.decimFrame_inv | apply State.diagFrame_inv | apply State.endPeriod_inv | apply State.forAll_inv | apply State.genBoundary_inv | apply State.guardBoundary_inv | apply State.laSend_inv | apply State.nextPlaying_inv | apply State.placeDue_inv | apply State.placeSeq_inv | apply State.rereadPeriod_inv | apply State.ringMapApply_inv | apply State.setOut_inv | apply State.setPort_inv
    | split
    | with_reducible apply State.mk_inv
    | with_reducible rfl
    | with_reducible exact Nat.le_refl _
    | (dsimp only; split)

theorem State.f32End_inv {s : State} (h : s.From q)  : (State.f32End s).From q := by
  unfold State.f32End
  repeat' first
    | with_reducible intro _
    | with_reducible assumption
    | with_reducible first | apply State.ite_inv | apply State.ctxFaultStart_inv | apply State.forAll_inv | apply State.setCtx_inv
    | split
    | with_reducible apply State.mk_inv
    | with_reducible rfl
    | with_reducible exact Nat.le_refl _
    | (dsimp only; split)

theorem State.f4End_inv {s : State} (h : s.From q)  : (State.f4End s).From q := by
  unfold State.f4End
  repeat' first
    | with_reducible intro _
    | with_reducible assumption
    | with_reducible first | apply State.ite_inv | apply State.ctxFaultStart_inv | apply State.forEach_inv
    | split
    | with_reducible apply State.mk_inv
    | with_reducible rfl
    | with_reducible exact Nat.le_refl _
    | (dsimp only; split)

theorem State.boundary_inv {s : State} (h : s.From q) (f4 : Bool) : (State.boundary s f4).From q := by
  unfold State.boundary
  repeat' first
    | with_reducible intro _
    | with_reducible assumption
    | with_reducible first | apply State.ite_inv | apply State.decimFrame_inv | apply State.diagFrame_inv | apply State.endPeriod_inv | apply State.f32Begin_inv | apply State.f32End_inv | apply State.f4End_inv | apply State.playClass_inv | apply State.release_inv | apply State.sources_inv | apply State.when_inv
    | split
    | with_reducible apply State.mk_inv
    | with_reducible rfl
    | with_reducible exact Nat.le_refl _
    | (dsimp only; split)

theorem execDspFrameBoundary_inv {s : State} (h : s.From q) (f4 : Bool) : Keeps q (execDspFrameBoundary f4 s) := by
  unfold execDspFrameBoundary
  repeat' first
    | with_reducible intro _
    | with_reducible assumption
    | with_reducible first | apply Keeps.next | apply Keeps.ite | apply State.ite_inv | apply State.boundary_inv
    | split
    | with_reducible apply State.mk_inv
    | with_reducible rfl
    | with_reducible exact Nat.le_refl _
    | (dsimp only; split)

end Sys2Proof.Machine
end

