-- ==== Sys2Proof/WellFormed.lean ====
section
/-!
DEFINITION. WellFormed.lean: which commands the outside can send: the sizes that the spec gives the bytes, words and lists they
carry. A number in a bit-vector or Fin operand needs no check.
-/

namespace Sys2Proof

/-- A ring frame carries at most 64 slots in each pass (R100). -/
def ringFrameWf (f : RingFrame) : Bool := decide (f.first.length ≤ 64) && decide (f.second.length ≤ 64)

/-- The mailbox carries 16 nonce bytes, 16 response bytes or 8 password bytes (R454 to R456). -/
def mailboxWf : Mailbox → Bool
  | .challenge nonce => nonce.length == 16
  | .response bytes => bytes.length == 16
  | .unlockPw bytes => bytes.length == 8

/-- The command is one the outside can send. -/
def Instr.wf : Instr → Bool
  | .powerOnReset => true
  | .brownOut _ => true
  | .warmReset mode _ => mode.length == 3
  | .sysRstctrlWarm _ => true
  | .warmResetRampEnd => true
  | .blkrstDiag => true
  | .blkrstTring => true
  | .blkrstPort _ => true
  | .blkrstTrace => true
  | .blkrstDecim => true
  | .blockResetComplete _ => true
  | .testAccessReset => true
  | .xtalWindowEnd _ => true
  | .pllLockLost _ => true
  | .pllLockAcquired _ => true
  | .tsrcLockGained _ => true
  | .tsrcLockLost => true
  | .benchAccessTimeout => true
  | .crossingFifoEvent _ => true
  | .registerWrite _ addr _ => decide (addr < 2 ^ 32)
  | .xspiDiscoveryDone _ _ => true
  | .xspiDiscoveryTimeout => true
  | .locatorRead bytes => bytes.length == 148
  | .nvmArbitrationLost => true
  | .nvmArbitrationRetry => true
  | .nvmArbitrationTimeout => true
  | .stuckBusDetected _ => true
  | .stuckBusRetry _ => true
  | .eepromNack => true
  | .eepromNackRetry => true
  | .imageHeaderChecked _ _ _ _ => true
  | .bootcfgApplied _ => true
  | .sectionReread _ _ _ => true
  | .earlySectionsLoaded _ => true
  | .earlyGraphPlaced => true
  | .fullRunningTakeover _ => true
  | .earlyOnlyEntry _ _ _ => true
  | .romDefaultsEntry => true
  | .dryfitExecutionEnd loads => loads.length == 4
  | .dryfitDone => true
  | .veneerApply _ => true
  | .veneerValidated => true
  | .portStart _ => true
  | .portArm _ => true
  | .portDisarm _ => true
  | .portStop _ => true
  | .portRestart _ => true
  | .portCfgWrite _ _ => true
  | .portMapWrite _ _ _ _ => true
  | .portSlotmaskWrite _ _ _ => true
  | .portMaskApply _ => true
  | .portGstartFire => true
  | .syncPinEdge => true
  | .portStartFrame _ => true
  | .portRunningReached _ => true
  | .portStartTimeout _ => true
  | .portStopDrainDone _ => true
  | .portRxFrame _ f => decide (f.words.length ≤ 16)
  | .portSlip _ _ => true
  | .zcSwitch _ => true
  | .zcTimeout _ => true
  | .clkLoss _ => true
  | .rateFault _ _ => true
  | .portResume _ => true
  | .portOverrunUnderrun _ _ _ => true
  | .portRestartCapture _ => true
  | .iecLock _ _ => true
  | .iecBlockEnd _ _ => true
  | .iecTxBlockStart => true
  | .ringFrameEmit => true
  | .ringFrameRx f _ _ => ringFrameWf f
  | .ringFrameReturn f _ _ => ringFrameWf f
  | .ringBreak _ _ => true
  | .ringBreakResume => true
  | .electCandidate => true
  | .elected => true
  | .electTimeout => true
  | .ringStart => true
  | .ringStop => true
  | .tringCfgWrite _ => true
  | .tringMapWrite _ _ _ => true
  | .biscuitRx _ bytes => bytes.length == 16
  | .biscuitInsert _ => true
  | .startBiscuit _ => true
  | .syncBiscuit _ => true
  | .regWr _ _ _ => true
  | .regRd _ _ => true
  | .regRsp bytes => bytes.length == 16
  | .hostBiscuit bytes => bytes.length == 16
  | .policyBiscuit bytes => bytes.length == 16
  | .faultBiscuit _ payload => payload.length == 8
  | .biscuitSend => true
  | .biscuitPop => true
  | .dspFrameBoundary _ => true
  | .glueUp _ cycles _ => cycles.length == 4
  | .frameConceal _ _ => true
  | .dspDetection _ _ => true
  | .ctxCfgWrite _ _ => true
  | .ctxLevelWrite _ _ => true
  | .genCfgWrite _ _ => true
  | .genFreqWrite _ _ => true
  | .play _ _ => true
  | .stopAtEnd _ => true
  | .stopNow _ => true
  | .playDone _ => true
  | .playUnderrun _ _ => true
  | .avasFallback _ => true
  | .placementRun => true
  | .coreFence _ _ => true
  | .migrationDone => true
  | .regionFence _ _ _ => true
  | .dramRegionMove _ _ => true
  | .scrubRepair _ _ => true
  | .outputBinding => true
  | .outputReqWrite _ _ => true
  | .fastoff _ => true
  | .fastoffDone _ => true
  | .cmRampDone _ => true
  | .outputZeroCrossing _ => true
  | .outputZcTimeout _ => true
  | .outputRampDone _ => true
  | .bridgeTrip _ _ _ => true
  | .tripDemagEnd _ => true
  | .tripRetry _ => true
  | .cellDesat _ _ _ => true
  | .shedFall _ _ => true
  | .cellRotate _ => true
  | .imbalance _ => true
  | .tripLimWrite _ _ => true
  | .bridgeOvertemp _ _ _ => true
  | .laneEvaluate faults => decide (faults.length ≤ 256)
  | .energySubwindowEnd _ => true
  | .bankselWrite _ _ => true
  | .bankSwap => true
  | .bankWrite _ _ _ _ => true
  | .fbTableWrite _ _ _ _ => true
  | .loopChCfgWrite _ _ => true
  | .coefRefetch _ => true
  | .rcTrackerEdge _ _ => true
  | .rcTrackerTimeout _ => true
  | .rcPeriodEnd _ => true
  | .rcFadeEnd _ => true
  | .rcClear _ => true
  | .rcFreeze _ _ => true
  | .rcChCfgWrite _ _ => true
  | .rcSrcEstWrite _ _ => true
  | .rcTableWrite _ _ => true
  | .traceArm _ => true
  | .traceStop _ => true
  | .traceForce _ => true
  | .traceCfgWrite _ _ _ => true
  | .traceWindowRead _ _ => true
  | .senseSample _ _ _ _ _ => true
  | .sliceFault _ _ => true
  | .bgWindowEnd _ => true
  | .bgFreezeWrite _ => true
  | .senseCal _ => true
  | .senseBootCalStart => true
  | .senseCalDone results => decide (results.length ≤ 32)
  | .decimOutputSample => true
  | .ratioTrackerTick _ => true
  | .decimReset => true
  | .decimSettled _ => true
  | .thrCfgWrite _ _ _ => true
  | .auxPathCfgWrite _ _ => true
  | .clampCeilingWrite _ _ _ => true
  | .setSwitched _ => true
  | .quickDcCheck _ => true
  | .acSweep _ => true
  | .diagAbort _ => true
  | .quickCheckStart => true
  | .quickCheckDone _ results => decide (results.length ≤ 2)
  | .bootDcDiagStart => true
  | .bootDcDiagDone results => decide (results.length ≤ 16)
  | .sweepPointDone _ => true
  | .sweepResume _ _ => true
  | .trackPeriodEnd _ => true
  | .stbyLineCheck findings => decide (findings.length ≤ 16)
  | .stage1Start _ _ _ _ => true
  | .railInWindow _ => true
  | .stage1RailTimeout _ => true
  | .stage1Retry => true
  | .laterStageStart => true
  | .stageTimeout _ => true
  | .railDischarged _ => true
  | .dischargeTimeout _ => true
  | .railWindowTrip _ _ => true
  | .railCtrlWrite _ => true
  | .micbCfgWrite _ => true
  | .micbShort _ _ => true
  | .pvddSoftStartDone => true
  | .laBatchArrive late => decide (late ≤ 8)
  | .demandActive => true
  | .laTimeout => true
  | .pvddLimited _ _ => true
  | .phaseShed _ => true
  | .pvddOcp _ _ => true
  | .pvddOcpRestart _ => true
  | .pvddOv _ _ => true
  | .pvddUv _ _ => true
  | .pvddWindowRestored => true
  | .pvddClockReturn => true
  | .bankReady => true
  | .chgFault => true
  | .vbatThreshold _ _ => true
  | .holdupEnter _ => true
  | .holdupExit => true
  | .holdupSpent => true
  | .stbyGo _ => true
  | .stbyAuto => true
  | .stbyCurrentReached => true
  | .wakecfgWrite _ => true
  | .wakePinWake => true
  | .hostMatchWake _ => true
  | .hostMatchRelease => true
  | .ringActivityWake => true
  | .govEvaluate => true
  | .govLimitWrite _ => true
  | .crashN _ => true
  | .govDischarge _ => true
  | .dischargePvddStop => true
  | .dischargeDone => true
  | .disFail => true
  | .govAllocate => true
  | .hkConversion _ => true
  | .hkInjectTrigger _ => true
  | .swTrig _ => true
  | .hkTimer => true
  | .refReady => true
  | .hkClockStop => true
  | .hkCal => true
  | .hkCalStart => true
  | .hkCalDone _ _ => true
  | .hkSeqApply => true
  | .hkWinWrite _ _ => true
  | .fcolEventArrive _ _ => true
  | .fcolClassify => true
  | .fcolWindowRollover _ => true
  | .fenceApply => true
  | .fcolSafeCmd _ _ => true
  | .commit _ => true
  | .fcolRuleWrite _ _ _ _ => true
  | .clrFirst => true
  | .fcolConfigMismatch => true
  | .aliveToggle => true
  | .kick _ => true
  | .watchdogExpire => true
  | .jigArm _ _ => true
  | .jigMissed => true
  | .ident _ => true
  | .setPtr _ _ => true
  | .readBlk _ _ => true
  | .writeBlk n bytes _ => bytes.length == n.toNat
  | .status _ => true
  | .claim _ => true
  | .complete _ _ => true
  | .cqRead _ => true
  | .faultLog _ _ => true
  | .challenge nonce _ => nonce.length == 16
  | .response n bytes _ => bytes.length == n.toNat
  | .unlockPw n bytes _ => bytes.length == n.toNat
  | .attemptEvaluated => true
  | .jtagUnlockMailbox m => mailboxWf m
  | .lockoutEnd => true
  | .nonceExpire => true
  | .relock _ => true
  | .svRaise _ => true
  | .svRaised => true
  | .unknownCmd => true
  | .hbusStartException => true
  | .hbusTimeout => true
  | .addrChanged => true
  | .alertResponse _ => true
  | .alertReassert => true
  | .nvmRead _ _ _ => true
  | .nvmProgram _ _ _ => true
  | .nvmErase _ _ _ => true
  | .nvmOpDone _ data => decide (data.length ≤ 256)
  | .sourceLevelRise _ _ => true
  | .sourceLevelFall _ => true
  | .intcEnWrite _ _ => true
  | .moderationExpiry _ => true
  | .demandExpired => true
  | .pvddOvCleared _ => true
  | .wakePinChange _ => true

end Sys2Proof
end

