-- ==== Sys2Proof/Tests/Slice0.lean ====
section
/-!
SUPPORT. Tests/Slice0.lean: the checks of WellFormed refuse, worked examples of the spec, and for every statement with
hypotheses states and operands that meet them, clause by clause.
-/

namespace Sys2Proof.Tests

open Sys2Proof Sys2Proof.Machine

-- one theorem after the other: the package as one text then needs fewer threads
set_option Elab.async false

/-- A state with the register bus up. -/
def sUp : State := { State.reset with sys := { SysSt.reset with rst := none, dieHeld := false } }.wr F.SYS_CLKSTAT_PLLB_LOCK 1
/-- A state whose graph has a P0 block that no core can hold. -/
def sP0 : State := { State.reset with dsp := { DspSt.reset with graph := { Graph.empty with blocks := [{ inst := 9, ty := 4, cls := 0, pclass := 0, asil := false, params := [16, 0x7FFFFFFF] }] } } }
/-- A state whose host interface runs and that boots fully. -/
def sHost : State := { (State.reset.wr F.SYS_CLKSTAT_PLLB_LOCK 1) with sys := { SysSt.reset with rst := none, dieHeld := false }, boot := { BootSt.reset with state := bootFullRunning } }
/-- A directory entry whose CRC no section meets. -/
def dirBad (ty : Nat) (early : Bool) : DirEntry := { ty := ty, flags := if early then 1 else 0, inst := 0, offset := 0, length := 0, crc := 1, sha := [] }
/-- The BOOTCFG entry of a directory. -/
def dirCfg : DirEntry := dirBad 1 true
/-- An early GRAPH entry. -/
def dirGraph : DirEntry := dirBad 5 true
/-- A late GRAPH entry. -/
def dirLate : DirEntry := dirBad 5 false
/-- An image in use. -/
def bootChoice0 : BootChoice := { source := 1, copy := 0, common := false, flags := 0, secver := 0, configId := [], dir := [] }
/-- The failure of the early GRAPH section's CRC. -/
def earlyFail : BootFail := { last := 6, err := 8, ty := 5, inst := 0 }
/-- A locator with the copies at 0x1000 and 0x2000 for strap position 0. -/
def locBody : List (BitVec 8) := leBytes 4 0x434F4C4D ++ leBytes 4 1 ++ leBytes 4 0x1000 ++ leBytes 4 0x2000 ++ List.replicate 128 0
/-- The locator with its CRC. -/
def locBytes : List (BitVec 8) := locBody ++ leBytes 4 (crc32 locBody).toNat
/-- One KIND 0 record of target 0x000D_0000. -/
def venRec : List (BitVec 8) := leBytes 4 0 ++ leBytes 4 0x000D0000 ++ leBytes 4 5 ++ leBytes 4 0
/-- A staging area with that record. -/
def venJob : VeneerJob := { bytes := leBytes 4 0x524E4556 ++ leBytes 4 1 ++ leBytes 4 7 ++ leBytes 4 (crc32 venRec).toNat ++ venRec }
/-- A state with the register bus and the loop islands up. -/
def sOn : State := sUp.wr F.SYS_CLKSTAT_PLLA_LOCK 1
/-- A sweep at its first point. -/
def sweepIdle : Sweep := { pts := [], frames := [], again := false, starting := false, paused := false, dryfit := false }
/-- A sweep whose first point has all the frames that it asks for at 1 kHz and 48 kHz. -/
def sweepFull (bad : Bool) : Sweep :=
  { sweepIdle with frames := List.replicate 19 { v := List.replicate 128 0, i := List.replicate 128 0, bad := bad } }
/-- A state with a sweep that starts at 1 kHz, of 24 points. -/
def sSweep (w : Sweep) : State :=
  ({ State.reset with boot := { BootSt.reset with policy := [{ id := 7, entries := [[0xFF, 0, 0, 0, 0xE8, 0x03, 0, 0, 0, 0, 24]] }] } } : State).setSweep 15 (some w)
/-- The first point of a sweep of that state is measured. -/
theorem sweepFull_some : (sweepMeasure (sweepFreq (sSweep (sweepFull false)).diagGlobal 0) (sSweep (sweepFull false)).fa
    ((sSweep (sweepFull false)).filterCap 15) (sweepFull false).frames.reverse).isSome = true := by decide +kernel
/-- What it finds. -/
def sweepFound : SweepPt × Bool := Option.get _ sweepFull_some

/-! ### Ill-formed commands (WellFormed.lean): each check refuses one -/

/-- Each list or number of a wrong size, and the same command with the right one. -/
theorem test_wf_refuses_sizes :
    Instr.wf (.warmReset [0x52, 0x57] (.pec 0)) = false ∧ Instr.wf (.warmReset [0x52, 0x57, 0] (.pec 0)) = true ∧
    Instr.wf (.registerWrite .host (2 ^ 32) 0) = false ∧ Instr.wf (.registerWrite .host (2 ^ 32 - 1) 0) = true ∧
    Instr.wf (.locatorRead [0]) = false ∧ Instr.wf (.dryfitExecutionEnd [0, 0, 0]) = false ∧
    Instr.wf (.biscuitRx 0 (List.replicate 15 0)) = false ∧ Instr.wf (.regRsp []) = false ∧ Instr.wf (.hostBiscuit []) = false ∧
    Instr.wf (.policyBiscuit []) = false ∧ Instr.wf (.faultBiscuit 0 (List.replicate 9 0)) = false ∧
    Instr.wf (.glueUp true [0, 0, 0] []) = false ∧ Instr.wf (.laBatchArrive 9) = false ∧ Instr.wf (.laBatchArrive 8) = true ∧
    Instr.wf (.writeBlk 4 [0, 0, 0] (.pec 0)) = false ∧ Instr.wf (.writeBlk 4 [0, 0, 0, 0] (.pec 0)) = true ∧
    Instr.wf (.challenge (List.replicate 15 0) .noPec) = false ∧ Instr.wf (.response 16 [] (.pec 0)) = false ∧
    Instr.wf (.unlockPw 8 [] (.pec 0)) = false ∧ Instr.wf (.nvmOpDone 0 (List.replicate 257 0)) = false := by
  decide +kernel

/-- A port frame of 17 words. -/
def frame17 : PortFrame :=
  { words := List.replicate 17 0, bits := 0, period := 0, parityErr0 := false, parityErr1 := false, preambleErr := false, invalid0 := false,
    invalid1 := false, dspReads := 0 }

/-- A calibration result. -/
def cal0 : CalResult := { input := 0, ofs0 := 0, ofs1 := 0, gain0 := 0, gain1 := 0, trim := 0, agree0 := true, agree1 := true }

theorem test_wf_refuses_long_lists :
    Instr.wf (.portRxFrame 0 frame17) = false ∧
    Instr.wf (.laneEvaluate (List.replicate 257 (0, .clampStage))) = false ∧
    Instr.wf (.senseCalDone (List.replicate 33 cal0)) = false ∧
    Instr.wf (.stbyLineCheck (List.replicate 17 (0, 0))) = false ∧
    Instr.wf (.jtagUnlockMailbox (.challenge [])) = false ∧ Instr.wf (.jtagUnlockMailbox (.response [])) = false ∧
    Instr.wf (.jtagUnlockMailbox (.unlockPw (List.replicate 9 0))) = false := by
  decide +kernel

/-- A DC measurement for the two checks on how many a diagnostic gives. -/
def dc0 : DcMeas :=
  { chan := 0, pGnd := false, pSup := false, nGnd := false, nSup := false, dv := 0, di := 0, limit := false, spread := 0,
    dvPartner := 0 }

/-- A ring frame with 65 slots in one pass. -/
def frame65 (second : Bool) : RingFrame :=
  { header := { j := 0, pos := 0, acc := 0, rlen := 0, ctrl := 0, align := 0, crc := 0 },
    first := if second then [] else List.replicate 65 0, firstCrc := 0,
    second := if second then List.replicate 65 0 else [], secondCrc := 0 }

theorem test_wf_refuses_frames :
    Instr.wf (.ringFrameRx (frame65 false) 0 0) = false ∧ Instr.wf (.ringFrameRx (frame65 true) 0 0) = false ∧
    Instr.wf (.ringFrameReturn (frame65 false) 0 0) = false ∧ Instr.wf (.quickCheckDone 0 [dc0, dc0, dc0]) = false ∧
    Instr.wf (.bootDcDiagDone (List.replicate 17 dc0)) = false := by
  decide +kernel

/-! ### Worked examples of the spec -/

/-- Two coefficients in Q4.27 (spec/00_scope.md, the example after R4). -/
theorem test_q4_27_codes : ofSigned 32 (3 * 2 ^ 26) = 0x0C000000 ∧ ofSigned 32 (-(2 ^ 25)) = 0xFE000000 := by decide

/-- Uniform interleave at 384 kHz, three-level (spec/07_output_stage.md, the example after R184). -/
theorem test_carrier_phases :
    let set (s : State) (d : Nat) : State :=
      ((s.wr (F.MOD_DIEd_CFG_CARRIER d) 1).wr (F.MOD_DIEd_CFG_INTERLEAVE d) 1).wr (F.MOD_DIEd_CFG_LEVELS d) 1
    [0, 8, 5, 15].map (set (set State.reset 0) 1).carrierPhase = [0, 40, 400, 600] := by
  decide +kernel

/-- Three detections in region 5 of VC1 (spec/17_fault_collection.md, the example after R397): transient, recurring, then lasting
in the closing window at its rollover, logged with count 3. -/
theorem test_classification_at_rollover :
    (countEvent Counter.zero false 2 3 false).2.1 = some (0, 1) ∧
    (countEvent { Counter.zero with n := 1 } false 2 3 false).2.1 = some (1, 2) ∧
    (countEvent { Counter.zero with prevN := 2 } true 2 3 false).2.1 = some (2, 3) := by
  decide

/-- Two mistyped passwords (spec/20_security_debug.md, the example after R458), and the longest lockout (R457). -/
theorem test_lockout_seconds : [1, 2, 11, 31].map lockoutSeconds = [1, 2, 1024, 1024] := by decide

/-- A master gain of 0.5 in Q4.27 lies inside the veneer's range, -1.5 does not (spec/02_configuration_boot.md, the example after
R64). -/
theorem test_q4_27_range : toSigned 32 0x04000000 ≤ toSigned 32 0x08000000 ∧ toSigned 32 0xF4000000 < toSigned 32 0xF8000000 := by
  decide

/-- SHA-256 of "abc" (the example of FIPS 180-4) and HMAC-SHA-256 of "Hi There" (case 1 of RFC 4231). -/
theorem test_sha256 :
    ofBe (sha256 [0x61, 0x62, 0x63]) = 0xBA7816BF8F01CFEA414140DE5DAE2223B00361A396177A9CB410FF61F20015AD ∧
    ofBe (hmacSha256 (List.replicate 20 0x0B) [0x48, 0x69, 0x20, 0x54, 0x68, 0x65, 0x72, 0x65]) =
      0xB0344C61D8DB38535CA8AFCEAF0BF12B881DC200C9833DA726E9376C2E32CFF7 := by
  decide +kernel

/-! ### Reset -/

theorem reset_inv : State.reset.Inv := ⟨⟨rfl, rfl⟩, by constructor <;> decide⟩

/-- The table gives no command bits: no word spells one, and the state stays. -/
theorem test_no_table_word : decodeTableWord 32 0xFFFFFFFF = none ∧ State.reset.withFetchWord 32 0 = State.reset := ⟨rfl, rfl⟩

/-! ### Hypotheses of the statements are met -/

theorem witness_FrontCommandRuns : (∃ (c : Instr) (rest : List Instr) (s : State), s.pending = c :: rest) :=
  ⟨.portStart 0, [], { State.reset with pending := [.portStart 0] }, rfl⟩

theorem witness_EmptyQueueLetsTimePass : (∃ s : State, s.pending = []) := ⟨State.reset, rfl⟩

theorem witness_StepKeepsInvariant : (∃ s t : State, s.Inv ∧ step s = .next t) :=
  ⟨{ State.reset with pending := [.portArm 0] }, _, ⟨⟨rfl, rfl⟩, by constructor <;> decide⟩, rfl⟩

theorem witness_FusesNeverFall : (∃ (c : Instr) (s t : State), exec c s = .next t ∧ s.otp.minSv < t.otp.minSv) :=
  ⟨.svRaised, { sHost with sec := { SecSt.reset with svValue := some 5 } }, _, rfl, by decide +kernel⟩

theorem witness_ResetValues : (∃ (a : Nat) (g : RegGroup), findReg a = some g) :=
  ⟨A.SYS_IDENT, (findReg A.SYS_IDENT).get (by decide +kernel), by decide +kernel⟩

theorem witness_ClaimTakesHighestPriority : (∃ (s : State) (n : Nat), n < 129 ∧ s.src n = .pending ∧ (∃ m, m ≠ n ∧ s.src m = .pending ∧ s.srcPrio m = s.srcPrio n) ∧
    (∀ m, m < 129 → s.src m = .pending → s.srcPrio m ≤ s.srcPrio n ∧ (s.srcPrio m = s.srcPrio n → n ≤ m))) ∧
    (∃ s : State, ∀ m, m < 129 → s.src m ≠ .pending) ∧
    (∃ (e : ReadEnd) (s : State), s.hostUp = true ∧ s.hostBusy = false ∧ (e = .noPec ∨ e = .withPec)) :=
  ⟨⟨(State.reset.setSrc 7 .pending).setSrc 3 .pending, 3, by decide, by decide +kernel, ⟨7, by decide, by decide +kernel, by decide +kernel⟩,
    by decide +kernel⟩, ⟨State.reset, by decide +kernel⟩, ⟨.withPec, sHost, by decide +kernel, by decide +kernel, Or.inr rfl⟩⟩

theorem witness_SourceCounters : (∃ (n : Fin 129) (s : State), n.val < 128 ∧ s.sys.dieHeld = false ∧ s.sourceLevel n = true ∧ s.rawLevel n = false ∧
      s.srcEn n = false ∧ s.rd (F.INTC_CNTs_COUNT n) = 255) ∧
    (∃ (n : Byte) (e : WriteEnd) (s : State), n.toNat < 128 ∧ s.hostUp = true ∧ s.hostBusy = false ∧
      (e = .pec (s.writePec [0x31, n]) ∨ (e = .noPec ∧ s.on F.HBUS_CFG_PEC_REQ = false)) ∧ s.src n.toNat = .claimed ∧ s.sourceLevel n.toNat = true) ∧
    (∃ n : Nat, n < 128) :=
  ⟨⟨7, (((sUp.wr ⟨A.FCOL_EVENT, 7, 1⟩ 1).wr ⟨A.FCOL_IRQEN, 7, 1⟩ 1).wr (F.INTC_CNTs_COUNT 7) 255), by decide, by decide +kernel,
      by decide +kernel, by decide +kernel, by decide +kernel, by decide +kernel⟩,
    ⟨7, .noPec, ((sHost.wr ⟨A.FCOL_EVENT, 7, 1⟩ 1).wr ⟨A.FCOL_IRQEN, 7, 1⟩ 1).setSrc 7 .claimed, by decide, by decide +kernel,
      by decide +kernel, Or.inr ⟨rfl, by decide +kernel⟩, by decide +kernel, by decide +kernel⟩,
    ⟨127, by decide⟩⟩

theorem witness_ReservedAndFreeReadZero : (∃ (a i : Nat) (g : RegGroup), i < 32 ∧ findReg a = some g ∧ ∀ f ∈ g.fields, i < f.lo ∨ f.lo + f.w ≤ i) ∧
    (∃ (s : State) (a : Nat), 0x10000 ≤ a ∧ a < 0x120000 ∧ findReg a = none ∧ s.islandStopped a = false) :=
  ⟨⟨A.SYS_RSTCAUSE, 1, (findReg A.SYS_RSTCAUSE).get (by decide +kernel), by decide, by decide +kernel, by decide +kernel⟩,
    ⟨State.reset, 0x11FFFC, by decide, by decide, by decide +kernel, by decide +kernel⟩⟩

theorem witness_RefusedWindowAccess : (∃ (s : State) (a : Nat), (inSram a = true ∨ inDram a = true) ∧ ¬ ((0x207EE000 ≤ a ∧ a < 0x20800000) ∨ s.debugOpen = true)) ∧
    (∃ (s : State) (a : Nat), (inSram a = true ∨ inDram a = true) ∧ ¬ ((0x207EF000 ≤ a ∧ a < 0x207FF000) ∨ (s.debugOpen = true ∧
      (s.boot.state = bootRomDefaults ∨ (inSram a = true ∧ s.boot.state = bootDryfitDone))))) ∧
    (∃ (s : State) (a : Nat), (inSram a = true ∨ inDram a = true) ∧ ((0x207EE000 ≤ a ∧ a < 0x20800000) ∨ s.debugOpen = true)) ∧
    (∃ (s : State) (a : Nat), (inSram a = true ∨ inDram a = true) ∧ ((0x207EF000 ≤ a ∧ a < 0x207FF000) ∨ (s.debugOpen = true ∧
      (s.boot.state = bootRomDefaults ∨ (inSram a = true ∧ s.boot.state = bootDryfitDone))))) :=
  ⟨⟨State.reset, 0x207EDFFF, by decide, by decide +kernel⟩, ⟨State.reset, 0x207FF000, by decide, by decide +kernel⟩,
    ⟨State.reset, 0x207EE000, by decide, Or.inl (by decide)⟩, ⟨State.reset, 0x207EF000, by decide, Or.inl (by decide)⟩⟩

theorem witness_AccessTypes : (∃ (a : Nat) (g : RegGroup) (f : FieldDesc), findReg a = some g ∧ f ∈ g.fields ∧ f.acc = .w1c ∧ a ≠ A.SEC_LOCKSTAT ∧ a ≠ A.SEC_EVENT) :=
  ⟨A.SYS_RSTCAUSE, (findReg A.SYS_RSTCAUSE).get (by decide +kernel), ⟨0, 1, .w1c, 1, false⟩, by decide +kernel, by decide +kernel, rfl,
    by decide, by decide⟩

theorem witness_BootLockHoldsFields : (∃ (s : State) (a : Nat) (v : BitVec 32) (g : RegGroup), s.bootLocked = true ∧ findReg a = some g ∧ (∃ f ∈ g.fields, f.acc = .rwb) ∧
      (∃ f ∈ g.fields, f.acc = .rwb ∧ getField v f.lo f.w ≠ getField (s.reg a) f.lo f.w)) ∧
    (∃ (s : State) (a : Nat) (v v' : BitVec 32) (g : RegGroup), s.bootLocked = true ∧ findReg a = some g ∧ (∃ f ∈ g.fields, f.acc = .rwb) ∧
      (∀ f ∈ g.fields, f.acc = .rwb → getField v f.lo f.w = getField (s.reg a) f.lo f.w) ∧
      (∀ f ∈ g.fields, f.acc ≠ .rwb → getField v' f.lo f.w = getField v f.lo f.w)) :=
  ⟨⟨State.reset.wr F.SEC_LOCKSTAT_LOCKED 1, A.GUARD_OUTo_XCLAMP 3, 0, (findReg (A.GUARD_OUTo_XCLAMP 3)).get (by decide +kernel),
      by decide +kernel, by decide +kernel, by decide +kernel, by decide +kernel⟩,
    ⟨State.reset.wr F.SEC_LOCKSTAT_LOCKED 1, A.GUARD_OUTo_XCLAMP 3, 0x140000, 0, (findReg (A.GUARD_OUTo_XCLAMP 3)).get (by decide +kernel),
      by decide +kernel, by decide +kernel, by decide +kernel, by decide +kernel, by decide +kernel⟩⟩

theorem witness_WindowReadsBack : (∃ a : Nat, (inSram a = true ∨ inDram a = true) ∧ a % 4 = 0) := ⟨0x207FFFFC, by decide, by decide⟩

theorem witness_LowestNumberedRuleApplies : (∃ (s : State) (e : Evt), s.sys.dieHeld = false ∧ e.jig = false ∧ s.evtMasked e = false ∧ s.fcol.normal.length < 32 ∧
      s.fcol.prio.length < 4) :=
  ⟨sUp, { id := faultId 5 3 1, detail := 0, lasting := false, jig := false }, by decide +kernel, rfl, by decide +kernel, by decide, by decide⟩

theorem witness_SentBiscuitsAreWellFormed : (∃ s : State, let w := (List.range 4).flatMap (fun k => leBytes 4 (s.reg (A.TRING_BTXk k)).toNat)
      s.ring.txq.length < 8 ∧ (u8 w 0 = 3 ∨ u8 w 0 = 4 ∨ 128 ≤ u8 w 0) ∧ u16 w 2 ≠ 0) ∧
    (∃ s : State, let w := (List.range 4).flatMap (fun k => leBytes 4 (s.reg (A.TRING_BTXk k)).toNat)
      ¬ (s.ring.txq.length < 8 ∧ (u8 w 0 = 3 ∨ u8 w 0 = 4 ∨ 128 ≤ u8 w 0) ∧ u16 w 2 ≠ 0)) :=
  ⟨⟨State.reset.setReg (A.TRING_BTXk 0) 0x00010080, by decide +kernel⟩, ⟨State.reset, by decide +kernel⟩⟩

theorem witness_FailedAttemptsLockOut : (∃ (s : State) (a : Attempt), s.sec.attempt = some a ∧ s.attemptMatches a = false ∧ s.rd F.SEC_ATTEMPT_FAILS = 31) ∧
    (∃ s : State, s.sys.dieHeld = false ∧ s.sec.attempt = none ∧ s.debugOpen = false ∧ s.otp.lifecycle = 1 ∧ s.otp.pwEn = true ∧
      s.now < s.sec.lockUntil ∧ s.rd F.SEC_ATTEMPT_FAILS < 32) :=
  ⟨⟨{ State.reset.wr F.SEC_ATTEMPT_FAILS 31 with sec := { SecSt.reset with attempt := some (.response [] none) } }, .response [] none, rfl, rfl,
      by decide +kernel⟩,
    ⟨{ sUp with otp := { Otp.reset with pwEn := true }, sec := { SecSt.reset with lockUntil := 1 } }, by decide +kernel, rfl, by decide +kernel,
      rfl, rfl, by decide, by decide +kernel⟩⟩

theorem witness_PortCommands :
    (∃ (n : Fin 4) (s : State), (s.pState n = pOff ∨ s.pState n = pHalted)) ∧
    (∃ (n : Fin 4) (s : State), s.pState n = pStopping) ∧
    (∃ (n : Fin 4) (s : State), (s.pState n = pOff ∨ s.pState n = pHalted)) ∧
    (∃ (n : Fin 4) (s : State), (s.pState n = pArmed ∨ s.pState n = pStarting ∨ s.pState n = pRunning ∨ s.pState n =
      pFaultWait ∨ s.pState n = pRestarting)) ∧
    (∃ (n : Fin 4) (s : State), s.pState n = pArmed ∧ (s.port n).queued = none) ∧
    (∃ (n : Fin 4) (s : State), (s.pState n = pStarting ∨ s.pState n = pRunning)) ∧
    (∃ (n : Fin 4) (s : State), (s.pState n = pArmed ∨ s.pState n = pFaultWait ∨ s.pState n = pRestarting ∨ s.pState n =
      pHalted)) ∧
    (∃ (n : Fin 4) (s : State), (s.pState n = pStarting ∨ s.pState n = pRunning)) :=
  ⟨⟨3, State.reset, Or.inl (by decide +kernel)⟩,
    ⟨0, State.reset.wr (F.PORTn_STAT_STATE 0) 4, by decide +kernel⟩,
    ⟨3, State.reset, Or.inl (by decide +kernel)⟩,
    ⟨1, State.reset.wr (F.PORTn_STAT_STATE 1) 6, by decide +kernel⟩,
    ⟨0, State.reset.wr (F.PORTn_STAT_STATE 0) 1, by decide +kernel, by decide +kernel⟩,
    ⟨2, State.reset.wr (F.PORTn_STAT_STATE 2) 3, Or.inr (by decide +kernel)⟩,
    ⟨2, State.reset.wr (F.PORTn_STAT_STATE 2) 7, by decide +kernel⟩,
    ⟨2, State.reset.wr (F.PORTn_STAT_STATE 2) 2, Or.inl (by decide +kernel)⟩⟩

theorem witness_PortConfiguration :
    (∃ (n : Fin 4) (v : Word) (s : State), s.pState n = pOff ∧ portCfgOk n v = true) ∧
    (∃ (n : Fin 4) (v : Word) (s : State), (s.pState n ≠ pOff ∨ portCfgOk n v = false)) ∧
    (∃ (n : Fin 4) (k : Fin 4) (v : Word) (s : State), mapTouchesActive (s.reg (A.PORTn_TXMAPk n k)) v (s.rd
      (F.PORTn_SLOTMASK_ACT_TX n)) k = false) ∧
    (∃ (n : Fin 4) (k : Fin 4) (v : Word) (s : State), mapTouchesActive (s.reg (A.PORTn_RXMAPk n k)) v (s.rxFast n) k = false
      ∧ s.rxDuplicate (A.PORTn_RXMAPk n k) v = false) ∧
    (∃ (n : Fin 4) (tx : Bool) (k : Fin 4) (v : Word) (s : State), mapTouchesActive (s.reg (if tx then A.PORTn_TXMAPk n k else
      A.PORTn_RXMAPk n k)) v (if tx then s.rd (F.PORTn_SLOTMASK_ACT_TX n) else s.rxFast n) k = true) ∧
    (∃ (n : Fin 4) (s : State), (s.port n).maskPending = true ∧ (s.port n).maskDefer = false ∧ (s.pState n = pStarting ∨
      s.pState n = pStopping)) ∧
    (∃ (n : Fin 4) (s : State), (s.pState n = pOff ∨ s.pState n = pArmed)) ∧
    (∃ (s : State), s.rd F.PORT_GSTART_SRC = 0 ∧ s.on F.TRING_CFG_START_TX = false) ∧
    (∃ (s : State), s.sys.dieHeld = false ∧ s.rd F.PORT_GSTART_SRC = 1 ∧ s.on F.TRING_CFG_SYNC_TX = false ∧ s.on
      F.DECIM_SYNC_PIN_EN = false) :=
  ⟨⟨3, 0x27801, State.reset, by decide +kernel, by decide +kernel⟩,
    ⟨0, 0, State.reset.wr (F.PORTn_STAT_STATE 0) 1, Or.inl (by decide +kernel)⟩,
    ⟨3, 3, 0x83828180, State.reset, by decide +kernel⟩,
    ⟨0, 1, 0x00000080, State.reset, by decide +kernel, by decide +kernel⟩,
    ⟨0, true, 0, 0x80, State.reset.wr (F.PORTn_SLOTMASK_ACT_TX 0) 1, by decide +kernel⟩,
    ⟨1, (State.reset.wr (F.PORTn_STAT_STATE 1) 2).setPort 1 { PortSt.reset with maskPending := true }, by decide +kernel, by
      decide +kernel, by decide +kernel⟩,
    ⟨1, State.reset.setPort 1 { PortSt.reset with maskPending := true }, by decide +kernel⟩,
    ⟨State.reset, by decide +kernel, by decide +kernel⟩,
    ⟨({ State.reset with sys := { SysSt.reset with dieHeld := false } }).wr F.PORT_GSTART_SRC 1, by decide +kernel, by
      decide +kernel, by decide +kernel, by decide +kernel⟩⟩

theorem witness_PortRunning :
    (∃ (n : Fin 4) (f : Nat) (s : State), (s.port n).startAt = some f ∧ (s.port n).maskPending = false) ∧
    (∃ (n : Fin 4) (s : State), s.pState n = pStarting ∧ s.portReady n = true) ∧
    (∃ (n : Fin 4) (s : State), s.pState n = pStarting ∧ s.portMaster n = false ∧ (s.port n).frameSeen = false) ∧
    (∃ (n : Fin 4) (s : State), s.pState n = pStopping ∧ s.portDrained n = true) ∧
    (∃ (n : Fin 4) (s : State), s.pState n = pFaultWait ∧ (s.portPol n).resumeFrames ≤ (s.port n).cleanRun ∧ (s.portPol
      n).clockAction ≠ 1 ∧ (s.portAuto n).2 = false) ∧
    (∃ (n : Fin 4) (s : State), s.pState n = pFaultWait ∧ (s.portPol n).resumeFrames ≤ (s.port n).cleanRun ∧ (s.portPol
      n).clockAction = 1) ∧
    (∃ (n : Fin 4) (s : State), s.pState n = pRestarting ∧ (s.port n).restart = .ramping) :=
  ⟨⟨3, 2, State.reset.setPort 3 { PortSt.reset with startAt := some 2 }, by decide +kernel, by decide +kernel⟩,
    ⟨0, ((State.reset.wr (F.PORTn_STAT_STATE 0) 2).wr (F.PORTn_CFG_MASTER 0) 1), by decide +kernel, by decide +kernel⟩,
    ⟨0, State.reset.wr (F.PORTn_STAT_STATE 0) 2, by decide +kernel, by decide +kernel, by decide +kernel⟩,
    ⟨3, State.reset.wr (F.PORTn_STAT_STATE 3) 4, by decide +kernel, by decide +kernel⟩,
    ⟨0, (State.reset.wr (F.PORTn_STAT_STATE 0) 5).setPort 0 { PortSt.reset with cleanRun := 64 }, by decide +kernel, by
      decide +kernel, by decide +kernel, by decide +kernel⟩,
    ⟨2, { (State.reset.wr (F.PORTn_STAT_STATE 2) 5).setPort 2 { PortSt.reset with cleanRun := 64 } with boot := { BootSt.reset with policy := [{ id := 5,
                                                                                                                                                 entries := [[2, 0, 1, 4, 0, 0, 10, 0, 64, 0, 0, 0, 0, 0, 0, 0]] }] } },
      by decide +kernel, by decide +kernel, by decide +kernel⟩,
    ⟨2, (State.reset.wr (F.PORTn_STAT_STATE 2) 6).setPort 2 { PortSt.reset with restart := .ramping }, by decide +kernel, by
      decide +kernel⟩⟩

theorem witness_PortFramesAndFaults :
    (∃ (n : Fin 4) (f : PortFrame) (s : State), s.pState n = pRunning ∧ s.isGlitch n f = false) ∧
    (∃ (n : Fin 4) (f : PortFrame) (s : State), s.pState n = pRunning ∧ s.isGlitch n f = true) ∧
    (∃ (n : Fin 4) (s : State), s.portForeign n = true ∧ 6 ≤ (s.port n).rxFifo.length) ∧
    (∃ (n : Fin 4) (s : State), s.portForeign n = true ∧ (s.port n).rxFifo.length ≤ 2) ∧
    (∃ (n : Fin 4) (s : State), s.portForeign n = true ∧ 6 ≤ (s.port n).txFifo.length) ∧
    (∃ (n : Fin 4) (s : State), s.portMaster n = false ∧ s.portWatched n = true ∧ n.val ≠ 3) ∧
    (∃ (n : Fin 4) (s : State), s.portMaster n = false ∧ s.portWatched n = false ∧ n.val ≠ 3) ∧
    (∃ (n : Fin 4) (period : BitVec 24) (s : State), periodWithin period.toNat (faHz (s.rd (F.PORTn_CFG_FA n))) 1000 = false ∧
      (s.wr (F.PORTn_STAT_RATE_OK n) 0).portWatched n = true) ∧
    (∃ (n : Fin 4) (s : State), (s.port n).faultRamp = false ∧ s.rd (F.PORTn_CFG_MODE n) ≠ 1) ∧
    (∃ (s : State), s.rd (F.PORTn_CFG_MODE 3) = 3 ∧ s.on F.PORT3_IEC_CFG_DIR = false) ∧
    (∃ (csA : BitVec 192) (s : State), (s.port 3).csPrev = some csA ∧ s.csBits (A.PORT3_CS_RXk 0) ≠ csA) :=
  ⟨⟨0, { bits := State.reset.frameBits 0, period := 0, words := [], dspReads := 0, parityErr0 := false, parityErr1 := false,
          preambleErr := false, invalid0 := false, invalid1 := false }, State.reset.wr (F.PORTn_STAT_STATE 0) 3, by
      decide +kernel, by decide +kernel⟩,
    ⟨0, { bits := State.reset.frameBits 0 + 1, period := 0, words := [], dspReads := 0, parityErr0 := false, parityErr1 := false,
          preambleErr := false, invalid0 := false, invalid1 := false }, State.reset.wr (F.PORTn_STAT_STATE 0) 3, by
      decide +kernel, by decide +kernel⟩,
    ⟨0, State.reset.setPort 0 { PortSt.reset with rxFifo := List.replicate 6 [] }, by decide +kernel, by decide +kernel⟩,
    ⟨0, State.reset.setPort 0 { PortSt.reset with rxFifo := List.replicate 2 [] }, by decide +kernel, by decide +kernel⟩,
    ⟨3, State.reset.setPort 3 { PortSt.reset with txFifo := List.replicate 6 [] }, by decide +kernel, by decide +kernel⟩,
    ⟨2, State.reset.wr (F.PORTn_STAT_STATE 2) 3, by decide +kernel, by decide +kernel, by decide +kernel⟩,
    ⟨2, State.reset, by decide +kernel, by decide +kernel, by decide +kernel⟩,
    ⟨0, 0, State.reset.wr (F.PORTn_STAT_STATE 0) 3, by decide +kernel, by decide +kernel⟩,
    ⟨3, State.reset, by decide +kernel, by decide +kernel⟩,
    ⟨State.reset.wr (F.PORTn_CFG_MODE 3) 3, by decide +kernel, by decide +kernel⟩,
    ⟨1, State.reset.setPort 3 { PortSt.reset with csPrev := some 1 }, by decide +kernel, by decide +kernel⟩⟩

theorem witness_RingEmission :
    (∃ (s : State), s.ringUp = true ∧ s.ring.candidate = false ∧ s.ringMaster = true ∧ s.ringState ≠ rOff ∧ s.ringState ≠
      rHalted) ∧
    (∃ (s : State), s.ringUp = true ∧ s.ring.candidate = true) ∧
    (∃ (s : State), s.ringUp = true ∧ s.ring.candidate = false ∧ s.ringMaster = false ∧ s.ring.breakHead = true ∧ s.ringState
      ≠ rOff ∧ s.ringState ≠ rHalted) ∧
    (∃ (s : State), (s.ringUp = false ∨ (s.ring.candidate = false ∧ (s.ringState = rOff ∨ s.ringState = rHalted ∨
      (s.ringMaster = false ∧ s.ring.breakHead = false))))) :=
  ⟨⟨((({ State.reset with sys := { SysSt.reset with dieHeld := false } }.wr F.TRING_STAT_STATE 4).wr F.TRING_STAT_MASTER
      1).wr F.TRING_CFG_ALIGN 32), by decide +kernel, by decide +kernel, by decide +kernel, by decide +kernel, by
      decide +kernel⟩,
    ⟨{ State.reset with sys := { SysSt.reset with dieHeld := false }, ring := { RingSt.reset with candidate := true } }, by
      decide +kernel, by decide +kernel⟩,
    ⟨{ State.reset.wr F.TRING_STAT_STATE 5 with sys := { SysSt.reset with dieHeld := false }, ring := { RingSt.reset with breakHead := true } },
      by decide +kernel, by decide +kernel, by decide +kernel, by decide +kernel, by decide +kernel, by decide +kernel⟩,
    ⟨State.reset, Or.inl (by decide +kernel)⟩⟩

theorem witness_RingReception :
    (∃ (f : RingFrame) (s : State), s.ringUp = true ∧ s.ringState ≠ rOff ∧ s.ringState ≠ rHalted ∧ ringHdrOk f.header = true ∧
      ringHdrElect f.header = true ∧ (s.rd F.TRING_CFG_ROLE = 1 ∨ s.ringMaster = true)) ∧
    (∃ (f : RingFrame) (s : State), s.ringUp = true ∧ s.ringState ≠ rOff ∧ s.ringState ≠ rHalted ∧ ringHdrOk f.header = true ∧
      ringHdrElect f.header = true ∧ s.rd F.TRING_CFG_ROLE ≠ 1 ∧ s.ringMaster = false ∧ s.ring.candidate = false) ∧
    (∃ (f : RingFrame) (s : State), s.ringUp = true ∧ s.ringState ≠ rOff ∧ s.ringState ≠ rHalted ∧ ringHdrOk f.header = true ∧
      ringHdrElect f.header = true ∧ s.rd F.TRING_CFG_ROLE ≠ 1 ∧ s.ringMaster = false ∧ s.ring.candidate = true) ∧
    (∃ (f : RingFrame) (s : State), s.ringUp = true ∧ s.ringState ≠ rOff ∧ s.ringState ≠ rHalted ∧ ringHdrOk f.header = true ∧
      ringHdrElect f.header = false ∧ s.ringMaster = false ∧ s.ring.candidate = false) ∧
    (∃ (f : RingFrame) (s : State), s.ringUp = true ∧ s.ringState ≠ rOff ∧ s.ringState ≠ rHalted ∧ ringHdrOk f.header = false
      ∧ s.ringMaster = false ∧ s.ring.candidate = false) ∧
    (∃ (f : RingFrame) (s : State), s.ringUp = true ∧ s.ringState ≠ rOff ∧ s.ringState ≠ rHalted ∧ ringHdrOk f.header = true ∧
      ringHdrElect f.header = false ∧ f.header.ctrl.getLsbD 3 = false ∧ s.ringMaster = false ∧ s.ring.candidate = true) ∧
    (∃ (f : RingFrame) (s : State), s.ringUp = true ∧ s.ringState ≠ rOff ∧ s.ringState ≠ rHalted ∧ (ringHdrOk f.header &&
      ringHdrElect f.header) = false ∧ s.ringMaster = true) ∧
    (∃ (s : State), (s.ringUp = false ∨ s.ringState = rOff ∨ s.ringState = rHalted)) :=
  ⟨⟨{ header := ringHdrSealed { j := 1, pos := 0, acc := 0, rlen := 0, ctrl := 4, align := 0, crc := 0 }, first := [],
       firstCrc := 0, second := [], secondCrc := 0 }, { (State.reset.wr F.TRING_STAT_STATE 2).wr F.TRING_CFG_ROLE 1 with sys := { SysSt.reset with dieHeld := false } },
      by decide +kernel, by decide +kernel, by decide +kernel, by decide +kernel, by decide +kernel, Or.inl (by
      decide +kernel)⟩,
    ⟨{ header := ringHdrSealed { j := 1, pos := 0, acc := 0, rlen := 0, ctrl := 4, align := 0, crc := 0 }, first := [],
       firstCrc := 0, second := [], secondCrc := 0 }, { State.reset.wr F.TRING_STAT_STATE 2 with sys := { SysSt.reset with dieHeld := false } },
      by decide +kernel, by decide +kernel, by decide +kernel, by decide +kernel, by decide +kernel, by decide +kernel, by
      decide +kernel, by decide +kernel⟩,
    ⟨{ header := ringHdrSealed { j := 1, pos := 0, acc := 0, rlen := 0, ctrl := 4, align := 0, crc := 0 }, first := [],
       firstCrc := 0, second := [], secondCrc := 0 }, { State.reset.wr F.TRING_STAT_STATE 2 with sys := { SysSt.reset with dieHeld := false },
                                                                                                 ring := { RingSt.reset with candidate := true } },
      by decide +kernel, by decide +kernel, by decide +kernel, by decide +kernel, by decide +kernel, by decide +kernel, by
      decide +kernel, by decide +kernel⟩,
    ⟨{ header := ringHdrSealed { j := 1, pos := 0, acc := 0, rlen := 0, ctrl := 0, align := 0, crc := 0 }, first := [],
       firstCrc := 0, second := [], secondCrc := 0 }, { State.reset.wr F.TRING_STAT_STATE 1 with sys := { SysSt.reset with dieHeld := false } },
      by decide +kernel, by decide +kernel, by decide +kernel, by decide +kernel, by decide +kernel, by decide +kernel, by
      decide +kernel⟩,
    ⟨{ header := { j := 1, pos := 0, acc := 0, rlen := 0, ctrl := 4, align := 0, crc := 0 }, first := [], firstCrc := 0,
       second := [], secondCrc := 0 }, { State.reset.wr F.TRING_STAT_STATE 1 with sys := { SysSt.reset with dieHeld := false } },
      by decide +kernel, by decide +kernel, by decide +kernel, by decide +kernel, by decide +kernel, by decide +kernel⟩,
    ⟨{ header := ringHdrSealed { j := 1, pos := 0, acc := 0, rlen := 0, ctrl := 0, align := 0, crc := 0 }, first := [],
       firstCrc := 0, second := [], secondCrc := 0 }, { State.reset.wr F.TRING_STAT_STATE 2 with sys := { SysSt.reset with dieHeld := false },
                                                                                                 ring := { RingSt.reset with candidate := true } },
      by decide +kernel, by decide +kernel, by decide +kernel, by decide +kernel, by decide +kernel, by decide +kernel, by
      decide +kernel, by decide +kernel⟩,
    ⟨{ header := ringHdrSealed { j := 7, pos := 0, acc := 0, rlen := 3, ctrl := 0, align := 0, crc := 0 }, first := [],
       firstCrc := 0, second := [], secondCrc := 0 }, { (State.reset.wr F.TRING_STAT_STATE 4).wr F.TRING_STAT_MASTER 1 with sys := { SysSt.reset with dieHeld := false } },
      by decide +kernel, by decide +kernel, by decide +kernel, by decide +kernel, by decide +kernel⟩,
    ⟨State.reset, Or.inl (by decide +kernel)⟩⟩

theorem witness_RingReturnsAndBreaks :
    (∃ (f : RingFrame) (s : State), s.ringUp = true ∧ s.ringMaster = true ∧ s.ringState ≠ rOff ∧ s.ringState ≠ rHalted ∧
      ringHdrOk f.header = true ∧ s.ring.emitted.contains f.header.j.toNat = true ∧ f.header.ctrl.getLsbD 3 = false) ∧
    (∃ (s : State), s.ringUp = true ∧ s.ringMaster = true ∧ s.ringState ≠ rOff ∧ s.ringState ≠ rHalted) ∧
    (∃ (s : State), s.ringUp = true ∧ s.ringMaster = true ∧ s.ringState ≠ rOff ∧ s.ringState ≠ rHalted) ∧
    (∃ (s : State), s.ringUp = true ∧ s.ringMaster = false ∧ s.ringState ≠ rOff ∧ s.ringState ≠ rHalted) ∧
    (∃ (s : State), s.ringUp = true ∧ s.ringResume ≤ s.ring.cleanRun ∧ s.ringMaster = true ∧ s.ringState = rDegraded) ∧
    (∃ (s : State), s.ringUp = true ∧ s.ringResume ≤ s.ring.cleanRun ∧ s.ringMaster = false ∧ s.ring.breakHead = true ∧
      s.ringState = rDegraded) ∧
    (∃ (s : State), s.ring.cleanRun < s.ringResume) :=
  ⟨⟨{ header := ringHdrSealed { j := 7, pos := 0, acc := 0, rlen := 3, ctrl := 0, align := 0, crc := 0 }, first := [],
       firstCrc := 0, second := [], secondCrc := 0 }, { (State.reset.wr F.TRING_STAT_STATE 4).wr F.TRING_STAT_MASTER 1 with sys := { SysSt.reset with dieHeld := false },
                                                                                                                            ring := { RingSt.reset with emitted := [7] } },
      by decide +kernel, by decide +kernel, by decide +kernel, by decide +kernel, by decide +kernel, by decide +kernel, by
      decide +kernel⟩,
    ⟨{ (State.reset.wr F.TRING_STAT_STATE 4).wr F.TRING_STAT_MASTER 1 with sys := { SysSt.reset with dieHeld := false } }, by
      decide +kernel, by decide +kernel, by decide +kernel, by decide +kernel⟩,
    ⟨{ (State.reset.wr F.TRING_STAT_STATE 4).wr F.TRING_STAT_MASTER 1 with sys := { SysSt.reset with dieHeld := false } }, by
      decide +kernel, by decide +kernel, by decide +kernel, by decide +kernel⟩,
    ⟨{ State.reset.wr F.TRING_STAT_STATE 1 with sys := { SysSt.reset with dieHeld := false } }, by decide +kernel, by
      decide +kernel, by decide +kernel, by decide +kernel⟩,
    ⟨{ (State.reset.wr F.TRING_STAT_STATE 5).wr F.TRING_STAT_MASTER 1 with sys := { SysSt.reset with dieHeld := false }, ring := { RingSt.reset with cleanRun := 64 } },
      by decide +kernel, by decide +kernel, by decide +kernel, by decide +kernel⟩,
    ⟨{ State.reset.wr F.TRING_STAT_STATE 5 with sys := { SysSt.reset with dieHeld := false }, ring := { RingSt.reset with cleanRun := 64,
                                                                                                                          breakHead := true } },
      by decide +kernel, by decide +kernel, by decide +kernel, by decide +kernel, by decide +kernel⟩,
    ⟨State.reset, by decide +kernel⟩⟩

theorem witness_RingElectionAndControl :
    (∃ (s : State), s.ringUp = true ∧ s.rd F.TRING_CFG_ROLE = 3 ∧ s.ringMaster = false ∧ (s.ringState = rElect ∨ s.ringState =
      rLocking ∨ s.ringState = rRunning ∨ s.ringState = rDegraded)) ∧
    (∃ (s : State), s.ring.candidate = true ∧ 64 ≤ s.ring.returns) ∧
    (∃ (s : State), s.ringMaster = false) ∧
    (∃ (s : State), (s.ringState = rOff ∨ s.ringState = rPass ∨ s.ringState = rHalted) ∧ s.rd F.TRING_CFG_ROLE ≠ 0) ∧
    (∃ (s : State), s.ringMaster = true ∧ s.ringState ≠ rOff ∧ s.ringState ≠ rHalted) ∧
    (∃ (s : State), s.ringMaster = false ∧ s.ringState ≠ rOff ∧ s.ringState ≠ rHalted) ∧
    (∃ (s : State), (s.ringState = rOff ∨ s.ringState = rHalted)) ∧
    (∃ (v : Word) (s : State), (s.ringState = rOff ∨ s.ringState = rPass ∨ s.ringState = rHalted) ∧ 1 ≤ getField v 8 6 ∧
      getField v 8 6 ≤ 32) ∧
    (∃ (s : State), (s.ringState = rElect ∨ s.ringState = rLocking ∨ s.ringState = rRunning ∨ s.ringState = rDegraded)) ∧
    (∃ (tx : Bool) (k : Fin 16) (v : Word) (s : State), s.ringState ≠ rRunning ∧ s.ringState ≠ rDegraded ∧ (tx && (List.range
      4).any (fun j => decide (128 ≤ mapEntry v j) && !s.ownsSlot (4 * k.val + j))) = false ∧ (!tx && s.rxDuplicate (if tx
      then A.TRING_TXMAPk k else A.TRING_RXMAPk k) v) = false) :=
  ⟨⟨{ (State.reset.wr F.TRING_STAT_STATE 3).wr F.TRING_CFG_ROLE 3 with sys := { SysSt.reset with dieHeld := false } }, by
      decide +kernel, by decide +kernel, by decide +kernel, by decide +kernel⟩,
    ⟨{ State.reset with ring := { RingSt.reset with candidate := true, returns := 64 } }, by decide +kernel, by
      decide +kernel⟩,
    ⟨State.reset, by decide +kernel⟩,
    ⟨State.reset.wr F.TRING_CFG_ROLE 3, Or.inl (by decide +kernel), by decide +kernel⟩,
    ⟨(State.reset.wr F.TRING_STAT_MASTER 1).wr F.TRING_STAT_STATE 4, by decide +kernel, by decide +kernel, by decide +kernel⟩,
    ⟨State.reset.wr F.TRING_STAT_STATE 4, by decide +kernel, by decide +kernel, by decide +kernel⟩,
    ⟨State.reset, Or.inl (by decide +kernel)⟩,
    ⟨0x2001, State.reset, Or.inl (by decide +kernel), by decide, by decide⟩,
    ⟨State.reset.wr F.TRING_STAT_STATE 5, by decide +kernel⟩,
    ⟨false, 15, 0x80, State.reset, by decide +kernel, by decide +kernel, by decide +kernel, by decide +kernel⟩⟩

theorem witness_Biscuits :
    (∃ (bytes : List Byte) (s : State), s.ringState ≠ rOff ∧ s.ringState ≠ rHalted ∧ s.ringUp = true ∧ (slice bytes 0 16).all
      (fun x => x == 0) = false ∧ crc8 0 ((slice bytes 0 16).take 15) ≠ (slice bytes 0 16).getD 15 0) ∧
    (∃ (bytes : List Byte) (s : State), s.ringState ≠ rOff ∧ s.ringState ≠ rHalted ∧ s.ringUp = true ∧ s.busUp = true ∧ crc8 0
      ((slice bytes 0 16).take 15) = (slice bytes 0 16).getD 15 0 ∧ u16 (slice bytes 0 16) 4 ≠ s.ringPos ∧ u16 (slice bytes 0
      16) 2 = 0xFFFF ∧ (slice bytes 0 16).all (fun x => x == 0) = false) ∧
    (∃ (bytes : List Byte) (s : State), s.ringState ≠ rOff ∧ s.ringState ≠ rHalted ∧ s.ringUp = true ∧ crc8 0 ((slice bytes 0
      16).take 15) = (slice bytes 0 16).getD 15 0 ∧ (slice bytes 0 16).all (fun x => x == 0) = false ∧ u16 (slice bytes 0 16)
      4 = s.ringPos) ∧
    (∃ (bytes : List Byte) (s : State), s.ringState ≠ rOff ∧ s.ringState ≠ rHalted ∧ s.ringUp = true ∧ crc8 0 ((slice bytes 0
      16).take 15) = (slice bytes 0 16).getD 15 0 ∧ (slice bytes 0 16).all (fun x => x == 0) = false ∧ u16 (slice bytes 0 16)
      4 ≠ s.ringPos ∧ u16 (slice bytes 0 16) 2 ≠ 0xFFFF ∧ u16 (slice bytes 0 16) 2 ≤ 1) ∧
    (∃ (bytes : List Byte) (s : State), s.ringState ≠ rOff ∧ s.ringState ≠ rHalted ∧ s.ringUp = true ∧ crc8 0 ((slice bytes 0
      16).take 15) = (slice bytes 0 16).getD 15 0 ∧ (slice bytes 0 16).all (fun x => x == 0) = false ∧ u16 (slice bytes 0 16)
      4 ≠ s.ringPos ∧ u16 (slice bytes 0 16) 2 ≠ 0xFFFF ∧ 2 ≤ u16 (slice bytes 0 16) 2) ∧
    (∃ (slot : Fin 8) (b : List Byte) (rest : List (Bool × List Byte)) (s : State), s.ringUp = true ∧ s.ringState ≠ rOff ∧
      s.ringState ≠ rHalted ∧ s.ring.inserted < 2 ∧ Tbl.get [] s.ring.slots slot.val = [] ∧ (takeBiscuit (fun x => decide
      (slot.val ≠ 0) || decide (u8 x.2 0 = 1 ∨ u8 x.2 0 = 2)) s.ring.txq = some (b, rest))) ∧
    (∃ (frame : Word) (s : State), beyond (s.rd F.PORT_TBFRAME_COUNT) (frame.toNat + 2 ^ 32 - 2) = false ∧ s.rd
      F.PORT_GSTART_SRC = 2) ∧
    (∃ (frame : Word) (s : State), beyond (s.rd F.PORT_TBFRAME_COUNT) (frame.toNat + 2 ^ 32 - 2) = true) ∧
    (∃ (j : Word) (s : State), beyond s.ownerIndex (j.toNat + 2 ^ 32 - 9) = false) ∧
    (∃ (j : Word) (s : State), beyond s.ownerIndex (j.toNat + 2 ^ 32 - 9) = true) ∧
    (∃ (addr : Word) (s : State), s.busUp = true ∧ s.ringAccessRefused true addr.toNat = true) ∧
    (∃ (addr : Word) (s : State), s.busUp = true ∧ s.ringAccessRefused true addr.toNat = false) ∧
    (∃ (addr : Word) (s : State), s.busUp = true ∧ s.ringAccessRefused false addr.toNat = true) ∧
    (∃ (addr : Word) (s : State), s.busUp = true ∧ s.ringAccessRefused false addr.toNat = false) ∧
    (∃ (s : State), s.ring.rxq.length < 16) ∧
    (∃ (s : State), s.ring.rxq.length < 16) ∧
    (∃ (s : State), 16 ≤ s.ring.rxq.length) ∧
    (∃ (b : List Byte) (s : State), b = (List.range 4).flatMap (fun k => leBytes 4 (s.reg (A.TRING_BTXk k)).toNat) ∧
      s.ring.txq.length < 8 ∧ (u8 b 0 = 3 ∨ u8 b 0 = 4 ∨ 128 ≤ u8 b 0) ∧ u16 b 2 ≠ 0) :=
  ⟨⟨[1], sUp.wr F.TRING_STAT_STATE 4, by decide +kernel, by decide +kernel, by decide +kernel, by decide +kernel, by
      decide +kernel⟩,
    ⟨biscuit 0x10 0 0xFFFF 3 [] 0, sUp.wr F.TRING_STAT_STATE 4, by decide +kernel, by decide +kernel, by decide +kernel, by
      decide +kernel, by decide +kernel, by decide +kernel, by decide +kernel, by decide +kernel⟩,
    ⟨biscuit 0x10 0 0xFFFF 0 [] 0, sUp.wr F.TRING_STAT_STATE 4, by decide +kernel, by decide +kernel, by decide +kernel, by
      decide +kernel, by decide +kernel, by decide +kernel⟩,
    ⟨biscuit 0x10 0 1 3 [] 0, sUp.wr F.TRING_STAT_STATE 4, by decide +kernel, by decide +kernel, by decide +kernel, by
      decide +kernel, by decide +kernel, by decide +kernel, by decide +kernel, by decide +kernel⟩,
    ⟨biscuit 0x10 0 2 3 [] 0, sUp.wr F.TRING_STAT_STATE 4, by decide +kernel, by decide +kernel, by decide +kernel, by
      decide +kernel, by decide +kernel, by decide +kernel, by decide +kernel, by decide +kernel⟩,
    ⟨7, [9], [], { State.reset.wr F.TRING_STAT_STATE 4 with sys := { SysSt.reset with dieHeld := false }, ring := { RingSt.reset with txq := [(false, [9])],
                                                                                                                                      inserted := 1 } },
      by decide +kernel, by decide +kernel, by decide +kernel, by decide +kernel, by decide +kernel, by decide +kernel⟩,
    ⟨2, State.reset.wr F.PORT_GSTART_SRC 2, by decide +kernel, by decide +kernel⟩,
    ⟨1, State.reset, by decide +kernel⟩,
    ⟨9, State.reset, by decide +kernel⟩,
    ⟨8, State.reset, by decide +kernel⟩,
    ⟨0, sUp, by decide +kernel, by decide +kernel⟩,
    ⟨0xA0004, sUp.wr F.TRING_CFG_REMOTE_EN 1, by decide +kernel, by decide +kernel⟩,
    ⟨0xC0000, sUp.wr F.TRING_CFG_REMOTE_EN 1, by decide +kernel, by decide +kernel⟩,
    ⟨0xA0004, sUp.wr F.TRING_CFG_REMOTE_EN 1, by decide +kernel, by decide +kernel⟩,
    ⟨{ State.reset with ring := { RingSt.reset with rxq := List.replicate 15 [] } }, by decide +kernel⟩,
    ⟨{ State.reset with ring := { RingSt.reset with rxq := List.replicate 15 [] } }, by decide +kernel⟩,
    ⟨{ State.reset with ring := { RingSt.reset with rxq := List.replicate 16 [] } }, by decide +kernel⟩,
    ⟨_, State.reset.setReg (A.TRING_BTXk 0) 0x00010003, rfl, by decide +kernel, by decide +kernel, by decide +kernel⟩⟩

theorem witness_ContextsAndGenerators :
    (∃ (n : Fin 128) (s : State), (s.ctx n).sw.waiting = true ∧ s.rd (F.DSPX_CTXn_CFG_KIND n) ≠ 1) ∧
    (∃ (p : Fin 4) (k : Fin 16) (s : State), (s.txGain p k).waiting = true) ∧
    (∃ (n : Fin 128) (v : Word) (s : State), s.ctxKindOk n (getField v 12 4) = true ∧ 4 ≤ getField v 27 4 ∧ getField v 27 4 ≤
      14 ∧ (getField v 12 4 = 1 ∨ getField v 12 4 = 2 ∨ getField v 12 4 = 5)) ∧
    (∃ (n : Fin 128) (v : Word) (s : State), s.ctxKindOk n (getField v 12 4) = true ∧ 4 ≤ getField v 27 4 ∧ getField v 27 4 ≤
      14 ∧ (getField v 12 4 = 0 ∨ getField v 12 4 = 3 ∨ getField v 12 4 = 4)) ∧
    (∃ (n : Fin 128) (v : Word) (s : State), (s.ctxKindOk n (getField v 12 4) = false ∨ getField v 27 4 < 4 ∨ 14 < getField v
      27 4)) ∧
    (∃ (v : Word) (s : State), 65536 ≤ v.toNat ∧ 20 * v.toNat ≤ 9 * s.fa * 65536) ∧
    (∃ (v : Word) (s : State), (v.toNat < 65536 ∨ 9 * s.fa * 65536 < 20 * v.toNat)) :=
  ⟨⟨127, State.reset.setCtx 127 { CtxSt.reset with sw := { Sw.off with waiting := true } }, by decide +kernel, by
      decide +kernel⟩,
    ⟨3, 15, State.reset.setTxGain 3 15 { Sw.off with waiting := true }, by decide +kernel⟩,
    ⟨0, 0x20001000, State.reset.wr (F.DSPX_CTXn_CFG_KIND 0) 1, by decide +kernel, by decide, by decide, by decide⟩,
    ⟨127, 0x20003000, State.reset, by decide +kernel, by decide, by decide, by decide⟩,
    ⟨0, 0x78000000, State.reset, by decide +kernel⟩,
    ⟨65536, State.reset, by decide +kernel, by decide +kernel⟩,
    ⟨65535, State.reset, Or.inl (by decide)⟩⟩

theorem witness_SoundPlayer :
    (∃ (voice : Fin 32) (sound : BitVec 16) (s : State), s.voiceHost voice = true ∧ (s.sound sound.toNat).isSome = true) ∧
    (∃ (voice : Fin 32) (sound : BitVec 16) (s : State), (s.voiceHost voice = false ∨ (s.sound sound.toNat).isSome = false)) ∧
    (∃ (voice : Fin 32) (s : State), s.voiceHost voice = true ∧ (s.voice voice).busy = true) ∧
    (∃ (voice : Fin 32) (s : State), s.voiceHost voice = true ∧ (s.voice voice).busy = true ∧ (s.voice voice).fade = none) ∧
    (∃ (voice : Fin 32) (s : State), s.voiceHost voice = false) ∧
    (∃ (voice : Fin 32) (s : State), s.busUp = true ∧ s.voiceEnded voice = true ∧ voice.val < 20) ∧
    (∃ (voice : Fin 32) (s : State), s.busUp = true ∧ (s.voice voice).busy = true) ∧
    (∃ (inst : BitVec 16) (b : Block) (s : State), s.dsp.graph.block inst.toNat = some b ∧ s.busUp = true ∧ b.ty = 7 ∧ (s.avas
      inst.toNat).fallback = false) :=
  ⟨⟨19, 5, { (State.reset.wr (F.DSPX_CTXn_CFG_KIND 0) 3).wr (F.DSPX_CTXn_CFG_INDEX 0) 19 with dsp := { DspSt.reset with sounds := [{ id := 5,
                                                                                                                                      format := 0,
                                                                                                                                      rate := 0,
                                                                                                                                      p0 := false,
                                                                                                                                      looped := false,
                                                                                                                                      offset := 0,
                                                                                                                                      length := 1,
                                                                                                                                      loopStart := 0,
                                                                                                                                      loopEnd := 0,
                                                                                                                                      early := true,
                                                                                                                                      data := [0, 0] }] } },
      by decide +kernel, by decide +kernel⟩,
    ⟨20, 0, State.reset, Or.inl (by decide +kernel)⟩,
    ⟨0, ((State.reset.wr (F.DSPX_CTXn_CFG_KIND 0) 3).wr (F.DSPX_CTXn_CFG_INDEX 0) 0).setVoice 0 { Voice.idle with busy := true },
      by decide +kernel, by decide +kernel⟩,
    ⟨0, ((State.reset.wr (F.DSPX_CTXn_CFG_KIND 0) 3).wr (F.DSPX_CTXn_CFG_INDEX 0) 0).setVoice 0 { Voice.idle with busy := true },
      by decide +kernel, by decide +kernel, by decide +kernel⟩,
    ⟨31, State.reset, by decide +kernel⟩,
    ⟨19, sUp.setVoice 19 { Voice.idle with busy := true, fade := some 0 }, by decide +kernel, by decide +kernel, by
      decide +kernel⟩,
    ⟨31, sUp.setVoice 31 { Voice.idle with busy := true }, by decide +kernel, by decide +kernel⟩,
    ⟨9, { inst := 9, ty := 7, cls := 0, pclass := 0, asil := false, params := [] }, { sUp with dsp := { DspSt.reset with graph := { Graph.empty with blocks := [{ inst := 9,
                                                                                                                                                                  ty := 7,
                                                                                                                                                                  cls := 0,
                                                                                                                                                                  pclass := 0,
                                                                                                                                                                  asil := false,
                                                                                                                                                                  params := [] }] } } },
      by decide +kernel, by decide +kernel, by decide +kernel, by decide +kernel⟩⟩

theorem witness_GraphFrames :
    (∃ (s : State), s.busUp = true ∧ s.dsp.sub < 7) ∧
    (∃ (f4 : Bool) (s : State), s.busUp = true ∧ (f4 = false ∨ s.dsp.sub = 7)) ∧
    (∃ (s : State), s.busUp = false) ∧
    (∃ (found : List (BitVec 16 × Detection)) (input : FrameData) (s : State), s.busUp = true ∧ s.dsp.f4.input = some input ∧
      s.dsp.f4.done = false ∧ s.dsp.f4.doomed = false ∧ found.any (fun x => detBad x.2) = false) ∧
    (∃ (found : List (BitVec 16 × Detection)) (input : FrameData) (s : State), s.busUp = true ∧ s.dsp.f32.input = some input ∧
      s.dsp.f32.done = false ∧ s.dsp.f32.doomed = false ∧ found.any (fun x => detBad x.2) = false) ∧
    (∃ (f4 : Bool) (found : List (BitVec 16 × Detection)) (s : State), s.busUp = true ∧ (s.cls f4).input.isSome = true ∧
      (s.cls f4).done = false ∧ (s.cls f4).doomed = false ∧ found.any (fun x => detBad x.2) = true) ∧
    (∃ (f4 : Bool) (s : State), ((s.cls f4).done = true ∨ (s.cls f4).doomed = true)) ∧
    (∃ (s : State), s.busUp = true ∧ s.dsp.f4.input.isSome = true ∧ s.dsp.f4.done = false) ∧
    (∃ (s : State), s.busUp = true ∧ s.dsp.f32.input.isSome = true ∧ s.dsp.f32.done = false) :=
  ⟨⟨{ sUp with dsp := { DspSt.reset with sub := 6 } }, by decide +kernel, by decide +kernel⟩,
    ⟨false, sUp, by decide +kernel, Or.inl rfl⟩,
    ⟨State.reset, by decide +kernel⟩,
    ⟨[], [], { sUp with dsp := { DspSt.reset with f4 := { ClassSt.reset with input := some [] } } }, by decide +kernel, by
      decide +kernel, by decide +kernel, by decide +kernel, by decide +kernel⟩,
    ⟨[], [], { sUp with dsp := { DspSt.reset with f32 := { ClassSt.reset with input := some [] } } }, by decide +kernel, by
      decide +kernel, by decide +kernel, by decide +kernel, by decide +kernel⟩,
    ⟨false, [(9, .residue { a := 1, b := 1, product := 0, dup := true })], { sUp with dsp := { DspSt.reset with f32 := { ClassSt.reset with input := some [] } } },
      by decide +kernel, by decide +kernel, by decide +kernel, by decide +kernel, by decide +kernel⟩,
    ⟨true, { sUp with dsp := { DspSt.reset with f4 := { ClassSt.reset with done := true } } }, Or.inl rfl⟩,
    ⟨{ sUp with dsp := { DspSt.reset with f4 := { ClassSt.reset with input := some [] } } }, by decide +kernel, by
      decide +kernel, by decide +kernel⟩,
    ⟨{ sUp with dsp := { DspSt.reset with f32 := { ClassSt.reset with input := some [] } } }, by decide +kernel, by
      decide +kernel, by decide +kernel⟩⟩

theorem witness_DetectionsFencesPlacement :
    (∃ (d : Detection), detBad d = false) ∧
    (∃ (inst : BitVec 16) (m : MacCheck) (b : Block) (s : State), s.busUp = true ∧ macBad m = true ∧ s.dsp.graph.block
      inst.toNat = some b) ∧
    (∃ (p : Placement) (s : State), s.busUp = true ∧ s.computePlacement s.dsp.graph = some p) ∧
    (∃ (s : State), s.busUp = true ∧ s.computePlacement s.dsp.graph = none) ∧
    (∃ (c : Fin 4) (s : State), s.busUp = true ∧ s.dsp.place.cores.getLsbD c = false) ∧
    (∃ (p : Placement) (s : State), s.busUp = true ∧ s.dsp.place.next = some p ∧ s.dsp.place.migrating = true ∧ s.crossDone =
      true) ∧
    (∃ (s : State), s.busUp = true ∧ s.dsp.place.migrating = true ∧ s.crossDone = false) ∧
    (∃ (mi : Fin 6) (r : Fin 1024) (s : State), s.busUp = true ∧ s.dsp.place.regions.contains (mi.val, r.val) = false) ∧
    (∃ (mi : Fin 6) (r : Fin 1024) (s : State), s.busUp = true ∧ s.dsp.place.moves.contains (mi.val, r.val) = true) ∧
    (∃ (mi : Fin 6) (w : MemRead) (s : State), s.busUp = true ∧ 4 ≤ mi.val ∧ memBad mi w = true ∧ s.boot.state =
      bootFullRunning ∧ s.dsp.place.regions.contains (mi.val, memRegion mi w) = false ∧ 0 < s.dsp.place.spare) ∧
    (∃ (mi : Fin 6) (w : MemRead), memBad mi w = false) :=
  ⟨⟨.residue { a := 1, b := 1, product := 1, dup := true }, by decide +kernel⟩,
    ⟨9, { a := 1, b := 1, product := 0, dup := true }, { inst := 9, ty := 7, cls := 0, pclass := 0, asil := false, params := [] },
      { sUp with dsp := { DspSt.reset with graph := { Graph.empty with blocks := [{ inst := 9, ty := 7, cls := 0, pclass := 0,
                                                                                    asil := false, params := [] }] } } }, by
      decide +kernel, by decide +kernel, by decide +kernel⟩,
    ⟨{ entries := [], mode := 0 }, sUp, by decide +kernel, by decide +kernel⟩,
    ⟨{ sUp with dsp := sP0.dsp }, by decide +kernel, by decide +kernel⟩,
    ⟨3, sUp, by decide +kernel, by decide +kernel⟩,
    ⟨Placement.none, { sUp with dsp := { DspSt.reset with place := { PlaceSt.reset with next := some Placement.none, migrating := true } } },
      by decide +kernel, by decide +kernel, by decide +kernel, by decide +kernel⟩,
    ⟨{ sUp with dsp := { DspSt.reset with place := { PlaceSt.reset with migrating := true, next := some { mode := 0, entries := [{ inst := 9,
                                                                                                                                   core := 255,
                                                                                                                                   tier := 0,
                                                                                                                                   state := 1,
                                                                                                                                   reason := 1,
                                                                                                                                   pclass := 3 }] } } } },
      by decide +kernel, by decide +kernel, by decide +kernel⟩,
    ⟨5, 1023, sUp, by decide +kernel, by decide +kernel⟩,
    ⟨5, 1023, { sUp with dsp := { DspSt.reset with place := { PlaceSt.reset with moves := [(5, 1023)] } } }, by
      decide +kernel, by decide +kernel⟩,
    ⟨5, { word := 0, data := 0, code := 1 }, { sUp with boot := { BootSt.reset with state := bootFullRunning }, dsp := { DspSt.reset with place := { PlaceSt.reset with spare := 1 } } },
      by decide +kernel, by decide +kernel, by decide +kernel, by decide +kernel, by decide +kernel, by decide +kernel⟩,
    ⟨4, { word := 0, data := 0, code := 0 }, by decide +kernel⟩⟩

theorem witness_OutputMovements :
    (∃ (o : Fin 16) (s : State), s.islandStopped (A.MOD_OUTo_CTRL o) = false) ∧
    (∃ (o : Fin 16) (s : State), s.islandStopped (A.MOD_OUTo_CTRL o) = true) ∧
    (∃ (o : Fin 16) (v : BitVec 2) (s : State), s.islandStopped (A.MOD_OUTo_CTRL o) = false ∧ v.toNat ≠ 3 ∧ s.fastOff o =
      true) ∧
    (∃ (o : Fin 16) (v : BitVec 2) (s : State), s.islandStopped (A.MOD_OUTo_CTRL o) = false ∧ (v.toNat = 0 ∨ v.toNat = 1) ∧
      s.fastOff o = false ∧ (s.wr (F.MOD_OUTo_CTRL_REQ o) v.toNat).oState o = oPlaying) ∧
    (∃ (o : Fin 16) (v : BitVec 2) (s : State), s.islandStopped (A.MOD_OUTo_CTRL o) = false ∧ v.toNat = 2 ∧ s.fastOff o =
      false ∧ s.oState o = oMuted ∧ s.sweep o = none) ∧
    (∃ (o : Fin 16) (s : State), s.islandStopped (A.MOD_OUTo_CTRL o) = false ∧ oCmUp ≤ s.oState o ∧ (s.oState o ≤ oMuted ∨
      s.oState o = oCmDown) ∧ s.fastOff o = false ∧ s.sweep o = none) ∧
    (∃ (o : Fin 16) (s : State), s.islandStopped (A.MOD_OUTo_CTRL o) = false ∧ s.switching o = false) ∧
    (∃ (o : Fin 16) (s : State), (s.out o).dropDue = false ∧ s.fastOff o = true) ∧
    (∃ (o : Fin 16) (s : State), (s.out o).dropDue = true) ∧
    (∃ (o : Fin 16) (s : State), s.fastOff o = false ∧ s.oState o = oCmUp) ∧
    (∃ (o : Fin 16) (s : State), s.fastOff o = false ∧ s.oState o = oCmDown) ∧
    (∃ (o : Fin 16) (s : State), (s.out o).ramp = .waiting) ∧
    (∃ (o : Fin 16) (s : State), (s.out o).ramp = .waiting) ∧
    (∃ (o : Fin 16) (s : State), (s.out o).ramp = .running) :=
  ⟨⟨15, sOn, by decide +kernel⟩,
    ⟨15, State.reset, by decide +kernel⟩,
    ⟨15, 2, sOn.setOut 15 { OutSt.reset with ramp := .fast 49152 }, by decide +kernel, by decide +kernel, by decide +kernel⟩,
    ⟨0, 1, sOn.wr (F.MOD_OUTo_STAT_STATE 0) 5, by decide +kernel, by decide +kernel, by decide +kernel, by decide +kernel⟩,
    ⟨15, 2, sOn.wr (F.MOD_OUTo_STAT_STATE 15) 3, by decide +kernel, by decide +kernel, by decide +kernel, by decide +kernel,
      by decide +kernel⟩,
    ⟨3, sOn.wr (F.MOD_OUTo_STAT_STATE 3) 2, by decide +kernel, by decide +kernel, by decide +kernel, by decide +kernel, by
      decide +kernel⟩,
    ⟨3, sOn, by decide +kernel, by decide +kernel⟩,
    ⟨0, State.reset.setOut 0 { OutSt.reset with ramp := .fast 0 }, by decide +kernel, by decide +kernel⟩,
    ⟨1, State.reset.setOut 1 { OutSt.reset with dropDue := true }, by decide +kernel⟩,
    ⟨15, State.reset.wr (F.MOD_OUTo_STAT_STATE 15) 2, by decide +kernel, by decide +kernel⟩,
    ⟨15, State.reset.wr (F.MOD_OUTo_STAT_STATE 15) 7, by decide +kernel, by decide +kernel⟩,
    ⟨15, State.reset.setOut 15 { OutSt.reset with ramp := .waiting }, by decide +kernel⟩,
    ⟨15, State.reset.setOut 15 { OutSt.reset with ramp := .waiting }, by decide +kernel⟩,
    ⟨15, State.reset.setOut 15 { OutSt.reset with ramp := .running }, by decide +kernel⟩⟩

theorem witness_BridgesAndTrips :
    (∃ (c : Fin 16) (legN : Bool) (current : Nat) (o : Nat) (s : State), s.tripLevel c legN < current ∧ s.rd
      (F.MOD_CHc_STAT_BRIDGE c) = 1 ∧ s.outOf c = some o ∧ (s.live o).length ≠ 2) ∧
    (∃ (c : Fin 16) (legN : Bool) (current : Nat) (s : State), (current ≤ s.rd (F.MOD_CHc_CFG_TRIP_LIM c) * s.goodCount c legN
      * 2 ^ 22 ∨ s.rd (F.MOD_CHc_STAT_BRIDGE c) ≠ 1)) ∧
    (∃ (o : Fin 16) (s : State), (s.out o).demag = true ∧ (s.out o).chans = [] ∧ s.oState o ≠ oTripped) ∧
    (∃ (o : Fin 16) (s : State), s.oState o = oTripped ∧ (s.out o).demag = false ∧ (s.out o).exhausted = false ∧ s.want o ≠ 0
      ∧ s.retriesUsed o < s.retryMax o ∧ (s.out o).chans.any (fun c => s.broken c || (s.bridge c).hot || s.on
      (F.MOD_CHc_STAT_FENCED c)) = false) ∧
    (∃ (c : Fin 16) (legN : Bool) (cell : Fin 8) (s : State), (s.goodCells c legN).testBit cell = true) ∧
    (∃ (c : Fin 16) (v : Nat) (legN : Bool) (s : State), (if legN then (s.bridge c).lowN else (s.bridge c).lowP) = some v) ∧
    (∃ (c : Fin 16) (s : State), (s.rd (cellsField c false) < s.goodCount c false ∨ s.rd (cellsField c true) < s.goodCount c
      true)) ∧
    (∃ (c : Fin 16) (v : BitVec 5) (s : State), s.islandStopped (A.MOD_CHc_CFG c) = false ∧ max 8 v.toNat ≤ s.rd
      (F.MOD_CHc_CFG_TRIP_LIM c)) ∧
    (∃ (c : Fin 16) (v : BitVec 5) (s : State), s.islandStopped (A.MOD_CHc_CFG c) = false ∧ s.rd (F.MOD_CHc_CFG_TRIP_LIM c) <
      max 8 v.toNat) ∧
    (∃ (reading : Nat), reading < 3264) ∧
    (∃ (reading : Nat) (us : Nat), 3584 < reading ∧ 10 ≤ us) ∧
    (∃ (reading : Nat) (us : Nat), 3264 ≤ reading ∧ (reading ≤ 3584 ∨ us < 10)) ∧
    (∃ (p : Fin 8) (s : State), (s.live (2 * p.val)).length = 2 ∧ s.switching (2 * p.val) = true) ∧
    (∃ (s : State), s.busUp = true ∧ s.on F.DIAG_STAT_BOOT_DONE = true) :=
  ⟨⟨15, false, 10 ^ 12, 15, (State.reset.wr (F.MOD_CHc_STAT_BRIDGE 15) 1).setOut 15 { OutSt.reset with chans := [15] }, by
      decide +kernel, by decide +kernel, by decide +kernel, by decide +kernel⟩,
    ⟨0, true, 0, State.reset, Or.inl (Nat.zero_le _)⟩,
    ⟨0, State.reset.setOut 0 { OutSt.reset with demag := true }, by decide +kernel, by decide +kernel, by decide +kernel⟩,
    ⟨15, ((State.reset.wr (F.MOD_OUTo_STAT_STATE 15) 8).wr (F.MOD_OUTo_CTRL_REQ 15) 1).setOut 15 { OutSt.reset with chans := [15] },
      by decide +kernel, by decide +kernel, by decide +kernel, by decide +kernel, by decide +kernel, by decide +kernel⟩,
    ⟨15, true, 7, State.reset.wr (F.MOD_CHc_STAT_GOOD_N 15) 0x80, by decide +kernel⟩,
    ⟨15, 3, true, State.reset.setBridge 15 { BridgeSt.reset with lowN := some 3 }, by decide +kernel⟩,
    ⟨15, State.reset.setBridge 15 { BridgeSt.reset with rot := 7 }, by decide +kernel⟩,
    ⟨15, 7, sOn, by decide +kernel, by decide +kernel⟩,
    ⟨0, 31, sOn.wr (F.MOD_CHc_CFG_TRIP_LIM 0) 8, by decide +kernel, by decide +kernel⟩,
    ⟨3263, by decide +kernel⟩,
    ⟨3585, 10, by decide +kernel, by decide +kernel⟩,
    ⟨3584, 10, by decide, Or.inl (by decide)⟩,
    ⟨7, (State.reset.wr (F.MOD_OUTo_STAT_STATE 14) 5).setOut 14 { OutSt.reset with chans := [14, 15] }, by decide +kernel, by
      decide +kernel⟩,
    ⟨sUp.wr F.DIAG_STAT_BOOT_DONE 1, by decide +kernel, by decide +kernel⟩⟩

theorem witness_ControlSamples :
    (∃ (s : State), s.on F.SYS_CLKSTAT_PLLA_LOCK = true) ∧
    (∃ (s : State), s.on F.SYS_CLKSTAT_PLLA_LOCK = false) ∧
    (∃ (c : Fin 16) (b : Bool) (k : Fin 16) (s : State), s.islandStopped (A.LOOP_CHc_BANKb_Wk c b.toNat k) = false ∧ s.bank c
      = b.toNat) ∧
    (∃ (c : Fin 16) (b : Bool) (k : Fin 16) (s : State), s.islandStopped (A.LOOP_CHc_BANKb_Wk c b.toNat k) = false ∧ s.bank c
      ≠ b.toNat) ∧
    (∃ (c : Fin 16) (k : Fin 64) (s : State), s.islandStopped (A.LOOP_CHc_FBk c k) = false ∧ s.channelIdle c = true) ∧
    (∃ (c : Fin 16) (k : Fin 64) (s : State), s.islandStopped (A.LOOP_CHc_FBk c k) = false ∧ s.channelIdle c = false) ∧
    (∃ (c : Fin 16) (s : State), s.islandStopped (A.LOOP_CHc_CFG c) = false ∧ s.channelIdle c = true) ∧
    (∃ (c : Fin 16) (s : State), s.islandStopped (A.LOOP_CHc_CFG c) = false ∧ s.channelIdle c = false) ∧
    (∃ (s : State), s.islandStopped (A.LOOP_BANKSEL) = false) ∧
    (∃ (c : Fin 16) (s : State), s.islandStopped (A.LOOP_CHc_CFG c) = true) ∧
    (∃ (s : State), (∀ g < 4, Tbl.get none s.loop.swaps g = none)) ∧
    (∃ (g : Fin 4) (b : Nat) (s : State), s.loop.swaps = [(g.val, some { bank := b, late := false })]) :=
  ⟨⟨State.reset.wr F.SYS_CLKSTAT_PLLA_LOCK 1, by decide +kernel⟩,
    ⟨State.reset, by decide +kernel⟩,
    ⟨15, false, 15, sOn, by decide +kernel, by decide +kernel⟩,
    ⟨15, true, 15, sOn, by decide +kernel, by decide +kernel⟩,
    ⟨15, 63, sOn, by decide +kernel, by decide +kernel⟩,
    ⟨0, 0, (sOn.wr (F.MOD_OUTo_STAT_STATE 0) 1).setOut 0 { OutSt.reset with chans := [0] }, by decide +kernel, by
      decide +kernel⟩,
    ⟨15, sOn, by decide +kernel, by decide +kernel⟩,
    ⟨0, (sOn.wr (F.MOD_OUTo_STAT_STATE 0) 1).setOut 0 { OutSt.reset with chans := [0] }, by decide +kernel, by decide +kernel⟩,
    ⟨sOn, by decide +kernel⟩,
    ⟨15, State.reset, by decide +kernel⟩,
    ⟨State.reset, by decide +kernel⟩,
    ⟨3, 1, { State.reset with loop := { LoopSt.reset with swaps := [(3, some { bank := 1, late := false })] } }, by
      decide +kernel⟩⟩

theorem witness_RcTrackers :
    (∃ (k : Fin 3) (s : State), k.val = 1 ∧ (s.tracker 1).div < s.rd F.LOOP_RC_SRC_RCSYNC_DIV) ∧
    (∃ (k : Fin 3) (s : State), k.val ≠ 1 ∧ (s.tracker k).last = none ∧ (k.val = 2 → s.on F.LOOP_RC_EST_EN = true)) ∧
    (∃ (k : Fin 3) (l : Nat) (s : State), k.val ≠ 1 ∧ (s.tracker k).last = some l ∧ (s.tracker k).hits = 0 ∧ (s.tracker
      k).locked = false ∧ (k.val = 2 → s.on F.LOOP_RC_EST_EN = true)) ∧
    (∃ (k : Fin 3) (l : Nat) (s : State), k.val ≠ 1 ∧ (s.tracker k).last = some l ∧ (s.tracker k).locked = false ∧ 0 <
      (s.tracker k).hits ∧ (k.val = 2 → s.on F.LOOP_RC_EST_EN = true)) ∧
    (∃ (k : Fin 3) (l : Nat) (s : State), k.val ≠ 1 ∧ (s.tracker k).last = some l ∧ (s.tracker k).locked = true ∧ (k.val = 2 →
      s.on F.LOOP_RC_EST_EN = true)) ∧
    (∃ (k : Fin 3) (s : State), k.val = 2 ∧ s.on F.LOOP_RC_EST_EN = false) ∧
    (∃ (k : Fin 3) (s : State), (s.tracker k).locked = false) ∧
    (∃ (k : Fin 3) (s : State), (s.tracker k).locked = true) :=
  ⟨⟨1, State.reset.wr F.LOOP_RC_SRC_RCSYNC_DIV 3, by decide +kernel, by decide +kernel⟩,
    ⟨2, State.reset.wr F.LOOP_RC_EST_EN 1, by decide +kernel, by decide +kernel, by decide +kernel⟩,
    ⟨2, 5, (State.reset.wr F.LOOP_RC_EST_EN 1).setTracker 2 { Tracker.reset with last := some 5, phase := 5 * 2 ^ 14 }, by
      decide +kernel, by decide +kernel, by decide +kernel, by decide +kernel, by decide +kernel⟩,
    ⟨0, 5, State.reset.setTracker 0 { Tracker.reset with last := some 5, phase := 5 * 2 ^ 14, hits := 1 }, by decide +kernel,
      by decide +kernel, by decide +kernel, by decide +kernel, by decide +kernel⟩,
    ⟨0, 5, State.reset.setTracker 0 { Tracker.reset with last := some 5, locked := true }, by decide +kernel, by
      decide +kernel, by decide +kernel, by decide +kernel⟩,
    ⟨2, State.reset, by decide +kernel, by decide +kernel⟩,
    ⟨2, State.reset, by decide +kernel⟩,
    ⟨0, State.reset.setTracker 0 { Tracker.reset with locked := true }, by decide +kernel⟩⟩

theorem witness_RcPeriodsAndFades :
    (∃ (c : Fin 16) (t : State) (u : State) (s : State), s.rcState c = rcWait ∧ u = (s.rcCloseBin c).rcResidual c ∧ u.rcLive c
      = true ∧ u.rcState c = rcWait ∧ (s.tracker (s.rd (F.LOOP_RC_CHc_CFG_SRC c))).locked = true ∧ t = (if nbInRange
      (s.tracker (s.rd (F.LOOP_RC_CHc_CFG_SRC c))).period (u.binW c) = true then u.rcLearn c else u)) ∧
    (∃ (c : Fin 16) (s : State), s.rcState c = rcFade ∧ (s.rc c).fadeLeft = 0 ∧ (s.rc c).keep = false ∧ (s.rc c).after =
      rcLearning) ∧
    (∃ (c : Fin 16) (s : State), s.rcState c = rcFade ∧ (s.rc c).fadeLeft = 0 ∧ (s.rc c).keep = true ∧ (s.rc c).after = 0 ∧
      s.on (F.LOOP_RC_CHc_CFG_EN c) = false) ∧
    (∃ (c : Fin 16) (s : State), s.rcState c = rcFade ∧ (s.rc c).fadeLeft = 0 ∧ (s.rc c).keep = false ∧ (s.rc c).after =
      rcWait) ∧
    (∃ (c : Fin 16) (s : State), (s.rcState c ≠ rcFade ∨ (s.rc c).fadeLeft ≠ 0)) ∧
    (∃ (c : Fin 16) (s : State), s.islandStopped (A.LOOP_RC_CHc_CTRL c) = false ∧ s.rcState c ≤ rcWait) ∧
    (∃ (c : Fin 16) (s : State), s.islandStopped (A.LOOP_RC_CHc_CTRL c) = false ∧ rcWait < s.rcState c ∧ s.rcState c ≠ rcFade) ∧
    (∃ (c : Fin 16) (s : State), s.islandStopped (A.LOOP_RC_CHc_CTRL c) = false) ∧
    (∃ (c : Fin 16) (s : State), s.islandStopped (A.LOOP_RC_CHc_CTRL c) = true) :=
  ⟨⟨1, _, _, (((State.reset.setTracker 0 { Tracker.reset with locked := true, period := 2 ^ 20 }).wr (F.MOD_OUTo_STAT_STATE
      1) 5).wr (F.LOOP_RC_CHc_STAT_STATE 1) 1).setOut 1 { OutSt.reset with chans := [1] }, by decide +kernel, rfl, by
      decide +kernel, by decide +kernel, by decide +kernel, rfl⟩,
    ⟨15, (State.reset.wr (F.LOOP_RC_CHc_STAT_STATE 15) 5).setRc 15 { RcCh.reset with after := 2 }, by decide +kernel, by
      decide +kernel, by decide +kernel, by decide +kernel⟩,
    ⟨15, (State.reset.wr (F.LOOP_RC_CHc_STAT_STATE 15) 5).setRc 15 { RcCh.reset with keep := true }, by decide +kernel, by
      decide +kernel, by decide +kernel, by decide +kernel, by decide +kernel⟩,
    ⟨15, (State.reset.wr (F.LOOP_RC_CHc_STAT_STATE 15) 5).setRc 15 { RcCh.reset with after := 1 }, by decide +kernel, by
      decide +kernel, by decide +kernel, by decide +kernel⟩,
    ⟨15, (State.reset.wr (F.LOOP_RC_CHc_STAT_STATE 15) 5).setRc 15 { RcCh.reset with fadeLeft := 7 }, by decide +kernel⟩,
    ⟨15, sOn, by decide +kernel, by decide +kernel⟩,
    ⟨0, sOn.wr (F.LOOP_RC_CHc_STAT_STATE 0) 2, by decide +kernel, by decide +kernel, by decide +kernel⟩,
    ⟨15, sOn, by decide +kernel⟩,
    ⟨15, State.reset, by decide +kernel⟩⟩

theorem witness_RcConfiguration :
    (∃ (c : Fin 16) (v : Word) (s : State), s.islandStopped (A.LOOP_RC_CHc_CFG c) = false ∧ s.on (F.LOOP_RC_CHc_CFG_EN c) =
      true ∧ (s.reg (A.LOOP_RC_CHc_CFG c) ^^^ (v &&& 0xFFFF3F07)) &&& 0xFFFFFFFE ≠ 0) ∧
    (∃ (c : Fin 16) (v : Word) (s : State), s.islandStopped (A.LOOP_RC_CHc_CFG c) = false ∧ s.on (F.LOOP_RC_CHc_CFG_EN c) =
      false ∧ getField (v &&& 0xFFFF3F07) 1 2 ≠ 3 ∧ (v &&& 0xFFFF3F07).getLsbD 0 = false) ∧
    (∃ (s : State), s.islandStopped (A.LOOP_RC_SRC) = false ∧ s.rcUses (fun _ => true) = true) ∧
    (∃ (v : Word) (s : State), s.islandStopped (A.LOOP_RC_SRC) = false ∧ s.rcUses (fun _ => true) = false ∧ getField v 16 8 ≠
      0 ∧ getField v 4 2 ≠ 3) ∧
    (∃ (s : State), s.islandStopped (A.LOOP_RC_SRC) = false ∧ s.rcUses (fun k => k == 2) = false) ∧
    (∃ (c : Fin 16) (v : Word) (s : State), s.islandStopped (A.LOOP_RC_CHc_CFG c) = false ∧ getField (v &&& 0xFFFF3F07) 1 2 =
      3) ∧
    (∃ (c : Fin 16) (v : Word) (u : State) (s : State), s.islandStopped (A.LOOP_RC_CHc_CFG c) = false ∧ s.on
      (F.LOOP_RC_CHc_CFG_EN c) = false ∧ getField (v &&& 0xFFFF3F07) 1 2 ≠ 3 ∧ (v &&& 0xFFFF3F07).getLsbD 0 = true ∧ u =
      s.setReg (A.LOOP_RC_CHc_CFG c) (v &&& 0xFFFF3F07) ∧ u.rcUpper c = false ∧ u.rcState c = 0) ∧
    (∃ (v : Word) (s : State), s.islandStopped (A.LOOP_RC_SRC) = false ∧ (getField v 16 8 = 0 ∨ getField v 4 2 = 3)) ∧
    (∃ (s : State), s.islandStopped (A.LOOP_RC_SRC) = false ∧ s.rcUses (fun k => k == 2) = true) ∧
    (∃ (v : Word) (s : State), s.islandStopped (A.LOOP_RC_SRC) = false ∧ 40 ≤ getField v 0 16 ∧ 10 * (8 * getField v 16 16) ≤
      16 * s.fa ∧ getField v 0 16 < 8 * getField v 16 16) ∧
    (∃ (v : Word) (s : State), s.islandStopped (A.LOOP_RC_SRC) = false ∧ (getField v 0 16 < 40 ∨ 16 * s.fa < 10 * (8 *
      getField v 16 16) ∨ 8 * getField v 16 16 ≤ getField v 0 16)) ∧
    (∃ (k : Fin 4096) (s : State), s.islandStopped (A.LOOP_RC_TBLk k) = false ∧ s.on (F.LOOP_RC_CHc_CFG_EN (s.rd
      F.LOOP_RC_TBLSEL_CH)) = true) ∧
    (∃ (k : Fin 4096) (s : State), s.islandStopped (A.LOOP_RC_TBLk k) = false ∧ s.on (F.LOOP_RC_CHc_CFG_EN (s.rd
      F.LOOP_RC_TBLSEL_CH)) = false) :=
  ⟨⟨15, 0xFFFF3F01, sOn.wr (F.LOOP_RC_CHc_CFG_EN 15) 1, by decide +kernel, by decide +kernel, by decide +kernel⟩,
    ⟨15, 0xFFFF3F04, sOn, by decide +kernel, by decide +kernel, by decide +kernel, by decide +kernel⟩,
    ⟨sOn.wr (F.LOOP_RC_CHc_CFG_EN 15) 1, by decide +kernel, by decide +kernel⟩,
    ⟨0x00FF0F21, sOn, by decide +kernel, by decide +kernel, by decide +kernel, by decide +kernel⟩,
    ⟨sOn, by decide +kernel, by decide +kernel⟩,
    ⟨15, 0xFFFF3F07, sOn, by decide +kernel, by decide +kernel⟩,
    ⟨15, 0xFFFF3F01, _, sOn, by decide +kernel, by decide +kernel, by decide +kernel, by decide +kernel, rfl, by
      decide +kernel, by decide +kernel⟩,
    ⟨0x00FF0F31, sOn, by decide +kernel, by decide +kernel⟩,
    ⟨(sOn.wr (F.LOOP_RC_CHc_CFG_EN 15) 1).wr (F.LOOP_RC_CHc_CFG_SRC 15) 2, by decide +kernel, by decide +kernel⟩,
    ⟨0x02EE0028, sOn, by decide +kernel, by decide +kernel, by decide +kernel, by decide +kernel⟩,
    ⟨0x02EE0027, sOn, by decide +kernel, by decide +kernel⟩,
    ⟨4095, sOn.wr (F.LOOP_RC_CHc_CFG_EN 0) 1, by decide +kernel, by decide +kernel⟩,
    ⟨4095, sOn, by decide +kernel, by decide +kernel⟩⟩

theorem witness_TraceBuffers :
    (∃ (b : Fin 4) (s : State), s.islandStopped (A.TRACE_CFGb b) = false ∧ (s.tState b = tIdle ∨ s.tState b = tDone ∨ s.tState
      b = tStopped)) ∧
    (∃ (b : Fin 4) (s : State), s.islandStopped (A.TRACE_CFGb b) = false ∧ (s.tState b = tIdle ∨ s.tState b = tDone ∨ s.tState
      b = tStopped)) ∧
    (∃ (b : Fin 4) (s : State), s.islandStopped (A.TRACE_CFGb b) = false ∧ (¬ (s.tState b = tIdle ∨ s.tState b = tDone ∨
      s.tState b = tStopped))) ∧
    (∃ (b : Fin 4) (s : State), s.islandStopped (A.TRACE_CTRLb b) = false ∧ (s.tState b = tIdle ∨ s.tState b = tDone ∨
      s.tState b = tStopped) ∧ (s.on (F.TRACE_CFGb_MODE b) = true ∨ s.rd (F.TRACE_DEPTHb_PRE b) + 1 + s.rd
      (F.TRACE_DEPTHb_POST b) ≤ s.tCapacity b)) ∧
    (∃ (b : Fin 4) (s : State), s.islandStopped (A.TRACE_CTRLb b) = false ∧ s.on (F.TRACE_CFGb_MODE b) = false ∧ s.tCapacity b
      < s.rd (F.TRACE_DEPTHb_PRE b) + 1 + s.rd (F.TRACE_DEPTHb_POST b)) ∧
    (∃ (b : Fin 4) (s : State), s.islandStopped (A.TRACE_CTRLb b) = false ∧ (s.tState b = tFilling ∨ s.tState b = tReady ∨
      s.tState b = tPost ∨ s.tState b = tRun)) ∧
    (∃ (b : Fin 4) (s : State), s.islandStopped (A.TRACE_CTRLb b) = false ∧ s.tState b = tFilling) ∧
    (∃ (b : Fin 4) (s : State), s.islandStopped (A.TRACE_CTRLb b) = false ∧ s.tState b = tReady) ∧
    (∃ (bad : Bool) (s : State), s.islandStopped A.TRACE_WIN = false ∧ (s.tState (s.rd F.TRACE_WIN_BUF) = tDone ∨ s.tState
      (s.rd F.TRACE_WIN_BUF) = tStopped) ∧ bad = false) ∧
    (∃ (s : State), s.islandStopped A.TRACE_WIN = false ∧ (s.tState (s.rd F.TRACE_WIN_BUF) = tDone ∨ s.tState (s.rd
      F.TRACE_WIN_BUF) = tStopped)) ∧
    (∃ (s : State), s.islandStopped A.TRACE_WIN = false ∧ (¬ (s.tState (s.rd F.TRACE_WIN_BUF) = tDone ∨ s.tState (s.rd
      F.TRACE_WIN_BUF) = tStopped))) :=
  ⟨⟨3, sOn, by decide +kernel, by decide +kernel⟩,
    ⟨3, sOn, by decide +kernel, by decide +kernel⟩,
    ⟨0, sOn.wr (F.TRACE_STATb_STATE 0) 1, by decide +kernel, by decide +kernel⟩,
    ⟨3, sOn, by decide +kernel, by decide +kernel, by decide +kernel⟩,
    ⟨3, (sOn.wr (F.TRACE_DEPTHb_POST 3) 0x3FFF).wr (F.TRACE_DEPTHb_PRE 3) 1, by decide +kernel, by decide +kernel, by
      decide +kernel⟩,
    ⟨3, sOn.wr (F.TRACE_STATb_STATE 3) 6, by decide +kernel, by decide +kernel⟩,
    ⟨3, sOn.wr (F.TRACE_STATb_STATE 3) 1, by decide +kernel, by decide +kernel⟩,
    ⟨3, sOn.wr (F.TRACE_STATb_STATE 3) 2, by decide +kernel, by decide +kernel⟩,
    ⟨false, sOn.wr (F.TRACE_STATb_STATE 0) 4, by decide +kernel, by decide +kernel, rfl⟩,
    ⟨sOn.wr (F.TRACE_STATb_STATE 0) 4, by decide +kernel, by decide +kernel⟩,
    ⟨sOn.wr (F.TRACE_STATb_STATE 0) 2, by decide +kernel, by decide +kernel⟩⟩

theorem witness_SenseSamplesAndCalibration :
    (∃ (k : Fin 32) (raw : BitVec 16) (s : State), s.senseMode k = 2 ∧ raw ≠ 0x8000#16 ∧ raw ≠ 0x7FFF#16) ∧
    (∃ (k : Fin 32) (raw : BitVec 16) (s : State), s.senseMode k = 2 ∧ (raw = 0x8000#16 ∨ raw = 0x7FFF#16)) ∧
    (∃ (k : Fin 32) (s : State), 2 ≤ s.senseMode k ∧ s.senseMode k ≤ 4) ∧
    (∃ (k : Fin 32) (s : State), s.senseMode k = 3) ∧
    (∃ (k : Fin 32) (s : State), (s.senseMode k < 2 ∨ 4 < s.senseMode k)) ∧
    (∃ (k : Fin 32) (s : State), s.senseMode k = 2 ∧ (s.sin k).bad1 = false) ∧
    (∃ (k : Fin 32) (s : State), s.senseMode k = 4 ∧ (s.sin k).bad0 = false) ∧
    (∃ (k : Fin 32) (s : State), (s.on F.SENSE_CTRL_BG_FREEZE = true ∨ s.senseMode k < 2 ∨ 4 < s.senseMode k)) ∧
    (∃ (k : Fin 32) (s : State), s.on F.SENSE_CTRL_BG_FREEZE = false ∧ s.senseMode k = 4 ∧ (s.sin k).bg.n1 ≠ 0 ∧ -32768 ≤
      roundQ (16 * (s.sin k).bg.sum1) (s.sin k).bg.n1 ∧ roundQ (16 * (s.sin k).bg.sum1) (s.sin k).bg.n1 ≤ 32767) ∧
    (∃ (on : Bool) (s : State), s.islandStopped A.SENSE_CTRL = false ∧ (s.on F.SENSE_CTRL_BG_FREEZE = false ∨ on = true)) ∧
    (∃ (s : State), s.islandStopped A.SENSE_CTRL = false ∧ s.on F.SENSE_CTRL_BG_FREEZE = true) ∧
    (∃ (s : State), s.islandStopped A.SENSE_CTRL = false ∧ (∀ c < 16, s.outOf c = none)) ∧
    (∃ (mask : BitVec 16) (s : State), s.islandStopped A.SENSE_CTRL = false ∧ mask = 0) ∧
    (∃ (s : State), s.boot.firmware = true ∧ s.evOn A.PMU_RAILSTAT 7 = true ∧ s.on F.SENSE_STAT_BOOTCAL_DONE = false ∧ s.on
      F.SENSE_STAT_CAL_BUSY = false) :=
  ⟨⟨31, 0x7FFE, State.reset.wr (F.SENSE_INk_STAT_MODE 31) 2, by decide +kernel, by decide +kernel, by decide +kernel⟩,
    ⟨31, 0x7FFF, State.reset.wr (F.SENSE_INk_STAT_MODE 31) 2, by decide +kernel, by decide +kernel⟩,
    ⟨31, State.reset.wr (F.SENSE_INk_STAT_MODE 31) 4, by decide +kernel, by decide +kernel⟩,
    ⟨31, State.reset.wr (F.SENSE_INk_STAT_MODE 31) 3, by decide +kernel⟩,
    ⟨31, State.reset, by decide +kernel⟩,
    ⟨31, State.reset.wr (F.SENSE_INk_STAT_MODE 31) 2, by decide +kernel, by decide +kernel⟩,
    ⟨31, State.reset.wr (F.SENSE_INk_STAT_MODE 31) 4, by decide +kernel, by decide +kernel⟩,
    ⟨31, State.reset, by decide +kernel⟩,
    ⟨31, (State.reset.wr (F.SENSE_INk_STAT_MODE 31) 4).setSin 31 { SenseSt.reset with bg := { BgSt.empty with n1 := 1, sum1 := 3 } },
      by decide +kernel, by decide +kernel, by decide +kernel, by simp [roundQ]; decide +kernel,
      by simp [roundQ]; decide +kernel⟩,
    ⟨false, sOn, by decide +kernel, by decide +kernel⟩,
    ⟨sOn.wr F.SENSE_CTRL_BG_FREEZE 1, by decide +kernel, by decide +kernel⟩,
    ⟨sOn, by decide +kernel, by decide +kernel⟩,
    ⟨0, sOn, by decide +kernel, by decide +kernel⟩,
    ⟨{ State.reset.setBit A.PMU_RAILSTAT 7 true with boot := { BootSt.reset with firmware := true } }, by decide +kernel, by
      decide +kernel, by decide +kernel, by decide +kernel⟩⟩

theorem witness_DecimationAndThresholds :
    (∃ (s : State), s.decim.started = true) ∧
    (∃ (k : Fin 36) (s : State), s.rd (F.DECIM_PATHk_STAT_STATE k) = 1 ∧ (s.path k).remain = 0) ∧
    (∃ (s : State), s.decim.started = true ∧ s.rd F.DECIM_TRKSTAT_STATE = 1) ∧
    (∃ (err : Int) (r : Nat × Int) (s : State), s.decim.started = true ∧ s.rd F.DECIM_TRKSTAT_STATE = 2 ∧ 65536 < err.natAbs *
      4 ∧ r = Config.trackRatio (s.rd F.DECIM_TRK_BW) (s.rd F.DECIM_RATIO_VALUE) s.decim.loopAcc err) ∧
    (∃ (s : State), s.decim.started = false) ∧
    (∃ (j : BitVec 32) (s : State), s.decim.resetAt = some j ∧ s.decim.started = true ∧ s.on F.SYS_BLKRST_DECIM = false) ∧
    (∃ (j : BitVec 32) (s : State), s.decim.resetAt = some j ∧ s.decim.started = false) ∧
    (∃ (u : Fin 16) (v : Word) (s : State), s.islandStopped (A.DECIM_THRu_CFG u) = false ∧ s.rdI (F.DECIM_THRu_LO_LEVEL u) ≤
      v.toInt) ∧
    (∃ (u : Fin 16) (v : Word) (s : State), s.islandStopped (A.DECIM_THRu_CFG u) = false ∧ v.toInt < s.rdI
      (F.DECIM_THRu_LO_LEVEL u)) ∧
    (∃ (u : Fin 16) (v : Word) (s : State), s.islandStopped (A.DECIM_THRu_CFG u) = false ∧ s.on (F.DECIM_THRu_CFG_EN u) = true
      ∧ v &&& 0xEFFF333F &&& 0x7FFFFFFF ≠ s.reg (A.DECIM_THRu_CFG u) &&& 0x7FFFFFFF) ∧
    (∃ (k : Fin 4) (v : Word) (s : State), s.islandStopped (A.DECIM_PATHk_CFG (32 + k)) = false ∧ getField v 16 4 = getField
      (s.reg (A.DECIM_PATHk_CFG (32 + k))) 16 4 ∧ v.getLsbD 31 = false) :=
  ⟨⟨{ State.reset with decim := { DecimSt.reset with started := true } }, by decide +kernel⟩,
    ⟨35, State.reset.wr (F.DECIM_PATHk_STAT_STATE 35) 1, by decide +kernel, by decide +kernel⟩,
    ⟨({ State.reset with decim := { DecimSt.reset with started := true, close := 4092 } }).wr F.DECIM_TRKSTAT_STATE 1, by
      decide +kernel, by decide +kernel⟩,
    ⟨20000, _, (({ State.reset with decim := { DecimSt.reset with started := true } }).wr F.DECIM_TRKSTAT_STATE 2), by
      decide +kernel, by decide +kernel, by decide +kernel, rfl⟩,
    ⟨State.reset, by decide +kernel⟩,
    ⟨7, { State.reset with decim := { DecimSt.reset with started := true, resetAt := some 7 } }, by decide +kernel, by
      decide +kernel, by decide +kernel⟩,
    ⟨7, { State.reset with decim := { DecimSt.reset with resetAt := some 7 } }, by decide +kernel, by decide +kernel⟩,
    ⟨15, 0, sOn, by decide +kernel, by decide +kernel⟩,
    ⟨15, 0xFFFFFFFF, sOn.wr (F.DECIM_THRu_LO_LEVEL 15) 0, by decide +kernel, by decide +kernel⟩,
    ⟨15, 0x80000001, sOn.wr (F.DECIM_THRu_CFG_EN 15) 1, by decide +kernel, by decide +kernel, by decide +kernel⟩,
    ⟨3, 0x00030000, sOn, by decide +kernel, by decide +kernel, by decide +kernel⟩⟩

theorem witness_ProtectionAndDiagnostics :
    (∃ (o : Fin 16) (clamp : Fin 4) (v : BitVec 16) (s : State), clamp.val ≠ 1 ∧ v.toNat ≤ s.rd (ceilingField o clamp)) ∧
    (∃ (o : Fin 16) (clamp : Fin 4) (v : BitVec 16) (s : State), clamp.val ≠ 1 ∧ s.rd (ceilingField o clamp) < v.toNat) ∧
    (∃ (o : Fin 16) (v : BitVec 16) (s : State), max 10 (v.toNat % 256) ≤ s.rd (F.GUARD_OUTo_ICLAMP_A o)) ∧
    (∃ (o : Fin 16) (e : List (BitVec 8)) (s : State), s.guardEntry o = some e ∧ (s.grd o).fallbackDue = true ∧ u16 e 4 ≠ 0 ∧
      s.on (F.GUARD_OUTo_STAT_FALLBACK o) = false) ∧
    (∃ (o : Fin 16) (s : State), (s.guardEntry o = none ∨ (s.grd o).fallbackDue = false)) ∧
    (∃ (s : State), (∀ o < 16, ¬ (s.oState o = oOff ∧ (s.out o).chans ≠ []))) ∧
    (∃ (o : Fin 16) (mask : BitVec 16) (s : State), mask = BitVec.ofNat 16 (2 ^ o.val) ∧ s.oState o = oOff ∧ (s.out o).chans ≠
      []) ∧
    (∃ (s : State), (∀ o < 16, (s.out o).chans = [])) ∧
    (∃ (o : Fin 16) (mask : BitVec 16) (s : State), mask = BitVec.ofNat 16 (2 ^ o.val) ∧ s.oState o = oMuted ∧ (s.out o).chans
      ≠ [] ∧ s.sweep o = none ∧ s.fastOff o = false) ∧
    (∃ (q : QuickCheck) (s : State), s.diag.waiting.find? (fun q => q.chans.all (fun c => !s.calibrating c)) = some q ∧
      s.diag.running.foldl (fun n x => n + x.drives) 0 + q.drives ≤ 8) ∧
    (∃ (o : Fin 16) (s : State), s.diag.running.find? (fun q => q.out == o.val) = none) ∧
    (∃ (o : Fin 16) (c : Nat) (rs : List DcMeas) (s : State), s.diag.running.find? (fun q => q.out == o.val) = some { out := o.val,
                                                                                                                      chans := [c],
                                                                                                                      drives := 1,
                                                                                                                      commanded := false }
      ∧ measOf rs c = none ∧ s.noSense c = false) ∧
    (∃ (s : State), s.boot.firmware = true ∧ s.on F.SENSE_STAT_BOOTCAL_DONE = true ∧ s.on F.DIAG_STAT_BOOT_DONE = false ∧
      s.diag.boot = false) ∧
    (∃ (s : State), s.diag.boot = false) ∧
    (∃ (s : State), s.diag.boot = true) ∧
    (∃ (o : Fin 16) (w : Sweep) (s : State), s.sweep o = some w ∧ w.starting = false ∧ w.paused = false ∧ sweepMeasure
      (sweepFreq s.diagGlobal w.pts.length) s.fa (s.filterCap (if w.dryfit = true then s.chanOutput o else o))
      w.frames.reverse = none) ∧
    (∃ (o : Fin 16) (w : Sweep) (s : State), s.sweep o = some w ∧ w.starting = false ∧ w.paused = false ∧ (sweepMeasure
      (sweepFreq s.diagGlobal w.pts.length) s.fa (s.filterCap (if w.dryfit = true then s.chanOutput o else o))
      w.frames.reverse).map (fun x => x.2) = some false ∧ w.again = false) ∧
    (∃ (o : Fin 16) (w : Sweep) (x : SweepPt × Bool) (s : State), s.sweep o = some w ∧ w.starting = false ∧ w.paused = false ∧
      (sweepMeasure (sweepFreq s.diagGlobal w.pts.length) s.fa (s.filterCap (if w.dryfit = true then s.chanOutput o else o))
      w.frames.reverse) = some x ∧ (x.2 = true ∨ w.again = true) ∧ w.pts.length + 1 < u8 s.diagGlobal 10) ∧
    (∃ (o : Fin 16) (w : Sweep) (s : State), s.sweep o = some w ∧ w.paused = true) ∧
    (∃ (o : Fin 16) (w : Sweep) (s : State), s.sweep o = some w ∧ w.paused = true) ∧
    (∃ (o : Fin 16) (s : State), s.tracks o = true) ∧
    (∃ (o : Fin 16) (s : State), s.tracks o = false) ∧
    (∃ (s : State), s.pmu.mode = .standby ∧ u16 s.diagGlobal 2 ≠ 0) :=
  ⟨⟨15, 3, 1, State.reset, by decide +kernel, by decide +kernel⟩,
    ⟨15, 0, 1, State.reset.wr (ceilingField 15 0) 0, by decide +kernel, by decide +kernel⟩,
    ⟨15, 0, State.reset, by decide +kernel⟩,
    ⟨15, [15, 0, 1, 0, 1, 0], ({ State.reset with boot := { BootSt.reset with policy := [{ id := 8, entries := [[15, 0, 1, 0, 1, 0]] }] } }
      : State).setGrd 15 { GuardSt.reset with fallbackDue := true }, by decide +kernel, by decide +kernel, by decide +kernel,
      by decide +kernel⟩,
    ⟨15, State.reset, by decide +kernel⟩,
    ⟨State.reset, by decide +kernel⟩,
    ⟨15, 0x8000, State.reset.setOut 15 { OutSt.reset with chans := [15] }, by decide +kernel, by decide +kernel, by
      decide +kernel⟩,
    ⟨State.reset, by decide +kernel⟩,
    ⟨15, 0x8000, (State.reset.wr (F.MOD_OUTo_STAT_STATE 15) 3).setOut 15 { OutSt.reset with chans := [15] }, by
      decide +kernel, by decide +kernel, by decide +kernel, by decide +kernel, by decide +kernel⟩,
    ⟨{ out := 3, chans := [3], drives := 1, commanded := true }, { State.reset with diag := { DiagSt.reset with waiting := [{ out := 3,
                                                                                                                              chans := [3],
                                                                                                                              drives := 1,
                                                                                                                              commanded := true }] } },
      by decide +kernel, by decide +kernel⟩,
    ⟨15, State.reset, by decide +kernel⟩,
    ⟨15, 15, [], { ((State.reset.wr (F.SENSE_INk_STAT_MODE 15) 2).wr (F.SENSE_INk_STAT_MODE 31) 2) with diag := { DiagSt.reset with running := [{ out := 15,
                                                                                                                                                  chans := [15],
                                                                                                                                                  drives := 1,
                                                                                                                                                  commanded := false }] } },
      by decide +kernel, by decide +kernel, by decide +kernel⟩,
    ⟨{ State.reset.wr F.SENSE_STAT_BOOTCAL_DONE 1 with boot := { BootSt.reset with firmware := true } }, by decide +kernel, by
      decide +kernel, by decide +kernel, by decide +kernel⟩,
    ⟨State.reset, by decide +kernel⟩,
    ⟨{ State.reset with diag := { DiagSt.reset with boot := true } }, by decide +kernel⟩,
    ⟨15, sweepIdle, State.reset.setSweep 15 (some sweepIdle), by decide +kernel, by decide +kernel, by decide +kernel, by
      decide +kernel⟩,
    ⟨15, sweepFull true, sSweep (sweepFull true), by decide +kernel, by decide +kernel, by decide +kernel, by decide +kernel,
      by decide +kernel⟩,
    ⟨15, sweepFull false, sweepFound, sSweep (sweepFull false), by decide +kernel, by decide +kernel, by decide +kernel,
      (Option.some_get sweepFull_some).symm, Or.inl (by decide +kernel), by decide +kernel⟩,
    ⟨15, { pts := [], frames := [], again := false, starting := false, paused := true, dryfit := false }, State.reset.setSweep
      15 (some { pts := [], frames := [], again := false, starting := false, paused := true, dryfit := false }), by
      decide +kernel, by decide +kernel⟩,
    ⟨15, { pts := [], frames := [], again := false, starting := false, paused := true, dryfit := false }, State.reset.setSweep
      15 (some { pts := [], frames := [], again := false, starting := false, paused := true, dryfit := false }), by
      decide +kernel, by decide +kernel⟩,
    ⟨15, ({ State.reset with boot := { BootSt.reset with policy := [{ id := 7, entries := [[15, 2]] }] } } : State).wr
      (F.MOD_OUTo_STAT_STATE 15) 5, by decide +kernel⟩,
    ⟨15, State.reset, by decide +kernel⟩,
    ⟨{ State.reset with pmu := { PmuSt.reset with mode := .standby } }, by decide +kernel, by decide +kernel⟩⟩

theorem witness_RailsAndStages :
    (∃ (vsys : Nat) (b : Nat) (h0 : Nat) (h1 : Nat) (k : ResetKind) (s : State), s.sys.rst = some (k, .stage1) ∧ s.pmu.stage1
      = false ∧ s.pmu.retryWait = false ∧ s.pmu.mode = .run ∧ (s.sampleStraps b h0 h1).vsysStart ≤ vsys) ∧
    (∃ (vsys : Nat) (b : Nat) (h0 : Nat) (h1 : Nat) (s : State), vsys < (s.sampleStraps b h0 h1).vsysStart) ∧
    (∃ (s : State), s.boot.strapped = false) ∧
    (∃ (s : State), s.pmu.soft.getLsbD 0 = true ∧ s.pmu.stage1 = true ∧ s.sys.pllAOn = false) ∧
    (∃ (r : Fin 9) (s : State), r.val ≠ 7 ∧ s.pmu.soft.getLsbD r = false) ∧
    (∃ (r : Fin 9) (s : State), s.inStage1 = true ∧ s.pmu.soft.getLsbD r = true ∧ r.val < 5) ∧
    (∃ (s : State), s.pmu.retryWait = true) ∧
    (∃ (s : State), s.pmu.seqOn = true ∧ s.pmu.opened = [] ∧ s.pmu.mode = .run) ∧
    (∃ (r : Fin 9) (s : State), s.pmu.opened.contains r.val = true) ∧
    (∃ (r : Fin 9) (s : State), s.railDis r = true) ∧
    (∃ (r : Fin 9) (s : State), s.railDis r = true) ∧
    (∃ (r : Fin 9) (s : State), (r.val = 5 ∨ r.val = 6) ∧ s.pmu.enabled.getLsbD r = true ∧ s.pmu.soft.getLsbD r = false) ∧
    (∃ (r : Fin 9) (s : State), (s.pmu.enabled.getLsbD r = false ∨ s.pmu.soft.getLsbD r = true)) ∧
    (∃ (v : Word) (s : State), (getField v 0 5 ≠ 0 ∨ s.sys.pllAOn = false)) ∧
    (∃ (v : Word) (s : State), (¬ (getField v 0 5 ≠ 0 ∨ s.sys.pllAOn = false)) ∧ v.getLsbD 5 = false ∧ v.getLsbD 6 = false ∧
      v.getLsbD 8 = true ∧ s.evOn A.PMU_RAILCTRL 5 = false ∧ s.evOn A.PMU_RAILCTRL 6 = false ∧ s.on F.PMU_RAILCTRL_CHG_EN =
      false ∧ s.holdState ≠ 3) ∧
    (∃ (v : Word) (s : State), getField v F.PMU_MICB_CFG_MICB0.lo 7 = s.rd F.PMU_MICB_CFG_MICB0 ∧ getField v
      F.PMU_MICB_CFG_MICB1.lo 7 ≠ s.rd F.PMU_MICB_CFG_MICB1 ∧ s.pmu.enabled.getLsbD 6 = true) ∧
    (∃ (v : Word) (s : State), getField v F.PMU_MICB_CFG_MICB0.lo 7 = s.rd F.PMU_MICB_CFG_MICB0 ∧ getField v
      F.PMU_MICB_CFG_MICB1.lo 7 ≠ s.rd F.PMU_MICB_CFG_MICB1 ∧ s.pmu.enabled.getLsbD 6 = false ∧ 20 ≤ getField v
      F.PMU_MICB_CFG_MICB1.lo 7 ∧ getField v F.PMU_MICB_CFG_MICB1.lo 7 ≤ 33) ∧
    (∃ (under : Bool) (s : State), s.pmu.enabled.getLsbD 6 = true ∧ under = false) :=
  ⟨⟨24000, 7000, 1000, 400000, .por, State.reset, by decide +kernel, by decide +kernel, by decide +kernel, by decide +kernel,
      by decide +kernel⟩,
    ⟨23999, 7000, 1000, 400000, State.reset, by decide +kernel⟩,
    ⟨State.reset, by decide +kernel⟩,
    ⟨{ State.reset with pmu := { PmuSt.reset with stage1 := true, soft := 1 } }, by decide +kernel, by decide +kernel, by
      decide +kernel⟩,
    ⟨8, State.reset, by decide +kernel, by decide +kernel⟩,
    ⟨4, { State.reset with pmu := { PmuSt.reset with stage1 := true, soft := 16, tries := 2 } }, by decide +kernel, by
      decide +kernel, by decide +kernel⟩,
    ⟨{ State.reset with pmu := { PmuSt.reset with retryWait := true } }, by decide +kernel⟩,
    ⟨{ State.reset with pmu := { PmuSt.reset with seqOn := true } }, by decide +kernel, by decide +kernel, by decide +kernel⟩,
    ⟨6, { State.reset with pmu := { PmuSt.reset with opened := [6] } }, by decide +kernel⟩,
    ⟨8, State.reset.setBit A.PMU_RAILSTAT 24 true, by decide +kernel⟩,
    ⟨8, State.reset.setBit A.PMU_RAILSTAT 24 true, by decide +kernel⟩,
    ⟨6, { State.reset with pmu := { PmuSt.reset with enabled := 0x40 } }, by decide +kernel, by decide +kernel, by
      decide +kernel⟩,
    ⟨7, State.reset, by decide +kernel⟩,
    ⟨1, State.reset, by decide +kernel⟩,
    ⟨0x100, { State.reset with sys := { SysSt.reset with pllAOn := true } }, by decide +kernel, by decide +kernel, by
      decide +kernel, by decide +kernel, by decide +kernel, by decide +kernel, by decide +kernel, by decide +kernel⟩,
    ⟨0x00000015, { State.reset.wr F.PMU_MICB_CFG_MICB0 0x15 with pmu := { PmuSt.reset with enabled := 0x40 } }, by
      decide +kernel, by decide +kernel, by decide +kernel⟩,
    ⟨0x2015, State.reset.wr F.PMU_MICB_CFG_MICB0 0x15, by decide +kernel, by decide +kernel, by decide +kernel, by
      decide +kernel, by decide +kernel⟩,
    ⟨false, { State.reset with pmu := { PmuSt.reset with enabled := 0x40 } }, by decide +kernel, by decide +kernel⟩⟩

theorem witness_PvddConverterAndDemands :
    (∃ (s : State), (s.pmu.enabled.getLsbD 7 = false ∨ s.pmu.follow = true)) ∧
    (∃ (s : State), s.pvddRuns = true ∧ s.pmu.follow = false) ∧
    (∃ (b : List Demand) (rest : List (List Demand)) (s : State), s.dsp.laSent = b :: rest ∧ 128 < s.pmu.queue.length +
      b.length) ∧
    (∃ (b : List Demand) (rest : List (List Demand)) (s : State), s.dsp.laSent = b :: rest ∧ s.pmu.queue.length + b.length ≤
      128) ∧
    (∃ (s : State), s.pmu.queue.all (fun d => d.2) = false) ∧
    (∃ (s : State), s.pmu.queue ≠ []) ∧
    (∃ (s : State), s.laSilent = true) ∧
    (∃ (s : State), s.laSilent = false) ∧
    (∃ (cause : BitVec 4) (s : State), s.pvddRuns = true ∧ cause = 8) ∧
    (∃ (cause : BitVec 4) (s : State), s.pvddRuns = true ∧ cause = 2) ∧
    (∃ (s : State), s.pvddRuns = true ∧ s.on F.PMU_PVDD_CFG_SHED_EN = true) ∧
    (∃ (first : Nat) (second : Nat) (s : State), s.pvddRuns = true ∧ 15 * s.rd F.PMU_ILIM_PH_ILIM < min first second ∧
      s.recent s.pmu.ocpTimes 1000000 = []) ∧
    (∃ (first : Nat) (second : Nat) (s : State), s.pvddRuns = true ∧ 15 * s.rd F.PMU_ILIM_PH_ILIM < min first second ∧
      s.recent s.pmu.ocpTimes 1000000 ≠ []) ∧
    (∃ (first : Nat) (second : Nat) (s : State), min first second ≤ 15 * s.rd F.PMU_ILIM_PH_ILIM) ∧
    (∃ (s : State), s.pmu.ocp = true ∧ s.pmu.pvddFail = false ∧ s.pmu.enabled.getLsbD 7 = true) ∧
    (∃ (volts : BitVec 16) (us : Nat) (s : State), (56 * 1024 < volts.toNat ∨ 50 ≤ us ∧ s.overVc volts.toNat = true) ∧
      s.pmu.enabled.getLsbD 7 = true ∧ s.pmu.ov = false) ∧
    (∃ (volts : BitVec 16) (s : State), s.pmu.ov = true ∧ 10 * volts.toNat ≤ 10 * s.vcNow + max (30 * 1024) s.vcNow) ∧
    (∃ (volts : BitVec 16) (us : Nat) (s : State), volts.toNat < 10 * 1024 ∧ 50 ≤ us ∧ s.pmu.enabled.getLsbD 7 = true ∧
      s.pmu.follow = true) ∧
    (∃ (s : State), s.pmu.pvddLost = true ∧ s.pmu.follow = true ∧ s.pvddRuns = true) ∧
    (∃ (s : State), s.on F.SYS_CLKSTAT_XTAL_OK = true) ∧
    (∃ (mv : Nat) (s : State), mv = (if s.boot.bootsel % 2 = 0 then 9000 else 36000)) :=
  ⟨⟨State.reset, by decide +kernel⟩,
    ⟨{ State.reset with pmu := { PmuSt.reset with enabled := 0x80 } }, by decide +kernel, by decide +kernel⟩,
    ⟨List.replicate 129 { tag := 0, volts := 5 }, [], { State.reset with dsp := { DspSt.reset with laSent := [List.replicate 129 { tag := 0,
                                                                                                                                   volts := 5 }] } },
      by decide +kernel, by decide +kernel⟩,
    ⟨[{ tag := 0, volts := 5 }], [], { State.reset with dsp := { DspSt.reset with laSent := [[{ tag := 0, volts := 5 }]] } },
      by decide +kernel, by decide +kernel⟩,
    ⟨{ State.reset with pmu := { PmuSt.reset with queue := [({ tag := 0, volts := 5 }, false)] } }, by decide +kernel⟩,
    ⟨{ State.reset with pmu := { PmuSt.reset with queue := [({ tag := 0, volts := 5 }, false)] } }, by decide +kernel⟩,
    ⟨{ State.reset with dsp := { DspSt.reset with laMissed := 2 } }, by decide +kernel⟩,
    ⟨{ sUp with dsp := { DspSt.reset with graph := { Graph.empty with blocks := [{ inst := 1, ty := 0x0B, cls := 0, pclass := 0,
                                                                                   asil := false, params := [] }] } } }.wr
      F.DSPX_STAT_GRAPH 2, by decide +kernel⟩,
    ⟨8, { State.reset with pmu := { PmuSt.reset with enabled := 0x80 } }, by decide +kernel, by decide +kernel⟩,
    ⟨2, { State.reset with pmu := { PmuSt.reset with enabled := 0x80 } }, by decide +kernel, by decide +kernel⟩,
    ⟨({ State.reset with pmu := { PmuSt.reset with enabled := 0x80 } } : State).wr F.PMU_PVDD_CFG_SHED_EN 1, by
      decide +kernel, by decide +kernel⟩,
    ⟨100000, 100000, { State.reset with pmu := { PmuSt.reset with enabled := 0x80 } }, by decide +kernel, by decide +kernel,
      by decide +kernel⟩,
    ⟨100000, 100000, { State.reset with pmu := { PmuSt.reset with enabled := 0x80, ocpTimes := [0] } }, by decide +kernel, by
      decide +kernel, by decide +kernel⟩,
    ⟨0, 100000, State.reset, by decide +kernel⟩,
    ⟨{ State.reset with pmu := { PmuSt.reset with enabled := 0x80, ocp := true } }, by decide +kernel, by decide +kernel, by
      decide +kernel⟩,
    ⟨0xFFFF, 0, { State.reset with pmu := { PmuSt.reset with enabled := 0x80 } }, by decide +kernel, by decide +kernel, by
      decide +kernel⟩,
    ⟨3072, { State.reset with pmu := { PmuSt.reset with ov := true } }, by decide +kernel, by decide +kernel⟩,
    ⟨10239, 50, { State.reset with pmu := { PmuSt.reset with enabled := 0x80, follow := true } }, by decide +kernel, by
      decide +kernel, by decide +kernel, by decide +kernel⟩,
    ⟨{ State.reset with pmu := { PmuSt.reset with enabled := 0x80, follow := true, pvddLost := true } }, by decide +kernel, by
      decide +kernel, by decide +kernel⟩,
    ⟨State.reset.wr F.SYS_CLKSTAT_XTAL_OK 1, by decide +kernel⟩,
    ⟨9000, State.reset, by decide +kernel⟩⟩

theorem witness_HoldupStandbyAndWake :
    (∃ (s : State), s.holdState = 1) ∧
    (∃ (s : State), (s.holdState = 1 ∨ s.holdState = 2)) ∧
    (∃ (hold : Nat) (s : State), (s.holdState = 2 ∨ s.holdState = 1 ∧ s.rd F.PMU_HOLD_CFG_HU_FLOOR + 20 ≤ hold)) ∧
    (∃ (hold : Nat) (s : State), s.holdState ≠ 2 ∧ (s.holdState = 1 → hold < s.rd F.PMU_HOLD_CFG_HU_FLOOR + 20)) ∧
    (∃ (s : State), s.holdState = 3) ∧
    (∃ (s : State), s.holdState = 4) ∧
    (∃ (s : State), s.holdState = 3) ∧
    (∃ (v : Word), getField v 16 16 ≠ 0x5342) ∧
    (∃ (v : Word) (s : State), getField v 16 16 = 0x5342 ∧ v.getLsbD 0 = true ∧ s.pmu.wakePin = true ∧ s.on
      F.PMU_WAKECFG_PIN_EN = true) ∧
    (∃ (v : Word) (s : State), getField v 16 16 = 0x5342 ∧ v.getLsbD 0 = true ∧ s.pmu.wakePin = false ∧ s.pmu.mode = .run ∧
      s.holdState ≠ 3) ∧
    (∃ (v : Word) (s : State), getField v 16 16 = 0x5342 ∧ v.getLsbD 0 = true ∧ s.pmu.wakePin = false ∧ s.pmu.mode = .run ∧
      s.holdState = 3) ∧
    (∃ (s : State), s.on F.PMU_WAKECFG_WAKE_OFF = true ∧ s.pmu.wakeCount = true ∧ s.sys.dieHeld = false) ∧
    (∃ (s : State), s.pmu.mode = .entry ∧ s.sys.dieHeld = true ∧ s.pmu.down = [] ∧ s.pmu.wakeDue = 0) ∧
    (∃ (v : Word), (getField v 0 3 = 0 ∨ getField v 8 8 = 0)) ∧
    (∃ (v : Word), getField v 0 3 ≠ 0 ∧ getField v 8 8 ≠ 0) ∧
    (∃ (s : State), s.pmu.wakeCfg.getLsbD 0 = true) ∧
    (∃ (s : State), s.pmu.wakeCfg.getLsbD 2 = true) ∧
    (∃ (addr : BitVec 7) (s : State), s.pmu.wakeCfg.getLsbD 1 = true ∧ s.pmu.mode = .standby ∧ addr.toNat = s.hbus.matchAddr) ∧
    (∃ (addr : BitVec 7) (s : State), addr.toNat ≠ s.hbus.matchAddr) :=
  ⟨⟨State.reset.wr F.PMU_HOLD_STAT_STATE 1, by decide +kernel⟩,
    ⟨State.reset.wr F.PMU_HOLD_STAT_STATE 2, by decide +kernel⟩,
    ⟨1000, State.reset.wr F.PMU_HOLD_STAT_STATE 1, by decide +kernel⟩,
    ⟨0, State.reset.wr F.PMU_HOLD_STAT_STATE 1, by decide +kernel, by decide +kernel⟩,
    ⟨State.reset.wr F.PMU_HOLD_STAT_STATE 3, by decide +kernel⟩,
    ⟨State.reset.wr F.PMU_HOLD_STAT_STATE 4, by decide +kernel⟩,
    ⟨State.reset.wr F.PMU_HOLD_STAT_STATE 3, by decide +kernel⟩,
    ⟨1, by decide +kernel⟩,
    ⟨0x53420001, ({ State.reset with pmu := { PmuSt.reset with wakePin := true } } : State).wr F.PMU_WAKECFG_PIN_EN 1, by
      decide +kernel, by decide +kernel, by decide +kernel, by decide +kernel⟩,
    ⟨0x53420001, State.reset, by decide +kernel, by decide +kernel, by decide +kernel, by decide +kernel, by decide +kernel⟩,
    ⟨0x53420001, State.reset.wr F.PMU_HOLD_STAT_STATE 3, by decide +kernel, by decide +kernel, by decide +kernel, by
      decide +kernel, by decide +kernel⟩,
    ⟨({ State.reset with pmu := { PmuSt.reset with wakeCount := true }, sys := { SysSt.reset with dieHeld := false } } :
      State).wr F.PMU_WAKECFG_WAKE_OFF 1, by decide +kernel, by decide +kernel, by decide +kernel⟩,
    ⟨{ State.reset with pmu := { PmuSt.reset with mode := .entry } }, by decide +kernel, by decide +kernel, by decide +kernel,
      by decide +kernel⟩,
    ⟨0, by decide +kernel⟩,
    ⟨0x0101, by decide +kernel, by decide +kernel⟩,
    ⟨{ State.reset with pmu := { PmuSt.reset with wakeCfg := 1 } }, by decide +kernel⟩,
    ⟨{ State.reset with pmu := { PmuSt.reset with wakeCfg := 4 } }, by decide +kernel⟩,
    ⟨0x40, { State.reset with pmu := { PmuSt.reset with wakeCfg := 2, mode := .standby }, hbus := { HbusSt.reset with matchAddr := 0x40 } }, by decide +kernel, by decide +kernel, by decide +kernel⟩,
    ⟨1, { State.reset with hbus := { HbusSt.reset with matchAddr := 0x40 } }, by decide +kernel⟩⟩

theorem witness_EnergyGovernor :
    (∃ (p : Nat × HkEnt) (h : Nat × HkEnt) (s : State), s.busUp = true ∧ s.on F.SEC_LOCKSTAT_LOCKED = true ∧ s.hkResult 2 =
      some p ∧ s.hkResult 3 = some h) ∧
    (∃ (s : State), s.on F.SEC_LOCKSTAT_LOCKED = false) ∧
    (∃ (v : Word) (s : State), s.rd F.GOV_LIMIT_MAX_MIN ≤ getField v 0 16 ∧ getField v 0 16 ≤ s.rd F.GOV_LIMIT_MAX_MAX ∧ s.on
      F.GOV_STATUS_DISCHARGE = false) ∧
    (∃ (v : Word) (s : State), (getField v 0 16 < s.rd F.GOV_LIMIT_MAX_MIN ∨ s.rd F.GOV_LIMIT_MAX_MAX < getField v 0 16 ∨ s.on
      F.GOV_STATUS_DISCHARGE = true)) ∧
    (∃ (us : Nat) (s : State), 10 ≤ us ∧ s.pmu.mode = .run ∧ s.sys.dieHeld = false) ∧
    (∃ (us : Nat) (s : State), 10 ≤ us ∧ s.pmu.mode = .run ∧ s.sys.dieHeld = true) ∧
    (∃ (us : Nat), us < 10) ∧
    (∃ (v : Word), getField v 16 16 ≠ 0x4443) ∧
    (∃ (v : Word), getField v 16 16 = 0x4443 ∧ v.getLsbD 0 = true) ∧
    (∃ (s : State), s.on F.GOV_STATUS_DISCHARGE = true ∧ s.gov.pdis = false) ∧
    (∃ (s : State), s.on F.GOV_STATUS_DISCHARGE = true ∧ s.on F.GOV_STATUS_DISCHARGED = false ∧ s.energySpent ≠ some false) ∧
    (∃ (s : State), s.energySpent = some false) ∧
    (∃ (s : State), s.on F.GOV_STATUS_DISCHARGE = true ∧ s.on F.GOV_STATUS_DISCHARGED = false ∧ s.energySpent ≠ some true) ∧
    (∃ (s : State), s.boot.firmware = false) ∧
    (∃ (s : State), s.boot.firmware = true ∧ s.busUp = true ∧ (∀ o < 16, (s.out o).chans = [])) :=
  ⟨⟨(0, { slot := 2, input := 2, n := 1, shift := 0, winEn := false, fcol := false, back := 15, trig := 0, rep := 1, delay := 0,
           hi := 65535, lo := 0 }), (0, { slot := 3, input := 3, n := 1, shift := 0, winEn := false, fcol := false, back := 15,
                                          trig := 0, rep := 1, delay := 0, hi := 65535, lo := 0 }), ((({ sUp with hk := { HkSt.reset with seq := { HkSeq.dflt with ents := [{ slot := 2,
                                                                                                                                                                              input := 2,
                                                                                                                                                                              n := 1,
                                                                                                                                                                              shift := 0,
                                                                                                                                                                              winEn := false,
                                                                                                                                                                              fcol := false,
                                                                                                                                                                              back := 15,
                                                                                                                                                                              trig := 0,
                                                                                                                                                                              rep := 1,
                                                                                                                                                                              delay := 0,
                                                                                                                                                                              hi := 65535,
                                                                                                                                                                              lo := 0 }, { slot := 3,
                                                                                                                                                                                           input := 3,
                                                                                                                                                                                           n := 1,
                                                                                                                                                                                           shift := 0,
                                                                                                                                                                                           winEn := false,
                                                                                                                                                                                           fcol := false,
                                                                                                                                                                                           back := 15,
                                                                                                                                                                                           trig := 0,
                                                                                                                                                                                           rep := 1,
                                                                                                                                                                                           delay := 0,
                                                                                                                                                                                           hi := 65535,
                                                                                                                                                                                           lo := 0 }] } } }
      : State).wr F.SEC_LOCKSTAT_LOCKED 1).wr (F.HKADC_ENTk_RES_VALID 2) 1).wr (F.HKADC_ENTk_RES_VALID 3) 1, by
      decide +kernel, by decide +kernel, by decide +kernel, by decide +kernel⟩,
    ⟨State.reset, by decide +kernel⟩,
    ⟨5, State.reset.wr F.GOV_LIMIT_MAX_MAX 5, by decide +kernel, by decide +kernel, by decide +kernel⟩,
    ⟨0xFFFF, State.reset, by decide +kernel⟩,
    ⟨10, { State.reset with sys := { SysSt.reset with dieHeld := false } }, by decide +kernel, by decide +kernel, by
      decide +kernel⟩,
    ⟨10, State.reset, by decide +kernel, by decide +kernel, by decide +kernel⟩,
    ⟨9, by decide +kernel⟩,
    ⟨1, by decide +kernel⟩,
    ⟨0x44430001, by decide +kernel, by decide +kernel⟩,
    ⟨State.reset.wr F.GOV_STATUS_DISCHARGE 1, by decide +kernel, by decide +kernel⟩,
    ⟨State.reset.wr F.GOV_STATUS_DISCHARGE 1, by decide +kernel, by decide +kernel, by decide +kernel⟩,
    ⟨(({ State.reset with hk := { HkSt.reset with seq := { HkSeq.dflt with ents := [{ slot := 2, input := 2, n := 1, shift := 0,
                                                                                      winEn := false, fcol := false, back := 15,
                                                                                      trig := 0, rep := 1, delay := 0, hi := 65535,
                                                                                      lo := 0 }, { slot := 3, input := 3, n := 1,
                                                                                                   shift := 0, winEn := false,
                                                                                                   fcol := false, back := 15,
                                                                                                   trig := 0, rep := 1, delay := 0,
                                                                                                   hi := 65535, lo := 0 }] } } }
      : State).wr (F.HKADC_ENTk_RES_VALID 2) 1).wr (F.HKADC_ENTk_RES_VALID 3) 1 |>.wr (F.HKADC_ENTk_RES_RESULT 2) 4000 |>.wr
      F.GOV_CAP_PVDD 4000, by decide +kernel⟩,
    ⟨State.reset.wr F.GOV_STATUS_DISCHARGE 1, by decide +kernel, by decide +kernel, by decide +kernel⟩,
    ⟨State.reset, by decide +kernel⟩,
    ⟨{ sUp with boot := { BootSt.reset with firmware := true } }, by decide +kernel, by decide +kernel, by decide +kernel⟩⟩

theorem witness_HousekeepingConverter :
    (∃ (s : State), s.hkRuns = false) ∧
    (∃ (k : Nat) (s : State), s.hkRuns = true ∧ s.hk.inj = some k) ∧
    (∃ (e : HkEnt) (s : State), s.hkRuns = true ∧ s.hk.inj = none ∧ s.hk.seq.ent s.hk.pos = some e ∧ s.hk.seq.table = false) ∧
    (∃ (k : Fin 8), k.val ≠ 0 ∧ k.val ≠ 7) ∧
    (∃ (s : State), s.islandStopped A.HKADC_CTRL = false) ∧
    (∃ (s : State), s.rd F.HKADC_TIMER_PERIOD = 0) ∧
    (∃ (s : State), s.rd F.HKADC_TIMER_PERIOD ≠ 0) ∧
    (∃ (s : State), s.hk.refOn = true ∧ s.on F.HKADC_STAT_RUN = true ∧ s.on F.HKADC_STAT_REF_RDY = false ∧ s.hk.bootCal = true
      ∧ s.hk.calAgain = false) ∧
    (∃ (s : State), s.on F.HKADC_STAT_RUN = true ∧ s.on F.SYS_CLKSTAT_XTAL_OK = false ∧ s.on F.HKADC_STAT_CAL_BUSY = false) ∧
    (∃ (s : State), s.islandStopped A.HKADC_CTRL = false ∧ s.on F.HKADC_STAT_CAL_PENDING = false) ∧
    (∃ (s : State), s.on F.HKADC_STAT_CAL_PENDING = true ∧ s.hkRuns = true ∧ s.on F.HKADC_STAT_REF_RDY = true ∧ s.hk.queue =
      [] ∧ s.hk.inj = none) ∧
    (∃ (a : BitVec 16) (b : BitVec 16) (s : State), s.on F.HKADC_STAT_CAL_BUSY = true ∧ a.toInt.natAbs ≤ 512 ∧ b.toInt.natAbs
      ≤ 1966) ∧
    (∃ (a : BitVec 16) (b : BitVec 16) (s : State), s.on F.HKADC_STAT_CAL_BUSY = true ∧ (512 < a.toInt.natAbs ∨ 1966 <
      b.toInt.natAbs)) ∧
    (∃ (s : State), s.hk.seqDue = none) ∧
    (∃ (q : HkSeq) (s : State), s.hk.seqDue = some q ∧ s.hk.queue = [] ∧ s.hk.inj = none ∧ s.hkRuns = true) ∧
    (∃ (k : Fin 64) (v : Word) (s : State), s.islandStopped (A.HKADC_ENTk_WIN k) = false ∧ getField v 16 16 < getField v 0 16) ∧
    (∃ (k : Fin 64) (v : Word) (s : State), s.islandStopped (A.HKADC_ENTk_WIN k) = false ∧ getField v 0 16 ≤ getField v 16 16
      ∧ s.hk.seq.ent k = none) :=
  ⟨⟨State.reset, by decide +kernel⟩,
    ⟨2, (({ State.reset with hk := { HkSt.reset with inj := some 2 } } : State).wr F.HKADC_STAT_RUN 1).wr
      F.SYS_CLKSTAT_XTAL_OK 1, by decide +kernel, by decide +kernel⟩,
    ⟨{ slot := 0, input := 2, n := 1, shift := 0, winEn := false, fcol := false, back := 15, trig := 0, rep := 1, delay := 0,
       hi := 65535, lo := 0 }, (({ State.reset with hk := { HkSt.reset with seq := { HkSeq.dflt with table := false, ents := [{ slot := 0,
                                                                                                                                input := 2,
                                                                                                                                n := 1,
                                                                                                                                shift := 0,
                                                                                                                                winEn := false,
                                                                                                                                fcol := false,
                                                                                                                                back := 15,
                                                                                                                                trig := 0,
                                                                                                                                rep := 1,
                                                                                                                                delay := 0,
                                                                                                                                hi := 65535,
                                                                                                                                lo := 0 }] } } }
      : State).wr F.HKADC_STAT_RUN 1).wr F.SYS_CLKSTAT_XTAL_OK 1, by decide +kernel, by decide +kernel, by decide +kernel, by
      decide +kernel⟩,
    ⟨6, by decide +kernel, by decide +kernel⟩,
    ⟨State.reset.wr F.HKADC_STAT_RUN 1, by decide +kernel⟩,
    ⟨State.reset, by decide +kernel⟩,
    ⟨State.reset.wr F.HKADC_TIMER_PERIOD 10, by decide +kernel⟩,
    ⟨({ State.reset with hk := { HkSt.reset with refOn := true, bootCal := true } } : State).wr F.HKADC_STAT_RUN 1, by
      decide +kernel, by decide +kernel, by decide +kernel, by decide +kernel, by decide +kernel⟩,
    ⟨State.reset.wr F.HKADC_STAT_RUN 1, by decide +kernel, by decide +kernel, by decide +kernel⟩,
    ⟨(State.reset.wr F.HKADC_STAT_RUN 1), by decide +kernel, by decide +kernel⟩,
    ⟨(((State.reset.wr F.HKADC_STAT_RUN 1).wr F.SYS_CLKSTAT_XTAL_OK 1).wr F.HKADC_STAT_REF_RDY 1).wr F.HKADC_STAT_CAL_PENDING
      1, by decide +kernel, by decide +kernel, by decide +kernel, by decide +kernel, by decide +kernel⟩,
    ⟨0xFE00, 1966, State.reset.wr F.HKADC_STAT_CAL_BUSY 1, by decide +kernel, by decide +kernel, by decide +kernel⟩,
    ⟨513, 0, State.reset.wr F.HKADC_STAT_CAL_BUSY 1, by decide +kernel, by decide +kernel⟩,
    ⟨State.reset, by decide +kernel⟩,
    ⟨HkSeq.dflt, (({ State.reset with hk := { HkSt.reset with seqDue := some HkSeq.dflt } } : State).wr F.HKADC_STAT_RUN 1).wr
      F.SYS_CLKSTAT_XTAL_OK 1, by decide +kernel, by decide +kernel, by decide +kernel, by decide +kernel⟩,
    ⟨63, 1, (State.reset.wr F.HKADC_STAT_RUN 1), by decide +kernel, by decide +kernel⟩,
    ⟨63, 0xFFFF0000, { (State.reset.wr F.HKADC_STAT_RUN 1) with hk := { HkSt.reset with seq := { HkSeq.dflt with ents := [] } } },
      by decide +kernel, by decide +kernel, by decide +kernel⟩⟩

theorem witness_FaultIntake :
    (∃ (e : FaultEvt) (s : State), s.sys.dieHeld = false ∧ e.jig = false ∧ s.evtMasked e = true) ∧
    (∃ (e : FaultEvt) (s : State), s.sys.dieHeld = false ∧ e.jig = false ∧ s.evtMasked e = false ∧ ((s.reactBytes (s.ruleMatch
      e.id) e.id).1 % 8 ≠ 4 ∧ (s.reactBytes (s.ruleMatch e.id) e.id).2.1 % 8 ≠ 4 ∧ (s.reactBytes (s.ruleMatch e.id) e.id).2.2
      % 8 ≠ 4) ∧ s.fcol.normal.length < 32) ∧
    (∃ (e : FaultEvt) (s : State), s.sys.dieHeld = false ∧ e.jig = false ∧ s.evtMasked e = false ∧ ((s.reactBytes (s.ruleMatch
      e.id) e.id).1 % 8 ≠ 4 ∧ (s.reactBytes (s.ruleMatch e.id) e.id).2.1 % 8 ≠ 4 ∧ (s.reactBytes (s.ruleMatch e.id) e.id).2.2
      % 8 ≠ 4) ∧ 32 ≤ s.fcol.normal.length) ∧
    (∃ (e : FaultEvt) (rest : List FaultEvt) (s : State), s.fcol.inFlight = e :: rest) ∧
    (∃ (q : QEvt) (rest : List QEvt) (s : State), s.fcol.prio = q :: rest) ∧
    (∃ (q : QEvt) (rest : List QEvt) (s : State), s.fcol.prio = [] ∧ s.fcol.normal = q :: rest ∧ s.fcol.overflowDue = false) ∧
    (∃ (s : State), s.sys.dieHeld = false) ∧
    (∃ (u : Unit') (rest : List Unit') (s : State), s.busUp = true ∧ s.fcol.fenceDue = u :: rest) ∧
    (∃ (s : State), s.busUp = false) ∧
    (∃ (v : Word), v.getLsbD 0 = true ∧ getField v 16 16 ≠ 0x5346) ∧
    (∃ (v : Word) (s : State), v.getLsbD 0 = true ∧ getField v 16 16 = 0x5346 ∧ s.on F.FCOL_STAT_SAFE = false) ∧
    (∃ (v : Word) (s : State), v.getLsbD 0 = true ∧ getField v 16 16 = 0x5346 ∧ s.on F.FCOL_STAT_SAFE = true) ∧
    (∃ (s : State), s.sys.dieHeld = false ∧ s.on F.FCOL_STAT_SAFE = false) ∧
    (∃ (who : Writer), who ≠ .firmware) ∧
    (∃ (s : State), s.rd F.FCOL_STAT_RULES = 0) ∧
    (∃ (who : Writer), who ≠ .firmware) ∧
    (∃ (s : State), s.on F.FCOL_STAT_ALIVE_RUN = true) ∧
    (∃ (who : Writer), who ≠ .firmware) ∧
    (∃ (s : State), s.on F.FCOL_STAT_WDOG_RUN = true ∧ wdogLeast ≤ s.now - s.fcol.wdogAt) ∧
    (∃ (s : State), (s.on F.FCOL_STAT_WDOG_RUN = false ∨ s.now - s.fcol.wdogAt < wdogLeast)) ∧
    (∃ (who : Writer) (v : Word) (s : State), who = .firmware ∧ getField v 0 8 ≤ 0x3A ∧ v.getLsbD 31 = true ∧ s.rd
      F.FCOL_JIGSTAT_STATE ≠ 1) ∧
    (∃ (v : Word), 0x3A < getField v 0 8) ∧
    (∃ (s : State), s.rd F.FCOL_JIGSTAT_STATE = 1 ∧ s.boot.state ≠ bootDryfitRunning) ∧
    (∃ (s : State), s.rd F.FCOL_JIGSTAT_STATE = 1 ∧ s.boot.state = bootDryfitRunning) :=
  ⟨⟨{ id := 0x5000, detail := 0, lasting := false, jig := false }, ({ State.reset with sys := { SysSt.reset with dieHeld := false } }
      : State).wr (F.MOD_CHc_STAT_FENCED 0) 1, by decide +kernel, by decide +kernel, by decide +kernel⟩,
    ⟨{ id := 0x5101, detail := 0, lasting := false, jig := false }, { State.reset with sys := { SysSt.reset with dieHeld := false } },
      by decide +kernel, by decide +kernel, by decide +kernel, by decide +kernel, by decide +kernel⟩,
    ⟨{ id := 0x5101, detail := 0, lasting := false, jig := false }, { State.reset with sys := { SysSt.reset with dieHeld := false },
                                                                                       fcol := { FcolSt.reset with normal := List.replicate 32 { ev := { id := 0,
                                                                                                                                                         detail := 0,
                                                                                                                                                         lasting := false,
                                                                                                                                                         jig := false },
                                                                                                                                                 rule := none,
                                                                                                                                                 atRollover := false,
                                                                                                                                                 contained := false } } },
      by decide +kernel, by decide +kernel, by decide +kernel, by decide +kernel, by decide +kernel⟩,
    ⟨{ id := 0x5101, detail := 0, lasting := false, jig := false }, [], { State.reset with fcol := { FcolSt.reset with inFlight := [{ id := 0x5101,
                                                                                                                                      detail := 0,
                                                                                                                                      lasting := false,
                                                                                                                                      jig := false }] } },
      by decide +kernel⟩,
    ⟨{ ev := { id := 0, detail := 0, lasting := false, jig := false }, rule := none, atRollover := false, contained := false },
      [], { State.reset with fcol := { FcolSt.reset with prio := [{ ev := { id := 0, detail := 0, lasting := false, jig := false },
                                                                    rule := none, atRollover := false, contained := false }] } },
      by decide +kernel⟩,
    ⟨{ ev := { id := 0, detail := 0, lasting := false, jig := false }, rule := none, atRollover := false, contained := false },
      [], { State.reset with fcol := { FcolSt.reset with normal := [{ ev := { id := 0, detail := 0, lasting := false, jig := false },
                                                                      rule := none, atRollover := false, contained := false }] } },
      by decide +kernel, by decide +kernel, by decide +kernel⟩,
    ⟨{ State.reset with sys := { SysSt.reset with dieHeld := false } }, by decide +kernel⟩,
    ⟨.core 3, [], { sUp with fcol := { FcolSt.reset with fenceDue := [.core 3] } }, by decide +kernel, by decide +kernel⟩,
    ⟨State.reset, by decide +kernel⟩,
    ⟨1, by decide +kernel, by decide +kernel⟩,
    ⟨0x53460001, State.reset, by decide +kernel, by decide +kernel, by decide +kernel⟩,
    ⟨0x53460001, State.reset.wr F.FCOL_STAT_SAFE 1, by decide +kernel, by decide +kernel, by decide +kernel⟩,
    ⟨{ State.reset with sys := { SysSt.reset with dieHeld := false } }, by decide +kernel, by decide +kernel⟩,
    ⟨.host, by decide +kernel⟩,
    ⟨State.reset, by decide +kernel⟩,
    ⟨.host, by decide +kernel⟩,
    ⟨State.reset.wr F.FCOL_STAT_ALIVE_RUN 1, by decide +kernel⟩,
    ⟨.host, by decide +kernel⟩,
    ⟨({ State.reset with now := 9523 } : State).wr F.FCOL_STAT_WDOG_RUN 1, by decide +kernel, by decide +kernel⟩,
    ⟨({ State.reset with now := 9522 } : State).wr F.FCOL_STAT_WDOG_RUN 1, by decide +kernel⟩,
    ⟨.firmware, 0x8000003A, State.reset, by decide +kernel, by decide +kernel, by decide +kernel, by decide +kernel⟩,
    ⟨0x8000003B, by decide +kernel⟩,
    ⟨State.reset.wr F.FCOL_JIGSTAT_STATE 1, by decide +kernel, by decide +kernel⟩,
    ⟨({ State.reset with boot := { BootSt.reset with state := bootDryfitRunning } } : State).wr F.FCOL_JIGSTAT_STATE 1, by
      decide +kernel, by decide +kernel⟩⟩

theorem witness_HostBusCommands :
    (∃ (s : State), s.hostUp = true) ∧
    (∃ (s : State), s.hostUp = false) ∧
    (∃ (s : State), s.hostUp = true) ∧
    (∃ (v : Word) (p : Byte) (s : State), s.hostUp = true ∧ s.hostBusy = false ∧ v.toNat % 4 = 0 ∧ p = s.writePec (0x10 ::
      leBytes 4 v.toNat)) ∧
    (∃ (v : Word) (p : Byte) (s : State), s.hostUp = true ∧ s.hostBusy = false ∧ v.toNat % 4 ≠ 0 ∧ p = s.writePec (0x10 ::
      leBytes 4 v.toNat)) ∧
    (∃ (n : Byte) (s : State), s.hostUp = true ∧ s.hostBusy = false ∧ n ≠ 0 ∧ n.toNat % 4 = 0) ∧
    (∃ (n : Byte) (s : State), s.hostUp = true ∧ (n = 0 ∨ n.toNat % 4 ≠ 0)) ∧
    (∃ (n : Byte) (b : List Byte) (p : Byte) (s : State), s.hostUp = true ∧ s.hostBusy = false ∧ n ≠ 0 ∧ n.toNat % 4 = 0 ∧ p =
      s.writePec (0x12 :: n :: b)) ∧
    (∃ (s : State), s.hostUp = true ∧ s.hostBusy = true) ∧
    (∃ (n : Nat) (s : State), s.hostUp = true ∧ s.hostBusy = false ∧ s.claimBest (s.srcsIn .pending) = some n) ∧
    (∃ (s : State), s.hostUp = true ∧ s.hostBusy = false ∧ s.srcsIn .pending = []) ∧
    (∃ (n : Byte) (p : Byte) (s : State), s.hostUp = true ∧ s.hostBusy = false ∧ p = s.writePec ([0x31, n])) ∧
    (∃ (n : Byte) (p : Byte) (s : State), s.hostUp = true ∧ s.hostBusy = false ∧ p ≠ s.writePec ([0x31, n])) ∧
    (∃ (s : State), s.hostUp = true) ∧
    (∃ (s : State), s.hostUp = true ∧ s.hostBusy = false) ∧
    (∃ (m : List Byte) (p : Byte) (s : State), s.hostUp = true ∧ s.hostBusy = false ∧ u8 m 0 = 0x52 ∧ u8 m 1 = 0x57 ∧ u8 m 2 ≤
      2 ∧ p = s.writePec (0x6F :: m)) ∧
    (∃ (m : List Byte) (p : Byte) (s : State), s.hostUp = true ∧ s.hostBusy = false ∧ u8 m 0 ≠ 0x52 ∧ p = s.writePec (0x6F ::
      m)) ∧
    (∃ (s : State), s.hostUp = true) ∧
    (∃ (s : State), s.hostUp = true) ∧
    (∃ (s : State), s.hostUp = true) :=
  ⟨⟨sHost, by decide +kernel⟩,
    ⟨State.reset, by decide +kernel⟩,
    ⟨sHost, by decide +kernel⟩,
    ⟨0x20000000, (sHost : State).writePec (0x10 :: leBytes 4 (0x20000000 : Word).toNat), sHost, by decide +kernel, by
      decide +kernel, by decide +kernel, by decide +kernel⟩,
    ⟨0x20000002, (sHost : State).writePec (0x10 :: leBytes 4 (0x20000002 : Word).toNat), sHost, by decide +kernel, by
      decide +kernel, by decide +kernel, by decide +kernel⟩,
    ⟨252, sHost, by decide +kernel, by decide +kernel, by decide +kernel, by decide +kernel⟩,
    ⟨2, sHost, by decide +kernel, by decide +kernel⟩,
    ⟨4, [1, 2, 3, 4], (sHost : State).writePec (0x12 :: (4) :: ([1, 2, 3, 4])), sHost, by decide +kernel, by decide +kernel,
      by decide +kernel, by decide +kernel, by decide +kernel⟩,
    ⟨{ sHost with boot := { BootSt.reset with state := bootRomRead } }, by decide +kernel, by decide +kernel⟩,
    ⟨17, { sHost with intc := { IntcSt.reset with src := [(17, .pending)] } }, by decide +kernel, by decide +kernel, by
      decide +kernel⟩,
    ⟨sHost, by decide +kernel, by decide +kernel, by decide +kernel⟩,
    ⟨17, (sHost : State).writePec ([0x31, (17)]), sHost, by decide +kernel, by decide +kernel, by decide +kernel⟩,
    ⟨17, (sHost : State).writePec ([0x31, (17)]) + 1, sHost, by decide +kernel, by decide +kernel, by decide +kernel⟩,
    ⟨sHost, by decide +kernel⟩,
    ⟨sHost, by decide +kernel, by decide +kernel⟩,
    ⟨[0x52, 0x57, 2], (sHost : State).writePec (0x6F :: ([0x52, 0x57, 2])), sHost, by decide +kernel, by decide +kernel, by
      decide +kernel, by decide +kernel, by decide +kernel, by decide +kernel⟩,
    ⟨[0], (sHost : State).writePec (0x6F :: ([0])), sHost, by decide +kernel, by decide +kernel, by decide +kernel, by
      decide +kernel⟩,
    ⟨sHost, by decide +kernel⟩,
    ⟨sHost, by decide +kernel⟩,
    ⟨sHost, by decide +kernel⟩⟩

theorem witness_DebugAccessAndNvm :
    (∃ (s : State), s.hbus.addrPending = true ∧ s.sys.dieHeld = false) ∧
    (∃ (s : State), s.hostUp = true ∧ s.alertLow = false) ∧
    (∃ (line : Byte) (s : State), s.hostUp = true ∧ s.alertLow = true ∧ BitVec.ofNat 8 (2 * s.rd F.HBUS_STAT_ADDR) &&& line =
      BitVec.ofNat 8 (2 * s.rd F.HBUS_STAT_ADDR)) ∧
    (∃ (line : Byte) (s : State), s.hostUp = true ∧ s.alertLow = true ∧ BitVec.ofNat 8 (2 * s.rd F.HBUS_STAT_ADDR) &&& line ≠
      BitVec.ofNat 8 (2 * s.rd F.HBUS_STAT_ADDR)) ∧
    (∃ (s : State), s.hostUp = true ∧ s.hostBusy = false) ∧
    (∃ (n : Byte) (s : State), s.hostUp = true ∧ s.hostBusy = false ∧ n ≠ 16) ∧
    (∃ (b : List Byte) (p : Byte) (s : State), s.hostUp = true ∧ s.hostBusy = false ∧ s.sec.attempt.isSome = true ∧ p =
      s.writePec (0x51 :: 16 :: b)) ∧
    (∃ (b : List Byte) (n : List Byte) (p : Byte) (s : State), s.hostUp = true ∧ s.hostBusy = false ∧ s.sec.attempt = none ∧
      s.sec.nonce = some n ∧ s.now < s.sec.nonceUntil ∧ s.methodOk false = true ∧ s.debugOpen = false ∧ s.lockedOut = false ∧
      p = s.writePec (0x51 :: 16 :: b)) ∧
    (∃ (n : Byte) (s : State), s.hostUp = true ∧ s.hostBusy = false ∧ n ≠ 8) ∧
    (∃ (s : State), s.hostUp = true ∧ s.hostBusy = false ∧ s.on F.HBUS_CFG_PEC_REQ = false ∧ s.sec.attempt = none ∧ s.methodOk
      true = true ∧ s.debugOpen = false ∧ s.lockedOut = false) ∧
    (∃ (a : Attempt) (s : State), s.sec.attempt = some a ∧ s.attemptMatches a = true ∧ s.sec.relocked = false) ∧
    (∃ (b : List Byte) (s : State), s.sec.attempt = some (.response b none)) ∧
    (∃ (s : State), s.sys.dieHeld = false) ∧
    (∃ (s : State), s.sys.dieHeld = false) ∧
    (∃ (s : State), s.sys.dieHeld = false) ∧
    (∃ (s : State), s.now < s.sec.lockUntil) ∧
    (∃ (s : State), s.sec.lockUntil ≤ s.now) ∧
    (∃ (s : State), s.sec.nonceUntil ≤ s.now) ∧
    (∃ (v : Word) (s : State), s.sys.dieHeld = false ∧ s.otp.lifecycle ≠ 0 ∧ getField v 16 16 ≠ 0x524C) ∧
    (∃ (v : Word) (s : State), s.sys.dieHeld = false ∧ s.otp.lifecycle ≠ 0 ∧ getField v 16 16 = 0x524C ∧ v.getLsbD 0 = true) ∧
    (∃ (v : Word) (s : State), s.sys.dieHeld = false ∧ s.svOk v = true) ∧
    (∃ (v : Word) (s : State), s.sys.dieHeld = false ∧ s.svOk v = false) ∧
    (∃ (x : Nat) (s : State), s.sec.svValue = some x) ∧
    (∃ (s : State), s.busUp = false) ∧
    (∃ (ee : Bool) (len : BitVec 9) (s : State), s.busUp = true ∧ s.on F.HBUS_NVM_STAT_BUSY = false ∧ s.boot.state =
      bootRomDefaults ∧ s.nvmCheck 0 ee (if ee then (s.reg A.HBUS_NVM_ADDR).toNat % 262144 else (s.reg A.HBUS_NVM_ADDR).toNat)
      len.toNat = 0) ∧
    (∃ (ee : Bool) (len : BitVec 9) (s : State), s.busUp = true ∧ s.on F.HBUS_NVM_STAT_BUSY = false ∧ s.boot.state =
      bootRomDefaults ∧ s.nvmCheck 1 ee (if ee then (s.reg A.HBUS_NVM_ADDR).toNat % 262144 else (s.reg A.HBUS_NVM_ADDR).toNat)
      len.toNat = 0) ∧
    (∃ (ee : Bool) (len : BitVec 9) (s : State), s.busUp = true ∧ s.on F.HBUS_NVM_STAT_BUSY = false ∧ s.boot.state =
      bootRomDefaults ∧ s.nvmCheck 2 ee (if ee then (s.reg A.HBUS_NVM_ADDR).toNat % 262144 else (s.reg A.HBUS_NVM_ADDR).toNat)
      len.toNat = 0) ∧
    (∃ (s : State), s.busUp = true ∧ s.boot.state ≠ bootRomDefaults ∧ s.boot.state ≠ bootDryfitDone ∧ s.on
      F.HBUS_NVM_STAT_BUSY = false) ∧
    (∃ (s : State), s.busUp = true ∧ s.boot.state ≠ bootRomDefaults ∧ s.boot.state ≠ bootDryfitDone ∧ s.on
      F.HBUS_NVM_STAT_BUSY = false) ∧
    (∃ (x : NvmOp) (s : State), s.hbus.nvm = some x ∧ x.op ≠ 0) ∧
    (∃ (x : NvmOp) (err : Byte) (s : State), s.hbus.nvm = some x ∧ x.op ≠ 0 ∧ err ≠ 0 ∧ nvmEnds x.eeprom err = true) ∧
    (∃ (x : NvmOp) (err : Byte) (s : State), s.hbus.nvm = some x ∧ nvmEnds x.eeprom err = false) :=
  ⟨⟨{ sHost with hbus := { HbusSt.reset with addrPending := true } }, by decide +kernel, by decide +kernel⟩,
    ⟨sHost, by decide +kernel, by decide +kernel⟩,
    ⟨0xFF, ({ sHost with intc := { IntcSt.reset with src := [(17, .pending)] } } : State).wr F.HBUS_CFG_ALERT_EN 1 |>.setBit
      (A.INTC_ALERTk 0) 17 true, by decide +kernel, by decide +kernel, by decide +kernel⟩,
    ⟨0x00, (({ sHost with intc := { IntcSt.reset with src := [(17, .pending)] } } : State).wr F.HBUS_CFG_ALERT_EN 1).setBit
      (A.INTC_ALERTk 0) 17 true |>.wr F.HBUS_STAT_ADDR 0x40, by decide +kernel, by decide +kernel, by decide +kernel⟩,
    ⟨sHost, by decide +kernel, by decide +kernel⟩,
    ⟨15, sHost, by decide +kernel, by decide +kernel, by decide +kernel⟩,
    ⟨[], ({ sHost with sec := { SecSt.reset with attempt := some (.password []) } } : State).writePec (0x51 :: 16 :: ([])), { sHost with sec := { SecSt.reset with attempt := some (.password []) } },
      by decide +kernel, by decide +kernel, by decide +kernel, by decide +kernel⟩,
    ⟨[], [], ({ sHost with otp := { sHost.otp with lifecycle := 1, crEn := true }, sec := { SecSt.reset with nonce := some [],
                                                                                                             nonceUntil := 5 } }
      : State).writePec (0x51 :: 16 :: ([])), { sHost with otp := { sHost.otp with lifecycle := 1, crEn := true }, sec := { SecSt.reset with nonce := some [],
                                                                                                                                             nonceUntil := 5 } },
      by decide +kernel, by decide +kernel, by decide +kernel, by decide +kernel, by decide +kernel, by decide +kernel, by
      decide +kernel, by decide +kernel, by decide +kernel⟩,
    ⟨9, sHost, by decide +kernel, by decide +kernel, by decide +kernel⟩,
    ⟨{ sHost with otp := { sHost.otp with lifecycle := 1, pwEn := true } }, by decide +kernel, by decide +kernel, by
      decide +kernel, by decide +kernel, by decide +kernel, by decide +kernel, by decide +kernel⟩,
    ⟨.response (sHost.responseFor []) (some []), { sHost with sec := { SecSt.reset with attempt := some (.response (sHost.responseFor []) (some [])) } },
      rfl, beq_self_eq_true _, rfl⟩,
    ⟨[], { sHost with sec := { SecSt.reset with attempt := some (.response [] none) } }, by decide +kernel⟩,
    ⟨sHost, by decide +kernel⟩,
    ⟨sHost, by decide +kernel⟩,
    ⟨sHost, by decide +kernel⟩,
    ⟨{ State.reset with sec := { SecSt.reset with lockUntil := 1 } }, by decide +kernel⟩,
    ⟨State.reset, by decide +kernel⟩,
    ⟨State.reset, by decide +kernel⟩,
    ⟨1, { sHost with otp := { sHost.otp with lifecycle := 1 } }, by decide +kernel, by decide +kernel, by decide +kernel⟩,
    ⟨0x524C0001, { sHost with otp := { sHost.otp with lifecycle := 1 } }, by decide +kernel, by decide +kernel, by
      decide +kernel, by decide +kernel⟩,
    ⟨0x53560005, ({ sHost with otp := { sHost.otp with minSv := 4 } } : State).wr F.SEC_SECVER_ACTIVE 5, by decide +kernel, by
      decide +kernel⟩,
    ⟨0, sHost, by decide +kernel, by decide +kernel⟩,
    ⟨5, { sHost with sec := { SecSt.reset with svValue := some 5 } }, by decide +kernel⟩,
    ⟨State.reset, by decide +kernel⟩,
    ⟨true, 256, { sHost with boot := { BootSt.reset with state := bootRomDefaults } }, by decide +kernel, by decide +kernel,
      by decide +kernel, by decide +kernel⟩,
    ⟨true, 256, { sHost with boot := { BootSt.reset with state := bootRomDefaults } }, by decide +kernel, by decide +kernel,
      by decide +kernel, by decide +kernel⟩,
    ⟨false, 0, { sHost with boot := { BootSt.reset with state := bootRomDefaults } }, by decide +kernel, by decide +kernel, by
      decide +kernel, by decide +kernel⟩,
    ⟨sHost, by decide +kernel, by decide +kernel, by decide +kernel, by decide +kernel⟩,
    ⟨sHost, by decide +kernel, by decide +kernel, by decide +kernel, by decide +kernel⟩,
    ⟨{ op := 2, eeprom := false, fast := false, addr := 0, len := 0, data := [] }, { sHost with hbus := { HbusSt.reset with nvm := some { op := 2,
                                                                                                                                          eeprom := false,
                                                                                                                                          fast := false,
                                                                                                                                          addr := 0,
                                                                                                                                          len := 0,
                                                                                                                                          data := [] } } },
      by decide +kernel, by decide +kernel⟩,
    ⟨{ op := 2, eeprom := false, fast := false, addr := 0, len := 0, data := [] }, 0x20, { sHost with hbus := { HbusSt.reset with nvm := some { op := 2,
                                                                                                                                                eeprom := false,
                                                                                                                                                fast := false,
                                                                                                                                                addr := 0,
                                                                                                                                                len := 0,
                                                                                                                                                data := [] } } },
      by decide +kernel, by decide +kernel, by decide +kernel, by decide +kernel⟩,
    ⟨{ op := 2, eeprom := false, fast := false, addr := 0, len := 0, data := [] }, 0x24, { sHost with hbus := { HbusSt.reset with nvm := some { op := 2,
                                                                                                                                                eeprom := false,
                                                                                                                                                fast := false,
                                                                                                                                                addr := 0,
                                                                                                                                                len := 0,
                                                                                                                                                data := [] } } },
      by decide +kernel, by decide +kernel⟩⟩

theorem witness_InterruptSources :
    (∃ (n : Fin 129) (s : State), s.sys.dieHeld = false ∧ s.sourceLevel n = true ∧ s.rawLevel n = false) ∧
    (∃ (n : Fin 129) (s : State), (s.sourceLevel n = false ∨ s.rawLevel n = true)) ∧
    (∃ (s : State), s.sys.dieHeld = false) ∧
    (∃ (n : Fin 129) (s : State), s.sys.dieHeld = false ∧ s.sourceLevel n = false ∧ s.rawLevel n = true) ∧
    (∃ (s : State), s.sys.dieHeld = false) ∧
    (∃ (g : Fin 16) (s : State), s.sys.dieHeld = false ∧ s.modRunning g = true ∧ s.srcsIn .held = []) ∧
    (∃ (g : Fin 16) (s : State), s.modRunning g = false) :=
  ⟨⟨128, { sHost with intc := { IntcSt.reset with cq := [{ seq := 0, ty := 1, lost := false, data := [] }] } }, by
      decide +kernel, by decide +kernel, by decide +kernel⟩,
    ⟨128, State.reset, by decide +kernel⟩,
    ⟨sHost, by decide +kernel⟩,
    ⟨128, { sHost with intc := { IntcSt.reset with cqLevel := true } }, by decide +kernel, by decide +kernel, by
      decide +kernel⟩,
    ⟨sHost, by decide +kernel⟩,
    ⟨15, sHost.wr (F.INTC_MODg_RUNNING 15) 1, by decide +kernel, by decide +kernel, by decide +kernel⟩,
    ⟨15, State.reset, by decide +kernel⟩⟩

theorem witness_ResetsAndBlockResets :
    (∃ (s : State), s.sys.rst = none) ∧
    (∃ (c : BrownOut) (s : State), s.sys.rst = none ∧ s.pmu.mode = .run ∧ s.isBrownOut c = true) ∧
    (∃ (c : BrownOut) (p : ResetPhase) (s : State), s.sys.rst = some (.bor, p) ∧ s.pmu.mode = .run ∧ s.isBrownOut c = true) ∧
    (∃ (s : State), (s.pmu.mode = .standby ∨ s.pmu.mode = .lockout)) ∧
    (∃ (mv : Nat) (us : Nat) (hold : Nat) (s : State), (s.vsysMin ≤ mv ∨ us < (if s.bankCarries hold = true then 25 else 10))) ∧
    (∃ (v : Word), getField v 16 16 ≠ 0x5752) ∧
    (∃ (v : Word) (s : State), getField v 16 16 = 0x5752 ∧ v.getLsbD 0 = true ∧ s.sys.rst = none ∧ s.sys.dieHeld = false) ∧
    (∃ (s : State), s.sys.rst = some (.warm, .ramp)) ∧
    (∃ (s : State), s.sys.rst = none) ∧
    (∃ (s : State), s.evOn A.SYS_BLKRST 7 = false ∧ s.sys.rst = none ∧ s.sys.dieHeld = false) ∧
    (∃ (s : State), s.evOn A.SYS_BLKRST 6 = false ∧ s.sys.rst = none ∧ s.sys.dieHeld = false) ∧
    (∃ (n : Fin 4) (s : State), s.evOn A.SYS_BLKRST (2 + n) = false ∧ s.sys.rst = none ∧ s.sys.dieHeld = false) ∧
    (∃ (s : State), s.evOn A.SYS_BLKRST 1 = false ∧ s.sys.rst = none ∧ s.sys.dieHeld = false) ∧
    (∃ (s : State), s.evOn A.SYS_BLKRST 0 = false ∧ s.sys.rst = none ∧ s.sys.dieHeld = false) ∧
    (∃ (s : State), (s.evOn A.SYS_BLKRST 0 = true ∨ s.sys.rst.isSome = true ∨ s.sys.dieHeld = true)) ∧
    (∃ (b : Fin 8) (s : State), s.evOn A.SYS_BLKRST b = true) ∧
    (∃ (who : Writer) (s : State), s.busUp = true ∧ (who ≠ .jtag ∨ s.debugOpen = true)) ∧
    (∃ (s : State), s.debugOpen = false) :=
  ⟨⟨sHost, by decide +kernel⟩,
    ⟨.vsys 5499 10 0, sHost, by decide +kernel, by decide +kernel, by decide +kernel⟩,
    ⟨.vsys 5499 10 0, .stage1, { sHost with sys := { SysSt.reset with rst := some (.bor, .stage1) } }, by decide +kernel, by
      decide +kernel, by decide +kernel⟩,
    ⟨{ sHost with pmu := { PmuSt.reset with mode := .lockout } }, by decide +kernel⟩,
    ⟨0, 9, 0, sHost, by decide +kernel⟩,
    ⟨1, by decide +kernel⟩,
    ⟨0x57520001, sHost, by decide +kernel, by decide +kernel, by decide +kernel, by decide +kernel⟩,
    ⟨{ sHost with sys := { SysSt.reset with rst := some (.warm, .ramp), dieHeld := false } }, by decide +kernel⟩,
    ⟨sHost, by decide +kernel⟩,
    ⟨sHost, by decide +kernel, by decide +kernel, by decide +kernel⟩,
    ⟨sHost, by decide +kernel, by decide +kernel, by decide +kernel⟩,
    ⟨3, sHost, by decide +kernel, by decide +kernel, by decide +kernel⟩,
    ⟨sHost, by decide +kernel, by decide +kernel, by decide +kernel⟩,
    ⟨sHost, by decide +kernel, by decide +kernel, by decide +kernel⟩,
    ⟨State.reset, by decide +kernel⟩,
    ⟨6, sHost.setBit A.SYS_BLKRST 6 true, by decide +kernel⟩,
    ⟨.host, sHost, by decide +kernel, by decide +kernel⟩,
    ⟨{ sHost with otp := { sHost.otp with lifecycle := 1 } }, by decide +kernel⟩⟩

theorem witness_ClocksAndTimingSource :
    (∃ (n : Nat) (s : State), s.pmu.mode = .run ∧ 88 ≤ n ∧ n ≤ 104 ∧ s.sys.xtalGood = 0) ∧
    (∃ (n : Nat) (s : State), s.pmu.mode = .run ∧ (n < 88 ∨ 104 < n) ∧ s.sys.xtalBad = 1 ∧ s.on F.SYS_CLKSTAT_XTAL_OK = true ∧
      s.pvddRuns = false) ∧
    (∃ (s : State), s.on F.SYS_CLKSTAT_PLLB_LOCK = true) ∧
    (∃ (s : State), s.on F.SYS_CLKSTAT_PLLA_LOCK = true) ∧
    (∃ (b : Bool) (s : State), (if b then s.sys.pllBOn else s.sys.pllAOn) = false) ∧
    (∃ (s : State), s.on F.SYS_CLKSTAT_XTAL_OK = false) ∧
    (∃ (s : State), s.sys.pllBOn = true ∧ s.on F.SYS_CLKSTAT_XTAL_OK = true ∧ s.sys.dieHeld = false) ∧
    (∃ (s : State), s.on F.SYS_CLKSTAT_TSRC_LOCKED = true) ∧
    (∃ (s : State), s.on F.SYS_CLKSTAT_TSRC_LOCKED = false) ∧
    (∃ (s : State), s.on F.SYS_CLKSTAT_TSRC_LOCKED = true) ∧
    (∃ (s : State), s.on F.SYS_CLKSTAT_TSRC_LOCKED = false) :=
  ⟨⟨96, sHost, by decide +kernel, by decide +kernel, by decide +kernel, by decide +kernel⟩,
    ⟨87, ({ sHost with sys := { SysSt.reset with dieHeld := false, xtalBad := 1 } } : State).wr F.SYS_CLKSTAT_XTAL_OK 1, by
      decide +kernel, by decide +kernel, by decide +kernel, by decide +kernel, by decide +kernel⟩,
    ⟨sHost, by decide +kernel⟩,
    ⟨sHost.wr F.SYS_CLKSTAT_PLLA_LOCK 1, by decide +kernel⟩,
    ⟨true, State.reset, by decide +kernel⟩,
    ⟨State.reset, by decide +kernel⟩,
    ⟨{ sHost.wr F.SYS_CLKSTAT_XTAL_OK 1 with sys := { SysSt.reset with dieHeld := false, pllBOn := true } }, by
      decide +kernel, by decide +kernel, by decide +kernel⟩,
    ⟨sHost.wr F.SYS_CLKSTAT_TSRC_LOCKED 1, by decide +kernel⟩,
    ⟨sHost.wr F.SYS_TSRC_SRC 0, by decide +kernel⟩,
    ⟨(sHost.wr F.SYS_TSRC_SRC 3).wr F.SYS_CLKSTAT_TSRC_LOCKED 1, by decide +kernel⟩,
    ⟨State.reset, by decide +kernel⟩⟩

set_option maxRecDepth 20000 in
theorem witness_BootRomReads :
    (∃ (s : State), s.flashBusy = true) ∧
    (∃ (s : State), s.flashBusy = true ∧ s.boot.xspiFound = false ∧ s.hbus.nvm = none) ∧
    (∃ (s : State), s.nvmActive = true ∧ s.boot.arbWait = false) ∧
    (∃ (s : State), s.boot.arbWait = true) ∧
    (∃ (s : State), s.nvmActive = true ∧ s.hbus.nvm = none) ∧
    (∃ (s : State), s.nvmActive = true ∧ s.boot.stuck = false) ∧
    (∃ (s : State), s.boot.stuck = true) ∧
    (∃ (s : State), s.boot.stuck = true ∧ s.boot.stuckTries < 3) ∧
    (∃ (s : State), s.nvmActive = true ∧ s.boot.nackRetry = false) ∧
    (∃ (s : State), s.boot.nackRetry = true ∧ s.nvmActive = true ∧ s.hbus.nvm = none ∧ s.lateReads = false ∧ s.boot.loc =
      none) ∧
    (∃ (b : List Byte) (s : State), s.boot.state = bootRomRead ∧ s.boot.plan ≠ [] ∧ s.boot.loc = none ∧ s.sourceReady = true ∧
      u32 b 0 ≠ 0x434F4C4D) ∧
    (∃ (b : List Byte) (s : State), s.boot.state = bootRomRead ∧ s.boot.plan = [(1, 0), (1, 1)] ∧ s.boot.loc = none ∧
      s.sourceReady = true ∧ u32 b 0 = 0x434F4C4D ∧ u32 b 0x90 = (crc32 (slice b 0 0x90)).toNat ∧ s.hbus.strap = 0 ∧ u32 b 8 ≠
      absentCopy ∧ u32 b 12 ≠ absentCopy) ∧
    (∃ (h : List Byte) (d : List Byte) (g : List Byte) (s : State), s.boot.state = bootRomRead ∧ s.boot.plan ≠ [] ∧
      s.boot.loc.isNone = false ∧ s.sourceReady = true ∧ (s.headerCheck h d g).2 ≠ 0) ∧
    (∃ (h : List Byte) (s : State), s.boot.state = bootRomRead ∧ s.boot.plan ≠ [] ∧ s.boot.loc.isNone = false ∧ s.sourceReady
      = true ∧ s.boot.mode ≠ 1 ∧ (u16 h 14).testBit 0 = false) ∧
    (∃ (c : BootChoice) (d : DirEntry) (s : State), s.boot.chosen = some c ∧ s.boot.dir.find? (fun d => d.ty == 1) = some d ∧
      s.boot.state = bootEarlyLoading ∧ s.boot.cfgApplied = false ∧ s.bootLocked = true) ∧
    (∃ (c : BootChoice) (d : DirEntry) (s : State), s.boot.chosen = some c ∧ s.boot.dir.find? (fun d => d.ty == 1) = some d ∧
      s.boot.state = bootEarlyLoading ∧ s.boot.cfgApplied = false ∧ s.bootLocked = false) ∧
    (∃ (d : DirEntry) (ty : Nat) (i : Nat) (s : State), s.boot.dir.find? (fun d => d.ty == ty && d.inst == i) = some d ∧
      s.boot.state = bootEarlyLoading ∧ s.boot.rereads.find? (fun x => x.1 == ty && x.2.1 == i) = none) ∧
    (∃ (d : DirEntry) (ty : Nat) (i : Nat) (s : State), s.boot.dir.find? (fun d => d.ty == ty && d.inst == i) = some d ∧
      s.boot.state = bootEarlyLoading ∧ s.boot.rereads.find? (fun x => x.1 == ty && x.2.1 == i) = some (ty, i, 2)) :=
  ⟨⟨{ sHost with boot := { BootSt.reset with state := bootRomRead, plan := [(1, 0)] } }, by decide +kernel⟩,
    ⟨{ sHost with boot := { BootSt.reset with state := bootRomRead, plan := [(1, 0)] } }, by decide +kernel, by
      decide +kernel, by decide +kernel⟩,
    ⟨{ sHost with boot := { BootSt.reset with state := bootRomRead, plan := [(2, 0)] } }, by decide +kernel, by
      decide +kernel⟩,
    ⟨{ sHost with boot := { BootSt.reset with arbWait := true } }, by decide +kernel⟩,
    ⟨{ sHost with boot := { BootSt.reset with state := bootRomRead, plan := [(2, 0)] } }, by decide +kernel, by
      decide +kernel⟩,
    ⟨{ sHost with boot := { BootSt.reset with state := bootRomRead, plan := [(2, 0)] } }, by decide +kernel, by
      decide +kernel⟩,
    ⟨{ sHost with boot := { BootSt.reset with stuck := true } }, by decide +kernel⟩,
    ⟨{ sHost with boot := { BootSt.reset with stuck := true, stuckTries := 2 } }, by decide +kernel, by decide +kernel⟩,
    ⟨{ sHost with boot := { BootSt.reset with state := bootRomRead, plan := [(2, 0)] } }, by decide +kernel, by
      decide +kernel⟩,
    ⟨{ sHost with boot := { BootSt.reset with state := bootRomRead, plan := [(2, 0)], nackRetry := true } }, by
      decide +kernel, by decide +kernel, by decide +kernel, by decide +kernel, by decide +kernel⟩,
    ⟨[], { sHost with boot := { BootSt.reset with state := bootRomRead, plan := [(1, 0)], xspiFound := true } }, by
      decide +kernel, by decide +kernel, by decide +kernel, by decide +kernel, by decide +kernel⟩,
    ⟨locBytes, { sHost with boot := { BootSt.reset with state := bootRomRead, plan := [(1, 0), (1, 1)], xspiFound := true } },
      by decide +kernel, by decide +kernel, by decide +kernel, by decide +kernel, by decide +kernel, by decide +kernel, by
      decide +kernel, by decide +kernel, by decide +kernel⟩,
    ⟨[], [], [], { sHost with boot := { BootSt.reset with state := bootRomRead, plan := [(1, 0)], xspiFound := true, loc := some (0, 0, false) } },
      by decide +kernel, by decide +kernel, by decide +kernel, by decide +kernel, by decide +kernel⟩,
    ⟨[], { sHost with boot := { BootSt.reset with state := bootRomRead, plan := [(1, 0)], xspiFound := true, loc := some (0, 0, false) } },
      by decide +kernel, by decide +kernel, by decide +kernel, by decide +kernel, by decide +kernel, by decide +kernel⟩,
    ⟨bootChoice0, dirCfg, ({ sHost with boot := { BootSt.reset with state := bootEarlyLoading, chosen := some bootChoice0, dir := [dirCfg] } }
      : State).wr F.SEC_LOCKSTAT_LOCKED 1, by decide +kernel, by decide +kernel, by decide +kernel, by decide +kernel, by
      decide +kernel⟩,
    ⟨bootChoice0, dirCfg, { sHost with boot := { BootSt.reset with state := bootEarlyLoading, chosen := some bootChoice0, dir := [dirCfg] } },
      by decide +kernel, by decide +kernel, by decide +kernel, by decide +kernel, by decide +kernel⟩,
    ⟨dirCfg, 1, 0, { sHost with boot := { BootSt.reset with state := bootEarlyLoading, dir := [dirCfg] } }, by decide +kernel,
      by decide +kernel, by decide +kernel⟩,
    ⟨dirCfg, 1, 0, { sHost with boot := { BootSt.reset with state := bootEarlyLoading, dir := [dirCfg], rereads := [(1, 0, 2)] } },
      by decide +kernel, by decide +kernel, by decide +kernel⟩⟩

theorem witness_FirmwareStartsAndDryfit :
    (∃ (f : BootFail) (x : List (Nat × Nat × List Byte)) (s : State), s.boot.state = bootEarlyLoading ∧ s.boot.cfgApplied =
      true ∧ integrityFail x (s.boot.dir.filter (fun d => d.early && d.ty != 1)) = some f) ∧
    (∃ (x : List (Nat × Nat × List Byte)) (s : State), s.boot.state = bootEarlyLoading ∧ s.boot.cfgApplied = true ∧
      s.boot.mode ≠ 1 ∧ integrityFail x (s.boot.dir.filter (fun d => d.early && d.ty != 1)) = none) ∧
    (∃ (g : Graph) (s : State), s.dsp.graphDue = some g ∧ s.boot.firmware = true ∧ s.on F.DIAG_STAT_BOOT_DONE = true ∧
      s.boot.mode ≠ 1) ∧
    (∃ (f : BootFail) (x : List (Nat × Nat × List Byte)) (s : State), s.lateReads = true ∧ s.boot.dryfitRan = false ∧
      integrityFail x (s.boot.dir.filter (fun d => !d.early)) = some f) ∧
    (∃ (x : List (Nat × Nat × List Byte)) (s : State), s.lateReads = true ∧ s.boot.dryfitRan = false ∧ s.boot.mode ≠ 1 ∧
      s.dsp.graphDue = none ∧ integrityFail x (s.boot.dir.filter (fun d => !d.early)) = none) ∧
    (∃ (s : State), s.boot.state = bootEarlyRunning ∧ s.boot.attempts = []) ∧
    (∃ (s : State), s.boot.state = bootRomRead ∧ s.boot.plan = [] ∧ s.boot.chosen = none ∧ s.boot.mode ≠ 1) ∧
    (∃ (s : State), s.boot.state = bootDryfitRunning ∧ s.rd F.DSPX_STAT_GRAPH = 3 ∧ s.boot.dryfitRan = false) ∧
    (∃ (s : State), s.boot.state = bootDryfitRunning ∧ s.boot.dryfitRan = true ∧ (∀ o < 16, s.sweep o = none) ∧ (∀ n < 4, s.rd
      (F.PORTn_CFG_MODE n) = 0) ∧ s.ringEntry = none) ∧
    (∃ (p : Byte) (s : State), p = s.writePec [0x60] ∧ s.hostUp = true ∧ s.hostBusy = false ∧ s.boot.state = bootFullRunning ∧
      s.boot.job = none ∧ s.boot.waiting.length < 4) ∧
    (∃ (p : Byte) (s : State), p = s.writePec [0x60] ∧ s.hostUp = true ∧ s.hostBusy = false ∧ s.boot.state ≠ bootFullRunning ∧
      s.boot.state ≠ bootDryfitDone) ∧
    (∃ (j : VeneerJob) (s : State), s.boot.job = some j ∧ u32 j.bytes 0 ≠ 0x524E4556) ∧
    (∃ (j : VeneerJob) (s : State), s.boot.job = some j ∧ u32 j.bytes 0 = 0x524E4556 ∧ 1 ≤ u32 j.bytes 4 ∧ u32 j.bytes 4 ≤
      4095 ∧ j.bytes.length = 16 + 16 * u32 j.bytes 4 ∧ u32 j.bytes 12 = (crc32 (j.bytes.drop 16)).toNat ∧ s.boot.state =
      bootFullRunning ∧ (s.checkRecords 0 (veneerRecs j.bytes) s.graphAhead).2.1 = 0) :=
  ⟨⟨earlyFail, [], { sHost with boot := { BootSt.reset with state := bootEarlyLoading, cfgApplied := true, dir := [dirGraph] } },
      by decide +kernel, by decide +kernel, by decide +kernel⟩,
    ⟨[], { sHost with boot := { BootSt.reset with state := bootEarlyLoading, cfgApplied := true } }, by decide +kernel, by
      decide +kernel, by decide +kernel, by decide +kernel⟩,
    ⟨Graph.empty, ({ sHost with boot := { BootSt.reset with firmware := true }, dsp := { DspSt.reset with graphDue := some Graph.empty } }
      : State).wr F.DIAG_STAT_BOOT_DONE 1, by decide +kernel, by decide +kernel, by decide +kernel, by decide +kernel⟩,
    ⟨earlyFail, [], { sHost with boot := { BootSt.reset with state := bootEarlyRunning, plan := [(1, 0)], dir := [dirLate] } },
      by decide +kernel, by decide +kernel, by decide +kernel⟩,
    ⟨[], { sHost with boot := { BootSt.reset with state := bootEarlyRunning, plan := [(1, 0)] } }, by decide +kernel, by
      decide +kernel, by decide +kernel, by decide +kernel, by decide +kernel⟩,
    ⟨{ sHost with boot := { BootSt.reset with state := bootEarlyRunning } }, by decide +kernel, by decide +kernel⟩,
    ⟨{ sHost with boot := { BootSt.reset with state := bootRomRead } }, by decide +kernel, by decide +kernel, by
      decide +kernel, by decide +kernel⟩,
    ⟨({ sHost with boot := { BootSt.reset with state := bootDryfitRunning } } : State).wr F.DSPX_STAT_GRAPH 3, by
      decide +kernel, by decide +kernel, by decide +kernel⟩,
    ⟨{ sHost with boot := { BootSt.reset with state := bootDryfitRunning, dryfitRan := true } }, by decide +kernel, by
      decide +kernel, by decide +kernel, by decide +kernel, by decide +kernel⟩,
    ⟨(sHost : State).writePec [0x60], sHost, by decide +kernel, by decide +kernel, by decide +kernel, by decide +kernel, by
      decide +kernel, by decide +kernel⟩,
    ⟨({ sHost with boot := { BootSt.reset with state := bootEarlyOnly } } : State).writePec [0x60], { sHost with boot := { BootSt.reset with state := bootEarlyOnly } },
      by decide +kernel, by decide +kernel, by decide +kernel, by decide +kernel, by decide +kernel⟩,
    ⟨{ bytes := [] }, { sHost with boot := { BootSt.reset with job := some { bytes := [] } } }, by decide +kernel, by
      decide +kernel⟩,
    ⟨venJob, { sHost with boot := { BootSt.reset with state := bootFullRunning, job := some venJob, vmap := [{ kind := 0,
                                                                                                               signed := false,
                                                                                                               target := 0x000D0000,
                                                                                                               mask := 0xFFFFFFFF,
                                                                                                               min := 0, max := 0xFFFFFFFF }] } },
      by decide +kernel, by decide +kernel, by decide +kernel, by decide +kernel, by decide +kernel, by decide +kernel, by
      decide +kernel, by decide +kernel⟩⟩

end Sys2Proof.Tests
end

section
/-!
PROOFS. The register bus: what a read and a write of one word do at a register, at a free address and in a memory window
(R2, R9, R10, R11, R29).
-/

namespace Sys2Proof.Machine

open Sys2Proof

/-! ### Reset values (R11) -/

/-- Right after reset no register has left its reset value. -/
@[simp] theorem State.reset_reg (a : Nat) : State.reset.reg a = regDefault a := rfl

theorem regDefault_of_findReg {a : Nat} {g : RegGroup} (h : findReg a = some g) : regDefault a = g.rstWord a := by
  simp only [regDefault, h]

/-- Settles O7: the register file of the reset state is empty, so that every register reads its reset word. -/
theorem resetValues : Obligations.ResetValues := by
  unfold Obligations.ResetValues
  refine ⟨fun a g h => ?_, by decide +kernel, by decide +kernel, by decide +kernel, by decide +kernel, by decide +kernel, rfl,
    fun _ => rfl⟩
  rw [State.reset_reg, regDefault_of_findReg h]

/-! ### Reserved bits and free addresses (R10) -/

theorem foldl_fieldMask_getLsbD_reserved (fs : List FieldDesc) (m : BitVec 32) (i : Nat) (hi : i < 32)
    (h : ∀ f ∈ fs, i < f.lo ∨ f.lo + f.w ≤ i) :
    (fs.foldl (fun m f => m ||| fieldMask f.lo f.w) m).getLsbD i = m.getLsbD i := by
  induction fs generalizing m with
  | nil => rfl
  | cons f fs ih =>
    have hf := h f (by simp)
    rw [List.foldl_cons, ih _ (fun g hg => h g (List.mem_cons_of_mem _ hg)), BitVec.getLsbD_or, fieldMask_getLsbD _ _ _ hi,
      decide_eq_false (by omega), Bool.or_false]

/-- A reserved bit is not in the mask of its register. -/
theorem RegGroup.mask_getLsbD_reserved (g : RegGroup) (i : Nat) (h : ∀ f ∈ g.fields, i < f.lo ∨ f.lo + f.w ≤ i) :
    g.mask.getLsbD i = false := by
  by_cases hi : i < 32
  · rw [RegGroup.mask, foldl_fieldMask_getLsbD_reserved _ _ _ hi h]; exact BitVec.getLsbD_zero
  · exact BitVec.getLsbD_of_ge _ _ (by omega)

theorem State.viewReg_getLsbD_reserved (s : State) {a : Nat} {g : RegGroup} (hg : findReg a = some g) (i : Nat)
    (h : ∀ f ∈ g.fields, i < f.lo ∨ f.lo + f.w ≤ i) : (s.viewReg a).getLsbD i = false := by
  simp only [State.viewReg, hg, BitVec.getLsbD_and, g.mask_getLsbD_reserved i h, Bool.and_false]

/-- No register table of its block holds a free address. -/
theorem hits_eq_false_of_findReg_none {a : Nat} {g : RegGroup} (h : findReg a = none) (hg : g ∈ blockRegs a) :
    g.hits a = false := by
  simpa using List.find?_eq_none.mp h g hg

/-- An element of an array of registers is held by the table of that array. -/
theorem RegGroup.hits_of_arrIdx {base st n a k : Nat} (fs : List FieldDesc) (h : arrIdx base st n a = some k) :
    (⟨base, [(st, n)], fs⟩ : RegGroup).hits a = true := by
  simp only [arrIdx, Option.ite_none_right_eq_some] at h
  obtain ⟨⟨h1, h2, h3⟩, -⟩ := h
  simp only [RegGroup.hits, dimsHit, h1, h3, decide_true, Bool.true_and, beq_self_eq_true, Bool.and_true, decide_eq_true_eq]
  exact Nat.div_lt_of_lt_mul (by omega)

theorem blockRegs_trace {a : Nat} (h : a / 0x10000 = 16) : blockRegs a = regsTrace := by
  simp [blockRegs, h]

/-- The trace window has no free address. -/
theorem arrIdx_traceWindow_of_free {a : Nat} (h : findReg a = none) : arrIdx (A.TRACE_WINDOWw 0) 4 8192 a = none := by
  cases hk : arrIdx (A.TRACE_WINDOWw 0) 4 8192 a with
  | none => rfl
  | some k =>
    have hp : a / 0x10000 = 16 := by
      simp only [arrIdx, A.TRACE_WINDOWw, Option.ite_none_right_eq_some] at hk
      omega
    have hm : (⟨A.TRACE_WINDOWw 0, [(4, 8192)], [⟨0, 32, .ro, 0, false⟩]⟩ : RegGroup) ∈ blockRegs a := by
      rw [blockRegs_trace hp]; decide +kernel
    exact absurd (RegGroup.hits_of_arrIdx _ hk) (Bool.eq_false_iff.mp (hits_eq_false_of_findReg_none h hm))

/-- A free address reads 0, and nothing changes. -/
theorem State.readReg_free (s : State) {a : Nat} (h : findReg a = none) : s.readReg a = (0, s) := by
  have hc : a ≠ A.INTC_CLAIM := by
    rintro rfl
    exact absurd h (by decide +kernel)
  simp only [State.readReg, if_neg hc, arrIdx_traceWindow_of_free h, h]

/-- A free address ignores writes. -/
theorem State.writeReg_free (s : State) (who : Writer) {a : Nat} (v : BitVec 32) (h : findReg a = none) :
    s.writeReg who a v = s := by
  simp [State.writeReg, h]

/-- An access to a register reaches its block while its island runs (R26). -/
theorem State.busCheck_reg (s : State) (who : Writer) (wr : Bool) {a : Nat} (h1 : 0x10000 ≤ a) (h2 : a < 0x120000)
    (h3 : s.islandStopped a = false) : s.busCheck who wr a = .ok := by
  simp [State.busCheck, h1, h2, h3]

/-- Settles O10: the mask of a register leaves out its reserved bits, and the dispatch of a read and of a write ends at once
where no register stands. -/
theorem reservedAndFreeReadZero : Obligations.ReservedAndFreeReadZero := by
  unfold Obligations.ReservedAndFreeReadZero
  refine ⟨fun s a i g hg h => s.viewReg_getLsbD_reserved hg i h, fun s who a v h1 h2 hf h3 => ⟨?_, ?_⟩⟩
  · simp only [State.busRead, s.busCheck_reg who false h1 h2 h3, h2, if_true, s.readReg_free hf]
  · simp only [State.busWrite, s.busCheck_reg who true h1 h2 h3, h2, if_true, s.writeReg_free who v hf]

/-! ### Memory windows (R2, R29) -/

theorem State.forAll_succ (s : State) (n : Nat) (f : Nat → State → State) : s.forAll (n + 1) f = f n (s.forAll n f) := by
  simp only [State.forAll, List.range_succ, List.foldl_append, List.foldl_cons, List.foldl_nil]

/-- A written byte leaves the record that the device keeps of its boot (R53). -/
@[simp] theorem State.setMemByte_bootRecord (s : State) (a : Nat) (x : BitVec 8) :
    (s.setMemByte a x).bootRecord = s.bootRecord := by
  unfold State.setMemByte; split <;> rfl

/-- A written byte leaves the record that the device keeps of its placement (R178). -/
@[simp] theorem State.setMemByte_placementRecord (s : State) (a : Nat) (x : BitVec 8) :
    (s.setMemByte a x).placementRecord = s.placementRecord := by
  unfold State.setMemByte; split <;> rfl

/-- A written byte reads as written, every other byte as before: the bytes of the records stand in the overlay, the others in
the memory itself. -/
theorem State.memByte_setMemByte (s : State) (a b : Nat) (x : BitVec 8) :
    (s.setMemByte a x).memByte b = if b = a then x else s.memByte b := by
  unfold State.memByte
  rw [s.setMemByte_bootRecord, s.setMemByte_placementRecord]
  by_cases hb : b = a
  · subst hb
    by_cases h1 : recordBase ≤ b ∧ b < recordBase + 4096
    · simp [State.setMemByte, h1]
    · by_cases h2 : placementBase ≤ b ∧ b < stagingBase
      · simp [State.setMemByte, h1, h2]
      · simp [State.setMemByte, h1, h2]
  · by_cases h : (recordBase ≤ a ∧ a < recordBase + 4096) ∨ (placementBase ≤ a ∧ a < stagingBase)
    · simp [State.setMemByte, h, hb, Tbl.get_set_ne hb]
    · simp [State.setMemByte, h, hb, Tbl.get_set_ne hb]

theorem State.memByte_forAll_setMemByte (s : State) (a b n : Nat) (x : Nat → BitVec 8) :
    (s.forAll n (fun i t => t.setMemByte (a + i) (x i))).memByte b =
      if a ≤ b ∧ b < a + n then x (b - a) else s.memByte b := by
  induction n with
  | zero => rw [if_neg (by omega)]; rfl
  | succ n ih =>
    rw [State.forAll_succ, State.memByte_setMemByte, ih]
    by_cases hb : b = a + n
    · rw [if_pos hb, if_pos (by omega), hb, Nat.add_sub_cancel_left]
    · rw [if_neg hb]
      exact ite_congr (propext (by omega)) (fun _ => rfl) (fun _ => rfl)

/-- A written word stands in four bytes, the least significant first (R2). -/
theorem State.memByte_setMemWord (s : State) (a b : Nat) (v : BitVec 32) :
    (s.setMemWord a v).memByte b =
      if a ≤ b ∧ b < a + 4 then BitVec.ofNat 8 (v.toNat / 256 ^ (b - a)) else s.memByte b :=
  s.memByte_forAll_setMemByte a b 4 (fun i => BitVec.ofNat 8 (v.toNat / 256 ^ i))

theorem State.memByte_setMemWord_in (s : State) (a i : Nat) (v : BitVec 32) (h : i < 4) :
    (s.setMemWord a v).memByte (a + i) = BitVec.ofNat 8 (v.toNat / 256 ^ i) := by
  rw [State.memByte_setMemWord, if_pos (by omega), Nat.add_sub_cancel_left]

/-- A written word reads back. -/
theorem State.memWord_setMemWord (s : State) (a : Nat) (v : BitVec 32) : (s.setMemWord a v).memWord a = v := by
  have hb (i : Nat) (h : i < 4) := s.memByte_setMemWord_in a i v h
  have hv := v.isLt
  apply BitVec.eq_of_toNat_eq
  simp only [State.memWord, List.range_succ, List.range_zero, List.nil_append, List.cons_append, List.map_cons, List.map_nil,
    hb 0 (by decide), hb 1 (by decide), hb 2 (by decide), hb 3 (by decide), ofLe, BitVec.toNat_ofNat]
  omega

/-- Byte `i` of a word. -/
theorem byte_ofNat_eq_shift (v : BitVec 32) (i : Nat) : BitVec.ofNat 8 (v.toNat / 256 ^ i) = (v >>> (8 * i)).setWidth 8 := by
  apply BitVec.eq_of_toNat_eq
  rw [BitVec.toNat_ofNat, BitVec.toNat_setWidth, BitVec.toNat_ushiftRight, Nat.shiftRight_eq_div_pow, Nat.pow_mul]

/-- The windows stand above the registers. -/
theorem window_ge {a : Nat} (h : inSram a = true ∨ inDram a = true) : 0x120000 ≤ a := by
  simp only [inSram, inDram, Bool.and_eq_true, decide_eq_true_eq] at h
  omega

/-- The access rules let firmware through to the windows (R29). -/
theorem State.busCheck_firmware_window (s : State) (wr : Bool) {a : Nat} (h : inSram a = true ∨ inDram a = true) :
    s.busCheck .firmware wr a = .ok := by
  have ha := window_ge h
  have hr : ¬ (0x10000 ≤ a ∧ a < 0x120000) := by omega
  simp [State.busCheck, hr, h, State.windowOk]

theorem State.busWrite_firmware_window (s : State) {a : Nat} (v : BitVec 32) (h : inSram a = true ∨ inDram a = true) :
    s.busWrite .firmware a v = (.ok, s.setMemWord (a / 4 * 4) v) := by
  have ha := window_ge h
  simp only [State.busWrite, s.busCheck_firmware_window true h, if_true, if_neg (Nat.not_lt.mpr ha)]

theorem State.busRead_firmware_window (s : State) {a : Nat} (h : inSram a = true ∨ inDram a = true) :
    s.busRead .firmware a = (.ok, s.memWord (a / 4 * 4), s) := by
  have ha := window_ge h
  simp only [State.busRead, s.busCheck_firmware_window false h, if_true, if_neg (Nat.not_lt.mpr ha)]

/-- Settles O14: a firmware access of an aligned address is one access of the word there, byte by byte. -/
theorem windowReadsBack : Obligations.WindowReadsBack := by
  unfold Obligations.WindowReadsBack
  intro s a v h h4
  have ha : a / 4 * 4 = a := by omega
  rw [s.busWrite_firmware_window v h, State.busRead_firmware_window _ h, ha]
  refine ⟨rfl, fun i hi => ?_, by rw [State.memWord_setMemWord], fun b hb => ?_⟩
  · rw [State.memByte_setMemWord_in _ _ _ _ hi, byte_ofNat_eq_shift]
  · rw [State.memByte_setMemWord, if_neg (by omega)]

end Sys2Proof.Machine
end

section
/-!
PROOFS. Register writes after boot lock (R9): which registers hold an RWB field, and what a write of them does, by the types of
its fields (R5) or beside a ceiling (R294).
-/

namespace Sys2Proof.Machine

open Sys2Proof

/-! ### Registers with an RWB field (R9) -/

/-- The registers that stand alone and hold an RWB field. -/
def rwbScalars : List Nat :=
  [A.SYS_PLLA_CFG, A.SYS_TSRC, A.PMU_PVDD_RANGE, A.PMU_PVDD_STATIC, A.PMU_PVDD_SLEW, A.PMU_PVDD_CFG, A.PMU_ILIM,
   A.PMU_HOLD_CFG, A.PMU_HOLD_CFG2, A.GOV_LIMIT_MAX, A.GOV_CAP, A.GOV_DISR, A.DECIM_CFG, A.LOOP_PVDDSTAT, A.HBUS_CFG]

/-- The register table of GUARD_OUTo_XCLAMP. -/
def xclampGroup : RegGroup := ⟨A.GUARD_OUTo_XCLAMP 0, [(0x40, 16)], [⟨16, 11, .rwb, 0x14, false⟩, ⟨0, 16, .rw, 0xF000, false⟩]⟩

/-- The register table of GUARD_OUTo_ECLAMP. -/
def eclampGroup : RegGroup := ⟨A.GUARD_OUTo_ECLAMP 0, [(0x40, 16)], [⟨16, 16, .rw, 0xFFFF, false⟩, ⟨0, 4, .rwb, 0xD, false⟩]⟩

/-- Where the RWB fields of the register tables stand. -/
theorem blockRegs_rwb (a : Nat) : ∀ g ∈ blockRegs a, (∃ f ∈ g.fields, f.acc = .rwb) →
    (g.dims = [] ∧ g.base ∈ rwbScalars) ∨ (g.dims = [(0x10, 2)] ∧ g.base = A.MOD_DIEd_CFG 0) ∨
      (g.dims = [(4, 16)] ∧ g.base = A.MOD_PHASEc 0) ∨ g = xclampGroup ∨ g = eclampGroup := by
  unfold blockRegs; dsimp only
  repeat' apply forall_mem_ite
  all_goals decide +kernel

theorem RegGroup.hits_scalar {g : RegGroup} {a : Nat} (hd : g.dims = []) (h : g.hits a = true) : a = g.base := by
  simp only [RegGroup.hits, hd, dimsHit, Bool.and_eq_true, decide_eq_true_eq, beq_iff_eq] at h
  omega

theorem RegGroup.hits_array {g : RegGroup} {a b st n : Nat} (hd : g.dims = [(st, n)]) (hb : g.base = b) (h : g.hits a = true) :
    ∃ k < n, a = b + st * k := by
  simp only [RegGroup.hits, hd, hb, dimsHit, Bool.and_eq_true, decide_eq_true_eq, beq_iff_eq] at h
  obtain ⟨h1, h2, h3⟩ := h
  refine ⟨_, h2, ?_⟩
  have := Nat.mul_div_cancel' (Nat.dvd_of_mod_eq_zero h3)
  omega

/-- The addresses of the registers that hold an RWB field. -/
theorem findReg_rwb {a : Nat} {g : RegGroup} (hg : findReg a = some g) (hr : ∃ f ∈ g.fields, f.acc = .rwb) :
    a ∈ rwbScalars ∨ (∃ d < 2, a = A.MOD_DIEd_CFG d) ∨ (∃ c < 16, a = A.MOD_PHASEc c) ∨
      (g = xclampGroup ∧ ∃ o < 16, a = A.GUARD_OUTo_XCLAMP o) ∨ (g = eclampGroup ∧ ∃ o < 16, a = A.GUARD_OUTo_ECLAMP o) := by
  obtain ⟨hm, hh⟩ := findReg_mem hg
  rcases blockRegs_rwb a g hm hr with ⟨hd, hb⟩ | ⟨hd, hb⟩ | ⟨hd, hb⟩ | rfl | rfl
  · exact .inl (RegGroup.hits_scalar hd hh ▸ hb)
  · exact .inr (.inl (RegGroup.hits_array hd hb hh))
  · exact .inr (.inr (.inl (RegGroup.hits_array hd hb hh)))
  · exact .inr (.inr (.inr (.inl ⟨rfl, RegGroup.hits_array rfl rfl hh⟩)))
  · exact .inr (.inr (.inr (.inr ⟨rfl, RegGroup.hits_array rfl rfl hh⟩)))

/-! ### Registers that a write takes by the types of their fields alone -/

theorem State.writeReg_rwbScalar (s : State) (who : Writer) (v : BitVec 32) :
    ∀ a ∈ rwbScalars, s.writeReg who a v = s.plainWrite a v := by
  simp only [rwbScalars, List.forall_mem_cons]
  refine ⟨rfl, rfl, rfl, rfl, rfl, rfl, rfl, rfl, rfl, rfl, rfl, rfl, rfl, rfl, rfl, by simp⟩

theorem State.writeReg_mod (s : State) (who : Writer) {a : Nat} (v : BitVec 32) (hr : findReg a ≠ none)
    (hp : a / 0x10000 = 7) : s.writeReg who a v = s.writeMod who a v := by
  simp [State.writeReg, hr, hp]

/-- A MOD register below those of the outputs takes a write by the types of its fields, but for SHED and RAMP. -/
theorem State.writeMod_plain (s : State) (who : Writer) {a : Nat} (v : BitVec 32) (h : a < A.MOD_OUTo_CFG 0)
    (h1 : a ≠ A.MOD_RAMP) (h2 : arrIdx (A.MOD_DIEd_SHED 0) 0x10 2 a = none) : s.writeMod who a v = s.plainWrite a v := by
  have below (base st n : Nat) (hb : A.MOD_OUTo_CFG 0 ≤ base) : arrIdx base st n a = none := if_neg (by omega)
  simp only [State.writeMod, h2, if_neg h1, below (A.MOD_OUTo_CFG 0) _ _ (by decide),
    below (A.MOD_OUTo_CTRL 0) _ _ (by decide), below (A.MOD_CHc_CFG 0) _ _ (by decide)]

theorem State.writeReg_dieCfg (s : State) (who : Writer) (v : BitVec 32) {d : Nat} (h : d < 2)
    (hr : findReg (A.MOD_DIEd_CFG d) ≠ none) :
    s.writeReg who (A.MOD_DIEd_CFG d) v = s.plainWrite (A.MOD_DIEd_CFG d) v := by
  simp only [A.MOD_DIEd_CFG] at hr ⊢
  rw [s.writeReg_mod who v hr (by omega), State.writeMod_plain]
  · simp only [A.MOD_OUTo_CFG]; omega
  · simp only [A.MOD_RAMP]; omega
  · exact if_neg (by simp only [A.MOD_DIEd_SHED]; omega)

theorem State.writeReg_phase (s : State) (who : Writer) (v : BitVec 32) {c : Nat} (h : c < 16)
    (hr : findReg (A.MOD_PHASEc c) ≠ none) :
    s.writeReg who (A.MOD_PHASEc c) v = s.plainWrite (A.MOD_PHASEc c) v := by
  simp only [A.MOD_PHASEc] at hr ⊢
  rw [s.writeReg_mod who v hr (by omega), State.writeMod_plain]
  · simp only [A.MOD_OUTo_CFG]; omega
  · simp only [A.MOD_RAMP]; omega
  · exact if_neg (by simp only [A.MOD_DIEd_SHED]; omega)

/-- What a ceiling register of an output does with a write (R294): the fields beside the ceiling take it by their types, the
ceiling itself may only fall. -/
def State.ceilingWrite (s : State) (o c : Nat) (v : BitVec 32) : State :=
  let f := ceilingField o c
  (s.plainWrite f.addr (putField v f.lo f.w (s.rd f))).clampWrite o c (getField v f.lo f.w)

theorem ceilingField_addr (o : Nat) {c : Nat} (hc : c < 4) : (ceilingField o c).addr = 0x80100 + 0x40 * o + 4 * c := by
  unfold ceilingField
  split
  · simp only [A.GUARD_OUTo_VCLAMP]; omega
  · split
    · simp only [A.GUARD_OUTo_ICLAMP]; omega
    · split
      · simp only [A.GUARD_OUTo_XCLAMP]; omega
      · simp only [A.GUARD_OUTo_ECLAMP]; omega

theorem State.writeReg_ceiling (s : State) (who : Writer) (v : BitVec 32) {o c : Nat} (ho : o < 16) (hc : c < 4)
    (hr : findReg (ceilingField o c).addr ≠ none) :
    s.writeReg who (ceilingField o c).addr v = s.ceilingWrite o c v := by
  have ha := ceilingField_addr o hc
  have hp : (ceilingField o c).addr / 0x10000 = 8 := by omega
  have h1 : ((ceilingField o c).addr - 0x80100) / 0x40 = o := by omega
  have h2 : (ceilingField o c).addr % 0x40 / 4 = c := by omega
  have h3 : 0x80100 ≤ (ceilingField o c).addr ∧ (ceilingField o c).addr < 0x80500 ∧ (ceilingField o c).addr % 0x40 < 16 := by
    omega
  have h4 : (ceilingField o c).addr % 4 = 0 := by omega
  simp [State.writeReg, State.writeGuard, State.ceilingWrite, hr, hp, h1, h2, h3, h4]

/-! ### A write by the types of the fields (R5, R9) -/

/-- A field of a register that a write takes by its types: it takes what its own type says. -/
theorem State.getField_plainWrite (s : State) {a : Nat} (v : BitVec 32) {g : RegGroup} (hg : findReg a = some g)
    {f : FieldDesc} (hf : f ∈ g.fields) :
    getField ((s.plainWrite a v).reg a) f.lo f.w = getField (FieldDesc.take s.bootLocked v (s.reg a) f) f.lo f.w := by
  simp only [State.plainWrite, hg, State.reg_setReg_self, RegGroup.written_eq]
  exact foldl_take_field _ _ _ _ _ hf (blockRegs_fieldsApart a g (findReg_mem hg).1)

/-- After boot lock an RWB field stays. -/
theorem State.getField_plainWrite_rwb (s : State) {a : Nat} (v : BitVec 32) {g : RegGroup} (hl : s.bootLocked = true)
    (hg : findReg a = some g) {f : FieldDesc} (hf : f ∈ g.fields) (hacc : f.acc = .rwb) :
    getField ((s.plainWrite a v).reg a) f.lo f.w = getField (s.reg a) f.lo f.w := by
  rw [s.getField_plainWrite v hg hf]
  simp only [FieldDesc.take, hacc, hl, if_true]

/-- Words that agree on a field agree on its bits. -/
theorem getLsbD_eq_of_getField_eq {x y : BitVec 32} {lo w i : Nat} (h : getField x lo w = getField y lo w) (h1 : lo ≤ i)
    (h2 : i < lo + w) : x.getLsbD i = y.getLsbD i := by
  have hb := congrArg (Nat.testBit · (i - lo)) h
  have hw : i - lo < w := by omega
  simpa [getField_testBit, hw, Nat.add_sub_of_le h1] using hb

/-- What a field takes depends on the bits written to it alone. -/
theorem FieldDesc.getField_take_congr (l : Bool) {v v' : BitVec 32} (w : BitVec 32) (f : FieldDesc)
    (h : getField v' f.lo f.w = getField v f.lo f.w) :
    getField (FieldDesc.take l v' w f) f.lo f.w = getField (FieldDesc.take l v w f) f.lo f.w := by
  have hbit (i : Nat) (h1 : f.lo ≤ i) (h2 : i < f.lo + f.w) := getLsbD_eq_of_getField_eq h h1 h2
  unfold FieldDesc.take
  cases f.acc with
  | rw | rws | rwb => simp only [h]
  | ro | rc | wo => rfl
  | w1c => exact getField_congr fun i h1 h2 _ => by simp only [BitVec.getLsbD_and, BitVec.getLsbD_not, hbit i h1 h2]
  | w1s => exact getField_congr fun i h1 h2 _ => by simp only [BitVec.getLsbD_or, BitVec.getLsbD_and, hbit i h1 h2]

theorem State.getField_plainWrite_congr (s : State) {a : Nat} {v v' : BitVec 32} {g : RegGroup} (hg : findReg a = some g)
    {f : FieldDesc} (hf : f ∈ g.fields) (h : getField v' f.lo f.w = getField v f.lo f.w) :
    getField ((s.plainWrite a v').reg a) f.lo f.w = getField ((s.plainWrite a v).reg a) f.lo f.w := by
  rw [s.getField_plainWrite v' hg hf, s.getField_plainWrite v hg hf, FieldDesc.getField_take_congr _ _ _ h]

/-! ### The count of ignored writes (R9) -/

/-- The write would change an RWB field of the register. -/
def RegGroup.ChangesRwb (g : RegGroup) (old v : BitVec 32) : Prop :=
  ∃ f ∈ g.fields, f.acc = .rwb ∧ getField v f.lo f.w ≠ getField old f.lo f.w

theorem RegGroup.touchesRwb_iff (g : RegGroup) (old v : BitVec 32) : g.touchesRwb old v = true ↔ g.ChangesRwb old v := by
  simp only [RegGroup.touchesRwb, RegGroup.ChangesRwb, List.any_eq_true, Bool.and_eq_true, decide_eq_true_eq, ne_comm]

theorem State.rd_plainWrite_ignored (s : State) {a : Nat} (v : BitVec 32) {g : RegGroup} (hg : findReg a = some g)
    (ha : a ≠ A.SEC_LOCKSTAT) :
    (s.plainWrite a v).rd F.SEC_LOCKSTAT_IGNORED = (s.rwbIgnored g a v).rd F.SEC_LOCKSTAT_IGNORED := by
  simp only [State.plainWrite, hg, State.rd]
  rw [State.reg_setReg_ne _ (Ne.symm ha)]

/-- After boot lock a write that would change an RWB field is counted (R9, R60). -/
theorem State.rd_plainWrite_ignored_counted (s : State) {a : Nat} {v : BitVec 32} {g : RegGroup} (hl : s.bootLocked = true)
    (hg : findReg a = some g) (ha : a ≠ A.SEC_LOCKSTAT) (h : g.ChangesRwb (s.reg a) v) :
    (s.plainWrite a v).rd F.SEC_LOCKSTAT_IGNORED = min (s.rd F.SEC_LOCKSTAT_IGNORED + 1) 65535 := by
  rw [s.rd_plainWrite_ignored v hg ha, State.rwbIgnored, hl, (g.touchesRwb_iff _ _).mpr h]
  simp only [Bool.and_self, if_true, State.ev]
  rw [State.rd_wr_ne _ (by decide), State.rd_bump_self _ _ (by decide)]
  rfl

/-- A write that would change no RWB field is not counted. -/
theorem State.rd_plainWrite_ignored_same (s : State) {a : Nat} {v : BitVec 32} {g : RegGroup} (hg : findReg a = some g)
    (ha : a ≠ A.SEC_LOCKSTAT) (h : ¬ g.ChangesRwb (s.reg a) v) :
    (s.plainWrite a v).rd F.SEC_LOCKSTAT_IGNORED = s.rd F.SEC_LOCKSTAT_IGNORED := by
  rw [s.rd_plainWrite_ignored v hg ha, State.rwbIgnored, Bool.eq_false_iff.mpr (mt (g.touchesRwb_iff _ _).mp h)]
  simp

/-! ### Ceilings (R294) -/

/-- The value a ceiling is written with: a current ceiling below 10 is taken as 10. -/
def ceilingValue (c x : Nat) : Nat := if c = 1 then max 10 x else x

/-- A ceiling falls, or the write is counted and flagged. -/
theorem State.clampWrite_eq (s : State) (o c x : Nat) :
    s.clampWrite o c x =
      if ceilingValue c x ≤ s.rd (ceilingField o c) then s.wr (ceilingField o c) (ceilingValue c x)
      else (s.bump F.GUARD_RAISECNT_COUNT).ev (A.GUARD_OUTo_EVENT o) 11 := rfl

theorem ceilingField_addr_ne_event (o : Nat) {c : Nat} (hc : c < 4) : (ceilingField o c).addr ≠ A.GUARD_OUTo_EVENT o := by
  rw [ceilingField_addr o hc, A.GUARD_OUTo_EVENT]; omega

theorem ceilingField_addr_ne_raiseCount (o : Nat) {c : Nat} (hc : c < 4) : (ceilingField o c).addr ≠ A.GUARD_RAISECNT := by
  rw [ceilingField_addr o hc, A.GUARD_RAISECNT]; omega

/-- A write of a ceiling leaves the other registers, but for the count and the event of a refused raise. -/
theorem State.reg_clampWrite_ne (s : State) {o c a : Nat} (x : Nat) (h1 : a ≠ (ceilingField o c).addr)
    (h2 : a ≠ A.GUARD_RAISECNT) (h3 : a ≠ A.GUARD_OUTo_EVENT o) : (s.clampWrite o c x).reg a = s.reg a := by
  rw [State.clampWrite_eq]
  split
  · rw [State.reg_wr_ne _ h1]
  · rw [State.ev, State.reg_wr_ne _ (by exact h3), State.reg_bump_ne _ (by exact h2)]

/-- A write of a ceiling leaves the fields beside it. -/
theorem State.getField_clampWrite_apart (s : State) {o c lo w : Nat} (hc : c < 4) (x : Nat) (hw : lo + w ≤ 32)
    (d : lo + w ≤ (ceilingField o c).lo ∨ (ceilingField o c).lo + (ceilingField o c).w ≤ lo) :
    getField ((s.clampWrite o c x).reg (ceilingField o c).addr) lo w = getField (s.reg (ceilingField o c).addr) lo w := by
  rw [State.clampWrite_eq]
  split
  · rw [State.reg_wr_self, getField_putField_ne _ _ _ _ _ _ hw d]
  · rw [State.ev, State.reg_wr_ne _ (by exact ceilingField_addr_ne_event o hc),
      State.reg_bump_ne _ (by exact ceilingField_addr_ne_raiseCount o hc)]

/-- A ceiling after a write depends on the ceiling before it and on the value written alone. -/
theorem State.rd_clampWrite_congr {s t : State} {o c : Nat} (hc : c < 4) (x : Nat)
    (hw : (ceilingField o c).lo + (ceilingField o c).w ≤ 32) (h : t.rd (ceilingField o c) = s.rd (ceilingField o c)) :
    (t.clampWrite o c x).rd (ceilingField o c) = (s.clampWrite o c x).rd (ceilingField o c) := by
  have h1 := ceilingField_addr_ne_event o hc
  have h2 := ceilingField_addr_ne_raiseCount o hc
  rw [State.clampWrite_eq, State.clampWrite_eq, h]
  split
  · rw [State.rd_wr_self _ _ _ hw, State.rd_wr_self _ _ _ hw]
  · rw [State.ev, State.ev, State.rd_wr_ne _ (by exact h1), State.rd_wr_ne _ (by exact h1), State.rd_bump_ne _ (by exact h2),
      State.rd_bump_ne _ (by exact h2), h]

/-! ### After boot lock (R9) -/

/-- What boot lock makes of the writes `W v` of the register at `a` in state `s`. -/
structure LockedWrites (s : State) (a : Nat) (g : RegGroup) (W : BitVec 32 → State) : Prop where
  /-- RWB fields stay -/
  held : ∀ v, ∀ f ∈ g.fields, f.acc = .rwb → getField ((W v).reg a) f.lo f.w = getField (s.reg a) f.lo f.w
  /-- a write that would change one is counted -/
  counted : ∀ v, g.ChangesRwb (s.reg a) v →
    (W v).rd F.SEC_LOCKSTAT_IGNORED = min (s.rd F.SEC_LOCKSTAT_IGNORED + 1) 65535
  /-- any other is not -/
  uncounted : ∀ v, ¬ g.ChangesRwb (s.reg a) v → (W v).rd F.SEC_LOCKSTAT_IGNORED = s.rd F.SEC_LOCKSTAT_IGNORED
  /-- the other fields take the bits written to them -/
  others : ∀ v v', (∀ f ∈ g.fields, f.acc ≠ .rwb → getField v' f.lo f.w = getField v f.lo f.w) →
    ∀ f ∈ g.fields, f.acc ≠ .rwb → getField ((W v').reg a) f.lo f.w = getField ((W v).reg a) f.lo f.w

theorem LockedWrites.congr {s : State} {a : Nat} {g : RegGroup} {W W' : BitVec 32 → State} (h : LockedWrites s a g W)
    (e : ∀ v, W' v = W v) : LockedWrites s a g W' := by
  rwa [funext e]

theorem State.plainWrite_locked (s : State) {a : Nat} {g : RegGroup} (hl : s.bootLocked = true) (hg : findReg a = some g)
    (ha : a ≠ A.SEC_LOCKSTAT) : LockedWrites s a g (s.plainWrite a) where
  held v _ hf hacc := s.getField_plainWrite_rwb v hl hg hf hacc
  counted _ h := s.rd_plainWrite_ignored_counted hl hg ha h
  uncounted _ h := s.rd_plainWrite_ignored_same hg ha h
  others _ _ h f hf hacc := s.getField_plainWrite_congr hg hf (h f hf hacc)

/-- In the register of a ceiling the ceiling is the one field that is not RWB, and the others lie beside it. -/
def CeilingFields (k : Fld) (g : RegGroup) : Prop :=
  k.lo + k.w ≤ 32 ∧ ∀ f ∈ g.fields, if f.acc = .rwb then f.lo + f.w ≤ 32 ∧ (f.lo + f.w ≤ k.lo ∨ k.lo + k.w ≤ f.lo)
    else f.acc = .rw ∧ f.lo = k.lo ∧ f.w = k.w

section
variable {s : State} {g : RegGroup} {o c : Nat} (hk : CeilingFields (ceilingField o c) g)
include hk

/-- The word handed on to the fields beside a ceiling changes an RWB field where the word written does. -/
theorem CeilingFields.changesRwb_iff (old v : BitVec 32) (x : Nat) :
    g.ChangesRwb old (putField v (ceilingField o c).lo (ceilingField o c).w x) ↔ g.ChangesRwb old v := by
  refine exists_congr fun f => and_congr_right fun hf => and_congr_right fun hacc => ?_
  have hd := hk.2 f hf
  rw [if_pos hacc] at hd
  rw [getField_putField_ne _ _ _ _ _ _ hd.1 hd.2]

/-- The fields beside a ceiling are written with the ceiling as it was. -/
theorem CeilingFields.rd_plainWrite (hg : findReg (ceilingField o c).addr = some g) (v : BitVec 32)
    {f : FieldDesc} (hf : f ∈ g.fields) (hacc : f.acc ≠ .rwb) :
    (s.plainWrite (ceilingField o c).addr (putField v (ceilingField o c).lo (ceilingField o c).w
      (s.rd (ceilingField o c)))).rd (ceilingField o c) = s.rd (ceilingField o c) := by
  have hd := hk.2 f hf
  rw [if_neg hacc] at hd
  obtain ⟨hrw, hlo, hw⟩ := hd
  have hp := s.getField_plainWrite (putField v (ceilingField o c).lo (ceilingField o c).w (s.rd (ceilingField o c))) hg hf
  simp only [FieldDesc.take, hrw, hlo, hw, getField_putField_self _ _ _ _ hk.1, Nat.mod_mod] at hp
  exact hp.trans (Nat.mod_eq_of_lt (getField_lt _ _ _))

/-- A write of the register of a ceiling does to the RWB fields what boot lock asks: it writes them by their types, and what it
does to the ceiling leaves them and the count of the lock. -/
theorem CeilingFields.locked (ho : o < 16) (hc : c < 4) (hl : s.bootLocked = true)
    (hg : findReg (ceilingField o c).addr = some g) : LockedWrites s (ceilingField o c).addr g (s.ceilingWrite o c) := by
  have ha : A.SEC_LOCKSTAT ≠ (ceilingField o c).addr := by
    rw [ceilingField_addr o hc]; simp only [A.SEC_LOCKSTAT]; omega
  have hb := s.plainWrite_locked hl hg ha.symm
  have hcount (t : State) (x : Nat) :
      (t.clampWrite o c x).rd F.SEC_LOCKSTAT_IGNORED = t.rd F.SEC_LOCKSTAT_IGNORED := by
    simp only [State.rd]
    rw [State.reg_clampWrite_ne _ _ ha (by decide) (by simp only [A.SEC_LOCKSTAT, A.GUARD_OUTo_EVENT]; omega)]
  constructor
  case held =>
    intro v f hf hacc
    have hd := hk.2 f hf
    rw [if_pos hacc] at hd
    rw [State.ceilingWrite, State.getField_clampWrite_apart _ hc _ hd.1 hd.2, hb.held _ f hf hacc]
  case counted =>
    intro v h
    rw [State.ceilingWrite, hcount, hb.counted _ ((hk.changesRwb_iff _ _ _).mpr h)]
  case uncounted =>
    intro v h
    rw [State.ceilingWrite, hcount, hb.uncounted _ (mt (hk.changesRwb_iff _ _ _).mp h)]
  case others =>
    intro v v' h f hf hacc
    have hv := h f hf hacc
    obtain ⟨-, hlo, hw⟩ := (if_neg hacc).mp (hk.2 f hf)
    rw [hlo, hw] at hv ⊢
    rw [State.ceilingWrite, State.ceilingWrite, hv]
    exact State.rd_clampWrite_congr hc _ hk.1 ((hk.rd_plainWrite hg v' hf hacc).trans (hk.rd_plainWrite hg v hf hacc).symm)

end

theorem xclamp_ceilingFields (o : Nat) : CeilingFields (ceilingField o 2) xclampGroup := by
  rw [show ceilingField o 2 = F.GUARD_OUTo_XCLAMP_V o from rfl]
  simp [CeilingFields, xclampGroup]

theorem eclamp_ceilingFields (o : Nat) : CeilingFields (ceilingField o 3) eclampGroup := by
  rw [show ceilingField o 3 = F.GUARD_OUTo_ECLAMP_E o from rfl]
  simp [CeilingFields, eclampGroup]

/-- Every write of a register that holds an RWB field does what boot lock asks. -/
theorem State.writeReg_locked (s : State) (who : Writer) {a : Nat} {g : RegGroup} (hl : s.bootLocked = true)
    (hg : findReg a = some g) (hr : ∃ f ∈ g.fields, f.acc = .rwb) : LockedWrites s a g (s.writeReg who a) := by
  have hn : findReg a ≠ none := by simp [hg]
  rcases findReg_rwb hg hr with hs | ⟨d, hd, rfl⟩ | ⟨c, hc, rfl⟩ | ⟨rfl, o, ho, rfl⟩ | ⟨rfl, o, ho, rfl⟩
  · have ha : ∀ b ∈ rwbScalars, b ≠ A.SEC_LOCKSTAT := by decide
    exact (s.plainWrite_locked hl hg (ha a hs)).congr fun v => s.writeReg_rwbScalar who v a hs
  · have ha : A.MOD_DIEd_CFG d ≠ A.SEC_LOCKSTAT := by simp only [A.MOD_DIEd_CFG, A.SEC_LOCKSTAT]; omega
    exact (s.plainWrite_locked hl hg ha).congr fun v => s.writeReg_dieCfg who v hd hn
  · have ha : A.MOD_PHASEc c ≠ A.SEC_LOCKSTAT := by simp only [A.MOD_PHASEc, A.SEC_LOCKSTAT]; omega
    exact (s.plainWrite_locked hl hg ha).congr fun v => s.writeReg_phase who v hc hn
  · exact ((xclamp_ceilingFields o).locked ho (by decide) hl hg).congr fun v =>
      s.writeReg_ceiling who v ho (c := 2) (by decide) hn
  · exact ((eclamp_ceilingFields o).locked ho (by decide) hl hg).congr fun v =>
      s.writeReg_ceiling who v ho (c := 3) (by decide) hn

/-- Settles O13: of the registers that hold an RWB field a write takes all by the types of their fields, but for the ceilings of
XCLAMP and ECLAMP, which stand beside their RWB fields and leave them. -/
theorem bootLockHoldsFields : Obligations.BootLockHoldsFields := by
  unfold Obligations.BootLockHoldsFields
  intro s who a v g hl hg hr
  have h := s.writeReg_locked who hl hg hr
  refine ⟨h.held v, fun hc => h.counted v hc, fun hc => h.uncounted v ?_, h.others v⟩
  rintro ⟨f, hf, hacc, hne⟩
  exact hne (hc f hf hacc)

end Sys2Proof.Machine
end

section
/-!
PROOFS. Loops over the numbers of a unit, the guard of a step, and the accesses that wait for an island (R26).
-/

namespace Sys2Proof.Machine

open Sys2Proof

/-- What every round of a loop leaves, the loop leaves. -/
theorem foldl_keeps {α β γ : Type} (p : α → γ) (f : α → β → α) (h : ∀ u e, p (f u e) = p u) (l : List β) (t : α) :
    p (l.foldl f t) = p t :=
  List.foldlRecOn (motive := fun u => p u = p t) l f rfl fun u hu e _ => (h u e).trans hu

/-- A loop whose rounds do nothing does nothing. -/
theorem State.forAll_fixed (s : State) (n : Nat) {f : Nat → State → State} (h : ∀ i < n, f i s = s) : s.forAll n f = s := by
  induction n with
  | zero => rfl
  | succ n ih => rw [State.forAll_succ, ih fun i hi => h i (by omega), h n (by omega)]

/-- A loop of which one round acts is that round. -/
theorem State.forAll_single (s : State) {n k : Nat} {f : Nat → State → State} (hk : k < n) (hb : ∀ i < k, f i s = s)
    (ha : ∀ i, k < i → f i (f k s) = f k s) : s.forAll n f = f k s := by
  induction n with
  | zero => omega
  | succ n ih =>
    rw [State.forAll_succ]
    rcases Nat.lt_succ_iff_lt_or_eq.mp hk with h | rfl
    · rw [ih h, ha n h]
    · rw [s.forAll_fixed _ hb]

theorem State.reach_running (s : State) {a : Nat} (f : State → State) (h : s.islandStopped a = false) : s.reach a f = f s := by
  simp [State.reach, h]

theorem State.reach_stopped (s : State) {a : Nat} (f : State → State) (h : s.islandStopped a = true) :
    s.reach a f = s.bump F.SYS_XING_ERR_STALLED := by
  simp [State.reach, h]

theorem State.when_true (s : State) (f : State → State) : s.when true f = f s := rfl

theorem State.when_false (s : State) (f : State → State) : s.when false f = s := rfl

end Sys2Proof.Machine
end

section
/-!
PROOFS. The access rules of the memory windows for the host (R29, R453): what it reads and writes, and what a refused access does.
-/

namespace Sys2Proof.Machine

open Sys2Proof

/-- An access of a window ends as its access rules say. -/
theorem State.busCheck_window (s : State) (who : Writer) (wr : Bool) {a : Nat} (h : inSram a = true ∨ inDram a = true) :
    s.busCheck who wr a = if s.windowOk who wr a = true then .ok else .denied := by
  have ha := window_ge h
  have hr : ¬ (0x10000 ≤ a ∧ a < 0x120000) := by omega
  simp only [State.busCheck, if_neg hr, Bool.or_eq_true, if_pos h]

/-- A read of a window gives the word there, or 0 and a count. -/
theorem State.busRead_window (s : State) (who : Writer) {a : Nat} (h : inSram a = true ∨ inDram a = true) :
    s.busRead who a = if s.windowOk who false a = true then (.ok, s.memWord (a / 4 * 4), s)
      else (.denied, 0, s.bump F.SYS_XING_ERR_REFUSED) := by
  have ha := window_ge h
  rw [State.busRead, s.busCheck_window who false h]
  split
  · simp only [if_true, if_neg (Nat.not_lt.mpr ha)]
  · rfl

/-- A write of a window is stored, or discarded and counted. -/
theorem State.busWrite_window (s : State) (who : Writer) {a : Nat} (v : BitVec 32) (h : inSram a = true ∨ inDram a = true) :
    s.busWrite who a v = if s.windowOk who true a = true then (.ok, s.setMemWord (a / 4 * 4) v)
      else (.denied, s.bump F.SYS_XING_ERR_REFUSED) := by
  have ha := window_ge h
  rw [State.busWrite, s.busCheck_window who true h]
  split
  · simp only [if_true, if_neg (Nat.not_lt.mpr ha)]
  · rfl

/-- The host reads the records and the staging area between them, and with open debug access the rest. -/
theorem State.windowOk_hostRead_iff (s : State) (a : Nat) :
    s.windowOk .host false a = true ↔ (0x207EE000 ≤ a ∧ a < 0x20800000) ∨ s.debugOpen = true := by
  simp [State.windowOk]

/-- The host writes the staging area, and with open debug access shared SRAM in ROM_DEFAULTS and DRYFIT_DONE and DRAM in
ROM_DEFAULTS. -/
theorem State.windowOk_hostWrite_iff (s : State) (a : Nat) :
    s.windowOk .host true a = true ↔ (0x207EF000 ≤ a ∧ a < 0x207FF000) ∨
      (s.debugOpen = true ∧ (s.boot.state = bootRomDefaults ∨ (inSram a = true ∧ s.boot.state = bootDryfitDone))) := by
  cases h : inSram a <;> simp [State.windowOk, h]

/-- Settles O11: a host access of a window is one of the two that the access rules allow, or it is denied. -/
theorem refusedWindowAccess : Obligations.RefusedWindowAccess := by
  unfold Obligations.RefusedWindowAccess
  refine ⟨fun s a h hr => ?_, fun s a v h hr => ?_, fun s a h hr => ?_, fun s a v h hr => ?_⟩
  · rw [s.busRead_window .host h, if_neg (mt (s.windowOk_hostRead_iff a).mp hr)]
  · rw [s.busWrite_window .host v h, if_neg (mt (s.windowOk_hostWrite_iff a).mp hr)]
  · rw [s.busRead_window .host h, if_pos ((s.windowOk_hostRead_iff a).mpr hr)]
  · rw [s.busWrite_window .host v h, if_pos ((s.windowOk_hostWrite_iff a).mpr hr)]

end Sys2Proof.Machine
end

section
/-!
PROOFS. The reference, the PLLs and the timing source (R17 to R23, R276, R277, R337, R381).
-/

namespace Sys2Proof.Machine

open Sys2Proof

/-! ### Windows of the reference (R19) -/

theorem State.pvddRuns_wr (s : State) (f : Fld) (v : Nat) : (s.wr f v).pvddRuns = s.pvddRuns := rfl

/-- A raised event leaves the converter as it is. -/
theorem State.pvddRuns_raise (s : State) (cls inst code detail : Nat) (lasting : Bool) :
    (s.raise cls inst code detail lasting).pvddRuns = s.pvddRuns := by
  unfold State.raise State.raiseEvt; split <;> rfl

/-- The first good window in a row only counts. -/
theorem execXtalWindowEnd_firstGood {n : Nat} {s : State} (hm : s.pmu.mode = .run) (h1 : 88 ≤ n) (h2 : n ≤ 104)
    (hg : s.sys.xtalGood = 0) :
    execXtalWindowEnd n s = .next { s with sys := { s.sys with xtalGood := 1, xtalBad := 0 } } := by
  simp [execXtalWindowEnd, hm, h1, h2, hg]

/-- The second bad window in a row ends a reference that ran, and raises its clock fault; a converter that does not switch has no
phase clock to change (R337). -/
theorem execXtalWindowEnd_secondBad {n : Nat} {s : State} (hm : s.pmu.mode = .run) (hn : n < 88 ∨ 104 < n)
    (hb : s.sys.xtalBad = 1) (hx : s.on F.SYS_CLKSTAT_XTAL_OK = true) (hp : s.pvddRuns = false) :
    execXtalWindowEnd n s = .next ((({ s with sys := { s.sys with xtalGood := 0, xtalBad := 2 } } : State).wr
      F.SYS_CLKSTAT_XTAL_OK 0).raise 1 0 1 0 false) := by
  have hgood : (decide (88 ≤ n) && decide (n ≤ 104)) = false := by
    simp only [Bool.and_eq_false_iff, decide_eq_false_iff_not]; omega
  have hx' : ({ s with sys := { s.sys with xtalGood := 0, xtalBad := 2 } } : State).on F.SYS_CLKSTAT_XTAL_OK = true := hx
  have hp' : ({ s with sys := { s.sys with xtalGood := 0, xtalBad := 2 } } : State).pvddRuns = false := hp
  simp [execXtalWindowEnd, hm, hgood, hb, hx', State.pvddRuns_raise, State.pvddRuns_wr, hp']

/-! ### PLL locks (R18, R19, R21) -/

theorem execPllLockLost_pllB {s : State} (h : s.on F.SYS_CLKSTAT_PLLB_LOCK = true) :
    execPllLockLost true s = .next ((s.wr F.SYS_CLKSTAT_PLLB_LOCK 0).raise 1 0 3 0 false) := by
  simp [execPllLockLost, h]

/-- Without PLL A the bridges go off (R200), and no spread is applied (R21). -/
theorem execPllLockLost_pllA {s : State} (h : s.on F.SYS_CLKSTAT_PLLA_LOCK = true) :
    execPllLockLost false s =
      .next (((s.wr F.SYS_CLKSTAT_PLLA_LOCK 0).raise 1 0 2 0 false).outputsPllLost.spreadStat) := by
  simp [execPllLockLost, h]

/-- A PLL locks only while it is enabled and its reference runs. -/
theorem execPllLockAcquired_idle {b : Bool} {s : State}
    (h : (if b then s.sys.pllBOn else s.sys.pllAOn) = false ∨ s.on F.SYS_CLKSTAT_XTAL_OK = false) :
    execPllLockAcquired b s = .next s := by
  rw [execPllLockAcquired, if_pos]
  rcases h with h | h <;> simp [h]

/-- PLL B of a die that is out of reset only sets its bit. -/
theorem execPllLockAcquired_pllB {s : State} (hb : s.sys.pllBOn = true) (hx : s.on F.SYS_CLKSTAT_XTAL_OK = true)
    (hd : s.sys.dieHeld = false) : execPllLockAcquired true s = .next (s.wr F.SYS_CLKSTAT_PLLB_LOCK 1) := by
  simp [execPllLockAcquired, hb, hx, hd]

/-! ### The timing source (R23) -/

theorem execTsrcLockGained_locked {p : BitVec 24} {s : State} (h : s.on F.SYS_CLKSTAT_TSRC_LOCKED = true) :
    execTsrcLockGained p s = .next s := by
  rw [execTsrcLockGained, if_pos h]

theorem execTsrcLockLost_locked {s : State} (h : s.on F.SYS_CLKSTAT_TSRC_LOCKED = true) :
    execTsrcLockLost s = .next ((s.forEach s.ownerCtxs (fun c t => t.ctxFault c)).tsrcUnlock) := by
  simp [execTsrcLockLost, h]

theorem execTsrcLockLost_unlocked {s : State} (h : s.on F.SYS_CLKSTAT_TSRC_LOCKED = false) :
    execTsrcLockLost s = .next s := by
  simp [execTsrcLockLost, h]

/-- Settles O51: each clause is one branch of its command. -/
theorem clocksAndTimingSource : Obligations.ClocksAndTimingSource := by
  unfold Obligations.ClocksAndTimingSource
  refine ⟨fun n s => execXtalWindowEnd_firstGood, fun n s => execXtalWindowEnd_secondBad, fun s => execPllLockLost_pllB,
    fun s => execPllLockLost_pllA, fun b s h => execPllLockAcquired_idle (.inl h),
    fun b s h => execPllLockAcquired_idle (.inr h), fun s => execPllLockAcquired_pllB, fun p s => execTsrcLockGained_locked,
    fun p s h => ?gained, fun s => execTsrcLockLost_locked, fun s => execTsrcLockLost_unlocked⟩
  case gained =>
    -- the clause writes out the branch of a source that is not locked
    have hn : ¬ s.on F.SYS_CLKSTAT_TSRC_LOCKED = true := by simp [h]
    exact if_neg hn

end Sys2Proof.Machine
end

section
/-!
PROOFS. The control engine: control samples, writes of banks and tables, bank swaps, refetched coefficients (R202 to R224).
-/

namespace Sys2Proof.Machine

open Sys2Proof

/-! ### Control samples (R17, R202) -/

theorem execLaneEvaluate_eq (faults : List (Fin 16 × LaneFault)) (s : State) :
    execLaneEvaluate faults s = .next (if s.on F.SYS_CLKSTAT_PLLA_LOCK then s.controlSample faults else s) := rfl

/-! ### Writes (R216) -/

theorem State.bankWrite_active (s : State) {c b : Nat} (k : Nat) (v : BitVec 32) (h : s.bank c = b) :
    s.bankWrite c b k v = (s.bump F.LOOP_CMDCNT_WR_REFUSED).ev A.LOOP_EVENT 2 := if_pos h

theorem State.bankWrite_other (s : State) {c b : Nat} (k : Nat) (v : BitVec 32) (h : s.bank c ≠ b) :
    s.bankWrite c b k v = s.setReg (A.LOOP_CHc_BANKb_Wk c b k) (v &&& bankMask k) := if_neg h

theorem State.fbWrite_idle (s : State) {c : Nat} (k : Nat) (slope : Bool) (v : BitVec 32) (h : s.channelIdle c = true) :
    s.fbWrite c k slope v = s.setReg (if slope then A.LOOP_CHc_FBk_SLOPE c k else A.LOOP_CHc_FBk c k) v := if_pos h

theorem State.fbWrite_busy (s : State) {c : Nat} (k : Nat) (slope : Bool) (v : BitVec 32) (h : s.channelIdle c = false) :
    s.fbWrite c k slope v = (s.bump F.LOOP_CMDCNT_WR_REFUSED).ev A.LOOP_EVENT 2 := by
  simp [State.fbWrite, State.loopRefused, h]

theorem State.loopCfgWrite_idle (s : State) {c : Nat} (v : BitVec 32) (h : s.channelIdle c = true) :
    s.loopCfgWrite c v = s.setReg (A.LOOP_CHc_CFG c) (v &&& 0xFFFF1F3F) := if_pos h

theorem State.loopCfgWrite_busy (s : State) {c : Nat} (v : BitVec 32) (h : s.channelIdle c = false) :
    s.loopCfgWrite c v = s.bump F.LOOP_CMDCNT_WR_REFUSED := by
  simp [State.loopCfgWrite, h]

/-! ### Requests of a swap (R217) -/

/-- A table written at every key below `n`. -/
theorem Tbl.get_foldl_set_range {α : Type} [DecidableEq α] (d : α) (x : Nat → α) (q : Tbl α) (n k : Nat) :
    Tbl.get d ((List.range n).foldl (fun q g => Tbl.set d q g (x g)) q) k = if k < n then x k else Tbl.get d q k := by
  induction n with
  | zero => rfl
  | succ n ih =>
    rw [List.range_succ, List.foldl_append, List.foldl_cons, List.foldl_nil, Tbl.get_set, ih]
    by_cases hk : k = n
    · simp [hk]
    · rw [if_neg hk]
      exact ite_congr (propext (by omega)) (fun _ => rfl) (fun _ => rfl)

/-- A selection asks for a swap of every group. -/
theorem State.bankselWrite_swaps (s : State) (v : Nat) (late : Bool) {g : Nat} (hg : g < 4) :
    Tbl.get none (s.bankselWrite v late).loop.swaps g = some { bank := v / 2 ^ g % 2, late := late } :=
  (Tbl.get_foldl_set_range none (fun g => some ({ bank := v / 2 ^ g % 2, late := late } : SwapReq)) _ 4 g).trans (if_pos hg)

theorem State.bankselWrite_group (s : State) (v : BitVec 4) (late : Bool) :
    (s.bankselWrite v.toNat late).rd F.LOOP_BANKSEL_GROUP = v.toNat :=
  (s.rd_wr_self F.LOOP_BANKSEL_GROUP v.toNat (by decide)).trans (Nat.mod_eq_of_lt v.isLt)

/-! ### Swaps at the boundary (R217, R218) -/

theorem State.setBank_loop (s : State) (c b : Nat) : (s.setBank c b).loop = s.loop := rfl

/-- The swap of a group leaves the requests. -/
theorem State.swapGroup_loop (s : State) (g b : Nat) : (s.swapGroup g b).loop = s.loop := by
  have hd (l : List Nat) (t : State) : (t.forEach l (fun _ t => t.bump F.LOOP_CMDCNT_SWAP_REFUSED)).loop = t.loop :=
    foldl_keeps State.loop _ (fun u _ => u.bump_loop _) l t
  have hg (l : List Nat) (t : State) : (t.forEach l (fun c t => t.setBank c b)).loop = t.loop :=
    foldl_keeps State.loop _ (fun u c => u.setBank_loop c b) l t
  unfold State.swapGroup
  dsimp only
  split
  · rw [hd]
  · split <;> simp [hd, hg]

/-- What a control-sample boundary does to the request of group `g`. -/
def State.swapDue (g : Nat) (t : State) : State :=
  match Tbl.get none t.loop.swaps g with
  | none => t
  | some r =>
    if r.late then { t with loop := { t.loop with swaps := Tbl.set none t.loop.swaps g (some { r with late := false }) } }
    else { t with loop := { t.loop with swaps := Tbl.set none t.loop.swaps g none } }.swapGroup g r.bank

theorem execBankSwap_eq (s : State) : execBankSwap s = .next (s.forAll 4 State.swapDue) := rfl

theorem State.swapDue_none {t : State} {g : Nat} (h : Tbl.get none t.loop.swaps g = none) : t.swapDue g = t := by
  simp [State.swapDue, h]

/-- A request that is due leaves the table, and its group swaps. -/
theorem State.swapDue_due {t : State} {g b : Nat} (h : Tbl.get none t.loop.swaps g = some { bank := b, late := false }) :
    t.swapDue g = { t with loop := { t.loop with swaps := Tbl.set none t.loop.swaps g none } }.swapGroup g b := by
  simp [State.swapDue, h]

/-- A boundary with one request performs it. -/
theorem execBankSwap_single {s : State} {g b : Nat} (hg : g < 4) (h : s.loop.swaps = [(g, some { bank := b, late := false })]) :
    execBankSwap s = .next ({ s with loop := { s.loop with swaps := [] } }.swapGroup g b) := by
  have hd : s.swapDue g = { s with loop := { s.loop with swaps := [] } }.swapGroup g b := by
    rw [State.swapDue_due (b := b) (by simp [h, Tbl.get])]
    simp [h, Tbl.set, Tbl.del]
  have hb : ∀ i < g, s.swapDue i = s := fun i hi => State.swapDue_none (by simp [h, Tbl.get, Nat.ne_of_lt hi])
  have ha : ∀ i, g < i → (s.swapDue g).swapDue i = s.swapDue g := fun i _ =>
    State.swapDue_none (by rw [hd, State.swapGroup_loop]; rfl)
  rw [execBankSwap_eq, s.forAll_single hg hb ha, hd]

/-- Settles O33: the clauses on writes are the two answers of each write behind a running island; a boundary goes through the
requests of the four groups. -/
theorem controlSamples : Obligations.ControlSamples := by
  unfold Obligations.ControlSamples
  refine ⟨fun fs s h => ?sample, fun fs s h => ?stopped, fun c b k v s h1 h2 => ?bankActive, fun c b k v s h1 h2 => ?bankOther,
    fun c k sl v s h1 h2 => ?tableIdle, fun c k sl v s h1 h2 => ?tableBusy, fun c v s h1 h2 => ?cfgIdle,
    fun c v s h1 h2 => ?cfgBusy, fun v late s h => ?select, fun c v s h => ?cfgStalled, fun s h => ?noSwap,
    fun g b s h => execBankSwap_single g.isLt h, fun c s => rfl⟩
  case sample => exact (execLaneEvaluate_eq fs s).trans (by rw [if_pos h])
  case stopped => exact (execLaneEvaluate_eq fs s).trans (by simp [h])
  case bankActive => exact congrArg Host.Outcome.next ((s.reach_running _ h1).trans (s.bankWrite_active k v h2))
  case bankOther => exact congrArg Host.Outcome.next ((s.reach_running _ h1).trans (s.bankWrite_other k v h2))
  case tableIdle => exact congrArg Host.Outcome.next ((s.reach_running _ h1).trans (s.fbWrite_idle k sl v h2))
  case tableBusy => exact congrArg Host.Outcome.next ((s.reach_running _ h1).trans (s.fbWrite_busy k sl v h2))
  case cfgIdle => exact congrArg Host.Outcome.next ((s.reach_running _ h1).trans (s.loopCfgWrite_idle v h2))
  case cfgBusy => exact congrArg Host.Outcome.next ((s.reach_running _ h1).trans (s.loopCfgWrite_busy v h2))
  case select =>
    exact ⟨s.bankselWrite v.toNat late, congrArg Host.Outcome.next (s.reach_running _ h), s.bankselWrite_group v late,
      fun g => s.bankselWrite_swaps v.toNat late g.isLt, rfl, rfl, rfl⟩
  case cfgStalled => exact congrArg Host.Outcome.next (s.reach_stopped _ h)
  case noSwap =>
    exact (execBankSwap_eq s).trans (congrArg Host.Outcome.next (s.forAll_fixed 4 fun g hg => State.swapDue_none (h g hg)))

end Sys2Proof.Machine
end

section
/-!
PROOFS. Frames of the DSP graph: boundaries, glue-up, concealment (R128, R134, R146, R160 to R174).
-/

namespace Sys2Proof.Machine

open Sys2Proof

/-! ### Frame boundaries (R128) -/

/-- A boundary acts while the island runs (R17). -/
theorem execDspFrameBoundary_running {f4 : Bool} {s : State} (h : s.busUp = true) :
    execDspFrameBoundary f4 s = .next (s.boundary f4) := by
  rw [execDspFrameBoundary, if_pos h]

theorem execDspFrameBoundary_stopped {f4 : Bool} {s : State} (h : s.busUp = false) :
    execDspFrameBoundary f4 s = .next s := by
  simp [execDspFrameBoundary, h]

/-- The boundary after one of the first seven F4 frames is not an F32 boundary. -/
theorem boundary_not_whole {n : Nat} (h : n < 7) : (!true || n == 7) = false := by
  simp; omega

/-- The boundary of class F32, or after the eighth F4 frame, is one. -/
theorem boundary_whole {f4 : Bool} {n : Nat} (h : f4 = false ∨ n = 7) : (!f4 || n == 7) = true := by
  rcases h with h | h <;> simp [h]

/-! ### Glue-up (R160, R162) -/

theorem execGlueUp_running {f4 : Bool} {cycles : List Nat} {found : List (BitVec 16 × Detection)} {s : State}
    (h : s.busUp = true) : execGlueUp f4 cycles found s = .next (s.glueUp f4 cycles found) := by
  rw [execGlueUp, h, State.when_true]

/-- A frame that is done or doomed does not commit. -/
theorem State.glueUp_over (s : State) {f4 : Bool} (cycles : List Nat) (found : List (BitVec 16 × Detection))
    (h : (s.cls f4).done = true ∨ (s.cls f4).doomed = true) : s.glueUp f4 cycles found = s := by
  unfold State.glueUp
  split
  · rfl
  · rw [if_pos (by simpa using h)]

/-- A word that fails the write-back check is a detection in the frame, which does not commit. -/
theorem State.glueUp_checkFails (s : State) {f4 : Bool} (cycles : List Nat) {found : List (BitVec 16 × Detection)}
    (hi : (s.cls f4).input.isSome = true) (hd : (s.cls f4).done = false) (hx : (s.cls f4).doomed = false)
    (hf : found.any (fun x => detBad x.2) = true) :
    s.glueUp f4 cycles found = s.forEach found (fun x t => t.dspDetection x.1.toNat x.2) := by
  obtain ⟨input, hi⟩ := Option.isSome_iff_exists.mp hi
  simp only [State.glueUp, hi, hd, hx, hf, Bool.or_self, Bool.false_eq_true, if_false, if_true]

/-- The state in which the blocks of a frame have run, the outputs of its terminals stand committed and the mirrors are
written. -/
def State.frameCommit (s : State) (f4 : Bool) (input : FrameData) : State :=
  let r := s.runBlocks f4 input
  let spk := r.1.termOuts (frameN f4) r.2 (s.dsp.graph.termsOf 2 f4)
  let out := spk.1.termOuts (frameN f4) r.2 (s.dsp.graph.termsOf 1 f4)
  (out.1.setClass f4 { out.1.cls f4 with done := true, committed := some (spk.2, out.2) }).writeMirrors

/-- An output of an F4 frame joins the samples of the F32 period, from sample `i0` on. -/
def State.joinFast (i0 : Nat) (u : State) (e : Nat × List (List (BitVec 32))) : State :=
  let old := Tbl.get [] u.dsp.fastNow e.1
  let new := ((List.range e.2.length).zip e.2).map (fun (c, xs) => overlay32 (old.getD c []) i0 xs)
  { u with dsp := { u.dsp with fastNow := Tbl.set [] u.dsp.fastNow e.1 new } }

/-- The outputs of an F32 frame wait for the next period. -/
def State.setSlowNext (s : State) (env : Env) : State :=
  { s with dsp := { s.dsp with slowNext := env.foldl (fun m e => Tbl.set [] m e.1 e.2) [] } }

section
variable {s : State} {cycles : List Nat} {found : List (BitVec 16 × Detection)} {input : FrameData}

/-- An F4 frame commits, and its outputs join those of the period. -/
theorem State.glueUp_f4 (hi : s.dsp.f4.input = some input) (hd : s.dsp.f4.done = false) (hx : s.dsp.f4.doomed = false)
    (hf : found.any (fun x => detBad x.2) = false) :
    s.glueUp true cycles found =
      (s.runBlocks true input).2.foldl (State.joinFast (4 * s.dsp.sub)) (s.frameCommit true input) := by
  simp only [State.glueUp, State.cls, if_true, hi, hd, hx, hf, Bool.or_self, Bool.false_eq_true, if_false]
  rfl

/-- An F32 frame commits; its outputs wait for the next period, and the guard, the frame count and the due veneers follow. -/
theorem State.glueUp_f32 (hi : s.dsp.f32.input = some input) (hd : s.dsp.f32.done = false) (hx : s.dsp.f32.doomed = false)
    (hf : found.any (fun x => detBad x.2) = false) :
    s.glueUp false cycles found = (((State.setSlowNext (s.frameCommit false input) (s.runBlocks false input).2).forEach
      ((List.range 4).zip cycles) (fun x u => u.coreLoadSeen x.1 x.2)).guardFrame.bumpWrap F.DSPX_FRAMECNT_VALUE).veneersDue := by
  simp only [State.glueUp, State.cls, hi, hd, hx, hf, Bool.or_self, Bool.false_eq_true, if_false]
  rfl

end

/-- What joins the period leaves the commit. -/
theorem State.foldl_joinFast_f4 (i0 : Nat) (env : Env) (t : State) :
    (env.foldl (State.joinFast i0) t).dsp.f4 = t.dsp.f4 :=
  foldl_keeps (fun t : State => t.dsp.f4) (State.joinFast i0) (fun _ _ => rfl) env t

/-! ### Concealment (R163) -/

/-- A frame with an input that has not committed is concealed. -/
theorem execFrameConceal_open {f4 : Bool} (late : Bool) {s : State} (h : s.busUp = true) (hi : (s.cls f4).input.isSome = true)
    (hd : (s.cls f4).done = false) : execFrameConceal f4 late s = .next (s.conceal f4 late) := by
  rw [execFrameConceal, if_pos (by simp [h, hi, hd])]

/-- Settles O29: a boundary runs through its steps for the class it ends, a glue-up commits the frame, detects or leaves it, and
a frame left open is concealed. -/
theorem graphFrames : Obligations.GraphFrames := by
  unfold Obligations.GraphFrames
  refine ⟨fun s h hn => ?inside, fun f4 s h hw => ?whole, fun f4 s h => execDspFrameBoundary_stopped h,
    fun cycles found input s h hi hd hx hf => ?commitF4, fun cycles found input s h hi hd hx hf => ?commitF32,
    fun f4 cycles found s h hi hd hx hf => (execGlueUp_running h).trans
      (congrArg Host.Outcome.next (s.glueUp_checkFails cycles hi hd hx hf)),
    fun f4 cycles found s ho => ?closed, fun late s h hi hd => execFrameConceal_open late h hi hd,
    fun late s h hi hd => execFrameConceal_open late h hi hd⟩
  case inside =>
    refine (execDspFrameBoundary_running h).trans (congrArg Host.Outcome.next ?_)
    simp only [State.boundary, boundary_not_whole hn, State.when_false, Bool.false_eq_true, if_false, if_true]
  case whole =>
    refine (execDspFrameBoundary_running h).trans (congrArg Host.Outcome.next ?_)
    simp only [State.boundary, boundary_whole hw, State.when_true, if_true]
  case commitF4 =>
    refine ⟨_, (execGlueUp_running h).trans (congrArg Host.Outcome.next (State.glueUp_f4 hi hd hx hf)), ?_, ?_⟩
    · rw [State.foldl_joinFast_f4]; rfl
    · rw [State.foldl_joinFast_f4]; rfl
  case commitF32 =>
    exact (execGlueUp_running h).trans (congrArg Host.Outcome.next (State.glueUp_f32 hi hd hx hf))
  case closed =>
    refine congrArg Host.Outcome.next ?_
    cases hb : s.busUp
    · rfl
    · exact s.glueUp_over cycles found ho

end Sys2Proof.Machine
end

section
/-!
PROOFS. Stage 1 and its straps, later stages, rails that stop and discharge, window trips, and the rails that firmware controls
(R36, R329, R330, R332 to R334, R336, R344 to R346).
-/

namespace Sys2Proof.Machine

open Sys2Proof

/-! ### Stage 1 and its straps (R36, R329, R330) -/

/-- Stage 1 that is due starts once VSYS has reached its threshold, with the straps sampled (R329). -/
theorem execStage1Start_reached {vsys b h0 h1 : Nat} {k : ResetKind} {s : State} (hr : s.sys.rst = some (k, .stage1))
    (hst : s.pmu.stage1 = false) (hw : s.pmu.retryWait = false) (hm : s.pmu.mode = .run)
    (hv : (s.sampleStraps b h0 h1).vsysStart ≤ vsys) :
    execStage1Start vsys b h0 h1 s = .next ((fun t : State => ({ t with pmu := { t.pmu with stage1 := true } } :
      State).railRequest 0) (s.sampleStraps b h0 h1)) := by
  simp only [execStage1Start, hr, hst, hw, hm, Nat.not_lt.mpr hv, Bool.not_false, decide_true, Bool.and_self, if_true, if_false]

/-- Below the threshold nothing happens, and the straps are not sampled either. -/
theorem execStage1Start_below {vsys b h0 h1 : Nat} {s : State} (hv : vsys < (s.sampleStraps b h0 h1).vsysStart) :
    execStage1Start vsys b h0 h1 s = .next s := by
  simp only [execStage1Start, hv, if_true, ite_self]

/-- The bands of a four-level strap; a resistance in none of them counts as level 0 (R36). -/
theorem strapLevel_getD (b : Nat) : (strapLevel b).getD 0 = if b < 2000 then 0 else
    if 5000 ≤ b ∧ b ≤ 20000 then 1 else if 30000 ≤ b ∧ b ≤ 150000 then 2 else if 300000 < b then 3 else 0 := by
  simp only [strapLevel, apply_ite (fun x : Option Nat => x.getD 0), Option.getD_some, Option.getD_none]

/-- The first sampling takes the level of BOOTSEL (R36). -/
theorem State.sampleStraps_bootsel {s : State} (b h0 h1 : Nat) (h : s.boot.strapped = false) :
    (s.sampleStraps b h0 h1).boot.bootsel = (strapLevel b).getD 0 := by
  simp [State.sampleStraps, h]

/-- A rail that is not in its soft start reaches no window. -/
theorem State.railReady_idle {s : State} {r : Nat} (h : s.pmu.soft.getLsbD r = false) : s.railReady r = s := by
  simp [State.railReady, h]

/-- A rail of stage 1 that another one follows starts it (R329). -/
theorem State.railReady_stage1 {s : State} {r n : Nat} (hs : s.pmu.soft.getLsbD r = true) (h1 : s.inStage1 = true)
    (hr : r < 5) (hn : stage1Next r = some n) :
    s.railReady r = ((((({ s with pmu := { s.pmu with soft := s.pmu.soft &&& ~~~ railMask r } } : State).setBit
      A.PMU_RAILSTAT r true).setBit A.PMU_SUPSTAT r false).setBit A.PMU_SUPSTAT (16 + r) false).railRequest n) := by
  have h1' : s.pmu.stage1 = true ∧ s.sys.pllAOn = false := by simpa [State.inStage1] using h1
  simp [State.railReady, hs, State.inStage1, h1', hr, hn]

/-- PVDD apart, a rail in window goes on as its soft start says. -/
theorem execRailInWindow_notPvdd {r : Fin 9} {s : State} (h : r.val ≠ 7) :
    execRailInWindow r s = .next (s.railReady r) := by
  rw [execRailInWindow, if_neg h]

/-- The timeout of a rail of stage 1 stops the rails in the reverse of their order; the third one locks out (R330). -/
theorem execStage1RailTimeout_inStage1 {r : Fin 9} {s : State} (h1 : s.inStage1 = true)
    (hs : s.pmu.soft.getLsbD r = true) (hr : r.val < 5) : let t := s.forEach [1, 4, 3, 2, 0] (fun d t => t.railOff d);
    execStage1RailTimeout r s = .next (if 2 ≤ t.pmu.tries
      then { t with pmu := { t.pmu with stage1 := false, tries := t.pmu.tries + 1, lastFail := r, again := 0,
                                        mode := .lockout, lockedOut := true }, sys := { t.sys with rst := none } }
      else { t with pmu := { t.pmu with stage1 := false, tries := t.pmu.tries + 1, lastFail := r, again := 0,
                                        retryWait := true } }) := by
  have hd : decide (5 ≤ r.val) = false := decide_eq_false (by omega)
  simp only [execStage1RailTimeout, h1, hs, hd, Bool.not_true, Bool.or_self, Bool.false_eq_true, if_false]
  split
  · rw [if_pos (by omega)]
  · rw [if_neg (by omega)]

theorem execStage1Retry_due {s : State} (h : s.pmu.retryWait = true) :
    execStage1Retry s = .next (({ s with pmu := { s.pmu with retryWait := false, stage1 := true } } :
      State).railRequest 0) := by
  rw [execStage1Retry, if_pos h]

/-! ### Later stages (R332) -/

theorem execLaterStageStart_due {s : State} (hq : s.pmu.seqOn = true) (ho : s.pmu.opened = []) (hm : s.pmu.mode = .run) :
    execLaterStageStart s = .next s.stageStart := by
  rw [execLaterStageStart, if_pos ⟨hq, ho, hm⟩]

/-- A rail that the stage still waits for is given up at its timeout. -/
theorem execStageTimeout_opened {r : Fin 9} {s : State} (h : s.pmu.opened.contains r.val = true) :
    execStageTimeout r s = .next (((((s.railOff r).setBit A.PMU_SEQSTAT (16 + r) true).ev A.PMU_EVENT 1).raise 0xA r 1 0
      true).stageRail r) := by
  rw [execStageTimeout, if_pos h]

/-! ### Discharges (R333, R334) -/

theorem execRailDischarged_discharging {r : Fin 9} {s : State} (h : s.railDis r = true) :
    execRailDischarged r s = .next ((((s.setBit A.PMU_RAILSTAT (16 + r) false).railAgain r).downDone r).wakeLatched) := by
  rw [execRailDischarged, if_pos h]

theorem execDischargeTimeout_discharging {r : Fin 9} {s : State} (h : s.railDis r = true) :
    execDischargeTimeout r s = .next (((((s.ev A.PMU_EVENT 17).raise 0xA r 7 0 true).railAgain r).downDone r).wakeLatched) := by
  rw [execDischargeTimeout, if_pos h]

/-! ### Window trips (R345) -/

/-- A rail that is off or in its soft start does not trip. -/
theorem execRailWindowTrip_idle {r : Fin 9} (above : Bool) {s : State}
    (h : s.pmu.enabled.getLsbD r = false ∨ s.pmu.soft.getLsbD r = true) : execRailWindowTrip r above s = .next s := by
  have hc : r.val = rChg ∨ (!s.pmu.enabled.getLsbD r) = true ∨ s.pmu.soft.getLsbD r = true :=
    .inr (h.imp (fun he => by rw [he]; rfl) id)
  rw [execRailWindowTrip, if_pos hc]

/-- A microphone bias that trips is flagged and reported, and keeps running (R336). -/
theorem execRailWindowTrip_micb {r : Fin 9} (above : Bool) {s : State} (hr : r.val = 5 ∨ r.val = 6)
    (he : s.pmu.enabled.getLsbD r = true) (hs : s.pmu.soft.getLsbD r = false) :
    let t := if s.hkInBand r then s.bump F.PMU_CNT2_SUP_DISAGREE else s
    execRailWindowTrip r above s = .next ((((((t.bump F.PMU_CNT2_RAIL_TRIPS).setBit A.PMU_SUPSTAT
      (if above then 16 + r.val else r.val) true).ev A.PMU_EVENT (if above then 13 else 12)).setBit A.PMU_RAILSTAT r
      false)).raise 0xA r 2 0 false) := by
  have hchg : r.val ≠ rChg := show r.val ≠ 8 by omega
  have hpvdd : r.val ≠ rPvdd := show r.val ≠ 7 by omega
  have hlow : ¬ r.val < 5 := by omega
  simp only [execRailWindowTrip, hchg, hpvdd, hlow, he, hs, Bool.not_true, Bool.false_eq_true, or_self, if_false]

/-! ### The rails that firmware controls (R336, R346) -/

/-- A write that touches stage 1, or comes before its end, is refused and counted. -/
theorem State.railctrlWrite_refused {v : BitVec 32} {s : State} (h : getField v 0 5 ≠ 0 ∨ s.sys.pllAOn = false) :
    s.railctrlWrite v = s.bump F.PMU_CNT_REFUSED := by
  rw [State.railctrlWrite, if_pos h]

/-- A bit that is written leaves every other bit of its register. -/
theorem State.evOn_setBit_ne (s : State) {a b c : Nat} (x : Bool) (hc : c < 32) (h : c ≠ b) :
    (s.setBit a b x).evOn a c = s.evOn a c := by
  have hr : (s.setBit a b x).rd ⟨a, c, 1⟩ = s.rd ⟨a, c, 1⟩ :=
    State.rd_wr_apart s (f := ⟨a, b, 1⟩) (g := ⟨a, c, 1⟩) rfl (show c + 1 ≤ 32 by omega)
      (show c + 1 ≤ b ∨ b + 1 ≤ c by omega) _
  simp only [State.evOn, hr]

/-- The charger's enable is a bit of PMU_RAILCTRL. -/
theorem State.on_chgEn (s : State) : s.on F.PMU_RAILCTRL_CHG_EN = s.evOn A.PMU_RAILCTRL 8 := rfl

@[simp] theorem State.holdState_setBit_railctrl (s : State) (b : Nat) (x : Bool) :
    (s.setBit A.PMU_RAILCTRL b x).holdState = s.holdState :=
  State.rd_wr_ne s (f := ⟨A.PMU_RAILCTRL, b, 1⟩) (g := F.PMU_HOLD_STAT_STATE)
    (show A.PMU_HOLD_STAT ≠ A.PMU_RAILCTRL by decide) _

@[simp] theorem State.holdState_wrB_chgEn (s : State) (x : Bool) :
    (s.wrB F.PMU_RAILCTRL_CHG_EN x).holdState = s.holdState :=
  State.rd_wr_ne s (by decide) _

/-- A write that only turns the charger on, outside HOLDUP, starts it (R346). -/
theorem State.railctrlWrite_chgOn {v : BitVec 32} {s : State} (h : ¬ (getField v 0 5 ≠ 0 ∨ s.sys.pllAOn = false))
    (h5 : v.getLsbD 5 = false) (h6 : v.getLsbD 6 = false) (h8 : v.getLsbD 8 = true)
    (was5 : s.evOn A.PMU_RAILCTRL 5 = false) (was6 : s.evOn A.PMU_RAILCTRL 6 = false)
    (was8 : s.on F.PMU_RAILCTRL_CHG_EN = false) (hh : s.holdState ≠ 3) :
    s.railctrlWrite v = (((s.setBit A.PMU_RAILCTRL 5 false).setBit A.PMU_RAILCTRL 6 false).wrB F.PMU_RAILCTRL_CHG_EN
      true).chgStart := by
  have was6' : (s.setBit A.PMU_RAILCTRL 5 false).evOn A.PMU_RAILCTRL 6 = false :=
    (s.evOn_setBit_ne false (by decide) (by decide)).trans was6
  have was8' : ((s.setBit A.PMU_RAILCTRL 5 false).setBit A.PMU_RAILCTRL 6 false).on F.PMU_RAILCTRL_CHG_EN = false := by
    rw [State.on_chgEn, State.evOn_setBit_ne _ _ (by decide) (by decide), State.evOn_setBit_ne _ _ (by decide) (by decide),
      ← State.on_chgEn, was8]
  rw [State.railctrlWrite, if_neg h]
  simp only [State.forEach, List.foldl_cons, List.foldl_nil, h5, h6, h8, was5, was6', was8', State.holdState_wrB_chgEn,
    State.holdState_setBit_railctrl, hh, Bool.false_and, Bool.and_false, Bool.not_false, Bool.and_self, Bool.false_eq_true,
    if_true, if_false]

section
variable {v : BitVec 32} {s : State}

/-- The voltage of a bias that runs is not changed. -/
theorem State.micbCfgWrite_running (h0 : getField v F.PMU_MICB_CFG_MICB0.lo 7 = s.rd F.PMU_MICB_CFG_MICB0)
    (h1 : getField v F.PMU_MICB_CFG_MICB1.lo 7 ≠ s.rd F.PMU_MICB_CFG_MICB1) (he : s.pmu.enabled.getLsbD 6 = true) :
    s.micbCfgWrite v = s.bump F.PMU_CNT_REFUSED := by
  simp only [State.micbCfgWrite, h0, h1, he, true_or, if_true, if_false]

/-- The voltage of a bias that is off is changed within 2.0 to 3.3 V, and its housekeeping window follows (R386). -/
theorem State.micbCfgWrite_off (h0 : getField v F.PMU_MICB_CFG_MICB0.lo 7 = s.rd F.PMU_MICB_CFG_MICB0)
    (h1 : getField v F.PMU_MICB_CFG_MICB1.lo 7 ≠ s.rd F.PMU_MICB_CFG_MICB1) (he : s.pmu.enabled.getLsbD 6 = false)
    (hlo : 20 ≤ getField v F.PMU_MICB_CFG_MICB1.lo 7) (hhi : getField v F.PMU_MICB_CFG_MICB1.lo 7 ≤ 33) :
    s.micbCfgWrite v = (s.wr F.PMU_MICB_CFG_MICB1 (getField v F.PMU_MICB_CFG_MICB1.lo 7)).hkMicb := by
  simp only [State.micbCfgWrite, h0, h1, he, Nat.not_lt.mpr hlo, Nat.not_lt.mpr hhi, Bool.false_eq_true, or_self, if_true,
    if_false]

end

/-- A short of a running bias at its limit switches it off. -/
theorem execMicbShort_micb1 {s : State} (h : s.pmu.enabled.getLsbD 6 = true) :
    execMicbShort true false s = .next ((((s.ev A.PMU_EVENT 14).setBit A.PMU_RAILCTRL 6 false).railOff 6).stageRail 6) :=
  congrArg Host.Outcome.next (if_pos h)

/-- Settles O41: each clause is one branch of its command; BUCK1 in window starts the rail that follows it, and a write of
PMU_RAILCTRL reads what it changes before it writes the next bit. -/
theorem railsAndStages : Obligations.RailsAndStages := by
  unfold Obligations.RailsAndStages
  refine ⟨fun vsys b h0 h1 k s => execStage1Start_reached, fun vsys b h0 h1 s => execStage1Start_below,
    fun b h0 h1 s h => (s.sampleStraps_bootsel b h0 h1 h).trans (strapLevel_getD b), fun s hs h1 hp => ?firstRail,
    fun r s hr hs => ?notStarting, fun r s => execStage1RailTimeout_inStage1, fun s => execStage1Retry_due,
    fun s => execLaterStageStart_due, fun r s => execStageTimeout_opened, fun r s => execRailDischarged_discharging,
    fun r s => execDischargeTimeout_discharging, fun r above s => execRailWindowTrip_micb above,
    fun r above s => execRailWindowTrip_idle above, fun v s h => congrArg Host.Outcome.next (State.railctrlWrite_refused h),
    fun v s h h5 h6 h8 was5 was6 was8 hh =>
      congrArg Host.Outcome.next (State.railctrlWrite_chgOn h h5 h6 h8 was5 was6 was8 hh),
    fun v s h0 h1 he => congrArg Host.Outcome.next (State.micbCfgWrite_running h0 h1 he),
    fun v s h0 h1 he hlo hhi => congrArg Host.Outcome.next (State.micbCfgWrite_off h0 h1 he hlo hhi),
    fun under s he hu => ?short⟩
  case firstRail =>
    have hi : s.inStage1 = true := by simp [State.inStage1, h1, hp]
    exact (execRailInWindow_notPvdd (by decide)).trans
      (congrArg Host.Outcome.next (State.railReady_stage1 hs hi (by decide) rfl))
  case notStarting => exact (execRailInWindow_notPvdd hr).trans (congrArg Host.Outcome.next (State.railReady_idle hs))
  case short =>
    subst hu
    exact execMicbShort_micb1 he

end Sys2Proof.Machine
end

section
/-!
PROOFS. The commands of an audio port, by its state (R79 to R81, R95).
-/

namespace Sys2Proof.Machine

open Sys2Proof

/-! ### START and ARM -/

/-- START at a port that stands still records the frame S of its start (R80). -/
theorem State.cmdStart_still {s : State} {n : Nat} (h : s.pState n = pOff ∨ s.pState n = pHalted) :
    s.cmdStart n = s.portStartAt n s.startFrame := if_pos h

theorem State.cmdStart_stopping {s : State} {n : Nat} (h : s.pState n = pStopping) : s.cmdStart n = s.portQueue n true := by
  have hstill : ¬ (s.pState n = pOff ∨ s.pState n = pHalted) := by rw [h]; decide
  have harmed : ¬ s.pState n = pArmed := by rw [h]; decide
  exact (if_neg hstill).trans ((if_neg harmed).trans (if_pos h))

theorem State.cmdArm_still {s : State} {n : Nat} (h : s.pState n = pOff ∨ s.pState n = pHalted) :
    s.cmdArm n = s.wr (F.PORTn_STAT_STATE n) pArmed := if_pos h

/-- ARM has no effect but in OFF, HALTED and STOPPING. -/
theorem State.cmdArm_ignored {s : State} {n : Nat}
    (h : s.pState n ≠ pOff ∧ s.pState n ≠ pHalted ∧ s.pState n ≠ pStopping) : s.cmdArm n = s.portIgnored n := by
  obtain ⟨hoff, hhalted, hstopping⟩ := h
  simp only [State.cmdArm, hoff, hhalted, hstopping, or_self, if_false]

/-! ### DISARM and STOP -/

/-- A port without a queued command stays in OFF (R79). -/
theorem State.portEnterOff_unqueued {s : State} {n : Nat} (h : (s.port n).queued = none) :
    s.portEnterOff n = (((s.wr (F.PORTn_STAT_STATE n) pOff).wr (F.PORTn_STAT_ALIGN_SUSPECT n) 0).setPort n
      { s.port n with queued := none, startAt := none, rxFifo := [], txFifo := [], restart := .none, faultRamp := false,
                      frameSeen := false, drained := 0, txSw := [], rxShift := 0, txShift := 0, sent := [] }).wr
      (F.PORTn_STAT_START_QUEUED n) 0 := by
  simp only [State.portEnterOff, h]

theorem State.cmdDisarm_armed {s : State} {n : Nat} (h : s.pState n = pArmed) : s.cmdDisarm n = s.portEnterOff n := if_pos h

/-- STOP mutes a port that starts or runs first (R81). -/
theorem State.cmdStop_active {s : State} {n : Nat} (h : s.pState n = pStarting ∨ s.pState n = pRunning) :
    s.cmdStop n = s.portStopping n := if_pos h

/-- STOP takes a port that carries no samples to OFF at once (log entry 150). -/
theorem State.cmdStop_inactive {s : State} {n : Nat}
    (h : s.pState n = pArmed ∨ s.pState n = pFaultWait ∨ s.pState n = pRestarting ∨ s.pState n = pHalted) :
    s.cmdStop n = s.portEnterOff n := by
  have hactive : ¬ (s.pState n = pStarting ∨ s.pState n = pRunning) := by
    rcases h with h | h | h | h <;> rw [h] <;> decide
  exact (if_neg hactive).trans (if_pos h)

/-! ### RESTART (R95) -/

theorem State.cmdRestart_active {s : State} {n : Nat} (h : s.pState n = pStarting ∨ s.pState n = pRunning) :
    s.cmdRestart n = s.portMutedRestart n false := if_pos h

/-- Settles O18: each clause is one row of the command table of R79. -/
theorem portCommands : Obligations.PortCommands := by
  unfold Obligations.PortCommands
  refine ⟨fun n s h => congrArg Host.Outcome.next (State.cmdStart_still h),
    fun n s h => congrArg Host.Outcome.next (State.cmdStart_stopping h),
    fun n s h => congrArg Host.Outcome.next (State.cmdArm_still h), fun n s h => ?armIgnored, fun n s h hq => ?disarm,
    fun n s h => congrArg Host.Outcome.next (State.cmdStop_active h),
    fun n s h => congrArg Host.Outcome.next (State.cmdStop_inactive h),
    fun n s h => congrArg Host.Outcome.next (State.cmdRestart_active h)⟩
  case armIgnored =>
    refine congrArg Host.Outcome.next (State.cmdArm_ignored ?_)
    rcases h with h | h | h | h | h <;> rw [h] <;> decide
  case disarm =>
    exact congrArg Host.Outcome.next ((State.cmdDisarm_armed h).trans (State.portEnterOff_unqueued hq))

end Sys2Proof.Machine
end

section
/-!
PROOFS. The configuration, the slot maps and the slot masks of an audio port, and the common start trigger
(R67, R68, R76, R78, R81, R82, R89).
-/

namespace Sys2Proof.Machine

open Sys2Proof

/-! ### Configuration (R67, R68) -/

theorem State.portCfgWrite_accepted {s : State} {n : Nat} {v : BitVec 32} (hoff : s.pState n = pOff)
    (hok : portCfgOk n v = true) :
    s.portCfgWrite n v = (s.setReg (A.PORTn_CFG n) (v &&& portCfgMask)).portDivider n :=
  if_pos (Bool.and_eq_true_iff.mpr ⟨decide_eq_true hoff, hok⟩)

theorem State.portCfgWrite_refused {s : State} {n : Nat} {v : BitVec 32} (h : s.pState n ≠ pOff ∨ portCfgOk n v = false) :
    s.portCfgWrite n v = s.portRefused n := by
  refine if_neg fun hc => ?_
  obtain ⟨hoff, hok⟩ := Bool.and_eq_true_iff.mp hc
  rcases h with h | h
  · exact h (of_decide_eq_true hoff)
  · exact ne_true_of_eq_false h hok

/-! ### Maps (R78) -/

theorem State.portMapWrite_tx_stored {s : State} {n k : Nat} {v : BitVec 32}
    (h : mapTouchesActive (s.reg (A.PORTn_TXMAPk n k)) v (s.rd (F.PORTn_SLOTMASK_ACT_TX n)) k = false) :
    s.portMapWrite n true k v = s.setReg (A.PORTn_TXMAPk n k) v := if_neg (ne_true_of_eq_false h)

/-- The contexts of the changed entries follow a receive map word that is stored. -/
theorem State.portMapWrite_rx_stored {s : State} {n k : Nat} {v : BitVec 32}
    (h : mapTouchesActive (s.reg (A.PORTn_RXMAPk n k)) v (s.rxFast n) k = false)
    (hd : s.rxDuplicate (A.PORTn_RXMAPk n k) v = false) :
    let old := s.reg (A.PORTn_RXMAPk n k)
    let changed := (List.range 4).filter (fun j => decide (mapEntry old j ≠ mapEntry v j))
    s.portMapWrite n false k v =
      ((s.setReg (A.PORTn_RXMAPk n k) v).forEach (boundCtxs (changed.map (mapEntry old))) (fun c t => t.ctxUnbind c)).forEach
        changed (fun j t => if 128 ≤ mapEntry v j then t.ctxBind (mapEntry v j - 128) 1 (16 * n + (4 * k + j)) else t) := by
  simp only [State.portMapWrite, h, hd, Bool.or_self, Bool.false_eq_true, if_false]

/-- A map word of either direction that changes a slot that stands fast is refused. -/
theorem State.portMapWrite_refused {s : State} {n k : Nat} {tx : Bool} {v : BitVec 32}
    (h : mapTouchesActive (s.reg (if tx then A.PORTn_TXMAPk n k else A.PORTn_RXMAPk n k)) v
      (if tx then s.rd (F.PORTn_SLOTMASK_ACT_TX n) else s.rxFast n) k = true) :
    s.portMapWrite n tx k v = s.portRefused n := by
  cases tx with
  | true => exact if_pos h
  | false => exact if_pos (Bool.or_eq_true_iff.mpr (.inl h))

/-! ### Slot masks (R89) -/

/-- Outside RUNNING a mask becomes active without a slot that switches. -/
theorem State.portMaskApply_notRunning {s : State} {n : Nat} (h : s.pState n ≠ pRunning) :
    s.portMaskApply n = (((s.setReg (A.PORTn_SLOTMASK_ACT n) (s.reg (A.PORTn_SLOTMASK n))).wr (F.PORTn_MASK_FRAME_VALUE n)
      (s.rd (F.PORTn_FRAMECNT_VALUE n) + 1)).ev (A.PORTn_EVENT n) 3).setPort n
      { s.port n with maskPending := false, maskDefer := false } := if_neg h

/-- A pending mask that is not deferred is applied at a frame boundary. -/
theorem execPortMaskApply_due {n : Fin 4} {s : State} (hp : (s.port n).maskPending = true)
    (hd : (s.port n).maskDefer = false) (hs : s.pState n ≠ pOff ∧ s.pState n ≠ pArmed ∧ s.pState n ≠ pHalted) :
    execPortMaskApply n s = .next (s.portMaskApply n) := by
  obtain ⟨hoff, harmed, hhalted⟩ := hs
  simp only [execPortMaskApply, hp, hd, hoff, harmed, hhalted, Bool.not_true, decide_false, Bool.or_self, Bool.false_eq_true,
    if_false]

/-- A port in OFF or ARMED has no frame boundary. -/
theorem execPortMaskApply_still {n : Fin 4} {s : State} (h : s.pState n = pOff ∨ s.pState n = pArmed) :
    execPortMaskApply n s = .next s := by
  refine if_pos ?_
  simp only [Bool.or_eq_true, decide_eq_true_eq]
  exact .inl (h.imp_left .inr)

/-! ### The common start trigger (R82) -/

theorem State.gstartFire_register {s : State} (h : s.rd F.PORT_GSTART_SRC = 0) : s.gstartFire = s.localTrigger := if_pos h

/-- Without START_TX the trigger stays in the device. -/
theorem State.localTrigger_unsent {s : State} (h : s.on F.TRING_CFG_START_TX = false) :
    s.localTrigger = s.portTrigger s.startFrame := if_neg (ne_true_of_eq_false h)

/-- A SYNC edge that the ring and the decimation chain do not use triggers the start and the trace (R82). -/
theorem execSyncPinEdge_trigger {s : State} (hd : s.sys.dieHeld = false) (hsrc : s.rd F.PORT_GSTART_SRC = 1)
    (htx : s.on F.TRING_CFG_SYNC_TX = false) (hpin : s.on F.DECIM_SYNC_PIN_EN = false) :
    execSyncPinEdge s = .next s.localTrigger.traceSync := by
  simp only [execSyncPinEdge, hd, hsrc, htx, hpin, Bool.false_eq_true, if_false, if_true]

/-- Settles O19: a write is taken or refused as its guard says; outside RUNNING no slot switches with a mask. -/
theorem portConfiguration : Obligations.PortConfiguration := by
  unfold Obligations.PortConfiguration
  refine ⟨fun n v s hoff hok => congrArg Host.Outcome.next (State.portCfgWrite_accepted hoff hok),
    fun n v s h => congrArg Host.Outcome.next (State.portCfgWrite_refused h),
    fun n k v s h => congrArg Host.Outcome.next (State.portMapWrite_tx_stored h),
    fun n k v s h hd => congrArg Host.Outcome.next (State.portMapWrite_rx_stored h hd),
    fun n tx k v s h => congrArg Host.Outcome.next (State.portMapWrite_refused h), fun n v late s => rfl,
    fun n s hp hd h => ?maskDue, fun n s => execPortMaskApply_still,
    fun s h htx => congrArg Host.Outcome.next ((State.gstartFire_register h).trans (State.localTrigger_unsent htx)),
    fun s => execSyncPinEdge_trigger⟩
  case maskDue =>
    have hs : s.pState n ≠ pOff ∧ s.pState n ≠ pArmed ∧ s.pState n ≠ pHalted := by
      rcases h with h | h <;> rw [h] <;> decide
    have hr : s.pState n ≠ pRunning := by rcases h with h | h <;> rw [h] <;> decide
    exact (execPortMaskApply_due hp hd hs).trans (congrArg Host.Outcome.next (State.portMaskApply_notRunning hr))

end Sys2Proof.Machine
end

section
/-!
PROOFS. The way of an audio port to RUNNING, to OFF and through its restarts (R79 to R81, R88, R92, R93, R95).
-/

namespace Sys2Proof.Machine

open Sys2Proof

variable {n : Fin 4} {s : State}

/-! ### The way to RUNNING (R80) -/

/-- A port whose start frame has come starts with an empty record; its mask waits for no frame. -/
theorem execPortStartFrame_unmasked {f : Nat} (hf : (s.port n).startAt = some f) (hm : (s.port n).maskPending = false) :
    execPortStartFrame n s = .next (((s.wr (F.PORTn_STAT_STATE n) pStarting).setReg (A.PORTn_FRAMECNT n) 0).setPort n
      { s.port n with startAt := none, rxFifo := [], txFifo := [], prevFrame := [], lastRead := [], faultRamp := false,
                      frameSeen := false, restart := .none, glitches := [], cleanRun := 0, rxShift := 0, txShift := 0,
                      txLast := [], sent := [], startPos := 0, firstAt := none }) := by
  simp only [execPortStartFrame, hf, hm, Bool.false_eq_true, if_false]

/-- A port that starts and is ready sets STARTED; RESUMED is for a restart. -/
theorem execPortRunningReached_started (hs : s.pState n = pStarting) (hr : s.portReady n = true) :
    execPortRunningReached n s = .next ((((((s.wr (F.PORTn_STAT_STATE n) pRunning).ev (A.PORTn_EVENT n) 0).setPort n
      { s.port n with restart := .none, faultRamp := false }).portPlace n).portRxIn n).portTxIn n) := by
  have hstarts : (s.pState n = pStarting ∨ (s.pState n = pRestarting ∧ (s.port n).restart = .capturing)) ∧
      s.portReady n = true := ⟨.inl hs, hr⟩
  have hfresh : ¬ (s.pState n = pRestarting ∧ (s.port n).restart = .capturing) :=
    fun h => absurd (hs.symm.trans h.1) (by decide)
  exact (if_pos hstarts).trans (by simp only [if_neg hfresh]; rfl)

theorem execPortStartTimeout_unseen (hs : s.pState n = pStarting) (hm : s.portMaster n = false)
    (hf : (s.port n).frameSeen = false) :
    execPortStartTimeout n s =
      .next (((s.portClockFault n).ev (A.PORTn_EVENT n) 4).bump (F.PORTn_ERRCNT_CLKLOSS n)) := if_pos ⟨hs, hm, hf⟩

/-! ### The way to OFF (R81) -/

theorem execPortStopDrainDone_drained (hs : s.pState n = pStopping) (hd : s.portDrained n = true) :
    execPortStopDrainDone n s = .next ((s.portEnterOff n).ev (A.PORTn_EVENT n) 1) := if_pos ⟨hs, hd⟩

/-! ### Resumption and restart (R93, R95) -/

/-- A port that may resume by its policy and has not done so too often starts afresh. -/
theorem execPortResume_fresh (hs : s.pState n = pFaultWait) (hc : (s.portPol n).resumeFrames ≤ (s.port n).cleanRun)
    (ha : (s.portPol n).clockAction ≠ 1) (hm : (s.portAuto n).2 = false) :
    let t := (((s.portAuto n).1.wr (F.PORTn_STAT_STATE n) pStarting).setReg (A.PORTn_FRAMECNT n) 0).ev (A.PORTn_EVENT n) 2
    execPortResume n s = .next (t.setPort n { t.port n with rxFifo := [], txFifo := [], glitches := [], frameSeen := true,
                                                            faultRamp := false, firstAt := none }) := by
  simp only [execPortResume, hs, hc, ha, hm, and_self, if_true, if_false, Bool.false_eq_true]

/-- CLOCK_ACTION 1 halts the port in place of a resumption. -/
theorem execPortResume_halted (hs : s.pState n = pFaultWait) (hc : (s.portPol n).resumeFrames ≤ (s.port n).cleanRun)
    (ha : (s.portPol n).clockAction = 1) : execPortResume n s = .next (s.portHalt n) := by
  simp only [execPortResume, hs, hc, ha, and_self, if_true]

/-- After its ramp a restart flushes the FIFOs and captures. -/
theorem execPortRestartCapture_ramped (hs : s.pState n = pRestarting) (hr : (s.port n).restart = .ramping) :
    execPortRestartCapture n s = .next ((s.portFlush n).setPort n { s.port n with
      rxFifo := [], txFifo := [], rxShift := 0, txShift := 0, restart := .capturing, frameSeen := true }) := by
  simp only [execPortRestartCapture, hs, hr, and_self, if_true, State.portFlush, State.port_setPort]

/-- Settles O20: each clause is one branch of its command. -/
theorem portRunning : Obligations.PortRunning := by
  unfold Obligations.PortRunning
  exact ⟨fun _ _ _ => execPortStartFrame_unmasked, fun _ _ => execPortRunningReached_started,
    fun _ _ => execPortStartTimeout_unseen, fun _ _ => execPortStopDrainDone_drained, fun _ _ => execPortResume_fresh,
    fun _ _ => execPortResume_halted, fun _ _ => execPortRestartCapture_ramped⟩

end Sys2Proof.Machine
end

section
/-!
PROOFS. Frames, slips, clock faults, overruns and IEC 60958 blocks of an audio port (R72 to R75, R84, R91, R92, R94).
-/

namespace Sys2Proof.Machine

open Sys2Proof

variable {n : Fin 4} {s : State}

/-! ### Frames (R84, R91) -/

/-- A frame of a port that is not stopped is counted, measured and, where it is a glitch, judged; it carries data unless that is
a clock fault. -/
theorem execPortRxFrame_active {f : PortFrame} (h : s.pState n ≠ pOff ∧ s.pState n ≠ pArmed ∧ s.pState n ≠ pHalted) :
    let t := ((s.bumpWrap (F.PORTn_FRAMECNT_VALUE n)).iecCounts n f).measure n f (s.isGlitch n f)
    let u := if s.isGlitch n f then t.glitchFrame n else t
    execPortRxFrame n f s = .next (if u.pState n = pFaultWait then u else u.frameData n f (s.isGlitch n f)) := by
  obtain ⟨hoff, harmed, hhalted⟩ := h
  simp only [execPortRxFrame, hoff, harmed, hhalted, or_self, if_false]

/-! ### Slips (R84) -/

/-- A receive FIFO that fills drops its newest frame. -/
theorem execPortSlip_rx_drop (hf : s.portForeign n = true) (hl : 6 ≤ (s.port n).rxFifo.length) :
    execPortSlip n false s =
      .next ((s.setPort n { s.port n with rxFifo := (s.port n).rxFifo.dropLast }).slipCount n false) := by
  simp only [execPortSlip, hf, hl, Bool.not_true, Bool.false_eq_true, if_false, if_true]

/-- A receive FIFO that runs empty repeats the last frame read. -/
theorem execPortSlip_rx_repeat (hf : s.portForeign n = true) (hl : (s.port n).rxFifo.length ≤ 2) :
    execPortSlip n false s =
      .next ((s.setPort n { s.port n with rxFifo := (s.port n).lastRead :: (s.port n).rxFifo }).slipCount n true) := by
  have hlow : ¬ 6 ≤ (s.port n).rxFifo.length := by omega
  simp only [execPortSlip, hf, hl, hlow, Bool.not_true, Bool.false_eq_true, if_false, if_true]

theorem execPortSlip_tx_drop (hf : s.portForeign n = true) (hl : 6 ≤ (s.port n).txFifo.length) :
    execPortSlip n true s =
      .next ((s.setPort n { s.port n with txFifo := (s.port n).txFifo.dropLast }).slipCount n false) := by
  simp only [execPortSlip, hf, hl, Bool.not_true, Bool.false_eq_true, if_false, if_true]

/-! ### Clock faults (R91, R92) -/

/-- The loss of a slave's clock takes the IEC lock of PORT3 alone. -/
theorem execClkLoss_slave (hm : s.portMaster n = false) (hn : n.val ≠ 3) : execClkLoss n s = .next (s.clkLoss n) := by
  simp only [execClkLoss, hm, hn, Bool.false_eq_true, if_false]

theorem State.clkLoss_watched {n : Nat} (h : s.portWatched n = true) :
    s.clkLoss n = (((s.portClockFault n).ev (A.PORTn_EVENT n) 4).bump (F.PORTn_ERRCNT_CLKLOSS n)).wr
      (F.PORTn_STAT_CLK_PRESENT n) 0 := if_pos h

theorem State.clkLoss_unwatched {n : Nat} (h : s.portWatched n = false) :
    s.clkLoss n = s.wr (F.PORTn_STAT_CLK_PRESENT n) 0 := if_neg (ne_true_of_eq_false h)

/-- A watched port that leaves its rate takes a clock fault. -/
theorem execRateFault_watched {period : BitVec 24}
    (hp : periodWithin period.toNat (faHz (s.rd (F.PORTn_CFG_FA n))) 1000 = false)
    (hw : (s.wr (F.PORTn_STAT_RATE_OK n) 0).portWatched n = true) :
    execRateFault n period s = .next ((((s.wr (F.PORTn_STAT_RATE_OK n) 0).portClockFault n).ev (A.PORTn_EVENT n) 6).bump
      (F.PORTn_ERRCNT_CLKLOSS n)) := by
  simp only [execRateFault, hp, hw, Bool.false_eq_true, if_false, if_true]

/-! ### Overruns and underruns (R94) -/

/-- Outside TDM no slot is shifted. -/
theorem State.portXrun_notTdm {n : Nat} (tx overrun : Bool) (hr : (s.port n).faultRamp = false)
    (hm : s.rd (F.PORTn_CFG_MODE n) ≠ 1) :
    s.portXrun n tx overrun = if overrun then (s.bump (F.PORTn_ERRCNT_OVERRUN n)).ev (A.PORTn_EVENT n) 8
      else (s.bump (F.PORTn_ERRCNT_UNDERRUN n)).ev (A.PORTn_EVENT n) 9 := by
  simp only [State.portXrun, hr, hm, Bool.false_eq_true, if_false]

/-! ### IEC 60958 (R72 to R75) -/

theorem execIecLock_locked (hm : s.rd (F.PORTn_CFG_MODE 3) = 3) (hd : s.on F.PORT3_IEC_CFG_DIR = false) :
    execIecLock 192 true s = .next (s.wr F.PORT3_IEC_STAT_LOCK 1) := if_pos ⟨hm, hd, rfl, rfl⟩

/-- A channel status seen twice in a row that is not the one reported is taken (R73). -/
theorem execIecBlockEnd_taken {csA csB : BitVec 192} (hp : (s.port 3).csPrev = some csA)
    (hc : s.csBits (A.PORT3_CS_RXk 0) ≠ csA) :
    execIecBlockEnd csA csB s = .next ((((((s.setPort 3 { s.port 3 with csPrev := some csA }).wrB
      F.PORT3_IEC_STAT_CS_AB_DIFF (csA != csB)).forAll 6 (fun k t => t.setReg (A.PORT3_CS_RXk k) (csWord csA k))).wrB
      F.PORT3_IEC_STAT_PRO (csA.getLsbD 0)).wrB F.PORT3_IEC_STAT_NONAUDIO (csA.getLsbD 1 && !csA.getLsbD 0)).ev
      (A.PORTn_EVENT 3) 13) := if_pos ⟨hp, hc⟩

/-- Settles O21: each clause is one branch of its command. -/
theorem portFramesAndFaults : Obligations.PortFramesAndFaults := by
  unfold Obligations.PortFramesAndFaults
  refine ⟨fun n f s hs hg => ?frame, fun n f s hs hg => ?glitch, fun _ _ => execPortSlip_rx_drop,
    fun _ _ => execPortSlip_rx_repeat, fun _ _ => execPortSlip_tx_drop, fun n s hm hw hn => ?watched,
    fun n s hm hw hn => ?unwatched, fun _ _ _ => execRateFault_watched,
    fun n tx ov s hr hm => congrArg Host.Outcome.next (State.portXrun_notTdm tx ov hr hm), fun _ => execIecLock_locked,
    fun _ _ _ => execIecBlockEnd_taken, fun s => rfl⟩
  case frame => exact (execPortRxFrame_active (by rw [hs]; decide)).trans (by simp only [hg, Bool.false_eq_true, if_false])
  case glitch => exact (execPortRxFrame_active (by rw [hs]; decide)).trans (by simp only [hg, if_true])
  case watched => exact (execClkLoss_slave hm hn).trans (congrArg Host.Outcome.next (State.clkLoss_watched hw))
  case unwatched => exact (execClkLoss_slave hm hn).trans (congrArg Host.Outcome.next (State.clkLoss_unwatched hw))

end Sys2Proof.Machine
end

section
/-!
PROOFS. Zero crossings, stream contexts and generators (R86, R87, R130, R132, R133, R136).
-/

namespace Sys2Proof.Machine

open Sys2Proof

variable {s : State}

/-! ### Zero crossings that do not come (R86, R133) -/

/-- The timeout of a context that no port feeds is no port's event. -/
theorem execZcTimeout_ctx {n : Fin 128} (hw : (s.ctx n).sw.waiting = true) (hk : s.rd (F.DSPX_CTXn_CFG_KIND n) ≠ 1) :
    execZcTimeout (.ctx n) s = .next (s.setCtx n { s.ctx n with sw := (s.ctx n).sw.expire (s.ctxZc n).2 }) := by
  simp only [execZcTimeout, hw, hk, Bool.not_true, Bool.false_eq_true, if_false]

theorem execZcTimeout_portTx {p : Fin 4} {k : Fin 16} (hw : (s.txGain p k).waiting = true) :
    execZcTimeout (.portTx p k) s = .next ((s.setTxGain p k ((s.txGain p k).expire
      (2 ^ s.rd (F.PORTn_ZC_RAMP_LOG2 p)))).ev (A.PORTn_EVENT p) 12) := by
  simp only [execZcTimeout, hw, Bool.not_true, Bool.false_eq_true, if_false]

/-! ### Writes of a context (R130, R132, R133) -/

section
variable {n : Nat} {v : BitVec 32}

/-- The word of a context whose source a map or the graph sets changes its ramp and its mute alone. -/
theorem State.ctxCfgWrite_bound (hok : s.ctxKindOk n (getField v 12 4) = true) (hlo : 4 ≤ getField v 27 4)
    (hhi : getField v 27 4 ≤ 14) (hk : getField v 12 4 = 1 ∨ getField v 12 4 = 2 ∨ getField v 12 4 = 5) :
    s.ctxCfgWrite n v = ((s.wr (F.DSPX_CTXn_CFG_RAMP_LOG2 n) (getField v 27 4)).wr (F.DSPX_CTXn_CFG_MUTE n)
      (getField v 1 1)).ctxRetarget n := by
  have hown : ¬ (getField v 12 4 = 0 ∨ getField v 12 4 = 3 ∨ getField v 12 4 = 4) := by omega
  simp only [State.ctxCfgWrite, hok, Nat.not_lt.mpr hlo, Nat.not_lt.mpr hhi, hown, Bool.not_true, decide_false, Bool.or_self,
    Bool.false_eq_true, if_false]

/-- The word of an unbound context sets its source, which ends a fault. -/
theorem State.ctxCfgWrite_own (hok : s.ctxKindOk n (getField v 12 4) = true) (hlo : 4 ≤ getField v 27 4)
    (hhi : getField v 27 4 ≤ 14) (hk : getField v 12 4 = 0 ∨ getField v 12 4 = 3 ∨ getField v 12 4 = 4) :
    let t := ((s.ctxBind n (getField v 12 4) (getField v 6 6)).wr (F.DSPX_CTXn_CFG_RAMP_LOG2 n) (getField v 27 4)).wr
      (F.DSPX_CTXn_CFG_MUTE n) (getField v 1 1)
    s.ctxCfgWrite n v = (t.setCtx n { t.ctx n with srcOn := decide (getField v 12 4 ≠ 0), fault := false,
                                                   faultDue := false }).ctxRetarget n := by
  simp only [State.ctxCfgWrite, hok, Nat.not_lt.mpr hlo, Nat.not_lt.mpr hhi, hk, Bool.not_true, decide_false, decide_true,
    Bool.or_self, Bool.false_eq_true, if_false, if_true]

theorem State.ctxCfgWrite_refused
    (h : s.ctxKindOk n (getField v 12 4) = false ∨ getField v 27 4 < 4 ∨ 14 < getField v 27 4) :
    s.ctxCfgWrite n v = s.dspRefused := by
  refine if_pos ?_
  simp only [Bool.or_eq_true, Bool.not_eq_true', decide_eq_true_eq]
  exact or_assoc.mpr h

/-! ### Generators (R136) -/

theorem State.genFreqWrite_taken {g : Nat} (hlo : 65536 ≤ v.toNat) (hhi : 20 * v.toNat ≤ 9 * s.fa * 65536) :
    s.genFreqWrite g v = s.setReg (A.DSPX_GENg_FREQ g) v := if_pos ⟨hlo, hhi⟩

theorem State.genFreqWrite_refused {g : Nat} (h : v.toNat < 65536 ∨ 9 * s.fa * 65536 < 20 * v.toNat) :
    s.genFreqWrite g v = s.dspRefused := if_neg (by omega)

end

/-- Settles O27: each clause is one branch of its command. -/
theorem contextsAndGenerators : Obligations.ContextsAndGenerators := by
  unfold Obligations.ContextsAndGenerators
  exact ⟨fun n s => rfl, fun p k s => rfl, fun _ _ => execZcTimeout_ctx, fun _ _ _ => execZcTimeout_portTx,
    fun n v s hok hlo hhi hk => congrArg Host.Outcome.next (State.ctxCfgWrite_bound hok hlo hhi hk),
    fun n v s hok hlo hhi hk => congrArg Host.Outcome.next (State.ctxCfgWrite_own hok hlo hhi hk),
    fun n v s h => congrArg Host.Outcome.next (State.ctxCfgWrite_refused h), fun n v s => rfl, fun g v s => rfl,
    fun g v s hlo hhi => congrArg Host.Outcome.next (State.genFreqWrite_taken hlo hhi),
    fun g v s h => congrArg Host.Outcome.next (State.genFreqWrite_refused h)⟩

end Sys2Proof.Machine
end

section
/-!
PROOFS. The biscuits that the host sends (R112 to R114, R116).
-/

namespace Sys2Proof.Machine

open Sys2Proof

/-! ### Bytes (R2) -/

@[simp] theorem leBytes_length (n v : Nat) : (leBytes n v).length = n := by
  induction n generalizing v with
  | zero => rfl
  | succ n ih => rw [leBytes, List.length_cons, ih]

@[simp] theorem slice_length (b : List (BitVec 8)) (off n : Nat) : (slice b off n).length = n := by
  rw [slice, List.length_map, List.length_range]

/-- A slice that lies inside a list is a part of it. -/
theorem slice_eq_take_drop {b : List (BitVec 8)} {off n : Nat} (h : off + n ≤ b.length) :
    slice b off n = (b.drop off).take n := by
  refine List.ext_getElem ?_ fun i hi _ => ?_
  · rw [slice_length, List.length_take, List.length_drop]; omega
  · have hb : off + i < b.length := by rw [slice_length] at hi; omega
    simp only [slice, List.getElem_map, List.getElem_range, List.getElem_take, List.getElem_drop,
      List.getD_eq_getElem?_getD, List.getElem?_eq_getElem hb, Option.getD_some]

/-! ### SEND (R116) -/

/-- The biscuit that the host has staged. -/
def State.staged (s : State) : List (BitVec 8) :=
  (List.range 4).flatMap (fun k => leBytes 4 (s.reg (A.TRING_BTXk k)).toNat)

theorem State.staged_length (s : State) : s.staged.length = 16 := rfl

/-- The staged biscuit `w` as a device at position `pos` sends it, up to its check byte. -/
def filledBiscuit (w : List (BitVec 8)) (pos : Nat) : List (BitVec 8) := slice w 0 4 ++ leBytes 2 pos ++ slice w 6 9

/-- The staged biscuit can go: there is room for it, the host may send its type, and it has a hop to make. -/
def State.CanSend (s : State) : Prop :=
  s.ring.txq.length < 8 ∧ (u8 s.staged 0 = 3 ∨ u8 s.staged 0 = 4 ∨ 128 ≤ u8 s.staged 0) ∧ u16 s.staged 2 ≠ 0

variable {s : State}

theorem State.biscuitSend_queued (h : s.CanSend) :
    s.biscuitSend = s.ringQueue false (filledBiscuit s.staged s.ringPos ++ [crc8 0 (filledBiscuit s.staged s.ringPos)]) := if_pos h

theorem State.biscuitSend_refused (h : ¬ s.CanSend) : s.biscuitSend = s.ev A.TRING_EVENT 18 := if_neg h

/-- A biscuit of the host joins the end of a queue that has room. -/
theorem State.ringQueue_host (h : s.ring.txq.length < 8) (b : List (BitVec 8)) :
    s.ringQueue false b =
      { s with ring := { s.ring with txq := s.ring.txq ++ [(false, b)], seq := (s.ring.seq + 1) % 256 } } :=
  if_neg (Nat.not_le.mpr h)

theorem filledBiscuit_length (w : List (BitVec 8)) (pos : Nat) : (filledBiscuit w pos).length = 15 := by
  simp only [filledBiscuit, List.length_append, slice_length, leBytes_length]

/-- The fields of a biscuit that is sent: the staged ones, but for SRC (R112). -/
theorem filledBiscuit_fields {w : List (BitVec 8)} (hw : w.length = 16) (pos : Nat) (c : BitVec 8) :
    (filledBiscuit w pos ++ [c]).take 4 = w.take 4 ∧ ((filledBiscuit w pos ++ [c]).drop 4).take 2 = leBytes 2 pos ∧
      ((filledBiscuit w pos ++ [c]).drop 6).take 9 = (w.drop 6).take 9 := by
  have h4 : slice w 0 4 = w.take 4 := slice_eq_take_drop (by omega)
  have h9 : slice w 6 9 = (w.drop 6).take 9 := slice_eq_take_drop (by omega)
  have e : filledBiscuit w pos ++ [c] = slice w 0 4 ++ (leBytes 2 pos ++ (slice w 6 9 ++ [c])) := by
    simp only [filledBiscuit, List.append_assoc]
  have e6 : (filledBiscuit w pos ++ [c]).drop 6 = slice w 6 9 ++ [c] := by
    rw [e, ← List.append_assoc, List.drop_left' (by rw [List.length_append, slice_length, leBytes_length])]
  refine ⟨?_, ?_, ?_⟩
  · rw [e, List.take_left' (slice_length ..), h4]
  · rw [e, List.drop_left' (slice_length ..), List.take_left' (leBytes_length ..)]
  · rw [e6, List.take_left' (slice_length ..), h9]

/-- Settles O16: SEND queues the staged biscuit with SRC and the check byte filled in, or is refused. -/
theorem sentBiscuitsAreWellFormed : Obligations.SentBiscuitsAreWellFormed := by
  unfold Obligations.SentBiscuitsAreWellFormed
  refine fun s => ⟨fun h => ?sent, fun h => congrArg Host.Outcome.next (State.biscuitSend_refused h)⟩
  case sent =>
    have hl := filledBiscuit_length s.staged s.ringPos
    obtain ⟨hhead, hsrc, htail⟩ := filledBiscuit_fields s.staged_length s.ringPos (crc8 0 (filledBiscuit s.staged s.ringPos))
    refine ⟨_, _, congrArg Host.Outcome.next ((State.biscuitSend_queued h).trans (State.ringQueue_host h.1 _)), rfl, ?_, hhead,
      hsrc, htail, ?_, rfl⟩
    · rw [List.length_append, hl]; rfl
    · rw [List.getElem?_append_right (by omega), hl, List.take_left' hl]; rfl

end Sys2Proof.Machine
end

section
/-!
PROOFS. Biscuits on their way and at their target: reception, insertion, START, SYNC, remote register access and the queues of
the host (R112 to R116, R282, R411). That a device in PASS consumes broadcasts and that START and SYNC may leave in any slot are
the model's choice (log entries 64 and 65).
-/

namespace Sys2Proof.Machine

open Sys2Proof

/-- The ring link of a device runs: the die is out of reset, and the ring is neither off nor halted. -/
structure State.LinkUp (s : State) : Prop where
  up : s.ringUp = true
  notOff : s.ringState ≠ rOff
  notHalted : s.ringState ≠ rHalted

/-- The guard under which a link does nothing, as the commands of the ring write it. -/
theorem State.LinkUp.not_guard {s : State} (h : s.LinkUp) :
    ¬ ((!s.ringUp) = true ∨ s.ringState = rOff ∨ s.ringState = rHalted) := by
  simp only [h.up, h.notOff, h.notHalted, Bool.not_true, Bool.false_eq_true, or_self, not_false_eq_true]

variable {s : State} {slot : Fin 8} {b bytes : List Byte}

/-! ### Reception (R112) -/

/-- What a biscuit `b` that is not empty meets at a link that runs, in the order of the rule. -/
def State.biscuitMet (s : State) (slot : Fin 8) (b : List Byte) : State :=
  let t := s.setBiscuitSlot slot []
  if crc8 0 (b.take 15) ≠ b.getD 15 0 then t.biscuitBad
  else if u16 b 4 = s.ringPos then
    (if u16 b 2 = 0xFFFF then t else (t.bump F.TRING_BCNT_UNDELIVERED).ev A.TRING_EVENT 17)
  else if u16 b 2 = 0xFFFF then (t.setBiscuitSlot slot b).biscuitHandle b
  else if u16 b 2 ≤ 1 then (if s.ringState = rPass then t.biscuitBad else t.biscuitHandle b)
  else
    let f := b.take 2 ++ leBytes 2 (u16 b 2 - 1) ++ slice b 4 11
    t.setBiscuitSlot slot (f ++ [crc8 0 f])

theorem execBiscuitRx_of_met {t : State} (hl : s.LinkUp) (he : (slice bytes 0 16).all (fun x => x == 0) = false)
    (ht : s.biscuitMet slot (slice bytes 0 16) = t) : execBiscuitRx slot bytes s = .next t := by
  rw [← ht]
  refine congrArg Host.Outcome.next (if_neg ?_)
  simp only [hl.up, hl.notOff, hl.notHalted, he, Bool.not_true, Bool.false_eq_true, or_self, not_false_eq_true]

/-- A biscuit with a bad check byte leaves the link. -/
theorem State.biscuitMet_bad (hc : crc8 0 (b.take 15) ≠ b.getD 15 0) :
    s.biscuitMet slot b = (s.setBiscuitSlot slot []).biscuitBad := if_pos hc

section
variable (hc : crc8 0 (b.take 15) = b.getD 15 0)
include hc

/-- A biscuit of the device's own has gone round. -/
theorem State.biscuitMet_own (hs : u16 b 4 = s.ringPos) :
    s.biscuitMet slot b = if u16 b 2 = 0xFFFF then s.setBiscuitSlot slot []
      else ((s.setBiscuitSlot slot []).bump F.TRING_BCNT_UNDELIVERED).ev A.TRING_EVENT 17 :=
  (if_neg (not_not_intro hc)).trans (if_pos hs)

variable (hs : u16 b 4 ≠ s.ringPos)
include hs

/-- A broadcast is consumed, and goes on as it came. -/
theorem State.biscuitMet_broadcast (hh : u16 b 2 = 0xFFFF) :
    s.biscuitMet slot b = ((s.setBiscuitSlot slot []).setBiscuitSlot slot b).biscuitHandle b :=
  (if_neg (not_not_intro hc)).trans ((if_neg hs).trans (if_pos hh))

variable (hh : u16 b 2 ≠ 0xFFFF)
include hh

theorem State.biscuitMet_lastHop (h1 : u16 b 2 ≤ 1) :
    s.biscuitMet slot b = if s.ringState = rPass then (s.setBiscuitSlot slot []).biscuitBad
      else (s.setBiscuitSlot slot []).biscuitHandle b :=
  (if_neg (not_not_intro hc)).trans ((if_neg hs).trans ((if_neg hh).trans (if_pos h1)))

/-- A biscuit with hops left goes on with one hop less. -/
theorem State.biscuitMet_hopsLeft (h2 : 2 ≤ u16 b 2) :
    let f := b.take 2 ++ leBytes 2 (u16 b 2 - 1) ++ slice b 4 11
    s.biscuitMet slot b = (s.setBiscuitSlot slot []).setBiscuitSlot slot (f ++ [crc8 0 f]) :=
  (if_neg (not_not_intro hc)).trans ((if_neg hs).trans ((if_neg hh).trans (if_neg (by omega))))

end

/-- A biscuit for this device takes effect while the bus runs. -/
theorem State.biscuitHandle_running (h : s.busUp = true) : s.biscuitHandle b = s.biscuitConsume b := if_pos h

/-! ### Insertion (R113) -/

theorem execBiscuitInsert_first {rest : List (Bool × List Byte)} (hl : s.LinkUp) (hi : s.ring.inserted < 2)
    (he : Tbl.get [] s.ring.slots slot.val = [])
    (hq : takeBiscuit (fun x => decide (slot.val ≠ 0) || decide (u8 x.2 0 = 1 ∨ u8 x.2 0 = 2)) s.ring.txq = some (b, rest)) :
    let t := (s.setBiscuitSlot slot b).ev A.TRING_EVENT 16
    execBiscuitInsert slot s =
      .next { t with ring := { t.ring with txq := rest, inserted := s.ring.inserted + 1 } } := by
  have hg : ¬ ((!s.ringUp) = true ∨ s.ringState = rOff ∨ s.ringState = rHalted ∨ 2 ≤ s.ring.inserted ∨
      Tbl.get [] s.ring.slots slot.val ≠ []) := by
    simp only [hl.up, hl.notOff, hl.notHalted, Nat.not_le.mpr hi, he, ne_eq, not_true_eq_false, Bool.not_true,
      Bool.false_eq_true, or_self, not_false_eq_true]
  simp only [execBiscuitInsert, if_neg hg, hq]

/-! ### START and SYNC (R82, R114, R282) -/

/-- A START in time starts the armed ports of a device that the ring triggers. -/
theorem State.startBiscuit_inTime {f : Nat} (h : beyond (s.rd F.PORT_TBFRAME_COUNT) (f + 2 ^ 32 - 2) = false)
    (hsrc : s.rd F.PORT_GSTART_SRC = 2) : s.startBiscuit f = (s.portTrigger f).ev A.TRING_EVENT 21 :=
  (if_neg (ne_true_of_eq_false h)).trans (if_pos hsrc)

theorem State.startBiscuit_late {f : Nat} (h : beyond (s.rd F.PORT_TBFRAME_COUNT) (f + 2 ^ 32 - 2) = true) :
    s.startBiscuit f = s.biscuitLate := if_pos h

theorem State.syncBiscuit_inTime {j : Nat} (h : beyond s.ownerIndex (j + 2 ^ 32 - 9) = false) :
    s.syncBiscuit j = (s.decimRequest j).ev A.TRING_EVENT 22 := if_neg (ne_true_of_eq_false h)

theorem State.syncBiscuit_late {j : Nat} (h : beyond s.ownerIndex (j + 2 ^ 32 - 9) = true) :
    s.syncBiscuit j = s.biscuitLate := if_pos h

/-! ### Remote register access (R115) -/

section
variable {src : BitVec 16} {addr v : Word}

theorem execRegWr_running (hb : s.busUp = true) : execRegWr src addr v s = .next (s.regWr src.toNat addr.toNat v) :=
  congrArg Host.Outcome.next (if_pos hb)

theorem execRegRd_running (hb : s.busUp = true) : execRegRd src addr s = .next (s.regRd src.toNat addr.toNat) :=
  congrArg Host.Outcome.next (if_pos hb)

end

section
variable {src addr : Nat} {v : Word}

theorem State.regWr_refused (h : s.ringAccessRefused true addr = true) : s.regWr src addr v = s.regRsp src addr v 1 :=
  if_pos h

theorem State.regWr_taken (h : s.ringAccessRefused true addr = false) :
    s.regWr src addr v = (s.busWrite .ring addr v).2.regRsp src addr v (if (s.busWrite .ring addr v).1 = .ok then 0 else 2) :=
  if_neg (ne_true_of_eq_false h)

theorem State.regRd_refused (h : s.ringAccessRefused false addr = true) : s.regRd src addr = s.regRsp src addr 0 1 :=
  if_pos h

theorem State.regRd_taken (h : s.ringAccessRefused false addr = false) :
    s.regRd src addr = (s.busRead .ring addr).2.2.regRsp src addr (s.busRead .ring addr).2.1
      (if (s.busRead .ring addr).1 = .ok then 0 else 2) := if_neg (ne_true_of_eq_false h)

end

/-! ### The receive queue (R116) -/

theorem State.biscuitTake_room (h : s.ring.rxq.length < 16) :
    s.biscuitTake bytes = { s.ev A.TRING_EVENT 12 with ring := { s.ring with rxq := s.ring.rxq ++ [slice bytes 0 16] } } :=
  if_neg (Nat.not_le.mpr h)

theorem State.biscuitTake_full (h : 16 ≤ s.ring.rxq.length) :
    s.biscuitTake bytes = (s.bump F.TRING_BCNT_DROPPED).ev A.TRING_EVENT 13 := if_pos h

/-- Settles O26: each clause is one branch of its command. -/
theorem biscuits : Obligations.Biscuits := by
  unfold Obligations.Biscuits
  refine ⟨fun slot bytes s hoff hhalt hup he hc => execBiscuitRx_of_met ⟨hup, hoff, hhalt⟩ he (State.biscuitMet_bad hc),
    fun slot bytes s hoff hhalt hup hb hc hs hh he => execBiscuitRx_of_met ⟨hup, hoff, hhalt⟩ he ?broadcast,
    fun slot bytes s hoff hhalt hup hc he hs => execBiscuitRx_of_met ⟨hup, hoff, hhalt⟩ he (State.biscuitMet_own hc hs),
    fun slot bytes s hoff hhalt hup hc he hs hh h1 =>
      execBiscuitRx_of_met ⟨hup, hoff, hhalt⟩ he (State.biscuitMet_lastHop hc hs hh h1),
    fun slot bytes s hoff hhalt hup hc he hs hh h2 =>
      execBiscuitRx_of_met ⟨hup, hoff, hhalt⟩ he (State.biscuitMet_hopsLeft hc hs hh h2),
    fun slot b rest s hup hoff hhalt hi he hq => execBiscuitInsert_first ⟨hup, hoff, hhalt⟩ hi he hq,
    fun f s h hsrc => congrArg Host.Outcome.next (State.startBiscuit_inTime h hsrc),
    fun f s h => congrArg Host.Outcome.next (State.startBiscuit_late h),
    fun j s h => congrArg Host.Outcome.next (State.syncBiscuit_inTime h),
    fun j s h => congrArg Host.Outcome.next (State.syncBiscuit_late h),
    fun src addr v s hb h => ?wrRefused, fun src addr v s hb h => ?wrTaken, fun src addr s hb h => ?rdRefused,
    fun src addr s hb h => ?rdTaken, fun bytes s h => congrArg Host.Outcome.next (State.biscuitTake_room h),
    fun bytes s h => congrArg Host.Outcome.next (State.biscuitTake_room h),
    fun bytes s h => congrArg Host.Outcome.next (State.biscuitTake_full h), fun bytes s => rfl,
    fun b s hw hq ht hh => ?send, fun s => rfl, fun src payload s => rfl⟩
  case broadcast => rw [State.biscuitMet_broadcast hc hs hh, State.biscuitHandle_running (by exact hb)]
  case wrRefused => exact (execRegWr_running hb).trans (congrArg Host.Outcome.next (State.regWr_refused h))
  case wrTaken => exact (execRegWr_running hb).trans (congrArg Host.Outcome.next (State.regWr_taken h))
  case rdRefused => exact (execRegRd_running hb).trans (congrArg Host.Outcome.next (State.regRd_refused h))
  case rdTaken => exact (execRegRd_running hb).trans (congrArg Host.Outcome.next (State.regRd_taken h))
  case send =>
    subst hw
    exact congrArg Host.Outcome.next (State.biscuitSend_queued ⟨hq, ht, hh⟩)

end Sys2Proof.Machine
end

section
/-!
PROOFS. Ring frames that a device did not emit: election frames, frames at a master, a candidate and a member (R100 to R109, R117,
R118, R121).
-/

namespace Sys2Proof.Machine

open Sys2Proof

variable {s : State} {f : RingFrame} {codeErrs delay : Nat}

/-! ### Code violations (R117) -/

@[simp] theorem State.ringCodeErrs_ring (s : State) (n : Nat) : (s.ringCodeErrs n).ring = s.ring := by
  unfold State.ringCodeErrs; split <;> rfl

@[simp] theorem State.ringCodeErrs_otp (s : State) (n : Nat) : (s.ringCodeErrs n).otp = s.otp := by
  unfold State.ringCodeErrs; split <;> rfl

/-- Counting code violations changes the counter and the event register alone. -/
theorem State.rd_ringCodeErrs_ne (s : State) {g : Fld} (n : Nat) (hc : g.addr ≠ A.TRING_ERRCNT) (he : g.addr ≠ A.TRING_EVENT) :
    (s.ringCodeErrs n).rd g = s.rd g := by
  unfold State.ringCodeErrs
  split
  · rfl
  · rw [State.ev, State.rd_wr_ne _ (by exact he), State.rd_wr_ne _ (by exact hc)]

@[simp] theorem State.ringCodeErrs_role (s : State) (n : Nat) :
    (s.ringCodeErrs n).rd F.TRING_CFG_ROLE = s.rd F.TRING_CFG_ROLE := s.rd_ringCodeErrs_ne n (by decide) (by decide)

@[simp] theorem State.ringCodeErrs_master (s : State) (n : Nat) : (s.ringCodeErrs n).ringMaster = s.ringMaster := by
  rw [State.ringMaster, State.on, s.rd_ringCodeErrs_ne n (by decide) (by decide)]; rfl

/-! ### Who takes a frame -/

theorem execRingFrameRx_of_electionFrame {t : State} (hl : s.LinkUp) (ho : ringHdrOk f.header = true)
    (he : ringHdrElect f.header = true) (ht : (s.ringCodeErrs codeErrs).electionFrame f = t) :
    execRingFrameRx f codeErrs delay s = .next t :=
  congrArg Host.Outcome.next ((if_neg hl.not_guard).trans ((if_pos (by rw [ho, he]; rfl)).trans ht))

/-- A device whose link does not run takes no frame. -/
theorem execRingFrameRx_down (h : s.ringUp = false ∨ s.ringState = rOff ∨ s.ringState = rHalted) :
    execRingFrameRx f codeErrs delay s = .next s :=
  congrArg Host.Outcome.next (if_pos (h.imp_left fun hu => by rw [hu]; rfl))

section
variable (hl : s.LinkUp) (he : (ringHdrOk f.header && ringHdrElect f.header) = false)
include hl he

/-- A master passes on nothing: it looks for a break, and for frames of another master. -/
theorem execRingFrameRx_master (hm : s.ringMaster = true) :
    execRingFrameRx f codeErrs delay s = .next (if ringHdrOk f.header = false then (s.ringCodeErrs codeErrs).ringCrcErr
      else if f.header.ctrl.getLsbD 3 = true then (s.ringCodeErrs codeErrs).breakSeen f.header
      else if s.ring.emitted.contains f.header.j.toNat = true then s.ringCodeErrs codeErrs
      else (s.ringCodeErrs codeErrs).ringConflict) := by
  refine congrArg Host.Outcome.next ((if_neg hl.not_guard).trans ((if_neg (ne_true_of_eq_false he)).trans ((if_pos hm).trans ?_)))
  cases ringHdrOk f.header <;> rfl

variable (hm : s.ringMaster = false)
include hm

/-- A candidate withdraws before a master's frame (R107). -/
theorem execRingFrameRx_candidate (hc : s.ring.candidate = true) (ho : ringHdrOk f.header = true)
    (hb : f.header.ctrl.getLsbD 3 = false) :
    execRingFrameRx f codeErrs delay s = .next (s.ringCodeErrs codeErrs).withdraw := by
  refine congrArg Host.Outcome.next ((if_neg hl.not_guard).trans ((if_neg (ne_true_of_eq_false he)).trans ((if_neg (ne_true_of_eq_false hm)).trans
    ((if_pos hc).trans ?_))))
  simp only [ho, hb, Bool.not_true, Bool.false_eq_true, if_false]

theorem execRingFrameRx_of_memberFrame {t : State} (hc : s.ring.candidate = false)
    (ht : (s.ringCodeErrs codeErrs).memberFrame f codeErrs delay = t) : execRingFrameRx f codeErrs delay s = .next t :=
  congrArg Host.Outcome.next ((if_neg hl.not_guard).trans ((if_neg (ne_true_of_eq_false he)).trans
    ((if_neg (ne_true_of_eq_false hm)).trans ((if_neg (ne_true_of_eq_false hc)).trans ht))))

end

/-! ### Election frames (R107) -/

theorem State.electionFrame_discarded (h : s.rd F.TRING_CFG_ROLE = 1 ∨ s.ringMaster = true) : s.electionFrame f = s := if_pos h

section
variable (hr : s.rd F.TRING_CFG_ROLE ≠ 1) (hm : s.ringMaster = false)
include hr hm

theorem State.electionFrame_forwarded (hc : s.ring.candidate = false) : s.electionFrame f = s.frameOut f :=
  (if_neg (not_or.mpr ⟨hr, ne_true_of_eq_false hm⟩)).trans (if_neg (ne_true_of_eq_false hc))

/-- A candidate compares the UID of the frame with its own. -/
theorem State.electionFrame_candidate (hc : s.ring.candidate = true) :
    let theirs := ofLe (leBytes 4 f.header.j.toNat ++ leBytes 2 f.header.pos.toNat ++ leBytes 2 f.header.acc.toNat)
    let ours := s.otp.uidLo.toNat + 2 ^ 32 * s.otp.uidHi.toNat
    s.electionFrame f = if theirs < ours then s.withdraw
      else if theirs = ours then { s with ring := { s.ring with returns := s.ring.returns + 1 } }
      else { s with ring := { s.ring with returns := 0 } } :=
  (if_neg (not_or.mpr ⟨hr, ne_true_of_eq_false hm⟩)).trans (if_pos hc)

end

/-! ### Frames at a member (R101, R104, R117) -/

/-- A member takes a usable header, and the areas of a frame that tells no break. -/
theorem State.memberFrame_usable (ho : ringHdrOk f.header = true) :
    let u := s.takeHeader f.header
    let clean := codeErrs = 0 ∧ areaOk f.first f.firstCrc = true ∧ areaOk f.second f.secondCrc = true
    let t := { u with ring := { u.ring with cleanRun := if clean then u.ring.cleanRun + 1 else 0 } }
    s.memberFrame f codeErrs delay =
      (if f.header.ctrl.getLsbD 3 then t
        else t.takeAreas f (t.ring.run && !t.ring.breakHead) (t.on F.TRING_STAT_SECOND_VALID)).forwardFrame f delay := by
  simp only [State.memberFrame, ho, Bool.true_and, if_true, Bool.and_eq_true, decide_eq_true_eq, and_assoc]

/-- At a bad header a member's timebase goes on by one sample. -/
theorem State.memberFrame_unusable (ho : ringHdrOk f.header = false) :
    let u := s.ringCrcErr.ringTick ((s.ring.j + 1) % 2 ^ 32)
    let t := { u with ring := { u.ring with cleanRun := 0 } }
    s.memberFrame f codeErrs delay =
      (t.takeAreas f (t.ring.run && !t.ring.breakHead) (t.on F.TRING_STAT_SECOND_VALID)).forwardFrame f delay := by
  simp only [State.memberFrame, ho, Bool.false_and, Bool.false_eq_true, if_false]

/-- Settles O23: who takes a frame is one branch of the command; what it does with it is one of the operation. -/
theorem ringReception : Obligations.RingReception := by
  unfold Obligations.RingReception
  refine ⟨fun f n d s hu hoff hhalt ho he hr => ?discarded, fun f n d s hu hoff hhalt ho he hr hm hc => ?forwarded,
    fun f n d s hu hoff hhalt ho he hr hm hc => ?candidate, fun f n d s hu hoff hhalt ho he hm hc => ?usable,
    fun f n d s hu hoff hhalt ho hm hc => ?unusable, fun f n d s hu hoff hhalt ho he hb hm hc => ?withdraws,
    fun f n d s hu hoff hhalt he hm => execRingFrameRx_master ⟨hu, hoff, hhalt⟩ he hm,
    fun f n d s h => execRingFrameRx_down h⟩
  case discarded =>
    refine execRingFrameRx_of_electionFrame ⟨hu, hoff, hhalt⟩ ho he ?_
    exact State.electionFrame_discarded (by rwa [State.ringCodeErrs_role, State.ringCodeErrs_master])
  case forwarded =>
    exact execRingFrameRx_of_electionFrame ⟨hu, hoff, hhalt⟩ ho he (State.electionFrame_forwarded
      (by rwa [State.ringCodeErrs_role]) (by rwa [State.ringCodeErrs_master]) (by rwa [State.ringCodeErrs_ring]))
  case candidate =>
    refine execRingFrameRx_of_electionFrame ⟨hu, hoff, hhalt⟩ ho he ?_
    simp only [State.electionFrame_candidate (s := s.ringCodeErrs n) (by rwa [State.ringCodeErrs_role])
      (by rwa [State.ringCodeErrs_master]) (by rwa [State.ringCodeErrs_ring]), State.ringCodeErrs_otp, State.ringCodeErrs_ring]
  case usable =>
    exact execRingFrameRx_of_memberFrame ⟨hu, hoff, hhalt⟩ (by rw [he, Bool.and_false]) hm hc (State.memberFrame_usable ho)
  case unusable =>
    refine execRingFrameRx_of_memberFrame ⟨hu, hoff, hhalt⟩ (by rw [ho, Bool.false_and]) hm hc ?_
    rw [State.memberFrame_unusable ho, State.ringCodeErrs_ring]
  case withdraws => exact execRingFrameRx_candidate ⟨hu, hoff, hhalt⟩ (by rw [he, Bool.and_false]) hm hc ho hb

end Sys2Proof.Machine
end

section
/-!
PROOFS. Frames that return to their master, breaks and their end (R101, R104, R105, R108 to R110, R117 to R119). That a break head
stands in DEGRADED and that a master loses slots on its own break are the model's choice (log entry 63).
-/

namespace Sys2Proof.Machine

open Sys2Proof

variable {s : State} {f : RingFrame} {h : RingHeader} {codeErrs rtt : Nat}

/-! ### What a master reads from its own frame (R101, R105, R110) -/

/-- Apart from the ring length and the event of a delay too long, a header that returned writes the round trip and LOCK. -/
theorem State.rd_masterHeader (s : State) (h : RingHeader) (rtt : Nat) {g : Fld} (ht : g.addr ≠ A.TRING_TOPO)
    (he : g.addr ≠ A.TRING_EVENT) :
    (s.masterHeader h rtt).rd g = ((s.wr F.TRING_DELAY_RTT (min 65535 rtt)).wr F.TRING_STAT_LOCK 1).rd g := by
  have hlen (t : State) : (if t.ring.fixed then t else t.wr F.TRING_TOPO_RLEN (h.pos.toNat + 1)).rd g = t.rd g := by
    split
    · rfl
    · exact t.rd_wr_ne (by exact ht) _
  have hfit (t : State) (c : Bool) : (if c = true then t else t.ev A.TRING_EVENT 24).rd g = t.rd g := by
    split
    · rfl
    · exact t.rd_wr_ne (by exact he) _
  exact (hfit _ _).trans (hlen _)

theorem State.masterHeader_lock (s : State) (h : RingHeader) (rtt : Nat) :
    (s.masterHeader h rtt).rd F.TRING_STAT_LOCK = 1 := by
  rw [s.rd_masterHeader h rtt (by decide) (by decide), State.rd_wr_self _ _ _ (by decide)]; rfl

/-- The round trip is read as measured, up to its largest value (R7). -/
theorem State.masterHeader_rtt (s : State) (h : RingHeader) (rtt : Nat) :
    (s.masterHeader h rtt).rd F.TRING_DELAY_RTT = min 65535 rtt := by
  rw [s.rd_masterHeader h rtt (by decide) (by decide), State.rd_wr_ne _ (by decide), State.rd_wr_self _ _ _ (by decide)]
  exact Nat.mod_eq_of_lt (show min 65535 rtt < 65536 by omega)

/-- RUN holds only where the round trip fits (R105). -/
theorem State.masterHeader_run (hr : (s.masterHeader h rtt).ring.run = true) :
    ringFits rtt (s.rd F.TRING_CFG_ALIGN) s.faCode = true := by
  simp only [State.masterHeader, Bool.and_eq_true] at hr
  obtain ⟨⟨hfits, -⟩, -⟩ := hr
  exact hfits

theorem State.masterHeader_cleanRun (s : State) (h : RingHeader) (rtt : Nat) :
    (s.masterHeader h rtt).ring.cleanRun = s.ring.cleanRun + 1 := by
  simp only [State.masterHeader]
  split <;> split <;> rfl

/-! ### Frames that return (R104, R108, R118) -/

section
variable (hl : s.LinkUp) (hm : s.ringMaster = true)
include hl hm

theorem execRingFrameReturn_master :
    execRingFrameReturn f codeErrs rtt s = .next (if ringHdrOk f.header = false then (s.ringCodeErrs codeErrs).ringCrcErr
      else if f.header.ctrl.getLsbD 3 = true then (s.ringCodeErrs codeErrs).breakSeen f.header
      else if s.ring.emitted.contains f.header.j.toNat = false then (s.ringCodeErrs codeErrs).ringConflict
      else (((s.ringCodeErrs codeErrs).masterHeader f.header rtt).masterState).masterArea f rtt) := by
  refine congrArg Host.Outcome.next (if_neg ?_)
  simp only [hl.up, hm, hl.notOff, hl.notHalted, Bool.not_true, Bool.false_eq_true, Bool.true_eq_false, or_self,
    not_false_eq_true]

/-- A normal frame of the master's own. -/
theorem execRingFrameReturn_own (ho : ringHdrOk f.header = true) (hb : f.header.ctrl.getLsbD 3 = false)
    (hj : s.ring.emitted.contains f.header.j.toNat = true) :
    execRingFrameReturn f codeErrs rtt s =
      .next ((((s.ringCodeErrs codeErrs).masterHeader f.header rtt).masterState).masterArea f rtt) := by
  rw [execRingFrameReturn_master hl hm, if_neg (by rw [ho]; decide), if_neg (by rw [hb]; decide), if_neg (by rw [hj]; decide)]

end

/-! ### Breaks (R117, R118) -/

theorem execRingBreak_master (noSignal : Bool) (hl : s.LinkUp) (hm : s.ringMaster = true) :
    let t := ((s.breakDeclared codeErrs).wr F.TRING_TOPO_BREAK_POS 0).ringGoto rDegraded
    execRingBreak noSignal codeErrs s = .next { t with ring := { t.ring with relay := [] } }.slotsLost :=
  congrArg Host.Outcome.next ((if_neg hl.not_guard).trans (if_pos hm))

theorem execRingBreak_other (noSignal : Bool) (hl : s.LinkUp) (hm : s.ringMaster = false) :
    execRingBreak noSignal codeErrs s = .next (if s.ringState = rElect then s.breakDeclared codeErrs
      else (s.breakDeclared codeErrs).becomeHead) :=
  congrArg Host.Outcome.next ((if_neg hl.not_guard).trans (if_neg (ne_true_of_eq_false hm)))

/-! ### The end of a break (R119) -/

/-- Before RESUME_FRAMES frames a break goes on. -/
theorem execRingBreakResume_early (h : s.ring.cleanRun < s.ringResume) : execRingBreakResume s = .next s :=
  congrArg Host.Outcome.next (if_pos (.inr h))

section
variable (hu : s.ringUp = true) (hc : s.ringResume ≤ s.ring.cleanRun)
include hu hc

theorem State.resume_not_guard : ¬ ((!s.ringUp) = true ∨ s.ring.cleanRun < s.ringResume) := by
  simp only [hu, Nat.not_lt.mpr hc, Bool.not_true, Bool.false_eq_true, or_self, not_false_eq_true]

theorem execRingBreakResume_master (hm : s.ringMaster = true) (hd : s.ringState = rDegraded) :
    execRingBreakResume s = .next s.masterRestored :=
  congrArg Host.Outcome.next ((if_neg (State.resume_not_guard hu hc)).trans ((if_pos hm).trans (if_pos hd)))

theorem execRingBreakResume_head (hm : s.ringMaster = false) (hb : s.ring.breakHead = true) :
    execRingBreakResume s = .next s.headResumes :=
  congrArg Host.Outcome.next ((if_neg (State.resume_not_guard hu hc)).trans ((if_neg (ne_true_of_eq_false hm)).trans (if_pos hb)))

end

/-- A break head in DEGRADED locks again. -/
theorem State.headResumes_degraded (hd : s.ringState = rDegraded) :
    s.headResumes = (({ s with ring := { s.ring with breakHead := false } } : State).wr F.TRING_TOPO_BREAK_POS
      0xFFFF).ringGoto rLocking :=
  if_pos ((State.rd_wr_ne _ (by decide) _).trans hd)

/-- Settles O24: each clause is one branch of its command; what a returned header writes are the facts about `masterHeader`. -/
theorem ringReturnsAndBreaks : Obligations.RingReturnsAndBreaks := by
  unfold Obligations.RingReturnsAndBreaks
  refine ⟨fun f n rtt s hu hm hoff hhalt ho hj hb => ?own,
    fun f n rtt s hu hm hoff hhalt => execRingFrameReturn_master ⟨hu, hoff, hhalt⟩ hm,
    fun ns n s hu hm hoff hhalt => execRingBreak_master ns ⟨hu, hoff, hhalt⟩ hm,
    fun ns n s hu hm hoff hhalt => execRingBreak_other ns ⟨hu, hoff, hhalt⟩ hm,
    fun s hu hc hm hd => execRingBreakResume_master hu hc hm hd, fun s hu hc hm hb hd => ?head,
    fun s h => execRingBreakResume_early h⟩
  case own =>
    exact ⟨execRingFrameReturn_own ⟨hu, hoff, hhalt⟩ hm ho hb hj, State.masterHeader_lock .., State.masterHeader_rtt ..,
      State.masterHeader_run, (State.masterHeader_cleanRun ..).trans (by rw [State.ringCodeErrs_ring])⟩
  case head => exact (execRingBreakResume_head hu hc hm hb).trans (congrArg Host.Outcome.next (State.headResumes_degraded hd))

end Sys2Proof.Machine
end

section
/-!
PROOFS. Ring election, START and STOP, configuration and maps (R101, R106, R107, R111, R120).
-/

namespace Sys2Proof.Machine

open Sys2Proof

variable {s : State}

/-! ### Election (R107) -/

/-- An auto device without a master becomes a candidate. -/
theorem execElectCandidate_auto (hu : s.ringUp = true) (hr : s.rd F.TRING_CFG_ROLE = 3) (hm : s.ringMaster = false)
    (hs : s.ringState = rElect ∨ s.ringState = rLocking ∨ s.ringState = rRunning ∨ s.ringState = rDegraded) :
    let t := s.ringGoto rElect
    execElectCandidate s =
      .next { t with ring := { t.ring with candidate := true, returns := 0, breakHead := false } } :=
  if_pos ⟨hu, hr, hm, hs⟩

/-- A candidate whose frames have returned often enough is the master. -/
theorem execElected_won (hc : s.ring.candidate = true) (hn : 64 ≤ s.ring.returns) :
    let t := (((s.wr F.TRING_STAT_MASTER 1).wr F.TRING_STAT_POSITION 0).ringGoto rLocking).ev A.TRING_EVENT 28
    execElected s = .next { t with ring := { t.ring with candidate := false, returns := 0 } } :=
  if_pos ⟨hc, hn⟩

theorem execElectTimeout_unmastered (hm : s.ringMaster = false) :
    execElectTimeout s = .next { s.ev A.TRING_EVENT 27 with ring := { s.ring with returns := 0 } } :=
  if_neg (ne_true_of_eq_false hm)

/-! ### START and STOP (R101, R120) -/

/-- The role that a starting device takes up: a configured master stands at position 0, no other device is one. -/
theorem State.ringStart_role (s : State) (role : Nat) :
    let t := s.wrB F.TRING_STAT_MASTER (decide (role = 1))
    (if role = 1 then t.wr F.TRING_STAT_POSITION 0 else t) =
      if role = 1 then (s.wr F.TRING_STAT_MASTER 1).wr F.TRING_STAT_POSITION 0 else s.wr F.TRING_STAT_MASTER 0 := by
  by_cases h : role = 1
  · subst h; simp only [State.wrB, decide_true, if_true]
  · simp only [State.wrB, h, decide_false, Bool.false_eq_true, if_false]

/-- START of a device with a role, in a state that START leaves. -/
theorem State.ringStart_started (hs : s.ringState = rOff ∨ s.ringState = rPass ∨ s.ringState = rHalted)
    (hr : s.rd F.TRING_CFG_ROLE ≠ 0) :
    let t := if s.rd F.TRING_CFG_ROLE = 1 then (s.wr F.TRING_STAT_MASTER 1).wr F.TRING_STAT_POSITION 0
      else s.wr F.TRING_STAT_MASTER 0
    s.ringStart =
      ({ t with ring := { t.ring with emitted := [], relay := [], candidate := false, breakHead := false,
                                      run := false } } : State).ringGoto
        (if s.rd F.TRING_CFG_ROLE = 3 then rElect else rLocking) := by
  refine (if_pos ⟨hs, hr⟩).trans ?_
  rw [State.ringStart_role]

/-- Only START leaves HALTED. -/
theorem State.ringStop_still (h : s.ringState = rOff ∨ s.ringState = rHalted) : s.ringStop = s := if_pos h.symm

section
variable (hoff : s.ringState ≠ rOff) (hhalt : s.ringState ≠ rHalted)
include hoff hhalt

theorem State.ringStop_not_still : ¬ (s.ringState = rHalted ∨ s.ringState = rOff) := not_or.mpr ⟨hhalt, hoff⟩

theorem State.ringStop_master (hm : s.ringMaster = true) :
    s.ringStop = ((s.wr F.TRING_STAT_MASTER 0).ringGoto rOff).ringDrop :=
  (if_neg (State.ringStop_not_still hoff hhalt)).trans (if_pos hm)

theorem State.ringStop_member (hm : s.ringMaster = false) : s.ringStop = (s.ringGoto rPass).ringDrop :=
  (if_neg (State.ringStop_not_still hoff hhalt)).trans (if_neg (ne_true_of_eq_false hm))

end

/-! ### Configuration and maps (R111, R120) -/

theorem State.tringCfgWrite_taken {v : Word} (hs : s.ringState = rOff ∨ s.ringState = rPass ∨ s.ringState = rHalted)
    (h1 : 1 ≤ getField v 8 6) (h32 : getField v 8 6 ≤ 32) : s.tringCfgWrite v = s.setReg A.TRING_CFG (v &&& 0x00073F03) :=
  if_pos ⟨hs, h1, h32⟩

/-- The configuration stands fast while the ring takes part. -/
theorem State.tringCfgWrite_refused {v : Word}
    (hs : s.ringState = rElect ∨ s.ringState = rLocking ∨ s.ringState = rRunning ∨ s.ringState = rDegraded) :
    s.tringCfgWrite v = s.ringRefused := by
  refine if_neg fun h => ?_
  obtain ⟨hstill, -⟩ := h
  rcases hs with hs | hs | hs | hs <;> rw [hs] at hstill <;> exact absurd hstill (by decide)

/-- Outside RUNNING and DEGRADED a map word waits for the frame boundary where it names no slot of another device and binds no
context twice. -/
theorem State.tringMapWrite_waits {tx : Bool} {k : Nat} {v : Word} (hrun : s.ringState ≠ rRunning)
    (hdeg : s.ringState ≠ rDegraded)
    (hown : (tx && (List.range 4).any (fun j => decide (128 ≤ mapEntry v j) && !s.ownsSlot (4 * k + j))) = false)
    (hdup : (!tx && s.rxDuplicate (if tx then A.TRING_TXMAPk k else A.TRING_RXMAPk k) v) = false) :
    let a := if tx then A.TRING_TXMAPk k else A.TRING_RXMAPk k
    s.tringMapWrite tx k v =
      { s with ring := { s.ring with mapDue := s.ring.mapDue.filter (fun p => p.1 != a) ++ [(a, v)] } } := by
  refine if_neg ?_
  rintro (⟨hbusy, -⟩ | hu | hd)
  · exact hbusy.elim hrun hdeg
  · exact ne_true_of_eq_false hown hu
  · exact ne_true_of_eq_false hdup hd

/-- Settles O25: each clause is one branch of its command. -/
theorem ringElectionAndControl : Obligations.RingElectionAndControl := by
  unfold Obligations.RingElectionAndControl
  exact ⟨fun s => execElectCandidate_auto, fun s => execElected_won, fun s => execElectTimeout_unmastered,
    fun s hs hr => congrArg Host.Outcome.next (State.ringStart_started hs hr),
    fun s hm hoff hhalt => congrArg Host.Outcome.next (State.ringStop_master hoff hhalt hm),
    fun s hm hoff hhalt => congrArg Host.Outcome.next (State.ringStop_member hoff hhalt hm),
    fun s h => congrArg Host.Outcome.next (State.ringStop_still h),
    fun v s hs h1 h32 => congrArg Host.Outcome.next (State.tringCfgWrite_taken hs h1 h32),
    fun v s hs => congrArg Host.Outcome.next (State.tringCfgWrite_refused hs),
    fun tx k v s hrun hdeg hown hdup => congrArg Host.Outcome.next (State.tringMapWrite_waits hrun hdeg hown hdup)⟩

end Sys2Proof.Machine
end

section
/-!
PROOFS. Sound player commands, the end and the underruns of voices, and the AVAS fallback (R137 to R139, R142, R143).
-/

namespace Sys2Proof.Machine

open Sys2Proof

variable {s : State}

section
variable {v : Nat}

/-! ### Commands (R139) -/

/-- A voice of the host starts at sample 0 and at rate 1.0 (R137). -/
theorem State.play_taken {id : Nat} (hv : s.voiceHost v = true) (hid : (s.sound id).isSome = true) :
    s.play v id = s.setVoice v { Voice.idle with busy := true, sound := id } :=
  if_pos ((Bool.and_eq_true ..).mpr ⟨hv, hid⟩)

/-- A voice that is not the host's, or a sound that the library does not hold. -/
theorem State.play_refused {id : Nat} (h : s.voiceHost v = false ∨ (s.sound id).isSome = false) :
    s.play v id = s.playRefused :=
  if_neg (ne_true_of_eq_false ((Bool.and_eq_false_iff ..).mpr h))

theorem State.stopAtEnd_busy (hv : s.voiceHost v = true) (hb : (s.voice v).busy = true) :
    s.stopAtEnd v = s.setVoice v { s.voice v with atEnd := true } :=
  (if_pos hv).trans (if_pos hb)

/-- The fade starts once: a voice that fades goes on with the fade it has. -/
theorem State.stopNow_busy (hv : s.voiceHost v = true) (hb : (s.voice v).busy = true) (hf : (s.voice v).fade = none) :
    s.stopNow v = s.setVoice v { s.voice v with fade := some 64 } := by
  have hstart : ((s.voice v).busy && (s.voice v).fade.isNone) = true := by rw [hb, hf]; rfl
  exact (if_pos hv).trans (if_pos hstart)

theorem State.stopNow_refused (hv : s.voiceHost v = false) : s.stopNow v = s.playRefused :=
  if_neg (ne_true_of_eq_false hv)

end

/-! ### The end and the underruns of a voice (R134, R138, R139) -/

section
variable {voice : Fin 32} (hu : s.busUp = true)
include hu

theorem execPlayDone_ended (he : s.voiceEnded voice = true) (hv : voice.val < 20) :
    execPlayDone voice s = .next (((s.setVoice voice Voice.idle).voiceStale voice).ev A.DSPX_EVENT 28) := by
  have hends : (s.busUp && s.voiceEnded voice && decide (voice.val < 20)) = true := by
    rw [hu, he, decide_eq_true hv]; rfl
  exact congrArg Host.Outcome.next (if_pos hends)

theorem execPlayUnderrun_busy (late : Nat) (hb : (s.voice voice).busy = true) :
    execPlayUnderrun voice late s =
      .next ((((s.setVoice voice { s.voice voice with late := (s.voice voice).late + late }).voiceStale voice).bump
        F.DSPX_PLAYERR_UNDERRUN).ev A.DSPX_EVENT 29) :=
  congrArg Host.Outcome.next (if_pos ((Bool.and_eq_true ..).mpr ⟨hu, hb⟩))

end

/-! ### The AVAS fallback (R143) -/

theorem State.avasFallback_enters {inst : Nat} (hf : (s.avas inst).fallback = false) :
    s.avasFallback inst =
      (s.setAvas inst { s.avas inst with fallback := true, fresh := false, moveLeft := 0 }).ev A.DSPX_EVENT 16 :=
  if_neg (ne_true_of_eq_false hf)

/-- Of the blocks of the graph only a synthesiser (type 7) has a fallback. -/
theorem execAvasFallback_synth {inst : BitVec 16} {b : Block} (hg : s.dsp.graph.block inst.toNat = some b)
    (hu : s.busUp = true) (ht : b.ty = 7) : execAvasFallback inst s = .next (s.avasFallback inst.toNat) := by
  simp only [execAvasFallback, hg, hu, ht, beq_self_eq_true, Bool.and_self, if_true]

/-- Settles O28: each clause is one branch of its command. -/
theorem soundPlayer : Obligations.SoundPlayer := by
  unfold Obligations.SoundPlayer
  exact ⟨fun voice sound s hv hid => congrArg Host.Outcome.next (State.play_taken hv hid),
    fun voice sound s h => congrArg Host.Outcome.next (State.play_refused h),
    fun voice s hv hb => congrArg Host.Outcome.next (State.stopAtEnd_busy hv hb),
    fun voice s hv hb hf => congrArg Host.Outcome.next (State.stopNow_busy hv hb hf),
    fun voice s hv => congrArg Host.Outcome.next (State.stopNow_refused hv),
    fun voice s hu he hv => execPlayDone_ended hu he hv,
    fun voice late s hu hb => execPlayUnderrun_busy hu late hb,
    fun inst b s hg hu ht hf =>
      (execAvasFallback_synth hg hu ht).trans (congrArg Host.Outcome.next (State.avasFallback_enters hf))⟩

end Sys2Proof.Machine
end

section
/-!
PROOFS. The period trackers of the repetitive controller: edges, which come with their nominal time (log entry 195), and time-outs
(R228 to R230, R237).
-/

namespace Sys2Proof.Machine

open Sys2Proof

variable (s : State)

/-! ### The record of a tracker -/

@[simp] theorem State.tracker_setTracker (k : Nat) (x : Tracker) : (s.setTracker k x).tracker k = x := Tbl.get_set_self

@[simp] theorem State.tracker_setBit (a b k : Nat) (v : Bool) : (s.setBit a b v).tracker k = s.tracker k := rfl

/-- A tracker shows its record in registers of its own, and leaves LOOP_RC_SRC. -/
theorem State.rd_rcSrc_setTracker {f : Fld} (hf : f.addr = A.LOOP_RC_SRC) (k : Nat) (x : Tracker) :
    (s.setTracker k x).rd f = s.rd f := by
  have hstat : f.addr ≠ A.LOOP_RC_TRKSTAT := by rw [hf]; decide
  have hper : f.addr ≠ A.LOOP_RC_PERIODs k := by simp only [hf, A.LOOP_RC_SRC, A.LOOP_RC_PERIODs]; omega
  exact (State.rd_wr_ne _ hstat _).trans (State.rd_wr_ne _ hper _)

theorem State.rd_rcSrc_setTrkstat {f : Fld} (hf : f.addr = A.LOOP_RC_SRC) (b : Nat) (v : Bool) :
    (s.setBit A.LOOP_RC_TRKSTAT b v).rd f = s.rd f :=
  State.rd_wr_ne _ (show f.addr ≠ A.LOOP_RC_TRKSTAT by rw [hf]; decide) _

/-! ### Prediction and tracking loop (R229) -/

/-- By how much an edge misses the prediction of a tracker. -/
def Tracker.edgeError (x : Tracker) (t : Nat) : Int := ((t * 2 ^ 14 : Nat) : Int) - (x.phase + x.period * 40 : Nat)

/-- An edge within LOCK_TOL of the prediction. -/
def State.edgeNear (x : Tracker) (t : Nat) : Bool :=
  decide ((x.edgeError t).natAbs ≤ s.rd F.LOOP_RC_SRC_LOCK_TOL * 2 ^ 14)

/-- Period and phase to which the tracking loop moves at an edge. -/
def State.edgeLoop (x : Tracker) (t : Nat) : Nat × Nat :=
  Config.trackLoop (s.rd F.LOOP_RC_SRC_TRK_BW) x.period (x.phase + x.period * 40) (x.edgeError t)

/-- The record after an edge that the loop followed to the period and phase `m`. -/
def Tracker.follow (x : Tracker) (t : Nat) (near : Bool) (m : Nat × Nat) : Tracker :=
  { x with last := some t, period := m.1, phase := m.2,
           hits := if near then x.hits + 1 else 1, misses := if near then 0 else x.misses + 1 }

/-- The second edge counts as the first of the row, so that the sixteenth after it makes 17. -/
theorem Tracker.follow_hits_ge (x : Tracker) (t : Nat) (near : Bool) (m : Nat × Nat) :
    17 ≤ (x.follow t near m).hits ↔ 16 ≤ x.hits ∧ near = true := by
  cases near <;> simp [Tracker.follow]

theorem Tracker.follow_misses_ge (x : Tracker) (t : Nat) (near : Bool) (m : Nat × Nat) :
    4 ≤ (x.follow t near m).misses ↔ near = false ∧ 4 ≤ x.misses + 1 := by
  cases near <;> simp [Tracker.follow]

theorem State.edgeNear_setTracker (k : Nat) (y x : Tracker) (t : Nat) : (s.setTracker k y).edgeNear x t = s.edgeNear x t := by
  simp only [State.edgeNear, State.rd_rcSrc_setTracker]

theorem State.edgeNear_setTrkstat (b : Nat) (v : Bool) (x : Tracker) (t : Nat) :
    (s.setBit A.LOOP_RC_TRKSTAT b v).edgeNear x t = s.edgeNear x t := by
  simp only [State.edgeNear, State.rd_rcSrc_setTrkstat]

theorem State.edgeLoop_setTracker (k : Nat) (y x : Tracker) (t : Nat) : (s.setTracker k y).edgeLoop x t = s.edgeLoop x t := by
  simp only [State.edgeLoop, State.rd_rcSrc_setTracker]

theorem State.edgeLoop_setTrkstat (b : Nat) (v : Bool) (x : Tracker) (t : Nat) :
    (s.setBit A.LOOP_RC_TRKSTAT b v).edgeLoop x t = s.edgeLoop x t := by
  simp only [State.edgeLoop, State.rd_rcSrc_setTrkstat]

/-! ### Period edges (R229) -/

section
variable {s} {k t : Nat} {x : Tracker} (hx : s.tracker k = x)
include hx

theorem State.trackEdge_first (hl : x.last = none) :
    s.trackEdge k t = (s.setBit A.LOOP_RC_TRKSTAT (4 + k) true).setTracker k
      { x with last := some t, phase := t * 2 ^ 14, hits := 0, misses := 0, locked := false } := by
  simp only [State.trackEdge, hx, hl]

variable {l : Nat} (hl : x.last = some l)
include hl

theorem State.trackEdge_second (hh : x.hits = 0) (hk : x.locked = false) :
    s.trackEdge k t = (s.setBit A.LOOP_RC_TRKSTAT (4 + k) true).setTracker k
      { x with last := some t, period := roundN ((t - l) * 2 ^ 14) 40, phase := t * 2 ^ 14, hits := 1 } := by
  simp only [State.trackEdge, hx, hl, hh, hk, Bool.not_false, and_self, if_true]

/-- After the second edge the tracking loop follows each one: of a locked tracker the fourth in a row outside the tolerance
unlocks it, of another the sixteenth interval in a row within the tolerance locks it. -/
theorem State.trackEdge_followed (hn : ¬ (x.hits = 0 ∧ !x.locked)) :
    let y := x.follow t (s.edgeNear x t) (s.edgeLoop x t)
    let u := s.setBit A.LOOP_RC_TRKSTAT (4 + k) true
    s.trackEdge k t =
      if x.locked then
        if 4 ≤ y.misses then (u.setTracker k { y with last := none, hits := 0, misses := 0, locked := false }).rcLost k
        else (u.setTracker k y).rcDrift k y.period
      else if 17 ≤ y.hits then (u.setTracker k { y with locked := true }).rcFound k y.period
      else u.setTracker k y := by
  rw [← s.edgeNear_setTrkstat (4 + k) true, ← s.edgeLoop_setTrkstat (4 + k) true]
  simp only [State.trackEdge, hx, hl]
  exact if_neg hn

theorem State.trackEdge_acquiring (hh : 0 < x.hits) (hk : x.locked = false) :
    let near := s.edgeNear x t
    let m := s.edgeLoop x t
    let u := s.setBit A.LOOP_RC_TRKSTAT (4 + k) true
    s.trackEdge k t =
      if 16 ≤ x.hits ∧ near = true then
        (u.setTracker k { x with last := some t, period := m.1, phase := m.2, hits := x.hits + 1, misses := 0,
                                 locked := true }).rcFound k m.1
      else u.setTracker k (x.follow t near m) := by
  refine ((State.trackEdge_followed hx hl fun h => Nat.ne_of_gt hh h.1).trans (if_neg (ne_true_of_eq_false hk))).trans
    (ite_congr (propext (Tracker.follow_hits_ge ..)) (fun hlocks => ?_) fun _ => rfl)
  rw [hlocks.2]
  rfl

theorem State.trackEdge_locked (hk : x.locked = true) :
    let near := s.edgeNear x t
    let m := s.edgeLoop x t
    let u := s.setBit A.LOOP_RC_TRKSTAT (4 + k) true
    s.trackEdge k t =
      if near = false ∧ 4 ≤ x.misses + 1 then
        (u.setTracker k { x with last := none, period := m.1, phase := m.2, hits := 0, misses := 0, locked := false }).rcLost k
      else (u.setTracker k (x.follow t near m)).rcDrift k m.1 :=
  ((State.trackEdge_followed hx hl (by simp [hk])).trans (if_pos hk)).trans
    (ite_congr (propext (Tracker.follow_misses_ge ..)) (fun _ => rfl) fun _ => rfl)

end

/-! ### The commands (R228 to R230) -/

section
variable {s} {k : Fin 3}

/-- Tracker 1 counts the edges between two of its periods. -/
theorem execRcTrackerEdge_divided {t : Nat} (h1 : k.val = 1) (hd : (s.tracker 1).div < s.rd F.LOOP_RC_SRC_RCSYNC_DIV) :
    execRcTrackerEdge k t s = .next (s.setTracker 1 { s.tracker 1 with div := (s.tracker 1).div + 1 }) := by
  simp [execRcTrackerEdge, h1, hd]

/-- The estimator delivers no edge while it is off. -/
theorem execRcTrackerEdge_estimatorOff {t : Nat} (h2 : k.val = 2) (he : s.on F.LOOP_RC_EST_EN = false) :
    execRcTrackerEdge k t s = .next s :=
  congrArg Host.Outcome.next (if_pos ⟨h2, he⟩)

/-- Every edge of tracker 0, and of tracker 2 while the estimator is on, is a period edge. -/
theorem execRcTrackerEdge_period {t : Nat} (h1 : k.val ≠ 1) (he : k.val = 2 → s.on F.LOOP_RC_EST_EN = true) :
    execRcTrackerEdge k t s = .next ((s.setTracker k { s.tracker k with div := 0 }).trackEdge k t) := by
  have hon : ¬ (k.val = 2 ∧ s.on F.LOOP_RC_EST_EN = false) := fun h => by simp [he h.1] at h
  have hdiv : ¬ (k.val = 1 ∧ (s.tracker k).div < s.rd F.LOOP_RC_SRC_RCSYNC_DIV) := fun h => h1 h.1
  exact congrArg Host.Outcome.next ((if_neg hon).trans (if_neg hdiv))

theorem execRcTrackerTimeout_eq (k : Fin 3) (s : State) :
    let t := (s.setTracker k { s.tracker k with last := none, hits := 0, misses := 0, locked := false }).setBit
      A.LOOP_RC_TRKSTAT (4 + k) false
    execRcTrackerTimeout k s = .next (if (s.tracker k).locked then t.rcLost k else t) := rfl

end

/-- Settles O34: an edge is counted, dropped or a period edge, and a period edge is one of the four of `trackEdge`. -/
theorem rcTrackers : Obligations.RcTrackers := by
  unfold Obligations.RcTrackers
  refine ⟨fun k t s h1 hd => execRcTrackerEdge_divided h1 hd, fun k t s h1 hl he => ?first,
    fun k t l s h1 hl hh hk he => ?second, fun k t l s h1 hl hk hh he => ?acquiring, fun k t l s h1 hl hk he => ?locked,
    fun k t s h2 he => execRcTrackerEdge_estimatorOff h2 he, fun k s hk => ?timeout, fun k s hk => ?timeoutLocked⟩
  case first =>
    exact (execRcTrackerEdge_period h1 he).trans
      (congrArg Host.Outcome.next (State.trackEdge_first (s.tracker_setTracker k _) hl))
  case second =>
    exact (execRcTrackerEdge_period h1 he).trans
      (congrArg Host.Outcome.next (State.trackEdge_second (s.tracker_setTracker k _) hl hh hk))
  case acquiring =>
    have hx := s.tracker_setTracker k { s.tracker k with div := 0 }
    refine (execRcTrackerEdge_period h1 he).trans (congrArg Host.Outcome.next ?_)
    rw [State.trackEdge_acquiring hx hl hh hk, State.edgeNear_setTracker, State.edgeLoop_setTracker]
    rfl
  case locked =>
    have hx := s.tracker_setTracker k { s.tracker k with div := 0 }
    refine (execRcTrackerEdge_period h1 he).trans (congrArg Host.Outcome.next ?_)
    rw [State.trackEdge_locked hx hl hk, State.edgeNear_setTracker, State.edgeLoop_setTracker]
    rfl
  case timeout => exact (execRcTrackerTimeout_eq k s).trans (by rw [hk]; rfl)
  case timeoutLocked => exact (execRcTrackerTimeout_eq k s).trans (by rw [hk]; rfl)

end Sys2Proof.Machine
end

section
/-!
PROOFS. Period ends, fades, CLEAR and FREEZE of a repetitive controller (R231 to R238).
-/

namespace Sys2Proof.Machine

open Sys2Proof

variable {s : State} {c : Nat}

/-- A write that reaches a running island. -/
theorem next_reach_running {a : Nat} {f : State → State} {t : State} (hr : s.islandStopped a = false) (h : f s = t) :
    (.next (s.reach a f) : Host.Outcome State Fault Refusal) = .next t :=
  congrArg Host.Outcome.next ((s.reach_running f hr).trans h)

/-! ### Period ends (R231, R233 to R235) -/

/-- The period of the tracker of channel `c` while that is locked, else the last one. -/
def State.rcNextPeriod (s : State) (c : Nat) : Nat :=
  if (s.tracker (s.rd (F.LOOP_RC_CHc_CFG_SRC c))).locked = true then (s.tracker (s.rd (F.LOOP_RC_CHc_CFG_SRC c))).period
  else (s.rc c).p

/-- What a period of channel `c` has run past its end, where it ended short of a whole control sample. -/
def State.rcPast (s : State) (c : Nat) : Nat :=
  if (s.rc c).p ≤ (s.rc c).since ∧ (s.rc c).since < (s.rc c).p + 2 ^ 14 then (s.rc c).since - (s.rc c).p else 0

/-- The next period of channel `c` starts, with the pending GAIN and CONV. -/
def State.rcPeriodStart (s : State) (c p past : Nat) : State :=
  (s.setRc c { s.rc c with gain := s.reg (A.LOOP_RC_CHc_GAIN c), conv := s.reg (A.LOOP_RC_CHc_CONV c), since := past,
                           step := none, p := p }).rcBins c p

/-- A period end closes the period, moves the state under closed loop and starts the next period. -/
theorem State.rcPeriodEnd_eq (s : State) (c : Nat) :
    let u := (s.rcCloseBin c).rcResidual c
    let locked := (s.tracker (s.rd (F.LOOP_RC_CHc_CFG_SRC c))).locked
    s.rcPeriodEnd c =
      (if u.rcLive c = true then u.rcPeriodState c (s.rcNextPeriod c) locked else u).rcPeriodStart c (s.rcNextPeriod c)
        (s.rcPast c) := rfl

theorem State.rcNextPeriod_locked (h : (s.tracker (s.rd (F.LOOP_RC_CHc_CFG_SRC c))).locked = true) :
    s.rcNextPeriod c = (s.tracker (s.rd (F.LOOP_RC_CHc_CFG_SRC c))).period := if_pos h

/-- WAIT ends with a locked tracker and a number of bins in range. -/
theorem State.rcPeriodState_wait (hs : s.rcState c = rcWait) (p : Nat) (locked : Bool) :
    s.rcPeriodState c p locked = if locked && nbInRange p (s.binW c) then s.rcLearn c else s := if_pos hs

/-- The period end of a channel in WAIT whose tracker is locked. -/
theorem State.rcPeriodEnd_wait {u : State} (hu : u = (s.rcCloseBin c).rcResidual c) (hlive : u.rcLive c = true)
    (hs : u.rcState c = rcWait) (hl : (s.tracker (s.rd (F.LOOP_RC_CHc_CFG_SRC c))).locked = true) :
    let p := (s.tracker (s.rd (F.LOOP_RC_CHc_CFG_SRC c))).period
    s.rcPeriodEnd c = (if nbInRange p (u.binW c) = true then u.rcLearn c else u).rcPeriodStart c p (s.rcPast c) := by
  rw [State.rcPeriodEnd_eq, ← hu, if_pos hlive, State.rcPeriodState_wait hs, hl, State.rcNextPeriod_locked hl, Bool.true_and]

/-! ### The end of a fade (R238) -/

theorem State.rcFadeEnd_running (h : s.rcState c ≠ rcFade ∨ (s.rc c).fadeLeft ≠ 0) : s.rcFadeEnd c = s :=
  if_neg fun ⟨hs, hf⟩ => h.elim (fun hn => hn hs) fun hn => hn hf

section
variable (hs : s.rcState c = rcFade) (hf : (s.rc c).fadeLeft = 0)
include hs hf

/-- A fade that keeps the table leads to OFF where EN is still 0. -/
theorem State.rcFadeEnd_off (hk : (s.rc c).keep = true) (ha : (s.rc c).after = 0) (he : s.on (F.LOOP_RC_CHc_CFG_EN c) = false) :
    s.rcFadeEnd c = s.rcGoto c 0 := by
  have hlearn : (s.rc c).after ≠ rcLearning := by rw [ha]; decide
  simp only [State.rcFadeEnd, hs, hf, hk, he, hlearn, and_self, if_true, Bool.false_eq_true, and_false, if_false]
  rw [ha]

theorem State.rcFadeEnd_learning (hk : (s.rc c).keep = false) (ha : (s.rc c).after = rcLearning) :
    s.rcFadeEnd c = (s.rcZero c).rcLearn c := by
  simp only [State.rcFadeEnd, hs, hf, hk, ha, and_self, if_true, Bool.false_eq_true, if_false]

theorem State.rcFadeEnd_wait (hk : (s.rc c).keep = false) (ha : (s.rc c).after = rcWait) :
    s.rcFadeEnd c = (s.rcZero c).rcGoto c rcWait := by
  have hlearn : (s.rc c).after ≠ rcLearning := by rw [ha]; decide
  have hoff : (s.rc c).after ≠ 0 := by rw [ha]; decide
  simp only [State.rcFadeEnd, hs, hf, hk, hlearn, hoff, and_self, if_true, Bool.false_eq_true, false_and, if_false]
  rw [ha]

end

/-! ### CLEAR (R238) -/

theorem State.rcClear_resting (h : s.rcState c ≤ rcWait) : s.rcClear c = s.rcZero c := if_pos h

/-- A controller that acts fades towards LEARNING, over four periods. -/
theorem State.rcClear_acting (h : rcWait < s.rcState c) (hf : s.rcState c ≠ rcFade) :
    s.rcClear c = (s.setRc c { s.rc c with fadeLeft := roundN (4 * (s.rc c).p) (2 ^ 14),
                                           fadeLen := roundN (4 * (s.rc c).p) (2 ^ 14),
                                           after := rcLearning, keep := false }).rcGoto c rcFade :=
  (if_neg (Nat.not_le.mpr h)).trans (if_neg hf)

/-- Settles O35: a period end is its steps in order, and each other clause one branch of its command behind a running island. -/
theorem rcPeriodsAndFades : Obligations.RcPeriodsAndFades := by
  unfold Obligations.RcPeriodsAndFades
  refine ⟨fun c s => congrArg Host.Outcome.next (s.rcPeriodEnd_eq c), fun c t u s _ hu hlive hs hl ht => ?wait,
    fun c s hs hf hk ha => congrArg Host.Outcome.next (State.rcFadeEnd_learning hs hf hk ha),
    fun c s hs hf hk ha he => congrArg Host.Outcome.next (State.rcFadeEnd_off hs hf hk ha he),
    fun c s hs hf hk ha => congrArg Host.Outcome.next (State.rcFadeEnd_wait hs hf hk ha),
    fun c s h => congrArg Host.Outcome.next (State.rcFadeEnd_running h),
    fun c s hr hs => next_reach_running hr (State.rcClear_resting hs),
    fun c s hr hs hf => next_reach_running hr (State.rcClear_acting hs hf),
    fun c on s hr => next_reach_running hr rfl,
    fun c on s hr => congrArg Host.Outcome.next (s.reach_stopped _ hr)⟩
  case wait =>
    subst ht
    exact congrArg Host.Outcome.next (State.rcPeriodEnd_wait hu hlive hs hl)

end Sys2Proof.Machine
end

section
/-!
PROOFS. Configuration of the repetitive controller: channels, sources, the ripple estimator and the table window (R228, R230,
R238 to R240). That any enabled channel locks LOOP_RC_SRC, and none LOOP_RC_EST_BAND, is a choice of the model (log entry 96).
-/

namespace Sys2Proof.Machine

open Sys2Proof

variable {s : State}

/-! ### Channels (R238 to R240) -/

section
variable {c : Nat} {v : Word}

/-- Of an enabled channel only EN may change. -/
theorem State.rcCfgWrite_locked (he : s.on (F.LOOP_RC_CHc_CFG_EN c) = true)
    (hv : (s.reg (A.LOOP_RC_CHc_CFG c) ^^^ (v &&& 0xFFFF3F07)) &&& 0xFFFFFFFE ≠ 0) : s.rcCfgWrite c v = s.rcRefused :=
  if_pos (by rw [he, decide_eq_true hv]; rfl)

/-- Source code 3 names no tracker. -/
theorem State.rcCfgWrite_noSource (hv : getField (v &&& 0xFFFF3F07) 1 2 = 3) : s.rcCfgWrite c v = s.rcRefused :=
  if_pos (by rw [decide_eq_true hv, Bool.or_true])

/-- A word with a source is taken whole while the channel is disabled; with EN, the controller leaves OFF, but for that of the
upper channel of a pair. -/
theorem State.rcCfgWrite_disabled (he : s.on (F.LOOP_RC_CHc_CFG_EN c) = false) (hv : getField (v &&& 0xFFFF3F07) 1 2 ≠ 3) :
    let u := s.setReg (A.LOOP_RC_CHc_CFG c) (v &&& 0xFFFF3F07)
    s.rcCfgWrite c v =
      if (v &&& 0xFFFF3F07).getLsbD 0 then
        if u.rcUpper c then u else if u.rcState c = 0 then u.rcGoto c rcWait else u
      else u := by
  simp only [State.rcCfgWrite, he, decide_eq_false hv, Bool.false_and, Bool.or_false, Bool.false_eq_true, if_false,
    Bool.not_false, Bool.and_true]

end

/-! ### Sources and the ripple estimator (R230, R239) -/

section
variable {v : Word}

theorem State.rcSrcWrite_src (s : State) (v : Word) :
    s.rcSrcWrite 0 v =
      if s.rcUses (fun _ => true) || decide (getField v 16 8 = 0) || decide (getField v 4 2 = 3) then s.rcRefused
      else s.setReg A.LOOP_RC_SRC (v &&& 0x00FF0F31) := rfl

theorem State.rcSrcWrite_band (s : State) (v : Word) :
    s.rcSrcWrite 2 v =
      if 40 ≤ getField v 0 16 ∧ 10 * (8 * getField v 16 16) ≤ 16 * s.fa ∧ getField v 0 16 < 8 * getField v 16 16 then
        s.setReg A.LOOP_RC_EST_BAND v
      else s.rcRefused := rfl

theorem State.rcSrcWrite_src_inUse (h : s.rcUses (fun _ => true) = true) : s.rcSrcWrite 0 v = s.rcRefused := by
  simp [State.rcSrcWrite_src, h]

theorem State.rcSrcWrite_src_badCode (h : getField v 16 8 = 0 ∨ getField v 4 2 = 3) : s.rcSrcWrite 0 v = s.rcRefused := by
  rcases h with h | h <;> simp [State.rcSrcWrite_src, h]

theorem State.rcSrcWrite_src_taken (h : s.rcUses (fun _ => true) = false) (htol : getField v 16 8 ≠ 0)
    (hbw : getField v 4 2 ≠ 3) : s.rcSrcWrite 0 v = s.setReg A.LOOP_RC_SRC (v &&& 0x00FF0F31) := by
  simp [State.rcSrcWrite_src, h, htol, hbw]

theorem State.rcSrcWrite_est_inUse (h : s.rcUses (fun k => k == 2) = true) : s.rcSrcWrite 1 v = s.rcRefused := if_pos h

theorem State.rcSrcWrite_est_taken (h : s.rcUses (fun k => k == 2) = false) :
    s.rcSrcWrite 1 v = s.setReg A.LOOP_RC_EST (v &&& 0x8000001F) := if_neg (ne_true_of_eq_false h)

theorem State.rcSrcWrite_band_taken (hmin : 40 ≤ getField v 0 16) (hmax : 10 * (8 * getField v 16 16) ≤ 16 * s.fa)
    (hlt : getField v 0 16 < 8 * getField v 16 16) : s.rcSrcWrite 2 v = s.setReg A.LOOP_RC_EST_BAND v :=
  (s.rcSrcWrite_band v).trans (if_pos ⟨hmin, hmax, hlt⟩)

theorem State.rcSrcWrite_band_refused (h : getField v 0 16 < 40 ∨ 16 * s.fa < 10 * (8 * getField v 16 16) ∨
    8 * getField v 16 16 ≤ getField v 0 16) : s.rcSrcWrite 2 v = s.rcRefused :=
  (s.rcSrcWrite_band v).trans (if_neg fun ⟨hmin, hmax, hlt⟩ => by omega)

end

/-! ### The table window (R239) -/

theorem State.rcTableWrite_enabled {k : Nat} {v : Word} (h : s.on (F.LOOP_RC_CHc_CFG_EN (s.rd F.LOOP_RC_TBLSEL_CH)) = true) :
    s.rcTableWrite k v = s.rcRefused := if_pos h

theorem State.rcTableWrite_disabled {k : Nat} {v : Word}
    (h : s.on (F.LOOP_RC_CHc_CFG_EN (s.rd F.LOOP_RC_TBLSEL_CH)) = false) :
    let c := s.rd F.LOOP_RC_TBLSEL_CH
    s.rcTableWrite k v = s.setRc c { s.rc c with table := Tbl.set 0 (s.rc c).table k v.toInt } :=
  if_neg (ne_true_of_eq_false h)

/-- Settles O36: behind a running island each clause is one branch of its write. -/
theorem rcConfiguration : Obligations.RcConfiguration := by
  unfold Obligations.RcConfiguration
  refine ⟨fun c v s hr he hv => next_reach_running hr (State.rcCfgWrite_locked he hv), fun c v s hr he hv hn => ?taken,
    fun v s hr h => next_reach_running hr (State.rcSrcWrite_src_inUse h),
    fun v s hr h htol hbw => next_reach_running hr (State.rcSrcWrite_src_taken h htol hbw),
    fun v s hr h => next_reach_running hr (State.rcSrcWrite_est_taken h),
    fun c v s hr hv => next_reach_running hr (State.rcCfgWrite_noSource hv),
    fun c v u s hr he hv hn hu hup hoff => ?enters,
    fun v s hr h => next_reach_running hr (State.rcSrcWrite_src_badCode h),
    fun v s hr h => next_reach_running hr (State.rcSrcWrite_est_inUse h),
    fun v s hr hmin hmax hlt => next_reach_running hr (State.rcSrcWrite_band_taken hmin hmax hlt),
    fun v s hr h => next_reach_running hr (State.rcSrcWrite_band_refused h),
    fun k v s hr h => next_reach_running hr (State.rcTableWrite_enabled h),
    fun k v s hr h => next_reach_running hr (State.rcTableWrite_disabled h)⟩
  case taken =>
    refine next_reach_running hr ((State.rcCfgWrite_disabled he hv).trans ?_)
    exact if_neg (ne_true_of_eq_false hn)
  case enters =>
    refine next_reach_running hr ((State.rcCfgWrite_disabled he hv).trans ?_)
    rw [← hu, if_pos hn, if_neg (ne_true_of_eq_false hup), if_pos hoff]

end Sys2Proof.Machine
end

section
/-!
PROOFS. The trace buffers: configuration, ARM, STOP, FORCE and the read window (R243 to R247).
-/

namespace Sys2Proof.Machine

open Sys2Proof

variable {s : State} {b : Nat}

/-! ### Configuration and ARM (R245, R246) -/

/-- Outside its capturing states a buffer takes a new configuration. -/
abbrev State.tResting (s : State) (b : Nat) : Prop := s.tState b = tIdle ∨ s.tState b = tDone ∨ s.tState b = tStopped

theorem State.traceCfgWrite_level (h : s.tResting b) (v : Word) : s.traceCfgWrite b 2 v = s.setReg (A.TRACE_LEVELb b) v :=
  if_pos ((Bool.and_true _).trans (decide_eq_true h))

theorem State.traceCfgWrite_depth (h : s.tResting b) (v : Word) :
    s.traceCfgWrite b 3 v = s.setReg (A.TRACE_DEPTHb b) (v &&& 0x3FFF3FFF) :=
  if_pos ((Bool.and_true _).trans (decide_eq_true h))

theorem State.traceCfgWrite_capturing (h : ¬ s.tResting b) (k : Nat) (v : Word) :
    s.traceCfgWrite b k v = s.bump F.TRACE_ERR_CFG_REFUSED := by
  have hidle : decide (s.tState b = tIdle ∨ s.tState b = tDone ∨ s.tState b = tStopped) = false := decide_eq_false h
  simp only [State.traceCfgWrite, hidle, Bool.false_and, Bool.false_eq_true, if_false]
  rfl

theorem State.traceArm_fits (h : s.tResting b)
    (hfit : s.on (F.TRACE_CFGb_MODE b) = true ∨
      s.rd (F.TRACE_DEPTHb_PRE b) + 1 + s.rd (F.TRACE_DEPTHb_POST b) ≤ s.tCapacity b) :
    s.traceArm b = ((s.setTbuf b TraceBuf.reset).setReg (A.TRACE_LENb b) 0).setReg (A.TRACE_STATb b)
      (BitVec.ofNat 32 (if s.on (F.TRACE_CFGb_MODE b) = true then tRun
        else if s.rd (F.TRACE_DEPTHb_PRE b) = 0 then tReady else tFilling)) :=
  if_pos ⟨h, hfit⟩

/-- A record that exceeds the capacity, outside free-run mode. -/
theorem State.traceArm_tooLong (hm : s.on (F.TRACE_CFGb_MODE b) = false)
    (hlong : s.tCapacity b < s.rd (F.TRACE_DEPTHb_PRE b) + 1 + s.rd (F.TRACE_DEPTHb_POST b)) :
    s.traceArm b = (s.ev A.TRACE_EVENT (4 * b + 3)).bump F.TRACE_ERR_CFG_REFUSED :=
  if_neg fun ⟨_, hfit⟩ => hfit.elim (ne_true_of_eq_false hm) (Nat.not_le.mpr hlong)

/-! ### STOP and FORCE (R244, R246) -/

theorem State.traceStop_capturing
    (h : s.tState b = tFilling ∨ s.tState b = tReady ∨ s.tState b = tPost ∨ s.tState b = tRun) :
    s.traceStop b = s.traceEnd b tStopped := if_pos h

theorem State.trigger_filling (h : s.tState b = tFilling) : s.trigger b = s.bump F.TRACE_ERR_EARLY_TRIG := if_pos h

/-- A trigger that buffer `b` takes: its last PRE samples stay, POST + 1 follow. -/
def State.traceTriggered (s : State) (b : Nat) : State :=
  let t := ((s.setTbuf b { s.tbuf b with
      samples := (s.tbuf b).samples.drop ((s.tbuf b).samples.length - s.rd (F.TRACE_DEPTHb_PRE b)),
      post := s.rd (F.TRACE_DEPTHb_POST b) + 1 }).wr (F.TRACE_STATb_STATE b) tPost).wr (F.TRACE_STATb_TRIG_VALID b) 1
  ((t.wr (F.TRACE_STATb_TRIG_INDEX b) (s.rd (F.TRACE_DEPTHb_PRE b))).setReg (A.TRACE_STAMPb b) (t.reg A.LOOP_CSCNT)).ev
    A.TRACE_EVENT (4 * b + 1)

/-- READY takes the trigger, and it triggers the buffers whose source is this one. -/
theorem State.trigger_ready (h : s.tState b = tReady) :
    s.trigger b = (s.traceTriggered b).forAll 4 (fun d t =>
      if t.rd (F.TRACE_CFGb_TRIG_SRC d) = 9 ∧ t.rd (F.TRACE_CFGb_CROSS_BUF d) = b then State.traceTrigger 4 [b] d t else t) := by
  have hfill : ¬ s.tState b = tFilling := by rw [h]; decide
  exact (if_neg hfill).trans (if_pos h)

/-! ### The window (R246, R247) -/

/-- A read of a running island puts the word on the bus. -/
theorem execTraceWindowRead_running {w : Fin 8192} {bad : Bool} {t : State} {x : BitVec 32}
    (hr : s.islandStopped A.TRACE_WIN = false) (h : s.traceRead w bad = (t, x)) :
    execTraceWindowRead w bad s = .next { t with hbus := { t.hbus with out := leBytes 4 x.toNat } } := by
  simp only [execTraceWindowRead, hr, Bool.false_eq_true, if_false, h]

/-- A window shows the record of a buffer that has ended its capture. -/
abbrev State.tEnded (s : State) (b : Nat) : Prop := s.tState b = tDone ∨ s.tState b = tStopped

theorem State.traceRead_word (h : s.tEnded (s.rd F.TRACE_WIN_BUF)) (w : Nat) : s.traceRead w false = (s, s.traceWord w) :=
  if_pos h

theorem State.traceRead_failing (h : s.tEnded (s.rd F.TRACE_WIN_BUF)) (w : Nat) :
    s.traceRead w true = (s.bump F.TRACE_ERR_CRC, 0x80000000) := if_pos h

theorem State.traceRead_refused (h : ¬ s.tEnded (s.rd F.TRACE_WIN_BUF)) (w : Nat) (bad : Bool) :
    s.traceRead w bad =
      ((s.bump F.TRACE_ERR_READ_REFUSED).ev A.TRACE_EVENT (4 * s.rd F.TRACE_WIN_BUF + 2), 0) := if_neg h

/-- Settles O37: behind a running island each clause is one branch of its command. -/
theorem traceBuffers : Obligations.TraceBuffers := by
  unfold Obligations.TraceBuffers
  exact ⟨fun b v s hr h => next_reach_running hr (State.traceCfgWrite_level h v),
    fun b v s hr h => next_reach_running hr (State.traceCfgWrite_depth h v),
    fun b k v s hr h => next_reach_running hr (State.traceCfgWrite_capturing h k v),
    fun b s hr h hfit => next_reach_running hr (State.traceArm_fits h hfit),
    fun b s hr hm hlong => next_reach_running hr (State.traceArm_tooLong hm hlong),
    fun b s hr h => next_reach_running hr (State.traceStop_capturing h),
    fun b s hr h => next_reach_running hr (State.trigger_filling h),
    fun b s hr h => next_reach_running hr (State.trigger_ready h),
    fun w bad s hr h hbad => hbad ▸ execTraceWindowRead_running hr (State.traceRead_word h w),
    fun w s hr h => execTraceWindowRead_running hr (State.traceRead_failing h w),
    fun w bad s hr h => execTraceWindowRead_running hr (State.traceRead_refused h w bad)⟩

end Sys2Proof.Machine
end

section
/-!
PROOFS. The sense converters: samples, slice faults, background correction and calibration (R253 to R264).
-/

namespace Sys2Proof.Machine

open Sys2Proof

variable {s : State} {k : Nat}

/-! ### Samples (R253, R262, R264) -/

theorem State.senseSample_idle (h : s.senseMode k < 2 ∨ 4 < s.senseMode k) (slice : Bool) (raw : BitVec 16) (chop ok : Bool) :
    s.senseSample k slice raw chop ok = s := if_pos h

/-- A failed link check of an input that runs delivers the word before once more. -/
theorem State.senseSample_linkFailed (hlo : 2 ≤ s.senseMode k) (hhi : s.senseMode k ≤ 4) (slice : Bool) (raw : BitVec 16)
    (chop : Bool) :
    s.senseSample k slice raw chop false =
      ((((s.bump (F.SENSE_INk_CNT_LINK k)).ev A.SENSE_EVENT 6).raise 5 (k % 16) 4 0 false).bgSkip k).senseDeliver k
        (s.sin k).value (s.sin k).y false :=
  if_neg (by omega)

/-- Slice 1 does not serve an input that runs on slice 0. -/
theorem State.senseSample_slice1_idle (h : s.senseMode k = 3) (raw : BitVec 16) (chop : Bool) :
    s.senseSample k true raw chop true = s.senseDeliver k (s.sin k).value (s.sin k).y false :=
  (if_neg (by omega)).trans (if_pos (Or.inl ⟨h, rfl⟩))

/-- Both slices of an interleaved input serve: the word is full scale or the corrected code, as the raw code is an end code
or not. -/
theorem State.senseSample_interleaved (hm : s.senseMode k = 2) (h : Bool) (raw : BitVec 16) (chop : Bool) :
    let sign : Int := if chop then -1 else 1
    let neg := decide (sign * raw.toInt < 0)
    let y := sign * (16 * raw.toInt - s.ofs k h) * s.gainFactor k h
    s.senseSample k h raw chop true =
      if raw = 0x8000#16 ∨ raw = 0x7FFF#16 then
        (((((s.bump (F.SENSE_INk_CNT_OVR k)).ev A.SENSE_EVENT 5).wr (F.SENSE_INk_PEAK_CODE k) 0x8000).overCount k true).bgSkip
          k).senseDeliver k (senseFull k neg) ((if neg then -1 else 1) * 32768 * 2 ^ 24) true
      else
        (((s.peak (F.SENSE_INk_PEAK_CODE k) (y.natAbs / 2 ^ 24)).overCount k false).bgSample k h raw.toInt y).senseDeliver k
          (senseValue k y) y false := by
  have hserves : ¬ ((s.senseMode k = 3 ∧ h = true) ∨ (s.senseMode k = 4 ∧ h = false)) := by simp [hm]
  exact (if_neg (by omega)).trans (if_neg hserves)

/-! ### Slice faults (R263) -/

/-- The fault of slice 1 leaves an interleaved input on slice 0. -/
theorem State.sliceFault_leavesSlice0 (hm : s.senseMode k = 2) (hb : (s.sin k).bad1 = false) :
    s.sliceFault k true =
      (((s.setSin k { s.sin k with bad1 := true }).ev A.SENSE_EVENT 3).raise 5 (k % 16) 1 0 false).setSenseMode k 3 := by
  simp [State.sliceFault, hm, hb]

/-- The fault of slice 0 fails an input that runs on it alone. -/
theorem State.sliceFault_fails (hm : s.senseMode k = 4) (hb : (s.sin k).bad0 = false) :
    s.sliceFault k false =
      ((((s.setSin k { s.sin k with bad0 := true }).ev A.SENSE_EVENT 3).raise 5 (k % 16) 1 0 false).setSenseMode k 5).raise
        5 (k % 16) 2 0 false := by
  simp [State.sliceFault, hm, hb]

/-! ### Background correction (R256 to R258) -/

theorem State.bgEnd_idle (h : s.on F.SENSE_CTRL_BG_FREEZE = true ∨ s.senseMode k < 2 ∨ 4 < s.senseMode k) : s.bgEnd k = s :=
  if_pos (by simpa using h)

/-- An offset estimate within the range of OFS moves the shim one unit. -/
theorem State.bgOffset_moves {h : Bool} {n : Nat} {sum : Int} (hn : n ≠ 0) (hlo : -32768 ≤ roundQ (16 * sum) n)
    (hhi : roundQ (16 * sum) n ≤ 32767) :
    s.bgOffset k h n sum =
      s.wrI (if h then F.SENSE_INk_OFS_SLICE1 k else F.SENSE_INk_OFS_SLICE0 k) (towards (s.ofs k h) (roundQ (16 * sum) n) 1) :=
  (if_neg hn).trans (if_neg (by omega))

/-- On slice 1 alone only its offset is estimated. -/
theorem State.bgEnd_slice1 (hf : s.on F.SENSE_CTRL_BG_FREEZE = false) (hm : s.senseMode k = 4) :
    s.bgEnd k =
      ((s.setSin k { s.sin k with bg := BgSt.empty }).bgOffset k true (s.sin k).bg.n1 (s.sin k).bg.sum1).driftUpdate k
        (s.farShims k) := by
  simp [State.bgEnd, hf, hm]

/-- BG_FREEZE is written without more, unless the write clears it. -/
theorem State.bgFreeze_keepsWindows {on : Bool} (h : s.on F.SENSE_CTRL_BG_FREEZE = false ∨ on = true) :
    s.bgFreeze on = s.wrB F.SENSE_CTRL_BG_FREEZE on := by
  rcases h with h | h <;> simp [State.bgFreeze, h]

theorem State.bgFreeze_cleared (h : s.on F.SENSE_CTRL_BG_FREEZE = true) :
    s.bgFreeze false = (s.wrB F.SENSE_CTRL_BG_FREEZE false).forAll 32 (fun k t =>
      t.setSin k { t.sin k with bg := BgSt.empty, prev := none }) :=
  if_pos (by rw [h]; rfl)

/-! ### Calibration (R259 to R261) -/

theorem State.forEach_fixed {α : Type} (s : State) {l : List α} {f : α → State → State} (h : ∀ x ∈ l, f x s = s) :
    s.forEach l f = s := by
  induction l with
  | nil => rfl
  | cons x xs ih =>
    obtain ⟨hx, hxs⟩ := List.forall_mem_cons.mp h
    calc s.forEach (x :: xs) f = (f x s).forEach xs f := rfl
      _ = s := by rw [hx, ih hxs]

theorem lt_of_mem_named {mask : BitVec 16} {c : Nat} (h : c ∈ named mask) : c < 16 :=
  List.mem_range.mp (List.mem_filter.mp h).left

/-- Channels of no output have no sweep that a command would end. -/
theorem State.senseCalCmd_unbound (h : ∀ c < 16, s.outOf c = none) (mask : BitVec 16) : s.senseCalCmd mask = s.senseCal mask := by
  refine congrArg (fun t => State.senseCal t mask) (State.forEach_fixed s fun c hc => ?_)
  rw [h c (lt_of_mem_named hc)]

theorem State.senseCal_zero (s : State) : s.senseCal 0 = s := State.forAll_fixed s 16 fun _ _ => by simp

/-- A command that names no channel ends no sweep either. -/
theorem State.senseCalCmd_zero (s : State) : s.senseCalCmd 0 = s := s.senseCal_zero

/-- Settles O38: each clause is one branch of its command; a write reaches its operation behind a running island. -/
theorem senseSamplesAndCalibration : Obligations.SenseSamplesAndCalibration := by
  unfold Obligations.SenseSamplesAndCalibration
  refine ⟨fun k h raw chop s hm hlo hhi => ?corrected, fun k h raw chop s hm hend => ?fullScale,
    fun k h raw chop s hlo hhi => congrArg Host.Outcome.next (State.senseSample_linkFailed hlo hhi h raw chop),
    fun k raw chop s hm => congrArg Host.Outcome.next (State.senseSample_slice1_idle hm raw chop),
    fun k h raw chop ok s hm => congrArg Host.Outcome.next (State.senseSample_idle hm h raw chop ok),
    fun k s hm hb => congrArg Host.Outcome.next (State.sliceFault_leavesSlice0 hm hb),
    fun k s hm hb => congrArg Host.Outcome.next (State.sliceFault_fails hm hb),
    fun k s h => congrArg Host.Outcome.next (State.bgEnd_idle h), fun k s hf hm hn hlo hhi => ?window,
    fun on s hr h => next_reach_running hr (State.bgFreeze_keepsWindows h),
    fun s hr h => next_reach_running hr (State.bgFreeze_cleared h),
    fun mask s hr h => next_reach_running hr (State.senseCalCmd_unbound h mask),
    fun mask s hr h => h ▸ next_reach_running hr s.senseCalCmd_zero,
    fun s hfw hpvdd hdone hbusy => ?bootCal, fun rs s => rfl⟩
  case corrected =>
    refine congrArg Host.Outcome.next ((State.senseSample_interleaved hm h raw chop).trans (if_neg ?_))
    exact not_or.mpr ⟨hlo, hhi⟩
  case fullScale => exact congrArg Host.Outcome.next ((State.senseSample_interleaved hm h raw chop).trans (if_pos hend))
  case window =>
    exact congrArg Host.Outcome.next ((State.bgEnd_slice1 hf hm).trans
      (congrArg (fun t => State.driftUpdate t k (s.farShims k)) (State.bgOffset_moves hn hlo hhi)))
  case bootCal => exact congrArg Host.Outcome.next (if_pos (by rw [hfw, hpvdd, hdone, hbusy]; rfl))

end Sys2Proof.Machine
end

section
/-!
PROOFS. The decimation chain: output samples, the ratio tracker, resets, threshold units and auxiliary paths (R265 to R286).
-/

namespace Sys2Proof.Machine

open Sys2Proof

variable {s : State} {k u : Nat}

/-! ### Settling (R279) -/

theorem State.pathSettled_passed (hs : s.rd (F.DECIM_PATHk_STAT_STATE k) = 1) (hr : (s.path k).remain = 0) :
    s.pathSettled k = (s.wr (F.DECIM_PATHk_STAT_STATE k) 2).ev A.DECIM_EVENT 16 := if_pos ⟨hs, hr⟩

/-! ### The ratio tracker (R275 to R278) -/

/-- RATIO stands in the registers. -/
@[simp] theorem State.setRatio_decim (s : State) (r : Nat) : (s.setRatio r).decim = s.decim := by
  unfold State.setRatio; dsimp only; split <;> rfl

/-- A tracker tick moves RATIO to `r` and shows the phase error and its peak (R276, R278). -/
def State.ratioMoved (s : State) (r : Nat) (err : Int) : State :=
  ((s.setRatio r).peak F.DECIM_PHERR_PEAK err.natAbs).wrI F.DECIM_PHERR_NOW (clampInt (-32768) 32767 err)

@[simp] theorem State.ratioMoved_decim (s : State) (r : Nat) (err : Int) : (s.ratioMoved r err).decim = s.decim := by
  simp [State.ratioMoved]

/-- The output samples in a row within a twentieth of a sample, after a tick with phase error `err`; an owner tick is four of
them, and 4096 are as many as count (R276). -/
def State.closeAfter (s : State) (err : Int) : Nat :=
  if err.natAbs * 20 ≤ 65536 ∧ s.rd F.DECIM_TRKSTAT_RANGE = 0 then min (s.decim.close + 4) 4096 else 0

theorem State.closeAfter_le (s : State) (err : Int) : s.closeAfter err ≤ 4096 := by
  unfold State.closeAfter; split <;> omega

/-- A phase error of more than a quarter sample is not close. -/
theorem State.closeAfter_far (s : State) {err : Int} (h : 65536 < err.natAbs * 4) : s.closeAfter err = 0 :=
  if_neg (by omega)

/-- The count of close samples and the accumulator of the tracker's loop. -/
def State.setTrackLoop (s : State) (close : Nat) (acc : Int) : State :=
  { s with decim := { s.decim with close := close, loopAcc := acc } }

/-- Before the chain starts no tick does anything. -/
theorem execRatioTrackerTick_idle (h : s.decim.started = false) (err : Int) : execRatioTrackerTick err s = .next s :=
  if_pos (by rw [h]; rfl)

section
variable {err : Int} {r : Nat × Int} (h : s.decim.started = true)
  (hr : r = Config.trackRatio (s.rd F.DECIM_TRK_BW) (s.rd F.DECIM_RATIO_VALUE) s.decim.loopAcc err)
include h hr

/-- A tick in ACQUIRING or LOCKED moves RATIO, then locks, acquires afresh or leaves the state. -/
theorem execRatioTrackerTick_acts (hs : s.rd F.DECIM_TRKSTAT_STATE = 1 ∨ s.rd F.DECIM_TRKSTAT_STATE = 2) :
    let t := s.ratioMoved r.1 err
    let v := t.setTrackLoop (t.closeAfter err) r.2
    execRatioTrackerTick err s =
      if s.rd F.DECIM_TRKSTAT_STATE = 1 ∧ t.closeAfter err = 4096 then
        .next ((v.wr F.DECIM_TRKSTAT_STATE 2).ev A.DECIM_EVENT 19)
      else if s.rd F.DECIM_TRKSTAT_STATE = 2 ∧ 65536 < err.natAbs * 4 then
        .next ((v.ev A.DECIM_EVENT 20).trackerAcquire t.decim.seed)
      else .next v := by
  subst hr
  have hacts : ¬ (s.rd F.DECIM_TRKSTAT_STATE ≠ 1 ∧ s.rd F.DECIM_TRKSTAT_STATE ≠ 2) := by omega
  exact if_neg (by simp [h, hacts])

/-- After a tick in ACQUIRING the loop has its new accumulator, and 4096 close samples show LOCKED and event bit 19. -/
theorem execRatioTrackerTick_locks (hs : s.rd F.DECIM_TRKSTAT_STATE = 1) :
    ∃ t, execRatioTrackerTick err s = .next t ∧ t.decim.loopAcc = r.2 ∧ t.decim.close ≤ 4096 ∧
      (4096 ≤ t.decim.close → t.rd F.DECIM_TRKSTAT_STATE = 2 ∧ t.evOn A.DECIM_EVENT 19 = true) := by
  have hle := (s.ratioMoved r.1 err).closeAfter_le err
  rw [execRatioTrackerTick_acts h hr (.inl hs)]
  by_cases hc : (s.ratioMoved r.1 err).closeAfter err = 4096
  · refine ⟨_, if_pos ⟨hs, hc⟩, rfl, hle, fun _ => ⟨?_, State.evOn_ev _ _ _ (by decide)⟩⟩
    rw [State.ev, State.rd_wr_ne _ (by decide), State.rd_wr_self _ _ _ (by decide)]
    rfl
  · have hlocked : ¬ (s.rd F.DECIM_TRKSTAT_STATE = 2 ∧ 65536 < err.natAbs * 4) := by omega
    exact ⟨_, (if_neg fun ⟨_, hn⟩ => hc hn).trans (if_neg hlocked), rfl, hle, fun hge => absurd (Nat.le_antisymm hle hge) hc⟩

/-- A tick in LOCKED with a phase error of more than a quarter sample acquires afresh from the last seed. -/
theorem execRatioTrackerTick_unlocks (hs : s.rd F.DECIM_TRKSTAT_STATE = 2) (hfar : 65536 < err.natAbs * 4) :
    let t := s.ratioMoved r.1 err
    execRatioTrackerTick err s = .next (((t.setTrackLoop 0 r.2).ev A.DECIM_EVENT 20).trackerAcquire t.decim.seed) := by
  intro t
  rw [execRatioTrackerTick_acts h hr (.inr hs), if_neg (by omega), if_pos ⟨hs, hfar⟩, t.closeAfter_far hfar]

end

/-! ### Resets (R282 to R284) -/

theorem execDecimReset_taken {j : BitVec 32} (hj : s.decim.resetAt = some j) (h : s.decim.started = true)
    (hb : s.on F.SYS_BLKRST_DECIM = false) :
    execDecimReset s =
      .next ((({ s with decim := { s.decim with resetAt := none } }.decimClear.settleAll).setReg A.DECIM_SYNCSTAT j).ev
        A.DECIM_EVENT 17) := by
  have htaken : (s.decim.started && !s.on F.SYS_BLKRST_DECIM) = true := by rw [h, hb]; rfl
  simp only [execDecimReset, hj]
  exact if_pos htaken

theorem execDecimReset_discarded {j : BitVec 32} (hj : s.decim.resetAt = some j) (h : s.decim.started = false) :
    execDecimReset s =
      .next ((({ s with decim := { s.decim with resetAt := none } } : State).bump F.DECIM_CNT_SYNC_DISCARDED).ev
        A.DECIM_EVENT 18) := by
  simp only [execDecimReset, hj, h, Bool.false_and, Bool.false_eq_true, if_false]

/-! ### Threshold units (R286) -/

theorem State.thrWrite_hi {v : Word} (h : s.rdI (F.DECIM_THRu_LO_LEVEL u) ≤ v.toInt) :
    s.thrWrite u 1 v = s.setReg (A.DECIM_THRu_HI u) v := if_neg (Int.not_lt.mpr h)

theorem State.thrWrite_hi_belowLo {v : Word} (h : v.toInt < s.rdI (F.DECIM_THRu_LO_LEVEL u)) :
    s.thrWrite u 1 v = s.bump F.DECIM_CNT_WR_REFUSED := if_pos h

/-- An enabled unit refuses every change of CFG beside EN. -/
theorem State.thrWrite_cfg_enabled {v : Word} (he : s.on (F.DECIM_THRu_CFG_EN u) = true)
    (hv : v &&& 0xEFFF333F &&& 0x7FFFFFFF ≠ s.reg (A.DECIM_THRu_CFG u) &&& 0x7FFFFFFF) :
    s.thrWrite u 0 v = s.bump F.DECIM_CNT_WR_REFUSED := if_pos (by rw [he]; exact bne_iff_ne.mpr hv)

/-! ### Auxiliary paths (R265, R270) -/

/-- A write that keeps COMP is taken, and one that clears EN empties the path. -/
theorem State.auxPathWrite_off {v : Word} (hc : getField v 16 4 = getField (s.reg (A.DECIM_PATHk_CFG k)) 16 4)
    (he : v.getLsbD 31 = false) :
    s.auxPathWrite k v =
      (((s.setReg (A.DECIM_PATHk_CFG k) (v &&& 0x800F001F)).pathSuppress k 0).setPath k PathSt.reset).pathRemain k 0 :=
  (if_neg fun ⟨hn, _⟩ => hn hc).trans (if_pos (by rw [he]; rfl))

/-- Settles O39: each clause is one branch of its command; a write reaches its operation behind a running island. -/
theorem decimationAndThresholds : Obligations.DecimationAndThresholds := by
  unfold Obligations.DecimationAndThresholds
  refine ⟨fun s h => congrArg Host.Outcome.next (if_pos h),
    fun k s hs hr => congrArg Host.Outcome.next (State.pathSettled_passed hs hr), fun err s h hs => ?acquiring,
    fun err r s h hs hfar hr => execRatioTrackerTick_unlocks h hr hs hfar,
    fun err s h => execRatioTrackerTick_idle h err, fun j s hj h hb => execDecimReset_taken hj h hb,
    fun j s hj h => execDecimReset_discarded hj h,
    fun u v s hr h => next_reach_running hr (State.thrWrite_hi h),
    fun u v s hr h => next_reach_running hr (State.thrWrite_hi_belowLo h),
    fun u v s hr he hv => next_reach_running hr (State.thrWrite_cfg_enabled he hv),
    fun k v s hr hc he => next_reach_running hr (State.auxPathWrite_off hc he)⟩
  case acquiring =>
    obtain ⟨t, hnext, hloop⟩ := execRatioTrackerTick_locks h rfl hs
    exact ⟨t, hnext, _, rfl, hloop⟩

end Sys2Proof.Machine
end

section
/-!
PROOFS. Speaker protection and load diagnostics: clamp ceilings, set switches, quick checks, sweeps, boot diagnostics, tracking
and standby findings (R290 to R324).
-/

namespace Sys2Proof.Machine

open Sys2Proof

variable {s : State} {o : Nat}

/-! ### Ceilings and set switches (R294, R306) -/

section
variable {clamp v : Nat}

theorem State.clampWrite_lowers (hc : clamp ≠ 1) (h : v ≤ s.rd (ceilingField o clamp)) :
    s.clampWrite o clamp v = s.wr (ceilingField o clamp) v := by
  simp only [State.clampWrite, hc, h, if_true, if_false]

theorem State.clampWrite_raises (hc : clamp ≠ 1) (h : s.rd (ceilingField o clamp) < v) :
    s.clampWrite o clamp v = (s.bump F.GUARD_RAISECNT_COUNT).ev (A.GUARD_OUTo_EVENT o) 11 := by
  simp only [State.clampWrite, hc, Nat.not_le.mpr h, if_false]

/-- A current ceiling stays at 10 or above. -/
theorem State.clampWrite_current_lowers (h : max 10 v ≤ s.rd (F.GUARD_OUTo_ICLAMP_A o)) :
    s.clampWrite o 1 v = s.wr (F.GUARD_OUTo_ICLAMP_A o) (max 10 v) := if_pos h

end

/-- The ceilings but that of the current take the whole word. -/
theorem execClampCeilingWrite_notCurrent {o : Fin 16} {clamp : Fin 4} (hc : clamp.val ≠ 1) (v : BitVec 16) :
    execClampCeilingWrite o clamp v s = .next (s.clampWrite o clamp v.toNat) :=
  congrArg (fun x => Host.Outcome.next (s.clampWrite o clamp x)) (if_neg fun h => hc (congrArg Fin.val h))

theorem execSetSwitched_due {o : Fin 16} {e : List (BitVec 8)} (he : s.guardEntry o = some e)
    (hd : (s.grd o).fallbackDue = true) (hid : u16 e 4 ≠ 0) (hf : s.on (F.GUARD_OUTo_STAT_FALLBACK o) = false) :
    execSetSwitched o s =
      .next ((((s.setGrd o { s.grd o with fallbackDue := false }).takeSet o (u16 e 4)).wr
        (F.GUARD_OUTo_STAT_FALLBACK o) 1).ev (A.GUARD_OUTo_EVENT o) 9) := by
  have hswitch : ((s.grd o).fallbackDue && u16 e 4 != 0 && !s.on (F.GUARD_OUTo_STAT_FALLBACK o)) = true := by
    rw [hd, hf, bne_iff_ne.mpr hid]; rfl
  simp only [execSetSwitched, he]
  exact congrArg Host.Outcome.next (if_pos hswitch)

/-- Without an assignment, or with no switch due, the set stays. -/
theorem execSetSwitched_idle {o : Fin 16} (h : s.guardEntry o = none ∨ (s.grd o).fallbackDue = false) :
    execSetSwitched o s = .next s := by
  cases he : s.guardEntry o with
  | none => simp only [execSetSwitched, he]
  | some e =>
    have hd : (s.grd o).fallbackDue = false := h.resolve_left (by simp [he])
    simp only [execSetSwitched, he, hd, Bool.false_and, Bool.false_eq_true, if_false]

/-! ### Operations of DIAG_CMD (R315, R317, R318) -/

/-- What a quick check and a sweep do with a mask: of the outputs it names those in no state for it are refused, the others are one
job and begin. -/
def State.diagOperation (s : State) (op : Nat) (mask : BitVec 16) (ready : Nat → Bool) (start : Nat → State → State) : State :=
  ((s.newJob op mask ((named mask).filter ready)).forEach ((named mask).filter fun o => !ready o)
    fun o t => t.diagRefused o).forEach ((named mask).filter ready) start

/-- Output `o` is in a state for a quick check (R315). -/
def State.quickReady (s : State) (o : Nat) : Bool := decide (s.oState o = oOff) && decide ((s.out o).chans ≠ [])

/-- Output `o` is in a state for a sweep (R318). -/
def State.sweepReady (s : State) (o : Nat) : Bool :=
  decide (s.oState o = oOff ∨ s.oState o = oMuted) && decide ((s.out o).chans ≠ []) && (s.sweep o).isNone && !s.fastOff o

/-- A sweep as it begins: at once, or once the output is MUTED. -/
def sweepBegun (starting : Bool) : Sweep :=
  { pts := [], frames := [], again := false, starting := starting, paused := false, dryfit := false }

theorem State.cmdQuick_eq (s : State) (mask : BitVec 16) :
    s.cmdQuick mask = s.diagOperation 1 mask s.quickReady fun o t =>
      (t.setOut o { t.out o with post := false }).askCheck o (t.checkChans o) true := rfl

theorem State.cmdSweep_eq (s : State) (mask : BitVec 16) :
    s.cmdSweep mask = s.diagOperation 2 mask s.sweepReady fun o t =>
      let off := decide (t.oState o = oOff)
      if off then (t.setSweep o (some (sweepBegun off))).outToward o else t.setSweep o (some (sweepBegun off)) := rfl

section
variable {op : Nat} {mask : BitVec 16} {ready : Nat → Bool}

/-- An operation that no output is ready for only refuses. -/
theorem State.diagOperation_refused (h : ∀ o < 16, ready o = false) (start : Nat → State → State) :
    s.diagOperation op mask ready start = s.forEach (named mask) fun o t => t.diagRefused o := by
  have hnone : (named mask).filter ready = [] :=
    List.filter_eq_nil_iff.mpr fun o ho => ne_true_of_eq_false (h o (lt_of_mem_named ho))
  have hall : (named mask).filter (fun o => !ready o) = named mask :=
    List.filter_eq_self.mpr fun o ho => by rw [h o (lt_of_mem_named ho)]; rfl
  rw [State.diagOperation, hnone, hall]
  rfl

/-- The mask of one output names that output. -/
theorem named_single : ∀ o : Fin 16, named (BitVec.ofNat 16 (2 ^ o.val)) = [o.val] := by decide

/-- An operation for one output that is ready for it begins there. -/
theorem State.diagOperation_single {o : Fin 16} (hm : mask = BitVec.ofNat 16 (2 ^ o.val)) (h : ready o = true)
    (start : Nat → State → State) :
    s.diagOperation op mask ready start = start o (s.newJob op mask [o.val]) := by
  have hn : named mask = [o.val] := hm ▸ named_single o
  have hgo : [o.val].filter ready = [o.val] := List.filter_cons_of_pos h
  have hno : [o.val].filter (fun o => !ready o) = [] := List.filter_cons_of_neg (by rw [h]; decide)
  rw [State.diagOperation, hn, hgo, hno]
  rfl

end

theorem State.quickReady_iff : s.quickReady o = true ↔ s.oState o = oOff ∧ (s.out o).chans ≠ [] := by
  simp [State.quickReady]

theorem State.sweepReady_unbound (h : (s.out o).chans = []) : s.sweepReady o = false := by
  simp [State.sweepReady, h]

theorem State.sweepReady_muted (hs : s.oState o = oMuted) (hc : (s.out o).chans ≠ []) (hw : s.sweep o = none)
    (hf : s.fastOff o = false) : s.sweepReady o = true := by
  simp [State.sweepReady, hs, hc, hw, hf]

/-- A new job is no movement. -/
@[simp] theorem State.oState_newJob (op : Nat) (mask : BitVec 16) (go : List Nat) :
    (s.newJob op mask go).oState o = s.oState o := by
  unfold State.newJob
  split <;> rfl

/-- A muted output sweeps at once. -/
theorem State.cmdSweep_muted {o : Fin 16} {mask : BitVec 16} (hm : mask = BitVec.ofNat 16 (2 ^ o.val)) (hs : s.oState o = oMuted)
    (hc : (s.out o).chans ≠ []) (hw : s.sweep o = none) (hf : s.fastOff o = false) :
    s.cmdSweep mask = (s.newJob 2 mask [o.val]).setSweep o (some (sweepBegun false)) := by
  have hoff : decide ((s.newJob 2 mask [o.val]).oState o = oOff) = false := by rw [State.oState_newJob, hs]; rfl
  rw [State.cmdSweep_eq, State.diagOperation_single hm (State.sweepReady_muted hs hc hw hf)]
  simp only [hoff, Bool.false_eq_true, if_false]

/-! ### Quick checks (R314, R315) -/

/-- A check takes its slots, and the bridges of its channels measure. -/
theorem execQuickCheckStart_fits {q : QuickCheck}
    (hq : s.diag.waiting.find? (fun q => q.chans.all (fun c => !s.calibrating c)) = some q)
    (hfit : s.diag.running.foldl (fun n x => n + x.drives) 0 + q.drives ≤ 8) :
    execQuickCheckStart s =
      .next (({ s with diag := { s.diag with waiting := s.diag.waiting.filter (fun x => x.out != q.out),
                                             running := s.diag.running ++ [q] } } : State).forEach q.chans
        (fun c t => t.wr (F.MOD_CHc_STAT_BRIDGE c) 3)).diagStat := by
  simp only [execQuickCheckStart, hq]
  exact if_neg (Nat.not_lt.mpr hfit)

theorem State.quickDone_notRunning (h : s.diag.running.find? (fun q => q.out == o) = none) (rs : List DcMeas) :
    s.quickDone o rs = s := by
  simp only [State.quickDone, h]

/-- A channel with its senses that no measurement came for is ABORTED (R311). -/
theorem State.dcFrom_aborted {c : Nat} {rs : List DcMeas} (hm : measOf rs c = none) (hn : s.noSense c = false) :
    s.dcFrom rs c = (10, 0xFFFF, 1) := by
  simp [State.dcFrom, hm, hn]

/-- Without a measurement there are no pin flags to write. -/
theorem State.dcWrite_noMeas {c : Nat} {rs : List DcMeas} (hm : measOf rs c = none) (code r conf : Nat) :
    s.dcWrite rs c (code, r, conf) = s.dcResult c code r conf := by
  simp only [State.dcWrite, hm]

/-- The results of a check go to its channels, each of which turns off (R314). -/
def State.quickWrite (s : State) (rs : List DcMeas) (res : List (Nat × Nat × Nat × Nat)) : State :=
  s.forEach res fun x t => ((t.dcWrite rs x.1 x.2).when (x.2.1 != 10) fun t => t.setChecked x.1).bridgeOff x.1

/-- The check of output `o` that nobody commanded has not passed: it runs no more and is reported, and the output goes on (R191). -/
def State.quickFailed (s : State) (o : Nat) : State :=
  ((({ s with diag := { s.diag with running := s.diag.running.filter (fun x => x.out != o) } } : State).diagStat.ev
    (A.DIAG_OUTo_EVENT o) 0).ev (A.DIAG_OUTo_EVENT o) 1).checkEnded o false false

/-- One channel that does not pass fails the check of its output. -/
theorem State.quickDone_failed {q : QuickCheck} {rs : List DcMeas} (hq : s.diag.running.find? (fun q => q.out == o) = some q)
    (hc : q.commanded = false) (hf : (s.quickResults q.chans rs).all (fun x => dcPasses x.2.1) = false) :
    s.quickDone o rs = (s.quickWrite rs (s.quickResults q.chans rs)).quickFailed o := by
  unfold State.quickDone
  rw [hq]
  dsimp only
  rw [hf, hc]
  rfl

/-- An aborted measurement is no completed check. -/
theorem State.quickWrite_aborted {c : Nat} {rs : List DcMeas} (hm : measOf rs c = none) :
    s.quickWrite rs [(c, 10, 0xFFFF, 1)] = (s.dcResult c 10 0xFFFF 1).bridgeOff c := by
  calc s.quickWrite rs [(c, 10, 0xFFFF, 1)]
    _ = ((s.dcWrite rs c (10, 0xFFFF, 1)).when (10 != 10) fun t => t.setChecked c).bridgeOff c := by
      rw [State.quickWrite, State.forEach, List.foldl_cons, List.foldl_nil]
    _ = (s.dcResult c 10 0xFFFF 1).bridgeOff c := by
      rw [bne_self_eq_false, State.when_false, State.dcWrite_noMeas hm]

/-- The aborted measurement of its one channel fails a check. -/
theorem State.quickDone_aborted {c : Nat} {rs : List DcMeas}
    (hq : s.diag.running.find? (fun q => q.out == o) = some { out := o, chans := [c], drives := 1, commanded := false })
    (hm : measOf rs c = none) (hn : s.noSense c = false) :
    s.quickDone o rs = ((s.dcResult c 10 0xFFFF 1).bridgeOff c).quickFailed o := by
  have hres : s.quickResults [c] rs = [(c, 10, 0xFFFF, 1)] := by
    simp only [State.quickResults, List.map_cons, List.map_nil, State.dcFrom_aborted hm hn]
  rw [State.quickDone_failed hq rfl (by rw [hres]; rfl), hres, State.quickWrite_aborted hm]

/-! ### Sweeps (R319, R321) -/

section
variable {w : Sweep}

/-- What the measurement of the point in progress finds, once its frames have come. -/
def State.sweepFinds (s : State) (o : Nat) (w : Sweep) : Option (SweepPt × Bool) :=
  sweepMeasure (sweepFreq s.diagGlobal w.pts.length) s.fa (s.filterCap (if w.dryfit = true then s.chanOutput o else o))
    w.frames.reverse

theorem State.sweepPoint_incomplete (hw : s.sweep o = some w) (hst : w.starting = false) (hp : w.paused = false)
    (h : s.sweepFinds o w = none) : s.sweepPoint o = s := by
  unfold State.sweepFinds at h
  simp only [State.sweepPoint, hw, hst, hp, h, Bool.false_eq_true, or_self, if_false]

/-- A measurement that is not sound is made again, once. -/
theorem State.sweepPoint_again (hw : s.sweep o = some w) (hst : w.starting = false) (hp : w.paused = false)
    (h : (s.sweepFinds o w).map (fun x => x.2) = some false) (ha : w.again = false) :
    s.sweepPoint o = s.setSweep o (some { w with frames := [], again := true }) := by
  obtain ⟨⟨p, sound⟩, hx, hsound⟩ := Option.map_eq_some_iff.mp h
  subst hsound
  unfold State.sweepFinds at hx
  simp only [State.sweepPoint, hw, hst, hp, hx, ha, Bool.false_eq_true, or_self, if_false, Bool.not_false, Bool.and_self, if_true]

/-- A measurement that stands adds its point while points remain. -/
theorem State.sweepPoint_adds {x : SweepPt × Bool} (hw : s.sweep o = some w) (hst : w.starting = false) (hp : w.paused = false)
    (h : s.sweepFinds o w = some x) (hstands : x.2 = true ∨ w.again = true) (hn : w.pts.length + 1 < u8 s.diagGlobal 10) :
    s.sweepPoint o = s.setSweep o (some { w with pts := w.pts ++ [x.1], frames := [], again := false }) := by
  obtain ⟨p, sound⟩ := x
  have hkeep : (!sound && !w.again) = false := by
    rcases hstands with hs | ha
    · rw [show sound = true from hs]; rfl
    · rw [ha]; exact Bool.and_false _
  have hmore : (w.pts ++ [p]).length < u8 s.diagGlobal 10 := List.length_append ▸ hn
  unfold State.sweepFinds at h
  simp only [State.sweepPoint, hw, hst, hp, h, hkeep, hmore, Bool.false_eq_true, or_self, if_false, if_true]

theorem execSweepResume_granted {o : Fin 16} (hw : s.sweep o = some w) (hp : w.paused = true) :
    execSweepResume o true s = .next (s.setSweep o (some { w with paused := false })) := by
  simp only [execSweepResume, hw, hp, Bool.not_true, Bool.false_eq_true, if_false, if_true]

theorem execSweepResume_denied {o : Fin 16} (hw : s.sweep o = some w) (hp : w.paused = true) :
    execSweepResume o false s = .next ((s.sweepAbort o).outToward o) := by
  simp only [execSweepResume, State.sweepStop, hw, hp, Bool.not_true, Bool.false_eq_true, if_false, Option.isSome_some, if_true]

end

/-! ### Boot diagnostics (R312) -/

theorem execBootDcDiagStart_due (hfw : s.boot.firmware = true) (hcal : s.on F.SENSE_STAT_BOOTCAL_DONE = true)
    (hdone : s.on F.DIAG_STAT_BOOT_DONE = false) (hrun : s.diag.boot = false) :
    execBootDcDiagStart s =
      .next (({ s with diag := { s.diag with boot := true } } : State).diagCfg.forAll 16 (fun c t =>
        if t.on (F.MOD_CHc_STAT_FENCED c) then t else t.wr (F.MOD_CHc_STAT_BRIDGE c) 3)) :=
  congrArg Host.Outcome.next (if_pos (by rw [hfw, hcal, hdone, hrun]; rfl))

theorem execBootDcDiagDone_idle (h : s.diag.boot = false) (rs : List DcMeas) : execBootDcDiagDone rs s = .next s :=
  congrArg Host.Outcome.next (if_pos (by rw [h]; rfl))

/-- The findings and results are written, the binding is decided and bound outputs are muted. -/
theorem execBootDcDiagDone_running (h : s.diag.boot = true) (rs : List DcMeas) :
    execBootDcDiagDone rs s =
      .next ((fun t : State => (t.wr F.DIAG_STAT_BOOT_DONE 1).bindAll.bootMute)
        ((({ s with diag := { s.diag with boot := false, disagree := [] } } : State).forAll 8
          (fun p u => u.joinFinding p rs)).forAll 16 (fun c u =>
            if u.on (F.MOD_CHc_STAT_FENCED c) then u
            else ((u.dcWrite rs c (u.dcFrom rs c)).when ((u.dcFrom rs c).1 != 10) (fun v => v.setChecked c)).bridgeOff c))) :=
  congrArg Host.Outcome.next (if_neg (by rw [h]; decide))

/-- Settles O40: each clause is one branch of its command; a quick check and a sweep are one operation on the outputs named. -/
theorem protectionAndDiagnostics : Obligations.ProtectionAndDiagnostics := by
  unfold Obligations.ProtectionAndDiagnostics
  refine ⟨fun o clamp v s hc h => (execClampCeilingWrite_notCurrent hc v).trans
      (congrArg Host.Outcome.next (State.clampWrite_lowers hc h)),
    fun o clamp v s hc h => (execClampCeilingWrite_notCurrent hc v).trans
      (congrArg Host.Outcome.next (State.clampWrite_raises hc h)),
    fun o v s h => congrArg Host.Outcome.next (State.clampWrite_current_lowers h),
    fun o e s he hd hid hf => execSetSwitched_due he hd hid hf, fun o s h => execSetSwitched_idle h, fun o s => rfl,
    fun mask s h => congrArg Host.Outcome.next ?quickRefused, fun o mask s hm hs hc => congrArg Host.Outcome.next ?quickBegins,
    fun mask s h => congrArg Host.Outcome.next ?sweepRefused,
    fun o mask s hm hs hc hw hf => congrArg Host.Outcome.next (State.cmdSweep_muted hm hs hc hw hf), fun mask s => rfl,
    fun q s hq hfit => execQuickCheckStart_fits hq hfit,
    fun o rs s h => congrArg Host.Outcome.next (State.quickDone_notRunning h rs),
    fun o c rs s hq hm hn => congrArg Host.Outcome.next (State.quickDone_aborted hq hm hn),
    fun s hfw hcal hdone hrun => execBootDcDiagStart_due hfw hcal hdone hrun, fun rs s h => execBootDcDiagDone_idle h rs,
    fun rs s h => execBootDcDiagDone_running h rs,
    fun o w s hw hst hp h => congrArg Host.Outcome.next (State.sweepPoint_incomplete hw hst hp h),
    fun o w s hw hst hp h ha => congrArg Host.Outcome.next (State.sweepPoint_again hw hst hp h ha),
    fun o w x s hw hst hp h hx hn => congrArg Host.Outcome.next (State.sweepPoint_adds hw hst hp h hx hn),
    fun o w s hw hp => execSweepResume_granted hw hp, fun o w s hw hp => execSweepResume_denied hw hp,
    fun o s h => congrArg Host.Outcome.next (if_pos h),
    fun o s h => congrArg Host.Outcome.next (if_neg (ne_true_of_eq_false h)), fun fs s hm hp => if_pos ⟨hm, hp⟩⟩
  case quickRefused =>
    rw [State.cmdQuick_eq]
    exact State.diagOperation_refused (fun o ho => eq_false_of_ne_true fun hr => h o ho (State.quickReady_iff.mp hr)) _
  case quickBegins =>
    rw [State.cmdQuick_eq]
    exact State.diagOperation_single hm (State.quickReady_iff.mpr ⟨hs, hc⟩) _
  case sweepRefused =>
    rw [State.cmdSweep_eq]
    exact State.diagOperation_refused (fun o ho => State.sweepReady_unbound (h o ho)) _

end Sys2Proof.Machine
end

section
/-!
PROOFS. The PVDD converter: its soft start, demands and the look-ahead timeout, limits and phases, protection and restart, and the
thresholds of VBAT (R328, R337, R339 to R344).
-/

namespace Sys2Proof.Machine

open Sys2Proof

variable {s : State}

/-! ### The soft start (R339) -/

/-- A converter that switches is enabled. -/
theorem State.enabled_of_pvddRuns (h : s.pvddRuns = true) : s.pmu.enabled.getLsbD rPvdd = true := by
  simp only [State.pvddRuns, Bool.and_eq_true] at h
  obtain ⟨⟨⟨⟨he, _⟩, _⟩, _⟩, _⟩ := h
  exact he

/-- A converter that is off, or follows its demands already, ends no soft start. -/
theorem State.pvddReady_idle (h : s.pmu.enabled.getLsbD 7 = false ∨ s.pmu.follow = true) : s.pvddReady = s :=
  if_pos (by rcases h with h | h <;> simp [h])

/-- V_C and V_T stand at the static level as the soft start ends, and the queued demands are applied. -/
theorem State.pvddReady_starting (hr : s.pvddRuns = true) (hf : s.pmu.follow = false) :
    let t : State := { s with pmu := { s.pmu with follow := true, vcFrom := s.rd F.PMU_PVDD_STATIC_VOLTS, vcTime := s.now,
                                                  vT := s.rd F.PMU_PVDD_STATIC_VOLTS, pvddOk := !s.pmu.pvddLost,
                                                  soft := s.pmu.soft ||| railMask rPvdd } }
    s.pvddReady = (t.railReady rPvdd).pvddTarget.outputsKick :=
  if_neg (by simp [State.enabled_of_pvddRuns hr, hf, hr])

/-! ### Demands (R340, R341) -/

section
variable {b : List Demand} {rest : List (List Demand)} (late : Nat)

/-- A batch that the queue has no room for is discarded whole, and each of its demands is counted (the model's choice,
log entry 116). -/
theorem execLaBatchArrive_discarded (hb : s.dsp.laSent = b :: rest) (hfull : 128 < s.pmu.queue.length + b.length) :
    execLaBatchArrive late s =
      .next ((({ s with dsp := { s.dsp with laSent := rest } } : State).demandsLate b.length).pvddTarget) := by
  simp only [execLaBatchArrive, hb, hfull, if_true]

/-- A batch that fits joins the queue, the late demands at its head active. -/
theorem execLaBatchArrive_fits (hb : s.dsp.laSent = b :: rest) (hfit : s.pmu.queue.length + b.length ≤ 128) :
    let t := ({ s with dsp := { s.dsp with laSent := rest } } : State).setDemands (s.pmu.queue ++
      (b.take (min late b.length)).map (fun d => (d, true)) ++ (b.drop (min late b.length)).map (fun d => (d, false)))
    execLaBatchArrive late s = .next ((({ t with pmu := { t.pmu with laStatic := false } } : State).demandsLate
      (min late b.length)).pvddTarget) := by
  simp only [execLaBatchArrive, hb, Nat.not_lt.mpr hfit, if_false]

end

theorem execDemandActive_waiting (h : s.pmu.queue.all (fun d => d.2) = false) :
    execDemandActive s = .next (s.setDemands (activateFirst s.pmu.queue)).pvddTarget :=
  congrArg Host.Outcome.next (if_neg (ne_true_of_eq_false h))

theorem execDemandExpired_queued (h : s.pmu.queue ≠ []) :
    execDemandExpired s = .next (s.setDemands s.pmu.queue.tail).pvddTarget :=
  congrArg Host.Outcome.next (if_neg h)

theorem execLaTimeout_silent (h : s.laSilent = true) :
    execLaTimeout s = .next (((({ s with pmu := { s.pmu with laStatic := true } } : State).ev A.PMU_EVENT
      6).pvddTarget).scaleStatic) :=
  congrArg Host.Outcome.next (if_pos h)

theorem execLaTimeout_heard (h : s.laSilent = false) : execLaTimeout s = .next s :=
  congrArg Host.Outcome.next (if_neg (ne_true_of_eq_false h))

/-! ### Limits and phases (R342, R343) -/

/-- A limit episode of cause `cause` begins: it is flagged and counted by the supply and by the governor (R363). -/
def State.limitBegins (s : State) (cause : BitVec 4) : State :=
  ((((s.wr F.PMU_PVDD_STAT2_CAUSE cause.toNat).ev A.PMU_EVENT 4).bump F.PMU_CNT_PVDD_LIMITED).bump
    F.GOV_CNT_PVDD_EPISODES).ev A.GOV_EVENT 10

section
variable {cause : BitVec 4} (power : BitVec 16)

/-- An episode is over: its causes are cleared, and nothing else. -/
theorem execPvddLimited_over : execPvddLimited 0 power s = .next (s.wr F.PMU_PVDD_STAT2_CAUSE 0) := by
  rw [execPvddLimited, if_pos (Or.inl rfl), if_pos rfl]
  rfl

/-- An episode without the charger among its causes begins; the governor takes its power where the phases or VSYS limit. -/
theorem execPvddLimited_begins (hc : cause ≠ 0) (hchg : cause.getLsbD 0 = false) (hr : s.pvddRuns = true) :
    execPvddLimited cause power s = .next (if cause.getLsbD 1 || cause.getLsbD 2
      then { s.limitBegins cause with gov := { (s.limitBegins cause).gov with limitedAt := some power.toNat } }
      else s.limitBegins cause) := by
  have hgo : ¬ (cause = 0 ∨ (!s.pvddRuns) = true) := not_or_intro hc (by rw [hr]; decide)
  rw [execPvddLimited, if_neg hgo]
  simp only [hchg, Bool.false_and, Bool.false_eq_true, if_false]
  rfl

end

theorem execPhaseShed_enabled (amps : Nat) (hr : s.pvddRuns = true) (hs : s.on F.PMU_PVDD_CFG_SHED_EN = true) :
    execPhaseShed amps s = .next (s.wr F.PMU_PVDD_STAT2_PHASES (s.phasesAt amps)) :=
  congrArg Host.Outcome.next (if_pos (by rw [hr, hs]; rfl))

/-! ### Overcurrent (R344) -/

/-- Two periods with a phase above its limit stop the converter: V_C falls to 0 (the model's choice, log entry 115), and
the time of the stop is kept. -/
def State.ocpStop (s : State) (again : Bool) : State :=
  (({ s with pmu := { s.pmu with ocp := true, pvddFail := again, follow := false, vcFrom := 0, vcTime := s.now, vT := 0,
                                 soft := s.pmu.soft &&& ~~~ railMask rPvdd,
                                 ocpTimes := s.recent s.pmu.ocpTimes 1000000 ++ [s.now] } } : State).ev A.PMU_EVENT
    8).pvddStat.pvddOut

section
variable {first second : Nat}

/-- The currents of two periods, of which the smaller is above the limit, stop a converter that switches; the second stop in a
second is a lasting fault. -/
theorem execPvddOcp_trips (hr : s.pvddRuns = true) (h : 15 * s.rd F.PMU_ILIM_PH_ILIM < min first second) {again : Bool}
    (ha : decide (s.recent s.pmu.ocpTimes 1000000 ≠ []) = again) :
    execPvddOcp first second s =
      .next (if again then ((s.ocpStop again).ev A.PMU_EVENT 11).raise 0xA rPvdd 4 0 true else s.ocpStop again) := by
  subst ha
  have hgo : ¬ (!s.pvddRuns || decide (min first second ≤ 15 * s.rd F.PMU_ILIM_PH_ILIM)) = true := by
    rw [hr, decide_eq_false (Nat.not_le.mpr h)]; decide
  exact if_neg hgo

theorem execPvddOcp_below (h : min first second ≤ 15 * s.rd F.PMU_ILIM_PH_ILIM) : execPvddOcp first second s = .next s :=
  if_pos (by rw [decide_eq_true h, Bool.or_true])

end

/-- A stop that stands alone in its second keeps its own time alone. -/
theorem State.ocpStop_first (h : s.recent s.pmu.ocpTimes 1000000 = []) :
    s.ocpStop false =
      (({ s with pmu := { s.pmu with ocp := true, pvddFail := false, follow := false, vcFrom := 0, vcTime := s.now, vT := 0,
                                     soft := s.pmu.soft &&& ~~~ railMask rPvdd, ocpTimes := [s.now] } } : State).ev A.PMU_EVENT
        8).pvddStat.pvddOut := by
  rw [State.ocpStop, h, List.nil_append]

theorem execPvddOcpRestart_stopped (volts : BitVec 16) (ho : s.pmu.ocp = true) (hf : s.pmu.pvddFail = false)
    (he : s.pmu.enabled.getLsbD 7 = true) : execPvddOcpRestart volts s = .next (s.pvddStart volts.toNat) :=
  congrArg Host.Outcome.next (if_pos (by rw [ho, hf, he]; rfl))

/-! ### Overvoltage, undervoltage and the return into the window (R337, R344) -/

section
variable {volts : BitVec 16} {us : Nat}

/-- What lies above 56 V, or for 50 µs above the limit over V_C, is an overvoltage. -/
theorem execPvddOv_above (h : 56 * 1024 < volts.toNat ∨ 50 ≤ us ∧ s.overVc volts.toNat = true) :
    execPvddOv volts us s = .next s.pvddOv := by
  have hc : (decide (56 * 1024 < volts.toNat) || (decide (50 ≤ us) && s.overVc volts.toNat)) = true := by simpa using h
  rw [execPvddOv, hc, State.when_true]

theorem State.pvddOv_enabled (he : s.pmu.enabled.getLsbD 7 = true) (ho : s.pmu.ov = false) :
    s.pvddOv = ((({ s with pmu := { s.pmu with ov := true } } : State).pvddStat.ev A.PMU_EVENT 9).raise 0xA rPvdd 5 0
      false).pvddOut :=
  if_neg (by simp [he, ho])

/-- The limit over V_C holds what lies at it. -/
theorem State.overVc_eq_false (h : 10 * volts.toNat ≤ 10 * s.vcNow + max (30 * 1024) s.vcNow) :
    s.overVc volts.toNat = false :=
  decide_eq_false (Nat.not_lt.mpr h)

theorem execPvddOvCleared_inside (ho : s.pmu.ov = true) (h : s.overVc volts.toNat = false) :
    execPvddOvCleared volts s = .next (({ s with pmu := { s.pmu with ov := false } } : State).pvddStat) :=
  congrArg Host.Outcome.next (if_pos (by rw [ho, h]; rfl))

/-- Below 10 V for 50 µs a converter that follows its demands has an undervoltage. -/
theorem execPvddUv_below (hv : volts.toNat < 10 * 1024) (hu : 50 ≤ us) (he : s.pmu.enabled.getLsbD 7 = true)
    (hf : s.pmu.follow = true) : execPvddUv volts us s = .next (s.ev A.PMU_EVENT 10).pvddOut := by
  have huv : s.pvddUv = (s.ev A.PMU_EVENT 10).pvddOut := if_neg (by simp [he, hf])
  rw [execPvddUv, decide_eq_true hv, decide_eq_true hu, Bool.and_self, State.when_true, huv]

end

theorem execPvddWindowRestored_lost (hl : s.pmu.pvddLost = true) (hf : s.pmu.follow = true) (hr : s.pvddRuns = true) :
    execPvddWindowRestored s = .next ((((({ s with pmu := { s.pmu with pvddLost := false, pvddOk := true } } : State).setBit
      A.PMU_RAILSTAT rPvdd true).setBit A.PMU_SUPSTAT rPvdd false).setBit A.PMU_SUPSTAT (16 + rPvdd) false).outputsKick) :=
  congrArg Host.Outcome.next (if_pos (by rw [hl, hf, hr]; rfl))

theorem execPvddClockReturn_xtal (h : s.on F.SYS_CLKSTAT_XTAL_OK = true) :
    execPvddClockReturn s = .next (s.wr F.PMU_PVDD_STAT2_CLKFB 0) :=
  congrArg Host.Outcome.next (if_pos h)

/-! ### VBAT (R328) -/

/-- The falling threshold of VBAT_LOW, by the stage set that BOOTSEL names. -/
theorem State.vbatLow_falling (s : State) : s.vbatLow false = if s.boot.bootsel % 2 = 0 then 9000 else 36000 := rfl

theorem execVbatThreshold_low {mv : Nat} (h : mv = s.vbatLow false) :
    execVbatThreshold mv false s = .next (s.ev A.PMU_EVENT 28) :=
  congrArg Host.Outcome.next (if_pos (by rw [h]; exact beq_self_eq_true _))

/-- At 62 V, which is VBAT_LOW of neither stage set, the converter resumes. -/
theorem execVbatThreshold_resume : execVbatThreshold 62000 false s =
    .next (({ s with pmu := { s.pmu with vbatStop := false } } : State).pvddStat) := by
  have hlow : ((62000 : Nat) == s.vbatLow false) = false := by
    rw [State.vbatLow_falling]; split <;> rfl
  simp [execVbatThreshold, hlow]

/-- Settles O42: each clause is one branch of its command; a limit episode and an overcurrent stop are one operation each. -/
theorem pvddConverterAndDemands : Obligations.PvddConverterAndDemands := by
  unfold Obligations.PvddConverterAndDemands
  refine ⟨fun s h => congrArg Host.Outcome.next (State.pvddReady_idle h),
    fun s hr hf => congrArg Host.Outcome.next (State.pvddReady_starting hr hf),
    fun late b rest s => execLaBatchArrive_discarded late, fun late b rest s => execLaBatchArrive_fits late,
    fun s => execDemandActive_waiting, fun s => execDemandExpired_queued, fun s => execLaTimeout_silent,
    fun s => execLaTimeout_heard, fun cause power s hr hc => ?otherCause, fun cause power s hr hc => ?phaseCause,
    fun power s => execPvddLimited_over power, fun amps s => execPhaseShed_enabled amps,
    fun first second s hr h hn => ?firstStop, fun first second s hr h hn => execPvddOcp_trips hr h (decide_eq_true hn),
    fun first second s => execPvddOcp_below, fun volts s => execPvddOcpRestart_stopped volts,
    fun volts us s h he ho => (execPvddOv_above h).trans (congrArg Host.Outcome.next (State.pvddOv_enabled he ho)),
    fun volts s ho h => execPvddOvCleared_inside ho (State.overVc_eq_false h), fun volts us s => execPvddUv_below,
    fun s => execPvddWindowRestored_lost, fun s => execPvddClockReturn_xtal, fun mv s => execVbatThreshold_low,
    fun s => rfl, fun s => rfl, fun s => execVbatThreshold_resume⟩
  case otherCause =>
    subst hc
    exact execPvddLimited_begins power (by decide) rfl hr
  case phaseCause =>
    subst hc
    exact execPvddLimited_begins power (by decide) rfl hr
  case firstStop =>
    rw [← State.ocpStop_first hn]
    exact execPvddOcp_trips hr h (decide_eq_false (not_not_intro hn))

end Sys2Proof.Machine
end

section
/-!
PROOFS. The hold-up bank, standby entry and the wakes (R346 to R352, R417).
-/

namespace Sys2Proof.Machine

open Sys2Proof

variable {s : State}

/-! ### The bank (R346, R347) -/

theorem execBankReady_charging (h : s.holdState = 1) :
    execBankReady s = .next (((s.setHold 2).railReady rChg).ev A.PMU_EVENT 23) :=
  congrArg Host.Outcome.next (if_pos h)

theorem execChgFault_charged (h : s.holdState = 1 ∨ s.holdState = 2) :
    execChgFault s = .next ((s.chgStop.ev A.PMU_EVENT 24).raise 0xA rChg 6 0 true) :=
  congrArg Host.Outcome.next (if_pos h)

/-- The bank carries HOLDUP from READY, or from CHARGING 5 V above its floor. -/
theorem State.bankCarries_iff {hold : Nat} : s.bankCarries hold = true ↔
    s.holdState = 2 ∨ s.holdState = 1 ∧ s.rd F.PMU_HOLD_CFG_HU_FLOOR + 20 ≤ hold := by
  simp only [State.bankCarries, State.holdState, Bool.or_eq_true, Bool.and_eq_true, decide_eq_true_eq]

/-- HOLDUP is entered: flagged and counted, its time taken, and every output under the P0 rules of the governor (R367). -/
theorem execHoldupEnter_carried {hold : Nat} (h : s.bankCarries hold = true) :
    let t := ((s.setHold 3).ev A.PMU_EVENT 20).bump F.PMU_CNT_HU_ENTRIES
    execHoldupEnter hold s = .next ((((({ t with pmu := { t.pmu with huTime := t.now } } : State).forAll 16 (fun o u =>
      u.setGout o { u.gout o with hu := some ((u.gout o).hu.getD 0) })).wr F.PMU_HOLD_STAT_HU_ELAPSED 0).wr
      F.GOV_STATUS_HOLDUP 1).ev A.GOV_EVENT 12) :=
  congrArg Host.Outcome.next (if_pos h)

theorem execHoldupEnter_notCarried {hold : Nat} (h : ¬ s.bankCarries hold = true) : execHoldupEnter hold s = .next s :=
  congrArg Host.Outcome.next (if_neg h)

theorem execHoldupExit_holdup (h : s.holdState = 3) :
    execHoldupExit s = .next (((s.holdupLeave 1).ev A.PMU_EVENT 21).holdupEnded) :=
  congrArg Host.Outcome.next (if_pos h)

/-- A spent bank charges again. -/
theorem execHoldupExit_spent (h : s.holdState = 4) : execHoldupExit s = .next (s.setHold 1) := by
  have hnot : ¬ s.holdState = 3 := by omega
  rw [execHoldupExit, if_neg hnot, if_pos h]

theorem execHoldupSpent_holdup (h : s.holdState = 3) :
    execHoldupSpent s = .next (((s.holdupLeave 4).ev A.PMU_EVENT 22).holdupEnded) :=
  congrArg Host.Outcome.next (if_pos h)

/-! ### Standby requests (R348, R349) -/

/-- Outside HOLDUP a running device begins its standby entry at once. -/
theorem State.standbyRequest_enters (hm : s.pmu.mode = .run) (hh : s.holdState ≠ 3) : s.standbyRequest = s.standbyEnter := by
  rw [State.standbyRequest, if_neg (not_not_intro hm), if_neg hh]

/-- In HOLDUP the request waits for its end. -/
theorem State.standbyRequest_waits (hm : s.pmu.mode = .run) (hh : s.holdState = 3) :
    s.standbyRequest = ({ s with pmu := { s.pmu with stbyDue := true } } : State).ev A.PMU_EVENT 3 := by
  rw [State.standbyRequest, if_neg (not_not_intro hm), if_pos hh]

section
variable {v : Word}

theorem State.stbyctrlWrite_badKey (hk : getField v 16 16 ≠ 0x5342) : s.stbyctrlWrite v = s.bump F.PMU_CNT_REFUSED :=
  if_pos hk

/-- A WAKE pin that would wake the device at once refuses the request. -/
theorem State.stbyctrlWrite_pinActive (hk : getField v 16 16 = 0x5342) (hgo : v.getLsbD 0 = true) (hp : s.pmu.wakePin = true)
    (he : s.on F.PMU_WAKECFG_PIN_EN = true) : s.stbyctrlWrite v = (s.bump F.PMU_CNT_REFUSED).ev A.PMU_EVENT 2 := by
  simp [State.stbyctrlWrite, hk, hgo, hp, he]

theorem State.stbyctrlWrite_pinInactive (hk : getField v 16 16 = 0x5342) (hgo : v.getLsbD 0 = true)
    (hp : s.pmu.wakePin = false) : s.stbyctrlWrite v = s.standbyRequest := by
  simp [State.stbyctrlWrite, hk, hgo, hp]

end

theorem execStbyAuto_counted (ho : s.on F.PMU_WAKECFG_WAKE_OFF = true) (hc : s.pmu.wakeCount = true)
    (hd : s.sys.dieHeld = false) : execStbyAuto s = .next s.standbyRequest :=
  congrArg Host.Outcome.next (if_pos (by rw [ho, hc, hd]; rfl))

/-- Standby is reached once every rail is down and no wake is latched. -/
theorem execStbyCurrentReached_down (hm : s.pmu.mode = .entry) (hd : s.sys.dieHeld = true) (hn : s.pmu.down = [])
    (hw : s.pmu.wakeDue = 0) : execStbyCurrentReached s = .next { s with pmu := { s.pmu with mode := .standby } } := by
  rw [execStbyCurrentReached, if_pos ⟨hm, hd, hn⟩, if_neg (not_not_intro hw)]

/-! ### The WAKE configuration (R350, R351) -/

section
variable {v : Word}

/-- A configuration without a source, or without a debounce, is refused. -/
theorem State.wakecfgWrite_refused (h : getField v 0 3 = 0 ∨ getField v 8 8 = 0) :
    s.wakecfgWrite v = s.bump F.PMU_CNT_REFUSED :=
  if_pos h

theorem State.wakecfgWrite_taken (hsrc : getField v 0 3 ≠ 0) (hdeb : getField v 8 8 ≠ 0) :
    s.wakecfgWrite v = { s.setReg A.PMU_WAKECFG (v &&& 0x00FFFF07) with
      pmu := { s.pmu with wakeCfg := v &&& 0x00FFFF07, wakeCount := !s.pmu.wakePin } } :=
  if_neg (not_or_intro hsrc hdeb)

/-- A configuration that is taken is mirrored into AON and starts the WAKE_OFF count; no other register changes. -/
theorem execWakecfgWrite_taken (hsrc : getField v 0 3 ≠ 0) (hdeb : getField v 8 8 ≠ 0) :
    ∃ t, execWakecfgWrite v s = .next t ∧ t.reg A.PMU_WAKECFG = v &&& 0x00FFFF07 ∧ t.pmu.wakeCfg = v &&& 0x00FFFF07 ∧
      t.pmu.wakeCount = !s.pmu.wakePin ∧ t.outs = s.outs ∧ t.gov = s.gov ∧ t.mem = s.mem ∧
      ∀ a, a ≠ A.PMU_WAKECFG → t.reg a = s.reg a :=
  ⟨_, congrArg Host.Outcome.next (State.wakecfgWrite_taken hsrc hdeb), State.reg_setReg_self s _ _, rfl, rfl, rfl, rfl, rfl,
    fun _ ha => State.reg_setReg_ne s ha _⟩

end

/-! ### Wakes (R350, R417) -/

theorem execWakePinWake_enabled (h : s.pmu.wakeCfg.getLsbD 0 = true) :
    execWakePinWake s = .next (({ s with pmu := { s.pmu with wakePin := true, wakeCount := false } } : State).wake 1) :=
  congrArg Host.Outcome.next (if_pos h)

theorem execRingActivityWake_enabled (h : s.pmu.wakeCfg.getLsbD 2 = true) : execRingActivityWake s = .next (s.wake 4) :=
  congrArg Host.Outcome.next (if_pos h)

theorem State.wake_standby (src : Nat) (hm : s.pmu.mode = .standby) : s.wake src = s.wakeReset src := by
  simp only [State.wake, hm]

section
variable {addr : BitVec 7}

/-- The matcher wakes the device from standby and holds HB_SCL. -/
theorem execHostMatchWake_matches (he : s.pmu.wakeCfg.getLsbD 1 = true) (hm : s.pmu.mode = .standby)
    (ha : addr.toNat = s.hbus.matchAddr) :
    execHostMatchWake addr s = .next { s.wakeReset 2 with
      hbus := { (s.wakeReset 2).hbus with sclHeld := true, matched := true } } := by
  simp [execHostMatchWake, he, hm, ha, State.wake_standby]

theorem execHostMatchWake_other (h : addr.toNat ≠ s.hbus.matchAddr) : execHostMatchWake addr s = .next s :=
  congrArg Host.Outcome.next (if_neg (by simp [h]))

end

/-- Settles O43: each clause is one branch of its command, and a request of standby is one operation for the key and the pin. -/
theorem holdupStandbyAndWake : Obligations.HoldupStandbyAndWake := by
  unfold Obligations.HoldupStandbyAndWake
  exact ⟨fun s => execBankReady_charging, fun s => execChgFault_charged,
    fun hold s h => execHoldupEnter_carried (State.bankCarries_iff.mpr h),
    fun hold s hready hcharging => execHoldupEnter_notCarried fun hc => (State.bankCarries_iff.mp hc).elim hready
      fun ⟨hst, hfloor⟩ => Nat.not_lt.mpr hfloor (hcharging hst),
    fun s => execHoldupExit_holdup, fun s => execHoldupExit_spent, fun s => execHoldupSpent_holdup,
    fun v s hk => congrArg Host.Outcome.next (State.stbyctrlWrite_badKey hk),
    fun v s hk hgo hp he => congrArg Host.Outcome.next (State.stbyctrlWrite_pinActive hk hgo hp he),
    fun v s hk hgo hp hm hh => congrArg Host.Outcome.next
      ((State.stbyctrlWrite_pinInactive hk hgo hp).trans (State.standbyRequest_enters hm hh)),
    fun v s hk hgo hp hm hh => congrArg Host.Outcome.next
      ((State.stbyctrlWrite_pinInactive hk hgo hp).trans (State.standbyRequest_waits hm hh)),
    fun s => execStbyAuto_counted, fun s => execStbyCurrentReached_down,
    fun v s h => congrArg Host.Outcome.next (State.wakecfgWrite_refused h), fun v s => execWakecfgWrite_taken,
    fun on s => rfl, fun s => execWakePinWake_enabled, fun s => execRingActivityWake_enabled,
    fun addr s => execHostMatchWake_matches, fun addr s => execHostMatchWake_other, fun s => rfl⟩

end Sys2Proof.Machine
end

section
/-!
PROOFS. The step and its commands: every command completes and keeps the invariant, the queue, the clock and the fuses.
-/

namespace Sys2Proof.Machine

open Sys2Proof

variable {q s t : State}

/-- Settles O1: the step takes the front of the queue, and an offered command stands there. -/
theorem frontCommandRuns : Obligations.FrontCommandRuns := by
  unfold Obligations.FrontCommandRuns
  exact ⟨fun c rest s h => by rw [step, h], fun c s => rfl⟩

/-- Settles O2: the step of an empty queue. -/
theorem emptyQueueLetsTimePass : Obligations.EmptyQueueLetsTimePass := by
  unfold Obligations.EmptyQueueLetsTimePass
  intro s h
  rw [step, h]

/-! ### Every command completes -/

/-- An outcome that is a next state. -/
def Completes (o : Host.Outcome State Fault Refusal) : Prop := ∃ t, o = .next t

theorem Completes.next {t : State} : Completes (.next t) := ⟨t, rfl⟩

theorem Completes.ite {c : Prop} [Decidable c] {a b : Host.Outcome State Fault Refusal} (ha : Completes a)
    (hb : Completes b) : Completes (if c then a else b) := by
  split
  · exact ha
  · exact hb

/-- No branch of a command faults or refuses. The cases are grouped by the branches of their outcome; the commands left at the
end have one outcome. -/
theorem exec_completes (c : Instr) (s : State) : Completes (exec c s) := by
  cases c
  case portStartTimeout | portStopDrainDone | clkLoss | portRestartCapture | portRxFrame | iecLock | iecBlockEnd
      | electCandidate | elected | electTimeout | cellDesat | pllLockLost | pllLockAcquired | tsrcLockGained | tsrcLockLost
      | railWindowTrip | pvddLimited | pvddOcp | stbyLineCheck | govAllocate | fcolWindowRollover | sourceLevelFall
      | intcEnWrite | moderationExpiry | syncPinEdge | portRunningReached => exact .ite .next .next
  case portMaskApply | rateFault | stage1RailTimeout => exact .ite .next (.ite .next .next)
  case stbyCurrentReached => exact .ite (.ite .next .next) .next
  case xtalWindowEnd | ratioTrackerTick => exact .ite .next (.ite .next (.ite .next .next))
  case portResume => exact .ite (.ite .next (.ite .next .next)) .next
  case portSlip =>
    exact .ite .next (.ite (.ite .next (.ite .next .next)) (.ite .next (.ite .next .next)))
  case portStartFrame | setSwitched | attemptEvaluated | svRaised =>
    simp only [exec, execPortStartFrame, execSetSwitched, execAttemptEvaluated, execSvRaised]
    split
    · exact .next
    · exact .next
  case shedFall c legN =>
    cases legN
    all_goals
      simp only [exec, execShedFall]
      split
      · exact .next
      · exact .next
  case decimReset | quickCheckStart | laBatchArrive | hkSeqApply | nvmOpDone =>
    simp -zeta only [exec, execDecimReset, execQuickCheckStart, execLaBatchArrive, execHkSeqApply, execNvmOpDone]
    split
    · exact .next
    · exact .ite .next .next
  case govEvaluate =>
    refine .ite .next ?_
    split
    · exact .next
    · exact .next
  all_goals exact .next

/-- Settles O5: no branch of a command faults or refuses. -/
theorem everyCommandCompletes : Obligations.EveryCommandCompletes := by
  unfold Obligations.EveryCommandCompletes
  exact exec_completes

/-! ### Every command keeps the invariant, the queue, the clock and the fuses -/

/-- Whatever command runs, its next state comes from `q` where the state it runs on does. -/
theorem exec_inv (h : s.From q) : ∀ c : Instr, Keeps q (exec c s)
  | .powerOnReset => execPowerOnReset_inv h
  | .brownOut _ => execBrownOut_inv h _
  | .warmReset _ _ => execWarmReset_inv h _ _
  | .sysRstctrlWarm _ => execSysRstctrlWarm_inv h _
  | .warmResetRampEnd => execWarmResetRampEnd_inv h
  | .blkrstDiag => execBlkrstDiag_inv h
  | .blkrstTring => execBlkrstTring_inv h
  | .blkrstPort _ => execBlkrstPort_inv h _
  | .blkrstTrace => execBlkrstTrace_inv h
  | .blkrstDecim => execBlkrstDecim_inv h
  | .blockResetComplete _ => execBlockResetComplete_inv h _
  | .testAccessReset => execTestAccessReset_inv h
  | .xtalWindowEnd _ => execXtalWindowEnd_inv h _
  | .pllLockLost _ => execPllLockLost_inv h _
  | .pllLockAcquired _ => execPllLockAcquired_inv h _
  | .tsrcLockGained _ => execTsrcLockGained_inv h _
  | .tsrcLockLost => execTsrcLockLost_inv h
  | .benchAccessTimeout => execBenchAccessTimeout_inv h
  | .crossingFifoEvent _ => execCrossingFifoEvent_inv h _
  | .registerWrite _ _ _ => execRegisterWrite_inv h _ _ _
  | .xspiDiscoveryDone _ _ => execXspiDiscoveryDone_inv h _ _
  | .xspiDiscoveryTimeout => execXspiDiscoveryTimeout_inv h
  | .locatorRead _ => execLocatorRead_inv h _
  | .nvmArbitrationLost => execNvmArbitrationLost_inv h
  | .nvmArbitrationRetry => execNvmArbitrationRetry_inv h
  | .nvmArbitrationTimeout => execNvmArbitrationTimeout_inv h
  | .stuckBusDetected _ => execStuckBusDetected_inv h _
  | .stuckBusRetry _ => execStuckBusRetry_inv h _
  | .eepromNack => execEepromNack_inv h
  | .eepromNackRetry => execEepromNackRetry_inv h
  | .imageHeaderChecked _ _ _ _ => execImageHeaderChecked_inv h _ _ _ _
  | .bootcfgApplied _ => execBootcfgApplied_inv h _
  | .sectionReread _ _ _ => execSectionReread_inv h _ _ _
  | .earlySectionsLoaded _ => execEarlySectionsLoaded_inv h _
  | .earlyGraphPlaced => execEarlyGraphPlaced_inv h
  | .fullRunningTakeover _ => execFullRunningTakeover_inv h _
  | .earlyOnlyEntry _ _ _ => execEarlyOnlyEntry_inv h _ _ _
  | .romDefaultsEntry => execRomDefaultsEntry_inv h
  | .dryfitExecutionEnd _ => execDryfitExecutionEnd_inv h _
  | .dryfitDone => execDryfitDone_inv h
  | .veneerApply _ => execVeneerApply_inv h _
  | .veneerValidated => execVeneerValidated_inv h
  | .portStart _ => execPortStart_inv h _
  | .portArm _ => execPortArm_inv h _
  | .portDisarm _ => execPortDisarm_inv h _
  | .portStop _ => execPortStop_inv h _
  | .portRestart _ => execPortRestart_inv h _
  | .portCfgWrite _ _ => execPortCfgWrite_inv h _ _
  | .portMapWrite _ _ _ _ => execPortMapWrite_inv h _ _ _ _
  | .portSlotmaskWrite _ _ _ => execPortSlotmaskWrite_inv h _ _ _
  | .portMaskApply _ => execPortMaskApply_inv h _
  | .portGstartFire => execPortGstartFire_inv h
  | .syncPinEdge => execSyncPinEdge_inv h
  | .portStartFrame _ => execPortStartFrame_inv h _
  | .portRunningReached _ => execPortRunningReached_inv h _
  | .portStartTimeout _ => execPortStartTimeout_inv h _
  | .portStopDrainDone _ => execPortStopDrainDone_inv h _
  | .portRxFrame _ _ => execPortRxFrame_inv h _ _
  | .portSlip _ _ => execPortSlip_inv h _ _
  | .zcSwitch _ => execZcSwitch_inv h _
  | .zcTimeout _ => execZcTimeout_inv h _
  | .clkLoss _ => execClkLoss_inv h _
  | .rateFault _ _ => execRateFault_inv h _ _
  | .portResume _ => execPortResume_inv h _
  | .portOverrunUnderrun _ _ _ => execPortOverrunUnderrun_inv h _ _ _
  | .portRestartCapture _ => execPortRestartCapture_inv h _
  | .iecLock _ _ => execIecLock_inv h _ _
  | .iecBlockEnd _ _ => execIecBlockEnd_inv h _ _
  | .iecTxBlockStart => execIecTxBlockStart_inv h
  | .ringFrameEmit => execRingFrameEmit_inv h
  | .ringFrameRx _ _ _ => execRingFrameRx_inv h _ _ _
  | .ringFrameReturn _ _ _ => execRingFrameReturn_inv h _ _ _
  | .ringBreak noSignal _ => execRingBreak_inv h noSignal _
  | .ringBreakResume => execRingBreakResume_inv h
  | .electCandidate => execElectCandidate_inv h
  | .elected => execElected_inv h
  | .electTimeout => execElectTimeout_inv h
  | .ringStart => execRingStart_inv h
  | .ringStop => execRingStop_inv h
  | .tringCfgWrite _ => execTringCfgWrite_inv h _
  | .tringMapWrite _ _ _ => execTringMapWrite_inv h _ _ _
  | .biscuitRx _ _ => execBiscuitRx_inv h _ _
  | .biscuitInsert _ => execBiscuitInsert_inv h _
  | .startBiscuit _ => execStartBiscuit_inv h _
  | .syncBiscuit _ => execSyncBiscuit_inv h _
  | .regWr _ _ _ => execRegWr_inv h _ _ _
  | .regRd _ _ => execRegRd_inv h _ _
  | .regRsp _ => execRegRsp_inv h _
  | .hostBiscuit _ => execHostBiscuit_inv h _
  | .policyBiscuit _ => execPolicyBiscuit_inv h _
  | .faultBiscuit _ _ => execFaultBiscuit_inv h _ _
  | .biscuitSend => execBiscuitSend_inv h
  | .biscuitPop => execBiscuitPop_inv h
  | .dspFrameBoundary _ => execDspFrameBoundary_inv h _
  | .glueUp _ _ _ => execGlueUp_inv h _ _ _
  | .frameConceal _ _ => execFrameConceal_inv h _ _
  | .dspDetection _ _ => execDspDetection_inv h _ _
  | .ctxCfgWrite _ _ => execCtxCfgWrite_inv h _ _
  | .ctxLevelWrite _ _ => execCtxLevelWrite_inv h _ _
  | .genCfgWrite _ _ => execGenCfgWrite_inv h _ _
  | .genFreqWrite _ _ => execGenFreqWrite_inv h _ _
  | .play _ _ => execPlay_inv h _ _
  | .stopAtEnd _ => execStopAtEnd_inv h _
  | .stopNow _ => execStopNow_inv h _
  | .playDone _ => execPlayDone_inv h _
  | .playUnderrun _ _ => execPlayUnderrun_inv h _ _
  | .avasFallback _ => execAvasFallback_inv h _
  | .placementRun => execPlacementRun_inv h
  | .coreFence _ _ => execCoreFence_inv h _ _
  | .migrationDone => execMigrationDone_inv h
  | .regionFence _ _ _ => execRegionFence_inv h _ _ _
  | .dramRegionMove _ _ => execDramRegionMove_inv h _ _
  | .scrubRepair _ _ => execScrubRepair_inv h _ _
  | .outputBinding => execOutputBinding_inv h
  | .outputReqWrite _ _ => execOutputReqWrite_inv h _ _
  | .fastoff _ => execFastoff_inv h _
  | .fastoffDone _ => execFastoffDone_inv h _
  | .cmRampDone _ => execCmRampDone_inv h _
  | .outputZeroCrossing _ => execOutputZeroCrossing_inv h _
  | .outputZcTimeout _ => execOutputZcTimeout_inv h _
  | .outputRampDone _ => execOutputRampDone_inv h _
  | .bridgeTrip _ _ _ => execBridgeTrip_inv h _ _ _
  | .tripDemagEnd _ => execTripDemagEnd_inv h _
  | .tripRetry _ => execTripRetry_inv h _
  | .cellDesat _ _ _ => execCellDesat_inv h _ _ _
  | .shedFall _ _ => execShedFall_inv h _ _
  | .cellRotate _ => execCellRotate_inv h _
  | .imbalance _ => execImbalance_inv h _
  | .tripLimWrite _ _ => execTripLimWrite_inv h _ _
  | .bridgeOvertemp _ _ _ => execBridgeOvertemp_inv h _ _ _
  | .laneEvaluate _ => execLaneEvaluate_inv h _
  | .energySubwindowEnd _ => execEnergySubwindowEnd_inv h _
  | .bankselWrite _ _ => execBankselWrite_inv h _ _
  | .bankSwap => execBankSwap_inv h
  | .bankWrite _ _ _ _ => execBankWrite_inv h _ _ _ _
  | .fbTableWrite _ _ _ _ => execFbTableWrite_inv h _ _ _ _
  | .loopChCfgWrite _ _ => execLoopChCfgWrite_inv h _ _
  | .coefRefetch _ => execCoefRefetch_inv h _
  | .rcTrackerEdge _ _ => execRcTrackerEdge_inv h _ _
  | .rcTrackerTimeout _ => execRcTrackerTimeout_inv h _
  | .rcPeriodEnd _ => execRcPeriodEnd_inv h _
  | .rcFadeEnd _ => execRcFadeEnd_inv h _
  | .rcClear _ => execRcClear_inv h _
  | .rcFreeze _ _ => execRcFreeze_inv h _ _
  | .rcChCfgWrite _ _ => execRcChCfgWrite_inv h _ _
  | .rcSrcEstWrite _ _ => execRcSrcEstWrite_inv h _ _
  | .rcTableWrite _ _ => execRcTableWrite_inv h _ _
  | .traceArm _ => execTraceArm_inv h _
  | .traceStop _ => execTraceStop_inv h _
  | .traceForce _ => execTraceForce_inv h _
  | .traceCfgWrite _ _ _ => execTraceCfgWrite_inv h _ _ _
  | .traceWindowRead _ _ => execTraceWindowRead_inv h _ _
  | .senseSample _ _ _ _ _ => execSenseSample_inv h _ _ _ _ _
  | .sliceFault _ _ => execSliceFault_inv h _ _
  | .bgWindowEnd _ => execBgWindowEnd_inv h _
  | .bgFreezeWrite _ => execBgFreezeWrite_inv h _
  | .senseCal _ => execSenseCal_inv h _
  | .senseBootCalStart => execSenseBootCalStart_inv h
  | .senseCalDone _ => execSenseCalDone_inv h _
  | .decimOutputSample => execDecimOutputSample_inv h
  | .ratioTrackerTick _ => execRatioTrackerTick_inv h _
  | .decimReset => execDecimReset_inv h
  | .decimSettled _ => execDecimSettled_inv h _
  | .thrCfgWrite _ _ _ => execThrCfgWrite_inv h _ _ _
  | .auxPathCfgWrite _ _ => execAuxPathCfgWrite_inv h _ _
  | .clampCeilingWrite _ _ _ => execClampCeilingWrite_inv h _ _ _
  | .setSwitched _ => execSetSwitched_inv h _
  | .quickDcCheck _ => execQuickDcCheck_inv h _
  | .acSweep _ => execAcSweep_inv h _
  | .diagAbort _ => execDiagAbort_inv h _
  | .quickCheckStart => execQuickCheckStart_inv h
  | .quickCheckDone _ _ => execQuickCheckDone_inv h _ _
  | .bootDcDiagStart => execBootDcDiagStart_inv h
  | .bootDcDiagDone _ => execBootDcDiagDone_inv h _
  | .sweepPointDone _ => execSweepPointDone_inv h _
  | .sweepResume _ _ => execSweepResume_inv h _ _
  | .trackPeriodEnd _ => execTrackPeriodEnd_inv h _
  | .stbyLineCheck _ => execStbyLineCheck_inv h _
  | .stage1Start _ _ _ _ => execStage1Start_inv h _ _ _ _
  | .railInWindow _ => execRailInWindow_inv h _
  | .stage1RailTimeout _ => execStage1RailTimeout_inv h _
  | .stage1Retry => execStage1Retry_inv h
  | .laterStageStart => execLaterStageStart_inv h
  | .stageTimeout _ => execStageTimeout_inv h _
  | .railDischarged _ => execRailDischarged_inv h _
  | .dischargeTimeout _ => execDischargeTimeout_inv h _
  | .railWindowTrip _ _ => execRailWindowTrip_inv h _ _
  | .railCtrlWrite _ => execRailCtrlWrite_inv h _
  | .micbCfgWrite _ => execMicbCfgWrite_inv h _
  | .micbShort _ _ => execMicbShort_inv h _ _
  | .pvddSoftStartDone => execPvddSoftStartDone_inv h
  | .laBatchArrive _ => execLaBatchArrive_inv h _
  | .demandActive => execDemandActive_inv h
  | .laTimeout => execLaTimeout_inv h
  | .pvddLimited _ _ => execPvddLimited_inv h _ _
  | .phaseShed _ => execPhaseShed_inv h _
  | .pvddOcp _ _ => execPvddOcp_inv h _ _
  | .pvddOcpRestart _ => execPvddOcpRestart_inv h _
  | .pvddOv _ _ => execPvddOv_inv h _ _
  | .pvddUv _ _ => execPvddUv_inv h _ _
  | .pvddWindowRestored => execPvddWindowRestored_inv h
  | .pvddClockReturn => execPvddClockReturn_inv h
  | .bankReady => execBankReady_inv h
  | .chgFault => execChgFault_inv h
  | .vbatThreshold _ _ => execVbatThreshold_inv h _ _
  | .holdupEnter _ => execHoldupEnter_inv h _
  | .holdupExit => execHoldupExit_inv h
  | .holdupSpent => execHoldupSpent_inv h
  | .stbyGo _ => execStbyGo_inv h _
  | .stbyAuto => execStbyAuto_inv h
  | .stbyCurrentReached => execStbyCurrentReached_inv h
  | .wakecfgWrite _ => execWakecfgWrite_inv h _
  | .wakePinWake => execWakePinWake_inv h
  | .hostMatchWake _ => execHostMatchWake_inv h _
  | .hostMatchRelease => execHostMatchRelease_inv h
  | .ringActivityWake => execRingActivityWake_inv h
  | .govEvaluate => execGovEvaluate_inv h
  | .govLimitWrite _ => execGovLimitWrite_inv h _
  | .crashN _ => execCrashN_inv h _
  | .govDischarge _ => execGovDischarge_inv h _
  | .dischargePvddStop => execDischargePvddStop_inv h
  | .dischargeDone => execDischargeDone_inv h
  | .disFail => execDisFail_inv h
  | .govAllocate => execGovAllocate_inv h
  | .hkConversion _ => execHkConversion_inv h _
  | .hkInjectTrigger _ => execHkInjectTrigger_inv h _
  | .swTrig _ => execSwTrig_inv h _
  | .hkTimer => execHkTimer_inv h
  | .refReady => execRefReady_inv h
  | .hkClockStop => execHkClockStop_inv h
  | .hkCal => execHkCal_inv h
  | .hkCalStart => execHkCalStart_inv h
  | .hkCalDone _ _ => execHkCalDone_inv h _ _
  | .hkSeqApply => execHkSeqApply_inv h
  | .hkWinWrite _ _ => execHkWinWrite_inv h _ _
  | .fcolEventArrive _ _ => execFcolEventArrive_inv h _ _
  | .fcolClassify => execFcolClassify_inv h
  | .fcolWindowRollover _ => execFcolWindowRollover_inv h _
  | .fenceApply => execFenceApply_inv h
  | .fcolSafeCmd _ _ => execFcolSafeCmd_inv h _ _
  | .commit _ => execCommit_inv h _
  | .fcolRuleWrite _ _ _ _ => execFcolRuleWrite_inv h _ _ _ _
  | .clrFirst => execClrFirst_inv h
  | .fcolConfigMismatch => execFcolConfigMismatch_inv h
  | .aliveToggle => execAliveToggle_inv h
  | .kick _ => execKick_inv h _
  | .watchdogExpire => execWatchdogExpire_inv h
  | .jigArm _ _ => execJigArm_inv h _ _
  | .jigMissed => execJigMissed_inv h
  | .ident _ => execIdent_inv h _
  | .setPtr _ _ => execSetPtr_inv h _ _
  | .readBlk _ _ => execReadBlk_inv h _ _
  | .writeBlk _ _ _ => execWriteBlk_inv h _ _ _
  | .status _ => execStatus_inv h _
  | .claim _ => execClaim_inv h _
  | .complete _ _ => execComplete_inv h _ _
  | .cqRead _ => execCqRead_inv h _
  | .faultLog _ _ => execFaultLog_inv h _ _
  | .challenge _ _ => execChallenge_inv h _ _
  | .response _ _ _ => execResponse_inv h _ _ _
  | .unlockPw _ _ _ => execUnlockPw_inv h _ _ _
  | .attemptEvaluated => execAttemptEvaluated_inv h
  | .jtagUnlockMailbox _ => execJtagUnlockMailbox_inv h _
  | .lockoutEnd => execLockoutEnd_inv h
  | .nonceExpire => execNonceExpire_inv h
  | .relock _ => execRelock_inv h _
  | .svRaise _ => execSvRaise_inv h _
  | .svRaised => execSvRaised_inv h
  | .unknownCmd => execUnknownCmd_inv h
  | .hbusStartException => execHbusStartException_inv h
  | .hbusTimeout => execHbusTimeout_inv h
  | .addrChanged => execAddrChanged_inv h
  | .alertResponse _ => execAlertResponse_inv h _
  | .alertReassert => execAlertReassert_inv h
  | .nvmRead _ _ _ => execNvmRead_inv h _ _ _
  | .nvmProgram _ _ _ => execNvmProgram_inv h _ _ _
  | .nvmErase _ _ _ => execNvmErase_inv h _ _ _
  | .nvmOpDone _ _ => execNvmOpDone_inv h _ _
  | .sourceLevelRise _ _ => execSourceLevelRise_inv h _ _
  | .sourceLevelFall _ => execSourceLevelFall_inv h _
  | .intcEnWrite _ _ => execIntcEnWrite_inv h _ _
  | .moderationExpiry _ => execModerationExpiry_inv h _
  | .demandExpired => execDemandExpired_inv h
  | .pvddOvCleared _ => execPvddOvCleared_inv h _
  | .wakePinChange _ => execWakePinChange_inv h _

theorem exec_from {c : Instr} (h : exec c s = .next t) : t.From s := by
  have hk : Keeps s (exec c s) := exec_inv State.From.refl c
  rwa [h] at hk

/-- The commands that wait and the clock are no part of the invariant. -/
theorem State.Inv.of_queue_clock (h : s.Inv) (rest : List Instr) (n : Nat) : State.Inv { s with pending := rest, now := n } := by
  obtain ⟨hc, hb⟩ := h
  exact ⟨hc, hb.completions, hb.applies, hb.biscuitsOut, hb.biscuitsIn, hb.faultsNormal, hb.faultsPriority, hb.demands,
    hb.injected⟩

/-- Settles O3: a step idles, or runs a command, and every command keeps the invariant. -/
theorem stepKeepsInvariant : Obligations.StepKeepsInvariant := by
  unfold Obligations.StepKeepsInvariant
  intro s t hs ht
  cases hp : s.pending with
  | nil =>
    rw [emptyQueueLetsTimePass s hp] at ht
    obtain rfl := Host.Outcome.next.inj ht
    exact hs.of_queue_clock s.pending _
  | cons c rest =>
    rw [frontCommandRuns.1 c rest s hp] at ht
    exact (exec_from ht).1 (hs.of_queue_clock rest s.now)

/-- Settles O4: the tables and the queues of the reset state are empty. -/
theorem resetHasInvariant : Obligations.ResetHasInvariant := by
  unfold Obligations.ResetHasInvariant
  exact ⟨⟨rfl, rfl⟩, by constructor <;> decide⟩

/-- Settles O6: each is part of what every command leaves as it was. -/
theorem fusesNeverFall : Obligations.FusesNeverFall := by
  unfold Obligations.FusesNeverFall
  intro c s t h
  have hk : t.Kept s := (exec_from h).2
  exact ⟨hk.otp, hk.minSv, hk.pending, hk.now⟩

end Sys2Proof.Machine
end

section
/-!
PROOFS. Intake of the fault collector: the rule of an event and the queue that it joins (R391, R392, R399).
-/

namespace Sys2Proof.Machine

open Sys2Proof

variable {s : State} {e : Evt} {id : BitVec 16} {k : Nat}

/-- An active rule matches an ID under its mask (R399). -/
def State.ruleHits (s : State) (id : BitVec 16) (k : Nat) : Prop :=
  (s.rule k).valid = true ∧ id &&& (s.rule k).mask = (s.rule k).id &&& (s.rule k).mask

/-- The rule of an ID is the lowest-numbered one that hits it. -/
theorem State.ruleMatch_eq_some (h : s.ruleMatch id = some k) :
    k < 128 ∧ s.ruleHits id k ∧ ∀ j, j < k → ¬ s.ruleHits id j := by
  simp only [State.ruleMatch, List.find?_range_eq_some, Bool.and_eq_true, decide_eq_true_eq, List.mem_range] at h
  obtain ⟨hk, hlt, hlow⟩ := h
  refine ⟨hlt, hk, fun j hj hit => ?_⟩
  have := hlow j hj
  simp [hit.1, hit.2] at this

/-- Without a rule, none hits. -/
theorem State.ruleMatch_eq_none (h : s.ruleMatch id = none) : ∀ k, k < 128 → ¬ s.ruleHits id k := by
  simp only [State.ruleMatch, List.find?_range_eq_none, Bool.not_eq_true', Bool.and_eq_false_iff, decide_eq_false_iff_not] at h
  intro k hk hit
  exact (h k hk).elim (by simp [hit.1]) (fun hm => hm hit.2)

/-- With room in both queues an event joins one of them at its end, with its rule; the rules and the registers stay. -/
theorem State.fcolQueue_joins (roll contained : Bool) (hn : s.fcol.normal.length < 32) (hp : s.fcol.prio.length < 4) :
    ∃ q : QEvt, q.ev = e ∧ q.rule = s.ruleMatch e.id ∧
      (s.fcolQueue e roll contained = { s with fcol := { s.fcol with prio := s.fcol.prio ++ [q] } } ∨
        s.fcolQueue e roll contained = { s with fcol := { s.fcol with normal := s.fcol.normal ++ [q] } }) := by
  refine ⟨{ ev := e, rule := s.ruleMatch e.id,
            atRollover := roll && decide (s.rd F.FCOL_TICK_COUNT % s.evtWindow (s.ruleMatch e.id) = 0),
            contained := contained }, rfl, rfl, ?_⟩
  unfold State.fcolQueue
  dsimp only
  split
  · left; rw [if_neg (by omega)]
  · right; rw [if_neg (by omega)]

theorem execFcolEventArrive_queues (roll : Bool) (hd : s.sys.dieHeld = false) (hj : e.jig = false) (hm : s.evtMasked e = false) :
    execFcolEventArrive (some e) roll s = .next (s.fcolQueue e roll false) := by
  simp [execFcolEventArrive, State.fcolArrive, hd, hj, hm]

/-- Settles O15: the rule kept is the first that hits, and the event joins one queue with it. -/
theorem lowestNumberedRuleApplies : Obligations.LowestNumberedRuleApplies := by
  unfold Obligations.LowestNumberedRuleApplies
  intro s e roll hd hj hm hn hp
  obtain ⟨q, hev, hrule, ht⟩ := State.fcolQueue_joins (e := e) roll false hn hp
  refine ⟨s.fcolQueue e roll false, q, execFcolEventArrive_queues roll hd hj hm, hev, ?_,
    fun k hk => State.ruleMatch_eq_some (hrule ▸ hk), fun hk => State.ruleMatch_eq_none (hrule ▸ hk), ?_⟩
  · exact ht.elim (fun h => .inr (by rw [h]; exact ⟨rfl, rfl⟩)) (fun h => .inl (by rw [h]; exact ⟨rfl, rfl⟩))
  · exact ht.elim (fun h => by rw [h]; exact ⟨rfl, rfl⟩) (fun h => by rw [h]; exact ⟨rfl, rfl⟩)

end Sys2Proof.Machine
end

section
/-!
PROOFS. Transactions of the host bus: how a read and a write end, and what their results leave (R417 to R420, R424).
-/

namespace Sys2Proof.Machine

open Sys2Proof

variable {s : State}

/-! ### Results -/

@[simp] theorem State.hostResult_intc (s : State) (code : Nat) : (s.hostResult code).intc = s.intc := rfl

@[simp] theorem State.hostResult_sec (s : State) (code : Nat) : (s.hostResult code).sec = s.sec := rfl

@[simp] theorem State.hostResult_otp (s : State) (code : Nat) : (s.hostResult code).otp = s.otp := rfl

theorem State.reg_hostResult_ne (code : Nat) {a : Nat} (h : a ≠ A.HBUS_STAT) : (s.hostResult code).reg a = s.reg a := by
  rw [State.hostResult, State.bumpWrap, State.reg_wr_ne _ h, State.reg_wr_ne _ h]

/-- A result changes no field of another register. -/
theorem State.rd_hostResult_ne (code : Nat) {f : Fld} (h : f.addr ≠ A.HBUS_STAT) : (s.hostResult code).rd f = s.rd f := by
  simp only [State.rd, State.reg_hostResult_ne code h]

@[simp] theorem State.hostBack_reg (out : List (BitVec 8)) (acked : Bool) (a : Nat) :
    (s.hostBack out acked).reg a = s.reg a := rfl

@[simp] theorem State.hostBack_rd (out : List (BitVec 8)) (acked : Bool) (f : Fld) : (s.hostBack out acked).rd f = s.rd f := rfl

@[simp] theorem State.hostBack_intc (out : List (BitVec 8)) (acked : Bool) : (s.hostBack out acked).intc = s.intc := rfl

/-! ### Commands -/

theorem State.hostCmd_down (f : State → State) (h : s.hostUp = false) : s.hostCmd f = .next (s.hostBack [] false) := by
  simp [State.hostCmd, h]

theorem State.hostCmd_busy (f : State → State) (h : s.hostUp = true) (hb : s.hostBusy = true) :
    s.hostCmd f = .next (s.hostFail 2) := by
  simp [State.hostCmd, h, hb]

theorem State.hostCmd_served (f : State → State) (h : s.hostUp = true) (hb : s.hostBusy = false) :
    s.hostCmd f = .next (f s) := by
  simp [State.hostCmd, h, hb]

theorem State.hostAlways_down (f : State → State) (h : s.hostUp = false) :
    s.hostAlways f = .next (s.hostBack [] false) := by
  simp [State.hostAlways, h]

theorem State.hostAlways_served (f : State → State) (h : s.hostUp = true) : s.hostAlways f = .next (f s) := by
  simp [State.hostAlways, h]

/-! ### Reads and writes -/

/-- A read that ends soundly. -/
def readSound (e : ReadEnd) : Prop := e = .noPec ∨ e = .withPec

/-- A write that ends soundly: its PEC is right, or it carries none and none is required (R419). -/
def State.writeSound (s : State) (wr : List (BitVec 8)) (e : WriteEnd) : Prop :=
  e = .pec (s.writePec wr) ∨ e = .noPec ∧ s.on F.HBUS_CFG_PEC_REQ = false

theorem State.hostRead_sound {e : ReadEnd} (he : readSound e) (wr data : List (BitVec 8)) (t : State) (result : Nat) :
    s.hostRead e wr data t result =
      (if result = 0 then t.hostResult 0 else t.hostErr result).hostBack (s.hostBytes wr data e) true := by
  obtain rfl | rfl := he <;> rfl

/-- What is read begins with the data, whether the PEC follows or not. -/
theorem State.hostBytes_head? {e : ReadEnd} (he : readSound e) (wr : List (BitVec 8)) (b : BitVec 8) (l : List (BitVec 8)) :
    (s.hostBytes wr (b :: l) e).head? = some b := by
  obtain rfl | rfl := he <;> rfl

theorem State.hostWrite_sound {wr : List (BitVec 8)} {e : WriteEnd} (he : s.writeSound wr e) (act : State → State) :
    s.hostWrite wr e act = act (s.hostBack [] true) := by
  obtain rfl | ⟨rfl, h⟩ := he
  · exact if_pos rfl
  · simp [State.hostWrite, h]

/-- A wrong PEC (R420). -/
theorem State.hostWrite_badPec {wr : List (BitVec 8)} {p : Byte} (h : p ≠ s.writePec wr) (act : State → State) :
    s.hostWrite wr (.pec p) act = s.hostFail 1 := if_neg h

end Sys2Proof.Machine
end

section
/-!
PROOFS. The interrupt controller: claims, counters, edges and enables (R436 to R443).
-/

namespace Sys2Proof.Machine

open Sys2Proof

variable {s : State}

/-! ### What the operations on sources leave -/

@[simp] theorem State.src_setSrc_self (n : Nat) (x : SrcState) : (s.setSrc n x).src n = x := Tbl.get_set_self

theorem State.src_setSrc_ne {m n : Nat} (h : m ≠ n) (x : SrcState) : (s.setSrc n x).src m = s.src m := Tbl.get_set_ne h

@[simp] theorem State.setSrc_regs (n : Nat) (x : SrcState) : (s.setSrc n x).regs = s.regs := rfl

@[simp] theorem State.setSrc_reg (n : Nat) (x : SrcState) (a : Nat) : (s.setSrc n x).reg a = s.reg a := rfl

@[simp] theorem State.alertSettle_intc : s.alertSettle.intc = s.intc := by unfold State.alertSettle; split <;> rfl

@[simp] theorem State.alertSettle_regs : s.alertSettle.regs = s.regs := by unfold State.alertSettle; split <;> rfl

@[simp] theorem State.alertSettle_src (n : Nat) : s.alertSettle.src n = s.src n := by
  simp only [State.src, State.alertSettle_intc]

theorem srcGroup_lt (n : Nat) : srcGroup n < 16 := by
  simp only [srcGroup, apply_ite (· < 16)]
  simp

/-- A request at the gate writes no register but those of moderation. -/
theorem State.reg_gate (running : Bool) (n : Nat) {a : Nat} (h : ∀ g, g < 16 → a ≠ A.INTC_MODg g) :
    (s.gate running n).reg a = s.reg a := by
  have hm : a ≠ A.INTC_MODg (srcGroup n) := h _ (srcGroup_lt n)
  unfold State.gate
  dsimp only
  split
  · split
    · rfl
    · split
      · rfl
      · rw [State.reg_wr_ne _ hm, State.setSrc_reg]
  · rfl

/-- A sampled level stands in the RAW registers. -/
theorem State.reg_setRaw (n : Nat) (b : Bool) {a : Nat} (h : ∀ k, k < 4 → a ≠ A.INTC_RAWk k) :
    (s.setRaw n b).reg a = s.reg a := by
  unfold State.setRaw
  split
  · exact State.reg_wr_ne _ (h _ (by omega)) _
  · rfl

theorem State.countEdge_counter (n : Nat) (h : n < 128) : s.countEdge n = s.bump (F.INTC_CNTs_COUNT n) := if_pos h

/-! ### Claims (R438) -/

theorem State.mem_srcsIn {x : SrcState} {n : Nat} : n ∈ s.srcsIn x ↔ n < 129 ∧ s.src n = x := by
  simp [State.srcsIn]

theorem State.srcsIn_sorted (x : SrcState) : (s.srcsIn x).Pairwise (· < ·) := List.pairwise_lt_range.filter _

/-- A source that a claim prefers to another: the higher priority, a tie to the lower number (R438). -/
def State.claimBefore (s : State) (n m : Nat) : Prop := s.srcPrio m ≤ s.srcPrio n ∧ (s.srcPrio m = s.srcPrio n → n ≤ m)

/-- Of the first two candidates one goes on. -/
theorem State.claimBest_cons_cons (m x : Nat) (l : List Nat) :
    s.claimBest (m :: x :: l) = s.claimBest ((if s.srcPrio m < s.srcPrio x then x else m) :: l) := by
  simp only [State.claimBest, List.foldl_cons]
  split <;> rfl

/-- Of candidates in rising order a claim returns the one that it prefers to every other. -/
theorem State.claimBest_eq_some {n : Nat} (l : List Nat) : ∀ m, (m :: l).Pairwise (· < ·) → n ∈ m :: l →
    (∀ x ∈ m :: l, s.claimBefore n x) → s.claimBest (m :: l) = some n := by
  induction l with
  | nil =>
    intro m _ hn _
    rw [List.mem_singleton.mp hn]
    rfl
  | cons x l ih =>
    intro m hs hn hb
    obtain ⟨hm, hx⟩ := List.pairwise_cons.mp hs
    have hmx : m < x := hm x List.mem_cons_self
    have hbm : s.claimBefore n m := hb m List.mem_cons_self
    have hbx : s.claimBefore n x := hb x (List.mem_cons_of_mem _ List.mem_cons_self)
    rw [State.claimBest_cons_cons]
    split
    case isTrue h =>
      have hne : n ≠ m := fun e => Nat.not_le.mpr h (e ▸ hbx.1)
      exact ih x hx ((List.mem_cons.mp hn).resolve_left hne) fun y hy => hb y (List.mem_cons_of_mem _ hy)
    case isFalse h =>
      have hne : n ≠ x := by
        rintro rfl
        have hp : s.srcPrio m = s.srcPrio n := Nat.le_antisymm hbm.1 (Nat.not_lt.mp h)
        exact Nat.not_le.mpr hmx (hbm.2 hp)
      have hl : List.Sublist (m :: l) (m :: x :: l) := (List.sublist_cons_self x l).cons_cons m
      refine ih m (hs.sublist hl) ?_ fun y hy => hb y (hl.subset hy)
      simpa [hne] using hn

/-- The pending source that a claim prefers to every other is the one it returns. -/
theorem State.claimBest_pending {n : Nat} (hn : n < 129) (hp : s.src n = .pending)
    (hb : ∀ m, m < 129 → s.src m = .pending → s.claimBefore n m) : s.claimBest (s.srcsIn .pending) = some n := by
  have hmem : n ∈ s.srcsIn .pending := State.mem_srcsIn.mpr ⟨hn, hp⟩
  have hsorted := s.srcsIn_sorted .pending
  have hbest : ∀ m ∈ s.srcsIn .pending, s.claimBefore n m := fun m hm =>
    hb m (State.mem_srcsIn.mp hm).1 (State.mem_srcsIn.mp hm).2
  cases hl : s.srcsIn .pending with
  | nil => rw [hl] at hmem; cases hmem
  | cons m l =>
    rw [hl] at hmem hsorted hbest
    exact State.claimBest_eq_some l m hsorted hmem hbest

theorem State.intcClaim_some {n : Nat} (h : s.claimBest (s.srcsIn .pending) = some n) :
    s.intcClaim = (n, (s.setSrc n .claimed).alertSettle) := by
  simp only [State.intcClaim, h]

theorem State.intcClaim_none (h : s.srcsIn .pending = []) : s.intcClaim = (0xFF, s.bump F.INTC_ERR_EMPTY_CLAIM) := by
  simp only [State.intcClaim, h]
  rfl

/-- No island stops the controller's registers (R17, R26). -/
theorem State.islandStopped_intc {a : Nat} (h : a / 0x10000 = 13) : s.islandStopped a = false := by
  simp [State.islandStopped, h]

/-- A read of INTC_CLAIM claims. -/
theorem State.busRead_claim (who : Writer) :
    s.busRead who A.INTC_CLAIM = (.ok, BitVec.ofNat 32 s.intcClaim.1, s.intcClaim.2) := by
  have hok : s.busCheck who false A.INTC_CLAIM = .ok :=
    s.busCheck_reg who false (by decide) (by decide) (State.islandStopped_intc (by decide))
  simp only [State.busRead, hok]
  rfl

/-- The CLAIM command claims. -/
theorem execClaim_sound {e : ReadEnd} (hu : s.hostUp = true) (hb : s.hostBusy = false) (he : readSound e) :
    execClaim e s = .next ((s.intcClaim.2.hostResult 0).hostBack
      (s.hostBytes [0x30] [BitVec.ofNat 8 s.intcClaim.1] e) true) := by
  rw [execClaim, State.hostCmd_served _ hu hb, State.hostRead_sound he]
  rfl

/-- Settles O8: the register and the command make one claim, which takes the pending source preferred to every other. -/
theorem claimTakesHighestPriority : Obligations.ClaimTakesHighestPriority := by
  unfold Obligations.ClaimTakesHighestPriority
  refine ⟨fun who s n hn hp hb => ?_, fun who s h => ?_, fun e s hu hb he => ?_⟩
  · rw [State.busRead_claim, State.intcClaim_some (State.claimBest_pending hn hp hb)]
    exact ⟨rfl, rfl, by simp, fun m hm => by simp [State.src_setSrc_ne hm], by simp⟩
  · have hnone : s.srcsIn .pending = [] :=
      List.eq_nil_iff_forall_not_mem.mpr fun m hm => h m (State.mem_srcsIn.mp hm).1 (State.mem_srcsIn.mp hm).2
    rw [State.busRead_claim, State.intcClaim_none hnone]
    rfl
  · refine ⟨_, execClaim_sound hu hb he, ?_, ?_, ?_⟩
    · rw [State.busRead_claim]
      exact (State.hostBytes_head? he _ _ _).trans (congrArg some (BitVec.setWidth_ofNat_of_le (by decide) _).symm)
    · rw [State.busRead_claim]
      rfl
    · rw [State.busRead_claim, State.hostBack_rd, State.rd_hostResult_ne _ (by decide)]

/-! ### Counters (R441) -/

theorem findReg_counter {n : Nat} (h : n < 128) :
    findReg (A.INTC_CNTs n) = some ⟨0xD0400, [(4, 128)], [⟨0, 8, .rc, 0, false⟩]⟩ := by
  have hall : ∀ k : Fin 128, findReg (A.INTC_CNTs k) = some ⟨0xD0400, [(4, 128)], [⟨0, 8, .rc, 0, false⟩]⟩ := by
    decide +kernel
  exact hall ⟨n, h⟩

theorem State.rd_gate_counter (running : Bool) (n m : Nat) :
    (s.gate running m).rd (F.INTC_CNTs_COUNT n) = s.rd (F.INTC_CNTs_COUNT n) := by
  simp only [State.rd, State.reg_gate running m (a := A.INTC_CNTs n) (by simp only [A.INTC_CNTs, A.INTC_MODg]; omega)]

theorem State.rd_setRaw_counter (n m : Nat) (b : Bool) :
    (s.setRaw m b).rd (F.INTC_CNTs_COUNT n) = s.rd (F.INTC_CNTs_COUNT n) := by
  simp only [State.rd, State.reg_setRaw m b (a := A.INTC_CNTs n) (by simp only [A.INTC_CNTs, A.INTC_RAWk]; omega)]

/-- A counted edge, whatever the enabled source then requests at the gate. -/
theorem State.rd_countEdge_gate (running : Bool) {n : Nat} (h : n < 128) :
    (if (s.countEdge n).srcEn n then (s.countEdge n).gate running n else s.countEdge n).rd (F.INTC_CNTs_COUNT n) =
      min (s.rd (F.INTC_CNTs_COUNT n) + 1) 255 := by
  have hc : (s.countEdge n).rd (F.INTC_CNTs_COUNT n) = min (s.rd (F.INTC_CNTs_COUNT n) + 1) 255 := by
    rw [State.countEdge_counter n h]
    exact State.rd_bump_self s (F.INTC_CNTs_COUNT n) (show 0 + 8 ≤ 32 by decide)
  split
  · rw [State.rd_gate_counter, hc]
  · exact hc

/-- A rise: the level is sampled and counted, and an enabled source requests at the gate (R436, R441, R442). -/
theorem State.levelRise_rises (running : Bool) {n : Nat} (hl : s.sourceLevel n = true) (hr : s.rawLevel n = false) :
    s.levelRise running n = if ((s.setRaw n true).countEdge n).srcEn n then ((s.setRaw n true).countEdge n).gate running n
      else (s.setRaw n true).countEdge n := by
  simp [State.levelRise, hl, hr]

theorem State.levelRise_unchanged (running : Bool) {n : Nat} (h : s.sourceLevel n = false ∨ s.rawLevel n = true) :
    s.levelRise running n = s := by
  obtain h | h := h
  · simp [State.levelRise, h]
  · simp [State.levelRise, h]

theorem execSourceLevelRise_running (n : Fin 129) (more : List (Fin 129)) (hd : s.sys.dieHeld = false) :
    execSourceLevelRise n more s =
      .next (s.forEach (n :: more) fun k t => t.levelRise (s.modRunning (srcGroup k)) k) := by
  simp [execSourceLevelRise, hd]

/-- A completion of a claimed source whose level is high counts an edge (R439, R441). -/
theorem State.rd_intcComplete_counter {n : Nat} (h : n < 128) (hc : s.src n = .claimed) (hl : s.sourceLevel n = true) :
    (s.intcComplete n).rd (F.INTC_CNTs_COUNT n) = min (s.rd (F.INTC_CNTs_COUNT n) + 1) 255 := by
  have hnot : ¬ (cqSource < n ∨ s.src n ≠ .claimed) :=
    not_or_intro (by simp only [cqSource]; omega) (not_not_intro hc)
  rw [State.intcComplete, if_neg hnot]
  simp only [hl, if_true]
  rw [State.rd_countEdge_gate _ h, State.rd_setRaw_counter]
  rfl

/-- The COMPLETE command with a sound end completes the source. -/
theorem execComplete_sound {n : Byte} {e : WriteEnd} (hu : s.hostUp = true) (hb : s.hostBusy = false)
    (he : s.writeSound [0x31, n] e) :
    execComplete n e s = .next (((s.hostBack [] true).intcComplete n.toNat).hostResult 0) := by
  rw [execComplete, State.hostCmd_served _ hu hb, State.hostWrite_sound he]

/-- A counter reads its value and clears (R441). -/
theorem State.busRead_counter (who : Writer) {n : Nat} (h : n < 128) :
    s.busRead who (A.INTC_CNTs n) = (.ok, s.viewReg (A.INTC_CNTs n), s.wr (F.INTC_CNTs_COUNT n) 0) := by
  have hclaim : A.INTC_CNTs n ≠ A.INTC_CLAIM := by simp only [A.INTC_CNTs, A.INTC_CLAIM]; omega
  have hwin : arrIdx (A.TRACE_WINDOWw 0) 4 8192 (A.INTC_CNTs n) = none := by
    rw [arrIdx, if_neg]; simp only [A.INTC_CNTs, A.TRACE_WINDOWw]; omega
  have hlt : A.INTC_CNTs n < 0x120000 := by simp only [A.INTC_CNTs]; omega
  have hok : s.busCheck who false (A.INTC_CNTs n) = .ok :=
    s.busCheck_reg who false (by simp only [A.INTC_CNTs]; omega) hlt
      (State.islandStopped_intc (by simp only [A.INTC_CNTs]; omega))
  simp only [State.busRead, hok, if_true, hlt, State.readReg, if_neg hclaim, hwin, findReg_counter h]
  rfl

/-- No record of the controller stands in a counter. -/
theorem State.viewIntc_counter (n : Nat) (w : BitVec 32) : s.viewIntc (A.INTC_CNTs n) w = w := by
  have hstat : A.INTC_CNTs n ≠ A.INTC_STAT := by simp only [A.INTC_CNTs, A.INTC_STAT]; omega
  have hcq : A.INTC_CNTs n ≠ A.INTC_CQSTAT := by simp only [A.INTC_CNTs, A.INTC_CQSTAT]; omega
  have hidx (base : Nat) (hb : base ≤ 0xD0050) : arrIdx base 4 4 (A.INTC_CNTs n) = none := by
    rw [arrIdx, if_neg]; simp only [A.INTC_CNTs]; omega
  simp only [State.viewIntc, if_neg hstat, if_neg hcq, hidx (A.INTC_PENDk 0) (by decide), hidx (A.INTC_HELDk 0) (by decide),
    hidx (A.INTC_CLAIMEDk 0) (by decide)]

theorem State.viewUnit_intc {a : Nat} (h : a / 0x10000 = 13) (w : BitVec 32) : s.viewUnit a w = s.viewIntc a w := by
  simp [State.viewUnit, h]

theorem State.viewReg_counter {n : Nat} (h : n < 128) :
    (s.viewReg (A.INTC_CNTs n)).toNat = s.rd (F.INTC_CNTs_COUNT n) := by
  have hpage : A.INTC_CNTs n / 0x10000 = 13 := by simp only [A.INTC_CNTs]; omega
  have hview : s.viewReg (A.INTC_CNTs n) = s.reg (A.INTC_CNTs n) &&& BitVec.ofNat 32 (2 ^ 8 - 1) := by
    simp only [State.viewReg, findReg_counter h, State.viewUnit_intc hpage, State.viewIntc_counter]
    rfl
  rw [hview, BitVec.toNat_and]
  simp only [State.rd, getField, BitVec.toNat_ofNat]
  rw [Nat.pow_zero, Nat.div_one]
  exact Nat.and_two_pow_sub_one_eq_mod _ 8

/-- Settles O9: a rise and a completion count through the same edge, and a read clears the one field of the counter. -/
theorem sourceCounters : Obligations.SourceCounters := by
  unfold Obligations.SourceCounters
  refine ⟨fun n s hn hd hl hr => ?_, fun n e s hn hu hb he hc hl => ?_, fun n who s h => ?_⟩
  · refine ⟨_, execSourceLevelRise_running n [] hd, ?_⟩
    show (s.levelRise _ n).rd _ = _
    rw [State.levelRise_rises _ hl hr, State.rd_countEdge_gate _ hn, State.rd_setRaw_counter]
  · refine ⟨_, execComplete_sound hu hb he, ?_⟩
    rw [State.rd_hostResult_ne _ (by simp only [A.INTC_CNTs, A.HBUS_STAT]; omega)]
    exact State.rd_intcComplete_counter (s := s.hostBack [] true) hn hc hl
  · rw [State.busRead_counter who h]
    exact ⟨rfl, State.viewReg_counter h, State.rd_wr_self s _ 0 (show 0 + 8 ≤ 32 by decide)⟩

/-! ### Edges, enables, moderation (R436, R437, R442, R443) -/

theorem execSourceLevelRise_unchanged (n : Fin 129) (h : s.sourceLevel n = false ∨ s.rawLevel n = true) :
    execSourceLevelRise n [] s = .next s := by
  cases hd : s.sys.dieHeld with
  | true => simp [execSourceLevelRise, hd]
  | false => exact (execSourceLevelRise_running n [] hd).trans (congrArg Host.Outcome.next (State.levelRise_unchanged _ h))

theorem execSourceLevelFall_falls (n : Fin 129) (hd : s.sys.dieHeld = false) (hl : s.sourceLevel n = false)
    (hr : s.rawLevel n = true) : execSourceLevelFall n s = .next ((s.setRaw n false).srcIdle n).alertSettle := by
  simp [execSourceLevelFall, hd, hl, hr]

theorem execIntcEnWrite_running (k : Fin 4) (v : Word) (hd : s.sys.dieHeld = false) :
    execIntcEnWrite k v s = .next (s.intcEnWrite k v) := by
  simp [execIntcEnWrite, hd]

/-- Without a held source the period ends with its timer. -/
theorem execModerationExpiry_noneHeld (g : Fin 16) (hd : s.sys.dieHeld = false) (hr : s.modRunning g = true)
    (hh : s.srcsIn .held = []) : execModerationExpiry g s = .next (s.wr (F.INTC_MODg_RUNNING g) 0) := by
  simp [execModerationExpiry, hd, hr, hh, State.forEach]

theorem execModerationExpiry_stopped (g : Fin 16) (hr : s.modRunning g = false) : execModerationExpiry g s = .next s := by
  simp [execModerationExpiry, hr]

/-- Settles O49: each clause is one branch of its command. -/
theorem interruptSources : Obligations.InterruptSources := by
  unfold Obligations.InterruptSources
  exact ⟨fun n s hd hl hr =>
      (execSourceLevelRise_running n [] hd).trans (congrArg Host.Outcome.next (State.levelRise_rises _ hl hr)),
    fun n s => execSourceLevelRise_unchanged n, fun n m s hd => execSourceLevelRise_running n [m] hd,
    fun n s => execSourceLevelFall_falls n, fun k v s => execIntcEnWrite_running k v,
    fun g s => execModerationExpiry_noneHeld g, fun g s => execModerationExpiry_stopped g⟩

end Sys2Proof.Machine
end

section
/-!
PROOFS. The commands of the host bus (R410, R418 to R427, R438, R439, R447).
-/

namespace Sys2Proof.Machine

open Sys2Proof

variable {s : State}

/-! ### Transactions that are served -/

/-- A read that is served ends soundly. -/
theorem State.hostCmd_read {e : ReadEnd} (he : readSound e) (hu : s.hostUp = true) (hb : s.hostBusy = false)
    (wr : List (BitVec 8)) (data : State → List (BitVec 8)) (t : State → State) :
    (s.hostCmd fun s => s.hostRead e wr (data s) (t s) 0) =
      .next (((t s).hostResult 0).hostBack (s.hostBytes wr (data s) e) true) := by
  rw [State.hostCmd_served _ hu hb, State.hostRead_sound he]
  rfl

/-- A write that is served acts on the state that has acknowledged it. -/
theorem State.hostCmd_write {e : WriteEnd} {wr : List (BitVec 8)} (he : s.writeSound wr e) (hu : s.hostUp = true)
    (hb : s.hostBusy = false) (act : State → State) :
    (s.hostCmd fun s => s.hostWrite wr e act) = .next (act (s.hostBack [] true)) := by
  rw [State.hostCmd_served _ hu hb, State.hostWrite_sound he]

/-- A failure that is always answered (R424). -/
theorem State.hostAlways_fail (hu : s.hostUp = true) (code : Nat) :
    (s.hostAlways fun s => s.hostFail code) = .next (s.hostFail code) := State.hostAlways_served _ hu

theorem State.writeSound_pec {wr : List (BitVec 8)} {p : Byte} (h : p = s.writePec wr) : s.writeSound wr (.pec p) :=
  .inl (congrArg WriteEnd.pec h)

theorem execIdent_sound {e : ReadEnd} (he : readSound e) (hu : s.hostUp = true) :
    execIdent e s = .next ((s.hostResult 0).hostBack (s.hostBytes [0x01] (counted s.identData) e) true) := by
  rw [execIdent, State.hostAlways_served _ hu, State.hostRead_sound he]
  rfl

theorem execIdent_down (e : ReadEnd) (hu : s.hostUp = false) : execIdent e s = .next (s.hostBack [] false) :=
  State.hostAlways_down _ hu

/-- STATUS keeps RESULT (R418). -/
theorem execStatus_noPec (hu : s.hostUp = true) :
    execStatus .noPec s = .next (s.hostBack (s.hostBytes [0x20] s.statusData .noPec) true) := by
  rw [execStatus, State.hostAlways_served _ hu]

/-! ### The pointer (R421, R422) -/

section
variable {v : Word} {p : Byte}

/-- Outside of the busy state SET_PTR is a write of the pointer. -/
theorem execSetPtr_pec (hu : s.hostUp = true) (hb : s.hostBusy = false) (hp : p = s.writePec (0x10 :: leBytes 4 v.toNat)) :
    execSetPtr v (.pec p) s = .next (if v.toNat % 4 ≠ 0 then (s.hostBack [] true).hostErr 3
      else ((s.hostBack [] true).setReg A.HBUS_PTR v).hostResult 0) := by
  rw [execSetPtr, State.hostAlways_served _ hu, if_neg (by simp), hb, if_neg (by simp),
    State.hostWrite_sound (State.writeSound_pec hp)]

end

section
variable {n : Byte}

theorem execReadBlk_badLength (e : ReadEnd) (hu : s.hostUp = true) (h : n = 0 ∨ n.toNat % 4 ≠ 0) :
    execReadBlk n e s = .next (s.hostFail 3) := by
  rw [execReadBlk, State.hostAlways_served _ hu, if_pos h]

/-- A block read gives its length and its words; a word that an access ended without fails it (R422). -/
theorem execReadBlk_sound {e : ReadEnd} (he : readSound e) (hu : s.hostUp = true) (hb : s.hostBusy = false) (h0 : n ≠ 0)
    (h4 : n.toNat % 4 = 0) :
    let r := State.ptrRead (n.toNat / 4) s
    execReadBlk n e s = .next ((if (if r.2.1 then 4 else 0) = 0 then r.2.2.hostResult 0
      else r.2.2.hostErr (if r.2.1 then 4 else 0)).hostBack (s.hostBytes [0x11, n] (n :: r.1) e) true) := by
  intro r
  rw [execReadBlk, State.hostAlways_served _ hu, if_neg (not_or_intro h0 (not_not_intro h4)), hb, if_neg (by simp),
    State.hostRead_sound he]

theorem execWriteBlk_busy (b : List Byte) (e : WriteEnd) (hu : s.hostUp = true) (hb : s.hostBusy = true) :
    execWriteBlk n b e s = .next (s.hostFail 2) := State.hostCmd_busy _ hu hb

theorem execWriteBlk_sound {b : List Byte} {e : WriteEnd} (he : s.writeSound (0x12 :: n :: b) e) (hu : s.hostUp = true)
    (hb : s.hostBusy = false) (h0 : n ≠ 0) (h4 : n.toNat % 4 = 0) :
    let r := State.ptrWrite b (n.toNat / 4) (s.hostBack [] true)
    execWriteBlk n b e s = .next (if r.1 then r.2.hostErr 4 else r.2.hostResult 0) := by
  intro r
  rw [execWriteBlk, State.hostCmd_served _ hu hb, if_neg (not_or_intro h0 (not_not_intro h4)), State.hostWrite_sound he]

end

/-! ### Completions, warm resets (R447, R55) -/

theorem execComplete_badPec {n p : Byte} (hu : s.hostUp = true) (hb : s.hostBusy = false) (h : p ≠ s.writePec [0x31, n]) :
    execComplete n (.pec p) s = .next (s.hostFail 1) := by
  rw [execComplete, State.hostCmd_served _ hu hb, State.hostWrite_badPec h]

/-- The completions read leave the queue. -/
theorem execCqRead_withPec (hu : s.hostUp = true) :
    execCqRead .withPec s = .next ((({ s with intc := { s.intc with cq := s.intc.cq.drop 15 } } : State).hostResult 0).hostBack
      (s.hostBytes [0x38] (counted ((s.intc.cq.take 15).flatMap CqEntry.bytes)) .withPec) true) := by
  rw [execCqRead, State.hostAlways_served _ hu]
  rfl

section
variable {m : List Byte} {e : WriteEnd}

/-- The key and a mode in range start a warm reset (R55). -/
theorem execWarmReset_keyed (he : s.writeSound (0x6F :: m) e) (hu : s.hostUp = true) (hb : s.hostBusy = false)
    (h0 : u8 m 0 = 0x52) (h1 : u8 m 1 = 0x57) (h2 : u8 m 2 ≤ 2) :
    execWarmReset m e s = .next (((s.hostBack [] true).hostResult 0).warmTrigger false (u8 m 2)) := by
  rw [execWarmReset, State.hostCmd_write he hu hb, if_pos ⟨h0, h1, h2⟩]

theorem execWarmReset_badKey (he : s.writeSound (0x6F :: m) e) (hu : s.hostUp = true) (hb : s.hostBusy = false)
    (h0 : u8 m 0 ≠ 0x52) : execWarmReset m e s = .next ((s.hostBack [] true).hostErr 8) := by
  rw [execWarmReset, State.hostCmd_write he hu hb, if_neg fun h => h0 h.1]

end

/-- Settles O47: every command is a read or a write that is served, held off as busy, or not acknowledged. -/
theorem hostBusCommands : Obligations.HostBusCommands := by
  unfold Obligations.HostBusCommands
  exact ⟨fun s => execIdent_sound (.inr rfl),
    fun e s => execIdent_down e,
    fun s => execStatus_noPec,
    fun v p s hu hb h4 hp => (execSetPtr_pec hu hb hp).trans (congrArg Host.Outcome.next (if_neg (not_not_intro h4))),
    fun v p s hu hb h4 hp => (execSetPtr_pec hu hb hp).trans (congrArg Host.Outcome.next (if_pos h4)),
    fun n s => execReadBlk_sound (.inl rfl),
    fun n e s => execReadBlk_badLength e,
    fun n b p s hu hb h0 h4 hp => execWriteBlk_sound (State.writeSound_pec hp) hu hb h0 h4,
    fun n b e s => execWriteBlk_busy b e,
    fun n s hu hb hc => by
      have h := execClaim_sound hu hb (.inl rfl : readSound .noPec)
      rwa [State.intcClaim_some hc] at h,
    fun s hu hb hc => by
      have h := execClaim_sound hu hb (.inl rfl : readSound .noPec)
      rwa [State.intcClaim_none hc] at h,
    fun n p s hu hb hp => execComplete_sound hu hb (State.writeSound_pec hp),
    fun n p s => execComplete_badPec,
    fun s => execCqRead_withPec,
    fun q s hu hb => State.hostCmd_read (.inl rfl) hu hb _ (fun s => counted (s.logFrom q.toNat)) (fun s => s),
    fun m p s hu hb h0 h1 h2 hp => execWarmReset_keyed (State.writeSound_pec hp) hu hb h0 h1 h2,
    fun m p s hu hb h0 hp => execWarmReset_badKey (State.writeSound_pec hp) hu hb h0,
    fun s hu => State.hostAlways_fail hu 5, fun s hu => State.hostAlways_fail hu 6, fun s hu => State.hostAlways_fail hu 7⟩

end Sys2Proof.Machine
end

section
/-!
PROOFS. Debug access: challenges, responses, passwords and the lockout (R450 to R458).
-/

namespace Sys2Proof.Machine

open Sys2Proof

variable {s : State}

/-! ### What debug access depends on -/

/-- Debug access is closed by the lifecycle and one bit of SEC_DBGSTAT (R451). -/
theorem State.debugOpen_congr {t : State} (ho : t.otp = s.otp) (hr : t.rd F.SEC_DBGSTAT_OPEN = s.rd F.SEC_DBGSTAT_OPEN) :
    t.debugOpen = s.debugOpen := by
  simp only [State.debugOpen, State.on, ho, hr]

@[simp] theorem State.debugOpen_setNonce (n : Option (List (BitVec 8))) : (s.setNonce n).debugOpen = s.debugOpen :=
  State.debugOpen_congr rfl (State.rd_wr_apart s (f := F.SEC_DBGSTAT_NONCE_VALID) (g := F.SEC_DBGSTAT_OPEN) rfl (by decide)
    (.inl (by decide)) _)

@[simp] theorem State.lockedOut_setNonce (n : Option (List (BitVec 8))) : (s.setNonce n).lockedOut = s.lockedOut := by
  have hr : (s.setNonce n).rd F.SEC_ATTEMPT_FAILS = s.rd F.SEC_ATTEMPT_FAILS := State.rd_wr_ne s (by decide) _
  simp only [State.lockedOut, hr]
  rfl

@[simp] theorem State.methodOk_setNonce (n : Option (List (BitVec 8))) (password : Bool) :
    (s.setNonce n).methodOk password = s.methodOk password := rfl

/-! ### Attempts as they arrive (R454, R455, R458) -/

section
variable {password : Bool} {a : Attempt}

/-- An attempt that the lifecycle allows while debug access is closed goes under evaluation. -/
theorem State.attemptGo_evaluated (hm : s.methodOk password = true) (ho : s.debugOpen = false) (hl : s.lockedOut = false) :
    s.attemptGo password a true = { s with sec := { s.sec with attempt := some a, relocked := false } } := by
  simp [State.attemptGo, hm, ho, hl]

/-- In a lockout it is refused and counted (R457). -/
theorem State.attemptGo_lockedOut (valid : Bool) (hm : s.methodOk password = true) (ho : s.debugOpen = false)
    (hl : s.lockedOut = true) :
    s.attemptGo password a valid = ((s.bump F.SEC_ATTEMPT_REFUSED).ev A.SEC_EVENT 5).hostResult 8 := by
  simp [State.attemptGo, hm, ho, hl]

end

section
variable {b : List Byte}

/-- A password while another attempt is under evaluation is answered busy; else it is an attempt. -/
theorem State.unlockPw_attempt (h : s.sec.attempt = none) :
    s.unlockPw b = s.attemptGo true (.password (slice b 0 8)) true := by
  simp [State.unlockPw, h]

theorem State.response_busy (h : s.sec.attempt.isSome = true) : s.response b = s.hostResult 2 := if_pos h

/-- A response to a nonce that has not expired goes under evaluation, and the nonce is spent (R455). -/
theorem State.response_evaluated {n : List Byte} (ha : s.sec.attempt = none) (hn : s.sec.nonce = some n)
    (ht : s.now < s.sec.nonceUntil) (hm : s.methodOk false = true) (ho : s.debugOpen = false) (hl : s.lockedOut = false) :
    s.response b = { s.setNonce none with
      sec := { (s.setNonce none).sec with attempt := some (.response (slice b 0 16) (some n)), relocked := false } } := by
  have hgo : (s.setNonce none).attemptGo false (.response (slice b 0 16) (some n)) true = _ :=
    State.attemptGo_evaluated (by simpa using hm) (by simpa using ho) (by simpa using hl)
  simp [State.response, ha, hn, ht, hgo]

section
variable {n : Byte} {e : WriteEnd} {p : Byte}

theorem execResponse_badLength (hu : s.hostUp = true) (hb : s.hostBusy = false) (hn : n ≠ 16) :
    execResponse n b e s = .next (s.hostFail 3) := by
  rw [execResponse, State.hostCmd_served _ hu hb, if_pos hn]

theorem execResponse_sound (hu : s.hostUp = true) (hb : s.hostBusy = false) (he : s.writeSound (0x51 :: 16 :: b) e) :
    execResponse 16 b e s = .next ((s.hostBack [] true).response b) := by
  rw [execResponse, State.hostCmd_served _ hu hb, if_neg (not_not_intro rfl), State.hostWrite_sound he]

theorem execUnlockPw_badLength (hu : s.hostUp = true) (hb : s.hostBusy = false) (hn : n ≠ 8) :
    execUnlockPw n b e s = .next (s.hostFail 3) := by
  rw [execUnlockPw, State.hostCmd_served _ hu hb, if_pos hn]

theorem execUnlockPw_sound (hu : s.hostUp = true) (hb : s.hostBusy = false) (he : s.writeSound (0x58 :: 8 :: b) e) :
    execUnlockPw 8 b e s = .next ((s.hostBack [] true).unlockPw b) := by
  rw [execUnlockPw, State.hostCmd_served _ hu hb, if_neg (not_not_intro rfl), State.hostWrite_sound he]

end

/-- A password that the lifecycle allows goes under evaluation. -/
theorem State.unlockPw_evaluated (ha : s.sec.attempt = none) (hm : s.methodOk true = true) (ho : s.debugOpen = false)
    (hl : s.lockedOut = false) :
    s.unlockPw b = { s with sec := { s.sec with attempt := some (.password (slice b 0 8)), relocked := false } } :=
  (State.unlockPw_attempt ha).trans (State.attemptGo_evaluated hm ho hl)

/-- The JTAG mailbox takes the operations of the host (R456). -/
theorem execJtagUnlockMailbox_running (m : Mailbox) (hd : s.sys.dieHeld = false) :
    execJtagUnlockMailbox m s = .next (match m with
      | .challenge n => s.challenge n
      | .response b => s.response b
      | .unlockPw b => s.unlockPw b) := by
  simp only [execJtagUnlockMailbox, hd]
  rfl

end

/-! ### Evaluation (R454, R455, R457) -/

section
variable {a : Attempt}

theorem execAttemptEvaluated_matches (ha : s.sec.attempt = some a) (hm : s.attemptMatches a = true)
    (hr : s.sec.relocked = false) :
    execAttemptEvaluated s = .next ((({ s with sec := { s.sec with attempt := none, relocked := false } } : State).debugUnlock
      a.method).hostResult 0) := by
  simp [execAttemptEvaluated, ha, hm, hr]

theorem execAttemptEvaluated_fails (ha : s.sec.attempt = some a) (hm : s.attemptMatches a = false) :
    execAttemptEvaluated s = .next (({ s with sec := { s.sec with attempt := none, relocked := false } } :
      State).attemptFail.hostResult 8) := by
  simp [execAttemptEvaluated, ha, hm]

end

theorem State.attemptFail_sec : s.attemptFail.sec = { s.sec with
    lockUntil := s.now + 1000000 * lockoutSeconds (s.rd F.SEC_ATTEMPT_FAILS + 1) } := by
  unfold State.attemptFail
  dsimp only
  split
  · rfl
  · rfl

theorem State.attemptFail_otp : s.attemptFail.otp = s.otp := by
  unfold State.attemptFail
  dsimp only
  split
  · rfl
  · rfl

/-- A failure writes SEC_ATTEMPT and SEC_EVENT alone. -/
theorem State.rd_attemptFail_ne {f : Fld} (ha : f.addr ≠ A.SEC_ATTEMPT) (he : f.addr ≠ A.SEC_EVENT) :
    s.attemptFail.rd f = s.rd f := by
  have hcount (v : Nat) : ((s.wr F.SEC_ATTEMPT_FAILS v).ev A.SEC_EVENT 4).rd f = s.rd f := by
    rw [State.ev, State.rd_wr_ne _ he, State.rd_wr_ne _ ha]
  unfold State.attemptFail
  dsimp only
  split
  · rw [State.ev, State.rd_wr_ne _ he, State.rd_wr_ne _ ha]
    exact hcount _
  · exact hcount _

theorem State.rd_attemptFail_fails (h : s.rd F.SEC_ATTEMPT_FAILS < 32) :
    s.attemptFail.rd F.SEC_ATTEMPT_FAILS = s.rd F.SEC_ATTEMPT_FAILS + 1 := by
  have hcount : ((s.wr F.SEC_ATTEMPT_FAILS (s.rd F.SEC_ATTEMPT_FAILS + 1)).ev A.SEC_EVENT 4).rd F.SEC_ATTEMPT_FAILS =
      s.rd F.SEC_ATTEMPT_FAILS + 1 := by
    rw [State.ev, State.rd_wr_ne _ (by decide), State.rd_wr_self _ _ _ (by decide)]
    exact Nat.mod_eq_of_lt (show _ < 64 by omega)
  unfold State.attemptFail
  dsimp only
  split
  · rw [State.ev, State.rd_wr_ne _ (by decide),
      State.rd_wr_apart _ (f := F.SEC_ATTEMPT_PERMANENT) (g := F.SEC_ATTEMPT_FAILS) rfl (by decide) (.inl (by decide))]
    exact hcount
  · exact hcount

/-- The failure that leaves FAILS at 32 sets PERMANENT. -/
theorem State.rd_attemptFail_permanent (h : s.rd F.SEC_ATTEMPT_FAILS = 31) :
    s.attemptFail.rd F.SEC_ATTEMPT_PERMANENT = 1 := by
  unfold State.attemptFail
  dsimp only
  rw [if_pos (by rw [h]), State.ev, State.rd_wr_ne _ (by decide), State.rd_wr_self _ _ _ (by decide)]
  rfl

/-! ### The lockout (R457) -/

theorem State.lockedOut_iff : s.lockedOut = true ↔ 32 ≤ s.rd F.SEC_ATTEMPT_FAILS ∨ s.now < s.sec.lockUntil := by
  simp only [State.lockedOut, Bool.or_eq_true, decide_eq_true_eq]

theorem State.methodOk_password (hl : s.otp.lifecycle = 1) (hp : s.otp.pwEn = true) : s.methodOk true = true := by
  simp [State.methodOk, hl, hp]

/-- In a lockout a password through the mailbox is refused. -/
theorem execJtagUnlockMailbox_lockedOut (b : List Byte) (hd : s.sys.dieHeld = false) (ha : s.sec.attempt = none)
    (hm : s.methodOk true = true) (ho : s.debugOpen = false) (hl : s.lockedOut = true) :
    execJtagUnlockMailbox (.unlockPw b) s = .next (((s.bump F.SEC_ATTEMPT_REFUSED).ev A.SEC_EVENT 5).hostResult 8) :=
  (execJtagUnlockMailbox_running _ hd).trans
    (congrArg Host.Outcome.next ((State.unlockPw_attempt ha).trans (State.attemptGo_lockedOut true hm ho hl)))

/-- A refusal that is counted writes REFUSED, SEC_EVENT and HBUS_STAT alone. -/
theorem State.rd_refused {f : Fld} (he : f.addr ≠ A.SEC_EVENT) (hh : f.addr ≠ A.HBUS_STAT) :
    (((s.bump F.SEC_ATTEMPT_REFUSED).ev A.SEC_EVENT 5).hostResult 8).rd f = (s.bump F.SEC_ATTEMPT_REFUSED).rd f := by
  rw [State.rd_hostResult_ne _ hh, State.ev, State.rd_wr_ne _ he]

/-- Settles O17: a failure counts, and in the lockout that it starts an attempt ends in a refusal that is counted. -/
theorem failedAttemptsLockOut : Obligations.FailedAttemptsLockOut := by
  unfold Obligations.FailedAttemptsLockOut
  refine ⟨fun s a ha hm hf => ⟨_, execAttemptEvaluated_fails ha hm, ?_, ?_, ?_, ?_, fun h31 => ?_⟩,
    fun s b hd ha ho hlc hpw hl => ⟨_, execJtagUnlockMailbox_lockedOut b hd ha (State.methodOk_password hlc hpw) ho
      (State.lockedOut_iff.mpr hl.symm), ?_, ?_, ?_, ?_⟩⟩
  · rw [State.rd_hostResult_ne _ (by decide)]
    exact State.rd_attemptFail_fails hf
  · refine State.debugOpen_congr (by rw [State.hostResult_otp, State.attemptFail_otp]) ?_
    rw [State.rd_hostResult_ne _ (by decide)]
    exact State.rd_attemptFail_ne (by decide) (by decide)
  · rw [State.hostResult_sec, State.attemptFail_sec]
  · rw [State.hostResult_sec, State.attemptFail_sec]
    rfl
  · rw [State.rd_hostResult_ne _ (by decide)]
    exact State.rd_attemptFail_permanent h31
  · simp
  · refine (State.debugOpen_congr (by simp) ?_).trans ho
    rw [State.rd_refused (by decide) (by decide), State.rd_bump_ne _ (by decide)]
  · rw [State.rd_refused (by decide) (by decide),
      State.rd_bump_apart _ (f := F.SEC_ATTEMPT_REFUSED) (g := F.SEC_ATTEMPT_FAILS) rfl (by decide) (.inl (by decide))]
  · rw [State.rd_refused (by decide) (by decide), State.rd_bump_self _ _ (by decide)]

end Sys2Proof.Machine
end

section
/-!
PROOFS. The address of the host bus, alerts, the security version and the NVM operations (R416, R429, R432, R433, R460).
-/

namespace Sys2Proof.Machine

open Sys2Proof

variable {s : State}

/-! ### Address and alerts (R416, R429) -/

/-- On an idle bus a changed address takes effect. -/
theorem execAddrChanged_pending (hp : s.hbus.addrPending = true) (hd : s.sys.dieHeld = false) :
    let t := (s.wr F.HBUS_STAT_ADDR (s.rd F.HBUS_CFG_ADDR)).ev A.HBUS_EVENT 7
    execAddrChanged s = .next { t with hbus := { t.hbus with addrPending := false, cfgAddrUsed := true } } := by
  rw [execAddrChanged, hp, hd, if_neg (by simp)]

section
variable {line : Byte}

/-- The byte that the device answers an alert response with. -/
def State.alertByte (s : State) : Byte := BitVec.ofNat 8 (2 * s.rd F.HBUS_STAT_ADDR)

theorem execAlertResponse_released (hu : s.hostUp = true) (hl : s.alertLow = false) :
    execAlertResponse line s = .next (s.hostBack [] false) := by
  rw [execAlertResponse, hu, hl, if_pos (by simp)]

/-- While ALERT_N is low the device answers its address, and reads on the line whether it has won. -/
theorem execAlertResponse_low (hu : s.hostUp = true) (hl : s.alertLow = true) :
    let t := s.hostBack [s.alertByte] true
    execAlertResponse line s = .next (if s.alertByte &&& line = s.alertByte then
        { t.ev A.HBUS_EVENT 12 with hbus := { t.hbus with alertWon := true } }
      else (t.bump F.HBUS_CNT2_ARA_LOST).ev A.HBUS_EVENT 13) := by
  rw [execAlertResponse, hu, hl, if_neg (by simp)]
  rfl

end

/-! ### Challenges, RELOCK and the times of attempts (R455, R457, R458) -/

theorem execChallenge_sound {nonce : List Byte} {e : ReadEnd} (he : readSound e) (hu : s.hostUp = true)
    (hb : s.hostBusy = false) :
    execChallenge nonce e s = .next (((s.challenge nonce).hostResult 0).hostBack
      (s.hostBytes [0x50] (counted (slice nonce 0 16)) e) true) :=
  State.hostCmd_read he hu hb [0x50] (fun _ => counted (slice nonce 0 16)) (fun s => s.challenge nonce)

section
variable {v : Word}

theorem State.relock_badKey (hl : s.otp.lifecycle ≠ 0) (hk : getField v 16 16 ≠ 0x524C) :
    s.relock v = s.bump F.SEC_CNT_RELOCK_REFUSED := by
  rw [State.relock, if_neg hl, if_pos hk]

/-- RELOCK closes debug access, and an evaluation under way no longer opens it. -/
theorem State.relock_keyed (hl : s.otp.lifecycle ≠ 0) (hk : getField v 16 16 = 0x524C) (h0 : v.getLsbD 0 = true) :
    let t := (s.wr F.SEC_DBGSTAT_OPEN 0).ev A.SEC_EVENT 1
    s.relock v = { t with sec := { t.sec with relocked := s.sec.attempt.isSome } } := by
  rw [State.relock, if_neg hl, if_neg (not_not_intro hk), if_pos h0]
  rfl

theorem execRelock_running (hd : s.sys.dieHeld = false) : execRelock v s = .next (s.relock v) := by
  simp [execRelock, hd]

theorem execSvRaise_running (hd : s.sys.dieHeld = false) : execSvRaise v s = .next (s.svWrite v) := by
  simp [execSvRaise, hd]

end

theorem execLockoutEnd_early (h : s.now < s.sec.lockUntil) : execLockoutEnd s = .next s :=
  congrArg Host.Outcome.next (if_pos h)

theorem execLockoutEnd_due (h : s.sec.lockUntil ≤ s.now) :
    execLockoutEnd s = .next { s with sec := { s.sec with lockUntil := 0 } } :=
  congrArg Host.Outcome.next (if_neg (Nat.not_lt.mpr h))

theorem execNonceExpire_due (h : s.sec.nonceUntil ≤ s.now) : execNonceExpire s = .next (s.setNonce none) :=
  congrArg Host.Outcome.next (if_neg (Nat.not_lt.mpr h))

/-! ### The security version (R460) -/

theorem State.svWrite_accepted {v : Word} (h : s.svOk v = true) :
    s.svWrite v = { s.wr F.SEC_SECVER_BUSY 1 with sec := { s.sec with svValue := some (getField v 0 7) } } := if_pos h

theorem State.svWrite_refused {v : Word} (h : s.svOk v = false) :
    s.svWrite v = (s.bump F.SEC_CNT_SV_REFUSED).ev A.SEC_EVENT 13 := by
  simp [State.svWrite, h]

/-- The version that was being programmed is the minimum, where it is above it. -/
theorem execSvRaised_programmed {x : Nat} (h : s.sec.svValue = some x) :
    let t := ((s.wr F.SEC_SECVER_BUSY 0).wr F.SEC_SECVER_MIN (max s.otp.minSv x)).ev A.SEC_EVENT 12
    execSvRaised s =
      .next { t with otp := { t.otp with minSv := max s.otp.minSv x }, sec := { t.sec with svValue := none } } := by
  simp only [execSvRaised, h]

/-! ### NVM operations (R432, R433) -/

section
variable {op : Nat} {ee fast : Bool} {len : BitVec 9}

theorem toNat_nvmWord (h : op < 4) : (nvmWord op ee fast len).toNat =
    2 ^ 31 + len.toNat * 65536 + (if fast then 16 else 0) + (if ee then 8 else 0) + op := by
  have hl := len.isLt
  rw [nvmWord, BitVec.toNat_ofNat, Nat.mod_eq_of_lt]
  split
  all_goals split
  all_goals omega

/-- The operation that a word asks for. -/
theorem getField_nvmWord_op (h : op < 4) : getField (nvmWord op ee fast len) 0 2 = op := by
  rw [getField, toNat_nvmWord h]
  split
  all_goals split
  all_goals omega

theorem getField_nvmWord_len (h : op < 4) : getField (nvmWord op ee fast len) 16 9 = len.toNat := by
  have hl := len.isLt
  rw [getField, toNat_nvmWord h]
  split
  all_goals split
  all_goals omega

/-- A bit of a word, as arithmetic. -/
theorem getLsbD_eq_decide (v : BitVec 32) (i : Nat) : v.getLsbD i = decide (v.toNat / 2 ^ i % 2 = 1) := by
  rw [BitVec.getLsbD, Nat.testBit_eq_decide_div_mod_eq]

theorem getLsbD_nvmWord_eeprom (h : op < 4) : (nvmWord op ee fast len).getLsbD 3 = ee := by
  rw [getLsbD_eq_decide, toNat_nvmWord h]
  cases ee
  all_goals cases fast
  all_goals simp
  all_goals omega

theorem getLsbD_nvmWord_fast (h : op < 4) : (nvmWord op ee fast len).getLsbD 4 = fast := by
  rw [getLsbD_eq_decide, toNat_nvmWord h]
  cases fast
  all_goals cases ee
  all_goals simp
  all_goals omega

theorem getLsbD_nvmWord_go (h : op < 4) : (nvmWord op ee fast len).getLsbD 31 = true := by
  have hl := len.isLt
  rw [getLsbD_eq_decide, toNat_nvmWord h, decide_eq_true_eq]
  split
  all_goals split
  all_goals omega

/-- The address that an operation on a target takes. -/
def State.nvmAddr (s : State) (ee : Bool) : Nat :=
  if ee then (s.reg A.HBUS_NVM_ADDR).toNat % 262144 else (s.reg A.HBUS_NVM_ADDR).toNat

/-- The operation that GO starts; a Program takes its bytes at once (R433). -/
def State.nvmStarted (s : State) (op : Nat) (ee fast : Bool) (len : BitVec 9) : NvmOp :=
  { op := op, eeprom := ee, fast := fast, addr := s.nvmAddr ee, len := len.toNat,
    data := if op = 1 then slice ((List.range 64).flatMap fun k => leBytes 4 (s.reg (A.HBUS_NVM_DATAk k)).toNat) 0 len.toNat
      else [] }

/-- A write with GO starts the operation that its word asks for, or is refused with the error that it meets. -/
theorem State.nvmCtrlWrite_go {v : Word} (hop : getField v 0 2 = op) (hee : v.getLsbD 3 = ee) (hfast : v.getLsbD 4 = fast)
    (hlen : getField v 16 9 = len.toNat) (hgo : v.getLsbD 31 = true) : s.nvmCtrlWrite v =
    if s.nvmCheck op ee (s.nvmAddr ee) len.toNat ≠ 0 then
      (s.plainWrite A.HBUS_NVM_CTRL v).nvmRefuse (s.nvmCheck op ee (s.nvmAddr ee) len.toNat)
    else
      { (s.plainWrite A.HBUS_NVM_CTRL v).wr F.HBUS_NVM_STAT_BUSY 1 with
        hbus := { (s.plainWrite A.HBUS_NVM_CTRL v).hbus with nvm := some (s.nvmStarted op ee fast len) } } := by
  simp only [State.nvmCtrlWrite, hop, hee, hfast, hlen, hgo]
  generalize s.plainWrite A.HBUS_NVM_CTRL v = t
  rfl

theorem State.nvmGo_eq (h : op < 4) (hu : s.busUp = true) : s.nvmGo op ee fast len =
    if s.nvmCheck op ee (s.nvmAddr ee) len.toNat ≠ 0 then
      (s.plainWrite A.HBUS_NVM_CTRL (nvmWord op ee fast len)).nvmRefuse (s.nvmCheck op ee (s.nvmAddr ee) len.toNat)
    else
      { (s.plainWrite A.HBUS_NVM_CTRL (nvmWord op ee fast len)).wr F.HBUS_NVM_STAT_BUSY 1 with
        hbus := { (s.plainWrite A.HBUS_NVM_CTRL (nvmWord op ee fast len)).hbus with
          nvm := some (s.nvmStarted op ee fast len) } } := by
  rw [State.nvmGo, if_pos hu, State.nvmCtrlWrite_go (getField_nvmWord_op h) (getLsbD_nvmWord_eeprom h)
    (getLsbD_nvmWord_fast h) (getField_nvmWord_len h) (getLsbD_nvmWord_go h)]

/-- The busy bit that an operation sets is seen beside its record. -/
theorem State.on_busy_started (t : State) (x : NvmOp) :
    ({ t.wr F.HBUS_NVM_STAT_BUSY 1 with hbus := { t.hbus with nvm := some x } } : State).on F.HBUS_NVM_STAT_BUSY = true := by
  have hbusy : (t.wr F.HBUS_NVM_STAT_BUSY 1).rd F.HBUS_NVM_STAT_BUSY = 1 := State.rd_wr_self t _ 1 (by decide)
  exact bne_iff_ne.mpr (hbusy.trans_ne (by decide))

/-- An operation that nothing forbids makes the unit busy with it. -/
theorem State.nvmGo_starts (h : op < 4) (hu : s.busUp = true) (hc : s.nvmCheck op ee (s.nvmAddr ee) len.toNat = 0) :
    (s.nvmGo op ee fast len).on F.HBUS_NVM_STAT_BUSY = true ∧
      (s.nvmGo op ee fast len).hbus.nvm = some (s.nvmStarted op ee fast len) := by
  rw [State.nvmGo_eq h hu, if_neg (not_not_intro hc)]
  exact ⟨State.on_busy_started _ _, rfl⟩

/-- While the device runs, the NVM operations belong to the firmware (R432). -/
theorem State.nvmCheck_state (addr n : Nat) (h1 : s.boot.state ≠ bootRomDefaults) (h2 : s.boot.state ≠ bootDryfitDone)
    (hb : s.on F.HBUS_NVM_STAT_BUSY = false) : s.nvmCheck op ee addr n = 0x21 := by
  simp [State.nvmCheck, hb, h1, h2]

theorem State.nvmGo_refused (h : op < 4) (hu : s.busUp = true) (h1 : s.boot.state ≠ bootRomDefaults)
    (h2 : s.boot.state ≠ bootDryfitDone) (hb : s.on F.HBUS_NVM_STAT_BUSY = false) :
    s.nvmGo op ee fast len = (s.plainWrite A.HBUS_NVM_CTRL (nvmWord op ee fast len)).nvmRefuse 0x21 := by
  rw [State.nvmGo_eq h hu, State.nvmCheck_state _ _ h1 h2 hb, if_pos (by decide)]

theorem State.nvmGo_busDown (hu : s.busUp = false) : s.nvmGo op ee fast len = s := by
  simp [State.nvmGo, hu]

end

section
variable {x : NvmOp} {err : Byte} {d : List Byte}

/-- An operation other than a Read ends with the error code of its target, 0 for none. -/
theorem execNvmOpDone_ends (h : s.hbus.nvm = some x) (ho : x.op ≠ 0) (he : nvmEnds x.eeprom err = true) :
    let t := (({ s with hbus := { s.hbus with nvm := none }, boot := { s.boot with nackRetry := false } } : State).wr
      F.HBUS_NVM_STAT_BUSY 0).wr F.HBUS_NVM_STAT_ERR err.toNat
    execNvmOpDone err d s = .next (if err = 0 then t.ev A.HBUS_EVENT 8
      else (t.bump F.HBUS_CNT2_NVM_FAIL).ev A.HBUS_EVENT 9) := by
  simp only [execNvmOpDone, h, he, if_neg ho]
  rfl

/-- A code with which no operation on the target ends is no end. -/
theorem execNvmOpDone_foreign (h : s.hbus.nvm = some x) (he : nvmEnds x.eeprom err = false) :
    execNvmOpDone err d s = .next s := by
  simp [execNvmOpDone, h, he]

end

/-- Settles O48: each clause is one branch of its command; the NVM operations are one GO with three codes. -/
theorem debugAccessAndNvm : Obligations.DebugAccessAndNvm := by
  unfold Obligations.DebugAccessAndNvm
  exact ⟨fun s => execAddrChanged_pending,
    fun line s => execAlertResponse_released,
    fun line s hu hl hw => (execAlertResponse_low hu hl).trans (congrArg Host.Outcome.next (if_pos hw)),
    fun line s hu hl hw => (execAlertResponse_low hu hl).trans (congrArg Host.Outcome.next (if_neg hw)),
    fun s => rfl,
    fun n s hu hb => execChallenge_sound (.inl rfl) hu hb,
    fun n b e s => execResponse_badLength,
    fun b p s hu hb ha hp => (execResponse_sound hu hb (State.writeSound_pec hp)).trans
      (congrArg Host.Outcome.next (State.response_busy ha)),
    fun b n p s hu hb ha hn ht hm ho hl hp => (execResponse_sound hu hb (State.writeSound_pec hp)).trans
      (congrArg Host.Outcome.next (State.response_evaluated ha hn ht hm ho hl)),
    fun n b e s => execUnlockPw_badLength,
    fun b s hu hb hpec ha hm ho hl => (execUnlockPw_sound hu hb (.inr ⟨rfl, hpec⟩)).trans
      (congrArg Host.Outcome.next (State.unlockPw_evaluated ha hm ho hl)),
    fun a s => execAttemptEvaluated_matches,
    fun b s ha => execAttemptEvaluated_fails ha rfl,
    fun n s => execJtagUnlockMailbox_running (.challenge n),
    fun b s => execJtagUnlockMailbox_running (.unlockPw b),
    fun b s => execJtagUnlockMailbox_running (.response b),
    fun s => execLockoutEnd_early,
    fun s => execLockoutEnd_due,
    fun s => execNonceExpire_due,
    fun v s hd hl hk => (execRelock_running hd).trans (congrArg Host.Outcome.next (State.relock_badKey hl hk)),
    fun v s hd hl hk h0 => (execRelock_running hd).trans (congrArg Host.Outcome.next (State.relock_keyed hl hk h0)),
    fun v s hd h => (execSvRaise_running hd).trans (congrArg Host.Outcome.next (State.svWrite_accepted h)),
    fun v s hd h => (execSvRaise_running hd).trans (congrArg Host.Outcome.next (State.svWrite_refused h)),
    fun x s => execSvRaised_programmed,
    fun ee fast len s hu => congrArg Host.Outcome.next (State.nvmGo_busDown hu),
    fun ee fast len s hu _ _ hc => ⟨_, rfl, State.nvmGo_starts (by decide) hu hc⟩,
    fun ee fast len s hu _ _ hc => ⟨_, rfl, State.nvmGo_starts (by decide) hu hc⟩,
    fun ee fast len s hu _ _ hc => ⟨_, rfl, State.nvmGo_starts (by decide) hu hc⟩,
    fun ee fast len s hu h1 h2 hb => congrArg Host.Outcome.next (State.nvmGo_refused (by decide) hu h1 h2 hb),
    fun ee fast len s hu h1 h2 hb => congrArg Host.Outcome.next (State.nvmGo_refused (by decide) hu h1 h2 hb),
    fun x d s h ho => execNvmOpDone_ends h ho rfl,
    fun x err d s h ho h0 he => (execNvmOpDone_ends h ho he).trans (congrArg Host.Outcome.next (if_neg h0)),
    fun x err d s => execNvmOpDone_foreign⟩

end Sys2Proof.Machine
end
